-- ==== Sys2Proof/Word.lean ====
section
/-!
DEFINITION. Word.lean: the word types of the SKM-9616 model and the type of its sparse stores.
Only types stand here; every operation over them stands under Machine/.
-/
namespace Sys2Proof

/-- One byte (R9: multi-byte fields are little-endian). -/
abbrev Byte := BitVec 8
/-- A 16-bit field: status codes, tags, addresses of devices. -/
abbrev U16 := BitVec 16
/-- A 32-bit field or host register. -/
abbrev U32 := BitVec 32
/-- A 64-bit field: the step counter, a Net Memory row. -/
abbrev U64 := BitVec 64
/-- A frame number (R14: 48 bits). -/
abbrev FrameNo := BitVec 48
/-- A sparse store: (key, value) pairs with strictly rising keys and no entry equal to the store's
default value, so that equal stores are equal lists. -/
abbrev SMap (α : Type) := List (Nat × α)

end Sys2Proof
end

