-- ==== Sys2Proof/Syntax.lean ====
section
/-!
DEFINITION. Syntax.lean: the commands of the SKM-9616, one constructor of Instr per row of
spec/opcode_table.json, with the row's operands. Opcode rows (groups 0x01 to 0x0F) carry the command
context and the payload fields of Command Reference; event rows carry what arrives from outside with
the event (a block, a marker, a reading) or name the unit at which the event falls.
-/
namespace Sys2Proof

/-- What the Plinth knows of an accepted command packet besides its payload: source (Table 15.4),
TAG, ACCSEQ (R328) and EFRAME (Table 15.1). -/
structure CmdCtx where
  src : BitVec 8
  tag : U16
  accSeq : U32
  eframe : FrameNo
deriving DecidableEq, Repr

/-- One sensor of PWR.WATCH (Table 16.3). -/
structure WatchSensor where
  saddr : BitVec 8
  sreg : Byte
  low : U16
  high : U16
  rsvd : U16
deriving DecidableEq, Repr

/-- One DMA element (Table 11.6); rsvd holds bytes 21 to 31. -/
structure DmaElem where
  src : U64
  dst : U64
  len : U32
  dir : Byte
  rsvd : BitVec 88
deriving DecidableEq, Repr

/-- The three rings of a function (R329). -/
inductive Ring where
  | cmd | rpl | evt
deriving DecidableEq, Repr

/-- A character of a control link as its receiver decodes it (R135): a data byte, a special symbol of Table 6.6, or a code error. -/
inductive LinkChar where
  | data (b : Byte)
  | k (b : Byte)
  | bad
deriving DecidableEq, Repr

/-- What stands between the delimiters of a control link (Table 15.5, R138). -/
inductive LinkFrame where
  /-- the characters between K27.7 and K29.7 as received, inserted sequences and commas among them (R137) -/
  | framed (chars : List LinkChar)
  /-- a 4,097th byte arrived before K29.7 -/
  | giant
  /-- K27.7 inside a packet: the partial packet is discarded -/
  | strayStart
  /-- K29.7 outside a packet -/
  | strayEnd
deriving DecidableEq, Repr

/-- What a receiver's checks say of a sequence: it passes; its CRC-8 fails (R367); it holds a code error or K30.7 (R138, R373). -/
inductive SeqCheck where
  | good | badCrc | coded
deriving DecidableEq, Repr

/-- SEQ of a time-sync sequence, its CRC character, and whether a code error or K30.7 stands in it (Table 18.1, R385). -/
structure SyncSeq where
  seq : Byte
  crc : Byte
  coded : Bool
deriving DecidableEq, Repr

/-- A K28.0 scope marker as received: its fields and its CRC character (Table 17.2), and whether a code error or K30.7 stands in it. -/
structure Marker where
  scope : U16
  frame : BitVec 24
  arg : U32
  crc : Byte
  coded : Bool
deriving DecidableEq, Repr

/-- Content of a system-exchange or pendant block as received: the 80 bits of Table 6.3 and the step at
which it left the sender's transmit map is known to the receiver only through CAL blocks. -/
abbrev Block := BitVec 80

/-- Power domains of Table 19.2. -/
inductive Domain where
  | aon | dbg | plinth | base
  | quad (q : Fin 4)
  | ser
  | region (k : Fin 24)
deriving DecidableEq, Repr

/-- A fabric clock generator: GCK g of a physical die, or RCK r of a physical region (R177). -/
inductive Gen where
  | gck (die : Fin 4) (g : Fin 32)
  | rck (region : Fin 24) (r : Fin 8)
deriving DecidableEq, Repr

/-- Values of the pins that the fabric samples at a clock edge (240 user I/O pins, R187). -/
abbrev IoPins := BitVec 240

/-- What the flash and fuses show the boot ROM for one slot (R443, R446): whether the image check
passes, its VER, FLOORSET, and the digests of its components. -/
structure SlotImage where
  valid : Bool
  target : U16
  bics : List U16
  ver : U32
  floorSet : U32
  length : U32
  loader : BitVec 384
  pair0 : BitVec 384
  pair1 : BitVec 384
  quadMgr : BitVec 384
  engine : BitVec 384
deriving DecidableEq, Repr

/-- What a DIMM's serial presence detect says (Table 10.5). -/
structure Dimm where
  /-- a registered DIMM with ECC of two 40-bit subchannels, built from x4 devices -/
  rdimm : Bool
  /-- rated data rate, MT/s -/
  rate : Nat
  ranks : Nat
  /-- capacity, GiB -/
  gib : Nat
  /-- device density, Gbit -/
  density : Nat
  /-- it has a thermal sensor -/
  sensor : Bool
deriving DecidableEq, Repr

/-- What BOOT reads from the board: DIMM population (R232), equalisation table (R140), health record
(R427). -/
structure BoardBoot where
  /-- serial presence detect of the 16 slots, slot 2 × channel + DIMM; none where the slot is empty (R232) -/
  dimms : List (Option Dimm)
  /-- the equalisation table as the flash holds it: its 16 entries and the stored CRC-32; none when it is absent (R140) -/
  eqTable : Option (List U32 × U32)
  /-- SERIAL of the newer valid health record, with its retired physical clusters; none when neither copy passes -/
  healthSerial : Option (BitVec 128)
deriving DecidableEq, Repr

/-- One answer to ARM.PROBE on a child link (R364, Table 16.16). -/
inductive ProbeAnswer where
  | noAnswer
  | denied
  | device (bic : U16) (assigned : Bool) (level : Byte) (addr : U16) (children : Byte) (serial : BitVec 128) (viaS7 : Bool)
deriving DecidableEq, Repr

/-- Fields of a NoC header slot (Table 13.2), as the 80-bit slot itself. -/
abbrev NocHeader := BitVec 80

/-- State of one payload word as its consumer's SEC-DED check finds it (R292). -/
inductive CheckOutcome where
  | clean | single | uncorr
deriving DecidableEq, Repr

/-- The commands: one constructor per row of spec/opcode_table.json. -/
inductive Instr where
  -- group 0x01 (Table 16.2)
  | identQuery (c : CmdCtx)
  | identEquiv (c : CmdCtx)
  | identCert (c : CmdCtx) (offset : U32)
  -- group 0x02 (Table 16.3)
  | pwrSet (c : CmdCtx) (target : Byte) (rsvd : BitVec 24)
  | pwrStatus (c : CmdCtx)
  | pwrWatch (c : CmdCtx) (period : U32) (ns chk : Byte) (rsvd : U16) (sensors : List WatchSensor)
  -- group 0x03 (Table 16.4)
  | framePause (c : CmdCtx) (part : Byte) (rsvd : BitVec 24) (dur : U32)
  | frameResume (c : CmdCtx) (part : Byte) (rsvd : BitVec 24)
  | frameStep (c : CmdCtx) (part rsvd : Byte) (count : U16)
  | frameMailbox (c : CmdCtx) (part lcl grp row : Byte) (value : U64)
  | frameStatus (c : CmdCtx) (part : Byte) (rsvd : BitVec 24)
  -- group 0x04 (Table 16.5)
  | maquetteLoad (c : CmdCtx) (part dies jsid flags : Byte) (addr len : U64)
  | maquetteStart (c : CmdCtx) (part : Byte) (rsvd : BitVec 24)
  | maquetteUnload (c : CmdCtx) (part : Byte) (rsvd : BitVec 24)
  | maquetteMigrate (c : CmdCtx) (part lcl tgt rsvd : Byte)
  | maquetteRegion (c : CmdCtx) (part : Byte) (mask : BitVec 24) (addr len : U64)
  | maquetteSwitch (c : CmdCtx) (part flags njsid rsvd : Byte) (saddr slen iaddr ilen caddr : U64)
  -- group 0x05 (Table 16.6)
  | transPool (c : CmdCtx) (base len : U64)
  | transMap (c : CmdCtx) (jsid size flags rsvd : Byte) (count rsvd2 : U16) (jaddr paddr : U64)
  | transUnmap (c : CmdCtx) (jsid size : Byte) (rsvd : U16) (count rsvd2 : U16) (jaddr : U64)
  | transResolve (c : CmdCtx) (jsid action sel n : Byte) (frame : FrameNo) (rsvd : U16) (seqs : List U32)
  | transFaults (c : CmdCtx) (jsid : Byte) (rsvd : BitVec 24)
  | transWalk (c : CmdCtx) (jsid : Byte) (rsvd : BitVec 56) (jaddr : U64)
  -- group 0x06 (Table 16.7)
  | dmaSubmit (c : CmdCtx) (count jsid : Byte) (rsvd : U16) (utag : U32) (elems : List DmaElem) (extra : Nat)
  | dmaResume (c : CmdCtx) (eng : Byte) (rsvd : BitVec 24) (lseq : U32)
  | dmaAbort (c : CmdCtx) (eng : Byte) (rsvd : BitVec 24) (lseq : U32)
  | dmaStatus (c : CmdCtx) (eng : Byte) (rsvd : BitVec 24)
  -- group 0x07 (Table 16.8)
  | keyLoad (c : CmdCtx) (kix form : Byte) (rsvd : U16) (pub : List Byte) (rsvd2 : BitVec 24) (wkey : List Byte)
  | keyBind (c : CmdCtx) (jsid kix flags rsvd : Byte)
  | keyUnbind (c : CmdCtx) (jsid : Byte) (rsvd : BitVec 24)
  | keyRetire (c : CmdCtx) (kix : Byte) (rsvd : BitVec 24)
  | keyRotate (c : CmdCtx) (jsid kix : Byte) (rsvd : U16)
  | keyStatus (c : CmdCtx)
  -- group 0x08 (Table 16.9)
  | laneStatus (c : CmdCtx) (lid : Byte) (rsvd : BitVec 24)
  | laneEq (c : CmdCtx) (lid op : Byte) (rsvd : U16)
  | laneRetrain (c : CmdCtx) (lid : Byte) (rsvd : BitVec 24)
  | laneWidth (c : CmdCtx) (link width : Byte) (rsvd : U16)
  | lanePattern (c : CmdCtx) (lid gen chk rsvd : Byte)
  | laneInject (c : CmdCtx) (lid len pos at_ : Byte) (rsvd : U32) (step : U64)
  | laneSleep (c : CmdCtx) (lid set : Byte) (rsvd : U16)
  -- group 0x09 (Table 16.10)
  | pendantPair (c : CmdCtx) (mode flags : Byte) (rsvd : U16)
  | pendantMode (c : CmdCtx) (mode sb part rsvd : Byte)
  | pendantRetire (c : CmdCtx) (side part : Byte) (rsvd : U16)
  | pendantPrefer (c : CmdCtx) (pref : Byte) (rsvd : BitVec 24)
  | pendantTakeover (c : CmdCtx)
  | pendantResync (c : CmdCtx) (part : Byte) (rsvd : BitVec 24)
  | pendantHandover (c : CmdCtx) (part : Byte) (rsvd : BitVec 24)
  | pendantDissolve (c : CmdCtx)
  | pendantStatus (c : CmdCtx)
  -- group 0x0A (Table 16.11)
  | maintStart (c : CmdCtx) (act : Byte) (rsvd : BitVec 24) (param : U64)
  | maintStop (c : CmdCtx) (act : Byte) (rsvd : BitVec 24)
  | maintStatus (c : CmdCtx)
  -- group 0x0B (Table 16.12)
  | timeRead (c : CmdCtx)
  | timeAdjust (c : CmdCtx) (offset : U64) (rate rsvd : U32)
  | timeCompat (c : CmdCtx) (op : Byte) (rsvd : BitVec 24) (tb0 tb1 tb2 tb3 : U64)
  | timeUpstream (c : CmdCtx) (link : Byte) (rsvd : BitVec 24)
  -- group 0x0C (Table 16.13)
  | trustQuote (c : CmdCtx) (nonce : BitVec 256) (mask : Byte) (rsvd : BitVec 24)
  | trustLog (c : CmdCtx) (offset : U32)
  | fwDownload (c : CmdCtx) (offset n : U32) (bytes : List Byte)
  | fwVerify (c : CmdCtx) (total : U32)
  | fwActivate (c : CmdCtx)
  | fwConfirm (c : CmdCtx)
  | fwStatus (c : CmdCtx)
  -- group 0x0D (Table 16.14)
  | dbgHalt (c : CmdCtx)
  | dbgRun (c : CmdCtx)
  | dbgAccess (c : CmdCtx) (op space jsid rsvd : Byte) (addr : U64) (n rsvd2 : U32) (wdata : List Byte)
  | castTake (c : CmdCtx) (part trig clk rsvd : Byte) (step : U64)
  | castSave (c : CmdCtx) (part : Byte) (rsvd : BitVec 56) (jaddr len : U64)
  | castRead (c : CmdCtx) (offset : U64) (n rsvd : U32)
  | castRestore (c : CmdCtx) (part : Byte) (rsvd : BitVec 56) (jaddr len : U64)
  -- group 0x0E (Table 16.15)
  | statsNoc (c : CmdCtx) (first n flags rsvd : Byte)
  | statsRead (c : CmdCtx) (sub rsvd : Byte) (unit : U16)
  | logRead (c : CmdCtx) (from_ : U32) (n : Byte) (rsvd : BitVec 24)
  | logSecurity (c : CmdCtx) (from_ : U32) (n : Byte) (rsvd : BitVec 24)
  -- group 0x0F (Table 16.16)
  | armProbe (c : CmdCtx)
  | armAssign (c : CmdCtx) (addr : U16) (level rsvd : Byte) (t1 t2 t3 t4 : U64)
  | armScope (c : CmdCtx) (part flags : Byte) (root : U16) (scope : U32)
  | consensusQuery (c : CmdCtx) (part : Byte) (rsvd : BitVec 24)
  | armStatus (c : CmdCtx)
  | consensusOverride (c : CmdCtx) (flags : Byte) (rsvd : BitVec 24)
  -- transports
  | commandRingFetch (fn : Fin 16) (slots : List Byte)
  | controlLinkPacket (link : Fin 8) (frame : LinkFrame)
  | childReplyForward (link : Fin 8) (bytes : List Byte)
  | backlogDrain (fn : Fin 16)
  | cmdDbWrite (fn : Fin 16) (value : U32)
  | rplHeadWrite (fn : Fin 16) (value : U32)
  | evtHeadWrite (fn : Fin 16) (value : U32)
  | ctrlEnableWrite (fn : Fin 16) (enable : Bool)
  | ctrlQreset (fn : Fin 16)
  | ringAccessError (fn : Fin 16) (ring : Ring)
  | intStatusClear (fn : Fin 16) (value : U32)
  | intMaskWrite (fn : Fin 16) (value : U32)
  | intModDelayExpiry (fn : Fin 16) (vector : Fin 4)
  | secalarmClear (value : U32)
  | dbgPolicyWrite (value : U32)
  | frameLoRead (fn : Fin 16)
  | countLoRead (fn : Fin 16)
  | registerWrite (fn : Fin 16) (devicePage : Bool) (offset : U16) (value : U32) (byteEnables : BitVec 4)
  -- debug port
  | authObserve
  | authChallengeObserve
  | authChallengeFull
  | authSubmitResponse
  | authDrop
  | lockoutExpiry
  | pktCtrlGo
  | pktCtrlClr
  | pktDataWrite (value : U32)
  | pktDataRead
  | vtDataWrite (value : U32)
  | vtDataRead
  | vtSerialByte (byte : Byte)
  | shDataRead
  | dapaccUpdate (wr : Bool) (reg : Byte) (data : U32)
  | dbgRstN (high : Bool)
  -- pins, reset, boot
  | wakeN
  | rstN (pendSide : Bool)
  | pwrOkRise (oscDly : BitVec 3)
  | pwrOkFall
  | oscDlyExpiry
  | boot (slotA slotB : SlotImage) (board : BoardBoot)
  | selfTestDone
  | trialSelfTestTimeout
  | flrVf (fn : Fin 16)
  | flrPf
  | pcieConventionalReset
  | d3hotEntry (fn : Fin 16)
  | domainWakeOnDemand (dom : Domain)
  | domainIdleExpiry (dom : Domain)
  | transitionStepEnd
  | watchSample (readings : List (Option U16)) (coolantOk : Bool) (blocks : List Block)
  | coolantOkLow
  | railSequenceStep (railsInTolerance : Bool)
  | railPowerGoodTimeout
  | railTelemetryRead (outOfTolerance : BitVec 8)
  | thermalHigh (reading : Nat)
  | thermalTrip (reading : Nat)
  | lifeBinSample (reading : Nat)
  | healthRecordWrite
  -- clocks and time
  | oscTrim (cycles markCycles : Nat)
  | pllLock
  | controlLinkUp (link : Fin 8)
  | controlLinkSyncLoss (link : Fin 8)
  | upstreamLoss
  | upstreamRegain (link : Fin 8) (t1 t2 t3 t4 : U64)
  | timeSyncSend
  | timeSyncReq (link : Fin 8) (seq : SyncSeq) (t1 : U64)
  | timeSyncResp (link : Fin 8) (seq : SyncSeq) (t2 t3 st : U64) (parentState : Byte) (t4 : U64)
  | servoHoldover
  | childProbe (answers : List ProbeAnswer) (equivs : List (List U16))
  -- frames
  | frameRelativeStep (part : Fin 4)
  | nmParityReread (part : Fin 4)
  | horizonTick (part : Fin 4)
  | accumulationClose (part : Fin 4)
  | signatureSend (part : Fin 4)
  | signatureCompare (part : Fin 4)
  | vetoSamplingPoint (part : Fin 4)
  | bankClear (part : Fin 4)
  | rowStaging (part : Fin 4)
  | goNoGo (part : Fin 4)
  | beyondReplay (part : Fin 4)
  | commitComplete
  | vetoMarker (link : Fin 8) (m : Marker)
  | replayMarker (link : Fin 8) (m : Marker)
  | holdMarker (link : Fin 8) (m : Marker)
  | leadInStart (part : Fin 4)
  | replayTick (part : Fin 4)
  | clearMarker (link : Fin 8) (m : Marker)
  | clearResendTimeout (part : Fin 4)
  | pauseMarker (link : Fin 8) (m : Marker)
  | restartMarker (link : Fin 8) (m : Marker)
  | pauseReq (link : Fin 8) (m : Marker)
  | resumeReq (link : Fin 8) (m : Marker)
  | stepReq (link : Fin 8) (m : Marker)
  | pauseExpiry (part : Fin 4)
  | cancelMarker (link : Fin 8) (m : Marker)
  | cancelReq (link : Fin 8) (m : Marker)
  | armTimeout (part : Fin 4)
  | measureMarker (link : Fin 8) (m : Marker)
  | uplatMarker (link : Fin 8) (m : Marker)
  | downmaxMarker (link : Fin 8) (m : Marker)
  | startReqMarker (link : Fin 8) (m : Marker)
  | paramsMarker (link : Fin 8) (m : Marker)
  | readyMarker (link : Fin 8) (m : Marker)
  | startMarker (link : Fin 8) (m : Marker)
  | startFailMarker (link : Fin 8) (m : Marker)
  | startAbortMarker (link : Fin 8) (m : Marker)
  | startTimeout (part : Fin 4)
  | horizonMark (link : Fin 8) (scope : U16) (frame : BitVec 24) (step : U32) (check : Option Byte)  -- the CRC-8 received; none: a character in code error
  -- lanes
  | blockReceived (lane : Fin 144) (block : Block)
  | huntTimeout (lane : Fin 144)
  | trainEqTimeout (lane : Fin 144)
  | trainBlock (lane : Fin 144) (payload : U64)
  | calBlock (lane : Fin 144) (payload : U64)
  | calbBlock (lane : Fin 144) (payload : U64)
  | lreqBlock (lane : Fin 144) (payload : U64)
  | lackBlock (lane : Fin 144) (payload : U64)
  | lackTimeout (link : Fin 17)
  | laneChangeStart (link : Fin 17)
  | laneResume (lane : Fin 144)
  | sleepBlock (lane : Fin 144) (payload : U64)
  | sleepSilentStep (lane : Fin 144)
  | relockTimeout (lane : Fin 144)
  -- pendant
  | pendantHb (payload : U64)
  | pendantTag (tag : U64)
  | pendantMsg (words : List U64)
  | xaddrXdata (addr : U64) (data : List U64)
  | stampBlock (payload : U64)
  | pairHello (side : Bool) (bic : U16) (equiv : List U16) (chain : List Byte) (nonce : BitVec 256) (pubKey : List Byte) (signature : BitVec 768)
  | pairKeychk (value : U64)
  | pairPeerTimeout
  | peerLost
  | mirrorSend
  | copyComplete
  | joinPhaseComplete (ok : Bool)
  -- memory responses and the network on chip
  | memoryResponse (pcl : Fin 96) (port : Fin 4) (r : Fin 16)
  | nocHeaderArrival (router : Fin 36) (input : Fin 11) (header : NocHeader) (cycles : Nat)
  | nocPacketConsumed (router : Fin 36) (port : Fin 7) (header : NocHeader) (words : List (BitVec 72 × CheckOutcome))
  | nocLost (init : Fin 59) (tag : Fin 64)
  | nocStall (router : Fin 36) (port : Fin 11)
  | hostStall (fn : Fin 16)
  | fwServiceWait (engine : Option (Fin 96)) (pair : Fin 2)
  | engineWatchdog (pcl : Fin 96)
  | engineRestarted (pcl : Fin 96) (digest : BitVec 384)
  | plinthMismatch (pair : Fin 2)
  | plinthPairReady (pair : Fin 2) (digest : BitVec 384)
  -- DRAM
  | dramReadComplete (line : Nat) (requester : Byte)
  | mergeFetchComplete (line : Nat)
  | rankMigrateLine (channel : Fin 8)
  | rankMigrateComplete (channel : Fin 8)
  | refreshInterval (channel : Fin 8) (rank : Fin 4) (bank : Fin 32) (bankBusy : Bool)
  | dimmTempRead (channel : Fin 8) (dimm : Fin 2) (celsius : Nat)
  | dramPatrolLine (channel : Fin 8)
  -- DMA and keys
  | dmaElementComplete (eng : Fin 16) (hostData : List Byte)
  | dmaElementFault (eng : Fin 16) (hostData : List Byte) (hostError : Bool)
  | keyFlushComplete (kix : Fin 64)
  | sweepLineVisit (jsid : Fin 16)
  | rotateDone (jsid : Fin 16)
  -- loads, migrations, casts
  | loadComplete (part : Fin 4)
  | migrateCopyComplete (die : Fin 4) (readBackOk : Bool)
  | regionRewriteComplete (part : Fin 4) (region : Fin 24) (readBackOk : Bool)
  | castCaptureComplete (part : Fin 4)
  | castCaptureBegin (part : Fin 4)
  | castFabricEdge (part : Fin 4)
  | switchPhaseComplete (part : Fin 4)
  | restoreComplete (part : Fin 4)
  -- reliability
  | raspSlot (pcl : Fin 96) (grp : Fin 16)
  | configMonitorRead (region : Fin 24)
  | recoveryReadback (part : Fin 4) (ok : Bool)
  | recoveryRelocation (part : Fin 4)
  -- the last rows of the table
  | equaliserConverged (lane : Fin 144)
  | pendantHeartbeatSend
  | injectionStepReached (lane : Fin 144)
  | tapInstructionUpdate (ir : Option Byte)
  | thermalAlertRelease (reading : Nat)
  | msixVectorUnmask (fn : Fin 16) (vector : Fin 4)
  | keyLoadCommit (kix : Fin 64)
  | fwVerifyComplete (image : SlotImage) (readBackOk : Bool)
  | consensusReplyTimeout (link : Fin 8)
  | fabricClockEdge (gen : Gen) (pins : IoPins)
  | pcieCompletionTimeout (eng : Fin 16)
  | d3hotExit (fn : Fin 16)
  | vfEnableWrite (enable : Bool) (numVfs : BitVec 8)
deriving DecidableEq, Repr

end Sys2Proof
end

