-- ==== Sys2Proof/Decode.lean ====
section
/-!
DEFINITION. Decode.lean: the command that a word spells by the table's bits. No row of spec/opcode_table.json
gives bits, so no word spells a command; the packets of chapter 15 are decoded in Machine/Packet.lean.
-/
namespace Sys2Proof

/-- The command of a table word: none, as the table gives no row any bits. -/
def decodeTableWord (_nbits _w : Nat) : Option Instr := none

end Sys2Proof
end

