-- ==== Sys2Proof/Config.lean ====
section
/-!
DEFINITION. Config.lean: what the spec fixes only by naming a published standard, and the values it leaves
open: constants without a body, so that no proof can lean on a value of them (log entries 3 and 4).
-/
namespace Sys2Proof

/-- Free values: the value of w bits that the n-th draw gives (log entry 4). -/
opaque Config.freeValue : (w : Nat) → Nat → BitVec w

/-- SHA-384 (FIPS 180-4), named by R170, R437 and R438 (log entry 3). -/
opaque Config.sha384 : List Byte → BitVec 384

/-- The ECDSA P-384 signature over a digest with the device's identity key (R441, log entry 3). -/
opaque Config.sign : BitVec 384 → BitVec 768

/-- The DER-coded public half of the device's key-exchange key and the P-384 agreement of R270: the
unwrapped job key for a caller's point and a wrapped key, none when the check of RFC 3394 or the point
fails (log entry 3). -/
opaque Config.unwrapKey : List Byte → List Byte → Option (BitVec 256)

/-- Place of a DRAM line below its channel, as LOC[43:3] of Table 20.7 (rank, bank, row, column, device), for a
population given by its ranks per channel: a function the spec names as fixed and does not give (R233, log entry 3). -/
opaque Config.dramPlace : Nat → Nat → Nat

/-- The reply to a debug challenge that verifies: chip id, nonce, level and response (R453, log entry 3). -/
opaque Config.authOk : BitVec 64 → BitVec 256 → BitVec 2 → List Byte → Bool

/-- GMAC (NIST SP 800-38D) over the pendant payloads of an interval, under a key and an initial vector that holds the step
counter and the direction; uninterpreted. -/
opaque Config.gmac : BitVec 256 → Nat → List (BitVec 72) → BitVec 64

/-- Public half of an ephemeral P-384 key (R298, log entry 3). -/
opaque Config.ecPublic : BitVec 384 → List Byte

/-- P-384 agreement of an ephemeral key with a peer's public key (R281, log entry 3). -/
opaque Config.ecdh : BitVec 384 → List Byte → List Byte

/-- HKDF-SHA-384 (R298): w bits from a secret, a salt and an info string (log entry 3). -/
opaque Config.hkdf : (w : Nat) → List Byte → List Byte → List Byte → BitVec w

/-- The certificate chain of a HELLO is good and its signature covers these bytes (R298, log entry 3). -/
opaque Config.helloOk : List Byte → List Byte → BitVec 768 → Bool

/-- The leading 72 bits of AES-256 in counter mode over the 128-bit counter block of R281, by key and block (log entry 3). -/
opaque Config.pendantStream : BitVec 256 → BitVec 128 → BitVec 72

/-- Ciphertext of AES-256-GCM without additional data (NIST SP 800-38D, R266), by key, 96-bit IV and plaintext (log entry 3). -/
opaque Config.gcmCipher : BitVec 256 → BitVec 96 → List Byte → BitVec 512

/-- The 128-bit tag of AES-256-GCM, by the same three (log entry 3). -/
opaque Config.gcmTag : BitVec 256 → BitVec 96 → List Byte → BitVec 128

/-- Spares that production test assigned by fuses, by unit, before the bound of R423 (log entry 4). -/
opaque Config.fuseSpares : Nat → Nat

/-- What DRAM holds of a line that is unwritten, poisoned or damaged: the spec gives no content (log entry 4). -/
opaque Config.rawLine : Nat → BitVec 512

/-- What the tag array holds for a line that is unwritten, poisoned or damaged: the spec gives no content (log entry 4). -/
opaque Config.rawTag : Nat → BitVec 64

/-! ### What the routing frames connect (R176)

The routing frames follow a database the spec does not give: what they join is an uninterpreted function of their content (log entry 9).
Regions, clusters, block memories and slices are numbered within their die. -/

/-- What routing drives. -/
inductive Sink where
  /-- input of a cell: 0 A to 3 D, 4 SR, 5 CE -/
  | cell (region cell input : Nat)
  /-- carry-in of the first cell of a column of tiles -/
  | chain (region column : Nat)
  /-- write port of a cluster: data 0 to 63, register number 64 to 67, write enable 68 -/
  | port (cluster bit : Nat)
  /-- port of a block memory: address 0 to 10, data 11 to 46, enable 47, write enable 48 -/
  | bmem (block port bit : Nat)
  /-- slice: X 0 to 35, Z 36 to 71, control 72 to 135 -/
  | slice (slice bit : Nat)
  /-- user pin: level 0, output enable 1 -/
  | pin (pin bit : Nat)
deriving DecidableEq, Repr, Inhabited

/-- What routing takes a signal from. -/
inductive Source where
  | const (level : Bool)
  | cell (region cell : Nat)
  | orBit (cluster reg bit : Nat)
  | bmem (block port bit : Nat)
  /-- output Y 0 to 35, flags OVF 36 and SAT 37 -/
  | slice (slice bit : Nat)
  | pin (pin : Nat)
deriving DecidableEq, Repr, Inhabited

/-- What routing binds to a clock generator (R181, R200, R211). -/
inductive Clocked where
  | port (cluster : Nat)
  | bmem (block port : Nat)
  | slice (slice : Nat)
deriving DecidableEq, Repr

/-- Source that a die's routing frames join to a sink. -/
opaque Config.route : List (Nat × Byte) → Sink → Source

/-- Flits that each virtual channel's buffer at a router's output holds (13 R286). -/
opaque Config.nocDepth : Nat

/-- Generator that a die's routing frames bind, as a CLKSEL code of Table 8.1. -/
opaque Config.clockOf : List (Nat × Byte) → Clocked → Nat

/-- Organisation of a block memory's port that a die's routing frames set (R199): 0 for 18 bits, 1 for 9, 2 for 36. -/
opaque Config.orgOf : List (Nat × Byte) → Nat → Nat → Fin 3

/-- A net of a die: a routed input, a source, the LUT or the carry-out of a cell. -/
inductive Net where
  | sink (x : Sink)
  | source (x : Source)
  | lut (region cell : Nat)
  | carry (region cell : Nat)
deriving DecidableEq, Repr

/-- Level of a net that nothing settles, by the time and the die: a loop of LUTs, the logic of a region that is stopped (log entry 9). -/
opaque Config.unsettled : Nat → Nat → Net → Bool

end Sys2Proof
end

