-- ==== Sys2Proof/Machine/Codes.lean ====
section
/-!
DEFINITION. Codes.lean: the status and event codes of Table 15.6 and the log-only causes of Table 20.8.
-/
namespace Sys2Proof.Machine

/-- OK -/
abbrev St.ok : Nat := 0x0000
/-- ACCEPTED -/
abbrev St.accepted : Nat := 0x0001
/-- BAD_OPCODE -/
abbrev St.badOpcode : Nat := 0x0100
/-- ARG_RANGE -/
abbrev St.argRange : Nat := 0x0101
/-- LEN_SHORT -/
abbrev St.lenShort : Nat := 0x0102
/-- LEN_LONG -/
abbrev St.lenLong : Nat := 0x0103
/-- LEN_PAYLOAD -/
abbrev St.lenPayload : Nat := 0x0104
/-- LEN_MISMATCH -/
abbrev St.lenMismatch : Nat := 0x0105
/-- FRAME_FIELD -/
abbrev St.frameField : Nat := 0x0106
/-- PATH_INVALID -/
abbrev St.pathInvalid : Nat := 0x0107
/-- FRAME_GEOMETRY -/
abbrev St.frameGeometry : Nat := 0x0140
/-- FRAME_TOO_SHORT -/
abbrev St.frameTooShort : Nat := 0x0141
/-- STEP_COUNT -/
abbrev St.stepCount : Nat := 0x0142
/-- ROUTE_INVALID -/
abbrev St.routeInvalid : Nat := 0x0150
/-- MIGRATE_TARGET -/
abbrev St.migrateTarget : Nat := 0x0151
/-- LINK_TOPOLOGY -/
abbrev St.linkTopology : Nat := 0x0152
/-- LINK_CLASS -/
abbrev St.linkClass : Nat := 0x0153
/-- IMAGE_FORMAT -/
abbrev St.imageFormat : Nat := 0x0160
/-- IMAGE_TARGET -/
abbrev St.imageTarget : Nat := 0x0161
/-- IMAGE_DIGEST -/
abbrev St.imageDigest : Nat := 0x0162
/-- IMAGE_BIC -/
abbrev St.imageBic : Nat := 0x0163
/-- IMAGE_PLACE -/
abbrev St.imagePlace : Nat := 0x0164
/-- SECTION_INVALID -/
abbrev St.sectionInvalid : Nat := 0x0165
/-- IMAGE_GEOMETRY -/
abbrev St.imageGeometry : Nat := 0x0166
/-- MAP_ALIGN -/
abbrev St.mapAlign : Nat := 0x0170
/-- MAP_CONFLICT -/
abbrev St.mapConflict : Nat := 0x0171
/-- DMA_LIST -/
abbrev St.dmaList : Nat := 0x0172
/-- CAST_MISMATCH -/
abbrev St.castMismatch : Nat := 0x0173
/-- KEY_FULL -/
abbrev St.keyFull : Nat := 0x0174
/-- KEY_UNWRAP -/
abbrev St.keyUnwrap : Nat := 0x0175
/-- PAIR_BIC -/
abbrev St.pairBic : Nat := 0x0180
/-- PAIR_WIRING -/
abbrev St.pairWiring : Nat := 0x0181
/-- PAIR_LATENCY -/
abbrev St.pairLatency : Nat := 0x0182
/-- RESYNC_MISMATCH -/
abbrev St.resyncMismatch : Nat := 0x0183
/-- PAIR_IMAGE -/
abbrev St.pairImage : Nat := 0x0184
/-- WRONG_STATE -/
abbrev St.wrongState : Nat := 0x0200
/-- BUSY_MAINT -/
abbrev St.busyMaint : Nat := 0x0201
/-- PWR_BUSY -/
abbrev St.pwrBusy : Nat := 0x0202
/-- ARM_TIMEOUT -/
abbrev St.armTimeout : Nat := 0x0203
/-- MAILBOX_FULL -/
abbrev St.mailboxFull : Nat := 0x0210
/-- MIGRATE_BUSY -/
abbrev St.migrateBusy : Nat := 0x0211
/-- RETRAIN_YIELDED -/
abbrev St.retrainYielded : Nat := 0x0212
/-- LANE_IN_USE -/
abbrev St.laneInUse : Nat := 0x0213
/-- LANE_BUSY -/
abbrev St.laneBusy : Nat := 0x0214
/-- REGION_BUSY -/
abbrev St.regionBusy : Nat := 0x0215
/-- ADMIT_FULL -/
abbrev St.admitFull : Nat := 0x0216
/-- MEM_UNAVAILABLE -/
abbrev St.memUnavailable : Nat := 0x0217
/-- POOL_FULL -/
abbrev St.poolFull : Nat := 0x0218
/-- DMA_BUSY -/
abbrev St.dmaBusy : Nat := 0x0219
/-- SWITCH_BUSY -/
abbrev St.switchBusy : Nat := 0x021A
/-- PAIR_BUSY -/
abbrev St.pairBusy : Nat := 0x021B
/-- CMD_BUSY -/
abbrev St.cmdBusy : Nat := 0x021C
/-- SUPERSEDED -/
abbrev St.superseded : Nat := 0x021D
/-- CANCELLED -/
abbrev St.cancelled : Nat := 0x021E
/-- CMD_ABORTED -/
abbrev St.cmdAborted : Nat := 0x0300
/-- REPLAY_LATE -/
abbrev St.replayLate : Nat := 0x0320
/-- REPLAY_LIMIT -/
abbrev St.replayLimit : Nat := 0x0321
/-- NM_STATE_LOST -/
abbrev St.nmStateLost : Nat := 0x0322
/-- ENGINE_FAULT -/
abbrev St.engineFault : Nat := 0x0323
/-- MIGRATE_FAILED -/
abbrev St.migrateFailed : Nat := 0x0324
/-- LOAD_FAULT -/
abbrev St.loadFault : Nat := 0x0325
/-- RECONFIG_FAILED -/
abbrev St.reconfigFailed : Nat := 0x0326
/-- FABRIC_CFG_LOST -/
abbrev St.fabricCfgLost : Nat := 0x0327
/-- HARD_UNCORR -/
abbrev St.hardUncorr : Nat := 0x0328
/-- SLICE_UCODE -/
abbrev St.sliceUcode : Nat := 0x0329
/-- ADMIT_OVERRUN -/
abbrev St.admitOverrun : Nat := 0x032A
/-- DRAM_UNCORR -/
abbrev St.dramUncorr : Nat := 0x032B
/-- RANK_RETIRED -/
abbrev St.rankRetired : Nat := 0x032C
/-- SPARE_EXHAUSTED -/
abbrev St.spareExhausted : Nat := 0x032D
/-- MEM_POPULATION -/
abbrev St.memPopulation : Nat := 0x032E
/-- NO_SPARE -/
abbrev St.noSpare : Nat := 0x032F
/-- EXCH_CONFLICT -/
abbrev St.exchConflict : Nat := 0x0330
/-- STALE_DROP -/
abbrev St.staleDrop : Nat := 0x0331
/-- COPY_REPAIR -/
abbrev St.copyRepair : Nat := 0x0332
/-- COPY_DIFFER -/
abbrev St.copyDiffer : Nat := 0x0333
/-- COPY_LOST -/
abbrev St.copyLost : Nat := 0x0334
/-- LANE_SLIP -/
abbrev St.laneSlip : Nat := 0x0335
/-- LANE_NO_PEER -/
abbrev St.laneNoPeer : Nat := 0x0336
/-- LANE_DOWN -/
abbrev St.laneDown : Nat := 0x0337
/-- EQ_TABLE_DEFAULT -/
abbrev St.eqTableDefault : Nat := 0x0338
/-- FABRIC_CFG_FIX -/
abbrev St.fabricCfgFix : Nat := 0x0339
/-- HARD_FIX -/
abbrev St.hardFix : Nat := 0x033A
/-- SLICE_BAD_UOP -/
abbrev St.sliceBadUop : Nat := 0x033B
/-- CHAN_MISS -/
abbrev St.chanMiss : Nat := 0x033C
/-- DRAM_FIX -/
abbrev St.dramFix : Nat := 0x033D
/-- POISON_WRITE -/
abbrev St.poisonWrite : Nat := 0x033E
/-- FMIN_DIFFER -/
abbrev St.fminDiffer : Nat := 0x033F
/-- TRANS_FAULT -/
abbrev St.transFault : Nat := 0x0340
/-- DOORBELL_BAD -/
abbrev St.doorbellBad : Nat := 0x0341
/-- CAST_LOST -/
abbrev St.castLost : Nat := 0x0342
/-- SWITCH_FAILED -/
abbrev St.switchFailed : Nat := 0x0343
/-- TAG_FAIL -/
abbrev St.tagFail : Nat := 0x0344
/-- KEY_RETIRED -/
abbrev St.keyRetired : Nat := 0x0345
/-- ROTATE_AUTO -/
abbrev St.rotateAuto : Nat := 0x0346
/-- ROTATE_DONE -/
abbrev St.rotateDone : Nat := 0x0347
/-- NOC_HDR_PARITY -/
abbrev St.nocHdrParity : Nat := 0x0348
/-- NOC_FIX -/
abbrev St.nocFix : Nat := 0x0349
/-- NOC_UNCORR -/
abbrev St.nocUncorr : Nat := 0x034A
/-- NOC_LOST -/
abbrev St.nocLost : Nat := 0x034B
/-- HOST_STALL -/
abbrev St.hostStall : Nat := 0x034C
/-- FW_SERVICE_WAIT -/
abbrev St.fwServiceWait : Nat := 0x034D
/-- NOC_STALL -/
abbrev St.nocStall : Nat := 0x034E
/-- EVENT_LOST -/
abbrev St.eventLost : Nat := 0x034F
/-- PAIR_AUTH -/
abbrev St.pairAuth : Nat := 0x0350
/-- SIG_MISMATCH -/
abbrev St.sigMismatch : Nat := 0x0351
/-- TWIN_RETIRED -/
abbrev St.twinRetired : Nat := 0x0352
/-- TWIN_FENCED -/
abbrev St.twinFenced : Nat := 0x0353
/-- STANDBY_STALE -/
abbrev St.standbyStale : Nat := 0x0354
/-- RESYNC_FAILED -/
abbrev St.resyncFailed : Nat := 0x0355
/-- JOIN_DONE -/
abbrev St.joinDone : Nat := 0x0356
/-- JS_DENIED -/
abbrev St.jsDenied : Nat := 0x0401
/-- DBG_DENIED -/
abbrev St.dbgDenied : Nat := 0x0402
/-- PATH_DENIED -/
abbrev St.pathDenied : Nat := 0x0403
/-- WORD_FIX -/
abbrev St.wordFix : Nat := 0x0501
/-- WORD_UNCORR -/
abbrev St.wordUncorr : Nat := 0x0502
/-- NM_PARITY -/
abbrev St.nmParity : Nat := 0x0503
/-- REPAIR_SOFT -/
abbrev St.repairSoft : Nat := 0x0504
/-- UNIT_RETIRED -/
abbrev St.unitRetired : Nat := 0x0505
/-- UNIT_CANDIDATE -/
abbrev St.unitCandidate : Nat := 0x0506
/-- DEBUG_WRITE -/
abbrev St.debugWrite : Nat := 0x0507
/-- BIC_OVERRIDE -/
abbrev St.bicOverride : Nat := 0x0508
/-- HEALTH_RESET -/
abbrev St.healthReset : Nat := 0x0509
/-- PLINTH_MISMATCH -/
abbrev St.plinthMismatch : Nat := 0x050A
/-- OUT_OF_STEP -/
abbrev St.outOfStep : Nat := 0x050B
/-- OSC_TRIM -/
abbrev St.oscTrim : Nat := 0x050C
/-- DEBUG_HALT -/
abbrev St.debugHalt : Nat := 0x050D
/-- THERMAL_HIGH (Table 24.7) -/
abbrev St.thermalHigh : Nat := 0x050E
/-- THERMAL_TRIP -/
abbrev St.thermalTrip : Nat := 0x050F
/-- RAIL_RANGE -/
abbrev St.railRange : Nat := 0x0510
/-- ARM_LATE -/
abbrev St.armLate : Nat := 0x0511
/-- CLK_COAST -/
abbrev St.clkCoast : Nat := 0x0512
/-- LANE_OUT -/
abbrev St.laneOut : Nat := 0x0513
/-- MARKER_LOST -/
abbrev St.markerLost : Nat := 0x0514
/-- HOLD_REMOTE -/
abbrev St.holdRemote : Nat := 0x0515

end Sys2Proof.Machine
end

