-- ==== Sys2Proof/Machine/Bits.lean ====
section
/-!
DEFINITION. Bits.lean: little-endian byte strings (R9) and small helpers over lists and numbers.
-/
namespace Sys2Proof.Machine

/-- The n bytes of v, least significant first (R9). -/
def leBytes (n v : Nat) : List Byte := (List.range n).map fun i => BitVec.ofNat 8 (v / 256 ^ i)

/-- The number that bytes spell, least significant first (R9). -/
def leNat : List Byte → Nat
  | [] => 0
  | b :: r => b.toNat + 256 * leNat r

/-- n bytes from offset off. -/
def bytesAt (l : List Byte) (off n : Nat) : List Byte := (l.drop off).take n

/-- The field of n bytes at offset off, little-endian; missing bytes read 0. -/
def fieldAt (l : List Byte) (off n : Nat) : Nat := leNat (bytesAt l off n)

/-- n bytes of 0. -/
def zeros (n : Nat) : List Byte := List.replicate n 0#8

/-- Bit i of a number. -/
def natBit (v i : Nat) : Bool := v / 2 ^ i % 2 = 1

/-- Bits lo to lo + n - 1 of a number. -/
def natBits (v lo n : Nat) : Nat := v / 2 ^ lo % 2 ^ n

/-- 1 for true, 0 for false. -/
def bitNat (b : Bool) : Nat := if b then 1 else 0

/-- A count that stops at 2^32 - 1 (R432). -/
def sat32 (n : Nat) : Nat := min n 0xFFFFFFFF

/-- The indexes of the bits that are 1 in the low n bits of v. -/
def onesOf (v n : Nat) : List Nat := (List.range n).filter fun i => natBit v i

/-- The number whose bits listed are 1. -/
def maskOf (l : List Nat) : Nat := l.foldl (fun a i => if natBit a i then a else a + 2 ^ i) 0

/-- v read as two's complement in w bits. -/
def toSigned (w v : Nat) : Int := if v % 2 ^ w < 2 ^ (w - 1) then (v % 2 ^ w : Nat) else (v % 2 ^ w : Nat) - (2 ^ w : Nat)

/-- The element at index i, or d. -/
def nth {α : Type} (d : α) (l : List α) (i : Nat) : α := (l[i]?).getD d

/-- The list with index i replaced. -/
def setNth {α : Type} (l : List α) (i : Nat) (v : α) : List α := l.set i v

/-- Smallest multiple of m at or above n. -/
def roundUp (n m : Nat) : Nat := (n + m - 1) / m * m

/-- Duration of t microseconds in step periods (0.625 ns, R14). -/
def usSteps (t : Nat) : Nat := t * 1600

end Sys2Proof.Machine
end

