-- ==== Sys2Proof/Machine/Maps.lean ====
section
/-!
DEFINITION. Maps.lean: the operations over sparse stores (SMap): reading with the default of the store,
writing so that keys stay strictly rising and no entry equals the default, and whole-range changes.
-/
namespace Sys2Proof.Machine

/-- The value a sparse store holds at key k; d where no entry stands. -/
def smGet {α : Type} (d : α) : SMap α → Nat → α
  | [], _ => d
  | (j, v) :: r, k => if j = k then v else smGet d r k

/-- The store with value v at key k; an entry equal to the default d is not kept. -/
def smSet {α : Type} [DecidableEq α] (d : α) : SMap α → Nat → α → SMap α
  | [], k, v => if v = d then [] else [(k, v)]
  | (j, w) :: r, k, v =>
    if k < j then (if v = d then (j, w) :: r else (k, v) :: (j, w) :: r)
    else if j = k then (if v = d then r else (k, v) :: r)
    else (j, w) :: smSet d r k v

/-- Every key at or above lo, keys strictly rising, no entry equal to d. -/
def smWfFrom {α : Type} [DecidableEq α] (d : α) : Nat → SMap α → Bool
  | _, [] => true
  | lo, (j, v) :: r => decide (lo ≤ j) && decide (v ≠ d) && smWfFrom d (j + 1) r

/-- The canonical form of a sparse store. -/
def smWf {α : Type} [DecidableEq α] (d : α) (m : SMap α) : Bool := smWfFrom d 0 m

/-- The store without the entries whose key satisfies p. -/
def smDrop {α : Type} (p : Nat → Bool) (m : SMap α) : SMap α := m.filter fun e => !p e.1

/-- The store with every (key, value) of the list written, first to last. -/
def smPutAll {α : Type} [DecidableEq α] (d : α) (m : SMap α) (l : List (Nat × α)) : SMap α :=
  l.foldl (fun a e => smSet d a e.1 e.2) m

/-- The canonical form of the DRAM's byte list: addresses strictly rising, no entry equal to the 0 that an
unlisted address reads as (R268). -/
abbrev Memory.wf (m : SMap Byte) : Bool := smWf 0#8 m

end Sys2Proof.Machine
end

