-- ==== Sys2Proof/Machine/State.lean ====
section
/-!
DEFINITION. State.lean: the state of the SKM-9616 as plain data, the two ways a step can stop, and the
state right after a device reset. Every docstring of a field names its width, the rule of spec/ that
names it and its value at reset; DC marks a value the model chose (log entry 2), the rest is the spec's.
-/
namespace Sys2Proof.Machine

/-- Identity of the part. -/
structure Ident where
  /-- Behaviour Identity Code; 16 bits; 00 R2, R5; reset 0x0001 -/
  bic : U16 := 1
  /-- ordering code, 0 AE, 1 LE; 8 bits; 16 R345, 00 R1; reset 0 (DC) -/
  code : Byte := 0
  /-- SERIAL; 16 bytes; 16 R345; reset 0 (DC) -/
  serial : BitVec 128 := 0
  /-- BIC equivalence list; list of 16-bit BICs; 00 R3; reset empty (DC: the first stepping's list) -/
  equiv : List U16 := []
  /-- DER certificate chain, leaf first; bytes; 21 R437; reset empty (DC) -/
  certs : List Byte := []
  /-- OSC_DLY straps as latched; 3 bits; 18 R394; reset 0 (DC: strap) -/
  oscDly : BitVec 3 := 0
  /-- PEND_SIDE strap as latched, 1 side B; 1 bit; 14 R297; reset 0 (DC: strap) -/
  pendSide : Bool := false
deriving DecidableEq, Repr

/-- Device states of Table 19.1. -/
inductive PwrState where
  | run | idle | sleep | deep | off | watch
deriving DecidableEq, Repr

/-- Transition steps of Table 19.3. -/
inductive TStep where
  | quiesce | clock | memory | domains | rails
deriving DecidableEq, Repr

/-- Domain conditions of R406. -/
inductive DomCond where
  | on | ret | off
deriving DecidableEq, Repr

/-- A power transition in progress (R408). -/
structure Transition where
  /-- state reported in PENDING -/
  target : PwrState
  /-- true while entry steps are taken, false during exit steps -/
  entering : Bool
  /-- steps still to end, the first one in progress -/
  steps : List TStep
  /-- the PWR.SET that waits for its completion event -/
  ctx : Option CmdCtx
  /-- a second PWR.SET that redirects (R409): its target and command -/
  redirect : Option (PwrState × CmdCtx)
  /-- WAKE_N was asserted during the entry (R410) -/
  woken : Bool
deriving DecidableEq, Repr

/-- Power, pins, Watch and telemetry (chapters 19 and 24). -/
structure Power where
  /-- device state; code of Table 19.1; 19 R402, 23 R470 DEV_STATUS.PWR; reset Run (0) -/
  st : PwrState := .run
  /-- transition in progress; 19 R408; reset none -/
  trans : Option Transition := none
  /-- domains not in the condition their state gives, woken on demand, with the time of the last access; 19 R407; reset none -/
  woken : List (Domain × Nat) := []
  /-- entry steps in effect, first taken first; 19 R408; reset none -/
  taken : List TStep := []
  /-- state whose column of Table 19.2 the domains follow; 19 R406; reset Run -/
  dom : PwrState := .run
  /-- rails enabled, bit i for step i+1 of Table 24.2; 8 bits; 24 R481; reset all on -/
  rails : BitVec 8 := 0xFF#8
  /-- rail sequencer: step of Table 24.2 being brought up, 1 to 8; 24 R481; reset none -/
  railStep : Option Nat := none
  /-- time at which the sequencer enabled that step; 24 R482; reset 0 -/
  railAt : Nat := 0
  /-- PD_AON flag that the Plinth logs as RAIL_RANGE at the next boot; 24 R482; reset 0 -/
  railFlag : Bool := false
  /-- PD_AON flag of a thermal trip; 24 R491; reset 0 -/
  tripFlag : Bool := false
  /-- telemetry reads in a row that found a rail out of tolerance, by step of Table 24.2; 24 R487; reset 0 -/
  railBad : List Nat := []
  /-- PWR_OK as the board drives it; 1 bit; 24 R483; reset 1 (DC: the board has driven it high) -/
  pwrOk : Bool := true
  /-- ALERT_N held by a rail out of tolerance; 24 R487; reset 0 -/
  alertRail : Bool := false
  /-- ALERT_N held by a Watch violation until the next accepted PWR.SET; 19 R413; reset 0 -/
  alertWatch : Bool := false
  /-- ALERT_N held by COOLANT_OK low; 19 R413; reset 0 -/
  alertHold : Bool := false
  /-- ALERT_N held by the thermal alarm; 24 R491; reset 0 -/
  alertThermal : Bool := false
  /-- causes that assert FAULT_N, as log cause codes; 24 R484; reset none -/
  faults : List Nat := []
  /-- SECALARM status bit and SEC_ALARM_N; 1 bit; 23 R476; reset 0 -/
  secAlarm : Bool := false
  /-- Watch sampling period in ms; 32 bits; 19 R412; reset 1,000 -/
  wPeriod : U32 := 1000
  /-- Watch checks CHK; 8 bits; 19 R412; reset 0 -/
  wChk : Byte := 0
  /-- Watch sensors; up to 8; 19 R412; reset none -/
  wSensors : List WatchSensor := []
  /-- time of entry to Watch; 19 R412; reset 0 -/
  wEntry : Nat := 0
  /-- multiples of the sampling period that a sample has taken since entry to Watch; 19 R412; reset 0 -/
  wDone : Nat := 0
  /-- digest of the running image retained in PD_AON; 48 bytes; 21 R440; reset 0 -/
  retained : BitVec 384 := 0
  /-- lifetime bins, seconds per bin; 20 R434; reset 0 -/
  bins : List Nat := []
  /-- LIFE_USED candidate record written; 20 R434; reset 0 -/
  lifeDone : Bool := false
deriving DecidableEq, Repr

/-- Servo states of Table 18.3. -/
inductive Servo where
  | locked | acquiring | holdover | free
deriving DecidableEq, Repr

/-- Exchange state of one upstream link (R386). -/
structure SyncLink where
  /-- SEQ of the last REQ; 8 bits; 18 R385; reset 0 -/
  seq : Byte := 0
  /-- T1 of the REQ awaiting its RESP, in 1/64 step; 18 R386; reset none -/
  t1 : Option Nat := none
  /-- e found by the latest exchange, in 1/64 step; 18 R386; reset 0 -/
  e : Int := 0
  /-- time of the latest exchange; 18 R389; reset none -/
  at_ : Option Nat := none
  /-- the link's character clock is within 20 ppm of the current one; 18 R389; reset 0 -/
  ppmOk : Bool := false
deriving DecidableEq, Repr

/-- Clocks and time base (chapter 18). -/
structure Clock where
  /-- time since reset in step periods, whether or not the step counter runs: the model's own field -/
  now : Nat := 0
  /-- step counter; 64 bits; 18 R384; reset 0 -/
  count : U64 := 0
  /-- the step-clock PLL is locked and the counter runs; 18 R384; reset 0 -/
  pll : Bool := false
  /-- the counter is assigned; 18 R387; reset 0 -/
  counterOk : Bool := false
  /-- current upstream is S7; 1 bit; 18 R389, 23 R474 TSTAT.SRC; reset 0 -/
  upS7 : Bool := false
  /-- CLK_COAST; 1 bit; 18 R391; reset 0 -/
  coast : Bool := false
  /-- exchanges on S0; 18 R386; reset empty -/
  s0 : SyncLink := {}
  /-- exchanges on S7; 18 R386; reset empty -/
  s7 : SyncLink := {}
  /-- output phase interpolator in 1/64 step; 18 R387; reset 0 -/
  phase : Int := 0
  /-- OFFSET; 64-bit two's complement steps; 18 R395; reset 0 -/
  offset : U64 := 0
  /-- fraction of OFFSET; 32 bits; 18 R395; reset 0 -/
  frac : U32 := 0
  /-- RATE; 32-bit two's complement; 18 R395; reset 0 -/
  rate : U32 := 0
  /-- servo state; 2 bits; 18 R396, 23 R470 TSTAT.SERVO; reset 3 (free) -/
  servo : Servo := .free
  /-- consecutive exchanges within 4 steps; 18 R396; reset 0 -/
  good : Nat := 0
  /-- time of the last valid RESP on the current upstream; 18 R396; reset 0 -/
  lastResp : Nat := 0
  /-- D0 of the compatibility view; 64 bits; 18 R399; reset 0 -/
  d0 : U64 := 0
  /-- D1; 64 bits; 18 R399; reset 0 -/
  d1 : U64 := 0
  /-- D2; 64 bits; 18 R399; reset 0 -/
  d2 : U64 := 0
  /-- D3; 64 bits; 18 R399; reset 0 -/
  d3 : U64 := 0
  /-- oscillator trim code; 10 bits; 18 R393; reset mid-scale 512 -/
  trim : BitVec 10 := 512
  /-- step clock halted by DBG.HALT, with the halt step; 22 R456; reset none -/
  halt : Option U64 := none
  /-- partitions whose hold the halt raised; 22 R457; reset none -/
  haltHeld : List Nat := []
  /-- until this time K28.0 and K28.3 are accepted from both links; 18 R390; reset 0 -/
  dualUntil : Nat := 0
  /-- markers accepted in that interval (TYPE, SCOPE, FRAME, ARG); 18 R390; reset none -/
  dualSeen : List (Nat × Nat × Nat × Nat) := []
  /-- OSC_DLY delay in progress: its end; 18 R394; reset none -/
  oscStart : Option Nat := none
deriving DecidableEq, Repr

/-- A command deferred or awaiting completion: command and opcode. -/
structure Waiter where
  ctx : CmdCtx
  opcode : Nat
deriving DecidableEq, Repr

/-- A reply, or a completion event, that waits for its turn (R336). -/
structure HeldReply where
  ctx : CmdCtx
  opcode : Nat
  event : Bool
  code : Nat
  data : List Byte
deriving DecidableEq, Repr

/-- Plinth pairs and command acceptance (chapters 01, 15). -/
structure Plinth where
  /-- pair 0 ready (READY of Table 23.3); 1 bit; 01 R21, 23 R470; reset 0 -/
  ready0 : Bool := false
  /-- pair 1 ready; 1 bit; 01 R21; reset 0 -/
  ready1 : Bool := false
  /-- pairs whose re-measurement differed, which are not started again; 2 bits; 21 R440; reset 0 -/
  barred : BitVec 2 := 0
  /-- acceptance counter ACCSEQ; 32 bits; 15 R328; reset 0 -/
  accSeq : U32 := 0
  /-- commands accepted and not yet executed, in acceptance order; 15 R328; reset none -/
  accepted : List Instr := []
  /-- deferred commands in execution; 15 R336; reset none -/
  deferred : List Waiter := []
  /-- commands replied ACCEPTED and not yet completed; 15 R335; reset none -/
  open_ : List Waiter := []
  /-- replies and completion events that wait for the reply of an earlier command of their source, in their order; 15 R336; reset none -/
  held : List HeldReply := []
  /-- source served last, for the round robin; 15 R328; reset 0x18 (DC) -/
  lastSrc : Nat := 0x18
  /-- recovery mode; 1 bit; 21 R449; reset 0 -/
  recovery : Bool := false
  /-- cause of the last boot, RSTCAUSE; 4 bits; 23 R470; reset 0x1 power-on (boot) -/
  rstCause : BitVec 4 := 1
  /-- self-test has ended; 21 R447; reset 0 -/
  selfTest : Bool := false
  /-- loader started at, for the 5 s of a trial; 21 R447; reset 0 -/
  bootAt : Nat := 0
  /-- the device has left reset and has not booted since; 24 R483; reset 1 -/
  bootDue : Bool := true
deriving DecidableEq, Repr

/-- One ring of a function (R329). -/
structure RingRegs where
  base : U64 := 0
  log2 : BitVec 5 := 0
  /-- consumer index -/
  head : BitVec 16 := 0
  /-- producer index -/
  tail : BitVec 16 := 0
deriving DecidableEq, Repr

/-- State of one MSI-X vector (R473). -/
structure Vector4 where
  armed : Bool := false
  count : Nat := 0
  armAt : Nat := 0
  masked : Bool := true
  pend : Bool := false
deriving DecidableEq, Repr

/-- One PCIe function (chapter 23). -/
structure Func where
  /-- CTRL.ENABLE; 1 bit; 23 R470; reset 0 -/
  enable : Bool := false
  /-- STATUS.QACTIVE; 1 bit; 23 R470; reset 0 -/
  qactive : Bool := false
  /-- the packet at the head of the command ring is not whole: it waits for a doorbell; 15 R330; reset 0 -/
  awaitsBell : Bool := false
  /-- STATUS.RINGERR; 1 bit; 23 R470; reset 0 -/
  ringErr : Bool := false
  /-- STATUS.CFGERR; 1 bit; 23 R470; reset 0 -/
  cfgErr : Bool := false
  /-- STATUS.HOSTSTALL; 1 bit; 13 R296, 23 R470; reset 0 -/
  hostStall : Bool := false
  /-- network cycle from which the reply queue has been full; 13 R296; reset none -/
  replyFull : Option Nat := none
  /-- network cycle from which the event queue has been full; 13 R296; reset none -/
  eventFull : Option Nat := none
  /-- command ring registers; 23 R470; reset 0 -/
  cmd : RingRegs := {}
  /-- reply ring registers; 23 R470; reset 0 -/
  rpl : RingRegs := {}
  /-- event ring registers; 23 R470; reset 0 -/
  evt : RingRegs := {}
  /-- INT_STATUS; 4 bits; 23 R470; reset 0 -/
  intStatus : BitVec 4 := 0
  /-- INT_MASK; 4 bits; 23 R470; reset 0xF -/
  intMask : BitVec 4 := 0xF
  /-- INT_MOD.COUNT; 16 bits; 23 R470; reset 1 -/
  modCount : U16 := 1
  /-- INT_MOD.DELAY in microseconds; 16 bits; 23 R470; reset 0 -/
  modDelay : U16 := 0
  /-- MSI-X vector 0; 23 R473; reset disarmed, masked as the standard gives -/
  v0 : Vector4 := {}
  /-- MSI-X vector 1; 23 R473; reset likewise -/
  v1 : Vector4 := {}
  /-- MSI-X vector 2; 23 R473; reset likewise -/
  v2 : Vector4 := {}
  /-- FRAME_SEL.PART; 2 bits; 23 R470; reset 0 -/
  frameSel : BitVec 2 := 0
  /-- FRAME_LO as last read; 32 bits; 23 R474; reset 0 -/
  frameLo : U32 := 0
  /-- FRAME_HI as latched; 32 bits; 23 R474; reset 0 -/
  frameHi : U32 := 0
  /-- COUNT_LO as last read; 32 bits; 23 R474; reset 0 -/
  countLo : U32 := 0
  /-- COUNT_HI as latched; 32 bits; 23 R474; reset 0 -/
  countHi : U32 := 0
  /-- OFFSET_LO and OFFSET_HI as latched; 64 bits; 23 R474; reset 0 -/
  offs : U64 := 0
  /-- RATE as latched; 32 bits; 23 R474; reset 0 -/
  rate : U32 := 0
  /-- TSTAT as latched; 32 bits; 23 R474; reset 0x3 -/
  tstat : U32 := 3
  /-- spooled replies; up to 256 packets; 13 R296, 15 R331; reset none -/
  backRpl : List (List Byte) := []
  /-- spooled events; up to 256 packets; 13 R296, 15 R331; reset none -/
  backEvt : List (List Byte) := []
  /-- events lost since the last marker; 15 R326; reset 0 -/
  lost : Nat := 0
  /-- EVSEQ of the next event; 32 bits; 15 R325; reset 0 -/
  evSeq : U32 := 0
  /-- ACCSEQ of commands outstanding when the function was reset, whose replies and events are discarded; 15 R335, 23 R478; reset none -/
  dead : List U32 := []
  /-- the function is in D3hot; 1 bit; 23 R469; reset 0 -/
  d3hot : Bool := false
deriving DecidableEq, Repr

/-- Debug port (chapter 22). -/
structure DebugPort where
  /-- TAP instruction; 8 bits; 22 R450; reset IDCODE 0x02 -/
  ir : Byte := 0x02
  /-- access level, 0 None, 1 Observe, 2 Full; 2 bits; 22 R452; reset 0 -/
  level : BitVec 2 := 0
  /-- lockout end time; 22 R453; reset none -/
  lockout : Option Nat := none
  /-- failed responses since DBG_RST_N; 22 R453; reset 0 -/
  fails : Nat := 0
  /-- challenge waiting: NONCE, CHID and requested level; 22 R453; reset none -/
  chal : Option (BitVec 256 × BitVec 64 × BitVec 2) := none
  /-- AUTH 0x04 issued: the next GO takes the buffer as a response; 22 R453, R454; reset 0 -/
  authWait : Bool := false
  /-- Full has been granted since boot; 21 R441; reset 0 -/
  fullSeen : Bool := false
  /-- packet buffer towards the device; up to 4,096 bytes; 15 R334; reset empty -/
  pktIn : List Byte := []
  /-- a PKT_DATA write overflowed; 15 R334; reset 0 -/
  overflow : Bool := false
  /-- a GO that waits until pair 0 takes commands; 15 R337; reset 0 -/
  goDue : Bool := false
  /-- waiting replies and events, the first one being read; 22 R454; reset none -/
  pktOut : List (List Byte) := []
  /-- bytes of the first waiting packet already returned; 22 R454; reset 0 -/
  pktPos : Nat := 0
  /-- EVSEQ of the debug port's events; 32 bits; 15 R325; reset 0 -/
  evSeq : U32 := 0
  /-- VT_CTRL.PINS; 1 bit; 22 R454; reset 1 -/
  vtPins : Bool := true
  /-- bytes towards the Plinth; up to 64; 22 R454; reset empty -/
  vtTx : List Byte := []
  /-- bytes from the Plinth; up to 4,096; 22 R455; reset empty -/
  vtRx : List Byte := []
  /-- SH_ADDR and SH_ADDRH; 64 bits; 22 R454; reset 0 -/
  shAddr : U64 := 0
  /-- read data of the previous access; 32 bits; 22 R451; reset 0 -/
  rdata : U32 := 0
  /-- ERR of the previous access; 1 bit; 22 R451; reset 0 -/
  err : Bool := false
  /-- BUSY: the previous access has not completed until this time; 22 R451; reset 0 -/
  busyUntil : Nat := 0
  /-- DBG_RST_N is high; 22 R450; reset 1 (DC) -/
  rstHigh : Bool := true
deriving DecidableEq, Repr

/-- A packet or marker the device has handed to a transmitter, or a message it has sent: the model's own
record of what leaves the block (log entry 5). -/
inductive Output where
  /-- a packet written into a reply (false) or event (true) ring of a function -/
  | ringPacket (fn : Nat) (isEvent : Bool) (bytes : List Byte)
  /-- an MSI-X message -/
  | msi (fn vector : Nat)
  /-- a packet on a control link -/
  | linkPacket (link : Nat) (bytes : List Byte)
  /-- a packet that goes on with characters spoilt by a code error, sent as K30.7 (R138) -/
  | spoiltPacket (link : Nat) (chars : List LinkChar)
  /-- a K28.0 marker on a control link: TYPE, SCOPE, FRAME, ARG -/
  | marker (link : Nat) (type scope frame arg : Nat)
  /-- a Horizon mark: SCOPE, FRAME, STEP -/
  | horizonMark (link : Nat) (scope frame step : Nat)
  /-- a K28.2 sequence: TYPE, SEQ, TA, TB, ST, STATE -/
  | timeSync (link : Nat) (type seq ta tb st state : Nat)
  /-- the 40 PAM4 symbols that occupy a block lane for a step, as levels 0 to 3 (R129) -/
  | laneBlock (lane : Nat) (step : Nat) (levels : List Nat)
  /-- the ten bits of a character that begins on a control lane in a step, the first sent most significant (R135) -/
  | laneChar (lane : Nat) (step : Nat) (bits : BitVec 10)
  /-- a HELLO of the pairing sequence: side, BIC, equivalence list, chain, nonce, public key, signature -/
  | pairHello (side : Bool) (bic : U16) (equiv : List U16) (chain : List Byte) (nonce : BitVec 256) (pubKey : List Byte) (signature : BitVec 768)
  /-- a line written to host memory by DMA -/
  | hostWrite (addr : Nat) (bytes : List Byte)
  /-- a message on the network on chip: header, output port of a router -/
  | nocForward (router port : Nat) (header : BitVec 80)
  /-- a packet's payload words, corrected, handed to the agent at a router's port -/
  | nocDeliver (router port : Nat) (header : BitVec 80) (words : List (BitVec 72))
  /-- a 64-byte line that travelled as 8 words, handed to the agent at a router's port (R285) -/
  | nocLine (router port : Nat) (header : BitVec 80) (bytes : List (BitVec 8))
  /-- a register or data word returned to the reader -/
  | readData (value : Nat)
  /-- PMBus OPERATION on (true) or off to a step of Table 24.2 -/
  | pmbus (railStep : Nat) (on : Bool)
  /-- DDR5 command issued: channel, rank, bank (same-bank refresh) -/
  | refresh (channel rank bank : Nat)
  /-- a host read ended with Completer Abort: the transaction tag of the PCIe inbound initiator (R293) -/
  | completerAbort (tag : Nat)
deriving DecidableEq, Repr

/-- Receiver state of one control link (chapters 06, 15, 17). -/
structure CtlLink where
  /-- character sync held; 06 R136; reset 0 -/
  sync : Bool := false
  /-- the link is up; 06 R136; reset 0 -/
  up : Bool := false
  /-- command packets waiting in the receive buffer, 8 at most; 15 R333; reset none -/
  rxBuf : List (List Byte) := []
  /-- commands forwarded on a child link and not yet answered, 8 at most; 15 R333; reset 0 -/
  unanswered : Nat := 0
  /-- own commands that wait until fewer than 8 stand unanswered on a child link; 15 R333; reset none -/
  ownQ : List (List Byte) := []
  /-- a partial giant packet is being ignored up to the next K27.7; 15 R332; reset 0 -/
  skipping : Bool := false
  /-- device recorded on a child link (address); 17 R364; reset none -/
  child : Option U16 := none
  /-- the recorded device is adopted; 17 R364; reset 0 -/
  adopted : Bool := false
  /-- BIC of the recorded device; 16 bits; 17 R363; reset 0 -/
  childBic : U16 := 0
  /-- equivalence list of the recorded device; 17 R363; reset empty -/
  childEquiv : List U16 := []
  /-- tag of the IDENT.EQUIV sent to the recorded device and not yet answered; 17 R363; reset none -/
  fetch : Option U16 := none
  /-- SERIAL that the device on a child link last answered; 16 bytes; 17 R363; reset 0 -/
  childSerial : BitVec 128 := 0
  /-- EVSEQ of events sent on this link; 32 bits; 15 R325; reset 0 -/
  evSeq : U32 := 0
  /-- last K28.0 sequence acted on and its time: TYPE, SCOPE, FRAME, ARG; 17 R367; reset none -/
  lastMark : Option (Nat × Nat × Nat × Nat × Nat) := none
  /-- time-sync STATE last sent or received; 18 R385; reset 3 (free) -/
  peerServo : Byte := 3
  /-- LANE.RETRAIN of this child link that waits for the child's reply; 16 R353; reset none -/
  retrain : Option CmdCtx := none
  /-- that command made this end hunt, and is answered when the link is up or DOWN; 16 R353; reset 0 -/
  ownRetrain : Bool := false
  /-- the last ten bits received, the first most significant; 06 R136; reset 0 (DC) -/
  rxPrev : BitVec 10 := 0
  /-- bits of the last ten that precede the present character's boundary, 0 to 9; 06 R136; reset 0 (DC) -/
  align : Nat := 0
  /-- K28.5 at that alignment since the last code error while sync is sought; 06 R136; reset 0 -/
  commas : Nat := 0
  /-- characters since sync was acquired, 1,024 at most; 06 R136; reset 0 -/
  chars : Nat := 0
  /-- code errors of the last 256 characters, the newest in bit 0; 06 R136; reset 0 -/
  errs : BitVec 256 := 0
  /-- receive running disparity is positive; 06 R135; reset 0 (DC) -/
  rxPos : Bool := false
  /-- transmit running disparity is positive; 06 R135; reset 0 (DC) -/
  txPos : Bool := false
  /-- characters of packets that wait for the transmitter; 06 R137, 15 R332; reset none -/
  txChars : List LinkChar := []
  /-- sequences that wait to be inserted, first in first out; 06 R137; reset none -/
  txSeqs : List (List LinkChar) := []
  /-- rest of the sequence being sent; 06 R137; reset none -/
  txSeq : List LinkChar := []
  /-- characters sent since the last K28.5; 06 R136; reset 0 -/
  sinceComma : Nat := 0
deriving DecidableEq, Repr

/-- Lane states of Table 6.8. -/
inductive LaneSt where
  | off | trainEq | hunt | linkup | ready | calibrate | active | recover | pattern | sleep | peerSleep | down
deriving DecidableEq, Repr

/-- One lane end (chapter 06). Default values are those at reset. -/
structure Lane where
  /-- state; 4 bits; 06 R141; reset OFF -/
  st : LaneSt := .off
  /-- state to whose bring-up path a sleeping lane returns; 06 R141; reset OFF -/
  prior : LaneSt := .off
  /-- TXSLEEP; 1 bit; 06 R141; reset 0 -/
  txSleep : Bool := false
  /-- RXSLEEP; 1 bit; 06 R141; reset 0 -/
  rxSleep : Bool := false
  /-- time the present state was entered; 06 R141; reset 0 -/
  since : Nat := 0
  /-- last measured one-way latency; 16 bits; 06 R353, 05 R121; reset 0 -/
  lat : Nat := 0
  /-- CAL blocks measured in this calibration; 05 R121; reset 0 -/
  calN : Nat := 0
  /-- largest latency of this calibration; 05 R121; reset 0 -/
  calMax : Nat := 0
  /-- frozen class figure; 05 R121; reset none -/
  frozen : Option Nat := none
  /-- the peer's CALB passed the BIC check at this end; 05 R120; reset 0 -/
  bicOk : Bool := false
  /-- the peer reported BICOK; 05 R120; reset 0 -/
  peerBicOk : Bool := false
  /-- peer's hypercube address last received; 16 bits; 05 R120; reset 0 -/
  peerAddr : U16 := 0
  /-- this end has finished CALIBRATE; 06 R146; reset 0 -/
  calDone : Bool := false
  /-- the peer has finished CALIBRATE (RXLOCK between CAL bursts); 06 R146; reset 0 -/
  peerCalDone : Bool := false
  /-- step at which this end first reports that; 06 R146; reset none -/
  calAt : Option Nat := none
  /-- step at which the peer's first report of it arrived; 06 R146; reset none -/
  peerCalAt : Option Nat := none
  /-- this end's override lets a BIC pass that BICOK does not report; 05 R120, 00 R3; reset 0 -/
  bicOver : Bool := false
  /-- the peer's end has its override set, which no block tells: a free value once both ends have finished without BICOK; 05 R120; reset 0 -/
  bicPeer : Bool := false
  /-- resume step S; 06 R146; reset none -/
  resumeAt : Option Nat := none
  /-- own equaliser converged (EQDONE); 06 R131; reset 0 -/
  eqDone : Bool := false
  /-- peer reported EQDONE; 06 R131; reset 0 -/
  peerEqDone : Bool := false
  /-- own receiver holds block lock (RXLOCK); 06 R133; reset 0 -/
  lock : Bool := false
  /-- consecutive valid headers while hunting; 06 R133; reset 0 -/
  huntN : Nat := 0
  /-- block boundary: bits of the newest 80 that follow the block's end, 0 to 79; 06 R133; reset 0 (DC) -/
  cand : Nat := 0
  /-- the last 80 bits received, the first most significant; 06 R133; reset 0 (DC) -/
  prevBits : BitVec 80 := 0
  /-- TRAIN blocks in a row with RXLOCK = 1; 06 R141; reset 0 -/
  rxLockRun : Nat := 0
  /-- header validity of the last 64 blocks, newest bit 0, 1 invalid; 64 bits; 06 R134; reset 0 -/
  window : BitVec 64 := 0
  /-- failed recovery attempts in a row; 06 R142; reset 0 -/
  attempts : Nat := 0
  /-- the lane has delivered data blocks since the Start tick; 05 R117; reset 0 -/
  delivered : Bool := false
  /-- the copy on this lane was last seen absent (COPY_LOST logged); 05 R118; reset 0 -/
  absent : Bool := false
  /-- transmit scrambler; 58 bits; 06 R130; reset 0 (DC) -/
  scr : BitVec 58 := 0
  /-- receive descrambler; 58 bits; 06 R130; reset 0 (DC) -/
  descr : BitVec 58 := 0
  /-- adaptation frozen; 1 bit; 06 R139; reset 0 -/
  eqFrozen : Bool := false
  /-- receiver CTLE setting; 8 bits; 06 R139, R140; reset 6 -/
  ctle : Byte := 6
  /-- receiver VGA setting; 8 bits; 06 R139, R140; reset 8 -/
  vga : Byte := 8
  /-- 12 DFE taps, tap 1 first, empty for all 0; 8 bits each; 06 R139, R140; reset DFE1 0 -/
  taps : List Byte := []
  /-- pattern generator, 0 off, 1 PRBS7, 2 PRBS15, 3 PRBS31; 06 R151; reset 0 -/
  gen : Byte := 0
  /-- pattern checker, as gen; 06 R151; reset 0 -/
  chk : Byte := 0
  /-- pattern generator register; 31 bits; 06 R151; reset all ones (DC) -/
  prbs : BitVec 31 := 0x7FFFFFFF#31
  /-- checker register; 31 bits; 06 R152; reset 0 -/
  prbsRx : BitVec 31 := 0
  /-- checker lock; 1 bit; 06 R152; reset 0 -/
  pLock : Bool := false
  /-- consecutive correct bits while the checker seeks lock; 06 R152; reset 0 -/
  pRun : Nat := 0
  /-- errors and bits of the current 1,024-bit window; 06 R152; reset 0 -/
  pWinErr : Nat := 0
  /-- bits of the current window; 06 R152; reset 0 -/
  pWinBits : Nat := 0
  /-- PERR; 32 bits saturating; 06 R152; reset 0 -/
  perr : Nat := 0
  /-- PBITS; 48 bits; 06 R152; reset 0 -/
  pbits : Nat := 0
  /-- armed injection: length, position, step (none: next block); 06 R153; reset none -/
  inject : Option (Nat × Nat × Option Nat) := none
  /-- silent step announced to the peer; 06 R155; reset none -/
  silentAt : Option Nat := none
  /-- silent step that the peer's SLEEP block announced; 06 R155; reset none -/
  peerSilent : Option Nat := none
  /-- the receiver relocks after a sleep, within 100 µs; 06 R155; reset 0 -/
  waking : Bool := false
  /-- a CALB block of this calibration has been received; 05 R120; reset 0 -/
  calbSeen : Bool := false
  /-- payloads of LREQ and LACK blocks to send before the lane's own content; 06 R147; reset none -/
  txq : List (BitVec 72) := []
  /-- board equalisation entry (pendant and control lanes); 32 bits; 06 R140; reset 0x3024_6800 -/
  eqEntry : U32 := 0x30246800#32
deriving DecidableEq, Repr

/-- An LREQ sent or received on a block link (Table 6.6): OP, WIDTH, LANES, SEQ and START as an absolute
step; for an own request also the resends so far, whether its LACK has arrived and its command. -/
structure LinkReq where
  op : Nat
  width : Nat
  lanes : BitVec 8
  seq : U16
  start : Nat
  tries : Nat
  acked : Bool
  /-- the change has begun at START -/
  begun : Bool
  ctx : Option CmdCtx
deriving DecidableEq, Repr

/-- Requests on one block link, port 0 to 15 or pendant 16 (R147). -/
structure BlockLink where
  /-- own request in progress; 06 R147; reset none -/
  req : Option LinkReq := none
  /-- the peer's request being followed; 06 R147; reset none -/
  follow : Option LinkReq := none
  /-- SEQ of the next request; 16 bits; 06 R131; reset 0 (DC) -/
  seq : U16 := 0
  /-- width code of the link; 06 R148; reset 0x4 (eight lanes) -/
  width : Byte := 4
deriving DecidableEq, Repr

/-- One section of a loaded image (Table 7.2). -/
structure Section where
  kind : Nat
  tgta : Nat
  tgtb : Nat
  first : Nat
  count : Nat
  offset : Nat
  length : Nat
  /-- entry bytes 0 to 11 -/
  entry : List Byte
deriving DecidableEq, Repr

/-- The header fields of a loaded image (Table 7.1). -/
structure Image where
  bic : U16
  kind : Nat
  reloc : Bool
  qmask : BitVec 4
  e : Nat
  w : Nat
  d : Nat
  lin : Nat
  haddr : U16
  sxparam : U64
  build : U64
  total : Nat
  idigest : BitVec 384
  /-- header bytes 0 to 63 -/
  head : List Byte
  sections : List Section
  /-- the image's bytes as the load read them, which the configuration digest covers (R170) -/
  data : List Byte
  /-- FMIN of the BUDGET record (Table 10.4), if any -/
  fmin : Option Nat
  /-- CMASK of the BUDGET record: key 4L + p -/
  cmask : SMap (BitVec 8)
deriving DecidableEq, Repr

/-- Partition states of Table 7.7. -/
inductive PState where
  | empty | loading | loaded | starting | running
deriving DecidableEq, Repr

/-- Where the execution of a RUNNING partition stands (Tables 2.3, 2.5, 2.6). -/
inductive Phase where
  /-- frame in progress, from its tick -/
  | frame
  /-- boundary withheld: the go of a mode change is missing (R34) -/
  | withheld
  /-- abandoned and drained, waiting for release of a hold -/
  | held
  /-- abandoned, replay tick placed (R45) -/
  | drain
  /-- lead-in before a replay or restart tick (R45, R52) -/
  | leadIn
  /-- paused at a boundary (R50) -/
  | paused
  /-- stopped at a boundary after REPLAY_LATE or out of step (R43, R370) -/
  | stopped
deriving DecidableEq, Repr

/-- Who armed a pause, so that its completion is sent where it belongs. -/
inductive PauseOwner where
  | cmd (c : CmdCtx)          -- FRAME.PAUSE
  | step (c : CmdCtx)         -- FRAME.STEP, pausing again
  | cast (c : CmdCtx)         -- CAST.TAKE
  | switch (c : CmdCtx)       -- MAQUETTE.SWITCH
  | join                      -- a join (R316)
  | brk                       -- a BRK (R54)
  | device                    -- RAIL_RANGE, THERMAL_HIGH, fabric faults
  | remote                    -- a PAUSE marker from the scope root
  | void                      -- a request whose command CMD_ABORTED has ended
deriving DecidableEq, Repr

/-- A pause that was asked of the scope root and has not been placed (R374). -/
structure Asked where
  owner : PauseOwner
  d : Nat
  /-- frame asked for, 0 for the next boundary -/
  m : FrameNo
deriving DecidableEq, Repr

/-- A pause that is armed: boundary m and duration d (R50). -/
structure Pause where
  m : FrameNo
  d : Nat
  owner : PauseOwner
deriving DecidableEq, Repr

/-- A mode change with an effective frame (R375). -/
structure ModeChange where
  m : FrameNo
  opcode : Nat
  /-- every involved unit has latched armed -/
  armed : Bool
  /-- every involved unit is ready to arm -/
  ready : Bool
  /-- the change was found late and its veto sent at this time -/
  lateAt : Option Nat
  ctx : Option CmdCtx
  /-- die for MIGRATE; region mask for REGION -/
  arg : Nat
deriving DecidableEq, Repr

/-- A change that a replay takes back and applies again at its frame (R47). Regions, which are never rewound, act at the first tick of
their frame alone (R24, R195). -/
def ModeChange.positional (c : ModeChange) : Bool := decide (c.opcode ≠ 0x0405)

/-- A hold condition raised at this device: log-cause code (Table 16.18), frame, resolved. -/
structure HoldCause where
  code : Nat
  /-- what raised it: a lane, a store key, a unit number -/
  unit : Nat
  frame : FrameNo
  resolved : Bool
deriving DecidableEq, Repr

/-- One copy of the rows staged for a frame (R44). -/
structure StagedCopy where
  frame : FrameNo
  /-- response, mailbox rows: key of a port row -/
  rows : SMap (BitVec 64)
  /-- fabric arrival log of the frame: key 96-cluster logical × 1,024 + step -/
  fabLog : SMap (BitVec 64)
  /-- steps of the frame whose fabric bits have been logged -/
  fabReached : Nat
deriving DecidableEq, Repr

/-- A commit-buffer entry (R224). -/
structure Commit where
  part : Nat
  frame : FrameNo
  /-- key order (STEP, logical cluster, port, r) of R222 as one number -/
  key : Nat
  jsid : Nat
  /-- physical byte address of the 9 bytes -/
  paddr : Nat
  /-- job-space byte address of the word -/
  jaddr : Nat
  kix : Nat
  data : BitVec 72
  /-- page-table changes that preceded its translation (R250) -/
  gen : Nat
deriving DecidableEq, Repr

/-- A memory-port request in flight or answered (R218). -/
structure Request where
  frame : FrameNo
  lcl : Nat
  port : Nat
  r : Nat
  rgrp : Nat
  /-- order key (STEP, logical cluster, port, r) of R222 as one number -/
  key : Nat
  /-- physical byte address of the word -/
  paddr : Nat
  /-- job-space byte address of the word -/
  jaddr : Nat
  /-- key index taken when the request was made; none while the job space had no usable slot (R274) -/
  kix : Option Nat
  /-- page-table changes that preceded its translation (R250) -/
  gen : Nat
  /-- DATA of the request -/
  data : BitVec 72
  /-- place in the order in which the memory ports made their requests (R290) -/
  seq : Nat
  /-- its header was injected, and the key of the tag that it holds until its response is ejected (R290) -/
  sent : Bool
  tag : Option Nat
  /-- physical cluster that issued it and placement epoch carried (R103) -/
  pcl : Nat
  epoch : U16
  op : BitVec 2
  /-- answered: data, ERR -/
  resp : Option (BitVec 72 × Bool)
  /-- collected by the engine -/
  arrived : Bool
  /-- staged through another physical cluster (FWD) -/
  fwd : Bool
  /-- forwarded after its switch, and staged with the next rows (R104) -/
  late : Bool
  /-- declared lost (R293) -/
  lost : Bool
  /-- faulted: the request counts as incomplete (R254) -/
  faulted : Bool
  /-- delivers data to its rows (READ, SWAP, OR) -/
  wantsData : Bool
deriving DecidableEq, Repr

/-- A pending mailbox write (R98). -/
structure Mailbox where
  lcl : Nat
  grp : Nat
  row : Nat
  value : BitVec 64
  m : FrameNo
  acc : U32
deriving DecidableEq, Repr

/-- Switch phases of Table 11.7, numbered from 1. -/
structure Switch where
  ctx : CmdCtx
  phase : Nat
  oldJsid : Nat
  newJsid : Nat
  saddr : Nat
  slen : Nat
  iaddr : Nat
  ilen : Nat
  caddr : Nat
  override : Bool
  saveDone : Bool
  saveVoid : Bool
  tickDone : Bool
  /-- key index that SAVE holds (R265, R274), and SLICE SAVE has been queued -/
  oldKix : Option Nat := none
  sliced : Bool := false
deriving DecidableEq, Repr

/-- A migration on a die (R101, R102). -/
structure Migration where
  part : Nat
  lcl : Nat
  src : Nat
  tgt : Nat
  spareL : Nat
  m : FrameNo
  copied : Bool
  switched : Bool
  ctx : Option CmdCtx
deriving DecidableEq, Repr

/-- Forwarding of stale responses after a placement switch: they reach the old host until the tick of frame m+2 (R104). -/
structure Forwarding where
  part : Nat
  src : Nat
  m : FrameNo
deriving DecidableEq, Repr

/-- A partial reconfiguration of a partition (R193). -/
structure Reconfig where
  mask : BitVec 24
  m : FrameNo
  resume : FrameNo
  addr : Nat
  len : Nat
  image : Option Image
  /-- regions whose rewrite is complete and read back -/
  rewritten : BitVec 24
  /-- the image is to be read again for the rewrite, no engine having had room yet (R195) -/
  unread : Bool
  /-- the image read again has the digest IDIGEST -/
  reread : Option Bool
  active : Bool
  ctx : CmdCtx
deriving DecidableEq, Repr

/-- Scope Start sequence at this device for one partition's scope (R368, R369). -/
structure StartSeq where
  /-- this member accepted MAQUETTE.START -/
  member : Bool
  ctx : Option CmdCtx
  /-- START_REQ relayed or absorbed -/
  requested : Bool
  /-- time MEASURE was sent (root) or received -/
  measureAt : Option Nat
  /-- child links that carried MEASURE -/
  carried : List Nat := []
  downLat : Nat
  /-- UPLAT received per child link: link, value (none for 0xFF_FFFF) -/
  uplat : List (Nat × Option Nat)
  /-- DOWNMAX received per child link: link, latency, LIN -/
  downmax : List (Nat × Nat × Nat)
  /-- READY received per child link -/
  readyFrom : List Nat
  /-- own checks passed and lanes frozen -/
  checked : Bool
  /-- own UPLAT, DOWNMAX, READY sent -/
  sentUp : Bool
  sentDown : Bool
  sentReady : Bool
  /-- own banks cleared and initial state written -/
  prepared : Bool
  paramsDone : Bool
deriving DecidableEq, Repr

/-- What a device keeps of one veto scope, as a member or as a relay (R366, R371, R372). -/
structure ScopeSt where
  /-- member-bearing child links; 17 R368; reset none -/
  bearing : List Nat := []
  /-- vetoes forwarded upward and not yet answered: FRAME[23:0], HOLD, BRK; 17 R371; reset none -/
  sent : List (Nat × Bool × Bool) := []
  /-- frames whose break was forwarded without a veto, until the pause or a verdict answers; 17 R371; reset none -/
  brks : List Nat := []
  /-- child links whose CLEAR for the held frame has arrived; 17 R372; reset none -/
  clears : List Nat := []
  /-- time at which the own CLEAR was sent; 17 R373; reset none -/
  clearSent : Option Nat := none
  /-- FRAME of that CLEAR; 17 R373; reset 0 (DC) -/
  cleared : Nat := 0
  /-- V of the scope, as PARAMS brought it; 17 R369; reset 0 (DC) -/
  v : Nat := 0
  /-- Start sequence in progress; 17 R369; reset none -/
  start : Option StartSeq := none
deriving DecidableEq, Repr

/-- A finished or filling Cast record of a partition (R460 to R465). -/
structure CastRec where
  kind : Nat
  void : Bool
  damaged : Bool
  frame : FrameNo
  step : Nat
  finished : Bool
  /-- the record's bytes that differ from 0: offset to byte -/
  bytes : SMap Byte
  len : Nat
  /-- 8-byte shadow words that are uncorrectable, by offset / 8 -/
  bad : List Nat
  /-- offsets of the slice contexts that a switch writes after its tick (SLICE SAVE, R261) -/
  late : List Nat := []
deriving DecidableEq, Repr

/-- A Cast activity in progress (R460, R461). -/
structure CastAct where
  ctx : Option CmdCtx
  trig1 : Bool
  gen : Nat
  step : Nat
  m : FrameNo
  capturing : Bool
  beganAt : Nat
  restart : Bool
  /-- its boundary m is known: false while a request to the root is unanswered -/
  placed : Bool := true
deriving DecidableEq, Repr

/-- One partition (chapters 02, 07, 11, 17). -/
structure Partition where
  /-- step in which the slices issue nothing: the Start tick of a switch; 09 R213; reset none -/
  noIssue : Option Nat := none
  /-- partition state; 07 R166; reset EMPTY -/
  st : PState := .empty
  /-- physical die mask; 4 bits; 07 R161; reset 0 -/
  dies : BitVec 4 := 0
  /-- physical die mask that the load in progress names; 4 bits; 07 R161; reset 0 -/
  loadDies : BitVec 4 := 0
  /-- job space of the image that the load in progress replaces, whose writes it waits for; 07 R167; reset none -/
  drainJs : Option Nat := none
  /-- job space; 4 bits; 07 R161; reset 0 (0xFF reported while EMPTY) -/
  jsid : Nat := 0
  /-- loaded image; 07 R156; reset none -/
  image : Option Image := none
  /-- load address and length named by MAQUETTE.LOAD; 20 R424; reset 0 -/
  laddr : Nat := 0
  /-- load length; 07 R161; reset 0 -/
  llen : Nat := 0
  /-- FLAGS of the settings record: BIC override, debug write, RELOC; 07 R170; reset 0 -/
  flags : BitVec 8 := 0
  /-- placement: key logical cluster, value 1 + physical cluster; 04 R100; reset none -/
  pmap : SMap Nat := []
  /-- logical clusters that the image leaves unused: their hosts are spares and execute nothing; 04 R100, 01 R22; reset none -/
  spares : List Nat := []
  /-- placement epochs by logical cluster; 16 bits each; 04 R103; reset 0 -/
  epochs : SMap U16 := []
  /-- PRBUILD by logical region; 64 bits each; 07 R170; reset 0 -/
  prbuild : SMap U64 := []
  /-- frame number; 48 bits; 02 R31, 00 R14; reset 0 -/
  frame : FrameNo := 0
  /-- some frame has begun; 00 R15; reset 0 -/
  begun : Bool := false
  /-- highest frame number begun since Start, which is the current frame while none executes; 48 bits; 00 R15; reset 0 -/
  top : FrameNo := 0
  /-- h 0 of that frame has begun in some execution of it, so that the latch point of the frame two after it has passed; 17 R375; reset 0 -/
  topH0 : Bool := false
  /-- highest frame whose rows have been staged since Start; 48 bits; 04 R98; reset 0 -/
  stagedTop : FrameNo := 0
  /-- where execution stands; 02 R45, R50; reset frame -/
  phase : Phase := .frame
  /-- step of the current frame's tick; 02 R24; reset 0 -/
  tick : Nat := 0
  /-- next frame-relative step to execute; 03 R56; reset 0 -/
  rel : Nat := 0
  /-- housekeeping stage done in this frame: 0 none, 1 for h 0, then 8, 48, 52, 53, 61, 63 for the steps of Table 2.2; 02 R32; reset 0 -/
  hstage : Nat := 0
  /-- steps of the last four ticks with their frames; 17 R370; reset none -/
  ticks : List (FrameNo × Nat) := []
  /-- of those frames, the ones whose Horizon mark is due and has not come; 17 R370; reset none -/
  marksDue : List FrameNo := []
  /-- replay flag of the frame in progress; 02 R31; reset 0 -/
  replay : Bool := false
  /-- placed replay or restart tick: step and frame; 02 R45, R52; reset none -/
  nextTick : Option (Nat × FrameNo × Bool) := none
  /-- frames of the replay sequence in force, first and last; 02 R46; reset none -/
  seq : Option (FrameNo × FrameNo) := none
  /-- root: verdict being decided, with the step of its issue, frame and HOLD; 17 R371; reset none -/
  decision : Option (Nat × FrameNo × Bool) := none
  /-- verdict received and not yet replayed: frame and HOLD; 02 R38; reset none -/
  verdict : Option (FrameNo × Bool) := none
  /-- execution stops at the next boundary; 02 R43, 17 R370; reset 0 -/
  stopNext : Bool := false
  /-- the stop is that of an out-of-step device, whose lanes go OFF; 17 R370; reset 0 -/
  outStep : Bool := false
  /-- no go for the next frame at h 63; 02 R34; reset 0 -/
  noGo : Bool := false
  /-- requests sent to the scope root and not yet answered: who waits and the duration; 17 R374; reset none -/
  asked : List Asked := []
  /-- changes applied at a tick whose predecessor frame is not yet beyond replay; 02 R47; reset none -/
  applied : List ModeChange := []
  /-- scope state of this member; 17 R366; reset none -/
  sc : ScopeSt := {}
  /-- V; 32 bits; 02 R40; reset 0 -/
  v : Nat := 0
  /-- V_down; 32 bits; 02 R45; reset 0 -/
  vdown : Nat := 0
  /-- L_in in force; 02 R44; reset 0 -/
  lin : Nat := 0
  /-- vetoes charged and not yet answered: frame, HOLD; 02 R37; reset none -/
  vetoes : List (FrameNo × Bool) := []
  /-- hold conditions raised at this device; 16 R347; reset none -/
  holds : List HoldCause := []
  /-- frame named by the hold in force, and its t_v; 02 R48; reset none -/
  heldFrame : Option (FrameNo × Nat) := none
  /-- REPLAY verdicts issued for a frame at the root; 02 R49; reset 0 -/
  replayCount : FrameNo × Nat := (0, 0)
  /-- a REPLAY_LIMIT hold is in force; 02 R49; reset 0 -/
  replayLimit : Bool := false
  /-- frames not yet beyond replay: frame, step of the sampling point; 02 R39; reset none -/
  sampled : List (FrameNo × Nat) := []
  /-- highest frame beyond replay plus 1, 0 when none; 02 R39; reset 0 -/
  beyond : Nat := 0
  /-- frame time of the last step executed outside a replay, at which the gated generators stand; 08 R179; reset 0 -/
  tau : Nat := 0
  /-- pauses armed, earliest first; 02 R50; reset none -/
  pauses : List Pause := []
  /-- pause in force: boundary m, the step its d frames count from, B, duration; 02 R52; reset none -/
  pausedAt : Option (FrameNo × Nat × Nat × Nat) := none
  /-- restart tick that a FRAME.RESUME has placed for the pause in force; 02 R52, R55; reset none -/
  restart : Option Nat := none
  /-- owners that wait for the restart tick (FRAME.RESUME); 02 R53; reset none -/
  resumeCtx : List CmdCtx := []
  /-- owners that wait for the replay tick of a hold they released; 02 R49, R53, 14 R313; reset none -/
  releaseCtx : List CmdCtx := []
  /-- frames in which a BRK broke at its first execution; 02 R54; reset none -/
  broke : List FrameNo := []
  /-- BRK seen in the frame in progress; 02 R54; reset 0 -/
  brkNow : Bool := false
  /-- mode changes with an effective frame; 17 R375; reset none -/
  changes : List ModeChange := []
  /-- signature register of the frame in progress; 64 bits; 14 R307; reset 0 -/
  crc : U64 := 0
  /-- finalised signature of the frame; 64 bits; 14 R308; reset 0 -/
  sig : U64 := 0
  /-- peer SIGF received for the frame: frame number, preference, event count; 14 R308; reset none -/
  peerSigf : Option (FrameNo × BitVec 2 × Nat) := none
  /-- preference and correctable-event count of the SIGF last sent; 14 R308, R309; reset 0 -/
  ownSigf : BitVec 2 × Nat := (0, 0)
  /-- peer SIG received; 14 R308; reset none -/
  peerSig : Option U64 := none
  /-- a peer TAG of this frame has arrived and verified (some true) or failed (some false); 14 R308; reset none -/
  peerTag : Option Bool := none
  /-- consecutive mismatches of one frame and whether a SIGF was missing; 14 R309; reset 0 -/
  mism : List (FrameNo × Nat × Bool) := []
  /-- memory requests of frames in progress; 10 R218; reset none -/
  reqs : List Request := []
  /-- ports that logged CHAN_MISS since Start; 10 R221; reset none -/
  chanMiss : List Nat := []
  /-- requests to complete with ERR on re-execution (RESOLVE ERROR): frame, page, cause; 11 R255; reset none -/
  forceErr : List (FrameNo × Nat × Nat) := []
  /-- job spaces in which a fault of a frame went unrecorded; 11 R254; reset none -/
  unrecorded : List (FrameNo × Nat) := []
  /-- staged port rows and fabric logs of frames not beyond replay; 02 R44, 04 R97; reset none -/
  staged : List StagedCopy := []
  /-- pending mailbox writes; 04 R98; reset none -/
  mailbox : List Mailbox := []
  /-- transmit history of exported bits of value 1: export step and transmit position; 02 R44; reset none -/
  history : List (Nat × Nat) := []
  /-- previous-bank rows whose parity failed on an operand read: pcl, grp, row, BP address; 03 R79; reset none -/
  nmSuspect : List (Nat × Nat × Nat × Nat) := []
  /-- rows whose parity check has failed in the step in progress: key; 03 R77; reset none -/
  parSeen : List Nat := []
  /-- EXCH_CONFLICT records written since Start: key; 04 R93; reset none -/
  conflictSeen : List Nat := []
  /-- scope identifier; 32 bits; 17 R366; reset 0 -/
  scope : U32 := 0
  /-- scope root address; 16 bits; 17 R366; reset 0 -/
  root : U16 := 0
  /-- the scope root is the system controller; 17 R366; reset 0 -/
  rootSc : Bool := false
  /-- step of the Start tick placed by START; 17 R369; reset none -/
  startAt : Option Nat := none
  /-- command awaiting load completion; 07 R165; reset none -/
  loadCtx : Option CmdCtx := none
  /-- load progress: next element (0 header, then 1 + section index); 07 R168; reset 0 -/
  loadPos : Nat := 0
  /-- a refusal found while loading: status and record bytes; 07 R165; reset none -/
  refusal : Option (Nat × List Byte) := none
  /-- MAQUETTE.UNLOAD awaiting its completion; 07 R166; reset none -/
  unloadCtx : Option CmdCtx := none
  /-- switch in progress; 11 R260; reset none -/
  switch : Option Switch := none
  /-- partial reconfigurations in progress; 08 R193; reset none -/
  reconfig : List Reconfig := []
  /-- Cast activity; 22 R460; reset none -/
  cast : Option CastAct := none
  /-- record in shadow storage; 22 R464; reset none -/
  shadow : Option CastRec := none
  /-- CAST.SAVE awaiting its completion; 22 R465; reset none -/
  saveCtx : Option CmdCtx := none
  /-- restore read into the partition and pending: frame m', and whether a switch brought it, so that the slices toggle; 11 R263; reset none -/
  restore : Option (FrameNo × Bool) := none
  /-- CAST.RESTORE awaiting its completion; 11 R262; reset none -/
  restoreCtx : Option CmdCtx := none
  /-- CANCEL markers sent for frames not beyond replay: frame, opcode, a release has followed; 17 R376, Table 17.4; reset none -/
  cancels : List (FrameNo × Nat × Bool) := []
deriving DecidableEq, Repr

/-- What arrived on one of the two lanes that carry the same block of a paired system (Table 5.6). -/
inductive CopyKind where
  | valid | crcError | absent
deriving DecidableEq, Repr

/-- A copy with the step at which it is delivered. -/
structure LaneCopy where
  lane : Nat
  step : Nat
  kind : CopyKind
  payload : BitVec 72
deriving DecidableEq, Repr

/-- A device-exchange bit in flight (R89). -/
structure DxBit where
  dst : Nat
  bit : Nat
  at_ : Nat
  val : Bool
  src : Nat
  bp : Nat
deriving DecidableEq, Repr

/-- The evaluation array, tables and exchanges: stores by physical cluster (chapters 03 to 05). -/
structure Array where
  /-- instruction words; 96 bits; key ((pcl × 16 + grp) × 512 + k) × 64 + col; 03 R56, R59; reset 0 -/
  words : SMap (BitVec 96) := []
  /-- check status of stored words and entries, 1 single-bit error, 2 uncorrectable, by store and key; 03 R65, 04 R94; reset none -/
  errs : SMap Nat := []
  /-- Net Memory rows 0 to 1535; 64 bits; key ((pcl × 16 + grp) × 4 + bank) × 1,536 + row; 03 R69; reset 0 -/
  nm : SMap (BitVec 64) := []
  /-- rows whose parity bit disagrees with their content; 03 R77; reset none -/
  nmBad : SMap Bool := []
  /-- port rows 1536 to 1667 and 2047 as readable; 64 bits; key (pcl × 16 + grp) × 512 + (row − 1536); 03 R69; reset 0 -/
  pr : SMap (BitVec 64) := []
  /-- port rows whose parity disagrees; 03 R77; reset none -/
  prBad : SMap Bool := []
  /-- rows staged at h 61-62 for the next tick, keys as pr; 02 R32; reset 0 -/
  prNext : SMap (BitVec 64) := []
  /-- results of the words of the frame in progress, row k of a group; 64 bits; key (pcl × 16 + grp) × 512 + k; 04 R83; reset 0 -/
  results : SMap (BitVec 64) := []
  /-- route words; 16 bits; key ((pcl × 1024 + t) × 16 + grp) × 64 + bit; 04 R84; reset 0x0FFF -/
  routes : SMap (BitVec 16) := []
  /-- device-exchange export entries; 32 bits; key (pcl × 1024 + s) × 256 + slot; 04 R89; reset 0 -/
  dxexp : SMap (BitVec 32) := []
  /-- system-export entries; 16 bits; key (pcl × 1024 + s) × 96 + slot; 04 R90; reset 0 -/
  sxexp : SMap (BitVec 16) := []
  /-- device-exchange bits in flight; 04 R89; reset none -/
  dxFlight : List DxBit := []
  /-- injection map; 16 bits; key s × 9,216 + x; 05 R110; reset 0 -/
  inj : SMap (BitVec 16) := []
  /-- through map store; 16 bits; key x; 05 R111; reset 0 -/
  thr : SMap (BitVec 16) := []
  /-- through map register array; 16 bits; key x; 05 R115; reset 0 -/
  thrReg : SMap (BitVec 16) := []
  /-- ejection map; 16 bits; key (fabric port × 1024 + t) × 96 + bit; 05 R112; reset 0 -/
  ej : SMap (BitVec 16) := []
  /-- bits to transmit: key step × 9,216 + position, present for 1; 05 R110; reset none -/
  sxTx : SMap Bool := []
  /-- bits delivered by the receive stage: key step × 9,216 + position, present for 1; 05 R112; reset none -/
  sxRx : SMap Bool := []
  /-- copies of a paired system whose partner has not arrived; 05 R118; reset none -/
  copies : List LaneCopy := []
  /-- memory-port descriptors; 64 bits; key (pcl × 4 + port) × 16 + r; 10 R216; reset 0 -/
  mport : SMap U64 := []
  /-- INIT records of the loaded image, key (fabric port × 16 + grp) × 1,536 + row; 64 bits; 07 R159; reset 0 -/
  init : SMap (BitVec 64) := []
  /-- Rasp index per engine: group pcl × 16 + grp, tables 2,000 + pcl, maps 2,100, slice 3,000 + n; 20 R420; reset 0 -/
  rasp : SMap Nat := []
  /-- SCRUB passes: engines still to finish the pass that began after acceptance; 20 R422; reset none -/
  raspLeft : List Nat := []
  /-- soft-repair spare rows and columns used per array and unit; 20 R423; reset 0 (DC: fuse map) -/
  spares : SMap Nat := []
  /-- physical clusters retired (2) or candidates (1); 20 R425, R426; reset 0 -/
  retired : SMap Nat := []
  /-- recoveries in progress: store, key, stage (1 rewrite, 2 spare row, 3 relocation, 4 ended without success), partition; 20 R424; reset none -/
  recovery : List (Nat × Nat × Nat × Nat) := []
  /-- migrations, one per die; 04 R102; reset none -/
  migr : SMap (Option Migration) := []
  /-- engines failed: pcl to number of failed restarts plus 1; 04 R99; reset none -/
  engBad : SMap Nat := []
  /-- clusters whose responses are forwarded across the mirror path until frame m+2, with partition and m; 04 R104; reset none -/
  fwdUntil : List Forwarding := []
deriving DecidableEq, Repr

/-- Slice register bank (Table 9.5). -/
structure SliceBank where
  a0 : BitVec 18 := 0
  a1 : BitVec 18 := 0
  b0 : BitVec 18 := 0
  b1 : BitVec 18 := 0
  k0 : BitVec 18 := 0
  k1 : BitVec 18 := 0
  acc : BitVec 54 := 0
  y0 : BitVec 18 := 0
  y1 : BitVec 18 := 0
  exp : BitVec 6 := 0
  bexp : BitVec 5 := 17
  ovf : Bool := false
  sat : Bool := false
  ag0base : BitVec 9 := 0
  ag0len : BitVec 10 := 512
  ag0step : BitVec 9 := 1
  ag0brev : Bool := false
  ag0ofs : BitVec 9 := 0
  ag1base : BitVec 9 := 0
  ag1len : BitVec 10 := 512
  ag1step : BitVec 9 := 1
  ag1brev : Bool := false
  ag1ofs : BitVec 9 := 0
deriving DecidableEq, Repr

/-- One arithmetic slice (R204). -/
structure Slice where
  bank0 : SliceBank := {}
  bank1 : SliceBank := {}
  /-- ACTIVE; 1 bit -/
  active : Bool := false
  /-- local buffer, 512 words of 18 bits -/
  lb : SMap (BitVec 18) := []
  /-- Y and flags as the routing output shows them, with the steps at which they take effect -/
  shown : List (Nat × BitVec 38) := []
  /-- BAD_UOP logged since Start -/
  badSeen : Bool := false
deriving DecidableEq, Repr

/-- What a block memory port's routing inputs present at an edge: organisation (0 18 bits, 1 9 bits, 2 36 bits), enable, write enable,
address and data (R199, R200). -/
structure PortIn where
  org : Nat
  en : Bool
  we : Bool
  addr : Nat
  data : BitVec 36
deriving DecidableEq, Repr

/-- A write of a block memory port, 0 A, 1 B, in the step in progress (R201). -/
structure BmWrite where
  block : Nat
  port : Nat
  i : PortIn
deriving DecidableEq, Repr

/-- The fabric as it stood before the edges of a step: all edges of one step sample it (R178, R201). -/
structure EdgeStep where
  at_ : Nat
  ff : SMap Bool
  bout : SMap (BitVec 36)
  bmem : SMap (BitVec 72)
  bmemErr : SMap Nat
  writes : List BmWrite
deriving DecidableEq, Repr

/-- The programmable fabric and hard blocks, by physical region (chapters 08, 09). -/
structure Fabric where
  /-- regions with a configuration; 24 bits; 08 R191; reset 0 -/
  configured : BitVec 24 := 0
  /-- regions being reconfigured or stopped; 24 bits; 08 R192, R195; reset 0 -/
  stopped : BitVec 24 := 0
  /-- configuration frames as their difference (exclusive or) from the default bytes; key (region × 1,539 + frame) × 256 + byte; 08 R191; reset 0 -/
  cfg : SMap Byte := []
  /-- check status of frames, 1 single, 2 uncorrectable; key region × 1,539 + frame; 08 R192; reset none -/
  cfgErr : SMap Nat := []
  /-- next frame the monitor reads, by region; 08 R192; reset 0 -/
  monitor : SMap Nat := []
  /-- flip-flop values; key region × 32,768 + cell; 08 R175; reset 0 -/
  ff : SMap Bool := []
  /-- OR registers; 64 bits; key fabric port × 16 + n; 08 R181; reset 0 -/
  or_ : SMap U64 := []
  /-- OR captures in flight: step at which they show, key, value; 08 R183; reset none -/
  orNext : List (Nat × Nat × U64) := []
  /-- IR registers; 64 bits; key as or_; 08 R181; reset 0 -/
  ir : SMap U64 := []
  /-- IR writes not yet two steps old: step of effect, key, previous value; 08 R184; reset none -/
  irHist : List (Nat × Nat × U64) := []
  /-- FPORT entries; 16 bits; key fabric port × 1,024 + step; 08 R182; reset 0 -/
  fport : SMap (BitVec 16) := []
  /-- fabric output bits of the step in progress; 64 bits; key pcl; 03 R63; reset 0 -/
  xf : SMap U64 := []
  /-- fabric outputs drive pins (Start tick to stop); by region; 24 bits; 08 R190; reset 0 -/
  drive : BitVec 24 := 0
  /-- block memory rows; 72 bits; key block × 256 + row; 09 R202; reset 0 -/
  bmem : SMap (BitVec 72) := []
  /-- check status of block memory rows; 09 R202; reset none -/
  bmemErr : SMap Nat := []
  /-- block memory output registers; 36 bits; key block × 2 + port; 09 R200; reset 0 -/
  bout : SMap (BitVec 36) := []
  /-- micro-instructions; 64 bits; key slice × 512 + j; 09 R205; reset 0 -/
  uops : SMap U64 := []
  /-- check status of micro-instructions and buffer words; key slice × 1,024 + index; 09 R215; reset none -/
  uopErr : SMap Nat := []
  /-- corrected rows and buffer words to be written back: time, a buffer word, key; 09 R202, R215; reset none -/
  fixes : List (Nat × Bool × Nat) := []
  /-- scheduled slices as their sections made them: 1, or 2 where a word has SWAP; key physical slice; 09 R210, R213; reset 0 (static) -/
  sched : SMap Nat := []
  /-- slices; key physical slice; 09 R204; reset Table 9.5 -/
  slices : SMap Slice := []
  /-- content before the edges of the step that last had one, with its block memory writes; 08 R178, 09 R201; reset none -/
  edge : Option EdgeStep := none
  /-- hard blocks of retired or candidate regions, blocks, slices; 20 R426; reset none -/
  retired : SMap Nat := []
deriving DecidableEq, Repr

/-- Metadata of one 64-byte DRAM line (R237, R266 to R268). -/
structure LineMeta where
  /-- 32-bit counter; 0 unwritten -/
  counter : Nat := 0
  /-- key the line was last written under -/
  key : BitVec 256 := 0
  /-- stored with the poison pattern -/
  poison : Bool := false
  /-- tag or content altered outside the engine -/
  tagBad : Bool := false
  /-- ECC finding of the next read: 0 clean, 1 correctable, 2 uncorrectable -/
  ecc : Nat := 0
deriving DecidableEq, Repr

/-- Refresh and page-history state of one bank (R234, R235). -/
structure BankSt where
  hist : Byte := 0xFF#8
  /-- row left open -/
  row : Option Nat := none
  /-- row of the previous access -/
  last : Option Nat := none
  postponed : Nat := 0
deriving DecidableEq, Repr

/-- Rank migration of one channel (R242): the watermark is the next line to be copied, counted within the channel; lines of other ranks
with an uncorrectable error wait for its end (Table 10.6). -/
structure RankMigr where
  rank : Nat
  mark : Nat
  started : Bool
  waits : List Nat := []
deriving DecidableEq, Repr

/-- A line in a merge buffer (R239): where it goes, under which index, the bytes to merge by offset, whether its
fetch has come back, and whether that fetch failed so that the line is written back poisoned. -/
structure MergeLine where
  line : Nat
  jsid : Nat
  /-- job-space byte address of the line -/
  jaddr : Nat
  kix : Nat
  bytes : List (Nat × Byte)
  fetched : Bool
  bad : Bool
  /-- a write other than a port commit has joined it: the whole line is mirrored (R315) -/
  joined : Bool := false
  /-- page-table changes that preceded the earliest translation among its commits (R250) -/
  gen : Nat
deriving DecidableEq, Repr

/-- DRAM, encryption metadata, buffers (chapters 10, 12). -/
structure Dram where
  /-- the channels were initialised; 10 R232; reset 0 -/
  ok : Bool := false
  /-- usable capacity in 64-byte lines; 10 R233; reset 0 -/
  usable : Nat := 0
  /-- ranks per channel, the spare included; 10 R232; reset 0 -/
  ranks : Nat := 0
  /-- lines per rank; 10 R233; reset 0 -/
  rankLines : Nat := 0
  /-- plaintext bytes by device physical byte address; unlisted reads 0 (R268); 10 R226; reset none -/
  mem : List Host.Cell := []
  /-- per line: counter, key, poison, check status; 12 R268; reset unwritten -/
  lines : SMap LineMeta := []
  /-- commit buffer; up to 24,576 entries; 10 R224; reset none -/
  commits : List Commit := []
  /-- entries beyond replay, draining to DRAM in key order; 10 R224; reset none -/
  draining : List Commit := []
  /-- merge buffers, oldest line first; 64 lines per channel; 10 R239; reset none -/
  merge : List MergeLine := []
  /-- page history of banks; key (channel × 4 + rank) × 32 + bank; 10 R234; reset hist 0xFF -/
  banks : SMap BankSt := []
  /-- refresh interval halved, by channel × 2 + DIMM; 10 R235; reset 0 -/
  hot : SMap Bool := []
  /-- ranks in self-refresh; 10 R236; reset 0 -/
  selfRefresh : Bool := false
  /-- retired ranks by channel × 4 + rank; 10 R241; reset none -/
  rankRetired : SMap Bool := []
  /-- spare in use or failed by channel: 0 free, 1 in use, 2 failed; 10 R242; reset 0 -/
  spare : SMap Nat := []
  /-- migrations by channel; 10 R242; reset none -/
  migr : SMap (Option RankMigr) := []
  /-- patrol position and mask of channels asked for; 10 R240; reset 0 -/
  patrol : SMap Nat := []
  /-- channels of a MAINT.START DRAM PATROL still running; 16 R355; reset 0 -/
  patrolMask : BitVec 8 := 0
deriving DecidableEq, Repr

/-- A fault record (Table 11.4). -/
structure FaultRec where
  seq : U32
  src : Nat
  cause : Nat
  level : Nat
  jsid : Nat
  faddr : Nat
  elem : Nat
  eng : Nat
  count : Nat
  done : Nat
  frame : FrameNo
  part : Nat
  wr : Bool
  srcSide : Bool
  resolved : Bool
  abandoned : Bool
deriving DecidableEq, Repr

/-- A TRANS.MAP or TRANS.UNMAP that waits (R250): its pages as a job-space byte range, the physical ranges whose commits it
waits for, and how many page-table changes preceded it: a commit translated later is not waited for. -/
structure TransWait where
  ctx : CmdCtx
  opcode : Nat
  jsid : Nat
  lo : Nat
  hi : Nat
  olds : List (Nat × Nat)
  gen : Nat
deriving DecidableEq, Repr

/-- Job spaces and page tables (chapter 11). -/
structure Trans where
  /-- pool base and length; none before TRANS.POOL; 11 R246; reset none -/
  pool : Option (Nat × Nat) := none
  /-- table pages in use; 11 R246; reset none -/
  pages : List Nat := []
  /-- 1 + L4 table page of a job space; key JSID; 11 R248; reset 0 (none) -/
  l4 : SMap Nat := []
  /-- held fault records, oldest first; 64 per job space; 11 R253; reset none -/
  faults : List FaultRec := []
  /-- next SEQ by job space; 32 bits; 11 R253; reset 0 -/
  seqs : SMap U32 := []
  /-- TRANS.MAP and TRANS.UNMAP waiting for commits; 11 R250; reset none -/
  waits : List TransWait := []
  /-- replacements and removals of present leaves so far, by which a commit says which translation it used; 11 R250; reset 0 -/
  gen : Nat := 0
deriving DecidableEq, Repr

/-- What a DMA list carries (R256). -/
inductive DmaKind where
  | list
  | load (part : Nat)
  | region (part : Nat)
  | save (part : Nat)
  | switchSave (part : Nat)
  | restore (part : Nat)
deriving DecidableEq, Repr

/-- A queued list. -/
structure DmaList where
  lseq : U32
  kind : DmaKind
  ctx : Option CmdCtx
  jsid : Nat
  utag : U32
  elems : List DmaElem
  /-- element in progress and bytes of it complete and visible -/
  k : Nat
  done : Nat
  suspended : Bool
  /-- losses in a row of one transaction (R293) -/
  losses : Nat
  /-- key index taken when the list was queued; none while the job space had no usable slot (R274) -/
  kix : Option Nat := none
  /-- destination lines of the element written that still stand in the merge buffer (R257) -/
  joined : List Nat := []
deriving DecidableEq, Repr

/-- An access to a job space (16: the device key's lines): the index it took when it was made, none while the space had no usable slot
(R272, R274), and its master (Table 1.1). -/
structure Access where
  jsid : Nat
  kix : Option Nat
  master : Nat
deriving DecidableEq, Repr

/-- Key slot states of Table 12.1. -/
inductive SlotSt where
  | empty | loaded | flushing
deriving DecidableEq, Repr

/-- A key slot (R269). -/
structure KeySlot where
  st : SlotSt := .empty
  key : BitVec 256 := 0
  /-- shadow of a load in progress, with its command -/
  shadow : Option (BitVec 256 × Option CmdCtx) := none
  /-- KEY.RETIRE awaiting completion -/
  ctx : Option CmdCtx := none
deriving DecidableEq, Repr

/-- A job space's key binding and rotation (R272, R277). -/
structure Binding where
  kix : Nat
  dbg : Bool
  /-- incoming index, watermark (job-space address), command -/
  rot : Option (Nat × Nat × Option CmdCtx)
deriving DecidableEq, Repr

/-- Keys (chapter 12). -/
structure Keys where
  /-- slots KIX 0 to 63; 12 R269; reset EMPTY -/
  slots : SMap KeySlot := []
  /-- bindings by JSID; 12 R272; reset none -/
  binds : SMap (Option Binding) := []
  /-- completed rotations whose outgoing slot still flushes: job space, outgoing and incoming index; 12 R276, R280; reset none -/
  heirs : List (Nat × Nat × Nat) := []
  /-- job spaces whose automatic rotation waits for the matrix; 12 R277, 17 R382; reset none -/
  rotWait : List Nat := []
  /-- pair key; 256 bits; 12 R281; reset none -/
  pairKey : Option (BitVec 256) := none
deriving DecidableEq, Repr

/-- Counters of one NoC initiator (Table 13.5). -/
structure NocCtr where
  pktsOut : Nat := 0
  flitsOut : Nat := 0
  flitsIn : Nat := 0
  hist : List Nat := []
  latMax : Nat := 0
  dorCnt : Nat := 0
  lost : Nat := 0
deriving DecidableEq, Repr

/-- A packet that waits in a router's output buffer. -/
structure NocPacket where
  router : Nat
  port : Nat
  /-- input port by which it came -/
  input : Nat
  header : BitVec 80
  /-- network cycle of its entry -/
  since : Nat
deriving DecidableEq, Repr

/-- A request that a verdict has abandoned while its response is on the way (R290, R293). -/
structure NocOrphan where
  /-- key of its tag -/
  tag : Nat
  part : Nat
  frame : FrameNo
deriving DecidableEq, Repr

/-- Network on chip (chapter 13). -/
structure Noc where
  /-- network cycles since power came up; 13 R284; reset 0 -/
  cyc : Nat := 0
  /-- outstanding tags: key initiator × 64 + tag, value 1 + network cycle of injection; 13 R290; reset none -/
  tags : SMap Nat := []
  /-- header of each outstanding tag's packet, for its reissue; 13 R293; reset none -/
  hdrs : SMap (BitVec 80) := []
  /-- keys of the messages delivered whose sender has not freed the tag, by which a duplicate is known; 13 R293; reset none -/
  got : List Nat := []
  /-- abandoned requests whose response has not returned; 13 R290, R293; reset none -/
  orphans : List NocOrphan := []
  /-- requests that the memory ports have made, by which their order is kept; 13 R290; reset 0 -/
  made : Nat := 0
  /-- end-to-end credits taken: tag key of the packet, its source and its destination endpoint; 4 per ordered pair at most; 13 R286;
  reset empty -/
  e2e : List (Nat × Nat × Nat) := []
  /-- losses in a row, key as tags; 13 R293; reset 0 -/
  losses : SMap Nat := []
  /-- counters by initiator; 13 R294; reset 0 -/
  ctr : SMap NocCtr := []
  /-- snapshot in force; 13 R294; reset 0 -/
  snap : SMap NocCtr := []
  /-- step counter of the snapshot; 64 bits; 16 R359; reset 0 -/
  snapStep : U64 := 0
  /-- packets in a router's output buffers; 13 R286; reset none -/
  bufs : List NocPacket := []
  /-- credits by (router × 11 + port) × 4 + VC, counted as flit slots in use; 13 R286, R287; reset 0 -/
  used : SMap Nat := []
  /-- 1 + the input that each output's VC granted last, same key; 13 R288; reset none -/
  lastIn : SMap Nat := []
  /-- buffers, as router and port, that stalled: their hold lasts until RST_N; 13 R296; reset none -/
  stalls : List (Nat × Nat) := []
deriving DecidableEq, Repr

/-- Pair states of Table 14.4. -/
inductive PairSt where
  | unpaired | pairing | independent | lockstep | standby | solo | copy | joining | fenced | retired
deriving DecidableEq, Repr

/-- What a twin reports of itself for the conditions of R314. -/
structure PeerReport where
  /-- usable capacity in lines -/
  usable : Nat := 0
  /-- table pool base and length, 0 for none -/
  poolBase : Nat := 0
  poolLen : Nat := 0
  /-- job spaces with a bound key -/
  bound : Nat := 0
  /-- partitions that hold a maquette -/
  loaded : Nat := 0
  /-- partitions that run -/
  running : Nat := 0
  /-- every system-exchange lane of the loaded partitions is ACTIVE -/
  lanesUp : Bool := false
deriving DecidableEq, Repr

/-- What a newcomer is told of one partition for a join (R316): frame J, the original tick T of J, the boundary's step B, V,
V_down and L_in. -/
structure JoinInfo where
  part : Nat
  j : FrameNo
  t : Nat
  b : Nat
  v : Nat
  vdown : Nat
  lin : Nat
deriving DecidableEq, Repr

/-- Pendant pairing (chapter 14). -/
structure Pendant where
  /-- pair state; 14 R305; reset UNPAIRED -/
  st : PairSt := .unpaired
  /-- role: 0 none, 1 carrier, 2 standby; 2 bits; 14 R301; reset 0 -/
  role : Nat := 0
  /-- mode named by the own PENDANT.PAIR: INDEPENDENT (0), LOCKSTEP (1), STANDBY (2); 14 R298; reset 0 -/
  mode : Nat := 0
  /-- own PENDANT.PAIR pending: command, override, time of acceptance, step of Table 14.1; 14 R298; reset none -/
  pair : Option (CmdCtx × Bool × Nat × Nat) := none
  /-- the peer's PENDANT.PAIR has arrived with this mode; 14 R298; reset none -/
  peerMode : Option Nat := none
  /-- the peer's command set the BIC override; 14 R298; reset 0 -/
  peerOver : Bool := false
  /-- the peer held a RUNNING partition when it issued its command; 14 R298; reset 0 -/
  peerRuns : Bool := false
  /-- own nonce; 256 bits; 14 R298; reset 0 -/
  nonce : BitVec 256 := 0
  /-- own ephemeral private key; 384 bits; 14 R298; reset 0 -/
  priv : BitVec 384 := 0
  /-- check value expected in KEYCHK; 64 bits; 14 R298; reset 0 -/
  keychk : U64 := 0
  /-- bytes of the peer's HELLO, once its chain, signature and BIC have been accepted; 14 R298; reset none -/
  heard : Option (List Byte) := none
  /-- preference NONE 0, RETIRE_A 1, RETIRE_B 2; 14 R312; reset 0 -/
  pref : BitVec 2 := 0
  /-- preference accepted, in effect from the next frame; 14 R312; reset none -/
  prefNew : Option (BitVec 2) := none
  /-- correctable-event count; 16 bits; 14 R310; reset 0 -/
  cev : Nat := 0
  /-- peer BIC; 16 bits; 16 R354; reset 0 -/
  pbic : U16 := 0
  /-- peer address; 16 bits; 16 R354; reset 0 -/
  paddr : U16 := 0
  /-- peer state last reported in HB; 14 R301; reset 0 -/
  peerSt : Nat := 0
  /-- peer's role; 14 R301; reset 0 -/
  peerRole : Nat := 0
  /-- peer verified our last TAG; 14 R301; reset 0 -/
  peerTagOk : Bool := false
  /-- our check of the peer's last TAG; 14 R303; reset 1 -/
  tagOk : Bool := true
  /-- step at which encryption and authentication start; 14 R298 step 6; reset none -/
  encAt : Option Nat := none
  /-- time of the last verified HB; 14 R313; reset 0 -/
  hbAt : Nat := 0
  /-- HB received in the interval not yet verified; 14 R303; reset none -/
  hbNew : Bool := false
  /-- measured latency; 16 bits; 14 R298; reset 0 -/
  lat : Nat := 0
  /-- HB blocks measured while PAIRING, and the largest latency among them; 14 R298 step 2; reset 0 -/
  latN : Nat := 0
  /-- largest latency measured while PAIRING; 14 R298 step 2; reset 0 -/
  latMax : Nat := 0
  /-- a TAKEOVER waits for the next boundary of the scope; 14 R313; reset 0 -/
  takeover : Bool := false
  /-- the carrier was lost during JOIN: this twin cannot take over; 14 R318; reset 0 -/
  noTake : Bool := false
  /-- MSG (PTYPE 5: the words) and XADDR with XDATA (6: address, then data) of the interval, held until its TAG verifies; 14 R303; reset none -/
  interval : List (Nat × List U64) := []
  /-- payloads received since the previous TAG, oldest first (72 bits each); 14 R303; reset none -/
  rxLog : List (BitVec 72) := []
  /-- payloads sent since the previous TAG; 14 R303; reset none -/
  txLog : List (BitVec 72) := []
  /-- blocks for the lowest lane in use: PTYPE and content, HB, SIGF, SIG and TAG ahead of MSG; 14 R301; reset none -/
  sendq : List (Nat × U64) := []
  /-- XADDR and XDATA blocks waiting for lanes; 14 R301; reset none -/
  bulk : List (Nat × U64) := []
  /-- a STAMP is due; 14 R304; reset 0 -/
  stampDue : Bool := false
  /-- MSG, XADDR and XDATA blocks sent since the previous TAG; 14 R303; reset none -/
  sentNow : List (Nat × U64) := []
  /-- blocks of closed intervals not yet reported verified, with the step of their TAG; 14 R303; reset none -/
  unverified : List (Nat × Nat × U64) := []
  /-- what the peer last reported; 14 R314; reset as PeerReport -/
  report : PeerReport := {}
  /-- what this device last reported; 14 R314; reset as PeerReport -/
  sentReport : PeerReport := {}
  /-- resynchronisation in progress: COPY step 1 to 4 of R314, its command, reference partition; 14 R314; reset none -/
  resync : Option (Nat × Option CmdCtx × Nat) := none
  /-- COPY watermark, a physical byte address; 64 bits; 14 R315, 16 R354; reset 0 -/
  wmark : Nat := 0
  /-- mirror queue: job space, physical address, bytes; up to 65,536; 14 R315; reset none -/
  mirror : List (Nat × Nat × List Byte) := []
  /-- join: phase 1 PAUSE to 6 RESUME, frame J, reference partition; 14 R316; reset none -/
  join : Option (Nat × FrameNo × Nat) := none
  /-- partitions whose join boundary is also that of another pause; 14 R316; reset none -/
  hostPause : List Nat := []
  /-- Cast record bytes received in TRANSFER, by partition × 2^32 + offset; 14 R316; reset none -/
  castIn : SMap Byte := []
  /-- transmit history received in TRANSFER: partition, 64-bit word index, word; 14 R316; reset none -/
  histIn : List (Nat × Nat × U64) := []
  /-- what the carrier has told of the partitions that join; 14 R316; reset none -/
  joinInfo : List JoinInfo := []
  /-- record digests the peer sent in VERIFY, by partition; 14 R316; reset none -/
  peerDigest : SMap (BitVec 384) := []
  /-- placement epochs that the peer has told for a handover, by partition; 14 R317; reset none -/
  peerEpochs : List (Nat × SMap U16) := []
  /-- placement epochs that a handover replaced, until it is beyond replay; 14 R317, 02 R47; reset none -/
  oldEpochs : List (Nat × SMap U16) := []
  /-- opcode and command of the pendant mode change in progress, side it names; 14 R305; reset none -/
  change : Option (Nat × Option CmdCtx × Nat) := none
  /-- IDIGEST that the peer reports for each partition; 14 R300; reset 0 (none reported) -/
  peerIdigest : SMap (BitVec 384) := []
  /-- IDIGEST last reported to the peer; 14 R300; reset 0 -/
  sentIdigest : SMap (BitVec 384) := []
  /-- PENDANT.DISSOLVE in progress, with the command when it is this twin's; 14 R300; reset none -/
  dissolve : Option (Option CmdCtx) := none
  /-- partitions that have yet to reach a boundary before the pair ends; 14 R300; reset none -/
  leaving : List Nat := []
deriving DecidableEq, Repr

/-- A maintenance activity that holds (R380). -/
structure Holder where
  act : Nat
  obj : Nat
  tag : U16
  src : Nat
  progress : Nat
  ctx : Option CmdCtx
deriving DecidableEq, Repr

/-- An error log record (Table 20.6). -/
structure LogRec where
  seq : U32
  cause : Nat
  sub : Nat
  sev : Nat
  step : U64
  frame : FrameNo
  part : Nat
  persist : Bool
  event : Bool
  count : Nat
  loc : U64
  detail : BitVec 96
  /-- time of writing, for the 1 s of R430 -/
  at_ : Nat
deriving DecidableEq, Repr

/-- A security event (Table 12.3). -/
structure SecEvt where
  seq : U32
  cause : Nat
  kix : Nat
  jsid : Nat
  master : Nat
  paddr : Nat
  jaddr : Nat
  step : U64
deriving DecidableEq, Repr

/-- Logs and counters (chapters 12, 20). -/
structure Logs where
  /-- error log, oldest first; up to 8,192 records; 20 R429; reset none -/
  recs : List LogRec := []
  /-- next record SEQ; 32 bits; 20 R429; reset 0 -/
  seq : U32 := 0
  /-- security events, oldest first; up to 256; 12 R275; reset none -/
  sec : List SecEvt := []
  /-- next security SEQ; 32 bits; 12 R275; reset 0 -/
  secSeq : U32 := 0
  /-- counters of Table 20.9, key (SUB × 65,536 + UNIT) × 256 + ID; 32 bits saturating; 20 R432; reset 0 -/
  ctr : SMap Nat := []
deriving DecidableEq, Repr

/-- Root of trust (chapter 21). -/
structure Trust where
  /-- measurement registers MR0 to MR7; 48 bytes each; 21 R438; reset 0 -/
  mr : SMap (BitVec 384) := []
  /-- measurement log; up to 65,536 bytes; 21 R439; reset empty -/
  log : List Byte := []
  /-- digest logged for component 1 to 5 in this boot; 21 R440; reset 0 -/
  comp : SMap (BitVec 384) := []
  /-- configuration digest in force; 48 bytes; 07 R170; reset 0 -/
  digest : BitVec 384 := 0
  /-- digest recomputation due at the next tick; 07 R171; reset 0 -/
  digestDue : Bool := false
deriving DecidableEq, Repr

/-- Firmware slots and records (chapter 21). -/
structure Firmware where
  /-- running slot, 0 A, 1 B; 16 R357; reset 0 -/
  slot : Bool := false
  /-- running on trial; 16 R357; reset 0 -/
  trial : Bool := false
  /-- VER of the running image; 32 bits; 23 R470 FWVER; reset 0 (image) -/
  ver : U32 := 0
  /-- FLOORSET of the running image; 32 bits; 21 R443; reset 0 -/
  floorSet : U32 := 0
  /-- slot state words: 0 erased, 1 staging, 2 staged; slot A; 21 R443; reset staged (DC: as shipped) -/
  stA : Nat := 2
  /-- slot B; 21 R443; reset erased -/
  stB : Nat := 0
  /-- VER of slot A and slot B; 32 bits each; 16 R357; reset 0 -/
  verA : U32 := 0
  /-- VER of slot B; 16 R357; reset 0 -/
  verB : U32 := 0
  /-- boot selector: sequence, TRY; 21 R442, R446; reset slot A -/
  selSeq : Nat := 0
  /-- TRY slot; 21 R446; reset A -/
  selTry : Bool := false
  /-- BOOTS, 0 to 3; 21 R446; reset 0 -/
  boots : Nat := 0
  /-- confirm record sequence; 21 R442; reset 0 -/
  confSeq : Nat := 0
  /-- CONF slot; 21 R446; reset A -/
  conf : Bool := false
  /-- FLOOR; 32 bits; 21 R446; reset 0 -/
  floor : U32 := 0
  /-- staging image bytes received; 16 R357; reset 0 -/
  stageLen : Nat := 0
  /-- bytes of the staging image; 16 R357; reset empty -/
  stage : List Byte := []
  /-- FW.ACTIVATE has been written (STAGE 3); 16 R357; reset 0 -/
  activated : Bool := false
  /-- the inactive slot's image belongs to an update not yet confirmed; 21 R444, R446; reset 0 -/
  update : Bool := false
  /-- FW.VERIFY in execution: command, TOTAL; 21 R445; reset none -/
  verify : Option (CmdCtx × Nat) := none
deriving DecidableEq, Repr

/-- Health record (R427). -/
structure Health where
  /-- copies' sequence numbers: older, newer; 20 R427; reset 0 -/
  seq0 : Nat := 0
  /-- the other copy; 20 R427; reset 0 -/
  seq1 : Nat := 0
  /-- rolling counts behind Table 20.5 and R426 as the events they count: condition, unit, detail, time; 20 R427; reset none -/
  marks : List (Nat × Nat × Nat × Nat) := []
  /-- last log records of severity 2 or above; up to 256; 20 R427; reset none -/
  last : List LogRec := []
deriving DecidableEq, Repr

/-- What a consensus query knows of one recorded child (R377, R378): its link and address, the FWVER of its IDENT.QUERY, its answer
(digest, UNIFORM, PATH, DADDR), and whether it failed to answer with OK in time. -/
structure ConsensusKid where
  link : Nat
  addr : U16
  ver : Option U32
  ans : Option (BitVec 384 × Bool × List Byte × U16)
  failed : Bool
deriving DecidableEq, Repr

/-- A consensus query in execution (R377): its command, partition and frame, the own digest once that frame has come, the tag its
forwarded commands carry, the time they went out, and the children. -/
structure ConsensusQ where
  ctx : CmdCtx
  part : Nat
  m : FrameNo
  own : Option (BitVec 384)
  tag : U16
  at_ : Nat
  kids : List ConsensusKid
deriving DecidableEq, Repr

/-- The control tree at this device (chapter 17). -/
structure Armature where
  /-- hypercube address; 16 bits; 17 R362, 23 R470 ADDR; reset 0 -/
  addr : U16 := 0
  /-- ASSIGNED; 1 bit; 17 R363; reset 0 -/
  assigned : Bool := false
  /-- LEVEL; 8 bits; 17 R363; reset 0 -/
  level : Byte := 0
  /-- VETOES counter of ARM.STATUS; 32 bits; 16 R360; reset 0 -/
  vetoes : Nat := 0
  /-- MARKS_BAD of ARM.STATUS; 32 bits; 16 R360; reset 0 -/
  marksBad : Nat := 0
  /-- CONSENSUS.OVERRIDE set; 1 bit; 16 R360; reset 0 -/
  override : Bool := false
  /-- scopes this device relays without being a member, by SCOPE[15:0]; 17 R366; reset none -/
  relays : SMap ScopeSt := []
  /-- consensus queries in execution; 17 R377; reset none -/
  queries : List ConsensusQ := []
  /-- tag of the next command that the device itself sends to a child: the model's own field (log entry 66); reset 0 (DC) -/
  ownTag : U16 := 0
  /-- NumVFs; 8 bits; 23 R467; reset 0 -/
  numVfs : Nat := 0
  /-- VF Enable; 1 bit; 23 R467; reset 0 -/
  vfEnable : Bool := false
  /-- DEV_INTEN; 4 bits; 23 R470; reset 0xF -/
  devInten : BitVec 4 := 0xF
  /-- DBG_POLICY.OBSOPEN; 1 bit; 23 R477; reset 0 -/
  obsOpen : Bool := false
  /-- DBG_POLICY is locked; 23 R477; reset 0 -/
  obsLocked : Bool := false
  /-- TIME.UPSTREAM waiting for the new parent's routing; 18 R390; reset none -/
  upCtx : Option CmdCtx := none
deriving DecidableEq, Repr

/-- The state of the SKM-9616. -/
structure State where
  /-- identity, fuses and straps; 00 R2, 16 R345; reset as Ident -/
  ident : Ident := {}
  /-- power, pins and Watch; chapters 19, 24; reset as Power -/
  pwr : Power := {}
  /-- clocks and time; chapter 18; reset as Clock -/
  clk : Clock := {}
  /-- Plinth pairs and acceptance; chapter 15; reset as Plinth -/
  plinth : Plinth := {}
  /-- PCIe functions by number 0 to 15; chapter 23; reset as Func -/
  fns : SMap Func := []
  /-- debug port; chapter 22; reset as DebugPort -/
  dbg : DebugPort := {}
  /-- control tree position and device-page registers; chapters 17, 23; reset as Armature -/
  arm : Armature := {}
  /-- control links S0 to S7; chapters 06, 15; reset as CtlLink -/
  links : SMap CtlLink := []
  /-- lanes by identifier 0 to 143; chapter 06; reset as Lane -/
  lanes : SMap Lane := []
  /-- block links: ports 0 to 15, pendant 16; 06 R147; reset as BlockLink -/
  blinks : SMap BlockLink := []
  /-- partitions 0 to 3; chapters 02, 07; reset as Partition -/
  parts : SMap Partition := []
  /-- array, tables and exchanges; chapters 03 to 05; reset as Array -/
  arr : Array := {}
  /-- fabric and hard blocks; chapters 08, 09; reset as Fabric -/
  fab : Fabric := {}
  /-- DRAM; chapters 10, 12; reset as Dram -/
  dram : Dram := {}
  /-- job spaces; chapter 11; reset as Trans -/
  trans : Trans := {}
  /-- DMA engines 0 to 15: their lists, the running one first; 11 R256; reset none -/
  dma : SMap (List DmaList) := []
  /-- LSEQ of the next list; 32 bits; 11 R256; reset 0 -/
  lseq : U32 := 0
  /-- keys; chapter 12; reset as Keys -/
  keys : Keys := {}
  /-- network on chip; chapter 13; reset as Noc -/
  noc : Noc := {}
  /-- pendant pair; chapter 14; reset as Pendant -/
  pend : Pendant := {}
  /-- maintenance activities that hold, first started first; 17 R380; reset none -/
  maint : List Holder := []
  /-- error log, security log and counters; chapters 12, 20; reset as Logs -/
  logs : Logs := {}
  /-- root of trust; chapter 21; reset as Trust -/
  trust : Trust := {}
  /-- firmware slots and records; chapter 21; reset as Firmware -/
  fw : Firmware := {}
  /-- health record; chapter 20; reset as Health -/
  health : Health := {}
  /-- what has left the block, oldest first: the model's own field (log entry 5); reset none -/
  out : List Output := []
  /-- how many of those the control-link transmitters have queued: the model's own field (log entry 69); reset 0 (DC) -/
  queued : Nat := 0
  /-- free values drawn so far: the model's own field (log entry 4); reset 0 (DC) -/
  free : Nat := 0
  /-- commands waiting, first in, first out: the block's queue; reset empty -/
  pending : List Instr := []
deriving DecidableEq, Repr

/-- The machine right after a device reset (R478): every field holds the default that stands beside its
declaration, the value its docstring names. The power-on reset of chapter 24 leads here too; BOOT and
SELF_TEST_DONE are commands that follow. -/
def State.reset : State := {}

/-- Why a command stops the model. -/
inductive Fault where
  /-- Raised by the DRAM events (DRAM_READ_COMPLETE, MERGE_FETCH_COMPLETE) when the line they name lies at or
  beyond the installed capacity: the spec says such a line does not exist (R233). Safe: the model stops where
  the hardware can make no such access. -/
  | noSuchLine
deriving DecidableEq, Repr

/-- Why the model gives a command no meaning. -/
inductive Refusal where
  /-- Raised by an arm of exec whose command has no meaning yet. Safe: nothing is claimed of it. -/
  | notModelled (mnemonic : String)
deriving DecidableEq, Repr

end Sys2Proof.Machine
end

