-- ==== Sys2Proof/Machine/Flags.lean ====
section
/-!
DEFINITION. Flags.lean: interrupt and status flags of the host interface: INT_STATUS with its MSI-X vectors
(R473), the DEV_STATUS bits and their changes (Table 23.4, R476), the alarm pins, and the function store.
-/
namespace Sys2Proof.Machine

/-- Function n of the endpoint. -/
def State.fn (s : State) (n : Nat) : Func := smGet {} s.fns n

/-- The state with function n replaced. -/
def State.setFn (s : State) (n : Nat) (f : Func) : State := { s with fns := smSet {} s.fns n f }

/-- Function n exists: the physical function always, virtual function n while VF Enable is set and NumVFs is
at least n (R467). -/
def State.fnExists (s : State) (n : Nat) : Bool := n = 0 || (s.arm.vfEnable && decide (n ≤ s.arm.numVfs) && decide (n ≤ 15))

/-- What leaves the block is appended to the record of outputs. -/
def State.emit (s : State) (o : Output) : State := { s with out := s.out ++ [o] }

/-- Vector v (0 to 2) of a function. -/
def Func.vec (f : Func) (v : Nat) : Vector4 := if v = 0 then f.v0 else if v = 1 then f.v1 else f.v2

/-- Function with vector v replaced. -/
def Func.setVec (f : Func) (v : Nat) (x : Vector4) : Func :=
  if v = 0 then { f with v0 := x } else if v = 1 then { f with v1 := x } else { f with v2 := x }

/-- An armed vector sends its message and is disarmed; a vector masked in the MSI-X table, or of a function
in D3hot (R469), sets its pending bit instead (R473). -/
def sendVector (n v : Nat) (s : State) : State :=
  let f := s.fn n
  let x := f.vec v
  let y : Vector4 := { x with armed := false, count := 0 }
  if x.masked || f.d3hot then s.setFn n (f.setVec v { y with pend := true })
  else (s.setFn n (f.setVec v y)).emit (.msi n v)

/-- One occurrence of the cause of vector v: it arms the vector, counts once, and sends at once when COUNT
occurrences have counted or DELAY is 0 (R473). -/
def armVector (n v : Nat) (s : State) : State :=
  let f := s.fn n
  let x := f.vec v
  let y : Vector4 := { x with armed := true, count := x.count + 1, armAt := if x.armed then x.armAt else s.clk.now }
  let s1 := s.setFn n (f.setVec v y)
  if decide (max 1 f.modCount.toNat ≤ y.count) || f.modDelay = 0 then sendVector n v s1 else s1

/-- Vector that signals INT_STATUS bit b (R473). -/
def vectorOfBit (b : Nat) : Nat := if b = 0 then 0 else if b = 1 then 1 else 2

/-- A cause of INT_STATUS bit b occurs in function n: the bit is set whatever INT_MASK holds, and while it is
unmasked the occurrence arms its vector (R473). -/
def raiseInt (n b : Nat) (s : State) : State :=
  let f := s.fn n
  let s1 := s.setFn n { f with intStatus := f.intStatus ||| BitVec.ofNat 4 (2 ^ b) }
  if f.intMask.getLsbD b then s1 else armVector n (vectorOfBit b) s1

/-- FAULT_N is asserted while some cause asserts it (R484). -/
def State.faultPin (s : State) : Bool := !s.pwr.faults.isEmpty

/-- ALERT_N is asserted by Watch, coolant, a rail or the thermal alarm (R413, R487, R491). -/
def State.alertPin (s : State) : Bool := s.pwr.alertWatch || s.pwr.alertHold || s.pwr.alertRail || s.pwr.alertThermal

/-- DEV_STATUS[3:0]: COAST, ALERT, FAULT, SECALARM (Table 23.4). -/
def State.devBits (s : State) : BitVec 4 :=
  BitVec.ofNat 4 (bitNat s.pwr.secAlarm + 2 * bitNat s.faultPin + 4 * bitNat s.alertPin + 8 * bitNat s.clk.coast)

/-- Each enabled DEV_STATUS bit that differs from its value before sets INT_STATUS.DEV of the physical
function, once per change (R473, Table 23.4). -/
def noteDev (before : BitVec 4) (s : State) : State :=
  (onesOf ((before ^^^ s.devBits) &&& s.arm.devInten).toNat 4).foldl (fun a _ => raiseInt 0 2 a) s

/-- FAULT_N cause c begins to assert. -/
def assertFault (c : Nat) (s : State) : State :=
  noteDev s.devBits { s with pwr := { s.pwr with faults := if s.pwr.faults.contains c then s.pwr.faults else s.pwr.faults ++ [c] } }

/-- FAULT_N cause c ends. -/
def releaseFault (c : Nat) (s : State) : State :=
  noteDev s.devBits { s with pwr := { s.pwr with faults := s.pwr.faults.filter (· ≠ c) } }

/-- A Watch violation asserts ALERT_N, and the next accepted PWR.SET releases it (R413). -/
def setAlertWatch (b : Bool) (s : State) : State := noteDev s.devBits { s with pwr := { s.pwr with alertWatch := b } }

/-- COOLANT_OK low asserts ALERT_N (R413). -/
def setAlertHold (b : Bool) (s : State) : State := noteDev s.devBits { s with pwr := { s.pwr with alertHold := b } }

/-- A rail out of tolerance asserts ALERT_N, and its return releases it (R487). -/
def setAlertRail (b : Bool) (s : State) : State := noteDev s.devBits { s with pwr := { s.pwr with alertRail := b } }

/-- The thermal alarm asserts or releases ALERT_N (R491). -/
def setAlertThermal (b : Bool) (s : State) : State := noteDev s.devBits { s with pwr := { s.pwr with alertThermal := b } }

/-- A tag failure or security event sets SECALARM and asserts SEC_ALARM_N (R476). -/
def raiseSecAlarm (s : State) : State := noteDev s.devBits { s with pwr := { s.pwr with secAlarm := true } }

/-- CLK_COAST is set or cleared (R391, R392). -/
def setCoast (b : Bool) (s : State) : State := noteDev s.devBits { s with clk := { s.clk with coast := b } }

/-- Code of a servo state (Table 18.3). -/
def servoCode : Servo → Nat
  | .locked => 0 | .acquiring => 1 | .holdover => 2 | .free => 3

/-- A servo state change sets INT_STATUS.SERVO in every function (R475). -/
def setServo (v : Servo) (s : State) : State :=
  if s.clk.servo = v then s
  else ((List.range 16).filter s.fnExists).foldl (fun a n => raiseInt n 3 a) { s with clk := { s.clk with servo := v } }

/-- Device state code (Table 19.1). -/
def pwrCode : PwrState → Nat
  | .run => 0 | .idle => 1 | .sleep => 2 | .deep => 3 | .off => 4 | .watch => 5

end Sys2Proof.Machine
end

