-- ==== Sys2Proof/Machine/Ops.lean ====
section
/-!
DEFINITION. Ops.lean: the named operations every family shares: the stores by unit, free values, counters
and the error log (chapter 20), packets with their rings, backlogs and destinations (chapter 15).
-/
namespace Sys2Proof.Machine

/-- Outcome type of every meaning. -/
abbrev Res := Host.Outcome State Fault Refusal

/-! ### Stores by unit -/

/-- Control link n. -/
def State.link (s : State) (n : Nat) : CtlLink := smGet {} s.links n
/-- Control link n replaced. -/
def State.setLink (s : State) (n : Nat) (l : CtlLink) : State := { s with links := smSet {} s.links n l }
/-- Lane n. -/
def State.lane (s : State) (n : Nat) : Lane := smGet {} s.lanes n
/-- Lane n replaced. -/
def State.setLane (s : State) (n : Nat) (l : Lane) : State := { s with lanes := smSet {} s.lanes n l }
/-- Block link n. -/
def State.blink (s : State) (n : Nat) : BlockLink := smGet {} s.blinks n
/-- Block link n replaced. -/
def State.setBlink (s : State) (n : Nat) (l : BlockLink) : State := { s with blinks := smSet {} s.blinks n l }
/-- Partition p. -/
def State.part (s : State) (p : Nat) : Partition := smGet {} s.parts p
/-- Partition p replaced. -/
def State.setPart (s : State) (p : Nat) (x : Partition) : State := { s with parts := smSet {} s.parts p x }

/-- A free value of w bits, and the state with the draw counted (log entry 4). -/
def State.draw (s : State) (w : Nat) : BitVec w × State := (Config.freeValue w s.free, { s with free := s.free + 1 })

/-- Current frame of partition p as a number. -/
def State.frameOf (s : State) (p : Nat) : Nat := (s.part p).frame.toNat

/-! ### Counters (Table 20.9) and the error log -/

/-- Key of a counter: subsystem, unit, ID. -/
def ctrKey (sub unit id : Nat) : Nat := (sub * 65536 + unit) * 256 + id

/-- A counter of Table 20.9. -/
def State.counter (s : State) (sub unit id : Nat) : Nat := smGet 0 s.logs.ctr (ctrKey sub unit id)

/-- Adds n to a counter, which saturates at 32 bits (R432). -/
def bumpBy (n sub unit id : Nat) (s : State) : State :=
  { s with logs := { s.logs with ctr := smSet 0 s.logs.ctr (ctrKey sub unit id) (sat32 (s.counter sub unit id + n)) } }

/-- Counts one event in a counter. -/
def bump (sub unit id : Nat) (s : State) : State := bumpBy 1 sub unit id s

/-- What a caller of the error log supplies (Table 20.6); the rest is filled in. -/
structure LogArg where
  cause : Nat
  sub : Nat
  sev : Nat
  part : Nat := 0xFF
  event : Bool := false
  loc : Nat := 0
  detail : Nat := 0

/-- The record of SEV 0 that a new record coalesces with: same CAUSE, SUB and LOC, written within the
previous 1 s (R430). -/
def coalesces (a : LogArg) (now : Nat) (r : LogRec) : Bool :=
  decide (a.sev = 0) && decide (r.sev = 0) && decide (r.cause = a.cause) && decide (r.sub = a.sub) &&
    decide (r.loc = BitVec.ofNat 64 a.loc) && decide (now ≤ r.at_ + 1600000000)

/-- The list without its first record of SEV 0 (R430). -/
def dropOldest0 : List LogRec → List LogRec
  | [] => []
  | r :: l => if r.sev = 0 then l else r :: dropOldest0 l

/-- The last n elements. -/
def lastN {α : Type} (n : Nat) (l : List α) : List α := l.drop (l.length - n)

/-- Causes that the correctable-event count of a pair counts (R310). -/
def correctable (cause : Nat) : Bool :=
  [St.wordFix, St.fabricCfgFix, St.hardFix, St.dramFix, St.nocFix, St.copyRepair].contains cause

/-- The correctable-event count after a record, in a paired device (R310). -/
def countRecord (cause : Nat) (p : Pendant) : Pendant :=
  if correctable cause ∧ p.st ≠ .unpaired ∧ p.st ≠ .pairing then { p with cev := min 65535 (p.cev + 1) } else p

/-- A record is written into the error log (R429, R430). PERSIST stands in records of severity 2 or above,
the ones R427 keeps in the health record. -/
def logRec (a : LogArg) (s : State) : State :=
  let lg := s.logs
  if lg.recs.any (coalesces a s.clk.now) then
    { s with logs := { lg with recs := lg.recs.map fun r => if coalesces a s.clk.now r then { r with count := min 65535 (r.count + 1) } else r } }
  else if lg.recs.length = 8192 ∧ lg.recs.all (fun r => r.sev ≠ 0) then bump 0xB 0 2 s
  else
    let r : LogRec := {
      seq := lg.seq, cause := a.cause, sub := a.sub, sev := a.sev, step := s.clk.count,
      frame := if a.part < 4 then (s.part a.part).frame else 0, part := a.part, persist := decide (2 ≤ a.sev),
      event := a.event, count := 1, loc := BitVec.ofNat 64 a.loc, detail := BitVec.ofNat 96 a.detail, at_ := s.clk.now }
    let kept := if lg.recs.length = 8192 then dropOldest0 lg.recs else lg.recs
    { s with
      pend := countRecord a.cause s.pend
      logs := { lg with recs := kept ++ [r], seq := lg.seq + 1 }
      health := if 2 ≤ a.sev then { s.health with last := lastN 256 (s.health.last ++ [r]) } else s.health }

/-! ### Rings and backlogs (R329, R331, R296) -/

/-- Slots of a ring. -/
def RingRegs.size (r : RingRegs) : Nat := 2 ^ r.log2.toNat
/-- Slots between head and tail. -/
def RingRegs.filled (r : RingRegs) : Nat := (r.tail.toNat + r.size - r.head.toNat) % r.size
/-- Free slots: the ring never holds more than its size less one. -/
def RingRegs.room (r : RingRegs) : Nat := r.size - 1 - r.filled
/-- 64-byte slots a packet takes. -/
def slotsOf (b : List Byte) : Nat := (b.length + 63) / 64
/-- Index moved on by n slots, wrapping. -/
def RingRegs.after (r : RingRegs) (idx : BitVec 16) (n : Nat) : BitVec 16 := BitVec.ofNat 16 ((idx.toNat + n) % r.size)

/-- The reply (false) or event (true) ring of a function. -/
def Func.ring (f : Func) (ev : Bool) : RingRegs := if ev then f.evt else f.rpl
/-- That ring replaced. -/
def Func.setRing (f : Func) (ev : Bool) (r : RingRegs) : Func := if ev then { f with evt := r } else { f with rpl := r }
/-- The reply or event part of the backlog. -/
def Func.back (f : Func) (ev : Bool) : List (List Byte) := if ev then f.backEvt else f.backRpl
/-- That part replaced. -/
def Func.setBack (f : Func) (ev : Bool) (l : List (List Byte)) : Func := if ev then { f with backEvt := l } else { f with backRpl := l }

/-- A packet can be written now: the rings are in service and every slot it takes is free (R331, R471). -/
def Func.fits (f : Func) (ev : Bool) (b : List Byte) : Bool := f.qactive && f.enable && decide (slotsOf b ≤ (f.ring ev).room)

/-- The packet's slots are written, the tail advances and the ring's interrupt is raised (R331). -/
def writeRing (n : Nat) (ev : Bool) (b : List Byte) (s : State) : State :=
  let f := s.fn n
  let r := f.ring ev
  raiseInt n (bitNat ev) ((s.setFn n (f.setRing ev { r with tail := r.after r.tail (slotsOf b) })).emit (.ringPacket n ev b))

/-- The network clock runs (R284): in Run and Idle with the PLL, and in Sleep while PD_BASE is woken on demand (R407). -/
def State.nocRuns (s : State) : Bool :=
  (s.clk.pll && (decide (s.pwr.dom = .run) || decide (s.pwr.dom = .idle))) ||
    (decide (s.pwr.dom = .sleep) && s.pwr.woken.any fun w => decide (w.1 = .base))

/-- Network cycle from which one of a function's queues has been full (R296). -/
def Func.full (f : Func) (ev : Bool) : Option Nat := if ev then f.eventFull else f.replyFull
/-- That cycle written. -/
def Func.setFull (f : Func) (ev : Bool) (v : Option Nat) : Func := if ev then { f with eventFull := v } else { f with replyFull := v }

/-- The packet is spooled into the function's backlog (R331). -/
def spool (n : Nat) (ev : Bool) (b : List Byte) (s : State) : State :=
  let f := s.fn n
  let f1 := f.setBack ev (f.back ev ++ [b])
  s.setFn n (if (f.full ev).isNone && f.enable then f1.setFull ev (some s.noc.cyc) else f1)

/-- A reply or event whose room is assured: written when nothing waits before it and it fits, else spooled. -/
def placePacket (n : Nat) (ev : Bool) (b : List Byte) (s : State) : State :=
  let f := s.fn n
  if (f.back ev).isEmpty && f.fits ev b then writeRing n ev b s else spool n ev b s

/-! ### Packets (Tables 15.2, 15.3) -/

/-- A reply packet. -/
def replyBytes (op : Nat) (tag : U16) (path status : Nat) (acc : Nat) (data : List Byte) : List Byte :=
  leBytes 2 (op % 0x8000 + 0x8000) ++ leBytes 2 tag.toNat ++ leBytes 4 (16 + data.length) ++ leBytes 2 path ++
    leBytes 2 status ++ leBytes 4 acc ++ data

/-- An event packet. -/
def eventBytes (op : Nat) (tag : Nat) (path code : Nat) (seq : U32) (data : List Byte) : List Byte :=
  leBytes 2 op ++ leBytes 2 tag ++ leBytes 4 (16 + data.length) ++ leBytes 2 path ++ leBytes 2 code ++
    leBytes 4 seq.toNat ++ data

/-- The data of an unsolicited event's common fields (R326). -/
def commonFields (sub part frame : Nat) : List Byte := leBytes 1 sub ++ leBytes 1 part ++ leBytes 6 frame

/-- An event takes the next EVSEQ of function n; it is written, spooled, or lost to a full backlog and counted. -/
def putFnEvent (n op tag code : Nat) (data : List Byte) (s : State) : State :=
  let f := s.fn n
  let b := eventBytes op tag 0 code f.evSeq data
  let s1 := s.setFn n { f with evSeq := f.evSeq + 1 }
  if f.backEvt.isEmpty && f.fits true b then writeRing n true b s1
  else if f.backEvt.length < 256 then spool n true b s1
  else bump 0xB n 1 (s1.setFn n { s1.fn n with lost := f.lost + 1 })

/-- The marker event that counts lost events, written once space has returned (R326). -/
def putLostMarker (n : Nat) (s : State) : State :=
  let f := s.fn n
  if f.lost = 0 ∨ 256 ≤ f.backEvt.length then s
  else putFnEvent n 0xFF00 0xFFFF St.eventLost (commonFields 0xB 0xFF 0 ++ leBytes 4 f.lost) (s.setFn n { f with lost := 0 })

/-- An event for function n; a function that does not exist receives none (R467). -/
def fnEvent (n op tag code : Nat) (data : List Byte) (s : State) : State :=
  if s.fnExists n then putFnEvent n op tag code data (putLostMarker n s) else s

/-- The current upstream link: 0 or 7 (R389). -/
def State.upLink (s : State) : Nat := if s.clk.upS7 then 7 else 0

/-- An event on control link l, PATH the device's own address (Table 15.3). -/
def linkEvent (l op tag code : Nat) (data : List Byte) (s : State) : State :=
  let k := s.link l
  (s.setLink l { k with evSeq := k.evSeq + 1 }).emit (.linkPacket l (eventBytes op tag s.arm.addr.toNat code k.evSeq data))

/-- An event for the debug port's packet buffer. -/
def dbgEvent (op tag code : Nat) (data : List Byte) (s : State) : State :=
  { s with dbg := { s.dbg with evSeq := s.dbg.evSeq + 1, pktOut := s.dbg.pktOut ++ [eventBytes op tag 0 code s.dbg.evSeq data] } }

/-- Control link of a source, if it is one (Table 15.4). -/
def srcLink (src : Nat) : Option Nat := if src = 0x10 then some 0 else if src = 0x17 then some 7 else none

/-- The replies and events of this command are discarded because its function was reset (R335, Table 23.5). -/
def State.dead (s : State) (c : CmdCtx) : Bool := decide (c.src.toNat < 16) && (s.fn c.src.toNat).dead.contains c.accSeq

/-- ACCSEQ a is that of an earlier acceptance than b (R328). -/
def accBefore (a b : U32) : Bool := decide (a ≠ b) && decide ((b - a).toNat < 2 ^ 31)

/-- Command, with its opcode, that waits for the boundary of a pause asked of the scope root. -/
def askingCmd : PauseOwner → Option (CmdCtx × Nat)
  | .cmd c => some (c, 0x0301)
  | .cast c => some (c, 0x0D04)
  | .switch c => some (c, 0x0406)
  | _ => none

/-- Commands accepted and executed whose reply waits for the scope root (R374). -/
def State.asking (s : State) : List (CmdCtx × Nat) := [0, 1, 2, 3].flatMap fun p => (s.part p).asked.filterMap fun a => askingCmd a.owner

/-- A reply waits for its turn: an immediate command of its source accepted earlier has not replied, or its reply waits too (R336). -/
def State.waitsTurn (s : State) (c : CmdCtx) : Bool :=
  let earlier := fun d : CmdCtx => decide (d.src = c.src) && accBefore d.accSeq c.accSeq
  s.asking.any (fun a => earlier a.1) || s.plinth.held.any fun h => earlier h.ctx

/-- A reply on the transport a command came from. -/
def putReply (c : CmdCtx) (op status : Nat) (data : List Byte) (s : State) : State :=
  if s.dead c then s
  else match srcLink c.src.toNat with
    | some l => s.emit (.linkPacket l (replyBytes op c.tag s.arm.addr.toNat status c.accSeq.toNat data))
    | none =>
      if c.src.toNat < 16 then
        if s.fnExists c.src.toNat then placePacket c.src.toNat false (replyBytes op c.tag 0 status c.accSeq.toNat data) s else s
      else { s with dbg := { s.dbg with pktOut := s.dbg.pktOut ++ [replyBytes op c.tag 0 status c.accSeq.toNat data] } }

/-- A reply waits for its turn. -/
def holdReply (h : HeldReply) (s : State) : State := { s with plinth := { s.plinth with held := s.plinth.held ++ [h] } }

/-- The reply of a command, once those of earlier immediate commands of its source have gone (R336). -/
def sendReply (c : CmdCtx) (op status : Nat) (data : List Byte) (s : State) : State :=
  if s.waitsTurn c then holdReply { ctx := c, opcode := op, event := false, code := status, data := data } s else putReply c op status data s

/-- A completion event on the transport and source of its command (R326). -/
def putCompletion (c : CmdCtx) (op code : Nat) (data : List Byte) (s : State) : State :=
  let d := leBytes 4 c.accSeq.toNat ++ data
  let o := op % 0x4000 + 0xC000
  if s.dead c then s
  else match srcLink c.src.toNat with
    | some l => linkEvent l o c.tag.toNat code d s
    | none => if c.src.toNat < 16 then fnEvent c.src.toNat o c.tag.toNat code d s else dbgEvent o c.tag.toNat code d s

/-- A completion event, which follows the command's own reply (R336). -/
def sendCompletion (c : CmdCtx) (op code : Nat) (data : List Byte) (s : State) : State :=
  if s.plinth.held.any fun h => decide (h.ctx = c) then holdReply { ctx := c, opcode := op, event := true, code := code, data := data } s
  else putCompletion c op code data s

/-- A held reply or completion event goes out. -/
def putHeld (s : State) (h : HeldReply) : State := if h.event then putCompletion h.ctx h.opcode h.code h.data s else putReply h.ctx h.opcode h.code h.data s

/-- The replies whose turn has come go out, in their order (R336). -/
def releaseReplies (s : State) : State :=
  let stays := fun h : HeldReply => s.asking.any fun a => decide (a.1.src = h.ctx.src) && accBefore a.1.accSeq h.ctx.accSeq
  (s.plinth.held.filter fun h => !stays h).foldl putHeld { s with plinth := { s.plinth with held := s.plinth.held.filter stays } }

/-- Context and opcode of an opcode row; none for an event row. -/
def instrHead : Instr → Option (CmdCtx × Nat)
  | .identQuery c => some (c, 0x0101)
  | .identEquiv c => some (c, 0x0102)
  | .identCert c _ => some (c, 0x0103)
  | .pwrSet c _ _ => some (c, 0x0201)
  | .pwrStatus c => some (c, 0x0202)
  | .pwrWatch c _ _ _ _ _ => some (c, 0x0203)
  | .framePause c _ _ _ => some (c, 0x0301)
  | .frameResume c _ _ => some (c, 0x0302)
  | .frameStep c _ _ _ => some (c, 0x0303)
  | .frameMailbox c _ _ _ _ _ => some (c, 0x0304)
  | .frameStatus c _ _ => some (c, 0x0305)
  | .maquetteLoad c _ _ _ _ _ _ => some (c, 0x0401)
  | .maquetteStart c _ _ => some (c, 0x0402)
  | .maquetteUnload c _ _ => some (c, 0x0403)
  | .maquetteMigrate c _ _ _ _ => some (c, 0x0404)
  | .maquetteRegion c _ _ _ _ => some (c, 0x0405)
  | .maquetteSwitch c _ _ _ _ _ _ _ _ _ => some (c, 0x0406)
  | .transPool c _ _ => some (c, 0x0501)
  | .transMap c _ _ _ _ _ _ _ _ => some (c, 0x0502)
  | .transUnmap c _ _ _ _ _ _ => some (c, 0x0503)
  | .transResolve c _ _ _ _ _ _ _ => some (c, 0x0504)
  | .transFaults c _ _ => some (c, 0x0505)
  | .transWalk c _ _ _ => some (c, 0x0506)
  | .dmaSubmit c _ _ _ _ _ _ => some (c, 0x0601)
  | .dmaResume c _ _ _ => some (c, 0x0602)
  | .dmaAbort c _ _ _ => some (c, 0x0603)
  | .dmaStatus c _ _ => some (c, 0x0604)
  | .keyLoad c _ _ _ _ _ _ => some (c, 0x0701)
  | .keyBind c _ _ _ _ => some (c, 0x0702)
  | .keyUnbind c _ _ => some (c, 0x0703)
  | .keyRetire c _ _ => some (c, 0x0704)
  | .keyRotate c _ _ _ => some (c, 0x0705)
  | .keyStatus c => some (c, 0x0706)
  | .laneStatus c _ _ => some (c, 0x0801)
  | .laneEq c _ _ _ => some (c, 0x0802)
  | .laneRetrain c _ _ => some (c, 0x0803)
  | .laneWidth c _ _ _ => some (c, 0x0804)
  | .lanePattern c _ _ _ _ => some (c, 0x0805)
  | .laneInject c _ _ _ _ _ _ => some (c, 0x0806)
  | .laneSleep c _ _ _ => some (c, 0x0807)
  | .pendantPair c _ _ _ => some (c, 0x0901)
  | .pendantMode c _ _ _ _ => some (c, 0x0902)
  | .pendantRetire c _ _ _ => some (c, 0x0903)
  | .pendantPrefer c _ _ => some (c, 0x0904)
  | .pendantTakeover c => some (c, 0x0905)
  | .pendantResync c _ _ => some (c, 0x0906)
  | .pendantHandover c _ _ => some (c, 0x0907)
  | .pendantDissolve c => some (c, 0x0908)
  | .pendantStatus c => some (c, 0x0909)
  | .maintStart c _ _ _ => some (c, 0x0A01)
  | .maintStop c _ _ => some (c, 0x0A02)
  | .maintStatus c => some (c, 0x0A03)
  | .timeRead c => some (c, 0x0B01)
  | .timeAdjust c _ _ _ => some (c, 0x0B02)
  | .timeCompat c _ _ _ _ _ _ => some (c, 0x0B03)
  | .timeUpstream c _ _ => some (c, 0x0B04)
  | .trustQuote c _ _ _ => some (c, 0x0C01)
  | .trustLog c _ => some (c, 0x0C02)
  | .fwDownload c _ _ _ => some (c, 0x0C03)
  | .fwVerify c _ => some (c, 0x0C04)
  | .fwActivate c => some (c, 0x0C05)
  | .fwConfirm c => some (c, 0x0C06)
  | .fwStatus c => some (c, 0x0C07)
  | .dbgHalt c => some (c, 0x0D01)
  | .dbgRun c => some (c, 0x0D02)
  | .dbgAccess c _ _ _ _ _ _ _ _ => some (c, 0x0D03)
  | .castTake c _ _ _ _ _ => some (c, 0x0D04)
  | .castSave c _ _ _ _ => some (c, 0x0D05)
  | .castRead c _ _ _ => some (c, 0x0D06)
  | .castRestore c _ _ _ _ => some (c, 0x0D07)
  | .statsNoc c _ _ _ _ => some (c, 0x0E01)
  | .statsRead c _ _ _ => some (c, 0x0E02)
  | .logRead c _ _ _ => some (c, 0x0E03)
  | .logSecurity c _ _ _ => some (c, 0x0E04)
  | .armProbe c => some (c, 0x0F01)
  | .armAssign c _ _ _ _ _ _ _ => some (c, 0x0F02)
  | .armScope c _ _ _ _ => some (c, 0x0F03)
  | .consensusQuery c _ _ => some (c, 0x0F04)
  | .armStatus c => some (c, 0x0F05)
  | .consensusOverride c _ _ => some (c, 0x0F06)
  | _ => none

/-- Context of an opcode row. -/
def instrCtx (i : Instr) : Option CmdCtx := (instrHead i).map (·.1)

/-- The command leaves the queue of accepted commands: it executes now. -/
def takeAccepted (c : CmdCtx) (s : State) : State :=
  { s with plinth := { s.plinth with accepted := s.plinth.accepted.filter fun i => decide (instrCtx i ≠ some c) } }

/-- The one reply of a command (R335): one that was deferred is no longer so; ACCEPTED leaves it open until its
completion event. -/
def reply (c : CmdCtx) (op status : Nat) (data : List Byte) (s : State) : State :=
  sendReply c op status data { s with plinth := { s.plinth with
    deferred := s.plinth.deferred.filter fun w => decide (w.ctx ≠ c)
    open_ := if status = St.accepted then s.plinth.open_ ++ [{ ctx := c, opcode := op }] else s.plinth.open_ } }

/-- The completion event of a command that was replied ACCEPTED and is still open (R335, R337). -/
def complete (c : CmdCtx) (code : Nat) (data : List Byte) (s : State) : State :=
  match s.plinth.open_.find? (fun w => decide (w.ctx = c)) with
  | none => s
  | some w => sendCompletion c w.opcode code data { s with plinth := { s.plinth with open_ := s.plinth.open_.filter fun v => decide (v.ctx ≠ c) } }

/-- Completion for a command that may be absent (an activity whose sender is the device itself). -/
def completeOpt (c : Option CmdCtx) (code : Nat) (data : List Byte) (s : State) : State :=
  match c with
  | none => s
  | some x => complete x code data s

/-- An unsolicited event: to the physical function, to the function that owns the job space the event is tied
to, and upward on the current upstream link of an assigned device (R326). -/
def postEvent (code sub part : Nat) (js : Option Nat) (data : List Byte) (s : State) : State :=
  let d := commonFields sub part (if part < 4 then s.frameOf part else 0) ++ data
  let s1 := fnEvent 0 0xFF00 0xFFFF code d s
  let s2 := match js with
    | some n => if n = 0 then s1 else fnEvent n 0xFF00 0xFFFF code d s1
    | none => s1
  if s.arm.assigned then linkEvent s.upLink 0xFF00 0xFFFF code d s2 else s2

/-- Events of a partition are tied to its job space. -/
def State.jsOf (s : State) (p : Nat) : Option Nat := if (s.part p).st = .empty then none else some (s.part p).jsid

/-- An event of partition p. -/
def partEvent (code sub p : Nat) (data : List Byte) (s : State) : State := postEvent code sub p (s.jsOf p) data s

/-- A log record that is also posted as an event (FLAGS[1]). -/
def logEvent (a : LogArg) (js : Option Nat) (data : List Byte) (s : State) : State :=
  postEvent a.cause a.sub a.part js data (logRec { a with event := true } s)

/-- A record of a marker on a control link. -/
def sendMarker (link type scope frame arg : Nat) (s : State) : State := s.emit (.marker link type scope frame arg)

end Sys2Proof.Machine
end

