-- ==== Sys2Proof/Machine/Health.lean ====
section
/-!
DEFINITION. Health.lean: the health record and the candidate conditions (R426, R427, Table 20.5).
-/
namespace Sys2Proof.Machine

/-- The health record is written: the older copy takes the newer sequence number plus 1 (R427, R442). -/
def writeHealth (s : State) : State :=
  let h := s.health
  { s with health := if h.seq0 ≤ h.seq1 then { h with seq0 := h.seq1 + 1 } else { h with seq1 := h.seq0 + 1 } }

/-- Steps in a day. -/
abbrev daySteps : Nat := 24 * 3600 * 1600000000
/-- Steps in 30 days. -/
abbrev monthSteps : Nat := 30 * daySteps

/-- Conditions that the record counts: 0 correction by Rasp (unit a row of a store, detail its bit position), 1 engine failure,
2 FABRIC_CFG_LOST, 3 FABRIC_CFG_FIX (detail frame), 4 HARD_UNCORR or SLICE_UCODE, 5 DRAM_FIX (unit a rank, detail a line). -/
def noteMark (kind unit detail : Nat) (s : State) : State :=
  { s with health := { s.health with marks := s.health.marks ++ [(kind, unit, detail, s.clk.now)] } }

/-- Events of a condition and unit within a window of steps. -/
def State.marksOf (s : State) (kind unit window : Nat) : List (Nat × Nat × Nat × Nat) :=
  s.health.marks.filter fun m => decide (m.1 = kind) && decide (m.2.1 = unit) && decide (s.clk.now ≤ m.2.2.2 + window)

/-- A physical cluster becomes a retirement candidate (R426). -/
def candidateCluster (pcl : Nat) (s : State) : State :=
  if smGet 0 s.arr.retired pcl ≠ 0 then s
  else writeHealth (logRec { cause := St.unitCandidate, sub := 0xF, sev := 4, loc := pcl * 1024 }
    { s with arr := { s.arr with retired := smSet 0 s.arr.retired pcl 1 } })

/-- A region, a block memory (0x1000 + n) or a slice (0x10000 + n) becomes a retirement candidate. -/
def candidateFabric (unit : Nat) (s : State) : State :=
  if smGet 0 s.fab.retired unit ≠ 0 then s
  else writeHealth (logRec { cause := St.unitCandidate, sub := 0xF, sev := 4, loc := unit }
    { s with fab := { s.fab with retired := smSet 0 s.fab.retired unit 1 } })

/-- An engine-failure hold counts towards its cluster's condition: 3 within 30 days. -/
def noteEngine (pcl : Nat) (s : State) : State :=
  let s1 := noteMark 1 pcl 0 s
  if 3 ≤ (s1.marksOf 1 pcl monthSteps).length then candidateCluster pcl s1 else s1

/-- A lost region counts: twice within 30 days. -/
def noteLost (region : Nat) (s : State) : State :=
  let s1 := noteMark 2 region 0 s
  if 2 ≤ (s1.marksOf 2 region monthSteps).length then candidateFabric region s1 else s1

/-- A corrected configuration frame counts: 64 in one frame within 30 days. -/
def noteFix (region frame : Nat) (s : State) : State :=
  let s1 := noteMark 3 region frame s
  if 64 ≤ ((s1.marksOf 3 region monthSteps).filter fun m => decide (m.2.2.1 = frame)).length then candidateFabric region s1 else s1

/-- An uncorrectable finding of a block memory or slice counts: twice within 30 days. -/
def noteHard (unit : Nat) (s : State) : State :=
  let s1 := noteMark 4 unit 0 s
  if 2 ≤ (s1.marksOf 4 unit monthSteps).length then candidateFabric unit s1 else s1

end Sys2Proof.Machine
end

