-- ==== Sys2Proof/Machine/Scope.lean ====
section
/-!
DEFINITION. Scope.lean: frames, boundaries, vetoes, holds and pauses of a partition and its veto scope, as
the frame and Armature chapters give them: what every family uses that touches a frame's result.
-/
namespace Sys2Proof.Machine

/-! ### Frame numbers and steps -/

/-- Current step-counter value as a number. -/
def State.cnt (s : State) : Nat := s.clk.count.toNat

/-- The step clock reaches the array: its PLL is locked, nothing halts it, the device does not coast, and CLOCK does not gate it
(R404, R456, R391). -/
def State.stepping (s : State) : Bool := s.clk.pll && s.clk.halt.isNone && !s.clk.coast && decide (s.pwr.dom = .run)

/-- Sweeps and rank migrations stand at their watermarks: from the entry step QUIESCE until an exit has brought the DRAM out of self-refresh
(Tables 19.3 and 19.6; log entry 35). -/
def State.movesPaused (s : State) : Bool :=
  let leaving := match s.pwr.trans with | some t => !t.entering | none => false
  let quiescing := match s.pwr.trans with | some t => t.entering && decide (t.steps.head? = some .quiesce) | none => false
  s.dram.selfRefresh || quiescing || (s.pwr.taken.contains .quiesce && !leaving)

/-- Frame a is earlier than frame b: it lies in the 2^47 numbers before b (R15). -/
def frameBefore (a b : FrameNo) : Bool := decide (a ≠ b) && decide ((b - a).toNat < 2 ^ 47)

/-- Frame m has passed when the current frame is cur: it equals cur or lies in the 2^47 before it (R15). -/
def framePassed (cur m : FrameNo) : Bool := decide ((cur - m).toNat ≤ 2 ^ 47)

/-- The 48-bit frame number nearest cur whose low 24 bits are low (Table 17.2). -/
def nearestFrame (cur : FrameNo) (low : Nat) : FrameNo :=
  let d := (low + 2 ^ 24 - cur.toNat % 2 ^ 24) % 2 ^ 24
  if d < 2 ^ 23 then cur + BitVec.ofNat 48 d else cur + BitVec.ofNat 48 d - BitVec.ofNat 48 (2 ^ 24)

/-- The 64-bit counter value nearest cur whose low 32 bits are low (R369). -/
def nearestStep (cur : Nat) (low : Nat) : Nat :=
  let d := (low + 2 ^ 32 - cur % 2 ^ 32) % 2 ^ 32
  if d < 2 ^ 31 then cur + d else cur + d - 2 ^ 32

/-- E, W, F and D of a loaded image; those of the shortest frame where none is loaded. -/
def Partition.evalLen (x : Partition) : Nat := (x.image.map (·.e)).getD 16
/-- F = E + W + 64 (R27). -/
def Partition.frameLen (x : Partition) : Nat := (x.image.map fun i => i.e + i.w + 64).getD 128
/-- Replay depth (R40). -/
def Partition.depth (x : Partition) : Nat := (x.image.map (·.d)).getD 1

/-- Step of h 0 of the frame in progress (R32). -/
def Partition.h0 (x : Partition) : Nat := x.tick + x.frameLen - 64

/-- Veto sampling point of the frame in progress, h 52 (R33). -/
def Partition.sampling (x : Partition) : Nat := x.h0 + 52

/-- Highest table index consulted (R29). -/
def Partition.lastIndex (x : Partition) : Nat := min (x.frameLen - 65) 1023

/-- A frame of the partition executes. -/
def Partition.inFrame (x : Partition) : Bool := decide (x.st = .running) && decide (x.phase = .frame)

/-- Current frame (R15): the one in execution, else the highest begun. -/
def Partition.current (x : Partition) : FrameNo := if x.phase = .frame then x.frame else x.top

/-- h 0 of the highest frame begun has begun in some execution of it. -/
def Partition.h0Begun (x : Partition) (now : Nat) : Bool := x.topH0 || (decide (x.phase = .frame) && decide (x.frame = x.top) && decide (x.h0 ≤ now))

/-- COND of FRAME.STATUS (Table 16.4): paused prevails over held, as a pause stays in force (R51). DESIGN CHOICE: held prevails over a
pause that is pending, for which Table 2.6 has no column (log entry 15). -/
def Partition.cond (x : Partition) : Nat :=
  if x.st ≠ .running then 0 else if x.pausedAt.isSome then 2 else if x.heldFrame.isSome then 3
  else if x.pauses.isEmpty then 0 else 1

/-- STATE of FRAME.STATUS. -/
def pstateCode : PState → Nat
  | .empty => 0 | .loading => 1 | .loaded => 2 | .starting => 3 | .running => 4

/-- Physical clusters the partition occupies. -/
def Partition.pcls (x : Partition) : List Nat := x.pmap.map fun e => e.2 - 1

/-- Physical cluster of logical cluster L, if placed. -/
def Partition.pcl (x : Partition) (lcl : Nat) : Option Nat := match smGet 0 x.pmap lcl with | 0 => none | n + 1 => some n

/-- The device is the scope root of partition p (R366). -/
def State.isRoot (s : State) (p : Nat) : Bool := !(s.part p).rootSc && decide ((s.part p).root = s.arm.addr)

/-- The scope of partition p is this device alone. -/
def State.isSingle (s : State) (p : Nat) : Bool := s.isRoot p && (s.part p).sc.bearing.isEmpty

/-- SCOPE[15:0] of a partition. -/
def Partition.scope16 (x : Partition) : Nat := x.scope.toNat % 65536

/-- Ancestors of a position (R362). -/
def ancestorsOf : Nat → Nat → List Nat
  | 0, _ => []
  | n + 1, c => if c < 6 then [] else (c - 6) / 6 :: ancestorsOf n ((c - 6) / 6)

/-- Position c lies in the subtree of position r. -/
def inSubtree (r c : Nat) : Bool := decide (c = r) || (ancestorsOf 8 c).contains r

/-! ### Scope markers -/

/-- A K28.0 sequence is sent twice in succession (R367). -/
def sendTwice (link type scope frame arg : Nat) (s : State) : State :=
  sendMarker link type scope (frame % 2 ^ 24) (arg % 2 ^ 32) (sendMarker link type scope (frame % 2 ^ 24) (arg % 2 ^ 32) s)

/-- Child links S1 to S6 that are up and lead to a recorded device (R364). -/
def State.childLinks (s : State) : List Nat := [1, 2, 3, 4, 5, 6].filter fun k => (s.link k).up && (s.link k).child.isSome

/-- A marker down every child link whose recorded device lies in the subtree. -/
def markerDown (type scope frame arg : Nat) (s : State) : State :=
  s.childLinks.foldl (fun a k => sendTwice k type scope frame arg a) s

/-- A marker up the current upstream link. -/
def markerUp (type scope frame arg : Nat) (s : State) : State := sendTwice s.upLink type scope frame arg s

/-- A Horizon mark down the member-bearing links (R370). -/
def markDown (p frame step : Nat) (s : State) : State :=
  (s.part p).sc.bearing.foldl (fun a k => a.emit (.horizonMark k (s.part p).scope16 (frame % 2 ^ 24) (step % 2 ^ 32))) s

/-- MARKS_BAD of ARM.STATUS and of the link's counters (R367, Table 20.9). -/
def countBad (link : Nat) (s : State) : State := bump 0xC link 1 { s with arm := { s.arm with marksBad := sat32 (s.arm.marksBad + 1) } }

/-! ### Boundaries -/

/-- First boundary for which now + lead falls before h 0 of the frame before it (R50, R374). At a boundary whose frame is withheld no h 0
follows until that frame runs: it is the boundary after that frame. -/
def firstBoundary (x : Partition) (now lead : Nat) : FrameNo :=
  if x.phase = .withheld then x.frame + 2
  else if now + lead < x.h0 then x.frame + 1 else x.frame + 2 + BitVec.ofNat 48 ((now + lead - x.h0) / x.frameLen)

/-- The later of a requested future frame and the first one that can still be reached. -/
def placeAt (cur req first : FrameNo) : FrameNo :=
  if req = 0 ∨ framePassed cur req ∨ frameBefore req first then first else req

/-- Boundary that a pause request for m takes (R50): in a scope of one device the lead is 0, at the root of a
larger scope it is V_down. While a hold stands or a replay is placed it is the boundary after the last frame of its replay
sequence (Table 2.6, log entry 13); while a pause stands, the one after its own. -/
def pauseBoundary (single : Bool) (x : Partition) (now : Nat) (m : FrameNo) : FrameNo :=
  placeAt x.current m (
    if x.phase = .frame ∨ x.phase = .withheld then firstBoundary x now (if single then 0 else x.vdown)
    else match x.pausedAt, x.seq with
      | some (b, _, _, _), none => b + 1
      | some (b, _, _, _), some (_, e) => if x.phase = .paused then b + 1 else e + 1
      | none, some (_, e) => e + 1
      | none, none => x.frame + 1)

/-- First frame whose latch point, h 0 of the frame two before it, has begun in no execution (R375, R47) and, while frames advance, lies
more than lead steps ahead, what the change waits for taking that long (R101, R193). -/
def changeFrame (x : Partition) (now lead : Nat) (m : FrameNo) : FrameNo :=
  let more := if x.phase = .frame ∧ x.frame = x.top ∧ x.h0 ≤ now + lead then 1 + (now + lead - x.h0) / x.frameLen else 0
  placeAt x.current m (x.top + 2 + BitVec.ofNat 48 (max more (bitNat (x.h0Begun now))))

/-- A pause joins the armed ones, earliest boundary first. -/
def insertPause (q : Pause) : List Pause → List Pause
  | [] => [q]
  | r :: l => if frameBefore q.m r.m then q :: r :: l else r :: insertPause q l

/-- Arms a pause at boundary m. -/
def armPause (p : Nat) (q : Pause) (s : State) : State :=
  let x := s.part p
  s.setPart p { x with pauses := insertPause q x.pauses }

/-- The root arms a pause and orders it in its scope (R374); it answers the boundary. -/
def rootPause (p : Nat) (m : FrameNo) (d : Nat) (owner : PauseOwner) (s : State) : FrameNo × State :=
  let b := pauseBoundary (s.isSingle p) (s.part p) s.cnt m
  (b, markerDown 0x05 (s.part p).scope16 b.toNat d (armPause p { m := b, d := d, owner := owner } s))

/-- A pause at the first boundary that the device itself can reach, ordered by the device (fabric faults,
rails, thermal, BRK in a scope of one device): at the root it is a pause of the scope, else a request. -/
def selfPause (p : Nat) (owner : PauseOwner) (s : State) : State :=
  if (s.part p).st ≠ .running then s
  else if s.isRoot p then (rootPause p 0 0 owner s).2
  else
    let x := s.part p
    markerUp 0x07 x.scope16 0 0 (s.setPart p { x with asked := x.asked ++ [{ owner := owner, d := 0, m := 0 }] })

/-! ### Vetoes -/

/-- Frame to which a condition detected now is charged (R33): the frame in progress up to its sampling point,
else the frame whose sampling point comes next. -/
def chargeFrame (x : Partition) (now : Nat) : FrameNo :=
  if x.phase = .frame then (if now ≤ x.sampling then x.frame else x.frame + 1)
  else match x.nextTick, x.heldFrame with
    | some (_, k, _), _ => k
    | none, some (k, _) => k
    | none, none => x.frame + 1

/-- 24-bit frame a lies before b. -/
def before24 (a b : Nat) : Bool := decide (a ≠ b) && decide ((b + 2 ^ 24 - a) % 2 ^ 24 < 2 ^ 23)

/-- A VETO is forwarded when it names an earlier frame than any already forwarded, or adds HOLD or BRK for a frame already forwarded
(R371). A break without a veto, which no verdict answers, holds back breaks alone. -/
def vetoIsNew (r : ScopeSt) (k : Nat) (hold brk veto : Bool) : Bool :=
  let newBrk := brk && !(r.brks.contains k || r.sent.any fun e => decide (e.1 = k) && e.2.2)
  if r.sent.any (fun e => decide (e.1 = k)) then (hold && !r.sent.any fun e => decide (e.1 = k) && e.2.1) || newBrk
  else r.sent.all (fun e => before24 k e.1) && (veto || (newBrk && r.brks.all fun b => before24 k b))

/-- A VETO forwarded is noted. -/
def noteVeto (k : Nat) (hold brk veto : Bool) (r : ScopeSt) : ScopeSt :=
  if veto then { r with sent := r.sent ++ [(k, hold, brk)] } else { r with brks := r.brks ++ [k] }

/-- What a scope keeps after a verdict for frame k: the vetoes of earlier frames, and no CLEAR (R371, R372). -/
def afterVerdict (k : Nat) (r : ScopeSt) : ScopeSt :=
  { r with sent := r.sent.filter (fun e => before24 e.1 k), brks := r.brks.filter (fun b => before24 b k), clears := [], clearSent := none }

/-- ARG of a VETO (Table 17.3). -/
def vetoArg (hold brk veto : Bool) : Nat := bitNat hold + 2 * bitNat brk + 4 * bitNat veto

/-- The root combines a veto into its decision (R38, R371): the earliest frame, and HOLD over REPLAY for it; the
verdict is issued 16 steps after the first veto that changes it. -/
def rootVeto (p : Nat) (k : FrameNo) (hold : Bool) (s : State) : State :=
  let x := s.part p
  let stands := match x.verdict with
    | some (v, h) => frameBefore v k || (decide (v = k) && (h || !hold))
    | none => false
  if stands then s
  else s.setPart p { x with decision := match x.decision with
    | none => some (s.cnt + 16, k, hold)
    | some (t, f, h) => if frameBefore k f then some (t, k, hold) else if f = k then some (t, f, h || hold) else some (t, f, h) }

/-- A device's own or received veto of a member's scope: at the root it enters the decision and a BRK pauses the
scope (R54); elsewhere it is forwarded upward when it is new. -/
def offerVeto (p : Nat) (k : FrameNo) (hold brk veto : Bool) (s : State) : State :=
  let k24 := k.toNat % 2 ^ 24
  if s.isRoot p then
    let s1 := if veto then rootVeto p k hold s else s
    if brk && !s.isSingle p then (rootPause p 0 0 .brk s1).2 else s1
  else
    let x := s.part p
    if vetoIsNew x.sc k24 hold brk veto then
      let s1 := s.setPart p { x with sc := noteVeto k24 hold brk veto x.sc }
      markerUp 0x01 x.scope16 k24 (vetoArg hold brk veto) { s1 with arm := { s1.arm with vetoes := s1.arm.vetoes + 1 } }
    else s

/-- The partition has left its veto scope: a fenced or retired twin, or a standby that has stopped, neither vetoes, arms nor samples
(R311, R313, R305). -/
def State.leftScope (s : State) (p : Nat) : Bool :=
  decide ((s.part p).phase = .stopped) && (decide (s.pend.st = .fenced) || decide (s.pend.st = .retired) || decide (s.pend.role = 2))

/-- A veto condition is detected in partition p: it is charged by R33 and sent at the sampling point, or at once when that point has
passed (R371), also within its step once the frame's vetoes have been sent. -/
def raiseVeto (p : Nat) (hold : Bool) (s : State) : State :=
  let x := s.part p
  if x.st ≠ .running ∨ s.leftScope p then s
  else
    let k := chargeFrame x s.cnt
    let s1 := s.setPart p { x with vetoes := x.vetoes ++ [(k, hold)] }
    if x.phase = .frame ∧ k = x.frame then (if x.hstage < 52 then s1 else offerVeto p k hold false true s) else offerVeto p k hold false true s1

/-! ### Holds -/

/-- Tick of the pause in force at boundary m (R52): T + d × F or the restart placed, but not before B + 2 L_in; none while neither is
given. -/
def Partition.pauseTick (x : Partition) : Option Nat :=
  match x.pausedAt with
  | none => none
  | some (_, t, b, d) =>
    if 0 < d then some (max (t + d * x.frameLen) (b + 2 * x.lin)) else x.restart.map fun r => max r (b + 2 * x.lin)

/-- A replay of frame k is placed at step g (R45, R48). A replay of the frame at whose boundary a pause stands re-executes nothing
before that boundary: the frame begins when both the replay start and the pause allow it (R55). -/
def placeReplay (k : FrameNo) (g : Nat) (x : Partition) : Partition :=
  match x.pausedAt with
  | some (m, _, _, _) =>
    if m = k then { x with phase := .paused, nextTick := x.pauseTick.map fun t => (max t g, m, false) }
    else { x with phase := .drain, nextTick := some (g, k, true) }
  | none => { x with phase := .drain, nextTick := some (g, k, true) }

/-- The root issues the replay start that ends a hold: G = now + V_down + 2 L_in (R48). A CANCEL that an earlier release followed is repeated
ahead of it (Table 17.4). -/
def releaseHold (p : Nat) (s : State) : State :=
  let x := s.part p
  match x.heldFrame with
  | none => s
  | some (k, _) =>
    let g := s.cnt + x.vdown + 2 * x.lin
    let y := placeReplay k g { x with
      heldFrame := none, holds := x.holds.filter (fun h => !h.resolved), replayLimit := false
      verdict := some (k, false), sc := { x.sc with clears := [], clearSent := none }
      cancels := x.cancels.map fun c => (c.1, c.2.1, true) }
    let again := x.cancels.filter fun c => c.2.2
    let s1 := again.foldl (fun a c => markerDown 0x0A x.scope16 c.1.toNat c.2.1 a) (s.setPart p y)
    markerDown 0x02 x.scope16 k.toNat g s1

/-- While a hold stands and every condition raised here is resolved and every member-bearing link has sent CLEAR,
the root releases the hold and another device sends CLEAR once (R372); a REPLAY_LIMIT hold yields none (R372). -/
def tryClear (p : Nat) (s : State) : State :=
  let x := s.part p
  match x.heldFrame with
  | none => s
  | some (k, _) =>
    if x.holds.all (·.resolved) && x.sc.bearing.all (x.sc.clears.contains ·) && !x.replayLimit then
      if s.isRoot p then releaseHold p s
      else if x.sc.clearSent.isSome then s
      else markerUp 0x04 x.scope16 k.toNat 0 (s.setPart p { x with sc := { x.sc with clearSent := some s.clk.now, cleared := k.toNat % 2 ^ 24 } })
    else s

/-- A hold condition of Table 16.18 is raised in partition p by the unit named: it is held until resolved, and
vetoes with HOLD (R37). -/
def raiseHold (p code unit : Nat) (s : State) : State :=
  let x := s.part p
  if x.st ≠ .running ∨ s.leftScope p then s
  else raiseVeto p true (s.setPart p { x with holds := x.holds ++ [{ code := code, unit := unit, frame := chargeFrame x s.cnt, resolved := false }] })

/-- The hold conditions that satisfy q are resolved; when none is left the device clears (R372). -/
def resolveHolds (p : Nat) (q : HoldCause → Bool) (s : State) : State :=
  let x := s.part p
  tryClear p (s.setPart p { x with holds := x.holds.map fun h => if q h then { h with resolved := true } else h })

/-- One condition of one unit is resolved. -/
def resolveHold (p code unit : Nat) (s : State) : State := resolveHolds p (fun h => decide (h.code = code) && decide (h.unit = unit)) s

/-- An operation over every partition. -/
def eachPart (g : Nat → State → State) (s : State) : State := [0, 1, 2, 3].foldl (fun a p => g p a) s

/-- A hold condition in every running partition. -/
def holdAll (code unit : Nat) (s : State) : State := eachPart (fun p => raiseHold p code unit) s

/-- That condition is resolved in every partition. -/
def resolveAll (code unit : Nat) (s : State) : State := eachPart (fun p => resolveHold p code unit) s

/-- HOLD field of FRAME.STATUS (R347): the first condition raised here for the hold in force. -/
def Partition.holdField (x : Partition) : Nat :=
  if x.heldFrame.isNone then 0
  else match x.holds with
    | h :: _ => h.code
    | [] => St.holdRemote

/-! ### Mode changes (R375) -/

/-- A mode change with effective frame m is registered. -/
def addChange (p : Nat) (c : ModeChange) (s : State) : State :=
  let x := s.part p
  s.setPart p { x with changes := x.changes ++ [c] }

/-- The hold of late changes of an opcode effective at m is resolved once none of them is late any more (R375). -/
def resolveLate (p opcode : Nat) (m : FrameNo) (s : State) : State :=
  if (s.part p).changes.any fun c => decide (c.opcode = opcode) && decide (c.m = m) && c.lateAt.isSome then s
  else resolveHolds p (fun h => decide (h.code = St.armLate) && decide (h.unit = opcode) && decide (h.frame = m)) s

/-- The units that a change of this opcode and argument involves are ready: before the latch they arm there; after
a late veto they report armed now and the hold condition is resolved (R375). -/
def changeReady (p opcode arg : Nat) (s : State) : State :=
  let x := s.part p
  let hit := fun c : ModeChange => decide (c.opcode = opcode) && decide (c.arg = arg)
  let late := (x.changes.filter fun c => hit c && c.lateAt.isSome).map (·.m)
  let upd := fun c : ModeChange => if hit c then { c with ready := true, armed := c.armed || c.lateAt.isSome, lateAt := none } else c
  late.foldl (fun a m => resolveLate p opcode m a) (s.setPart p { x with changes := x.changes.map upd })

end Sys2Proof.Machine
end

