-- ==== Sys2Proof/Machine/Operands.lean ====
section
/-!
DEFINITION. Operands.lean: the checks an opcode row makes before its effect (check 7 of R324): power state
(R343), recovery (R449), source class (Table 16.1, R342, R334), assignment (R322), reserved fields (R340),
and the shapes of a command that every family shares.
-/
namespace Sys2Proof.Machine

/-- Source classes of Table 16.1. -/
inductive SrcClass where
  | a | j | p | h | f | l
deriving DecidableEq, Repr

/-- Group of an opcode. -/
def groupOf (op : Nat) : Nat := op / 256

/-- Opcodes executed in Idle and Sleep (R343). -/
def idleOk (op : Nat) : Bool :=
  [0x01, 0x02, 0x0B, 0x0E, 0x0F].contains (groupOf op) || [0x0C01, 0x0C02, 0x0C07, 0x0706].contains op

/-- Opcodes served in recovery mode (R449). -/
def recoveryOk (op : Nat) : Bool :=
  decide (groupOf op = 1) || [0x0C03, 0x0C04, 0x0C05, 0x0C07, 0x0C01, 0x0C02].contains op

/-- The Plinth executes commands: pair 0 is ready and the device is in Run, Idle or Sleep (R343). -/
def State.executes (s : State) : Bool :=
  s.plinth.ready0 && (decide (s.pwr.st = .run) || decide (s.pwr.st = .idle) || decide (s.pwr.st = .sleep))

/-- Opcodes whose work is pair 1's (R21): key management, maintenance arbitration and the error log. The root of trust answers by R441,
which gives TRUST.QUOTE and TRUST.LOG a status of their own while pair 1 restarts. -/
def pairOneRuns (op : Nat) : Bool := decide (groupOf op = 7) || decide (groupOf op = 0xA) || decide (op = 0x0E03) || decide (op = 0x0E04)

/-- The Plinth executes commands of an opcode: pair 1 stopped leaves those that it runs waiting (log entry 53). -/
def State.runs (s : State) (op : Nat) : Bool := s.executes && (s.plinth.ready1 || !pairOneRuns op)

/-- The debug port stands at Full. -/
def State.dbgFull (s : State) : Bool := decide (s.dbg.level = 2)

/-- Status that a source outside the opcode's class receives (Table 16.1, R334). -/
def classRefusal (cls : SrcClass) (op src : Nat) (s : State) : Option Nat :=
  let vf := decide (1 ≤ src) && decide (src < 16)
  if src = 0x18 ∧ !s.dbgFull ∧ groupOf op ≠ 0x01 ∧ groupOf op ≠ 0x0E then some St.dbgDenied
  else match cls with
    | .a | .j => none
    | .p => if vf then some St.jsDenied else if src = 0x18 ∧ !s.dbgFull then some St.dbgDenied else none
    | .h => if src = 0 then none else some St.jsDenied
    | .f => if src = 0x18 ∧ s.dbgFull then none else some St.dbgDenied
    | .l => if src = 0x10 ∨ src = 0x17 then none else some St.pathDenied

/-- Opcodes that a standby refuses (R306): TRANS.MAP, TRANS.UNMAP, DMA.SUBMIT, FRAME.* and MAQUETTE.*. -/
def standbyRefuses (op : Nat) : Bool := [0x0502, 0x0503, 0x0601].contains op || decide (groupOf op = 3) || decide (groupOf op = 4)

/-- The device is the newcomer or standby of a pair (Table 14.4): its loaded partitions bring their lanes to ACTIVE without a
Start (R314 step 4). -/
def State.isStandby (s : State) : Bool :=
  decide (s.pend.role = 2) && (decide (s.pend.st = .copy) || decide (s.pend.st = .standby) || decide (s.pend.st = .joining))

/-- Refusal of an opcode before its own checks; none when it goes on. The order is the model's (log entry 6). -/
def gate (cls : SrcClass) (op : Nat) (c : CmdCtx) (s : State) : Option Nat :=
  let src := c.src.toNat
  if s.pwr.st ≠ .run ∧ !idleOk op then some St.wrongState
  else if s.plinth.recovery ∧ !(recoveryOk op && (decide (src = 0) || (decide (src = 0x18) && s.dbgFull))) then some St.wrongState
  else match classRefusal cls op src s with
    | some st => some st
    | none => if (!s.arm.assigned ∧ cls ≠ .l) ∨ (s.isStandby ∧ standbyRefuses op) then some St.wrongState else none

/-- An immediate opcode: while the Plinth executes commands it leaves the accepted queue and is refused by the
gate or has its effect (R336). -/
def immediate (cls : SrcClass) (op : Nat) (c : CmdCtx) (body : State → State) (s : State) : State :=
  if !s.runs op then s
  else
    let s1 := takeAccepted c s
    match gate cls op c s1 with
    | some st => reply c op st [] s1
    | none => body s1

/-- A command accepted before c, and not yet executed, that q holds of (R338). -/
def State.acceptedBefore (s : State) (c : CmdCtx) (q : Instr → Bool) : Bool :=
  s.plinth.accepted.any fun i => q i && (instrCtx i).any fun d => accBefore d.accSeq c.accSeq

/-- A link is the object of a deferred command still in execution (R338): block links 0 to 16, control link k as 17 + k. -/
def State.linkHeld (s : State) (k : Nat) : Bool :=
  (if k < 17 then (s.blink k).req.any (·.ctx.isSome) else (s.link (k - 17)).retrain.isSome) || (decide (k = 16) && s.pend.pair.isSome)

/-- A command that acts on a link waits while a deferred command of lower ACCSEQ has not finished with it (R338); else it goes on. -/
def linkWait (k : Nat) (go : State → State) (s : State) : State := if s.linkHeld k then s else go s

/-- A retrain or width request waits for the LACK of a deferred one on its link; from then on R149 answers it (R338). -/
def changeWait (k : Nat) (go : State → State) (s : State) : State :=
  if s.linkHeld k && !(decide (k < 17) && (s.blink k).req.any (·.acked)) then s else go s

/-- A command that acts on the pair state waits while a PENDANT.PAIR is in execution (R338). -/
def pairWait (go : State → State) (s : State) : State := if s.pend.pair.isSome then s else go s

/-- Deferred commands that a source holds in execution (R336). -/
def State.deferredOf (s : State) (src : BitVec 8) : Nat := (s.plinth.deferred.filter fun w => decide (w.ctx.src = src)).length

/-- A deferred opcode: as an immediate one, refused with CMD_BUSY at the 33rd of its source (R336). -/
def deferredOp (cls : SrcClass) (op : Nat) (c : CmdCtx) (body : State → State) (s : State) : State :=
  immediate cls op c (fun s1 => if 32 ≤ s1.deferredOf c.src then reply c op St.cmdBusy [] s1 else body s1) s

/-- The command stays in execution and replies later (R336). -/
def holdDeferred (c : CmdCtx) (op : Nat) (s : State) : State :=
  { s with plinth := { s.plinth with deferred := s.plinth.deferred ++ [{ ctx := c, opcode := op }] } }

/-- The source is a virtual function. -/
def isVf (c : CmdCtx) : Bool := decide (1 ≤ c.src.toNat) && decide (c.src.toNat < 16)

/-- R342: a virtual function names a job space other than its own. -/
def foreignJs (c : CmdCtx) (jsid : Nat) : Bool := isVf c && decide (jsid ≠ c.src.toNat)

/-- R342: a virtual function names a partition of another job space, or an EMPTY one outside MAQUETTE.LOAD. -/
def foreignPart (c : CmdCtx) (p : Nat) (s : State) : Bool :=
  isVf c && (decide ((s.part p).st = .empty) || decide ((s.part p).jsid ≠ c.src.toNat))

/-- An opcode that names a partition (class J): reserved fields and PART in range, the confinement of R342, and
the Legal entry as a test of the partition; then the effect. -/
def onPart (c : CmdCtx) (op p : Nat) (argsOk : Bool) (legal : Partition → Bool) (body : State → State) (s : State) : State :=
  if !argsOk ∨ 4 ≤ p then reply c op St.argRange [] s
  else if foreignPart c p s then reply c op St.jsDenied [] s
  else if !legal (s.part p) then reply c op St.wrongState [] s
  else body s

/-- FRAME:6 and RSVD:2 of a reply that reports the frame taken. -/
def frameData (m : FrameNo) : List Byte := leBytes 6 m.toNat ++ zeros 2

/-- BUSY_MAINT with its holder (R325). -/
def busyReply (c : CmdCtx) (op : Nat) (h : Holder) (s : State) : State :=
  reply c op St.busyMaint ([BitVec.ofNat 8 h.act, 0#8] ++ leBytes 2 h.tag.toNat ++ leBytes 2 h.src) s

/-! ### Maintenance arbitration (R380 to R382) -/

/-- Two activities never run together (N of Table 17.6); C1 when the lane activity is on the pendant link and C2
while a join runs from PAUSE to RESUME. -/
def incompatible (join : Bool) (a objA b objB : Nat) : Bool :=
  let pair := fun x y => (decide (a = x) && decide (b = y)) || (decide (a = y) && decide (b = x))
  if a = b then decide (objA = objB)
  else if pair 3 6 || pair 3 9 then true
  else if pair 4 7 || pair 5 7 then (if a = 7 then decide (objB = 16) else decide (objA = 16))
  else if pair 6 7 then join
  else false

/-- A join runs from PAUSE to RESUME (R316); one that waits at RESUME for the end of another pause no longer does. -/
def State.joining (s : State) : Bool :=
  match s.pend.join with
  | some (ph, _, _) => decide (ph ≠ 6) || s.pend.hostPause.isEmpty
  | none => false

/-- The first-started holder that forbids an activity of this code and object. -/
def State.blocker (s : State) (act obj : Nat) : Option Holder :=
  s.maint.find? fun h => incompatible s.joining act obj h.act h.obj

/-- An activity begins to hold. -/
def startAct (act obj : Nat) (c : Option CmdCtx) (s : State) : State :=
  { s with maint := s.maint ++ [{
      act := act, obj := obj, tag := (c.map (·.tag)).getD 0xFFFF, src := (c.map (·.src.toNat)).getD 0x19, progress := 0, ctx := c }] }

/-- An activity ends. -/
def endAct (act obj : Nat) (s : State) : State :=
  { s with maint := s.maint.filter fun h => !(decide (h.act = act) && decide (h.obj = obj)) }

/-- Progress of an activity (MAINT.STATUS). -/
def setProgress (act obj v : Nat) (s : State) : State :=
  { s with maint := s.maint.map fun h => if h.act = act ∧ h.obj = obj then { h with progress := v } else h }

end Sys2Proof.Machine
end

