-- ==== Sys2Proof/Machine/FrameCmds.lean ====
section
/-!
DEFINITION. FrameCmds.lean: group 0x03, the frame commands (Table 16.4), which carry out Table 2.6.
-/
namespace Sys2Proof.Machine

/-- A Cast that its partition can no longer reach completes with CAST_LOST (R461). -/
def loseCast (p : Nat) (s : State) : State :=
  let x := s.part p
  match x.cast with
  | some a => endAct 6 p (completeOpt a.ctx St.castLost [] (s.setPart p { x with cast := none }))
  | none => s

/-- A Cast that a load, an unload or a pre-emption ends completes with SUPERSEDED (R327). -/
def supersedeCast (p : Nat) (s : State) : State :=
  let x := s.part p
  match x.cast with
  | some a => endAct 6 p (completeOpt a.ctx St.superseded [] (s.setPart p { x with cast := none }))
  | none => s

/-- The owner of a cancelled pause is told (Table 2.6, R347): FRAME.PAUSE and CAST.TAKE complete with CANCELLED, a
MAQUETTE.SWITCH with SWITCH_FAILED, PHASE 1 and CAUSE CANCELLED. -/
def cancelOwner (p : Nat) (o : PauseOwner) (s : State) : State :=
  match o with
  | .cmd c | .step c => complete c St.cancelled [] s
  | .cast c =>
    let x := s.part p
    endAct 6 p (complete c St.cancelled [] (s.setPart p { x with cast := none }))
  | .switch c =>
    let x := s.part p
    endAct 6 p (complete c St.switchFailed (leBytes 1 1 ++ zeros 1 ++ leBytes 2 St.cancelled) (s.setPart p { x with switch := none }))
  | .join | .brk | .device | .remote | .void => s

/-- The pauses pending at the earliest boundary are cancelled. -/
def cancelPauses (p : Nat) (m : FrameNo) (s : State) : State :=
  let x := s.part p
  let gone := x.pauses.filter fun q => decide (q.m = m)
  gone.foldl (fun a q => cancelOwner p q.owner a) (s.setPart p { x with pauses := x.pauses.filter fun q => decide (q.m ≠ m) })

/-- The go for boundary m has been taken at h 63 of the frame before it. -/
def goTaken (x : Partition) (m : FrameNo) : Bool := decide (x.frame + 1 = m) && decide (63 ≤ x.hstage)

/-- Restart tick that a FRAME.RESUME received by the root at step now gives (R52). -/
def restartStep (x : Partition) (now b : Nat) : Nat := max (now + x.vdown + x.lin) (b + 2 * x.lin)

/-- The restart of a pause is under way: placed by FRAME.RESUME, or in its lead-in. -/
def Partition.restarting (x : Partition) : Bool :=
  x.restart.isSome || (decide (x.phase = .leadIn) && (match x.nextTick with | some (_, _, r) => !r | none => false))

/-- A restart tick is placed at step t (R52). While a hold stands or a replay runs up to the pause's boundary the pause stays in force,
and the tick waits for the boundary to be reached again (R51, R55). -/
def takeRestart (m : FrameNo) (t : Nat) (x : Partition) : Partition :=
  let y := match x.pausedAt with | some (a, b, c, _) => { x with restart := some t, pausedAt := some (a, b, c, 0) } | none => { x with restart := some t }
  if x.phase = .paused then { y with nextTick := y.pauseTick.map fun g => (g, m, false) } else y

/-- The root restarts a paused partition (R52, R374): the tick is placed and RESTART is sent down. -/
def rootRestart (p : Nat) (s : State) : State :=
  let x := s.part p
  match x.pausedAt with
  | none => s
  | some (m, _, b, _) =>
    if x.restarting then s
    else
      let t := restartStep x s.cnt b
      markerDown 0x06 x.scope16 m.toNat t (s.setPart p (takeRestart m t x))

/-- A pause in force is given the remaining duration d, counted from now (Table 2.6): its tick is placed for d > 0 and withdrawn for
0, unless a hold or a replay stands before its boundary. A restart already under way stands. -/
def setRemaining (p d : Nat) (s : State) : State :=
  let x := s.part p
  match x.pausedAt with
  | none => s
  | some (m, _, b, _) =>
    if x.restarting ∨ x.resumeCtx ≠ [] then s
    else
      let y := { x with pausedAt := some (m, s.cnt, b, d) }
      s.setPart p (if x.phase = .paused then { y with nextTick := y.pauseTick.map fun g => (g, m, false) } else y)

/-- A request for a pause waits for the root's PAUSE (R374). -/
def askRoot (p : Nat) (a : Asked) (s : State) : State := s.setPart p { s.part p with asked := (s.part p).asked ++ [a] }

/-- FRAME.PAUSE (R50, Table 2.6): at the root or alone it arms the pause; another member sends PAUSE_REQ and replies
when the PAUSE arrives (R374); a paused partition takes the remaining duration. -/
def execFramePause (c : CmdCtx) (part : Byte) (rsvd : BitVec 24) (dur : U32) (s : State) : Res :=
  .next (immediate .j 0x0301 c (fun s =>
    let p := part.toNat
    onPart c 0x0301 p (rsvd = 0) (fun x => decide (x.st = .running) && decide (x.cond ≠ 1)) (fun s =>
      let x := s.part p
      match x.pausedAt with
      | some (m, _, _, _) =>
        let s1 := if s.isRoot p then markerDown 0x05 x.scope16 m.toNat dur.toNat (setRemaining p dur.toNat s) else markerUp 0x07 x.scope16 m.toNat dur.toNat s
        reply c 0x0301 St.ok (frameData m) s1
      | none =>
        if s.isRoot p then
          let (m, s1) := rootPause p c.eframe dur.toNat (.cmd c) s
          reply c 0x0301 St.accepted (frameData m) s1
        else markerUp 0x07 x.scope16 c.eframe.toNat dur.toNat (askRoot p { owner := .cmd c, d := dur.toNat, m := c.eframe } s)) s) s)

/-- While a join runs, FRAME.RESUME and FRAME.STEP return PAIR_BUSY (R316). -/
def notJoining (c : CmdCtx) (op : Nat) (body : State → State) (s : State) : State := if s.joining then reply c op St.pairBusy [] s else body s

/-- A REPLAY_LIMIT hold is released (R49): the root issues the replay start unless a condition raised here still stands. -/
def releaseLimit (p : Nat) (s : State) : State := if (s.part p).holds.all (·.resolved) then releaseHold p s else tryClear p s

/-- FRAME.RESUME of a pause at boundary m: the root restarts it, another member asks the root (R52, R374). -/
def resumePause (c : CmdCtx) (p : Nat) (m : FrameNo) (s : State) : State :=
  let x := s.part p
  let s1 := reply c 0x0302 St.accepted (frameData m) (s.setPart p { x with resumeCtx := x.resumeCtx ++ [c] })
  if s.isRoot p then rootRestart p s1 else markerUp 0x08 x.scope16 0 0 s1

/-- The root cancels the pause pending at boundary m in its scope (Table 2.6). -/
def rootUnpause (p : Nat) (m : FrameNo) (s : State) : State := cancelPauses p m (markerDown 0x0A (s.part p).scope16 m.toNat 0x0301 s)

/-- FRAME.RESUME (R49, R52, R53, R316, Table 2.6): a REPLAY_LIMIT hold is released first, also while a pause stands (log entry 15). A member
that holds a pending pause asks the root, whose CANCEL ends it (R374). -/
def execFrameResume (c : CmdCtx) (part : Byte) (rsvd : BitVec 24) (s : State) : Res :=
  .next (immediate .j 0x0302 c (fun s =>
    let p := part.toNat
    onPart c 0x0302 p (rsvd = 0) (fun x => decide (x.st = .running) && decide (x.cond ≠ 0)) (notJoining c 0x0302 fun s =>
      let x := s.part p
      match x.heldFrame, x.pausedAt with
      | some (k, _), paused =>
        if x.replayLimit then
          let s1 := s.setPart p { x with replayLimit := false, replayCount := (k, 0), releaseCtx := x.releaseCtx ++ [c] }
          reply c 0x0302 St.accepted (frameData k) (releaseLimit p s1)
        else match paused with
          | some (m, _, _, _) => resumePause c p m s
          | none =>
            if s.isRoot p ∨ x.holds ≠ [] then reply c 0x0302 St.wrongState [] s
            else reply c 0x0302 St.accepted (frameData k) (markerUp 0x08 x.scope16 0 0 (s.setPart p { x with releaseCtx := x.releaseCtx ++ [c] }))
      | none, some (m, _, _, _) => resumePause c p m s
      | none, none =>
          match x.pauses with
          | [] => reply c 0x0302 St.wrongState [] s
          | q :: _ =>
            if goTaken x q.m ∨ q.owner = .join then reply c 0x0302 St.wrongState [] s
            else
              reply c 0x0302 St.ok (frameData q.m) (if s.isRoot p then rootUnpause p q.m s else markerUp 0x08 x.scope16 0 0 s)) s) s)

/-- FRAME.STEP (R53, R374): a count of 0 returns STEP_COUNT; a paused partition restarts and pauses again after COUNT
frames. -/
def execFrameStep (c : CmdCtx) (part rsvd : Byte) (count : U16) (s : State) : Res :=
  .next (immediate .j 0x0303 c (fun s =>
    let p := part.toNat
    onPart c 0x0303 p (rsvd = 0) (fun x => decide (x.st = .running) && x.pausedAt.isSome) (notJoining c 0x0303 fun s =>
      let x := s.part p
      match x.pausedAt with
      | none => reply c 0x0303 St.wrongState [] s
      | some (m, _, _, _) =>
        if count = 0 then reply c 0x0303 St.stepCount [] s
        else
          let s1 := reply c 0x0303 St.accepted (frameData m) s
          if s.isRoot p then
            let b := m + BitVec.ofNat 48 count.toNat
            rootRestart p (markerDown 0x05 x.scope16 b.toNat 0 (armPause p { m := b, d := 0, owner := .step c } s1))
          else
            markerUp 0x09 x.scope16 0 count.toNat (askRoot p { owner := .step c, d := 0, m := m + BitVec.ofNat 48 count.toNat } s1)) s) s)

/-- First frame whose preceding h 61 has not begun in any execution (R98): a frame that a replay stages again keeps its rows. -/
def mailboxFirst (x : Partition) (now : Nat) : FrameNo :=
  let f := if x.phase = .frame ∧ x.h0 + 61 ≤ now then x.frame + 2 else x.stagedTop + 1
  if frameBefore f (x.stagedTop + 1) then x.stagedTop + 1 else f

/-- A mailbox write waits to be staged: h 61 before its frame has not begun. -/
def mailboxWaits (x : Partition) (now : Nat) (w : Mailbox) : Bool := decide (placeAt x.current w.m (mailboxFirst x now) = w.m)

/-- FRAME.MAILBOX (R98). -/
def execFrameMailbox (c : CmdCtx) (part lcl grp row : Byte) (value : U64) (s : State) : Res :=
  .next (immediate .j 0x0304 c (fun s =>
    let p := part.toNat
    onPart c 0x0304 p true (fun x => decide (x.st = .running)) (fun s =>
      let x := s.part p
      if 16 ≤ grp.toNat ∨ 4 ≤ row.toNat ∨ (x.pcl lcl.toNat).isNone then reply c 0x0304 St.argRange [] s
      else if 64 ≤ (x.mailbox.filter fun w => decide (w.lcl = lcl.toNat) && mailboxWaits x s.cnt w).length then reply c 0x0304 St.mailboxFull [] s
      else
        let m := placeAt x.current c.eframe (mailboxFirst x s.cnt)
        let w : Mailbox := { lcl := lcl.toNat, grp := grp.toNat, row := row.toNat, value := value, m := m, acc := c.accSeq }
        reply c 0x0304 St.ok (frameData m) (s.setPart p { x with mailbox := x.mailbox ++ [w] })) s) s)

/-- Result of FRAME.STATUS (Table 16.4). -/
def statusData (x : Partition) : List Byte :=
  let im := x.image.isSome
  leBytes 1 (pstateCode x.st) ++ leBytes 1 x.cond ++ leBytes 1 (if x.st = .empty then 0xFF else x.jsid) ++ leBytes 1 (if x.st = .loading then x.loadDies else x.dies).toNat ++
    leBytes 6 x.current.toNat ++ leBytes 4 (if im then x.frameLen else 0) ++ leBytes 2 (if im then x.evalLen else 0) ++
    leBytes 1 (if im then x.depth else 0) ++ zeros 1 ++ leBytes 4 x.v ++ leBytes 4 x.vdown ++ leBytes 2 x.lin ++
    leBytes 2 x.holdField ++ leBytes 6 (match x.pauses with | q :: _ => q.m.toNat | [] => 0)

/-- FRAME.STATUS (R347). -/
def execFrameStatus (c : CmdCtx) (part : Byte) (rsvd : BitVec 24) (s : State) : Res :=
  .next (immediate .j 0x0305 c (fun s =>
    onPart c 0x0305 part.toNat (rsvd = 0) (fun _ => true) (fun s => reply c 0x0305 St.ok (statusData (s.part part.toNat)) s) s) s)

end Sys2Proof.Machine
end

