-- ==== Sys2Proof/Machine/Spares.lean ====
section
/-!
DEFINITION. Spares.lean: the LOC forms of a log record (Table 20.7), the spare rows and columns (R423, Table 20.4), soft repair and the
counts that lead to it (R424, R426).
-/
namespace Sys2Proof.Machine

/-! ### Locations -/

/-- LOC of an instruction word or Net Memory row (Table 20.7): [32:0] BP address (R20), [43:33] word or row, [45:44] bank. -/
def State.bpLoc (s : State) (pcl grp col index bank : Nat) : Nat :=
  s.arm.addr.toNat * 131072 + pcl * 1024 + grp * 64 + col + index * 2 ^ 33 + bank * 2 ^ 44

/-- LOC of a cluster table, map or micro-instruction entry (Table 20.7): unit [10:0], of which a cluster takes [6:0] and the
group or port [17:11]; entry [27:18]; step index [37:28]; kind [40:38]. -/
def tableLoc (unit grp entry step kind : Nat) : Nat := unit + 2 ^ 11 * grp + 2 ^ 18 * (entry % 1024) + 2 ^ 28 * step + 2 ^ 38 * kind

/-- LOC of a fabric frame or block memory row (Table 20.7). -/
def fabLoc (region index : Nat) : Nat := region + 32 * index

/-! ### Spares (Table 20.4) -/

/-- Arrays with spares: 0 instruction store, 1 Net Memory (by group), 2 cluster tables (by cluster), 3 maps (device), 4 slice stores
(by slice), 5 block memory (by block). -/
def spareKey (array unit : Nat) (col : Bool) : Nat := (array * 65536 + unit) * 2 + bitNat col

/-- Spare rows or columns of one unit of an array. -/
def spareTotal (array : Nat) (col : Bool) : Nat :=
  if col then nth 0 [16, 8, 8, 16, 2, 2] array else nth 0 [8, 8, 16, 32, 4, 2] array

/-- Spares of a unit that its fuses assign: at most half of them, a number that varies from part to part (R423, log entry 4). -/
def fuseSpares (array unit : Nat) (col : Bool) : Nat := Config.fuseSpares (spareKey array unit col) % (spareTotal array col / 2 + 1)

/-- Spares of a unit that are left: fuse-assigned ones count as used (R423). -/
def State.sparesLeft (s : State) (array unit : Nat) (col : Bool) : Nat :=
  spareTotal array col - fuseSpares array unit col - smGet 0 s.arr.spares (spareKey array unit col)

/-- Spares left summed over a cluster's 16 groups. -/
def State.groupSpares (s : State) (array pcl : Nat) (col : Bool) : Nat := ((List.range 16).map fun g => s.sparesLeft array (pcl * 16 + g) col).sum

/-- A spare is used. -/
def useSpare (array unit : Nat) (col : Bool) (s : State) : State :=
  { s with arr := { s.arr with spares := smSet 0 s.arr.spares (spareKey array unit col) (smGet 0 s.arr.spares (spareKey array unit col) + 1) } }

/-! ### Stores, rows and units -/

/-- Code of micro-instruction stores beside those of Store. -/
abbrev uopCode : Nat := 8

/-- Code of block memories beside those of Store, with a key of 256 rows per block. -/
abbrev bmemCode : Nat := 9

/-- Entries of one row of a store (Table 20.4): lowest key and count. -/
def rowSpan (code key : Nat) : Nat × Nat :=
  let n := match code with | 0 => 64 | 1 => 1024 | 2 => 256 | 3 => 96 | 4 => 576 | 5 => 576 | 6 => 96 | 7 => 16 | 9 => 1 | _ => 8
  (key / n * n, n)

/-- Physical cluster that a key of a store lies in; none for the maps of the base die and the slices. -/
def clusterOfKey (code key : Nat) : Option Nat :=
  match code with
  | 0 => some (key / 524288) | 1 => some (key / 1048576) | 2 => some (key / 262144) | 3 => some (key / 98304) | 7 => some (key / 64) | _ => none

/-- Array and unit of Table 20.4 whose spares serve a key; none for the port schedules, which have no spare row. -/
def spareUnit (code key : Nat) : Option (Nat × Nat) :=
  match code with
  | 0 => some (0, key / 32768) | 1 => some (2, key / 1048576) | 2 => some (2, key / 262144) | 3 => some (2, key / 98304)
  | 4 => some (3, 0) | 5 => some (3, 0) | 6 => some (3, 0) | 8 => some (4, key / 1024) | 9 => some (5, key / 256) | _ => none

/-- LOC of an entry (Table 20.7). -/
def State.keyLoc (s : State) (code key : Nat) : Nat :=
  match code with
  | 0 => s.bpLoc (key / 524288) (key / 32768 % 16) (key % 64) (key / 64 % 512) 0
  | 1 => tableLoc (key / 1048576) (key / 64 % 16) (key % 64) (key / 1024 % 1024) 0
  | 2 => tableLoc (key / 262144) 0 (key % 256) (key / 256 % 1024) 1
  | 3 => tableLoc (key / 98304) 0 (key % 96) (key / 96 % 1024) 2
  | 4 => tableLoc 0 (key % 9216 / 576) (key % 576) (key / 9216) 3
  | 5 => tableLoc 0 (key / 576) (key % 576) 0 4
  | 6 => tableLoc (key / 98304) 0 (key % 96) (key / 96 % 1024) 5
  | 7 => key / 64
  | 9 => fabLoc (key / 256 / 96) (key % 256)
  | _ => tableLoc (key / 1024) 0 0 (key % 1024) 6

/-- A soft repair uses a spare of an entry's array (R424, R426): it is logged and recorded; with no spare left the cluster becomes a
candidate (Table 20.5). -/
def softRepair (code key : Nat) (col : Bool) (s : State) : State :=
  match spareUnit code key with
  | none => s
  | some (a, u) =>
    if s.sparesLeft a u col = 0 then (match clusterOfKey code key with | some pcl => candidateCluster pcl s | none => s)
    else writeHealth (logRec { cause := St.repairSoft, sub := 0xF, sev := 4, loc := s.keyLoc code key } (useSpare a u col s))

/-! ### Counts of correctable errors (R426) -/

/-- Key of a row for the counts of R426. -/
def rowMark (code key : Nat) : Nat := (rowSpan code key).1 * 16 + code

/-- Detail of a mark of a correction: row, bit position and whether Rasp rewrote the entry. -/
def fixMark (row bit : Nat) (rasp : Bool) : Nat := (row * 128 + bit) * 2 + bitNat rasp

/-- A correctable error counts (R426): errors with one bit position in 4 rows of an array assign a spare column, an error of a row that
Rasp has rewritten twice a spare row, within 24 h. A fetch counts a row once until the day is over, since the stored error stands until
Rasp rewrites it. The bit position is that of the error, which the model's check status does not hold: a free value (log entry 4). -/
def noteCorrect (code key : Nat) (rasp : Bool) (s : State) : State :=
  match spareUnit code key with
  | none => s
  | some (a, u) =>
    let arr := a * 65536 + u
    let row := rowMark code key
    let before := (s.marksOf 0 arr daySteps).map fun m => m.2.2.1
    let again := decide (2 ≤ (before.filter fun d => decide (d / 256 = row) && decide (d % 2 = 1)).length)
    let known := before.any fun d => decide (d / 256 = row) && decide (d % 2 = 0)
    if !rasp && known && !again then s
    else
      let (v, s1) := s.draw 7
      let s2 := noteMark 0 arr (fixMark row v.toNat rasp) s1
      let rows := (row :: (before.filter fun d => decide (d / 2 % 128 = v.toNat)).map fun d => d / 256).eraseDups
      let forget := fun (t : State) (q : Nat → Bool) => { t with health := { t.health with marks := t.health.marks.filter fun m => !(decide (m.1 = 0) && decide (m.2.1 = arr) && q m.2.2.1) } }
      if 4 ≤ rows.length then forget (softRepair code key true s2) (fun d => decide (d / 2 % 128 = v.toNat))
      else if again then forget (softRepair code key false s2) (fun d => decide (d / 256 = row))
      else s2

end Sys2Proof.Machine
end

