-- ==== Sys2Proof/Machine/Words.lean ====
section
/-!
DEFINITION. Words.lean: the Boolean processors (chapter 03): instruction words, operand reads of Net Memory, one step of
one group, and the frame signature (R307).
-/
namespace Sys2Proof.Machine

/-! ### Stores of the array -/

/-- Key of a group: physical cluster and group. -/
def grpKey (pcl grp : Nat) : Nat := pcl * 16 + grp
/-- Key of an instruction word: store of the BP in column col of a group, word k. -/
def wordKey (pcl grp k col : Nat) : Nat := (grpKey pcl grp * 512 + k) * 64 + col
/-- Key of a Net Memory row of a bank. -/
def nmKey (pcl grp bank row : Nat) : Nat := (grpKey pcl grp * 4 + bank) * 1536 + row
/-- Key of an unbanked row, 1536 to 2047. -/
def prKey (pcl grp row : Nat) : Nat := grpKey pcl grp * 512 + (row - 1536)
/-- Key of a word's result in the frame in progress. -/
def resKey (pcl grp k : Nat) : Nat := grpKey pcl grp * 512 + k

/-- Stores whose entries carry check bits. -/
inductive Store where
  | word | route | dxexp | sxexp | inj | thr | ej | mport
deriving DecidableEq, Repr

/-- Code of a store. -/
def Store.code : Store → Nat
  | .word => 0 | .route => 1 | .dxexp => 2 | .sxexp => 3 | .inj => 4 | .thr => 5 | .ej => 6 | .mport => 7

/-- Check status of an entry: 0 clean, 1 single-bit, 2 uncorrectable. -/
def State.errAt (s : State) (st : Store) (key : Nat) : Nat := smGet 0 s.arr.errs (key * 16 + st.code)
/-- Check status set. -/
def State.setErr (s : State) (st : Store) (key v : Nat) : State := { s with arr := { s.arr with errs := smSet 0 s.arr.errs (key * 16 + st.code) v } }

/-- A Net Memory row of a bank. -/
def State.nmRow (s : State) (pcl grp bank row : Nat) : BitVec 64 := smGet 0#64 s.arr.nm (nmKey pcl grp bank row)
/-- A whole row written with its parity (R77). -/
def State.setNm (s : State) (pcl grp bank row : Nat) (v : BitVec 64) : State :=
  { s with arr := { s.arr with nm := smSet 0#64 s.arr.nm (nmKey pcl grp bank row) v, nmBad := smSet false s.arr.nmBad (nmKey pcl grp bank row) false } }
/-- An unbanked row. -/
def State.portRow (s : State) (pcl grp row : Nat) : BitVec 64 := smGet 0#64 s.arr.pr (prKey pcl grp row)

/-- Cluster-local BP index split into group and column (R20). -/
def bpGrp (i : Nat) : Nat := i / 64
/-- Column of a cluster-local BP index. -/
def bpCol (i : Nat) : Nat := i % 64

/-! ### Instruction words (Tables 3.1 to 3.3) -/

/-- TT. -/
def wordTT (w : BitVec 96) : BitVec 16 := w.extractLsb' 0 16
/-- Operand field n: 0 OPA to 3 OPD. -/
def wordOp (w : BitVec 96) (n : Nat) : BitVec 18 := w.extractLsb' (16 + 18 * n) 18
/-- CTL. -/
def wordCtl (w : BitVec 96) : Byte := w.extractLsb' 88 8
/-- FS of an operand. -/
def opFs (o : BitVec 18) : Bool := o.getLsbD 17
/-- ROW of an operand. -/
def opRow (o : BitVec 18) : Nat := (o.extractLsb' 6 11).toNat
/-- COL of an operand. -/
def opCol (o : BitVec 18) : Nat := (o.extractLsb' 0 6).toNat

/-- Bank of the frame in progress (R35). -/
def Partition.bank (x : Partition) : Nat := x.frame.toNat % 4
/-- Bank of the frame before (R35). -/
def Partition.prevBank (x : Partition) : Nat := (x.frame.toNat + 3) % 4

/-- The row that a read of frame select fs finds at step k (R60, R69, R71, R72, R76). A row of the
current bank that no step has written yet holds the zeros of the clearing, unless a stored bit of it
has been upset: that read delivers the data as stored (R78). -/
def readRow (s : State) (x : Partition) (pcl grp : Nat) (fs : Bool) (row k : Nat) : BitVec 64 :=
  if row < 1536 then
    if fs then s.nmRow pcl grp x.prevBank row
    else
      let upset := smGet false s.arr.nmBad (nmKey pcl grp x.bank row)
      if row < 512 then (if row + 3 ≤ k ∨ (k ≤ row ∧ upset = true) then s.nmRow pcl grp x.bank row else 0)
      else if row - 512 + 1 ≤ k ∨ upset = true then s.nmRow pcl grp x.bank row else 0
  else if row < 1668 ∨ row = 2047 then s.portRow pcl grp row
  else 0

/-- What the parity check of a row that a step reads finds (R77 to R79). -/
inductive ParityFinding where
  | none | current | previous
deriving DecidableEq, Repr

/-- Parity finding of a read. -/
def readParity (s : State) (x : Partition) (pcl grp : Nat) (fs : Bool) (row : Nat) : ParityFinding :=
  if row < 1536 then
    if fs then (if smGet false s.arr.nmBad (nmKey pcl grp x.prevBank row) then .previous else .none)
    else if smGet false s.arr.nmBad (nmKey pcl grp x.bank row) then .current else .none
  else if row < 1668 ∨ row = 2047 then (if smGet false s.arr.prBad (prKey pcl grp row) then .current else .none)
  else .none

/-- The bit an operand reads. -/
def readBit (s : State) (x : Partition) (pcl grp k : Nat) (o : BitVec 18) : Bool := (readRow s x pcl grp (opFs o) (opRow o) k).getLsbD (opCol o)

/-- Result of a word (R57): TT at index 8D + 4C + 2B + A. -/
def lutIndex (a b c d : Bool) : Nat := bitNat a + 2 * bitNat b + 4 * bitNat c + 8 * bitNat d

/-- Result of an evaluating word at step k (R56, R57); 0 with EN = 0 (R61). -/
def wordResult (s : State) (x : Partition) (pcl grp k : Nat) (w : BitVec 96) : Bool :=
  if (wordCtl w).getLsbD 0 then
    (wordTT w).getLsbD (lutIndex (readBit s x pcl grp k (wordOp w 0)) (readBit s x pcl grp k (wordOp w 1))
      (readBit s x pcl grp k (wordOp w 2)) (readBit s x pcl grp k (wordOp w 3)))
  else false

/-! ### The frame signature (R307) -/

/-- One bit enters the CRC-64. -/
def crcFeed (crc : U64) (b : Bool) : U64 :=
  let sh := crc <<< 1
  if xor (crc.getLsbD 63) b then sh ^^^ 0x42F0E1EBA9EA3693#64 else sh

/-- The low n bits of a number enter, most significant first. -/
def crcFeedBits (crc : U64) (n v : Nat) : U64 := (List.range n).foldl (fun c i => crcFeed c (natBit v (n - 1 - i))) crc

/-! ### One step of one cluster -/

/-- The entries of a store between two keys. -/
def keysIn {α : Type} (m : SMap α) (lo n : Nat) : SMap α := m.filter fun e => decide (lo ≤ e.1) && decide (e.1 < lo + n)

/-- A veto without HOLD in partition p: REPLAY (Table 2.4). -/
def replayVeto (p : Nat) (s : State) : State := raiseVeto p false s

/-- Key of a row as its parity check knows it: a bank row, or an unbanked one above every bank row. -/
def parityKey (x : Partition) (pcl grp : Nat) (fs : Bool) (row : Nat) : Nat :=
  if row < 1536 then nmKey pcl grp (if fs then x.prevBank else x.bank) row else 2 ^ 24 + prKey pcl grp row

/-- A row that a step reads is checked once in that step, whichever operands and ports read it (R77): a failing row of the current
bank or an unbanked one vetoes (R78), one of the previous bank waits to be read again (R79). DESIGN CHOICE: of several BPs that read the row
in one step the first in column order is logged (log entry 76). -/
def checkRow (p : Nat) (x : Partition) (pcl grp col : Nat) (fs : Bool) (row : Nat) (s : State) : State :=
  let y := s.part p
  match readParity s x pcl grp fs row with
  | .none => s
  | .current =>
    if y.parSeen.contains (parityKey x pcl grp fs row) then s
    else
      let bank := if row < 1536 then x.bank else 0
      replayVeto p (bump 0x0 pcl 1 (logRec { cause := St.nmParity, sub := 0x0, sev := 1, part := p, loc := s.bpLoc pcl grp col row bank }
        (s.setPart p { y with parSeen := parityKey x pcl grp fs row :: y.parSeen })))
  | .previous =>
    if y.nmSuspect.any (fun e => decide (e.1 = pcl) && decide (e.2.1 = grp) && decide (e.2.2.1 = row)) then s
    else s.setPart p { y with nmSuspect := y.nmSuspect ++ [(pcl, grp, row, grp * 64 + col)] }

/-- The rows that one word reads are checked (R77 to R79). -/
def wordParity (p : Nat) (x : Partition) (pcl grp col : Nat) (w : BitVec 96) (s : State) : State :=
  [0, 1, 2, 3].foldl (fun a n => checkRow p x pcl grp col (opFs (wordOp w n)) (opRow (wordOp w n)) a) s

/-- The word a BP executes: the stored one, corrected in the fetch (R66), or the zero word in place of an uncorrectable
one, with the HOLD of R67. -/
def fetchWord (p pcl grp k col : Nat) (w : BitVec 96) (s : State) : BitVec 96 × State :=
  let key := wordKey pcl grp k col
  if s.errAt .word key = 2 then
    (0, raiseHold p St.wordUncorr (key * 16) (bump 0x0 pcl 3 (logRec { cause := St.wordUncorr, sub := 0xF, sev := 2, part := p, loc := s.bpLoc pcl grp col k 0 } s)))
  else if s.errAt .word key = 1 then
    (w, noteCorrect 0 key false (bump 0x0 pcl 2 (logRec { cause := St.wordFix, sub := 0xF, sev := 0, part := p, loc := s.bpLoc pcl grp col k 0 } s)))
  else (w, s)

/-- Result row, fabric drive and SIG bits of a group as its words execute. -/
structure GroupStep where
  row : BitVec 64
  xf : BitVec 64
  crc : U64
  brk : Bool
deriving DecidableEq, Repr

/-- One word of a group executes. -/
def groupWord (p : Nat) (x : Partition) (pcl grp k : Nat) (r : GroupStep × State) (col : Nat) (w : BitVec 96) : GroupStep × State :=
  let (v, s1) := fetchWord p pcl grp k col w r.2
  let ctl := wordCtl v
  let s2 := if ctl.getLsbD 0 then wordParity p x pcl grp col v s1 else s1
  let b := wordResult s2 x pcl grp k v
  let m := if b then (1#64 <<< col) else 0
  ({ row := r.1.row ||| m, xf := if ctl.getLsbD 1 then r.1.xf ||| m else r.1.xf,
     crc := if ctl.getLsbD 2 then crcFeed r.1.crc b else r.1.crc, brk := r.1.brk || (ctl.getLsbD 3 && b) }, s2)

/-- The stored words of index k of a group; a word that was never supplied but whose check bits fail stands as the zero word. -/
def State.wordsAt (s : State) (pcl grp k : Nat) : List (Nat × BitVec 96) :=
  let l := keysIn s.arr.words (wordKey pcl grp k 0) 64
  l ++ (keysIn s.arr.errs (wordKey pcl grp k 0 * 16) 1024).filterMap fun e =>
    if e.1 % 16 = 0 ∧ !(l.any fun w => decide (w.1 = e.1 / 16)) then some (e.1 / 16, 0#96) else none

/-- Every BP of a group executes word k, column by column; a column with no stored word executes the zero word. -/
def groupStep (p : Nat) (x : Partition) (pcl grp k : Nat) (crc : U64) (s : State) : GroupStep × State :=
  (s.wordsAt pcl grp k).foldl
    (fun r e => groupWord p x pcl grp k r (e.1 - wordKey pcl grp k 0) e.2) ({ row := 0, xf := 0, crc := crc, brk := false }, s)

/-- The results of a group's words go to own row k of the current bank and stand for the crossbar and exports. -/
def putResult (x : Partition) (pcl grp k : Nat) (row : BitVec 64) (s : State) : State :=
  let s1 := s.setNm pcl grp x.bank k row
  { s1 with arr := { s1.arr with results := smSet 0#64 s1.arr.results (resKey pcl grp k) row } }

/-- One group of a cluster at step k: its results, its fabric drive, its signature bits and its breaks (R56, R63, R64). DESIGN CHOICE: where
a debug write has given two groups XF in one column, which a load refuses, the bit carries the OR of what they drive (log entry 76). -/
def stepGroup (p : Nat) (x : Partition) (pcl k : Nat) (s : State) (grp : Nat) : State :=
  let (g, s1) := groupStep p x pcl grp k (s.part p).crc s
  let s2 := putResult x pcl grp k g.row s1
  let y := s2.part p
  let s3 := s2.setPart p { y with crc := g.crc, brkNow := y.brkNow || g.brk }
  { s3 with fab := { s3.fab with xf := smSet 0#64 s3.fab.xf pcl (smGet 0#64 s3.fab.xf pcl ||| g.xf) } }

/-- Word k of every BP of a cluster: each of its 16 groups writes own row k, of zeros where no word is stored (R56, R65, R70). -/
def stepCluster (p : Nat) (x : Partition) (k : Nat) (s : State) (pcl : Nat) : State :=
  (List.range 16).foldl (fun a g => stepGroup p x pcl k a g) { s with fab := { s.fab with xf := smSet 0#64 s.fab.xf pcl 0 } }

/-- Logical clusters that execute, with 1 + their hosts: the host of an unused one is a spare, which executes nothing (R22, R100). -/
def Partition.hosts (x : Partition) : SMap Nat := x.pmap.filter fun e => !x.spares.contains e.1

/-- Result of word k of the BP with a cluster-local index. -/
def State.resultBit (s : State) (pcl k i : Nat) : Bool := (smGet 0#64 s.arr.results (resKey pcl (bpGrp i) k)).getLsbD (bpCol i)

end Sys2Proof.Machine
end

