-- ==== Sys2Proof/Machine/Exchange.lean ====
section
/-!
DEFINITION. Exchange.lean: the cluster crossbar and the device exchange (chapter 04), the injection, through and ejection
maps (chapter 05) and the fabric ports (R181 to R186) as a step of a frame consults them.
-/
namespace Sys2Proof.Machine

/-- Key of a route word. -/
def routeKey (pcl t grp bit : Nat) : Nat := ((pcl * 1024 + t) * 16 + grp) * 64 + bit
/-- Key of a device-exchange export entry. -/
def dxKey (pcl s slot : Nat) : Nat := (pcl * 1024 + s) * 256 + slot
/-- Key of a system-export entry. -/
def sxKey (pcl s slot : Nat) : Nat := (pcl * 1024 + s) * 96 + slot
/-- Key of an injection entry. -/
def injKey (s x : Nat) : Nat := s * 9216 + x
/-- Key of an ejection entry, by the fabric port position of its logical cluster (fabPort), which no two partitions share. -/
def ejKey (port t bit : Nat) : Nat := (port * 1024 + t) * 96 + bit
/-- Key of a memory-port descriptor. -/
def mportKey (pcl port r : Nat) : Nat := (pcl * 4 + port) * 16 + r

/-! ### Entries (Tables 4.2, 4.4, 4.5, 5.2 to 5.4, 8.3) -/

/-- CLASS of a route word. -/
def routeClass (w : BitVec 16) : Nat := (w.extractLsb' 10 2).toNat
/-- IDX of a route word. -/
def routeIdx (w : BitVec 16) : Nat := (w.extractLsb' 0 10).toNat
/-- V of a device-exchange export entry. -/
def dxV (e : BitVec 32) : Bool := e.getLsbD 25
/-- DCL. -/
def dxDcl (e : BitVec 32) : Nat := (e.extractLsb' 18 7).toNat
/-- DBIT. -/
def dxDbit (e : BitVec 32) : Nat := (e.extractLsb' 10 8).toNat
/-- SRC. -/
def dxSrc (e : BitVec 32) : Nat := (e.extractLsb' 0 10).toNat
/-- V of a system-export entry. -/
def sxV (e : BitVec 16) : Bool := e.getLsbD 10
/-- SRC of a system-export entry. -/
def sxSrc (e : BitVec 16) : Nat := (e.extractLsb' 0 10).toNat
/-- V or T of a map entry. -/
def mapV (e : BitVec 16) : Bool := e.getLsbD 15
/-- SRC or RX of a map entry. -/
def mapIdx (e : BitVec 16) : Nat := (e.extractLsb' 0 14).toNat
/-- Port of a position (R109). -/
def posPort (x : Nat) : Nat := x / 576
/-- Lane of a position within its port. -/
def posLane (x : Nat) : Nat := x % 576 / 72

/-- PMASK of the loaded image. -/
def Partition.pmask (x : Partition) : Nat := (x.image.map fun i => natBits i.sxparam.toNat 32 16).getD 0
/-- Lanes of a partition's port mask. -/
def Partition.portLanes (x : Partition) : List Nat := (List.range 128).filter fun n => natBit x.pmask (n / 8)

/-- PAIRED of the loaded image. -/
def Partition.paired (x : Partition) : Bool := (x.image.map fun i => i.sxparam.getLsbD 48).getD false
/-- CLS code of a port. -/
def Partition.cls (x : Partition) (port : Nat) : Nat := (x.image.map fun i => natBits i.sxparam.toNat (2 * port) 2).getD 0
/-- Class figure of a CLS code (Table 5.7). -/
def clsFigure (c : Nat) : Nat := if c = 1 then 40 else if c = 2 then 56 else if c = 3 then 88 else 0

/-- An entry as a fetch delivers it (R94, R95, R115): corrected with a log record, or replaced by the idle value with the
HOLD of Table 2.4. -/
def fetchEntry {α : Type} (p : Nat) (st : Store) (key loc : Nat) (idle v : α) (s : State) : α × State :=
  if s.errAt st key = 2 then
    (idle, raiseHold p St.wordUncorr (key * 16 + st.code) (logRec { cause := St.wordUncorr, sub := 0xF, sev := 2, part := p, loc := loc } s))
  else if s.errAt st key = 1 then (v, noteCorrect st.code key false (logRec { cause := St.wordFix, sub := 0xF, sev := 0, part := p, loc := loc } s))
  else (v, s)

/-- Keys of a range of a store that hold an entry or a failing check, with their entries. -/
def State.entriesIn {α : Type} (s : State) (st : Store) (m : SMap α) (d : α) (lo n : Nat) : List (Nat × α) :=
  let l := keysIn m lo n
  l ++ (keysIn s.arr.errs (lo * 16) (n * 16)).filterMap fun e =>
    if e.1 % 16 = st.code ∧ !(l.any fun w => decide (w.1 = e.1 / 16)) then some (e.1 / 16, d) else none

/-! ### Fabric ports -/

/-- The fabric port of a logical cluster: the port of the same position on its die (R163, R173). -/
def fabPort (pcl lcl : Nat) : Nat := pcl / 24 * 24 + lcl % 24
/-- Region of a fabric port (R19). -/
def portRegion (port : Nat) : Nat := port / 4

/-- An input register as it stood at a step: a write with a later effect is undone (R184). -/
def State.irAt (s : State) (key step : Nat) : U64 :=
  match s.fab.irHist.find? fun h => decide (h.2.1 = key) && decide (step < h.1) with
  | some h => h.2.2
  | none => smGet 0#64 s.fab.ir key

/-- The fabric input bits of a port at step t of the frame as the port presents them (R184, R87). -/
def State.liveFabIn (s : State) (port t : Nat) : U64 :=
  let e := smGet 0#16 s.fab.fport (port * 1024 + t)
  if s.fab.stopped.getLsbD (portRegion port) ∨ !e.getLsbD 4 then 0
  else s.irAt (port * 16 + (e.extractLsb' 0 4).toNat) (s.cnt - 2)

/-- The staged copy of the frame in progress. -/
def Partition.copyOf (x : Partition) (k : FrameNo) : Option StagedCopy := x.staged.find? fun c => decide (c.frame = k)

/-- The fabric input bits of logical cluster lcl at step t: in a replay those of the arrival log as far as it reaches, else
the presented ones, which the log records (R46, R97, R186). -/
def fabIn (p lcl pcl t : Nat) (s : State) : U64 × State :=
  let x := s.part p
  let key := lcl * 1024 + t
  match x.copyOf x.frame with
  | some c =>
    if x.replay ∧ t < c.fabReached then (smGet 0#64 c.fabLog key, s)
    else
      let v := s.liveFabIn (fabPort pcl lcl) t
      let upd := fun k : StagedCopy => if k.frame = x.frame then { k with fabLog := smSet 0#64 k.fabLog key v } else k
      (v, s.setPart p { x with staged := x.staged.map upd })
  | none => (s.liveFabIn (fabPort pcl lcl) t, s)

/-- The log of the frame in progress has reached step t. -/
def fabReach (p t : Nat) (s : State) : State :=
  let x := s.part p
  let upd := fun k : StagedCopy => if k.frame = x.frame then { k with fabReached := max k.fabReached (t + 1) } else k
  s.setPart p { x with staged := x.staged.map upd }

/-- FPORT capture at step k of a cluster (R183): the output bits show in OR[OREG] two steps later; none in a replay. -/
def fportCapture (p k : Nat) (s : State) (lcl pcl : Nat) : State :=
  let x := s.part p
  let e := smGet 0#16 s.fab.fport (fabPort pcl lcl * 1024 + k)
  if x.replay ∨ !e.getLsbD 12 then s
  else
    let key := fabPort pcl lcl * 16 + (e.extractLsb' 8 4).toNat
    { s with fab := { s.fab with orNext := s.fab.orNext ++ [(s.cnt + 2, key, smGet 0#64 s.fab.xf pcl)] } }

/-- OR captures whose step has come take effect. -/
def applyOr (s : State) : State :=
  let due := s.fab.orNext.filter fun e => decide (e.1 ≤ s.cnt)
  { s with fab := { s.fab with
      or_ := due.foldl (fun m e => smSet 0#64 m e.2.1 e.2.2) s.fab.or_, orNext := s.fab.orNext.filter fun e => decide (s.cnt < e.1)
      irHist := s.fab.irHist.filter fun h => decide (s.cnt ≤ h.1 + 4) } }

/-! ### Exports -/

/-- Value of a system-export slot at step k: that of its source with V = 1, else 0 (R90). -/
def State.exportBit (s : State) (pcl k slot : Nat) : Bool :=
  let e := smGet 0#16 s.arr.sxexp (sxKey pcl k slot)
  sxV e && decide (s.errAt .sxexp (sxKey pcl k slot) ≠ 2) && s.resultBit pcl k (sxSrc e)

/-- The system-export entries of a cluster at step k are fetched; the exported bits enter the signature (R307). -/
def sxExports (p k : Nat) (s : State) (pcl : Nat) : State :=
  (s.entriesIn .sxexp s.arr.sxexp 0 (sxKey pcl k 0) 96).foldl (fun a e =>
    let (v, a1) := fetchEntry p .sxexp e.1 (tableLoc pcl 0 (e.1 - sxKey pcl k 0) k 2) 0 e.2 a
    if sxV v then
      let y := a1.part p
      a1.setPart p { y with crc := crcFeed y.crc (a1.resultBit pcl k (sxSrc v)) }
    else a1) s

/-- The injection map of step k places exported bits in the blocks of step k + 16 on the partition's ports (R110); bits of
value 1 enter the transmit history (R44). -/
def inject (p k : Nat) (s : State) : State :=
  let x := s.part p
  (s.entriesIn .inj s.arr.inj 0 (injKey k 0) 9216).foldl (fun a e =>
    let pos := e.1 - injKey k 0
    if !natBit x.pmask (posPort pos) then a
    else
      let (v, a1) := fetchEntry p .inj e.1 (tableLoc 0 (posPort pos) (pos % 576) k 3) 0 e.2 a
      let src := mapIdx v
      let bit := mapV v && (match x.pcl (src / 96) with | some pcl => a1.exportBit pcl k (src % 96) | none => false)
      if bit then
        let y := a1.part p
        let a2 := a1.setPart p { y with history := y.history ++ [(a1.cnt, pos)] }
        { a2 with arr := { a2.arr with sxTx := smSet false a2.arr.sxTx ((a1.cnt + 16) * 9216 + pos) true } }
      else a1) s

/-- Latency of the device exchange between two physical clusters (Table 4.1). -/
def dxLatency (a b : Nat) : Nat := if a / 24 = b / 24 then 12 else 24

/-- The device-exchange exports of a cluster at step k (R89). -/
def dxExports (p k : Nat) (s : State) (lcl pcl : Nat) : State :=
  (s.entriesIn .dxexp s.arr.dxexp 0 (dxKey pcl k 0) 256).foldl (fun a e =>
    let (v, a1) := fetchEntry p .dxexp e.1 (tableLoc pcl 0 (e.1 - dxKey pcl k 0) k 1) 0 e.2 a
    if dxV v then
      let b := a1.resultBit pcl k (dxSrc v)
      let y := a1.part p
      let a2 := a1.setPart p { y with crc := crcFeed y.crc b }
      match y.pcl (dxDcl v) with
      | some dst =>
        let bit : DxBit := { dst := dst, bit := dxDbit v, at_ := k + dxLatency pcl dst, val := b, src := lcl, bp := dxSrc v }
        { a2 with arr := { a2.arr with dxFlight := a2.arr.dxFlight ++ [bit] } }
      | none => a2
    else a1) s

/-! ### Imports -/

/-- Arrival bit of the device exchange at a cluster at step t: the OR of what arrives, 0 when nothing does (R92). -/
def State.dxArrival (s : State) (pcl bit t : Nat) : Bool :=
  s.arr.dxFlight.any fun d => decide (d.dst = pcl) && decide (d.bit = bit) && decide (d.at_ = t) && d.val

/-- The 96 ejection entries of a logical cluster are fetched at step t, whichever of them a route word selects (R95, R112, R115). -/
def ejFetch (p t : Nat) (s : State) (lcl pcl : Nat) : State :=
  let lo := ejKey (fabPort pcl lcl) t 0
  (s.entriesIn .ej s.arr.ej 0 lo 96).foldl (fun a e => (fetchEntry p .ej e.1 (tableLoc pcl 0 (e.1 - lo) t 5) 0 e.2 a).2) s

/-- Arrival bit of the system exchange at a logical cluster at step t (R112); an uncorrectable entry acts as V = 0 (R115). -/
def State.sxArrival (s : State) (lcl pcl bit t : Nat) : Bool :=
  let key := ejKey (fabPort pcl lcl) t bit
  let v := smGet 0#16 s.arr.ej key
  mapV v && decide (s.errAt .ej key ≠ 2) && smGet false s.arr.sxRx ((s.cnt - 16) * 9216 + mapIdx v)

/-- The value an import bit takes from its route word at step t (Table 4.3). -/
def importBit (lcl pcl t : Nat) (fab : U64) (w : BitVec 16) (s : State) : Bool :=
  let i := routeIdx w
  match routeClass w with
  | 0 => decide (4 ≤ t) && s.resultBit pcl (t - 4) i
  | 1 => s.dxArrival pcl i t
  | 2 => s.sxArrival lcl pcl i t
  | _ => decide (i < 64) && fab.getLsbD i

/-- Collisions that arrive at a cluster at step t are counted, and logged the first time since Start (R93). DESIGN CHOICE: the destination
cluster of "first since Start" is the physical one, so that a logical cluster that moves logs its collisions again (log entry 54), and the exporting
clusters of the record's DETAIL are logical ones (log entry 76). -/
def dxConflicts (p t : Nat) (s : State) (pcl : Nat) : State :=
  let here := s.arr.dxFlight.filter fun d => decide (d.dst = pcl) && decide (d.at_ = t)
  let bits := (here.map (·.bit)).eraseDups
  bits.foldl (fun a b =>
    match here.filter fun d => decide (d.bit = b) with
    | d1 :: d2 :: _ =>
      let a1 := bump 0x2 pcl 1 a
      let x := a1.part p
      let key := (pcl * 256 + b) * 1024 + t
      if x.conflictSeen.contains key then a1
      else
        logRec { cause := St.exchConflict, sub := 0x2, sev := 5, part := p, loc := tableLoc pcl 0 b t 1
                 detail := d1.src + 256 * d1.bp + 2 ^ 24 * (d2.src + 256 * d2.bp) }
          (a1.setPart p { x with conflictSeen := x.conflictSeen ++ [key] })
    | _ => a) s

/-- The import rows of a cluster at step t: row 512 + t of each group takes its 64 import bits (R84). -/
def importStep (p t : Nat) (s : State) (lcl pcl : Nat) : State :=
  let (fab, s0) := fabIn p lcl pcl t (ejFetch p t s lcl pcl)
  let x := s0.part p
  (List.range 16).foldl (fun a g =>
    let r := (a.entriesIn .route a.arr.routes 0x0FFF (routeKey pcl t g 0) 64).foldl (fun (r : BitVec 64 × State) e =>
      let b := e.1 - routeKey pcl t g 0
      let (w, a1) := fetchEntry p .route e.1 (tableLoc pcl g b t 0) 0x0FFF e.2 r.2
      (if importBit lcl pcl t fab w a1 then r.1 ||| (1#64 <<< b) else r.1, a1)) ((0 : BitVec 64), a)
    r.2.setNm pcl g x.bank (512 + t) r.1) s0

end Sys2Proof.Machine
end

