-- ==== Sys2Proof/Machine/PairLink.lean ====
section
/-!
DEFINITION. PairLink.lean: what a twin hands to the pendant link (R301, R303): blocks for the lowest lane in use, management
messages, XADDR and XDATA runs. The spec gives the framing of a message and not its types: the type codes are the model's
(log entry 60).
-/
namespace Sys2Proof.Machine

/-- Message types (log entry 60). -/
abbrev msgPair : Nat := 0x01
/-- A pairing attempt has failed with a status. -/
abbrev msgAbort : Nat := 0x02
/-- KEYCHK. -/
abbrev msgKeychk : Nat := 0x03
/-- A TRANS.MAP that the carrier completed. -/
abbrev msgMap : Nat := 0x04
/-- A TRANS.UNMAP that the carrier completed. -/
abbrev msgUnmap : Nat := 0x05
/-- A resynchronisation begins: COPY. -/
abbrev msgResync : Nat := 0x06
/-- A resynchronisation or join ends without success. -/
abbrev msgFailed : Nat := 0x07
/-- A present leaf of COPY step 1. -/
abbrev msgLeaf : Nat := 0x08
/-- A partition to load in COPY step 3. -/
abbrev msgLoad : Nat := 0x09
/-- Digest of a Cast record in VERIFY. -/
abbrev msgVerify : Nat := 0x0A
/-- IDIGEST of a loaded partition. -/
abbrev msgIdigest : Nat := 0x0B
/-- COPY is complete. -/
abbrev msgStandby : Nat := 0x0C
/-- The pair is being dissolved. -/
abbrev msgDissolve : Nat := 0x0D
/-- A mode change with its effective frame. -/
abbrev msgChange : Nat := 0x0E
/-- A partition that joins. -/
abbrev msgJoin : Nat := 0x0F
/-- The sender's report. -/
abbrev msgReport : Nat := 0x10
/-- Placement epochs of a partition, told for a handover. -/
abbrev msgEpochs : Nat := 0x11

/-- A pendant block is handed to the link (R301): HB, SIGF, SIG and TAG go ahead of messages. -/
def sendPendant (ptype : Nat) (content : BitVec 64) (s : State) : State :=
  let q := s.pend.sendq
  let at_ := if ptype = 5 then q.length else (q.takeWhile fun e => decide (e.1 ≠ 5)).length
  { s with pend := { s.pend with sendq := q.take at_ ++ [(ptype, content)] ++ q.drop at_ } }

/-- A management message (Table 14.2): the first word holds type and count. -/
def sendMessage (type : Nat) (words : List Nat) (s : State) : State :=
  ((type * 2 ^ 56 + words.length * 2 ^ 48) :: words).foldl (fun a w => sendPendant 5 (BitVec.ofNat 64 w) a) s

/-- Initial vector of a TAG: the step counter, then the direction bit and 31 zero bits (R303). -/
def tagIv (step side : Nat) : Nat := (step % 2 ^ 64 * 2 + side) * 2 ^ 31

/-- The TAG of the interval is handed to the link; its value is that of the step at which it is sent (R303). -/
def sendTag (s : State) : State := sendPendant 4 0 s

/-- The six words of a digest, low word first. -/
def digestWords (d : BitVec 384) : List Nat := (List.range 6).map fun i => d.toNat / 2 ^ (64 * i) % 2 ^ 64
/-- The digest that six words spell. -/
def wordsDigest (l : List U64) : BitVec 384 := BitVec.ofNat 384 ((l.take 6).foldr (fun w a => w.toNat + 2 ^ 64 * a) 0)

/-- XADDR content: space, job space, poisoned, unit address (Table 14.2). -/
def xaddrWord (space jsid : Nat) (poisoned : Bool) (unit : Nat) : U64 :=
  BitVec.ofNat 64 (space * 2 ^ 62 + jsid * 2 ^ 58 + bitNat poisoned * 2 ^ 57 + unit % 2 ^ 57)

/-- 8-byte words of a byte string. -/
def xdataWords (b : List Byte) : List U64 := (List.range ((b.length + 7) / 8)).map fun i => BitVec.ofNat 64 (leNat (bytesAt b (8 * i) 8))

/-- An XADDR and the XDATA that follow it wait for the lanes in use (R301). -/
def sendUnits (addr : U64) (data : List U64) (s : State) : State :=
  { s with pend := { s.pend with bulk := s.pend.bulk ++ (6, addr) :: data.map fun d => (7, d) } }

/-- The carrier of a STANDBY, COPY or JOINING pair. -/
def State.carries (s : State) : Bool :=
  decide (s.pend.role = 1) && (decide (s.pend.st = .standby) || decide (s.pend.st = .copy) || decide (s.pend.st = .joining))

/-- The carrier forwards a TRANS.MAP or TRANS.UNMAP (R306). -/
def forwardPages (type jsid level flags count jaddr paddr : Nat) (s : State) : State :=
  if s.carries then sendMessage type [jsid + 256 * level + 65536 * flags + 2 ^ 32 * count, jaddr, paddr] s else s

/-- A pair exists: every state but UNPAIRED and PAIRING. -/
def State.paired (s : State) : Bool := decide (s.pend.st ≠ .unpaired) && decide (s.pend.st ≠ .pairing)

/-- Pendant data blocks flow: in PAIRING, while a pair exists, and until a refusal of the pairing has been sent. -/
def State.pendantOn (s : State) : Bool := decide (s.pend.st ≠ .unpaired) || !s.pend.sendq.isEmpty

/-- Authentication of the pendant link has started at a step (R298 step 6). -/
def State.authOn (s : State) (step : Nat) : Bool := match s.pend.encAt with | some t => decide (t ≤ step) | none => false

end Sys2Proof.Machine
end

