-- ==== Sys2Proof/Machine/Mem.lean ====
section
/-!
DEFINITION. Mem.lean: DRAM lines with their ECC, counter, key and tag findings (chapters 10 and 12), the merge
buffer, page-table walks and access rights (chapter 11), fault records and security events.
-/
namespace Sys2Proof.Machine

/-! ### Places -/

/-- Channel of a DRAM line: address bits [10:8] (R233). -/
def lineChannel (line : Nat) : Nat := line / 4 % 8

/-- Number of a line within its channel, and the line of a channel and a number. -/
def lineIndex (line : Nat) : Nat := line / 32 * 4 + line % 4
/-- The line of a channel with a number. -/
def chanLine (ch i : Nat) : Nat := (i / 4 * 8 + ch) * 4 + i % 4

/-- Ranks of a channel that hold addresses: all but the spare, the highest where there are 2 or more (R232, R233). -/
def State.dataRanks (s : State) : Nat := if 2 ≤ s.dram.ranks then s.dram.ranks - 1 else s.dram.ranks
/-- Lines of a channel that have addresses. -/
def State.dataLines (s : State) : Nat := s.dataRanks * s.dram.rankLines

/-- Rank that a line's address maps to, a fixed function of the population that the spec does not give (R233, log entry 3). Numbers past
the addresses are the lines of the spare. -/
def State.lineRank (s : State) (line : Nat) : Nat :=
  if s.dataLines ≤ lineIndex line then s.dram.ranks - 1
  else if s.dataRanks ≤ 1 then 0
  else Config.dramPlace s.dram.ranks line % s.dataRanks

/-- Rank that serves a line (R242): the spare below the watermark of a migration of the line's rank, and once the spare has taken that
rank over; else the line's own. -/
def State.servedBy (s : State) (line : Nat) : Nat :=
  let ch := lineChannel line
  let r := s.lineRank line
  match smGet none s.dram.migr ch with
  | some m => if r = m.rank ∧ lineIndex line < m.mark then s.dram.ranks - 1 else r
  | none => if smGet false s.dram.rankRetired (ch * 4 + r) ∧ smGet 0 s.dram.spare ch = 1 then s.dram.ranks - 1 else r

/-- LOC of a DRAM line (Table 20.7). -/
def State.lineLoc (s : State) (line : Nat) : Nat :=
  lineChannel line + 8 * (s.servedBy line + 4 * (Config.dramPlace s.dram.ranks line / 4 % 2 ^ 39))

/-- Key of a bank's history. -/
def bankKey (ch rank bank : Nat) : Nat := (ch * 4 + rank) * 32 + bank

/-- An access to a line in a rank updates its bank's history, whose ones decide whether its row stays open (R234). -/
def touchRank (line rank : Nat) (s : State) : State :=
  let place := s.lineLoc line
  let k := bankKey (lineChannel line) rank (natBits place 5 5)
  let row := natBits place 10 18
  let b : BankSt := smGet {} s.dram.banks k
  let hist := b.hist <<< 1 ||| BitVec.ofNat 8 (bitNat (decide (b.last = some row)))
  let keeps := decide (4 ≤ (onesOf hist.toNat 8).length)
  { s with dram := { s.dram with banks := smSet {} s.dram.banks k { b with hist := hist, last := some row, row := if keeps then some row else none } } }

/-- An access to a line in the rank that serves it. -/
def touchBank (line : Nat) (s : State) : State := touchRank line (s.servedBy line) s

/-- A write to a line stands in the merge buffer. -/
def State.buffered (s : State) (line : Nat) : Bool := s.dram.merge.any fun e => decide (e.line = line)

/-- Metadata of a line. -/
def State.meta (s : State) (line : Nat) : LineMeta := smGet {} s.dram.lines line
/-- Metadata of a line replaced. -/
def State.setMeta (s : State) (line : Nat) (m : LineMeta) : State := { s with dram := { s.dram with lines := smSet {} s.dram.lines line m } }

/-! ### The tag region (R267)

DESIGN CHOICE: the region ends the capacity that is not spare, the tag array below the counter array (log entry 4). -/

/-- CTRBASE: the counter array ends physical space. -/
def State.ctrBase (s : State) : Nat := s.dataLines * 512 - 4 * s.dram.usable
/-- TAGBASE: the tag array ends where the counter array begins. -/
def State.tagBase (s : State) : Nat := s.ctrBase - 8 * s.dram.usable

/-- Lines of the arrays that hold a protected line's tag and counter; they are stored in plaintext under the ECC of R237. -/
def State.arrayLines (s : State) (line : Nat) : List Nat :=
  if line < s.dram.usable then [(s.tagBase + 8 * line) / 64, (s.ctrBase + 4 * line) / 64] else []

/-- One byte of DRAM as plaintext; an unlisted byte reads 0 (R268). -/
def State.byteAt (s : State) (a : Nat) : Byte := smGet 0#8 s.dram.mem a
/-- Consecutive bytes of DRAM. -/
def State.bytesAtPhys (s : State) (a n : Nat) : List Byte := (List.range n).map fun i => s.byteAt (a + i)
/-- Consecutive bytes of DRAM written. -/
def State.putBytes (s : State) (a : Nat) (l : List Byte) : State :=
  { s with dram := { s.dram with mem := smPutAll 0#8 s.dram.mem ((List.range l.length).zip l |>.map fun e => (a + e.1, e.2)) } }

/-! ### Keys -/

/-- Key slot. -/
def State.slot (s : State) (kix : Nat) : KeySlot := smGet {} s.keys.slots kix
/-- Key slot replaced. -/
def State.setSlot (s : State) (kix : Nat) (k : KeySlot) : State := { s with keys := { s.keys with slots := smSet {} s.keys.slots kix k } }
/-- Binding of a job space. -/
def State.binding (s : State) (jsid : Nat) : Option Binding := smGet none s.keys.binds jsid
/-- Binding replaced. -/
def State.setBinding (s : State) (jsid : Nat) (b : Option Binding) : State := { s with keys := { s.keys with binds := smSet none s.keys.binds jsid b } }

/-- Job space 16 stands for the device key, KIX 0 (Table 12.2). -/
abbrev devJs : Nat := 16

/-- Index that a new request of a job space takes: that of its binding, unless the slot is FLUSHING (Table 12.1, R272). -/
def State.takeKix (s : State) (jsid : Nat) : Option Nat :=
  if devJs ≤ jsid then some 0
  else match s.binding jsid with
    | none => none
    | some b => if (s.slot b.kix).st = .loaded then some b.kix else none

/-- An access that a master makes now (R274). -/
def State.access (s : State) (jsid master : Nat) : Access := { jsid := jsid, kix := s.takeKix jsid, master := master }
/-- An access by the device to lines under the device key (R270). -/
def devAccess (master : Nat) : Access := { jsid := devJs, kix := some 0, master := master }

/-- Index that has taken the place of one in flight, through the rotations completed since (DEDUCED, log entry 79). -/
def State.heir (s : State) (jsid : Nat) : Nat → Nat → Nat
  | 0, k => k
  | n + 1, k => match s.keys.heirs.find? fun h => decide (h.1 = jsid) && decide (h.2.1 = k) with
    | some h => s.heir jsid n h.2.2
    | none => k

/-- The rotation of a job space, as outgoing and incoming index and watermark (R277). -/
def State.rotation (s : State) (jsid : Nat) : Option (Nat × Nat × Nat) :=
  (s.binding jsid).bind fun b => b.rot.map fun r => (b.kix, r.1, r.2.1)

/-- Index under which a line is written by a write that took k: while the job space rotates the incoming one (R279), after a rotation the
index that replaced k, since a write under the old one could reuse a counter value (R268; DEDUCED, log entry 79). -/
def State.storeKix (s : State) (jsid k : Nat) : Nat :=
  let h := s.heir jsid 64 k
  match s.rotation jsid with
  | some (o, i, _) => if h = o then i else h
  | none => h

/-- Indexes under which a read that took k is checked, in their order (R279): in a rotation the incoming one first below the watermark; after
one, the index that replaced k first. -/
def State.checkKixs (s : State) (jsid k jaddr : Nat) : List Nat :=
  let h := s.heir jsid 64 k
  let base := if h = k then [k] else [h, k]
  match s.rotation jsid with
  | some (o, i, mark) => if h = o ∨ h = i then (if jaddr < mark then [i, o] else [o, i]) ++ (if h = k then [] else [k]) else base
  | none => base

/-- Keys under which a read that took k may pass its tag. -/
def State.readKeys (s : State) (jsid k jaddr : Nat) : List (BitVec 256) := (s.checkKixs jsid k jaddr).map fun i => (s.slot i).key

/-! ### Security events (R275) -/

/-- A security event: recorded while fewer than 256 are held, else counted in SEC_OVF; the alarm asserts. -/
def secEvent (cause kix jsid master paddr jaddr : Nat) (s : State) : State :=
  let e : SecEvt := { seq := s.logs.secSeq, cause := cause, kix := kix, jsid := jsid, master := master, paddr := paddr, jaddr := jaddr, step := s.clk.count }
  raiseSecAlarm (if s.logs.sec.length < 256 then { s with logs := { s.logs with sec := s.logs.sec ++ [e], secSeq := s.logs.secSeq + 1 } }
    else bump 0x9 0 1 s)

/-- Bytes of a security event (Table 12.3). -/
def secBytes (e : SecEvt) : List Byte :=
  leBytes 4 e.seq.toNat ++ leBytes 1 e.cause ++ leBytes 1 e.kix ++ leBytes 1 e.jsid ++ leBytes 1 e.master ++ leBytes 8 e.paddr ++
    leBytes 8 e.jaddr ++ leBytes 8 e.step.toNat

/-- A tag failure: security event with the index checked first, and TAG_FAIL to the physical function (R275). -/
def tagFailure (w : Access) (line jaddr : Nat) (s : State) : State :=
  let kix := (s.checkKixs w.jsid (w.kix.getD 0) jaddr).headD 0
  postEvent St.tagFail 0x9 0xFF none [] (secEvent 1 kix (if w.jsid < 16 then w.jsid else 0xFF) w.master (line * 64) jaddr s)

/-! ### Line reads (R237 to R241, R275) -/

/-- What a line read gives its requester. -/
inductive LineRead where
  | data (b : List Byte)
  | poisoned
  | uncorr
  | tagFail
deriving DecidableEq, Repr

/-- The finding of a line read by an access: of the line's own ECC and that of its tag and counter (R237, R267), then of its tag. -/
def State.readLine (s : State) (w : Access) (line jaddr : Nat) : LineRead :=
  let m := s.meta line
  let around := (s.arrayLines line).map s.meta
  if m.ecc = 2 ∨ around.any (fun a => decide (a.ecc = 2)) then .uncorr
  else if m.poison ∨ around.any (·.poison) then .poisoned
  else if m.counter = 0 then .data (zeros 64)
  else if m.tagBad ∨ !(s.readKeys w.jsid (w.kix.getD 0) jaddr).contains m.key then .tagFail
  else .data (s.bytesAtPhys (line * 64) 64)

/-- Spare state of a channel: 0 free, 1 in use, 2 failed; a channel of one rank has none (R232). -/
def State.spareFree (s : State) (ch : Nat) : Bool := decide (2 ≤ s.dram.ranks) && decide (smGet 0 s.dram.spare ch = 0)

/-- The first number from i on for which q holds, or that at which the search ends. -/
def seekFrom (q : Nat → Bool) : Nat → Nat → Nat
  | 0, i => i
  | n + 1, i => if q i then i else seekFrom q n (i + 1)

/-- The next line of a rank from a number on, in ascending order of addresses; past them all when none is left. -/
def State.nextOfRank (s : State) (ch rank i : Nat) : Nat := seekFrom (fun j => decide (s.lineRank (chanLine ch j) = rank)) (s.dataLines - i) i

/-- Rank migration of a channel starts, or waits while a CAST or KEY ROTATE holds (R241, Table 10.6, R382). -/
def startMigration (ch rank : Nat) (s : State) : State :=
  let m : RankMigr := { rank := rank, mark := s.nextOfRank ch rank 0, started := (s.blocker 3 ch).isNone }
  let s1 := { s with dram := { s.dram with
    migr := smSet none s.dram.migr ch (some m), spare := smSet 0 s.dram.spare ch 1
    rankRetired := smSet false s.dram.rankRetired (ch * 4 + rank) true } }
  bump 0x7 (0x8000 + ch * 4 + rank) 4 (if m.started then startAct 3 ch none s1 else s1)

/-- A record of the DRAM channels that is also sent to the host (R241, Table 10.6). -/
def dramEvent (cause loc : Nat) (s : State) : State := logEvent { cause := cause, sub := 0x7, sev := 4, loc := loc } none (leBytes 8 loc) s

/-- The rank of a line is retired and its migration to the spare begins, or with no usable spare the rank stays in service (R241, Table
10.6). -/
def retireRank (line : Nat) (s : State) : State :=
  let loc := s.lineLoc line
  if s.spareFree (lineChannel line) then startMigration (lineChannel line) (s.lineRank line) (dramEvent St.rankRetired loc s)
  else dramEvent St.spareExhausted loc s

/-- The spare fails during its migration (Table 10.6): the migration stops and the retired rank returns to service. -/
def spareFails (ch loc : Nat) (m : RankMigr) (s : State) : State :=
  let s1 : State := { s with dram := { s.dram with
    migr := smSet none s.dram.migr ch none, spare := smSet 0 s.dram.spare ch 2
    rankRetired := smSet false s.dram.rankRetired (ch * 4 + m.rank) false } }
  m.waits.foldl (fun a l => dramEvent St.spareExhausted (a.lineLoc l) a) (endAct 3 ch (dramEvent St.spareExhausted loc s1))

/-- Consequences of an uncorrectable error in a line, after the requester's bus error (R241, Table 10.6). A spare that holds no addresses
is not in service. -/
def dramUncorr (line : Nat) (s : State) : State :=
  let ch := lineChannel line
  let rank := s.servedBy line
  let loc := s.lineLoc line
  let poison := fun a : State => touchBank line (a.setMeta line { a.meta line with ecc := 0, poison := true })
  match smGet none s.dram.migr ch with
  | some m =>
    if s.dataLines ≤ lineIndex line then s
    else if rank = m.rank then poison s
    else if rank = s.dram.ranks - 1 then poison (spareFails ch loc m s)
    else
      let s1 : State := { s with dram := { s.dram with migr := smSet none s.dram.migr ch (some { m with waits := m.waits ++ [line] }) } }
      poison (dramEvent St.dramUncorr loc s1)
  | none =>
    if s.dataLines ≤ lineIndex line then s
    else if s.spareFree ch then poison (retireRank line (dramEvent St.dramUncorr loc s))
    else poison (retireRank line s)

/-- A correctable error is corrected, rewritten unless a write to the line is pending in the merge buffer, and logged (R240); 256 such lines within 24 h, or errors on two devices of the rank,
retire the rank (Table 20.5). -/
def dramFixed (line : Nat) (s : State) : State :=
  let ch := lineChannel line
  let rank := s.servedBy line
  let s1 := bump 0x7 (0x8000 + ch * 4 + rank) 3
    (logRec { cause := St.dramFix, sub := 0x7, sev := 0, loc := s.lineLoc line } (if s.buffered line then s else touchBank line (s.setMeta line { s.meta line with ecc := 0 })))
  let s2 := noteMark 5 (ch * 4 + rank) line s1
  let lines := ((s2.marksOf 5 (ch * 4 + rank) daySteps).map (·.2.2.1)).eraseDups
  let devices := (lines.map fun l => s2.lineLoc l / 2 ^ 39 % 32).eraseDups
  if (256 ≤ lines.length ∨ 2 ≤ devices.length) ∧ s2.spareFree ch ∧ (smGet none s2.dram.migr ch).isNone ∧ rank < s2.dataRanks then retireRank line s2
  else s2

/-- The ECC of a line that is read: a correctable error is corrected, rewritten and logged (R240). -/
def eccRead (s : State) (line : Nat) : State := let s0 := touchBank line s; if (s0.meta line).ecc = 1 then dramFixed line s0 else s0

/-- A line of those read is uncorrectable: the consequences of R241. -/
def eccLost (s : State) (line : Nat) : State := if (s.meta line).ecc = 2 then dramUncorr line s else s

/-- A line read with its effects, on the line and on the tag and counter arrays' lines: a correctable error is corrected, rewritten and logged
(R240); an uncorrectable one has the consequences of R241; a tag failure raises the alarm (R275). -/
def accessLine (w : Access) (line jaddr : Nat) (s : State) : LineRead × State :=
  let read := line :: s.arrayLines line
  let s1 := read.foldl eccRead s
  match s1.readLine w line jaddr with
  | .uncorr => (.uncorr, read.foldl eccLost s1)
  | .tagFail => (.tagFail, tagFailure w line jaddr s1)
  | r => (r, s1)

/-! ### Line writes -/

/-- Lowest EMPTY key slot from 1 to 63. -/
def State.emptySlot (s : State) : Option Nat := (List.range 64).find? fun k => decide (1 ≤ k) && decide ((s.slot k).st = .empty) && (s.slot k).shadow.isNone

/-- A rotation of a job space starts at watermark 0 (R277, R278). -/
def startRotation (jsid kix : Nat) (ctx : Option CmdCtx) (s : State) : State :=
  match s.binding jsid with
  | none => s
  | some b => startAct 9 jsid ctx (s.setBinding jsid (some { b with rot := some (kix, 0, ctx) }))

/-- A counter at 0xF000_0000 or above starts an automatic rotation with a generated key in the lowest EMPTY slot (R277); while the matrix
forbids it, RANK MIGRATE above all, it waits for the holder to end (R382). -/
def rotateAuto (jsid : Nat) (s : State) : State :=
  match s.binding jsid, s.emptySlot with
  | some b, some k =>
    if b.rot.isSome then s
    else if (s.blocker 9 jsid).isSome then { s with keys := { s.keys with rotWait := jsid :: s.keys.rotWait.filter (· ≠ jsid) } }
    else
      let (key, s1) := s.draw 256
      postEvent St.rotateAuto 0x9 0xFF (some jsid) [] (startRotation jsid k none (s1.setSlot k { st := .loaded, key := key, shadow := none, ctx := none }))
  | _, _ => s

/-- Counter of a line after a write under a key: a line of a rotating job space last written under the outgoing key
starts again at 1 (R268, R279). -/
def nextCounter (s : State) (jsid : Nat) (m : LineMeta) : Nat :=
  match s.rotation jsid with
  | some (o, _, _) => if m.key = (s.slot o).key then 1 else m.counter + 1
  | none => m.counter + 1

/-- A line is written as it stands by a write that took index k: new counter, key and tag; poison clears (R238, R268). -/
def stampLine (jsid k line : Nat) (s : State) : State :=
  let n := nextCounter s jsid (s.meta line)
  let key := (s.slot (s.storeKix jsid k)).key
  let s1 := (touchBank line s).setMeta line { counter := n, key := key, poison := false, tagBad := false, ecc := 0 }
  if jsid < 16 ∧ 0xF0000000 ≤ n then rotateAuto jsid s1 else s1

/-- A line is stored by a write that took index k. -/
def storeLine (jsid k line : Nat) (data : List Byte) (s : State) : State := stampLine jsid k line (s.putBytes (line * 64) data)

/-- The device mirrors its committed writes: a carrier with a standby, or a COPY from its second step on (R315). -/
def State.mirrors (s : State) (addr : Nat) : Bool :=
  match s.pend.resync with
  | some (step, _, _) => decide (3 ≤ step) || (decide (step = 2) && decide (addr / 64 < s.pend.wmark / 64))
  | none => (decide (s.pend.st = .standby) || decide (s.pend.st = .joining)) && decide (s.pend.role = 1)

/-- A committed write of a job space enters the mirror queue; one that overflows it makes the standby stale, and a COPY
restarts from its second step (R315). -/
def mirrorPush (jsid addr : Nat) (bytes : List Byte) (s : State) : State :=
  if 16 ≤ jsid ∨ !s.mirrors addr then s
  else if s.pend.mirror.length < 65536 then { s with pend := { s.pend with mirror := s.pend.mirror ++ [(jsid, addr, bytes)] } }
  else
    let s1 := sendMessage msgResync [] (logRec { cause := St.standbyStale, sub := 0xD, sev := 5 } s)
    { s1 with pend := { s1.pend with
        st := .copy, mirror := [], wmark := 0, resync := match s1.pend.resync with | some (_, c, p) => some (2, c, p) | none => some (2, none, 0) } }

/-- A whole line is written by an access and mirrored. -/
def writeLine (w : Access) (line : Nat) (data : List Byte) (s : State) : State :=
  mirrorPush w.jsid (line * 64) data (storeLine w.jsid (w.kix.getD 0) line data s)

/-- A line is written poisoned by a write that took index k (R238, R268), and mirrored as such: an entry of no bytes. -/
def poisonLine (jsid k line : Nat) (s : State) : State :=
  let s1 := stampLine jsid k line s
  mirrorPush jsid (line * 64) [] (s1.setMeta line { s1.meta line with poison := true })

/-- Bytes merged into a line. -/
def overlay (data : List Byte) (bytes : List (Nat × Byte)) : List Byte := bytes.foldl (fun d e => d.set e.1 e.2) data

/-- A write joins the line that stands in the merge buffer, with no other fetch (R239); a whole line is good whatever the fetch found. -/
def joinMerge (line : Nat) (bytes : List (Nat × Byte)) (s : State) : State :=
  let whole := decide (64 ≤ bytes.length)
  let join := fun e : MergeLine =>
    if e.line = line then { e with bytes := e.bytes ++ bytes, fetched := e.fetched || whole, bad := e.bad && !whole, joined := true } else e
  { s with dram := { s.dram with merge := s.dram.merge.map join } }

/-- A whole line is written by an access: through the merge buffer where the line stands there. -/
def putLine (w : Access) (line : Nat) (data : List Byte) (s : State) : State :=
  if s.buffered line then joinMerge line ((List.range 64).zip data) s else writeLine w line data s

/-- A write narrower than a line joins it in the merge buffer, or passes through there by itself: fetch, check, merge, write back (R239); a poisoned line stays poisoned and logs
POISON_WRITE (R238); an uncorrectable or tag-failed one is written back poisoned. -/
def mergeWrite (w : Access) (line jaddr : Nat) (bytes : List (Nat × Byte)) (s : State) : State :=
  if s.buffered line then joinMerge line bytes s
  else match accessLine w line jaddr s with
  | (.data d, s1) => writeLine w line (overlay d bytes) s1
  | (.poisoned, s1) => logRec { cause := St.poisonWrite, sub := 0x7, sev := 0, loc := s1.lineLoc line } s1
  | (_, s1) => poisonLine w.jsid (w.kix.getD 0) line s1

/-- Lines of a channel in its merge buffer. -/
def State.mergeCount (s : State) (ch : Nat) : Nat := (s.dram.merge.filter fun e => decide (lineChannel e.line = ch)).length

/-- Bytes of a commit's word within its line: nine from its offset (R220). -/
def commitBytes (c : Commit) : List (Nat × Byte) := (List.range 9).map fun i => (c.paddr % 64 + i, BitVec.ofNat 8 (c.data.toNat / 256 ^ i))

/-- A commit enters the merge buffer with the index it carries (R274), joining a line already there. -/
def enterMerge (c : Commit) (s : State) : State :=
  let line := c.paddr / 64
  if s.buffered line then
    let join := fun e : MergeLine => if e.line = line then { e with bytes := e.bytes ++ commitBytes c, gen := min e.gen c.gen } else e
    { s with dram := { s.dram with merge := s.dram.merge.map join } }
  else
    let m : MergeLine := {
      line := line, jsid := c.jsid, jaddr := c.jaddr / 64 * 64, kix := c.kix, bytes := commitBytes c, fetched := false, bad := false, gen := c.gen }
    { s with dram := { s.dram with merge := s.dram.merge ++ [m] } }

/-- Drained commits enter the merge buffers in key order while their channel has room (R224, R239). -/
def fillMergeList : List Commit → State → State
  | [], s => s
  | c :: l, s =>
    let line := c.paddr / 64
    if s.buffered line ∨ s.mergeCount (lineChannel line) < 64 then fillMergeList l (enterMerge c { s with dram := { s.dram with draining := l } })
    else s

/-- As many drained commits as fit enter the merge buffers. -/
def fillMerge (s : State) : State := fillMergeList s.dram.draining s

/-! ### Page tables (R248 to R252) -/

/-- How a walk ends: a leaf with its level, entry and physical address, or the level and entry that stopped it. -/
inductive Walk where
  | leaf (level : Nat) (entry : U64) (phys : Nat)
  | stop (level cause : Nat) (entry : U64)
deriving DecidableEq, Repr

/-- Page size of a leaf at a level: 4 KiB, 2 MiB, 1 GiB. -/
def pageBytes (level : Nat) : Nat := if level = 1 then 4096 else if level = 2 then 2097152 else 1073741824

/-- Lowest address bit a level indexes (Table 11.1). -/
def levelShift (level : Nat) : Nat := 12 + 9 * (level - 1)

/-- Physical byte address of the entry that a level's table indexes for an address. -/
def entryAddr (table level addr : Nat) : Nat := table + 8 * natBits addr (levelShift level) 9

/-- PA field of an entry, as an address. -/
def entryPa (e : U64) : Nat := natBits e.toNat 12 40 * 4096

/-- The entry is corrupt (R248). -/
def entryCorrupt (level : Nat) (e : U64) : Bool :=
  decide (natBits e.toNat 52 12 ≠ 0) || decide (natBits e.toNat 4 8 ≠ 0) ||
    (e.getLsbD 2 && (decide (level = 4) || decide (level = 1))) ||
    (!(e.getLsbD 2) && decide (level ≠ 1) && (e.getLsbD 1 || e.getLsbD 3))

/-- A table entry: eight bytes of DRAM (R246, R248). -/
def State.pte (s : State) (a : Nat) : U64 := BitVec.ofNat 64 (leNat (s.bytesAtPhys a 8))

/-- The DRAM line of a table entry gives no data: uncorrectable, poisoned, or failing its tag under the device key, KIX 0 (R246, R270). -/
def State.tableBad (s : State) (a : Nat) : Bool :=
  match s.readLine (devAccess 0) (a / 64) 0 with | .data _ => false | _ => true

/-- Walks from a table of a level (R248). -/
def walkFrom (s : State) (addr : Nat) : Nat → Nat → Walk
  | 0, _ => .stop 0 5 0
  | level + 1, table =>
    let a := entryAddr table (level + 1) addr
    let e := s.pte a
    if s.tableBad a ∨ entryCorrupt (level + 1) e then .stop (level + 1) 5 e
    else if !e.getLsbD 0 then .stop (level + 1) 1 e
    else if level = 0 ∨ e.getLsbD 2 then .leaf (level + 1) e (entryPa e + addr % pageBytes (level + 1))
    else walkFrom s addr level (entryPa e)

/-- A walk of a job space's tables alone, which TRANS.WALK reports: it stops at level 4 while there is no L4 table (R248). -/
def tableWalk (s : State) (jsid addr : Nat) : Walk :=
  match smGet 0 s.trans.l4 jsid with
  | 0 => .stop 4 1 0
  | t + 1 => walkFrom s addr 4 t

/-- The walk of an access: NOT_PRESENT at level 4 while the job space has no L4 table or the access took no index (R248, R272). -/
def walk (s : State) (w : Access) (addr : Nat) : Walk := if w.kix.isNone then .stop 4 1 0 else tableWalk s w.jsid addr

/-- Lines of the entries that a walk reads from a table of a level on. -/
def walkLines (s : State) (addr : Nat) : Nat → Nat → List Nat
  | 0, _ => []
  | level + 1, table =>
    let a := entryAddr table (level + 1) addr
    let e := s.pte a
    a / 64 :: (if s.tableBad a ∨ entryCorrupt (level + 1) e ∨ !e.getLsbD 0 ∨ level = 0 ∨ e.getLsbD 2 then [] else walkLines s addr level (entryPa e))

/-- The reads of a walk's table lines have the effects of any read (R240, R241, R275). -/
def walkRead (jsid master addr : Nat) (s : State) : State :=
  match smGet 0 s.trans.l4 jsid with
  | 0 => s
  | t + 1 => (walkLines s addr 4 t).foldl (fun a line => (accessLine (devAccess master) line addr a).2) s

/-- Translation of an access with its rights (R252, Table 11.3): the physical address, or cause and level. -/
def translate (s : State) (w : Access) (addr : Nat) (wr port : Bool) : Except (Nat × Nat) Nat :=
  if 2 ^ 48 ≤ addr then .error (4, 0)
  else match walk s w addr with
    | .stop level cause _ => .error (cause, level)
    | .leaf level e phys =>
      if port && !e.getLsbD 3 then .error (3, level)
      else if wr && !e.getLsbD 1 then .error (2, level)
      else .ok phys

/-! ### Fault records (R253) -/

/-- Bytes of a fault record (Table 11.4). -/
def faultBytes (r : FaultRec) : List Byte :=
  leBytes 4 r.seq.toNat ++ leBytes 1 r.src ++ leBytes 1 r.cause ++ leBytes 1 r.level ++ leBytes 1 r.jsid ++ leBytes 8 r.faddr ++
    leBytes 2 r.elem ++ leBytes 1 r.eng ++ leBytes 1 r.count ++ leBytes 4 r.done ++ leBytes 6 r.frame.toNat ++
    leBytes 1 (bitNat r.wr + 2 * bitNat r.srcSide + 4 * bitNat r.resolved + 8 * bitNat r.abandoned) ++ zeros 1

/-- Records held for a job space. -/
def State.faultsOf (s : State) (jsid : Nat) : List FaultRec := s.trans.faults.filter fun r => decide (r.jsid = jsid)

/-- A fault record is kept and posted, or counted in FAULT_OVF when 64 are held (R253). -/
def postFault (r : FaultRec) (s : State) : State :=
  if 64 ≤ (s.faultsOf r.jsid).length then bump 0x8 r.jsid 1 s
  else
    let q := smGet 0#32 s.trans.seqs r.jsid
    let r' := { r with seq := q }
    let s1 := { s with trans := { s.trans with faults := s.trans.faults ++ [r'], seqs := smSet 0#32 s.trans.seqs r.jsid (q + 1) } }
    postEvent St.transFault 0x8 (if r.src = 1 then r.part else 0xFF) (some r.jsid) (faultBytes r') s1

/-- Records that satisfy q are cleared. -/
def clearFaults (q : FaultRec → Bool) (s : State) : State := { s with trans := { s.trans with faults := s.trans.faults.filter fun r => !q r } }

/-- A job-space byte range lies within 2^48 and its first address has no high bits (R245). -/
def rangeOk (a n : Nat) : Bool := decide (a < 2 ^ 48) && decide (a + n ≤ 2 ^ 48)

/-- DRAM is unavailable (R232). -/
def State.memGone (s : State) : Bool := !s.dram.ok

/-- Line content as a reader sees it: what waits in the merge buffer is forwarded (R239). -/
def State.forwarded (s : State) (line : Nat) (d : List Byte) : List Byte :=
  match s.dram.merge.find? (fun e => decide (e.line = line)) with
  | some e => overlay d e.bytes
  | none => d

/-- Bytes of a line that its entry of the merge buffer holds in full (R239): all of them once it is fetched, else those written. -/
def State.bufferBytes (s : State) (line off n : Nat) : Option (List Byte) :=
  match s.dram.merge.find? (fun e => decide (e.line = line)) with
  | none => none
  | some e =>
    let all := (List.range n).all fun i => e.bytes.any fun b => decide (b.1 = off + i)
    if !e.bad && (e.fetched || all) then some (bytesAt (overlay (s.bytesAtPhys (line * 64) 64) e.bytes) off n) else none

/-- Bytes of a line read by an access, forwarded from the merge buffer where it holds them (R239): none where the line gives no data. -/
def readBytes (w : Access) (line jaddr off n : Nat) (s : State) : Option (List Byte) × State :=
  match s.bufferBytes line off n with
  | some b => (some b, s)
  | none => match accessLine w line jaddr s with
    | (.data d, s1) => (some (bytesAt (s1.forwarded line d) off n), s1)
    | (_, s1) => (none, s1)

/-- How a transfer over job-space bytes ends: everything done, or the address, cause, level and bytes done before the
first fault. -/
structure XferFault where
  addr : Nat
  cause : Nat
  level : Nat
  done : Nat
deriving DecidableEq, Repr

/-- Job-space bytes read line by line through translation, each line's read with its effects: the bytes in hand and the
first fault, with cause 7 (DATA_ERROR) for a line that gives no data. -/
def readLines (w : Access) : Nat → Nat → Nat → Nat → List Byte → State → List Byte × Option XferFault × State
  | 0, _, _, _, acc, s => (acc, none, s)
  | fuel + 1, addr, n, done, acc, s =>
    if n = 0 then (acc, none, s)
    else
      let k := min n (64 - addr % 64)
      let s0 := walkRead w.jsid w.master addr s
      match translate s w addr false false with
      | .error (c, l) => (acc, some { addr := addr, cause := c, level := l, done := done }, s0)
      | .ok ph =>
        match readBytes w (ph / 64) addr (ph % 64) k s0 with
        | (some b, s1) => readLines w fuel (addr + k) (n - k) (done + k) (acc ++ b) s1
        | (none, s1) => (acc, some { addr := addr, cause := 7, level := 0, done := done }, s1)

/-- Job-space bytes read from an address. -/
def readJob (w : Access) (addr n : Nat) (s : State) : List Byte × Option XferFault × State := readLines w (n / 64 + 2) addr n 0 [] s

/-- Job-space bytes written line by line in ascending order: whole lines as such, partial ones merged (R257). -/
def writeLines (w : Access) : Nat → Nat → List Byte → Nat → State → Option XferFault × State
  | 0, _, _, _, s => (none, s)
  | fuel + 1, addr, b, done, s =>
    if b = [] then (none, s)
    else
      let k := min b.length (64 - addr % 64)
      let s0 := walkRead w.jsid w.master addr s
      match translate s w addr true false with
      | .error (c, l) => (some { addr := addr, cause := c, level := l, done := done }, s0)
      | .ok ph =>
        let part := b.take k
        let s1 := if k = 64 then putLine w (ph / 64) part s0
          else mergeWrite w (ph / 64) addr (((List.range k).zip part).map fun e => (ph % 64 + e.1, e.2)) s0
        writeLines w fuel (addr + k) (b.drop k) (done + k) s1

/-- Job-space bytes written from an address. -/
def writeJob (w : Access) (addr : Nat) (b : List Byte) (s : State) : Option XferFault × State := writeLines w (b.length / 64 + 2) addr b 0 s

end Sys2Proof.Machine
end

