-- ==== Sys2Proof/Machine/Translation.lean ====
section
/-!
DEFINITION. Translation.lean: the table pool and page tables as the device writes them (R246 to R250), waits on
pages (R338), resolution of memory-port faults (R255), and group 0x05 (Table 16.6).
-/
namespace Sys2Proof.Machine

/-- A range of job-space pages is held by a TRANS.MAP or TRANS.UNMAP still in execution (R338). -/
def State.pagesHeld (s : State) (jsid lo n : Nat) : Bool :=
  s.trans.waits.any fun w => decide (w.jsid = jsid) && decide (w.lo / 4096 ≤ (lo + n - 1) / 4096) && decide (lo / 4096 ≤ (w.hi - 1) / 4096)

/-- Two ranges of job-space bytes overlap a page in common. -/
def pagesMeet (a b : Nat × Nat × Nat) : Bool :=
  decide (a.1 = b.1) && decide (a.2.2 ≠ 0) && decide (b.2.2 ≠ 0) && decide (a.2.1 / 4096 ≤ (b.2.1 + b.2.2 - 1) / 4096) &&
    decide (b.2.1 / 4096 ≤ (a.2.1 + a.2.2 - 1) / 4096)

/-- Job-space ranges, as job space, first byte and length, that a DMA element names. -/
def elemRanges (jsid : Nat) (e : DmaElem) : List (Nat × Nat × Nat) :=
  (if e.dir = 0 then [] else [(jsid, e.src.toNat, e.len.toNat)]) ++ (if e.dir = 1 then [] else [(jsid, e.dst.toNat, e.len.toNat)])

/-- Job-space ranges that a command names (R338); a Cast record has 4,096 bytes and 6,814,720 for each die (R462). -/
def State.pagesOf (s : State) : Instr → List (Nat × Nat × Nat)
  | .transMap _ jsid size _ _ count _ jaddr _ => [(jsid.toNat, jaddr.toNat, count.toNat * pageBytes (size.toNat + 1))]
  | .transUnmap _ jsid size _ count _ jaddr => [(jsid.toNat, jaddr.toNat, count.toNat * pageBytes (size.toNat + 1))]
  | .transWalk _ jsid _ jaddr => [(jsid.toNat, jaddr.toNat, 1)]
  | .dmaSubmit _ _ jsid _ _ elems _ => elems.flatMap (elemRanges jsid.toNat)
  | .castSave _ part _ jaddr len => [((s.part part.toNat).jsid, jaddr.toNat, len.toNat)]
  | .castRestore _ part _ jaddr len => [((s.part part.toNat).jsid, jaddr.toNat, len.toNat)]
  | .maquetteLoad _ _ _ jsid _ addr len => [(jsid.toNat, addr.toNat, len.toNat)]
  | .maquetteRegion _ part _ addr len => [((s.part part.toNat).jsid, addr.toNat, len.toNat)]
  | .maquetteSwitch _ part _ njsid _ saddr slen iaddr ilen caddr =>
    let n := 4096 + 6814720 * (onesOf (s.part part.toNat).dies.toNat 4).length
    [((s.part part.toNat).jsid, saddr.toNat, slen.toNat), (njsid.toNat, iaddr.toNat, ilen.toNat), (njsid.toNat, caddr.toNat, if caddr = 0 then 0 else n)]
  | .dbgAccess _ _ space jsid _ addr n _ _ => if space = 4 then [(jsid.toNat, addr.toNat, n.toNat)] else []
  | _ => []

/-- A command that acts on job-space pages waits, without blocking others, while a deferred command of lower ACCSEQ has not finished with
them, or a command of lower ACCSEQ waits for one of them (R338); else it goes on. -/
def pageWait (c : CmdCtx) (jsid lo n : Nat) (go : State → State) (s : State) : State :=
  if n ≠ 0 ∧ (s.pagesHeld jsid lo n ∨ s.acceptedBefore c (fun i => (s.pagesOf i).any (pagesMeet (jsid, lo, n)))) then s else go s

/-- Leaf level of a SIZE code. -/
def sizeLevel (size : Nat) : Nat := size + 1

/-- A table entry written: its line is stored under the device key, with a new counter and tag (R246, R268, R270). -/
def State.setPte (s : State) (a : Nat) (e : U64) : State :=
  let bytes := (List.range 8).zip (leBytes 8 e.toNat) |>.map fun b => (a % 64 + b.1, b.2)
  storeLine devJs 0 (a / 64) (overlay (s.bytesAtPhys (a / 64 * 64) 64) bytes) s

/-- Lowest free page of the pool (R246). -/
def State.freePage (s : State) : Option Nat :=
  match s.trans.pool with
  | none => none
  | some (b, n) => ((List.range (n / 4096)).map fun i => b + 4096 * i).find? fun a => !s.trans.pages.contains a

/-- A line that was written is cleared: the entries of a table page begin as 0 (Table 11.2). -/
def clearLine (s : State) (line : Nat) : State := if (s.meta line).counter = 0 then s else storeLine devJs 0 line (zeros 64) s

/-- A table page is taken from the pool. -/
def takePage (s : State) : Option (Nat × State) :=
  s.freePage.map fun a =>
    (a, ((List.range 64).map (a / 64 + ·)).foldl clearLine { s with trans := { s.trans with pages := a :: s.trans.pages } })

/-- The table of a job space at L4, created at its first map (R248). -/
def ensureL4 (jsid : Nat) (s : State) : Option (Nat × State) :=
  match smGet 0 s.trans.l4 jsid with
  | t + 1 => some (t, s)
  | 0 => (takePage s).map fun r => (r.1, { r.2 with trans := { r.2.trans with l4 := smSet 0 r.2.trans.l4 jsid (r.1 + 1) } })

/-- Writes a leaf entry at a level for an address, creating the tables above it; none when the pool is exhausted. -/
def mapDown (leafLevel addr : Nat) (e : U64) : Nat → Nat → State → Option State
  | 0, _, _ => none
  | level + 1, table, s =>
    let a := entryAddr table (level + 1) addr
    if level + 1 = leafLevel then some (s.setPte a e)
    else if (s.pte a).getLsbD 0 then mapDown leafLevel addr e level (entryPa (s.pte a)) s
    else match takePage s with
      | none => none
      | some (t, s1) => mapDown leafLevel addr e level t (s1.setPte a (BitVec.ofNat 64 (t + 1)))

/-- One page mapped. -/
def mapPage (jsid level addr : Nat) (e : U64) (s : State) : Option State :=
  (ensureL4 jsid s).bind fun r => mapDown level addr e 4 r.1 r.2

/-- What stands at a page of a level: nothing, a leaf of the same size with its entry address, a larger leaf, or a table
below (R249). -/
inductive PageAt where
  | absent
  | same (entry : Nat)
  | larger
  | table
deriving DecidableEq, Repr

/-- Descends to the level of a page. -/
def pageFrom (s : State) (leafLevel addr : Nat) : Nat → Nat → PageAt
  | 0, _ => .absent
  | level + 1, table =>
    let a := entryAddr table (level + 1) addr
    let e := s.pte a
    if !e.getLsbD 0 then .absent
    else if level + 1 = leafLevel then (if level = 0 ∨ e.getLsbD 2 then .same a else .table)
    else if e.getLsbD 2 then .larger
    else pageFrom s leafLevel addr level (entryPa e)

/-- What stands at a page of a job space. -/
def pageAt (s : State) (jsid leafLevel addr : Nat) : PageAt :=
  match smGet 0 s.trans.l4 jsid with
  | 0 => .absent
  | t + 1 => pageFrom s leafLevel addr 4 t

/-- A table page holds no present entry. -/
def State.tableEmpty (s : State) (t : Nat) : Bool := (List.range 512).all fun i => !(s.pte (t + 8 * i)).getLsbD 0

/-- Clears the leaf of an address; a table that becomes empty returns its page to the pool (R246). The Bool says that the
table itself is now empty. -/
def unmapDown (leafLevel addr : Nat) : Nat → Nat → State → Bool × State
  | 0, _, s => (false, s)
  | level + 1, table, s =>
    let a := entryAddr table (level + 1) addr
    let release := fun (t : Nat) (r : State) => { r with trans := { r.trans with pages := r.trans.pages.filter (· ≠ t) } }
    let s1 := if level + 1 = leafLevel then s.setPte a 0
      else
        let child := entryPa (s.pte a)
        let (gone, r) := unmapDown leafLevel addr level child s
        if gone then release child (r.setPte a 0) else r
    (s1.tableEmpty table, s1)

/-- One page unmapped. -/
def unmapPage (jsid level addr : Nat) (s : State) : State :=
  match smGet 0 s.trans.l4 jsid with
  | 0 => s
  | t + 1 =>
    let (gone, r) := unmapDown level addr 4 t s
    if gone then { r with trans := { r.trans with pages := r.trans.pages.filter (· ≠ t), l4 := smSet 0 r.trans.l4 jsid 0 } } else r

/-- A job space has a present leaf. -/
def State.hasLeaf (s : State) (jsid : Nat) : Bool := decide (smGet 0 s.trans.l4 jsid ≠ 0)

/-- A commit, a merge line or a request still to be answered, of a job space and translated before the change numbered gen, lies in a
physical range (R250): the answer of an OR enters the commit buffer. -/
def State.commitIn (s : State) (jsid gen lo n : Nat) : Bool :=
  let hit := fun a j g => decide (j = jsid) && decide (g ≤ gen) && decide (lo ≤ a) && decide (a < lo + n)
  s.dram.commits.any (fun c => hit c.paddr c.jsid c.gen) || s.dram.draining.any (fun c => hit c.paddr c.jsid c.gen) ||
    s.dram.merge.any (fun m => hit (m.line * 64) m.jsid m.gen) ||
    [0, 1, 2, 3].any fun p => (s.part p).reqs.any fun q => q.resp.isNone && !q.faulted && !q.lost && hit q.paddr (s.part p).jsid q.gen

/-- TRANS.MAP and TRANS.UNMAP whose old pages have no commit left reply (R250). -/
def finishWaits (s : State) : State :=
  let ready := fun w : TransWait => !w.olds.any fun o => s.commitIn w.jsid w.gen o.1 o.2
  let go := s.trans.waits.filter ready
  go.foldl (fun a w => reply w.ctx w.opcode St.ok [] a) { s with trans := { s.trans with waits := s.trans.waits.filter fun w => !ready w } }

/-- A change of present leaves replies at once when no commit of their old pages is left, else it stays deferred. -/
def replyOrWait (c : CmdCtx) (op jsid lo n : Nat) (olds : List (Nat × Nat)) (s : State) : State :=
  let g := s.trans.gen
  let s1 : State := { s with trans := { s.trans with gen := g + 1 } }
  if olds.any fun o => s.commitIn jsid g o.1 o.2 then
    let w : TransWait := { ctx := c, opcode := op, jsid := jsid, lo := lo, hi := lo + n, olds := olds, gen := g }
    holdDeferred c op { s1 with trans := { s1.trans with waits := s1.trans.waits ++ [w] } }
  else reply c op St.ok [] s1

/-- Bytes of usable DRAM (R233). -/
def State.usableBytes (s : State) : Nat := s.dram.usable * 64

/-- A physical range lies beyond usable capacity or in the pool (R249). -/
def State.physBad (s : State) (a n : Nat) : Bool :=
  decide (s.usableBytes < a + n) || (match s.trans.pool with | some (b, l) => decide (a < b + l) && decide (b < a + n) | none => false)

/-- TRANS.POOL (R246). -/
def execTransPool (c : CmdCtx) (base len : U64) (s : State) : Res :=
  .next (immediate .h 0x0501 c (fun s =>
    let b := base.toNat
    let n := len.toNat
    if s.memGone then reply c 0x0501 St.memUnavailable [] s
    else if s.trans.pool.isSome then reply c 0x0501 St.wrongState [] s
    else if b % 2097152 ≠ 0 ∨ n % 2097152 ≠ 0 ∨ n = 0 ∨ s.usableBytes < b + n then reply c 0x0501 St.argRange [] s
    else reply c 0x0501 St.ok [] { s with trans := { s.trans with pool := some (b, n) } }) s)

/-- Leaf entry of a page (Table 11.2). -/
def leafEntry (level phys : Nat) (w port : Bool) : U64 :=
  BitVec.ofNat 64 (phys + 1 + 2 * bitNat w + (if level = 1 then 0 else 4) + 8 * bitNat port)

/-- TRANS.MAP (R249, R250). -/
def execTransMap (c : CmdCtx) (jsid size flags rsvd : Byte) (count rsvd2 : U16) (jaddr paddr : U64) (s : State) : Res :=
  let level := sizeLevel size.toNat
  let page := pageBytes level
  let n := count.toNat
  .next (pageWait c jsid.toNat jaddr.toNat (n * page) (deferredOp .h 0x0502 c (fun s =>
    let addrs := (List.range n).map fun i => jaddr.toNat + i * page
    let found := addrs.map fun a => pageAt s jsid.toNat level a
    if 15 < jsid.toNat ∨ 2 < size.toNat ∨ 3 < flags.toNat ∨ rsvd ≠ 0 ∨ rsvd2 ≠ 0 ∨ n = 0 ∨ 512 < n then reply c 0x0502 St.argRange [] s
    else if s.memGone then reply c 0x0502 St.memUnavailable [] s
    else if s.trans.pool.isNone then reply c 0x0502 St.wrongState [] s
    else if !rangeOk jaddr.toNat (n * page) then reply c 0x0502 St.argRange [] s
    else if jaddr.toNat % page ≠ 0 ∨ paddr.toNat % page ≠ 0 then reply c 0x0502 St.mapAlign [] s
    else if s.physBad paddr.toNat (n * page) then reply c 0x0502 St.argRange [] s
    else if found.any fun f => decide (f = .larger) || decide (f = .table) then reply c 0x0502 St.mapConflict [] s
    else
      let olds := found.filterMap fun f => match f with | .same a => some (entryPa (s.pte a), page) | _ => none
      let step := fun (r : Option State) (i : Nat) => r.bind fun a =>
        mapPage jsid.toNat level (jaddr.toNat + i * page) (leafEntry level (paddr.toNat + i * page) (flags.getLsbD 0) (flags.getLsbD 1)) a
      match (List.range n).foldl step (some s) with
      | none => reply c 0x0502 St.poolFull [] s
      | some s1 =>
        replyOrWait c 0x0502 jsid.toNat jaddr.toNat (n * page) olds (forwardPages msgMap jsid.toNat level flags.toNat n jaddr.toNat paddr.toNat s1))) s)

/-- TRANS.UNMAP (R249, R250). -/
def execTransUnmap (c : CmdCtx) (jsid size : Byte) (rsvd : U16) (count rsvd2 : U16) (jaddr : U64) (s : State) : Res :=
  let level := sizeLevel size.toNat
  let page := pageBytes level
  let n := count.toNat
  .next (pageWait c jsid.toNat jaddr.toNat (n * page) (deferredOp .h 0x0503 c (fun s =>
    let addrs := (List.range n).map fun i => jaddr.toNat + i * page
    if 15 < jsid.toNat ∨ 2 < size.toNat ∨ rsvd ≠ 0 ∨ rsvd2 ≠ 0 ∨ n = 0 ∨ 512 < n then reply c 0x0503 St.argRange [] s
    else if s.memGone then reply c 0x0503 St.memUnavailable [] s
    else if !rangeOk jaddr.toNat (n * page) then reply c 0x0503 St.argRange [] s
    else if jaddr.toNat % page ≠ 0 then reply c 0x0503 St.mapAlign [] s
    else if addrs.any fun a => decide (pageAt s jsid.toNat level a = .larger) || decide (pageAt s jsid.toNat level a = .table) then reply c 0x0503 St.mapConflict [] s
    else
      let olds := addrs.filterMap fun a => match pageAt s jsid.toNat level a with | .same e => some (entryPa (s.pte e), page) | _ => none
      let step := fun (r : State) (a : Nat) => match pageAt r jsid.toNat level a with | .same _ => unmapPage jsid.toNat level a r | _ => r
      replyOrWait c 0x0503 jsid.toNat jaddr.toNat (n * page) olds (forwardPages msgUnmap jsid.toNat level 0 n jaddr.toNat 0 (addrs.foldl step s)))) s)

/-- Every fault of frame k of partition p is resolved: no port record of it is held, and each job space in which one went
unrecorded holds fewer than 64 records (R254, R255). -/
def faultsResolved (p : Nat) (k : FrameNo) (s : State) : Bool :=
  !(s.trans.faults.any fun r => decide (r.src = 1) && decide (r.part = p) && decide (r.frame = k) && !r.abandoned) &&
    ((s.part p).unrecorded.all fun u => decide (u.1 ≠ k) || decide ((s.faultsOf u.2).length < 64))

/-- The translation-fault hold of a partition ends when its frame's faults are resolved (R255). -/
def retestFaultHold (p : Nat) (s : State) : State :=
  let x := s.part p
  if x.holds.any fun h => decide (h.code = St.transFault) && !h.resolved && faultsResolved p h.frame s then
    resolveHolds p (fun h => decide (h.code = St.transFault) && faultsResolved p h.frame s) s
  else s

/-- The re-execution of a record's frame completes its requests with ERR (R255). -/
def forceError (r : FaultRec) (s : State) : State :=
  let x := s.part r.part
  s.setPart r.part { x with forceErr := x.forceErr ++ [(r.frame, r.faddr / 4096, r.cause)] }

/-- Records are cleared, which may make room for what faults went unrecorded (R254). -/
def freeFaults (q : FaultRec → Bool) (s : State) : State := eachPart retestFaultHold (clearFaults q s)

/-- TRANS.RESOLVE (R255): RETRY clears the records named, ERROR also makes the re-execution of their frame complete with
ERR; a SEQ that names no held memory-port record returns ARG_RANGE. -/
def execTransResolve (c : CmdCtx) (jsid action sel n : Byte) (frame : FrameNo) (rsvd : U16) (seqs : List U32) (s : State) : Res :=
  .next (immediate .h 0x0504 c (fun s =>
    let mine := fun r : FaultRec => decide (r.jsid = jsid.toNat) && decide (r.src = 1)
    let picked := fun r : FaultRec => mine r && (if sel = 0 then seqs.contains r.seq else decide (r.frame = frame))
    if seqs.length ≠ n.toNat then reply c 0x0504 St.lenPayload [] s
    else if 15 < jsid.toNat ∨ 1 < action.toNat ∨ 1 < sel.toNat ∨ rsvd ≠ 0 ∨ (sel = 0 ∧ n = 0) ∨ (sel = 1 ∧ n ≠ 0) then reply c 0x0504 St.argRange [] s
    else if sel = 0 ∧ seqs.any (fun q => !s.trans.faults.any fun r => mine r && decide (r.seq = q)) then reply c 0x0504 St.argRange [] s
    else
      let recs := s.trans.faults.filter picked
      let s1 := if action = 1 then (recs.filter fun r => !r.abandoned).foldl (fun a r => forceError r a) s else s
      eachPart retestFaultHold (reply c 0x0504 St.ok [] (clearFaults picked s1))) s)

/-- TRANS.FAULTS (R253). -/
def execTransFaults (c : CmdCtx) (jsid : Byte) (rsvd : BitVec 24) (s : State) : Res :=
  .next (immediate .j 0x0505 c (fun s =>
    if 15 < jsid.toNat ∨ rsvd ≠ 0 then reply c 0x0505 St.argRange [] s
    else if foreignJs c jsid.toNat then reply c 0x0505 St.jsDenied [] s
    else
      let l := s.faultsOf jsid.toNat
      reply c 0x0505 St.ok (leBytes 1 l.length ++ zeros 3 ++ (l.map faultBytes).flatten) s) s)

/-- TRANS.WALK (Table 16.6): the leaf, or the entry that stopped the walk. -/
def execTransWalk (c : CmdCtx) (jsid : Byte) (rsvd : BitVec 56) (jaddr : U64) (s : State) : Res :=
  .next (pageWait c jsid.toNat jaddr.toNat 1 (immediate .j 0x0506 c (fun s =>
    if 15 < jsid.toNat ∨ rsvd ≠ 0 ∨ !rangeOk jaddr.toNat 1 then reply c 0x0506 St.argRange [] s
    else if foreignJs c jsid.toNat then reply c 0x0506 St.jsDenied [] s
    else if s.memGone then reply c 0x0506 St.memUnavailable [] s
    else
      let (l, e) := match tableWalk s jsid.toNat jaddr.toNat with
        | .leaf l e _ => (l, e)
        | .stop l _ e => (l, e)
      reply c 0x0506 St.ok (leBytes 1 l ++ zeros 7 ++ leBytes 8 e.toNat) (walkRead jsid.toNat 0x8 jaddr.toNat s))) s)

end Sys2Proof.Machine
end

