-- ==== Sys2Proof/Machine/Keys.lean ====
section
/-!
DEFINITION. Keys.lean: key slots, bindings, retirement and rotation (chapter 12), group 0x07 (Table 16.8) and the key
events.
-/
namespace Sys2Proof.Machine

/-- Slots 1 to 63 that are EMPTY with no load in progress. -/
def State.emptySlots (s : State) : Nat :=
  ((List.range 64).filter fun k => decide (1 ≤ k) && decide ((s.slot k).st = .empty) && (s.slot k).shadow.isNone).length

/-- Job spaces with a binding and no sweep in progress (R273). -/
def State.boundNotRotating (s : State) : Nat :=
  ((List.range 16).filter fun j => match s.binding j with | some b => b.rot.isNone | none => false).length

/-- A slot is named by some binding, as its key or as the incoming key of a rotation. -/
def State.slotBound (s : State) (kix : Nat) : Bool :=
  (List.range 16).any fun j => match s.binding j with
    | some b => decide (b.kix = kix) || (match b.rot with | some (k, _, _) => decide (k = kix) | none => false)
    | none => false

/-- A rank migration that waits starts once nothing forbids it (Table 10.6). -/
def startMigr (s : State) (ch : Nat) : State :=
  match smGet none s.dram.migr ch with
  | some m =>
    if m.started ∨ (s.blocker 3 ch).isSome then s
    else startAct 3 ch none { s with dram := { s.dram with migr := smSet none s.dram.migr ch (some { m with started := true }) } }
  | none => s

/-- An automatic rotation that waits starts once nothing forbids it (R277, R382). -/
def startRot (s : State) (jsid : Nat) : State :=
  if (s.blocker 9 jsid).isSome then s else rotateAuto jsid { s with keys := { s.keys with rotWait := s.keys.rotWait.filter (· ≠ jsid) } }

/-- Automatic activities that waited for a holder start once nothing forbids them (Table 10.6, R382). -/
def startWaiting (s : State) : State := s.keys.rotWait.foldl startRot ((List.range 8).foldl startMigr s)

/-- An activity ends, and automatic activities that waited on it start. -/
def finishAct (act obj : Nat) (s : State) : State := startWaiting (endAct act obj s)

/-- Present leaves below a table of a level, ascending: job-space address, level, entry (R248). -/
def entriesFrom (s : State) : Nat → Nat → Nat → List (Nat × Nat × U64)
  | 0, _, _ => []
  | level + 1, table, base =>
    (List.range 512).flatMap fun i =>
      let e := s.pte (table + 8 * i)
      let a := base + i * 2 ^ levelShift (level + 1)
      if !e.getLsbD 0 then [] else if level = 0 ∨ e.getLsbD 2 then [(a, level + 1, e)] else entriesFrom s level (entryPa e) a

/-- Present leaves of a job space with their entries. -/
def State.leafEntries (s : State) (jsid : Nat) : List (Nat × Nat × U64) :=
  match smGet 0 s.trans.l4 jsid with
  | 0 => []
  | t + 1 => entriesFrom s 4 t 0

/-- The present leaves of a job space: job-space address, size, physical address. -/
def State.leaves (s : State) (jsid : Nat) : List (Nat × Nat × Nat) :=
  (s.leafEntries jsid).map fun l => (l.1, pageBytes l.2.1, entryPa l.2.2)

/-- The next line the sweep visits at or above its watermark: job-space address and physical line (R278). -/
def State.nextSweep (s : State) (jsid mark : Nat) : Option (Nat × Nat) :=
  ((s.leaves jsid).find? fun l => decide (mark < l.1 + l.2.1)).map fun l =>
    let a := max l.1 mark
    (a, (l.2.2 + (a - l.1)) / 64)

/-- KEY.LOAD (R270, R271, R273): the key, generated or unwrapped, goes into the slot's shadow, where KEY_LOAD_COMMIT
finds it. A generated key is a free value (log entry 4). -/
def execKeyLoad (c : CmdCtx) (kix form : Byte) (rsvd : U16) (pub : List Byte) (rsvd2 : BitVec 24) (wkey : List Byte) (s : State) : Res :=
  .next (immediate .p 0x0701 c (fun s =>
    let k := kix.toNat
    if (form = 0 ∧ (pub ≠ [] ∨ wkey ≠ [])) ∨ (form = 1 ∧ (pub.length ≠ 97 ∨ wkey.length ≠ 40)) then reply c 0x0701 St.lenPayload [] s
    else if 1 < form.toNat ∨ rsvd ≠ 0 ∨ rsvd2 ≠ 0 ∨ k = 0 ∨ 63 < k then reply c 0x0701 St.argRange [] s
    else if (s.slot k).st ≠ .empty ∨ (s.slot k).shadow.isSome then reply c 0x0701 St.wrongState [] s
    else if s.emptySlots < s.boundNotRotating + 1 then reply c 0x0701 St.keyFull [] s
    else if form = 0 then
      let (key, s1) := s.draw 256
      reply c 0x0701 St.ok [] (s1.setSlot k { s1.slot k with shadow := some (key, none) })
    else match Config.unwrapKey pub wkey with
      | some key => reply c 0x0701 St.ok [] (s.setSlot k { s.slot k with shadow := some (key, none) })
      | none => reply c 0x0701 St.keyUnwrap [] (secEvent 3 k 0xFF 0xB 0 0 s)) s)

/-- KEY_LOAD_COMMIT (R271): the shadow key passes its check and the slot becomes LOADED. -/
def execKeyLoadCommit (kix : Fin 64) (s : State) : Res :=
  .next (match (s.slot kix.val).shadow with
    | some (key, _) => s.setSlot kix.val { st := .loaded, key := key, shadow := none, ctx := none }
    | none => s)

/-- KEY.BIND (R272): a LOADED slot is bound to a job space that has no present leaf. -/
def execKeyBind (c : CmdCtx) (jsid kix flags rsvd : Byte) (s : State) : Res :=
  .next (immediate .h 0x0702 c (fun s =>
    let j := jsid.toNat
    if 15 < j ∨ kix = 0 ∨ 63 < kix.toNat ∨ 1 < flags.toNat ∨ rsvd ≠ 0 then reply c 0x0702 St.argRange [] s
    else if (s.slot kix.toNat).st ≠ .loaded ∨ s.hasLeaf j then reply c 0x0702 St.wrongState [] s
    else
      let rot := (s.binding j).bind fun b => b.rot
      reply c 0x0702 St.ok [] (s.setBinding j (some { kix := kix.toNat, dbg := flags.getLsbD 0, rot := rot }))) s)

/-- The sweep has passed the last leaf (R280): the binding takes the incoming index, the outgoing slot becomes
FLUSHING, the event is posted and a KEY.ROTATE completes. -/
def finishRotation (jsid : Nat) (s : State) : State :=
  match s.binding jsid with
  | none => s
  | some b =>
    match b.rot with
    | none => s
    | some (k, _, ctx) =>
      let s0 : State := { s with keys := { s.keys with heirs := s.keys.heirs ++ [(jsid, b.kix, k)] } }
      let s1 := s0.setBinding jsid (some { b with kix := k, rot := none })
      let s2 := s1.setSlot b.kix { s1.slot b.kix with st := .flushing }
      completeOpt ctx St.ok [] (postEvent St.rotateDone 0x9 0xFF (some jsid) [] (finishAct 9 jsid s2))

/-- KEY.UNBIND (R352). A rotation of a job space with no leaf has no line to visit, so it ends first (R280). -/
def execKeyUnbind (c : CmdCtx) (jsid : Byte) (rsvd : BitVec 24) (s : State) : Res :=
  .next (immediate .h 0x0703 c (fun s =>
    let j := jsid.toNat
    if 15 < j ∨ rsvd ≠ 0 then reply c 0x0703 St.argRange [] s
    else if (s.binding j).isNone then reply c 0x0703 St.ok [] s
    else if s.hasLeaf j ∨ [0, 1, 2, 3].any (fun p => decide ((s.part p).st ≠ .empty) && decide ((s.part p).jsid = j)) then
      reply c 0x0703 St.wrongState [] s
    else reply c 0x0703 St.ok [] ((finishRotation j s).setBinding j none)) s)

/-- The slot is bound only to job spaces whose running job a switch is taking out, its pause in effect, and is not the
incoming key of any switch (R265). -/
def State.retirable (s : State) (kix : Nat) : Bool :=
  let parts := [0, 1, 2, 3].filterMap fun p => (s.part p).switch
  let incoming := parts.any fun w => (match s.binding w.newJsid with | some b => decide (b.kix = kix) | none => false)
  let freeOf := fun j => match s.binding j with
    | some b =>
      if b.rot.isSome then decide (b.kix ≠ kix) && (match b.rot with | some (k, _, _) => decide (k ≠ kix) | none => true)
      else decide (b.kix ≠ kix) || parts.any fun w => decide (w.oldJsid = j) && decide (2 ≤ w.phase)
    | none => true
  !incoming && (List.range 16).all freeOf

/-- Something that took the slot's index still uses it (R276, R274): port requests in flight, commits, merge lines, queued lists, and the
save of a switch that is neither done nor void (R265). -/
def State.slotInUse (s : State) (kix : Nat) : Bool :=
  let saves := fun w : Switch => decide (w.oldKix = some kix) && !w.saveDone && !w.saveVoid
  s.dram.commits.any (fun c => decide (c.kix = kix)) || s.dram.draining.any (fun c => decide (c.kix = kix)) ||
    s.dram.merge.any (fun m => decide (m.kix = kix)) || s.dma.any (fun e => e.2.any fun l => decide (l.kix = some kix)) ||
    [0, 1, 2, 3].any fun p =>
      (match (s.part p).switch with | some w => saves w | none => false) ||
        (s.part p).reqs.any fun r => decide (r.kix = some kix) && r.resp.isNone && !r.lost

/-- KEY.RETIRE (R276, R265): an accepted retirement sets the slot to FLUSHING. -/
def execKeyRetire (c : CmdCtx) (kix : Byte) (rsvd : BitVec 24) (s : State) : Res :=
  .next (immediate .p 0x0704 c (fun s =>
    let k := kix.toNat
    if k = 0 ∨ 63 < k ∨ rsvd ≠ 0 then reply c 0x0704 St.argRange [] s
    else if ((s.slot k).st ≠ .loaded ∨ !s.retirable k) ∧ ¬((s.slot k).st = .flushing ∧ (s.slot k).ctx.isNone) then reply c 0x0704 St.wrongState [] s
    else reply c 0x0704 St.accepted [] (s.setSlot k { s.slot k with st := .flushing, ctx := some c })) s)

/-- KEY_FLUSH_COMPLETE (R276): every use of a FLUSHING slot has drained; the key is zeroised, the slot EMPTY and
KEY_RETIRED posted. A binding that still names the slot ends, so its job space has no bound slot. -/
def execKeyFlushComplete (kix : Fin 64) (s : State) : Res :=
  .next (let x := s.slot kix.val
    if x.st ≠ .flushing ∨ s.slotInUse kix.val then s
    else
      let unbind := fun (a : State) (j : Nat) => match a.binding j with | some b => if b.kix = kix.val then a.setBinding j none else a | none => a
      let s0 : State := { s with keys := { s.keys with heirs := s.keys.heirs.filter fun h => decide (h.2.1 ≠ kix.val) } }
      let s1 := (List.range 16).foldl unbind (s0.setSlot kix.val {})
      completeOpt x.ctx St.ok [] (postEvent St.keyRetired 0x9 0xFF none [] s1))

/-- KEY.ROTATE (R277). -/
def execKeyRotate (c : CmdCtx) (jsid kix : Byte) (rsvd : U16) (s : State) : Res :=
  .next (immediate .p 0x0705 c (fun s =>
    let j := jsid.toNat
    if 15 < j ∨ kix = 0 ∨ 63 < kix.toNat ∨ rsvd ≠ 0 then reply c 0x0705 St.argRange [] s
    else match s.binding j with
      | none => reply c 0x0705 St.wrongState [] s
      | some b =>
        if b.rot.isSome ∨ (s.slot kix.toNat).st ≠ .loaded ∨ s.slotBound kix.toNat then reply c 0x0705 St.wrongState [] s
        else match s.blocker 9 j with
          | some h => busyReply c 0x0705 h s
          | none => startRotation j kix.toNat (some c) (reply c 0x0705 St.accepted [] s)) s)

/-- STATE, BIND and ROT (Table 16.8). -/
def keyData (s : State) : List Byte :=
  let code := fun k => match (s.slot k).st with | .empty => 0 | .loaded => 1 | .flushing => 2
  leBytes 16 ((List.range 64).foldl (fun a k => a + code k * 4 ^ k) 0) ++
    ((List.range 16).map fun j => match s.binding j with | some b => BitVec.ofNat 8 b.kix | none => 0xFF#8) ++
    leBytes 2 (maskOf ((List.range 16).filter fun j => match s.binding j with | some b => b.rot.isSome | none => false)) ++ zeros 2

/-- KEY.STATUS (R352). -/
def execKeyStatus (c : CmdCtx) (s : State) : Res :=
  .next (immediate .a 0x0706 c (fun s => reply c 0x0706 St.ok (keyData s) s) s)

/-- The sweep re-encrypts, leaves or poisons one line (R278): its own writes carry the outgoing index o, which a rotation turns into the
incoming index i. -/
def sweepLine (jsid line jaddr o i : Nat) (s : State) : State :=
  match accessLine { jsid := jsid, kix := some o, master := 0x9 } line jaddr s with
  | (.tagFail, s1) => poisonLine jsid o line s1
  | (.data d, s1) => if (s1.meta line).counter = 0 ∨ (s1.meta line).key = (s1.slot i).key then s1
    else mirrorPush jsid (line * 64) d (stampLine jsid o line s1)
  | (_, s1) => s1

/-- SWEEP_LINE_VISIT (R278): the line at the watermark is visited and the watermark moves past it. The sweep stands
still while the ranks are in self-refresh (Table 12.4). -/
def execSweepLineVisit (jsid : Fin 16) (s : State) : Res :=
  .next (match s.binding jsid.val with
    | none => s
    | some b =>
      match b.rot with
      | none => s
      | some (k, mark, ctx) =>
        if s.movesPaused then s
        else match s.nextSweep jsid.val mark with
          | none => s
          | some (a, line) =>
            let s1 := sweepLine jsid.val line a b.kix k s
            setProgress 9 jsid.val (a + 64) (s1.setBinding jsid.val (some { b with rot := some (k, a + 64, ctx) })))

/-- ROTATE_DONE (R280): the watermark has passed the last present leaf. -/
def execRotateDone (jsid : Fin 16) (s : State) : Res :=
  .next (match (s.binding jsid.val).bind (·.rot) with
    | some (_, mark, _) => if (s.nextSweep jsid.val mark).isNone then finishRotation jsid.val s else s
    | none => s)

end Sys2Proof.Machine
end

