-- ==== Sys2Proof/Machine/Xfer.lean ====
section
/-!
DEFINITION. Xfer.lean: the DMA engines' queues (R256) and the transfer of one element line by line (R257, R258).
-/
namespace Sys2Proof.Machine

/-- Lists on an engine, the running or suspended one first. -/
def State.lists (s : State) (eng : Nat) : List DmaList := smGet [] s.dma eng
/-- Lists of an engine replaced. -/
def State.setLists (s : State) (eng : Nat) (l : List DmaList) : State := { s with dma := smSet [] s.dma eng l }

/-- The engine with the fewest lists, the lowest-numbered on a tie; none when every queue holds 4 (R256). -/
def State.pickEngine (s : State) : Option Nat :=
  let best := (List.range 16).foldl (fun b e => if (s.lists e).length < (s.lists b).length then e else b) 0
  if (s.lists best).length < 4 then some best else none

/-- Element an engine begins with: 0xFFFF is the header part of an image (R168). -/
def firstElem : DmaKind → Nat
  | .load _ | .region _ => 0xFFFF
  | _ => 0

/-- An element of an image read. -/
def imageElem (addr len : Nat) : DmaElem := { src := BitVec.ofNat 64 addr, dst := 0, len := BitVec.ofNat 32 len, dir := 2, rsvd := 0 }

/-- A list joins an engine's queue and takes the next LSEQ. -/
def enqueue (eng : Nat) (kind : DmaKind) (ctx : Option CmdCtx) (jsid : Nat) (utag : U32) (elems : List DmaElem) (s : State) : State :=
  let l : DmaList := {
    lseq := s.lseq, kind := kind, ctx := ctx, jsid := jsid, utag := utag, elems := elems, k := firstElem kind, done := 0, suspended := false, losses := 0
    kix := s.takeKix jsid }
  { s.setLists eng (s.lists eng ++ [l]) with lseq := s.lseq + 1 }

/-- The first list of an engine replaced. -/
def setHead (eng : Nat) (l : DmaList) (s : State) : State := s.setLists eng (l :: (s.lists eng).drop 1)
/-- The first list of an engine ends. -/
def dropHead (eng : Nat) (s : State) : State := s.setLists eng ((s.lists eng).drop 1)

/-- The engine that holds a list of this kind. -/
def State.engineOf (s : State) (kind : DmaKind) : Option Nat := (List.range 16).find? fun e => (s.lists e).any fun l => decide (l.kind = kind)

/-- Lists of this kind leave every queue. -/
def dropKind (kind : DmaKind) (s : State) : State :=
  (List.range 16).foldl (fun a e => a.setLists e ((a.lists e).filter fun l => decide (l.kind ≠ kind))) s

/-- The list of a command leaves every queue. -/
def dropCtx (c : CmdCtx) (s : State) : State :=
  (List.range 16).foldl (fun a e => a.setLists e ((a.lists e).filter fun l => decide (l.ctx ≠ some c))) s

/-- Source code of a fault record by what the list carries (Table 11.4). -/
def kindSrc : DmaKind → Nat
  | .list => 2 | .load _ | .region _ => 3 | .save _ | .switchSave _ => 4 | .restore _ => 5

/-- Memory-engine master of a transfer: the DMA subsystem of Table 1.1. -/
abbrev dmaMaster : Nat := 0x8

/-- The accesses of a list: with the index taken when it was queued, else with what its job space has now (R274). -/
def State.listAccess (s : State) (l : DmaList) : Access := { s.access l.jsid dmaMaster with kix := l.kix <|> s.takeKix l.jsid }

/-- How an element ends: a fault of the source or of the destination. -/
structure ElemFault where
  srcSide : Bool
  f : XferFault
deriving DecidableEq, Repr

/-- Source bytes of one destination line (R258): from the host as far as they came, else read from the job space. -/
def sourceLine (w : Access) (dir src off k : Nat) (host : List Byte) (s : State) : List Byte × Option XferFault × State :=
  if dir = 0 then
    if off + k ≤ host.length then (bytesAt host off k, none, s)
    else ([], some { addr := src + max off host.length, cause := 6, level := 0, done := off }, s)
  else
    match readJob w (src + off) k s with
    | (b, some f, s1) => (b, some { f with done := off }, s1)
    | (b, none, s1) => (b, none, s1)

/-- One destination line is written: to the host as a posted write, else into the job space. -/
def destLine (w : Access) (dir dst off : Nat) (b : List Byte) (s : State) : Option XferFault × State :=
  if dir = 1 then (none, s.emit (.hostWrite (dst + off) b))
  else match writeJob w (dst + off) b s with
    | (some f, s1) => (some { f with done := off }, s1)
    | (none, s1) => (none, s1)

/-- The destination lines of an element in ascending order, each source line read before its destination is translated
(R257, R258). -/
def moveLines (w : Access) (dir src dst len : Nat) (host : List Byte) : Nat → Nat → State → Option ElemFault × State
  | 0, _, s => (none, s)
  | fuel + 1, off, s =>
    if len ≤ off then (none, s)
    else
      let k := min (len - off) (64 - (dst + off) % 64)
      match sourceLine w dir src off k host s with
      | (_, some f, s1) => (some { srcSide := true, f := f }, s1)
      | (b, none, s1) =>
        match destLine w dir dst off b s1 with
        | (some f, s2) => (some { srcSide := false, f := f }, s2)
        | (none, s2) => moveLines w dir src dst len host fuel (off + k) s2

/-- A whole element, with the host bytes that came for it. -/
def moveElem (w : Access) (e : DmaElem) (host : List Byte) (s : State) : Option ElemFault × State :=
  moveLines w e.dir.toNat e.src.toNat e.dst.toNat e.len.toNat host (e.len.toNat / 64 + 2) 0 s

/-- Destination lines of an element that stand in the merge buffer (R257). -/
def State.joinedLines (s : State) (w : Access) (e : DmaElem) : List Nat :=
  if e.dir = 1 then []
  else (List.range (e.len.toNat / 64 + 2)).filterMap fun i =>
    let a := (e.dst.toNat / 64 + i) * 64
    if e.dst.toNat + e.len.toNat ≤ a then none
    else match translate s w a true false with
      | .ok ph => if s.buffered (ph / 64) then some (ph / 64) else none
      | .error _ => none

/-- The element in progress is complete and visible: the next one begins, or the list completes (R256, R257). -/
def finishElement (eng : Nat) (l : DmaList) (s : State) : State :=
  if l.k + 1 < l.elems.length then setHead eng { l with k := l.k + 1, done := 0, losses := 0, joined := [] } s
  else completeOpt l.ctx St.ok (leBytes 4 l.utag.toNat) (dropHead eng s)

/-- A line has left the merge buffer: an engine whose element waited for its last line goes on. -/
def lineVisible (line : Nat) (s : State) : State :=
  (List.range 16).foldl (fun a e => match a.lists e with
    | [] => a
    | l :: _ =>
      if !l.joined.contains line then a
      else
        let rest := l.joined.filter (· ≠ line)
        if rest = [] then finishElement e l a else setHead e { l with joined := rest } a) s

/-- The record of a transfer's fault (Table 11.4): translation faults and data faults alike (R253). -/
def recordFault (eng : Nat) (l : DmaList) (elem : Nat) (x : ElemFault) (s : State) : State :=
  postFault {
    seq := 0, src := kindSrc l.kind, cause := x.f.cause, level := x.f.level, jsid := l.jsid, faddr := x.f.addr, elem := elem, eng := eng
    count := 1, done := x.f.done, frame := 0, part := 0xFF, wr := !x.srcSide, srcSide := x.srcSide, resolved := false, abandoned := false } s

/-- The engine stops the list at its element and suspends, with a fault record (R258). -/
def suspendList (eng : Nat) (l : DmaList) (elem : Nat) (x : ElemFault) (s : State) : State :=
  recordFault eng l elem x (setHead eng { l with suspended := true, k := elem, done := x.f.done } s)

/-- A fault record of a transfer on an engine (SRC 2 to 5). -/
def engineFault (eng : Nat) (r : FaultRec) : Bool := decide (r.eng = eng) && decide (2 ≤ r.src) && decide (r.src ≤ 5)

/-- The records of an engine's suspended list are cleared (R259). -/
def clearEngine (eng : Nat) (s : State) : State := freeFaults (engineFault eng) s

end Sys2Proof.Machine
end

