-- ==== Sys2Proof/Machine/Ports.lean ====
section
/-!
DEFINITION. Ports.lean: memory ports (chapter 10): descriptors, requests and their order, commits, responses and their
placement (R104), and the completeness of a frame's responses.
-/
namespace Sys2Proof.Machine

/-- A descriptor of Table 10.1. -/
structure Desc where
  v : Bool
  step : Nat
  grp : Nat
  rgrp : Nat
  fs : Bool
  crow : Nat
  drow : Nat
deriving DecidableEq, Repr

/-- Fields of a descriptor. -/
def descOf (d : U64) : Desc := {
  v := d.getLsbD 58, step := (d.extractLsb' 48 10).toNat, grp := (d.extractLsb' 44 4).toNat, rgrp := (d.extractLsb' 40 4).toNat
  fs := d.getLsbD 39, crow := (d.extractLsb' 28 11).toNat, drow := (d.extractLsb' 17 11).toNat }

/-- Job-space byte address of a word (R220). -/
def wordByte (w : Nat) : Nat := 64 * (w / 7) + 9 * (w % 7)
/-- Channel of a word (R220). -/
def wordChannel (w : Nat) : Nat := w / 7 / 4 % 8

/-- Order key of a request within a frame (R222). -/
def orderKey (step lcl port r : Nat) : Nat := ((step * 128 + lcl) * 4 + port) * 16 + r

/-- Frame, then key: a request or commit stands before another. -/
def earlier (f1 : FrameNo) (k1 : Nat) (f2 : FrameNo) (k2 : Nat) : Bool := frameBefore f1 f2 || (decide (f1 = f2) && decide (k1 < k2))

/-- The 72-bit word of nine bytes. -/
def wordOf (b : List Byte) : BitVec 72 := BitVec.ofNat 72 (leNat b)

/-- The latest pending write of a word before a request of partition p, if any (R222). -/
def State.pendingWord (s : State) (p : Nat) (f : FrameNo) (key paddr : Nat) : Option (BitVec 72) :=
  let hit := s.dram.commits.filter fun c => decide (c.part = p) && decide (c.paddr = paddr) && earlier c.frame c.key f key
  let best := hit.foldl (fun (b : Option Commit) c => match b with
    | none => some c
    | some d => if earlier d.frame d.key c.frame c.key then some c else b) none
  match best with
  | some c => some c.data
  | none => match (s.dram.draining.filter fun c => decide (c.paddr = paddr)).getLast? with
    | some c => some c.data
    | none => none

/-- The write of a request enters the commit buffer under the index of the request (R224, R274). -/
def pushCommit (p jsid : Nat) (q : Request) (d : BitVec 72) (s : State) : State :=
  let c : Commit := {
    part := p, frame := q.frame, key := q.key, jsid := jsid, paddr := q.paddr, jaddr := q.jaddr, kix := q.kix.getD 0, data := d, gen := s.trans.gen }
  { s with dram := { s.dram with commits := s.dram.commits ++ [c] } }

/-- A faulting request (R254): the record of its frame, page and cause is counted up, made, or goes unrecorded; the frame's
hold is raised once. -/
def portFault (p : Nat) (q : Request) (jaddr cause level : Nat) (wr : Bool) (s : State) : State :=
  let x := s.part p
  let same := fun r : FaultRec => decide (r.src = 1) && decide (r.part = p) && decide (r.frame = q.frame) && decide (r.cause = cause) &&
    decide (r.faddr / 4096 = jaddr / 4096) && !r.abandoned
  let bumpRec := fun r : FaultRec => if same r then { r with count := min 255 (r.count + 1) } else r
  let s1 :=
    if s.trans.faults.any same then { s with trans := { s.trans with faults := s.trans.faults.map bumpRec } }
    else
      let full := decide (64 ≤ (s.faultsOf x.jsid).length)
      let s0 := postFault {
        seq := 0, src := 1, cause := cause, level := level, jsid := x.jsid, faddr := jaddr, elem := q.lcl + 128 * q.port + 512 * q.r, eng := 0xFF
        count := 1, done := 0, frame := q.frame, part := p, wr := wr, srcSide := false, resolved := false, abandoned := false } s
      if full then
        let y := s0.part p
        s0.setPart p { y with unrecorded := y.unrecorded ++ [(q.frame, x.jsid)] }
      else s0
  if ((s1.part p).holds.any fun h => decide (h.code = St.transFault) && decide (h.frame = q.frame) && !h.resolved) then s1
  else raiseHold p St.transFault 0 s1

/-- The request joins those of its partition. -/
def addRequest (p : Nat) (q : Request) (s : State) : State :=
  let x := s.part p
  { s.setPart p { x with reqs := x.reqs ++ [q] } with noc := { s.noc with made := s.noc.made + 1 } }

/-- A port's channel mask does not include the channel (R221): counted, and logged at the first miss of the port since
Start. -/
def chanMiss (p pcl lcl port : Nat) (s : State) : State :=
  let x := s.part p
  let s1 := bump 0x7 (pcl * 4 + port) 1 s
  if x.chanMiss.contains (lcl * 4 + port) then s1
  else logRec { cause := St.chanMiss, sub := 0x7, sev := 5, part := p, loc := tableLoc pcl port 0 0 0 }
    (s1.setPart p { s1.part p with chanMiss := x.chanMiss ++ [lcl * 4 + port] })

/-- A record resolved with ERROR matches a request by its page and its cause (R255): WRITE_DENIED is a write's alone. -/
def errorMatches (x : Partition) (jaddr : Nat) (wr : Bool) : Bool :=
  x.forceErr.any fun e => decide (e.1 = x.frame) && decide (e.2.1 = jaddr / 4096) && (wr || decide (e.2.2 ≠ 2))

/-- One enabled request is performed in key order (R219 to R222). A WRITE is complete as it enters the commit buffer; a
SWAP enters its new value at once; a READ, SWAP or OR waits for its word. -/
def performRequest (p lcl pcl port r : Nat) (d : Desc) (op : BitVec 2) (addr : Nat) (data : BitVec 72) (s : State) : State :=
  let x := s.part p
  let wr := decide (op ≠ 0)
  let q : Request := {
    frame := x.frame, lcl := lcl, port := port, r := r, rgrp := d.rgrp, key := orderKey d.step lcl port r, paddr := 0, jaddr := wordByte addr, kix := s.takeKix x.jsid
    gen := s.trans.gen, data := data
    seq := s.noc.made, sent := false, tag := none, pcl := pcl, epoch := smGet 0#16 x.epochs lcl, op := op, resp := none, arrived := false, fwd := false, late := false, lost := false, faulted := false
    wantsData := decide (op ≠ 1) }
  let mask := (x.image.map fun i => smGet 0#8 i.cmask (4 * lcl + port)).getD 0
  if !mask.getLsbD (wordChannel addr) then chanMiss p pcl lcl port s
  else
    let jaddr := wordByte addr
    if errorMatches x jaddr wr then
      addRequest p { q with resp := some (0, true), arrived := !q.wantsData } s
    else
      let s0 := walkRead x.jsid 0x7 jaddr s
      match translate s (s.access x.jsid 0x7) jaddr wr true with
      | .error (cause, level) => portFault p q jaddr cause level wr (addRequest p { q with faulted := true } s0)
      | .ok ph =>
        let q1 := { q with paddr := ph }
        let s1 := if op = 1 ∨ op = 2 then pushCommit p x.jsid q1 data s0 else s0
        if op = 1 then addRequest p { q1 with resp := some (0, false), arrived := true } s1 else addRequest p q1 s1

/-- A row that a request reads is checked (R77, R218). DESIGN CHOICE: the BP address logged for a memory port's read is that of column 0 of
the group (log entry 76). -/
def rowParity (p pcl grp : Nat) (fs : Bool) (row : Nat) (s : State) : State := checkRow p (s.part p) pcl grp 0 fs row s

/-- One V = 1 descriptor at its step (R218): its rows are read, its fields enter the signature, and an enabled request is
performed. -/
def issueDesc (p lcl pcl port r : Nat) (d : Desc) (s : State) : State :=
  let x := s.part p
  let s0 := rowParity p pcl d.grp d.fs d.drow (rowParity p pcl d.grp d.fs d.crow s)
  let crow := readRow s x pcl d.grp d.fs d.crow d.step
  let drow := readRow s x pcl d.grp d.fs d.drow d.step
  let data : BitVec 72 := crow.extractLsb' 0 8 ++ drow
  let addr := (crow.extractLsb' 8 38).toNat
  let op : BitVec 2 := crow.extractLsb' 46 2
  let en := crow.getLsbD 48
  let y := s0.part p
  let crc := crcFeedBits (crcFeedBits (crcFeedBits (crcFeed y.crc en) 2 op.toNat) 38 addr) 72 data.toNat
  let s1 := s0.setPart p { y with crc := crc }
  if en then performRequest p lcl pcl port r d op addr data s1 else s1

/-- The memory-port requests of step t, in key order (MEMORY_REQUEST_ISSUE). -/
def issueRequests (p t : Nat) (s : State) : State :=
  let x := s.part p
  x.hosts.foldl (fun a e =>
    let pcl := e.2 - 1
    (keysIn a.arr.mport (mportKey pcl 0 0) 64).foldl (fun b m =>
      let i := m.1 - mportKey pcl 0 0
      let d := descOf m.2
      if d.v ∧ d.step = t then issueDesc p e.1 pcl (i / 16) (i % 16) d b else b) a) s

/-- The word a request finds before it: the latest pending write, else the DRAM line as forwarded (R222). A bus error gives
none. -/
def requestWord (p : Nat) (q : Request) (s : State) : Option (BitVec 72) × State :=
  match s.pendingWord p q.frame q.key q.paddr with
  | some d => (some d, s)
  | none =>
    let (b, s1) := readBytes { jsid := (s.part p).jsid, kix := q.kix, master := 0x7 } (q.paddr / 64) q.jaddr (q.paddr % 64) 9 s
    (b.map wordOf, s1)

/-- A waiting request takes its word (R219, R227): an OR enters the commit buffer with the previous word OR its data; after
a bus error it completes with ERR and an OR is not performed. -/
def answerRequest (p : Nat) (q : Request) (s : State) : State :=
  let (w, s1) := requestWord p q s
  let resp := match w with | some d => (d, false) | none => (0, true)
  let s2 := match w with
    | some d => if q.op = 3 then pushCommit p (s1.part p).jsid q (d ||| q.data) s1 else s1
    | none => s1
  let x := s2.part p
  let upd := fun o : Request => if o.frame = q.frame ∧ o.key = q.key then { o with resp := some resp } else o
  s2.setPart p { x with reqs := x.reqs.map upd }

/-- A request waits for its word. -/
def Request.waits (q : Request) : Bool := q.resp.isNone && !q.faulted && !q.lost

/-- Hold conditions of a missing response (R223): the re-execution performs anew what was late or lost (R225). -/
def ofResponse (code : Nat) : Bool := [St.admitOverrun, St.nocLost].contains code

/-- A request of a frame that a verdict has abandoned has been neither answered nor declared lost (R293). -/
def awaited (l : List NocOrphan) (p : Nat) (f : FrameNo) : Bool := l.any fun o => decide (o.part = p) && decide (o.frame = f)

/-- A request has neither been answered at its engine nor ended otherwise. -/
def Request.pending (q : Request) : Bool := !q.arrived && !q.faulted && !q.lost

/-- Memory-port unit of a request (Table 13.1). -/
def Request.mpu (q : Request) : Nat := q.pcl / 4

/-- A request is among the 64 of its memory-port unit that hold a tag: those made before it, and the abandoned ones whose tag is not free,
leave one (R290, R296). -/
def State.holdsTag (s : State) (q : Request) : Bool :=
  let ahead := [0, 1, 2, 3].flatMap fun p => (s.part p).reqs.filter fun o => o.pending && decide (o.mpu = q.mpu) && decide (o.seq < q.seq)
  let orphans := s.noc.orphans.filter fun o => decide (o.tag / 64 = 16 + q.mpu)
  decide (ahead.length + orphans.length < 64)

/-- Insertion of a request by frame and key. -/
def insertReq (q : Request) : List Request → List Request
  | [] => [q]
  | r :: l => if earlier q.frame q.key r.frame r.key then q :: r :: l else r :: insertReq q l

/-- Every waiting request on a line that holds a tag takes its word, in key order. -/
def answerLine (p line : Nat) (s : State) : State :=
  ((((s.part p).reqs.filter fun q => q.waits && decide (q.paddr / 64 = line) && s.holdsTag q).foldl (fun l q => insertReq q l) [])).foldl
    (fun a q => answerRequest p q a) s

/-- Partition that a physical cluster serves. -/
def State.partOf (s : State) (pcl : Nat) : Option Nat := [0, 1, 2, 3].find? fun p => decide ((s.part p).st ≠ .empty) && (s.part p).pcls.contains pcl

/-- Physical cluster that hosts logical cluster lcl of partition p in frame m, when a migration with switch frame m is
armed for it. -/
def State.hostIn (s : State) (p lcl : Nat) (m : FrameNo) : Option Nat :=
  let x := s.part p
  match x.pcl lcl with
  | none => none
  | some pcl =>
    match smGet none s.arr.migr (pcl / 24) with
    | some g =>
      if g.part = p ∧ g.m = m ∧ !g.switched ∧ (x.changes.any fun c => decide (c.opcode = 0x0404) && c.armed) then
        (if lcl = g.lcl then some g.tgt else if lcl = g.spareL then some g.src else some pcl)
      else some pcl
    | none => some pcl

/-- STALE_DROP (R104): counted and logged; the rows of a dropped response read 0. -/
def staleDrop (p pcl : Nat) (q : Request) (s : State) : State :=
  logRec { cause := St.staleDrop, sub := 0x7, sev := 5, part := p, loc := tableLoc pcl q.port q.r 0 0
           detail := q.lcl + 2 ^ 8 * q.epoch.toNat + 2 ^ 24 * q.port + 2 ^ 32 * q.r } (bump 0x7 (pcl * 4) 2 s)

/-- A response reaches the engine of a physical cluster (R104). -/
def takeResponse (p pcl : Nat) (q : Request) (s : State) : State :=
  let x := s.part p
  let cur := smGet 0#16 x.epochs q.lcl
  let set := fun (f : Request → Request) => s.setPart p { x with reqs := x.reqs.map fun o => if o.frame = q.frame ∧ o.key = q.key then f o else o }
  if q.epoch = cur then
    if x.pcl q.lcl = some pcl then
      let moved := decide (s.hostIn p q.lcl (q.frame + 1) ≠ some pcl)
      set fun o => { o with arrived := true, fwd := moved }
    else staleDrop p pcl q (set fun o => { o with arrived := true, wantsData := false })
  else if q.epoch + 1 = cur ∧ (s.arr.fwdUntil.any fun w => decide (w.part = p) && decide (w.src = pcl) && frameBefore x.frame (w.m + 2)) then
    set fun o => { o with arrived := true, fwd := true, late := true }
  else staleDrop p pcl q (set fun o => { o with arrived := true, wantsData := false })

/-- MEMORY_RESPONSE (R104): the oldest response not yet collected of request r of a port of a physical cluster. A request that has no tag
has not been injected; a response that the network still carries has not arrived (R290). -/
def execMemoryResponse (pcl : Fin 96) (port : Fin 4) (r : Fin 16) (s : State) : Res :=
  .next (match s.partOf pcl.val with
    | none => s
    | some p =>
      match (s.part p).reqs.find? fun q => decide (q.pcl = pcl.val) && decide (q.port = port.val) && decide (q.r = r.val) && q.pending with
      | none => s
      | some q =>
        if q.tag.isSome || !s.holdsTag q then s
        else
          let s1 := if q.waits then answerLine p (q.paddr / 64) s else s
          takeResponse p pcl.val q s1)

/-- Every response due for frame n has arrived (R96). -/
def Partition.complete (x : Partition) (n : FrameNo) : Bool := x.reqs.all fun q => decide (q.frame ≠ n) || q.arrived

/-- DRAM_READ_COMPLETE (R237, R240, R241, R275): a line at or beyond the installed capacity does not exist. For the
memory models the waiting requests of the line take their word; another master's read has here the findings of the ECC,
and its data with its own command. -/
def execDramReadComplete (line : Nat) (requester : Byte) (s : State) : Res :=
  if !s.dram.ok then .next s
  else if s.dataLines * 8 ≤ line then .fault .noSuchLine
  else if requester = 7 then .next (eachPart (fun p a => answerLine p line a) s)
  else .next (
    eccLost (eccRead s line) line)

end Sys2Proof.Machine
end

