-- ==== Sys2Proof/Machine/Ddr.lean ====
section
/-!
DEFINITION. Ddr.lean: the events of the DDR5 channels (chapter 10): the merge buffer, rank migration, refresh, patrol.
-/
namespace Sys2Proof.Machine

/-! ### A partition that empties (R166, R167) -/

/-- Every frame executed is beyond replay and its commits are complete (R224, R167, R460). -/
def State.settled (s : State) (p : Nat) : Bool :=
  let x := s.part p
  decide (x.sampled = []) && !(s.dram.commits.any fun k => decide (k.part = p)) && !(s.dram.draining.any fun k => decide (k.part = p)) &&
    !(s.dram.merge.any fun e => if x.st = .loading then decide (x.drainJs = some e.jsid) else decide (e.jsid = x.jsid))

/-- A DMA engine still writes the shadow of a partition. -/
def State.savesShadow (s : State) (p : Nat) : Bool := (s.engineOf (.save p)).isSome || (s.engineOf (.switchSave p)).isSome

/-- The CAST activity of a partition ends once no transfer of it is left. -/
def endCast (p : Nat) (s : State) : State := if s.savesShadow p ∨ (s.engineOf (.restore p)).isSome then s else finishAct 6 p s

/-- Net Memory banks, port rows and results of some clusters are discarded (R167). -/
def discardRows (cls : List Nat) (s : State) : State :=
  let a := s.arr
  { s with arr := { a with
      nm := smDrop (fun k => cls.contains (k / 98304)) a.nm, nmBad := smDrop (fun k => cls.contains (k / 98304)) a.nmBad
      pr := smDrop (fun k => cls.contains (k / 8192)) a.pr, prBad := smDrop (fun k => cls.contains (k / 8192)) a.prBad
      prNext := smDrop (fun k => cls.contains (k / 8192)) a.prNext, results := smDrop (fun k => cls.contains (k / 8192)) a.results } }

/-- The pins of a partition's dies go idle and the lanes of its mask leave service: they carry data for a running partition only (R143). -/
def quietDies (p : Nat) (s : State) : State :=
  let x := s.part p
  let mine := BitVec.ofNat 24 (maskOf ((List.range 24).filter fun r => x.dies.getLsbD (r / 6)))
  let back := fun (a : State) (n : Nat) =>
    let l : Lane := { a.lane n with frozen := none, resumeAt := none }
    a.setLane n (if l.st = .active ∨ l.st = .calibrate then { l with st := .ready, since := a.clk.now } else l)
  let s1 : State := { s with fab := { s.fab with drive := s.fab.drive &&& ~~~mine } }
  x.portLanes.foldl back s1

/-- The partition becomes EMPTY: it holds no dies; its scope assignment stays, and a record that is being saved. -/
def emptyPart (p : Nat) (s : State) : State :=
  let s1 := quietDies p (discardRows (s.part p).pcls (loseCast p s))
  let x := s1.part p
  let sc : ScopeSt := { x.sc with start := none, sent := [], clears := [], clearSent := none }
  let y : Partition := { scope := x.scope, root := x.root, rootSc := x.rootSc, sc := sc, switch := x.switch, shadow := if s.savesShadow p then x.shadow else none }
  completeOpt x.unloadCtx St.ok [] (s1.setPart p y)

/-- An unload that waited for the last frame's writes goes on (R167). -/
def finishUnload (p : Nat) (s : State) : State := if (s.part p).unloadCtx.isSome ∧ s.settled p then emptyPart p s else s

/-! ### The merge buffer -/

/-- A line's entry of the merge buffer changed. -/
def updMerge (line : Nat) (f : MergeLine → MergeLine) (s : State) : State :=
  { s with dram := { s.dram with merge := s.dram.merge.map fun e => if e.line = line then f e else e } }

/-- A line leaves the merge buffer; drained commits that waited for room enter it, and page changes and DMA elements that waited for it are
tested again. -/
def leaveMerge (line : Nat) (s : State) : State :=
  eachPart finishUnload (finishWaits (fillMerge (lineVisible line { s with dram := { s.dram with merge := s.dram.merge.filter fun e => decide (e.line ≠ line) } })))

/-- MERGE_FETCH_COMPLETE (R239, R238): the buffer has fetched its line. A poisoned line is not written and stays poisoned; one
that is uncorrectable or fails its tag will be written back poisoned. -/
def execMergeFetchComplete (line : Nat) (s : State) : Res :=
  if !s.dram.ok then .next s
  else if s.dataLines * 8 ≤ line then .fault .noSuchLine
  else .next (match s.dram.merge.find? fun e => decide (e.line = line) && !e.fetched with
    | none => s
    | some e =>
      match accessLine { jsid := e.jsid, kix := some e.kix, master := 0x7 } line e.jaddr s with
      | (.data _, s1) => updMerge line (fun m => { m with fetched := true }) s1
      | (.poisoned, s1) => leaveMerge line (logRec { cause := St.poisonWrite, sub := 0x7, sev := 5, loc := s1.lineLoc line } s1)
      | (_, s1) => updMerge line (fun m => { m with fetched := true, bad := true }) s1)

/-- Nine-byte words of a merged line, as the mirror queue takes them (R315). -/
def mirrorWords (jsid line : Nat) (l : List (Nat × Byte)) : Nat → State → State
  | 0, s => s
  | n + 1, s => match l.head? with
    | none => s
    | some e => mirrorWords jsid line (l.drop 9) n (mirrorPush jsid (line * 64 + e.1) ((l.take 9).map (·.2)) s)

/-- COMMIT_COMPLETE (R224, R239): the first fetched line of the merge buffer is written back and becomes visible. Commits stand still while
the device coasts (R391). -/
def execCommitComplete (s : State) : Res :=
  .next (match s.dram.merge.find? (·.fetched) with
    | none => s
    | some e =>
      if s.clk.coast then s else
      let data := overlay (s.bytesAtPhys (e.line * 64) 64) e.bytes
      let s1 := storeLine e.jsid e.kix e.line data s
      leaveMerge e.line (
        if e.bad then poisonLine e.jsid e.kix e.line s
        else if e.joined then mirrorPush e.jsid (e.line * 64) data s1
        else mirrorWords e.jsid e.line e.bytes e.bytes.length s1))

/-- RANK_MIGRATE_LINE (R241, R242): the line at the watermark is copied and the watermark advances to the rank's next one; a line that is
uncorrectable is poisoned, a correctable one is corrected and logged (R240). -/
def execRankMigrateLine (channel : Fin 8) (s : State) : Res :=
  .next (match smGet none s.dram.migr channel.val with
    | some m =>
      if !m.started ∨ s.movesPaused ∨ s.dataLines ≤ m.mark then s
      else
        let line := chanLine channel.val m.mark
        let s0 := touchRank line (s.dram.ranks - 1) (eccRead s line)
        let x := s0.meta line
        let s1 := s0.setMeta line { x with ecc := 0, poison := x.poison || decide (x.ecc = 2) }
        let next := s.nextOfRank channel.val m.rank (m.mark + 1)
        setProgress 3 channel.val next { s1 with dram := { s1.dram with migr := smSet none s1.dram.migr channel.val (some { m with mark := next }) } }
    | none => s)

/-- RANK_MIGRATE_COMPLETE (R242): every line is copied; the spare takes over and the activity ends. A rank that had an error meanwhile
migrates now only if a spare remains (Table 10.6). -/
def execRankMigrateComplete (channel : Fin 8) (s : State) : Res :=
  .next (match smGet none s.dram.migr channel.val with
    | some m =>
      if m.started ∧ s.dataLines ≤ m.mark then
        let s1 := endAct 3 channel.val { s with dram := { s.dram with migr := smSet none s.dram.migr channel.val none } }
        m.waits.foldl (fun a l => retireRank l a) s1
      else s
    | none => s)

/-- REFRESH_INTERVAL (R235): a refresh of an idle bank is issued; one whose bank is busy is postponed, for at most four
intervals, after which it is forced. -/
def execRefreshInterval (channel : Fin 8) (rank : Fin 4) (bank : Fin 32) (bankBusy : Bool) (s : State) : Res :=
  .next (
    let k := bankKey channel.val rank.val bank.val
    let b : BankSt := smGet {} s.dram.banks k
    if !s.dram.ok ∨ s.dram.selfRefresh ∨ s.dram.ranks ≤ rank.val then s
    else if bankBusy ∧ b.postponed < 4 then { s with dram := { s.dram with banks := smSet {} s.dram.banks k { b with postponed := b.postponed + 1 } } }
    else
      let s1 : State := { s with dram := { s.dram with banks := smSet {} s.dram.banks k { b with postponed := 0, row := none } } }
      s1.emit (.refresh channel.val rank.val bank.val))

/-- DIMM_TEMP_READ (R235): above 85 degrees the refresh interval halves; at 83 or less it returns. -/
def execDimmTempRead (channel : Fin 8) (dimm : Fin 2) (celsius : Nat) (s : State) : Res :=
  .next (
    let k := channel.val * 2 + dimm.val
    let hot := if 85 < celsius then true else if celsius ≤ 83 then false else smGet false s.dram.hot k
    { s with dram := { s.dram with hot := smSet false s.dram.hot k hot } })

/-- Lines of a channel over all its ranks. -/
def State.channelLines (s : State) : Nat := s.dram.ranks * s.dram.rankLines

/-- The patrol's finding at one line: the effects of a read (R240, R241). -/
def patrolRead (line : Nat) (s : State) : State := eccLost (eccRead s line) line

/-- A channel's pass of a MAINT.START ends; the command completes with its own last channel. -/
def patrolEnd (ch : Nat) (s : State) : State :=
  let mask := BitVec.ofNat 8 (maskOf ((onesOf s.dram.patrolMask.toNat 8).filter (· ≠ ch)))
  let ctx := (s.maint.find? fun h => decide (h.act = 2) && decide (h.obj = ch)).bind (·.ctx)
  let s1 := endAct 2 ch { s with dram := { s.dram with patrolMask := mask } }
  if s1.maint.any fun h => decide (h.act = 2) && decide (h.ctx = ctx) then s1 else completeOpt ctx St.ok [] s1

/-- A rank of the channel that migrates (R381: the patrol skips it). -/
def State.migratingRank (s : State) (ch : Nat) : Option Nat := (smGet none s.dram.migr ch).bind fun m => if m.started then some m.rank else none

/-- DRAM_PATROL_LINE (R240, R381): the patrol reads the next line of a channel; a pass that was asked for ends after its
last line. -/
def execDramPatrolLine (channel : Fin 8) (s : State) : Res :=
  let ch := channel.val
  let i := smGet 0 s.dram.patrol ch
  let line := chanLine ch i
  let next := if i + 1 < s.channelLines then i + 1 else 0
  .next (if !s.dram.ok ∨ s.dram.selfRefresh ∨ s.channelLines = 0 then s
    else
      let s1 := if s.migratingRank ch = some (s.lineRank line) then s else patrolRead line s
      let s2 := { s1 with dram := { s1.dram with patrol := smSet 0 s1.dram.patrol ch next } }
      if next = 0 ∧ s2.dram.patrolMask.getLsbD ch then patrolEnd ch s2 else setProgress 2 ch next s2)

end Sys2Proof.Machine
end

