-- ==== Sys2Proof/Machine/Nets.lean ====
section
/-!
DEFINITION. Nets.lean: configuration frames (R191) and the nets of the fabric as its combinational logic settles them (R172, R174,
R181, R187, R200, R210): LUTs, carry chains, and the routing, an uninterpreted function of the routing frames (R176, log entry 9).
-/
namespace Sys2Proof.Machine

/-! ### Configuration frames (R191) -/

/-- Key of a byte of a configuration frame. -/
def cfgKey (region frame byte : Nat) : Nat := (region * 1539 + frame) * 256 + byte

/-- Default of a byte that no section supplies: cell words select no clock (Table 8.1), other frames are 0. -/
def cfgDefault (frame byte : Nat) : Byte :=
  if 512 ≤ frame then 0 else if byte % 4 = 2 then 0xE0#8 else if byte % 4 = 3 then 0x07#8 else 0

/-- A byte of a configuration frame. -/
def State.cfgByte (s : State) (region frame byte : Nat) : Byte := smGet 0#8 s.fab.cfg (cfgKey region frame byte) ^^^ cfgDefault frame byte

/-- n bytes of a frame as a number. -/
def State.cfgField (s : State) (region frame byte n : Nat) : Nat := leNat ((List.range n).map fun i => s.cfgByte region frame (byte + i))

/-- Cell word of a cell of a region (Table 8.7). -/
def State.cellWord (s : State) (region cell : Nat) : U32 := BitVec.ofNat 32 (s.cfgField region (cell / 64) (4 * (cell % 64)) 4)

/-- Cells of a region whose word differs from the default somewhere. -/
def State.cellsOf (s : State) (region : Nat) : List Nat :=
  ((keysIn s.fab.cfg (cfgKey region 0 0) (512 * 256)).map fun e => (e.1 - cfgKey region 0 0) / 4).eraseDups

/-- Flip-flop key. -/
def ffKey (region cell : Nat) : Nat := region * 32768 + cell

/-- The region holds its maquette and is not being reconfigured. -/
def State.regionLive (s : State) (r : Nat) : Bool := s.fab.configured.getLsbD r && !s.fab.stopped.getLsbD r

/-- Content of a die's routing frames (Table 8.7), regions and frames numbered from the die's first region. -/
def State.routing (s : State) (die : Nat) : List (Nat × Byte) :=
  (List.range 6).flatMap fun r => (keysIn s.fab.cfg (cfgKey (6 * die + r) 512 0) (1024 * 256)).map fun e => (e.1 - cfgKey (6 * die) 0 0, e.2)

/-! ### What the edges of a step sample -/

/-- The fabric before the edges of the step in progress, where it has had one. -/
def State.edgeNow (s : State) : Option EdgeStep := s.fab.edge.filter fun e => decide (e.at_ = s.clk.now)
/-- Flip-flops as the step's edges sample them. -/
def State.ffNow (s : State) : SMap Bool := (s.edgeNow.map (·.ff)).getD s.fab.ff
/-- Output registers of block memories as the step's edges sample them. -/
def State.boutNow (s : State) : SMap (BitVec 36) := (s.edgeNow.map (·.bout)).getD s.fab.bout
/-- Block memory rows as they stood before the step (Table 9.4). -/
def State.bmemNow (s : State) : SMap (BitVec 72) := (s.edgeNow.map (·.bmem)).getD s.fab.bmem

/-- Check status of block memory rows as the step's edges find it (R202). -/
def State.bmErrNow (s : State) : SMap Nat := (s.edgeNow.map (·.bmemErr)).getD s.fab.bmemErr

/-- The first edge of a step keeps what all its edges sample. -/
def beginEdge (s : State) : State :=
  if s.edgeNow.isSome then s
  else { s with fab := { s.fab with edge := some { at_ := s.clk.now, ff := s.fab.ff, bout := s.fab.bout, bmem := s.fab.bmem, bmemErr := s.fab.bmemErr, writes := [] } } }

/-! ### User pins (R187, R188) -/

/-- Regions with an I/O bank, in bank order (Table 8.4). -/
def bankRegions : List Nat := [0, 1, 2, 6, 7, 12, 13, 14, 18, 19]

/-- Region that configures a pin. -/
def pinRegion (pin : Nat) : Nat := bankRegions.getD (pin / 24) 0

/-- I/O word of a pin (Table 8.5). -/
def State.ioWord (s : State) (pin : Nat) : Nat := s.cfgField (pinRegion pin) 1538 (4 * (pin % 24)) 4

/-- The level a pin gives to the fabric of a die: none where the pin is another die's or its DIR ignores the input. -/
def State.pinIn (s : State) (pins : IoPins) (die pin : Nat) : Bool :=
  decide (pin < 240) && decide (pinRegion pin / 6 = die) && decide (natBits (s.ioWord pin) 14 2 ≠ 0) && pins.getLsbD pin

/-! ### Nets -/

/-- Output Y and flags of a slice as the routing sees them now (R210, R211). -/
def State.sliceOut (s : State) (n : Nat) : BitVec 38 :=
  let due := (smGet {} s.fab.slices n).shown.filter fun e => decide (e.1 ≤ s.cnt)
  (due.getLast?.map (·.2)).getD 0

/-- Where the carry of a cell comes from (R172): the cell before it in its tile, or the last cell of the tile below; the first cell of
a column takes a routed signal. -/
def carryFrom (region cell : Nat) : Net :=
  if cell % 32 ≠ 0 then .carry region (cell - 1)
  else if 1024 ≤ cell then .carry region (cell - 1024 + 31)
  else .sink (.chain region (cell / 32))

/-- A source that needs no further net: whatever the routing names lies on the die, which routing never leaves (R172). -/
def State.sourceBit (s : State) (pins : IoPins) (die : Nat) : Source → Bool
  | .const level => level
  | .cell region cell => smGet false s.ffNow (ffKey (6 * die + region % 6) (cell % 32768))
  | .orBit cluster reg bit => (smGet 0#64 s.fab.or_ ((24 * die + cluster % 24) * 16 + reg % 16)).getLsbD bit
  | .bmem block port bit => (smGet 0#36 s.boutNow ((576 * die + block % 576) * 2 + port % 2)).getLsbD bit
  | .slice slice bit => (s.sliceOut (288 * die + slice % 288)).getLsbD bit
  | .pin pin => s.pinIn pins die pin

/-- Level of a net with at most the given number of nets before it (Table 8.1, R175). -/
def State.netBit (s : State) (pins : IoPins) (die : Nat) (cfg : List (Nat × Byte)) : Nat → Net → Bool
  | 0, x => Config.unsettled s.clk.now die x
  | n + 1, .sink x => s.netBit pins die cfg n (.source (Config.route cfg x))
  | n + 1, .source x =>
    match x with
    | .cell region0 cell0 =>
      let region := region0 % 6
      let cell := cell0 % 32768
      if !s.regionLive (6 * die + region) then Config.unsettled s.clk.now die (.source x)
      else if (s.cellWord (6 * die + region) cell).getLsbD 20 then s.sourceBit pins die x
      else s.netBit pins die cfg n (.lut region cell)
    | _ => s.sourceBit pins die x
  | n + 1, .lut region cell =>
    let w := s.cellWord (6 * die + region) cell
    let input := fun i : Nat => s.netBit pins die cfg n (.sink (.cell region cell i))
    let d := if w.getLsbD 27 then s.netBit pins die cfg n (carryFrom region cell) else input 3
    w.getLsbD (lutIndex (input 0) (input 1) (input 2) d)
  | n + 1, .carry region cell =>
    let carryIn := s.netBit pins die cfg n (carryFrom region cell)
    if (s.cellWord (6 * die + region) cell).getLsbD 27 then
      let a := s.netBit pins die cfg n (.sink (.cell region cell 0))
      let b := s.netBit pins die cfg n (.sink (.cell region cell 1))
      a && b || carryIn && (a ^^ b)
    else carryIn

/-- No path of a die without a loop is longer: four nets a cell. -/
abbrev netDepth : Nat := 1048576

/-- Level of a routed input of a die. -/
def State.sinkBit (s : State) (pins : IoPins) (die : Nat) (x : Sink) : Bool := s.netBit pins die (s.routing die) netDepth (.sink x)

/-- w routed inputs of a die as a number, the first the least significant. -/
def State.sinkBits (s : State) (pins : IoPins) (die w : Nat) (x : Nat → Sink) : BitVec w :=
  BitVec.ofNat w ((List.range w).foldl (fun a i => a + bitNat (s.sinkBit pins die (x i)) * 2 ^ i) 0)

/-- CLKSEL code of the generator that clocks a port or a slice of a die. -/
def State.clockSel (s : State) (die : Nat) (x : Clocked) : Nat := Config.clockOf (s.routing die) x

/-- The level that a user pin drives, none in high impedance (R188, R190). -/
def State.pinOut (s : State) (pins : IoPins) (pin : Nat) : Option Bool :=
  let region := pinRegion pin
  let dir := natBits (s.ioWord pin) 14 2
  let drives := decide (dir = 2) || (decide (dir = 3) && s.sinkBit pins (region / 6) (.pin pin 1))
  if s.fab.drive.getLsbD region && drives then some (s.sinkBit pins (region / 6) (.pin pin 0)) else none

end Sys2Proof.Machine
end

