-- ==== Sys2Proof/Machine/Hard.lean ====
section
/-!
DEFINITION. Hard.lean: arithmetic slices and block memories (chapter 09).
-/
namespace Sys2Proof.Machine

/-! ### Arithmetic (R207) -/

/-- Redundant sign bits of a number of w bits: 0 to w - 1. -/
def redundant {w : Nat} (v : BitVec w) : Nat :=
  ((List.range (w - 1)).takeWhile fun i => v.getLsbD (w - 2 - i) == v.getLsbD (w - 1)).length

/-- Value of an operand: two's complement with SGN, else unsigned. -/
def opVal {w : Nat} (sgn : Bool) (v : BitVec w) : Int := if sgn then v.toInt else v.toNat

/-- rnd_w(v, s): rounded, saturated to w bits; the Bool says that saturation changed the value. -/
def rnd (w : Nat) (sgn : Bool) (v : Int) (s : Nat) : BitVec w × Bool :=
  let r := if s = 0 then v else (v + (2 ^ (s - 1) : Nat)).fdiv (2 ^ s : Nat)
  let lo : Int := if sgn then -(2 ^ (w - 1) : Nat) else 0
  let hi : Int := if sgn then (2 ^ (w - 1) : Nat) - 1 else (2 ^ w : Nat) - 1
  let c := if r < lo then lo else if hi < r then hi else r
  (BitVec.ofInt w c, decide (c ≠ r))

/-- The accumulator takes an exact result modulo 2^54; OVF is set when it does not fit. -/
def setAcc (b : SliceBank) (v : Int) : SliceBank :=
  { b with acc := BitVec.ofInt 54 v, ovf := b.ovf || decide (v < -(2 ^ 53 : Nat)) || decide ((2 ^ 53 : Nat) - 1 < v) }

/-! ### Micro-instructions (Table 9.6) -/

/-- OP. -/
def uopOp (w : U64) : Nat := (w.extractLsb' 56 4).toNat
/-- SH. -/
def uopSh (w : U64) : Nat := (w.extractLsb' 34 6).toNat
/-- IMM. -/
def uopImm (w : U64) : Nat := (w.extractLsb' 0 34).toNat
/-- LDA, LDB, LDK, WR. -/
def uopLda (w : U64) : Nat := (w.extractLsb' 49 2).toNat
/-- LDB. -/
def uopLdb (w : U64) : Nat := (w.extractLsb' 47 2).toNat
/-- LDK. -/
def uopLdk (w : U64) : Nat := (w.extractLsb' 45 2).toNat
/-- WR. -/
def uopWr (w : U64) : Nat := (w.extractLsb' 43 2).toNat
/-- Operations that use SH. -/
def usesSh (op : Nat) : Bool := op = 4 || op = 5 || op = 7
/-- The word samples the routing inputs X or Z. -/
def samples (w : U64) : Bool := uopLda w = 1 || uopLdb w = 1 || uopLdk w = 1 || uopLdk w = 3 || uopWr w = 3

/-- A number of at most 512 is a power of two. -/
def isPow2 (n : Nat) : Bool := (List.range 10).any fun i => n = 2 ^ i

/-- The word holds content that R212 reserves. -/
def uopReserved (w : U64) : Bool :=
  let op := uopOp w
  let len := natBits (uopImm w) 13 10
  decide (w.extractLsb' 60 4 ≠ 0) || decide (12 ≤ op) || (decide (54 ≤ uopSh w) && decide (uopSh w ≤ 61)) ||
    (!usesSh op && decide (uopSh w ≠ 0)) || (decide (op ≠ 11) && decide (uopImm w ≠ 0)) ||
    (decide (op = 11) && (decide (w.extractLsb' 40 15 ≠ 0) || decide (len = 0) || decide (512 < len) ||
      (natBit (uopImm w) 32 && !isPow2 len) || decide (natBits (uopImm w) 0 4 ≠ 0)))

/-- An address of a circular buffer (R209). -/
def agAddr (base : BitVec 9) (len : BitVec 10) (brev : Bool) (ofs : BitVec 9) : Nat :=
  let n := (List.range 10).findIdx fun i => len.toNat = 2 ^ i
  let o := if brev then (List.range n).foldl (fun a i => a + bitNat (ofs.getLsbD i) * 2 ^ (n - 1 - i)) 0 else ofs.toNat
  (base.toNat + o) % 512

/-- The offset after an advance (R209). -/
def agNext (len : BitVec 10) (step : BitVec 9) (ofs : BitVec 9) : BitVec 9 := BitVec.ofInt 9 ((ofs.toNat + step.toInt).emod len.toNat)

/-- Address of AG0. -/
def SliceBank.addr0 (b : SliceBank) : Nat := agAddr b.ag0base b.ag0len b.ag0brev b.ag0ofs
/-- Address of AG1. -/
def SliceBank.addr1 (b : SliceBank) : Nat := agAddr b.ag1base b.ag1len b.ag1brev b.ag1ofs

/-- A pair's source of 36 bits split: the lower-numbered register first. -/
def pairOf (v : BitVec 36) : BitVec 18 × BitVec 18 := (v.extractLsb' 0 18, v.extractLsb' 18 18)

/-- Loads of A, B and K (Table 9.6) from X, Z, the buffer words and the old Y. -/
def loadOperands (w : U64) (x z r : BitVec 36) (b : SliceBank) : SliceBank :=
  let y : BitVec 36 := b.y1 ++ b.y0
  let a := if uopLda w = 1 then pairOf x else if uopLda w = 2 then pairOf r else if uopLda w = 3 then pairOf y else (b.a0, b.a1)
  let c := if uopLdb w = 1 then pairOf z else if uopLdb w = 2 then pairOf r else if uopLdb w = 3 then pairOf y else (b.b0, b.b1)
  let k := if uopLdk w = 1 then pairOf z else if uopLdk w = 2 then pairOf r else if uopLdk w = 3 then pairOf x else (b.k0, b.k1)
  { b with a0 := a.1, a1 := a.2, b0 := c.1, b1 := c.2, k0 := k.1, k1 := k.2 }

/-- S0 and S1 of a word (Table 9.6). -/
def sums (w : U64) (b : SliceBank) : Int × Int :=
  let sgn := w.getLsbD 53
  let a0 := opVal sgn b.a0
  let a1 := opVal sgn b.a1
  let k0 := opVal sgn b.k0
  let k1 := opVal sgn b.k1
  let m2 := if w.getLsbD 54 then a0 * k1 else opVal sgn b.b0 * k0
  let m3 := if w.getLsbD 54 then a1 * k0 else opVal sgn b.b1 * k1
  ((if w.getLsbD 52 then a0 * k0 - a1 * k1 else a0 * k0 + a1 * k1), (if w.getLsbD 51 then m2 - m3 else m2 + m3))

/-- AGSET (Table 9.7). -/
def agSet (imm : Nat) (b : SliceBank) : SliceBank :=
  let base := BitVec.ofNat 9 (natBits imm 23 9)
  let len := BitVec.ofNat 10 (natBits imm 13 10)
  let step := BitVec.ofNat 9 (natBits imm 4 9)
  let brev := natBit imm 32
  if natBit imm 33 then { b with ag1base := base, ag1len := len, ag1step := step, ag1brev := brev, ag1ofs := 0 }
  else { b with ag0base := base, ag0len := len, ag0step := step, ag0brev := brev, ag0ofs := 0 }

/-- The operation of a word (Table 9.7); sh is the shift count of R207. -/
def sliceOp (w : U64) (sh : Nat) (b : SliceBank) : SliceBank :=
  let sgn := w.getLsbD 53
  let (s0, s1) := sums w b
  let acc := b.acc.toInt
  match uopOp w with
  | 1 => setAcc b (acc + s0 + s1)
  | 2 => setAcc b (acc - s0 - s1)
  | 3 => setAcc b (s0 + s1)
  | 4 =>
    let p := rnd 18 sgn s0 sh
    let q := rnd 18 sgn s1 sh
    { b with y0 := p.1, y1 := q.1, sat := b.sat || p.2 || q.2 }
  | 5 =>
    let p := rnd 36 sgn acc sh
    { b with y0 := p.1.extractLsb' 0 18, y1 := p.1.extractLsb' 18 18, sat := b.sat || p.2 }
  | 6 =>
    let n := redundant b.acc
    { b with exp := BitVec.ofNat 6 n, acc := b.acc <<< n }
  | 7 => { b with acc := b.acc.sshiftRight sh }
  | 8 => setAcc b (opVal sgn (b.a1 ++ b.a0) + opVal sgn (b.b1 ++ b.b0))
  | 9 => setAcc b (acc + opVal sgn (b.a1 ++ b.a0))
  | 10 => { b with acc := 0, ovf := false, sat := false }
  | 11 => agSet (uopImm w) b
  | _ => b

/-- Buffer write, advances of the address generators (R208). -/
def sliceWrite (w : U64) (x : BitVec 36) (b : SliceBank) (lb : SMap (BitVec 18)) : SliceBank × SMap (BitVec 18) :=
  let v := if uopWr w = 1 then b.y0 else if uopWr w = 2 then b.y1 else x.extractLsb' 0 18
  let r := if uopWr w = 0 then (b, lb)
    else ({ b with bexp := BitVec.ofNat 5 (min b.bexp.toNat (redundant v)) }, smSet 0#18 lb b.addr1 v)
  let c := r.1
  ({ c with ag0ofs := if w.getLsbD 42 then agNext c.ag0len c.ag0step c.ag0ofs else c.ag0ofs
            ag1ofs := if w.getLsbD 41 then agNext c.ag1len c.ag1step c.ag1ofs else c.ag1ofs }, r.2)

/-- The active bank of a slice. -/
def Slice.bank (x : Slice) : SliceBank := if x.active then x.bank1 else x.bank0

/-- Output Y and the flags as a bank drives them (Table 9.5). -/
def bankOut (b : SliceBank) : BitVec 38 := BitVec.ofNat 2 (bitNat b.ovf + 2 * bitNat b.sat) ++ b.y1 ++ b.y0

/-- A slice whose active bank has been replaced shows that bank (Table 9.5). -/
def Slice.settle (x : Slice) : Slice := { x with shown := [(0, bankOut x.bank)] }

/-- One issue of a micro-instruction (R208), with the routing inputs as sampled and the step at which Y shows. -/
def sliceIssue (w : U64) (x z : BitVec 36) (showAt : Nat) (sl : Slice) : Slice :=
  let b := sl.bank
  let sh := if uopSh w = 62 then b.exp.toNat else if uopSh w = 63 then b.bexp.toNat else uopSh w
  let b0 := if w.getLsbD 40 then { b with bexp := 17 } else b
  let r : BitVec 36 := smGet 0#18 sl.lb b0.addr1 ++ smGet 0#18 sl.lb b0.addr0
  let b1 := sliceOp w sh (loadOperands w x z r b0)
  let (b2, lb) := sliceWrite w x b1 sl.lb
  let s1 := { sl with lb := lb, shown := lastN 2 sl.shown ++ [(showAt, bankOut b2)] }
  let s2 := if sl.active then { s1 with bank1 := b2 } else { s1 with bank0 := b2 }
  if w.getLsbD 55 then { s2 with active := !s2.active } else s2

/-! ### In the state -/

/-- A slice by its physical number. -/
def State.slice (s : State) (n : Nat) : Slice := smGet {} s.fab.slices n
/-- A slice replaced. -/
def State.setSlice (s : State) (n : Nat) (x : Slice) : State := { s with fab := { s.fab with slices := smSet {} s.fab.slices n x } }

/-- A micro-instruction of a slice. -/
def State.uop (s : State) (n j : Nat) : U64 := smGet 0#64 s.fab.uops (n * 512 + j)

/-- The slice is in scheduled mode: its section supplied a micro-instruction that is not idle (R210). -/
def State.scheduled (s : State) (n : Nat) : Bool := decide (smGet 0 s.fab.sched n ≠ 0)

/-- Region of a slice and of a block memory. -/
def sliceRegion (n : Nat) : Nat := n / 48
/-- Region of a block memory. -/
def bmemRegion (n : Nat) : Nat := n / 96

/-- DETAIL of a hard block's record (R202, R203): the block or slice, the row or word, the step counter. DESIGN CHOICE: the spec names the
three and gives no layout (log entry 72). -/
def hardDetail (block row : Nat) (s : State) : Nat := block + row * 2 ^ 16 + s.cnt * 2 ^ 32

/-- An event of a hard block with the pause of R203 and R215. -/
def hardEvent (p cause loc detail unit : Nat) (s : State) : State :=
  selfPause p .device (noteHard unit (logEvent { cause := cause, sub := 0x6, sev := 3, part := p, loc := loc, detail := detail } (s.jsOf p) (leBytes 8 loc) s))

/-- The record of a correction in a hard block. -/
def hardFix (p loc detail unit : Nat) (s : State) : State :=
  logRec { cause := St.hardFix, sub := 0x6, sev := 0, part := p, loc := loc, detail := detail } (bump 0x6 unit 1 s)

/-- A corrected row or buffer word is written back in the following step (R202, R215). -/
def writeBack (buffer : Bool) (key : Nat) (s : State) : State := { s with fab := { s.fab with fixes := s.fab.fixes ++ [(s.clk.now + 1, buffer, key)] } }

/-- The write-backs of a step: a row or word written meanwhile is sound already (R202, R215). -/
def applyFixes (s : State) : State :=
  let due := s.fab.fixes.filter fun e => decide (e.1 ≤ s.clk.now)
  let clear := fun (m : SMap Nat) (k : Nat) => if smGet 0 m k = 1 then smSet 0 m k 0 else m
  due.foldl (fun a e =>
    if e.2.1 then { a with fab := { a.fab with uopErr := clear a.fab.uopErr e.2.2 } }
    else { a with fab := { a.fab with bmemErr := clear a.fab.bmemErr e.2.2 } })
    { s with fab := { s.fab with fixes := s.fab.fixes.filter fun e => decide (s.clk.now < e.1) } }

/-- Checks of the two buffer words a word reads (R215). DESIGN CHOICE: Table 20.7 names no LOC form for a buffer word; the record uses that
of a micro-instruction (log entry 72). -/
def bufferCheck (p n : Nat) (addr : Nat) (s : State) : State :=
  let key := n * 1024 + 512 + addr
  let e := smGet 0 s.fab.uopErr key
  let loc := tableLoc n 0 0 addr 6
  if e = 1 then hardFix p loc (hardDetail n addr s) (4096 + n) (noteCorrect uopCode key false (writeBack true key s))
  else if e = 2 then hardEvent p St.hardUncorr loc (hardDetail n addr s) (0x10000 + n) s
  else s

/-- The micro-instruction as its fetch delivers it (R215): corrected with HARD_FIX, or the idle word with SLICE_UCODE and a
pause. -/
def fetchUop (p n j : Nat) (s : State) : U64 × State :=
  let e := smGet 0 s.fab.uopErr (n * 1024 + j)
  let loc := tableLoc n 0 0 j 6
  if e = 2 then (0, hardEvent p St.sliceUcode loc (hardDetail n j s) (0x10000 + n) s)
  else if e = 1 then (s.uop n j, hardFix p loc (hardDetail n j s) (4096 + n) (noteCorrect uopCode (n * 1024 + j) false s))
  else (s.uop n j, s)

/-- X, Z or the control word of a slice, from a bit of its routing inputs. -/
def State.sliceIn (s : State) (pins : IoPins) (n w first : Nat) : BitVec w := s.sinkBits pins (n / 288) w fun i => .slice (n % 288) (first + i)

/-- A slice issues a word (R208): both buffer words are read and checked, and a buffer word that is written is sound again (R215). -/
def issueWord (p n : Nat) (w : U64) (pins : IoPins) (s : State) : State :=
  let b := (s.slice n).bank
  let x : BitVec 36 := if samples w then s.sliceIn pins n 36 0 else 0
  let z : BitVec 36 := if samples w then s.sliceIn pins n 36 36 else 0
  let s1 := bufferCheck p n b.addr1 (bufferCheck p n b.addr0 s)
  let s2 := if uopWr w = 0 then s1 else { s1 with fab := { s1.fab with uopErr := smSet 0 s1.fab.uopErr (n * 1024 + 512 + b.addr1) 0 } }
  s2.setSlice n (sliceIssue w x z (s2.cnt + 8) (s2.slice n))

/-- Scheduled slices of a partition's dies in ascending order; a region that is stopped, or that no section configures and whose domain is
off, has none that act (R210, R197). -/
def State.scheduledSlices (s : State) (x : Partition) : List Nat :=
  (s.fab.sched.map (·.1)).filter fun n => x.dies.getLsbD (n / 288) && s.regionLive (sliceRegion n)

/-- The scheduled slices of a partition issue word j, idle or not (R210). The levels of the user pins are known at fabric clock edges only:
a word that samples its inputs takes free ones (log entry 9). -/
def issueSlices (p j : Nat) (s : State) : State :=
  (s.scheduledSlices (s.part p)).foldl (fun a n =>
    let (w, a1) := fetchUop p n j a
    if samples w then
      let (pins, a2) := a1.draw 240
      issueWord p n w pins a2
    else issueWord p n w 0 a1) s

/-- A static slice issues a control word at an edge (R211): reserved content executes as the idle word and is counted. -/
def issueStatic (p n : Nat) (w : U64) (pins : IoPins) (s : State) : State :=
  if uopReserved w then
    let x := s.slice n
    let s1 := issueWord p n 0 pins (bump 0x6 (4096 + n) 3 (s.setSlice n { x with badSeen := true }))
    if x.badSeen then s1 else logRec { cause := St.sliceBadUop, sub := 0x6, sev := 5, part := p, loc := tableLoc n 0 0 0 6 } s1
  else issueWord p n w pins s

/-! ### Block memories (R199 to R203) -/

/-- Width of an organisation (Table 9.3). -/
def orgWidth (org : Nat) : Nat := if org = 1 then 9 else if org = 2 then 36 else 18
/-- Words of an organisation. -/
def orgWords (org : Nat) : Nat := if org = 1 then 2048 else if org = 2 then 512 else 1024
/-- First memory bit of the addressed word. -/
def PortIn.lo (i : PortIn) : Nat := orgWidth i.org * (i.addr % orgWords i.org)

/-- A row of a block memory as it stood before the step. -/
def State.bmRow (s : State) (b r : Nat) : BitVec 72 := smGet 0#72 s.bmemNow (b * 256 + r)

/-- The word a port addresses. -/
def bmRead (row : BitVec 72) (i : PortIn) : BitVec 36 := BitVec.ofNat 36 (natBits row.toNat (i.lo % 72) (orgWidth i.org))

/-- The row with the port's write merged. -/
def bmMerge (row : BitVec 72) (i : PortIn) : BitVec 72 :=
  let w := orgWidth i.org
  let o := i.lo % 72
  BitVec.ofNat 72 (row.toNat - natBits row.toNat o w * 2 ^ o + i.data.toNat % 2 ^ w * 2 ^ o)

/-- Two writes touch a common bit. -/
def bmOverlap (i j : PortIn) : Bool := decide (i.lo < j.lo + orgWidth j.org) && decide (j.lo < i.lo + orgWidth i.org)

/-- The row as the writes of one step leave it (Table 9.4): B's is stored, then A's, which takes the bits both touch. -/
def bmFold (writes : List BmWrite) (row : BitVec 72) : BitVec 72 :=
  let of := fun (port : Nat) (r : BitVec 72) => (writes.filter fun w => decide (w.port = port)).foldl (fun a w => bmMerge a w.i) r
  of 0 (of 1 row)

/-- A port's write joins those of the step; the row's check bits are generated anew (R201, R202). A write that overlaps the other
port's is counted. -/
def bmStore (b port : Nat) (i : PortIn) (s : State) : State :=
  let r := i.lo / 72
  let writes := ((s.edgeNow.map (·.writes)).getD []) ++ [{ block := b, port := port, i := i }]
  let here := writes.filter fun w => decide (w.block = b)
  let row := bmFold (here.filter fun w => decide (w.i.lo / 72 = r)) (s.bmRow b r)
  let f := s.fab
  let s1 := { s with fab := { f with
    edge := f.edge.map fun e => { e with writes := writes }
    bmem := smSet 0#72 f.bmem (b * 256 + r) row, bmemErr := smSet 0 f.bmemErr (b * 256 + r) 0 } }
  if here.any fun w => decide (w.port ≠ port) && bmOverlap w.i i then bump 0x6 b 2 s1 else s1

/-- The check of a row that a port or a Cast reads, by the status before the step (R202, R203). -/
def bmCheck (p b r : Nat) (s : State) : State :=
  let e := smGet 0 s.bmErrNow (b * 256 + r)
  let loc := fabLoc (bmemRegion b) r
  if e = 1 then hardFix p loc (hardDetail b r s) b (noteCorrect bmemCode (b * 256 + r) false (writeBack false (b * 256 + r) s))
  else if e = 2 then hardEvent p St.hardUncorr loc (hardDetail b r s) (0x1000 + b) s
  else s

/-- The output register of a port takes the word it reads. -/
def bmOut (b port : Nat) (v : BitVec 36) (s : State) : State :=
  { s with fab := { s.fab with bout := smSet 0#36 s.fab.bout (b * 2 + port) v } }

/-- A port at an enabled edge of its clock (R200): it reads the content before the step into its output register, and then writes. -/
def bmAct (p b port : Nat) (i : PortIn) (s : State) : State :=
  let s1 := bmOut b port (bmRead (s.bmRow b (i.lo / 72)) i) (bmCheck p b (i.lo / 72) s)
  if i.we then bmStore b port i s1 else s1

end Sys2Proof.Machine
end

