-- ==== Sys2Proof/Machine/Fabric.lean ====
section
/-!
DEFINITION. Fabric.lean: the programmable fabric (chapter 08): configuration frames, clock generators and their edges, the
configuration monitor.
-/
namespace Sys2Proof.Machine

/-! ### Clock generators -/

/-- First physical region of a die (R177). -/
def firstRegion (die : Nat) : Nat := 6 * die

/-- The generator's word (Table 8.2): a GCK word stands in frame 1,537 of the die's first region, an RCK word in frame
1,536 of its own. -/
def State.genWord (s : State) : Gen → U64
  | .gck die g => BitVec.ofNat 64 (s.cfgField (firstRegion die.val) 1537 (8 * g.val) 8)
  | .rck region r => BitVec.ofNat 64 (s.cfgField region.val 1536 (8 * r.val) 8)

/-- CLKSEL code of a generator. -/
def genSel : Gen → Nat
  | .gck _ g => g.val
  | .rck _ r => 32 + r.val

/-- Die of a generator. -/
def genDie : Gen → Nat
  | .gck die _ => die.val
  | .rck region _ => region.val / 6

/-- Regions a generator reaches. -/
def genRegions : Gen → List Nat
  | .gck die _ => (List.range 6).map fun i => 6 * die.val + i
  | .rck region _ => [region.val]

/-- MODE, A, B of a generator word. -/
def genMode (w : U64) : Nat := (w.extractLsb' 62 2).toNat
/-- Period N or RISE. -/
def genA (w : U64) : Nat := (w.extractLsb' 32 16).toNat
/-- PHASE or FALL. -/
def genB (w : U64) : Nat := (w.extractLsb' 16 16).toNat

/-- Partition that occupies a die. -/
def State.partOfDie (s : State) (die : Nat) : Option Nat := [0, 1, 2, 3].find? fun p => decide ((s.part p).st ≠ .empty) && (s.part p).dies.getLsbD die

/-- The generator has a rising edge at this step (R178, R179). -/
def State.risesNow (s : State) (x : Partition) (w : U64) : Bool :=
  let n := genA w
  let rel := s.cnt - x.tick
  let gated := x.inFrame && !x.replay
  decide (x.st = .running) && decide (x.phase ≠ .stopped) && x.begun && s.stepping &&
    (match genMode w with
     | 1 =>
       if w.getLsbD 61 then gated && decide (0 < n) && decide ((x.frame.toNat * x.frameLen + rel + n - genB w) % n = 0)
       else decide (0 < n) && decide ((s.cnt + n - genB w) % n = 0)
     | 2 => gated && decide (rel = n)
     | _ => false)

/-! ### One edge -/

/-- A flip-flop at an edge of its clock (R175). -/
def ffEdge (pins : IoPins) (region cell : Nat) (s : State) : State :=
  let w := s.cellWord region cell
  let sample := fun x : Net => s.netBit pins (region / 6) (s.routing (region / 6)) netDepth x
  let key := ffKey region cell
  let new :=
    if w.getLsbD 17 && sample (.sink (.cell (region % 6) cell 4)) then w.getLsbD 18
    else if w.getLsbD 16 && !sample (.sink (.cell (region % 6) cell 5)) then smGet false s.ffNow key
    else sample (.lut (region % 6) cell)
  { s with fab := { s.fab with ff := smSet false s.fab.ff key new } }

/-- A block memory port's inputs as routing presents them (R199, R200). -/
def State.portIn (s : State) (pins : IoPins) (b port : Nat) : PortIn :=
  let die := b / 576
  let n := b % 576
  let bits : BitVec 49 := s.sinkBits pins die 49 fun i => .bmem n port i
  { org := (Config.orgOf (s.routing die) n port).val, en := bits.getLsbD 47, we := bits.getLsbD 48
    addr := (bits.extractLsb' 0 11).toNat, data := bits.extractLsb' 11 36 }

/-- The block memory ports of a region that a generator clocks act at its edge (R200). -/
def bmemEdges (p sel : Nat) (pins : IoPins) (region : Nat) (s : State) : State :=
  (List.range 192).foldl (fun a i =>
    let b := region * 96 + i / 2
    if a.clockSel (region / 6) (.bmem (b % 576) (i % 2)) = sel then
      let q := s.portIn pins b (i % 2)
      if q.en then bmAct p b (i % 2) q a else a
    else a) s

/-- The write ports of a region's four clusters that a generator clocks (R181, R184): a write takes effect at the next step. -/
def writePorts (sel : Nat) (pins : IoPins) (region : Nat) (s : State) : State :=
  (List.range 4).foldl (fun a i =>
    let cl := region * 4 + i
    if a.clockSel (region / 6) (.port (cl % 24)) = sel then
      let v : BitVec 69 := s.sinkBits pins (region / 6) 69 fun b => .port (cl % 24) b
      if v.getLsbD 68 then
        let key := cl * 16 + (v.extractLsb' 64 4).toNat
        { a with fab := { a.fab with
            irHist := a.fab.irHist ++ [(a.cnt + 1, key, smGet 0#64 a.fab.ir key)], ir := smSet 0#64 a.fab.ir key (v.extractLsb' 0 64) } }
      else a
    else a) s

/-- The static slices of a region that a generator clocks (R211); none issues in the step of a switch's tick (R213). -/
def staticEdges (p sel : Nat) (pins : IoPins) (region : Nat) (s : State) : State :=
  if (s.part p).noIssue = some s.cnt then s
  else (List.range 48).foldl (fun a i =>
    let n := region * 48 + i
    if a.scheduled n || decide (a.clockSel (region / 6) (.slice (n % 288)) ≠ sel) then a
    else issueStatic p n (s.sliceIn pins n 64 72) pins a) s

/-- One region at an edge of a generator: its cells, block memories, write ports and static slices, all on what stood before the
step's edges. -/
def regionEdge (p sel : Nat) (pins : IoPins) (s : State) (region : Nat) : State :=
  if !s.regionLive region then s
  else
    let cells := (s.cellsOf region).filter fun c => decide (((s.cellWord region c).extractLsb' 21 6).toNat = sel)
    staticEdges p sel pins region (writePorts sel pins region (bmemEdges p sel pins region (cells.foldl (fun a c => ffEdge pins region c a) (beginEdge s))))

/-- FABRIC_CLOCK_EDGE (R178, R179, R198): the generator's rising edge, where one falls at this step, with the levels of the pins. -/
def execFabricClockEdge (gen : Gen) (pins : IoPins) (s : State) : Res :=
  .next (match s.partOfDie (genDie gen) with
    | none => s
    | some p =>
      if s.risesNow (s.part p) (s.genWord gen) then (genRegions gen).foldl (fun a r => regionEdge p (genSel gen) pins a r) s else s)

/-! ### The configuration monitor (R192) -/

/-- A region is lost to an uncorrectable frame: it stops as if reconfiguring, the host is told, and the partition pauses. -/
def fabricLost (region frame : Nat) (s : State) : State :=
  let bit := BitVec.ofNat 24 (2 ^ region)
  let s0 := noteLost region <| bump 0x5 region 2 { s with fab := { s.fab with stopped := s.fab.stopped ||| bit, drive := s.fab.drive &&& ~~~bit } }
  let p := (s0.partOfDie (region / 6)).getD 0xFF
  let s1 := logEvent { cause := St.fabricCfgLost, sub := 0x5, sev := 3, part := p, loc := fabLoc region frame } (if p < 4 then s0.jsOf p else none) (leBytes 8 (fabLoc region frame)) s0
  if p < 4 then selfPause p .device s1 else s1

/-- CONFIG_MONITOR_READ (R192): the next frame of a configured region is checked. -/
def execConfigMonitorRead (region : Fin 24) (s : State) : Res :=
  .next (
    let r := region.val
    if !s.fab.configured.getLsbD r ∨ s.fab.stopped.getLsbD r ∨ !s.stepping then s
    else
      let f := smGet 0 s.fab.monitor r
      let key := r * 1539 + f
      let e := smGet 0 s.fab.cfgErr key
      let s1 := { s with fab := { s.fab with monitor := smSet 0 s.fab.monitor r (if f + 1 < 1539 then f + 1 else 0) } }
      if e = 1 then
        noteFix r f <| logRec { cause := St.fabricCfgFix, sub := 0x5, sev := 0, part := (s.partOfDie (r / 6)).getD 0xFF, loc := fabLoc r f }
          (bump 0x5 r 1 { s1 with fab := { s1.fab with cfgErr := smSet 0 s1.fab.cfgErr key 0 } })
      else if e = 2 then fabricLost r f s1
      else s1)

end Sys2Proof.Machine
end

