-- ==== Sys2Proof/Machine/Image.lean ====
section
/-!
DEFINITION. Image.lean: maquette images (chapter 07): header, section table, placement, the checks of Table 7.5 that run at
a load, and the writing of every kind of section into its store.
-/
namespace Sys2Proof.Machine

/-- A failed check: the fields of the refusal record (Table 7.6). -/
structure Refuse where
  status : Nat
  check : Nat
  sect : Nat := 0xFFFF
  elem : Nat := 0xFFFFFFFF
  lcl : Nat := 0xFF
  sub : Nat := 0xFF
  pos : Nat := 0xFFFF
deriving DecidableEq, Repr

/-- The 16 bytes of a refusal record. -/
def refuseBytes (r : Refuse) : List Byte :=
  leBytes 2 r.status ++ leBytes 1 r.check ++ zeros 1 ++ leBytes 2 r.sect ++ zeros 2 ++ leBytes 4 r.elem ++ leBytes 1 r.lcl ++
    leBytes 1 r.sub ++ leBytes 2 r.pos

/-! ### Header and section table (Tables 7.1, 7.2) -/

/-- Every byte of a range is 0. -/
def allZero (b : List Byte) (off n : Nat) : Bool := (bytesAt b off n).all (· = 0)

/-- One entry of the section table. -/
def sectionOf (b : List Byte) (i : Nat) : Section :=
  let o := 256 + 32 * i
  { kind := fieldAt b o 2, tgta := fieldAt b (o + 4) 2, tgtb := fieldAt b (o + 6) 2, first := fieldAt b (o + 8) 2
    count := fieldAt b (o + 10) 2, offset := fieldAt b (o + 16) 8, length := fieldAt b (o + 24) 8, entry := bytesAt b o 12 }

/-- Data of a section. -/
def sectionData (b : List Byte) (x : Section) : List Byte := bytesAt b x.offset x.length

/-- CMASK entries of a BUDGET record. -/
def cmaskOf (d : List Byte) : SMap (BitVec 8) := ((List.range 384).zip d).filter fun e => decide (e.2 ≠ 0)

/-- The image that bytes spell. -/
def imageOf (b : List Byte) : Image :=
  let secs := (List.range (fieldAt b 14 2)).map (sectionOf b)
  let budget := (secs.find? fun x => decide (x.kind = 0xE)).map (sectionData b)
  { bic := BitVec.ofNat 16 (fieldAt b 10 2), kind := fieldAt b 12 1, reloc := natBit (fieldAt b 13 1) 4
    qmask := BitVec.ofNat 4 (fieldAt b 13 1), e := fieldAt b 16 2, w := fieldAt b 18 2, d := fieldAt b 20 1, lin := fieldAt b 22 2
    haddr := BitVec.ofNat 16 (fieldAt b 24 2), sxparam := BitVec.ofNat 64 (fieldAt b 32 8), build := BitVec.ofNat 64 (fieldAt b 40 8)
    total := fieldAt b 48 8, idigest := BitVec.ofNat 384 (fieldAt b 64 48), head := bytesAt b 0 64, sections := secs, data := b
    fmin := budget.map fun d => fieldAt d 384 2, cmask := (budget.map cmaskOf).getD [] }

/-- SHA-384 over the image with its digest field taken as 0 (Table 7.1). -/
def imageDigest (b : List Byte) : BitVec 384 := Config.sha384 (b.take 64 ++ zeros 48 ++ b.drop 112)

/-- Unit size of a section kind (Table 7.3); none for reserved kinds. -/
def unitSize : Nat → Option Nat
  | 1 => some 768 | 2 => some 2048 | 3 => some 1024 | 4 => some 192 | 5 => some 1152 | 6 => some 1152 | 7 => some 192 | 8 => some 24
  | 9 => some 256 | 10 => some 2 | 11 => some 2304 | 12 => some 8 | 13 => some 8 | 14 => some 448 | 0xF0 => some 0 | _ => none

/-- Unit limit of a section kind. -/
def unitLimit : Nat → Nat
  | 1 => 512 | 6 | 11 | 14 => 1 | 8 => 65535 | 9 => 1539 | 12 => 512 | 13 => 16 | 0xF0 => 131072 | _ => 1024

/-- Logical die a section targets; none for kinds that target none. -/
def sectionDie (x : Section) : Option Nat :=
  if [1, 2, 3, 4, 7, 10, 13].contains x.kind then some (x.tgta / 24)
  else if x.kind = 9 then some (x.tgta / 6)
  else if x.kind = 11 then some (x.tgta / 576)
  else if x.kind = 12 then some (x.tgta / 288)
  else none

/-- The target fields of a section are legal apart from its die (Table 7.3). -/
def targetOk (x : Section) : Bool :=
  if x.kind = 1 then decide (x.tgtb < 16) else if x.kind = 13 then decide (x.tgtb < 4)
  else if x.kind = 5 ∨ x.kind = 6 then decide (x.tgta < 16) && decide (x.tgtb = 0)
  else if x.kind = 8 ∨ x.kind = 14 then decide (x.tgta = 0) && decide (x.tgtb = 0)
  else if x.kind = 0xF0 then true else decide (x.tgtb = 0)

/-- Two sections supply a common element. -/
def sameElement (x y : Section) : Bool :=
  decide (x.kind ≠ 0xF0) && decide (x.kind = y.kind) && decide (x.tgta = y.tgta) && decide (x.tgtb = y.tgtb) &&
    decide (x.first < y.first + y.count) && decide (y.first < x.first + x.count)

/-! ### Checks before anything is written -/

/-- First some of a list of options. -/
def firstSome {α : Type} (l : List (Option α)) : Option α := (l.find? (·.isSome)).join

/-- Sections with their indexes. -/
def Image.indexed (im : Image) : List (Nat × Section) := (List.range im.sections.length).zip im.sections

/-- The device's BIC is equivalent to another by its own list (R3). -/
def State.bicOk (s : State) (b : U16) : Bool := decide (b = s.ident.bic) || s.ident.equiv.contains b

/-- Check 0x01. -/
def checkFormat (b : List Byte) (kind len : Nat) : Option Refuse :=
  if fieldAt b 0 4 ≠ 0x514D474B ∨ fieldAt b 4 2 ≠ 1 ∨ fieldAt b 6 2 ≠ 256 ∨ fieldAt b 12 1 ≠ kind ∨ fieldAt b 48 8 ≠ len ∨
      !allZero b 21 1 ∨ !allZero b 26 6 ∨ !allZero b 56 8 ∨ !allZero b 112 144 ∨ 32 ≤ fieldAt b 13 1 then
    some { status := St.imageFormat, check := 1 }
  else none

/-- Check 0x05 of one section. DESIGN CHOICE: a section without data (an ANNOT of length 0) overlaps another when its OFFSET lies strictly
inside the other's data; the spec does not say (log entry 71). -/
def checkEntry (b : List Byte) (im : Image) (i : Nat) (x : Section) : Option Refuse :=
  let o := 256 + 32 * i
  let size := unitSize x.kind
  let others := im.indexed.filter fun e => decide (e.1 < i)
  if size.isNone ∨ !allZero b (o + 2) 2 ∨ !allZero b (o + 12) 4 ∨ x.offset % 64 ≠ 0 ∨ x.offset < 256 + 32 * im.sections.length ∨
      im.total < x.offset + x.length ∨ x.count = 0 ∨ (x.kind ≠ 0xF0 ∧ x.length ≠ x.count * size.getD 0) ∨
      others.any (fun e => decide (x.offset < e.2.offset + e.2.length) && decide (e.2.offset < x.offset + x.length)) then
    some { status := St.imageFormat, check := 5, sect := i }
  else none

/-- LCL of a section in a refusal record: the logical cluster it targets (Tables 7.3, 7.6). -/
def namedCluster (x : Section) : Nat := if [1, 2, 3, 4, 7, 10, 13].contains x.kind ∧ x.tgta < 96 then x.tgta else 0xFF

/-- SUB of a section in a refusal record: the group of an INSTR, the port of an SXINJ, SXTHR or MPORT section (Tables 7.3, 7.6). -/
def namedUnit (x : Section) : Nat :=
  if (x.kind = 1 ∧ x.tgtb < 16) ∨ (x.kind = 13 ∧ x.tgtb < 4) then x.tgtb else if (x.kind = 5 ∨ x.kind = 6) ∧ x.tgta < 16 then x.tgta else 0xFF

/-- Check 0x06 of one section. -/
def checkTarget (im : Image) (i : Nat) (x : Section) : Option Refuse :=
  let inDie := match sectionDie x with | some d => decide (d < 4) && im.qmask.getLsbD d | none => true
  let bad : Refuse := { status := St.sectionInvalid, check := 6, sect := i, lcl := namedCluster x, sub := namedUnit x }
  if !inDie ∨ !targetOk x then some bad
  else if unitLimit x.kind < x.first + x.count then some { bad with elem := max x.first (unitLimit x.kind) }
  else match (im.indexed.filter fun e => decide (e.1 < i)).find? fun e => sameElement x e.2 with
    | some e => some { bad with elem := max x.first e.2.first }
    | none => if im.kind = 1 ∧ !([9, 11, 12, 0xF0].contains x.kind) then some bad else none

/-- R160: an image with MPORT sections has its BUDGET section. -/
def checkBudget (im : Image) : Option Refuse :=
  match im.indexed.find? fun e => decide (e.2.kind = 0xD) with
  | some e => if im.sections.any fun x => decide (x.kind = 0xE) then none else some { status := St.sectionInvalid, check := 6, sect := e.1 }
  | none => none

/-- Checks 0x01 to 0x06, in order; kind is the KIND the command expects. -/
def checkHead (s : State) (b : List Byte) (kind len : Nat) (override : Bool) : Option Refuse :=
  let im := imageOf b
  firstSome [
    checkFormat b kind len,
    if fieldAt b 8 2 ≠ 0x9616 then some { status := St.imageTarget, check := 2 } else none,
    if !s.bicOk im.bic ∧ !override then some { status := St.imageBic, check := 3 } else none,
    if imageDigest b ≠ im.idigest then some { status := St.imageDigest, check := 4 } else none,
    if im.sections.length = 0 ∨ 4095 < im.sections.length ∨ im.total < 256 + 32 * im.sections.length then some { status := St.imageFormat, check := 5 } else none,
    firstSome (im.indexed.map fun e => checkEntry b im e.1 e.2),
    firstSome (im.indexed.map fun e => checkTarget im e.1 e.2),
    if kind = 0 then checkBudget im else none]

/-! ### Placement (R161, R163) -/

/-- Logical and physical dies, paired in ascending order. -/
def dieMap (im : Image) (dies : BitVec 4) : List (Nat × Nat) := (onesOf im.qmask.toNat 4).zip (onesOf dies.toNat 4)

/-- Physical die of a logical die. -/
def physDie (m : List (Nat × Nat)) (d : Nat) : Nat := ((m.find? fun e => decide (e.1 = d)).map (·.2)).getD d

/-- Some byte of a list is not 0. -/
def anyNonZero (b : List Byte) : Bool := b.any (· ≠ 0)

/-- 16-bit units of some bytes. -/
def units16 (b : List Byte) : List Nat := (List.range (b.length / 2)).map fun i => fieldAt b (2 * i) 2

/-- A logical cluster is used (R100): a non-zero instruction word, a table entry that is not idle (R29: no NONE, and V = 1 where the
entry has that bit), a valid descriptor of a port, or an initial-state bit. -/
def lclUsed (im : Image) (l : Nat) : Bool :=
  im.sections.any fun x =>
    let d := sectionData im.data x
    if x.kind = 8 then (List.range x.count).any fun i => decide (fieldAt d (24 * i) 1 = l) && decide (fieldAt d (24 * i + 8) 8 ≠ 0)
    else if x.tgta ≠ l then false
    else match x.kind with
      | 1 => anyNonZero d
      | 2 => (units16 d).any (· ≠ 0x0FFF)
      | 3 => (List.range (d.length / 4)).any fun i => dxV (BitVec.ofNat 32 (fieldAt d (4 * i) 4))
      | 4 => (units16 d).any fun v => sxV (BitVec.ofNat 16 v)
      | 7 => (units16 d).any fun v => mapV (BitVec.ofNat 16 v)
      | 10 => (units16 d).any (· ≠ 0)
      | 13 => (List.range (d.length / 8)).any fun i => (descOf (BitVec.ofNat 64 (fieldAt d (8 * i) 8))).v
      | _ => false

/-- Placement of one die: each used logical cluster at its position, those whose position is retired at the lowest spare that
is not; none when the spares run out. -/
def placeDie (s : State) (im : Image) (ld pd : Nat) : Option (List (Nat × Nat)) :=
  let ok := fun pos => decide (smGet 0 s.arr.retired (24 * pd + pos) ≠ 2)
  let start := (List.range 24).map fun i => (i, i)
  (List.range 24).foldl (fun (r : Option (List (Nat × Nat))) i => r.bind fun m =>
    let host := ((m.find? fun e => decide (e.1 = i)).map (·.2)).getD i
    if !lclUsed im (24 * ld + i) ∨ ok host then some m
    else match (List.range 24).find? fun h => ok h && !lclUsed im (24 * ld + ((m.find? fun e => decide (e.2 = h)).map (·.1)).getD h) with
      | none => none
      | some h => some (m.map fun e => if e.1 = i then (i, h) else if e.2 = h then (e.1, host) else e)) (some start)

/-- The placement map of the whole partition, or the physical die that cannot be placed. -/
def placeAll (s : State) (im : Image) (m : List (Nat × Nat)) : Except Nat (SMap Nat) :=
  m.foldl (fun (r : Except Nat (SMap Nat)) e => match r with
    | .error d => .error d
    | .ok a => match placeDie s im e.1 e.2 with
      | none => .error e.2
      | some l => .ok (smPutAll 0 a (l.map fun q => (24 * e.1 + q.1, 24 * e.2 + q.2 + 1)))) (.ok [])

/-- A FABRIC, BMEM or SLICE section targets a retired unit (R428). -/
def targetsRetired (s : State) (m : List (Nat × Nat)) (x : Section) : Bool :=
  if x.kind = 9 then decide (smGet 0 s.fab.retired (6 * physDie m (x.tgta / 6) + x.tgta % 6) = 2)
  else if x.kind = 11 then decide (smGet 0 s.fab.retired (0x1000 + 576 * physDie m (x.tgta / 576) + x.tgta % 576) = 2)
  else if x.kind = 12 then decide (smGet 0 s.fab.retired (0x10000 + 288 * physDie m (x.tgta / 288) + x.tgta % 288) = 2)
  else false

/-- Bytes of a configuration frame that an image supplies. -/
def suppliedFrame (im : Image) (region frame : Nat) : Option (List Byte) :=
  (im.sections.find? fun x => decide (x.kind = 9) && decide (x.tgta = region) && decide (x.first ≤ frame) && decide (frame < x.first + x.count)).map
    fun x => bytesAt (sectionData im.data x) (256 * (frame - x.first)) 256

/-- Check 0x07. -/
def checkPlace (s : State) (p : Nat) (im : Image) (dies : BitVec 4) : Option Refuse :=
  let bad : Refuse := { status := St.imagePlace, check := 7 }
  let m := dieMap im dies
  let other := (onesOf dies.toNat 4).find? fun d =>
    [0, 1, 2, 3].any fun q => decide (q ≠ p) && decide ((s.part q).st ≠ .empty) && (s.part q).dies.getLsbD d
  if dies ≠ 0 ∧ im.qmask ≠ 0 ∧ other.isSome then some { bad with lcl := other.getD 0xFF }
  else if dies = 0 ∨ im.qmask = 0 ∨ (onesOf dies.toNat 4).length ≠ (onesOf im.qmask.toNat 4).length ∨ (!im.reloc ∧ dies ≠ im.qmask) then some bad
  else match im.indexed.find? fun e => im.reloc && decide (e.2.kind = 9) && decide (e.2.first ≤ 1538) && decide (1538 < e.2.first + e.2.count) &&
      anyNonZero ((suppliedFrame im e.2.tgta 1538).getD []) with
    | some e => some { bad with sect := e.1, elem := 1538 }
    | none => match im.indexed.find? fun e => targetsRetired s m e.2 with
      | some e => some { bad with sect := e.1 }
      | none => match placeAll s im m with
        | .error d => some { bad with lcl := d }
        | .ok _ => none

/-- Check 0x08 (R119). -/
def checkSx (s : State) (p : Nat) (im : Image) : Option Refuse :=
  let sx := im.sxparam.toNat
  let pm := natBits sx 32 16
  let busy := fun i => [0, 1, 2, 3].any fun q => decide (q ≠ p) && decide ((s.part q).st ≠ .empty) && natBit (s.part q).pmask i
  match (List.range 16).find? fun i => decide (natBit pm i = decide (natBits sx (2 * i) 2 = 0)) || (natBit pm i && busy i) with
  | some i => some { status := St.routeInvalid, check := 8, sub := i }
  | none => if (natBit sx 48 && natBit pm 0) ∨ natBits sx 49 15 ≠ 0 then some { status := St.routeInvalid, check := 8 } else none

/-! ### Elements -/

/-- What the writing of a section knows: partition, image, dies and placement. -/
structure LoadCtx where
  p : Nat
  im : Image
  dies : List (Nat × Nat)
  pmap : SMap Nat
  /-- the banks' measured VIO is held against VSEL: in the check of an image, not as the regions it has passed are rewritten -/
  vio : Bool := true
deriving DecidableEq, Repr

/-- Physical cluster of a logical one in a load. -/
def LoadCtx.pcl (c : LoadCtx) (l : Nat) : Nat := smGet 0 c.pmap l - 1
/-- Fabric port position of a logical cluster in a load. -/
def LoadCtx.port (c : LoadCtx) (l : Nat) : Nat := fabPort (c.pcl l) l
/-- Physical region of a logical region (R173). -/
def LoadCtx.region (c : LoadCtx) (k : Nat) : Nat := 6 * physDie c.dies (k / 6) + k % 6
/-- Physical block memory and slice. -/
def LoadCtx.bmem (c : LoadCtx) (b : Nat) : Nat := 576 * physDie c.dies (b / 576) + b % 576
/-- Physical slice. -/
def LoadCtx.sliceNo (c : LoadCtx) (n : Nat) : Nat := 288 * physDie c.dies (n / 288) + n % 288
/-- F of the image being loaded. -/
def LoadCtx.f (c : LoadCtx) : Nat := c.im.e + c.im.w + 64

/-- Result of writing: a refusal stops it, what was written stays (R165). -/
abbrev Written := Option Refuse × State

/-- Writes go on over a list until one is refused. -/
def writeSeq {α : Type} (f : α → State → Written) : List α → State → Written
  | [], s => (none, s)
  | a :: l, s => match f a s with
    | (some r, s1) => (some r, s1)
    | (none, s1) => writeSeq f l s1

/-- Section, element and check of a refusal. -/
def refAt (status check sect elem : Nat) : Refuse := { status := status, check := check, sect := sect, elem := elem }

/-- A word of an INSTR section (R62, R63). -/
def writeInstr (c : LoadCtx) (i l g k col : Nat) (v : Nat) (s : State) : Written :=
  let w : BitVec 96 := BitVec.ofNat 96 v
  let bad : Refuse := { refAt St.sectionInvalid 9 i k with lcl := l, sub := g, pos := col }
  let pcl := c.pcl l
  let other := (List.range 16).any fun h => decide (h ≠ g) && (wordCtl (smGet 0#96 s.arr.words (wordKey pcl h k col))).getLsbD 1
  if wordCtl w &&& 0xF0 ≠ 0 ∨ ((wordCtl w).getLsbD 1 ∧ k < c.im.e ∧ other) then (some bad, s)
  else (none, { s with arr := { s.arr with words := smSet 0#96 s.arr.words (wordKey pcl g k col) w } })

/-- A route word (R88). -/
def writeRoute (c : LoadCtx) (i l t j v : Nat) (s : State) : Written :=
  let w : BitVec 16 := BitVec.ofNat 16 v
  let x := routeIdx w
  let cl := routeClass w
  let bad := natBits v 12 4 ≠ 0 ∨ (cl = 1 ∧ 256 ≤ x) ∨ (cl = 2 ∧ 96 ≤ x) ∨ (cl = 3 ∧ 64 ≤ x ∧ x ≠ 1023) ∨ (cl = 0 ∧ (t < 4 ∨ c.im.e + 3 < t))
  if bad then (some { refAt St.routeInvalid 0xA i t with lcl := l, sub := j / 64, pos := j % 64 }, s)
  else (none, { s with arr := { s.arr with routes := smSet 0x0FFF#16 s.arr.routes (routeKey (c.pcl l) t (j / 64) (j % 64)) w } })

/-- A device-exchange export entry (R91). -/
def writeDx (c : LoadCtx) (i l t j v : Nat) (s : State) : Written :=
  let e : BitVec 32 := BitVec.ofNat 32 v
  let dst := smGet 0 c.pmap (dxDcl e)
  let bad := natBits v 26 6 ≠ 0 ∨ 96 ≤ dxDcl e ∨
    (dxV e ∧ (c.im.e ≤ t ∨ dst = 0 ∨ min (c.f - 65) 1023 < t + dxLatency (c.pcl l) (dst - 1)))
  if bad then (some { refAt St.routeInvalid 0xA i t with lcl := l, pos := j }, s)
  else (none, { s with arr := { s.arr with dxexp := smSet 0#32 s.arr.dxexp (dxKey (c.pcl l) t j) e } })

/-- A system-export entry (R91). -/
def writeSx (c : LoadCtx) (i l t j v : Nat) (s : State) : Written :=
  let e : BitVec 16 := BitVec.ofNat 16 v
  if natBits v 11 5 ≠ 0 ∨ (sxV e ∧ c.im.e ≤ t) then (some { refAt St.routeInvalid 0xA i t with lcl := l, pos := j }, s)
  else (none, { s with arr := { s.arr with sxexp := smSet 0#16 s.arr.sxexp (sxKey (c.pcl l) t j) e } })

/-- A position that an active entry may not name (R114): outside the port mask, or in a paired system on lanes 4 to 7 or P0. -/
def posBad (c : LoadCtx) (x : Nat) : Bool :=
  !natBit c.im.sxparam.toNat (32 + posPort x) || (c.im.sxparam.getLsbD 48 && (decide (4 ≤ posLane x) || decide (posPort x = 0)))

/-- A port of another partition that runs: no load alters its maps (R22). -/
def otherRuns (c : LoadCtx) (port : Nat) (s : State) : Bool :=
  [0, 1, 2, 3].any fun q => decide (q ≠ c.p) && decide ((s.part q).st = .running) && natBit (s.part q).pmask port

/-- An injection entry (R114). One with V = 0, which R114 accepts on any port, alters nothing on a port of another running partition (R22);
on a port of no running partition it is written (log entry 71). -/
def writeInj (c : LoadCtx) (i port t j v : Nat) (s : State) : Written :=
  let e : BitVec 16 := BitVec.ofNat 16 v
  let x := 576 * port + j
  let bad := natBit v 14 ∨ 9216 ≤ mapIdx e ∨ (mapV e ∧ (c.im.e ≤ t ∨ posBad c x ∨ mapV (smGet 0#16 s.arr.thr x)))
  if bad then (some { refAt St.routeInvalid 0xA i t with sub := port, pos := j }, s)
  else if otherRuns c port s then (none, s)
  else (none, { s with arr := { s.arr with inj := smSet 0#16 s.arr.inj (injKey t x) e } })

/-- A through entry (R114), as an injection entry is. -/
def writeThr (c : LoadCtx) (i port j v : Nat) (s : State) : Written :=
  let e : BitVec 16 := BitVec.ofNat 16 v
  let x := 576 * port + j
  let injected := s.arr.inj.any fun m => decide (m.1 % 9216 = x) && mapV m.2
  let bad := natBit v 14 ∨ 9216 ≤ mapIdx e ∨ (mapV e ∧ (posBad c x ∨ posBad c (mapIdx e) ∨ injected))
  if bad then (some { refAt St.routeInvalid 0xA i 0 with sub := port, pos := j }, s)
  else if otherRuns c port s then (none, s)
  else (none, { s with arr := { s.arr with thr := smSet 0#16 s.arr.thr x e } })

/-- An ejection entry (R114). -/
def writeEj (c : LoadCtx) (i l t j v : Nat) (s : State) : Written :=
  let e : BitVec 16 := BitVec.ofNat 16 v
  if natBit v 14 ∨ 9216 ≤ mapIdx e ∨ (mapV e ∧ posBad c (mapIdx e)) then (some { refAt St.routeInvalid 0xA i t with lcl := l, pos := j }, s)
  else (none, { s with arr := { s.arr with ej := smSet 0#16 s.arr.ej (ejKey (c.port l) t j) e } })

/-- Key of an INIT record (R159). -/
def initKey (d : List Byte) (i : Nat) : Nat := (fieldAt d (24 * i) 1 * 256 + fieldAt d (24 * i + 1) 1) * 65536 + fieldAt d (24 * i + 2) 2

/-- Key of the INIT record that stands before record r of INIT section i in table order, if any: the one before it in its section, or the
last of the INIT section before (R159). -/
def Image.initBefore (im : Image) (i : Nat) (d : List Byte) (r : Nat) : Option Nat :=
  if 0 < r then some (initKey d (r - 1))
  else ((im.indexed.filter fun e => decide (e.2.kind = 8) && decide (e.1 < i)).getLast?).map fun e => initKey (sectionData im.data e.2) (e.2.count - 1)

/-- An INIT record (R159). -/
def writeInit (c : LoadCtx) (i : Nat) (d : List Byte) (first r : Nat) (s : State) : Written :=
  let o := 24 * r
  let l := fieldAt d o 1
  let g := fieldAt d (o + 1) 1
  let row := fieldAt d (o + 2) 2
  let mask := BitVec.ofNat 64 (fieldAt d (o + 8) 8)
  let v := BitVec.ofNat 64 (fieldAt d (o + 16) 8)
  let inQ := decide (l < 96) && c.im.qmask.getLsbD (l / 24)
  let bad := !inQ ∨ 16 ≤ g ∨ 1536 ≤ row ∨ fieldAt d (o + 4) 4 ≠ 0 ∨ v &&& ~~~mask ≠ 0 ∨ ((c.im.initBefore i d r).any fun k => decide (initKey d r ≤ k)) = true
  if bad then (some { refAt St.sectionInvalid 0xB i (first + r) with lcl := if l < 96 then l else 0xFF, sub := if g < 16 then g else 0xFF }, s)
  else (none, { s with arr := { s.arr with init := smSet 0#64 s.arr.init ((c.port l * 16 + g) * 1536 + row) v } })

/-! ### Fabric elements -/

/-- A generator word is legal (R180). -/
def genOk (f : Nat) (w : U64) : Bool :=
  let n := genA w
  let high := (w.extractLsb' 0 16).toNat
  decide (w.extractLsb' 48 13 = 0) &&
    (match genMode w with
     | 0 => true
     | 1 => decide (4 ≤ n) && decide (genB w < n) && decide (2 ≤ high) && decide (high + 2 ≤ n)
     | 2 => !w.getLsbD 61 && decide (high = 0) && decide (n ≠ genB w) && decide (n < f) && decide (genB w < f)
     | _ => false)

/-- A word of n bytes in a supplied frame, 0 when the image does not supply it. -/
def frameField (im : Image) (region frame byte n : Nat) : Nat := fieldAt ((suppliedFrame im region frame).getD []) byte n

/-- MODE of the generator that a cell of a logical region selects is not OFF (R180); in a partial image the GCK words are
those in force. -/
def selOk (s : State) (c : LoadCtx) (k sel : Nat) : Bool :=
  if sel = 63 then true
  else if 40 ≤ sel then false
  else if 32 ≤ sel then decide (frameField c.im k 1536 (8 * (sel - 32)) 8 / 2 ^ 62 ≠ 0)
  else if c.im.kind = 1 then decide (s.cfgField (firstRegion (c.region k / 6)) 1537 (8 * sel) 8 / 2 ^ 62 ≠ 0)
  else decide (frameField c.im (6 * (k / 6)) 1537 (8 * sel) 8 / 2 ^ 62 ≠ 0)

/-- An I/O word with its neighbour and the bank's VSEL is legal (R188, R189). -/
def ioOk (pin v odd vsel : Nat) : Bool :=
  decide (natBits v 16 16 = 0) && decide (natBits v 0 8 = 0) && decide (natBits v 9 2 ≠ 3) &&
    (!natBit v 8 || (decide (pin % 2 = 0) && decide (vsel ≠ 0) && decide (odd = 0)))

/-- An I/O frame of a physical region is legal, its bank's measured VIO apart (R189). -/
def ioFrameOk (region : Nat) (d : List Byte) : Bool :=
  if !bankRegions.contains region then !anyNonZero d
  else
    let vsel := fieldAt d 96 4
    decide (vsel ≤ 2) && allZero d 100 156 &&
      (List.range 24).all fun p => ioOk p (fieldAt d (4 * p) 4) (fieldAt d (4 * (p + 1)) (if p = 23 then 0 else 4)) (vsel % 4)

/-- A configuration frame is legal (check 0x0C: R180, R189, Table 8.7). -/
def cfgFrameOk (s : State) (c : LoadCtx) (k frame : Nat) (d : List Byte) : Bool :=
  if frame < 512 then
    (List.range 64).all fun j =>
      let w := fieldAt d (4 * j) 4
      decide (natBits w 28 4 = 0) && selOk s c k (natBits w 21 6)
  else if frame < 1536 then true
  else if frame = 1536 then allZero d 64 192 && (List.range 8).all fun r => genOk c.f (BitVec.ofNat 64 (fieldAt d (8 * r) 8))
  else if frame = 1537 then
    if k % 6 = 0 ∧ c.im.kind = 0 then (List.range 32).all fun g => genOk c.f (BitVec.ofNat 64 (fieldAt d (8 * g) 8)) else !anyNonZero d
  else ioFrameOk (c.region k) d

/-- The bytes of a frame are stored (R191). -/
def storeFrame (region frame : Nat) (d : List Byte) (s : State) : State :=
  let cells := ((List.range 256).zip d).map fun e => (cfgKey region frame e.1, e.2 ^^^ cfgDefault frame e.1)
  { s with fab := { s.fab with cfg := smPutAll 0#8 s.fab.cfg cells, cfgErr := smSet 0 s.fab.cfgErr (region * 1539 + frame) 0 } }

/-- A configuration frame is written. A non-zero I/O frame is also held against the bank's measured VIO, of which the spec
gives no value here: a free value decides (log entry 9). -/
def writeFrame (c : LoadCtx) (i k frame : Nat) (d : List Byte) (s : State) : Written :=
  let bad : Refuse := { refAt St.sectionInvalid 0xC i frame with sub := 0xFF }
  if !cfgFrameOk s c k frame d then (some bad, s)
  else if c.vio ∧ frame = 1538 ∧ anyNonZero d then
    let (v, s1) := s.draw 1
    if v = 1 then (some bad, s1) else (none, storeFrame (c.region k) frame d s1)
  else (none, storeFrame (c.region k) frame d s)

/-- A fabric port entry (R185). -/
def writeFport (c : LoadCtx) (i l t v : Nat) (s : State) : Written :=
  if natBits v 13 3 ≠ 0 ∨ natBits v 5 3 ≠ 0 ∨ (natBit v 12 ∧ c.im.e ≤ t) then (some { refAt St.sectionInvalid 0xC i t with lcl := l }, s)
  else (none, { s with fab := { s.fab with fport := smSet 0#16 s.fab.fport (c.port l * 1024 + t) (BitVec.ofNat 16 v) } })

/-- A block memory's initial content. -/
def writeBmem (n : Nat) (d : List Byte) (s : State) : State :=
  { s with fab := { s.fab with bmem := smPutAll 0#72 s.fab.bmem ((List.range 256).map fun r => (n * 256 + r, BitVec.ofNat 72 (fieldAt d (9 * r) 9))) } }

/-- A micro-instruction (R212); one that is not idle makes the slice scheduled (R210). -/
def writeUop (i n j v : Nat) (s : State) : Written :=
  if uopReserved (BitVec.ofNat 64 v) then (some (refAt St.sectionInvalid 0xC i j), s)
  else
    let mode := if v = 0 then 0 else if natBit v 55 then 2 else 1
    (none, { s with fab := { s.fab with
      uops := smSet 0#64 s.fab.uops (n * 512 + j) (BitVec.ofNat 64 v), sched := smSet 0 s.fab.sched n (max mode (smGet 0 s.fab.sched n)) } })

/-- A memory-port descriptor (R217, first two conditions). -/
def writeMport (c : LoadCtx) (i l port r v : Nat) (s : State) : Written :=
  let d := descOf (BitVec.ofNat 64 v)
  let pcl := c.pcl l
  let dup := (keysIn s.arr.mport (mportKey pcl port 0) 16).any fun e => (descOf e.2).v && decide ((descOf e.2).step = d.step)
  if natBits v 59 5 ≠ 0 ∨ natBits v 0 17 ≠ 0 ∨ (d.v ∧ dup) then (some { refAt St.sectionInvalid 0xC i r with lcl := l, sub := port }, s)
  else (none, { s with arr := { s.arr with mport := smSet 0#64 s.arr.mport (mportKey pcl port r) (BitVec.ofNat 64 v) } })

/-- One element of a section, its unit bytes at offset u of the data (Table 7.3, checks 0x09 to 0x0C). -/
def writeElement (c : LoadCtx) (i : Nat) (x : Section) (d : List Byte) (u : Nat) (s : State) : Written :=
  let k := x.first + u
  let at2 := fun base j => fieldAt d (base + 2 * j) 2
  match x.kind with
  | 1 => writeSeq (fun j => writeInstr c i x.tgta x.tgtb k j (fieldAt d (768 * u + 12 * j) 12)) (List.range 64) s
  | 2 => writeSeq (fun j => writeRoute c i x.tgta k j (at2 (2048 * u) j)) (List.range 1024) s
  | 3 => writeSeq (fun j => writeDx c i x.tgta k j (fieldAt d (1024 * u + 4 * j) 4)) (List.range 256) s
  | 4 => writeSeq (fun j => writeSx c i x.tgta k j (at2 (192 * u) j)) (List.range 96) s
  | 5 => writeSeq (fun j => writeInj c i x.tgta k j (at2 (1152 * u) j)) (List.range 576) s
  | 6 => writeSeq (fun j => writeThr c i x.tgta j (at2 0 j)) (List.range 576) s
  | 7 => writeSeq (fun j => writeEj c i x.tgta k j (at2 (192 * u) j)) (List.range 96) s
  | 8 => writeInit c i d x.first u s
  | 9 => writeFrame c i x.tgta k (bytesAt d (256 * u) 256) s
  | 10 => writeFport c i x.tgta k (at2 0 u) s
  | 11 => (none, writeBmem (c.bmem x.tgta) d s)
  | 12 => writeUop i (c.sliceNo x.tgta) k (fieldAt d (8 * u) 8) s
  | 13 => writeMport c i x.tgta x.tgtb k (fieldAt d (8 * u) 8) s
  | 14 => if allZero d 386 62 then (none, s) else (some (refAt St.sectionInvalid 0xC i 0), s)
  | _ => (none, s)

/-- A section's elements in ascending order. -/
def writeSection (c : LoadCtx) (e : Nat × Section) (s : State) : Written :=
  if e.2.kind = 0xF0 then (none, s)
  else writeSeq (fun u => writeElement c e.1 e.2 (sectionData c.im.data e.2) u) (List.range e.2.count) s

/-- Check 0x0D: a port's channel mask agrees with its descriptors (R217). -/
def checkPorts (c : LoadCtx) (s : State) : Option Refuse :=
  firstSome ((List.range 384).map fun q =>
    let l := q / 4
    let used := decide (smGet 0 c.pmap l ≠ 0) && (keysIn s.arr.mport (mportKey (c.pcl l) (q % 4) 0) 16).any fun e => (descOf e.2).v
    if used = decide (smGet 0#8 c.im.cmask q ≠ 0) then none
    else
      let sec := match c.im.indexed.find? fun e => decide (e.2.kind = 0xD) && decide (e.2.tgta = l) && decide (e.2.tgtb = q % 4) with
        | some e => e.1
        | none => ((c.im.indexed.find? fun e => decide (e.2.kind = 0xE)).map (·.1)).getD 0xFFFF
      some { status := St.sectionInvalid, check := 0xD, sect := sec, lcl := l, sub := q % 4 })

/-! ### Stores before a load -/

/-- A store without the entries of some physical clusters. -/
def dropClusters {α : Type} (m : SMap α) (per : Nat) (cls : List Nat) : SMap α := m.filter fun e => !cls.contains (e.1 / per)

/-- Physical clusters of the dies. -/
def clustersOf (dies : List Nat) : List Nat := (dies.map fun d => (List.range 24).map fun i => 24 * d + i).flatten
/-- Physical regions of the dies. -/
def regionsOf (dies : List Nat) : List Nat := (dies.map fun d => (List.range 6).map fun i => 6 * d + i).flatten

/-- Entries of a shared map at the ports of a mask leave it. -/
def dropPorts {α : Type} (m : SMap α) (pmask : Nat) : SMap α := m.filter fun e => !natBit pmask (posPort (e.1 % 9216))

/-- Check statuses of the stores of some physical clusters and of the maps of some ports leave with their entries. -/
def dropErrs (m : SMap Nat) (cls : List Nat) (pmask : Nat) : SMap Nat := m.filter fun e =>
  let k := e.1 / 16
  !(match e.1 % 16 with
    | 0 => cls.contains (k / 64 / 512 / 16) | 1 => cls.contains (k / 64 / 16 / 1024) | 2 => cls.contains (k / 256 / 1024)
    | 3 => cls.contains (k / 96 / 1024) | 4 => natBit pmask (posPort (k % 9216)) | 5 => natBit pmask (posPort k) | 6 => cls.contains (k / 96 / 1024) | 7 => cls.contains (k / 64) | _ => false)

/-- The fabric of some regions takes the reset content of its configuration, block memories, micro-instructions; the slices keep
their registers up to the Start tick, which a switch's toggle needs (R213). -/
def clearRegions (regs : List Nat) (s : State) : State :=
  let f := s.fab
  let bits := BitVec.ofNat 24 (maskOf regs)
  { s with fab := { f with
      configured := f.configured &&& ~~~bits, stopped := f.stopped &&& ~~~bits
      cfg := dropClusters f.cfg (1539 * 256) regs, cfgErr := dropClusters f.cfgErr 1539 regs, ff := dropClusters f.ff 32768 regs
      bmem := dropClusters f.bmem (96 * 256) regs, bmemErr := dropClusters f.bmemErr (96 * 256) regs, bout := dropClusters f.bout 192 regs
      uops := dropClusters f.uops (48 * 512) regs, uopErr := dropClusters f.uopErr (48 * 1024) regs, sched := dropClusters f.sched 48 regs
      or_ := dropClusters f.or_ 64 regs, ir := dropClusters f.ir 64 regs } }

/-- Every store of the partition's dies takes its defaults before the sections are written (R65, R158), and Net Memory,
port rows and results are discarded (R167). -/
def clearStores (c : LoadCtx) (s : State) : State :=
  let dies := c.dies.map (·.2)
  let cls := clustersOf dies
  let a := s.arr
  let pm := natBits c.im.sxparam.toNat 32 16
  let s1 := clearRegions (regionsOf dies) s
  { s1 with
    arr := { a with
      words := dropClusters a.words (16 * 512 * 64) cls, errs := dropErrs a.errs cls pm, nm := dropClusters a.nm (16 * 4 * 1536) cls
      nmBad := dropClusters a.nmBad (16 * 4 * 1536) cls, pr := dropClusters a.pr (16 * 512) cls, prBad := dropClusters a.prBad (16 * 512) cls
      prNext := dropClusters a.prNext (16 * 512) cls, results := dropClusters a.results (16 * 512) cls
      routes := dropClusters a.routes (1024 * 1024) cls, dxexp := dropClusters a.dxexp (1024 * 256) cls
      sxexp := dropClusters a.sxexp (1024 * 96) cls, ej := dropClusters a.ej (1024 * 96) cls, mport := dropClusters a.mport 64 cls
      init := dropClusters a.init (16 * 1536) cls, inj := dropPorts a.inj pm, thr := dropPorts a.thr pm, thrReg := dropPorts a.thrReg pm
      dxFlight := a.dxFlight.filter fun d => !cls.contains d.dst }
    fab := { s1.fab with fport := dropClusters s1.fab.fport 1024 cls, xf := dropClusters s1.fab.xf 1 cls } }

/-- The whole of a full image is written over cleared stores; check 0x0D follows (R165). -/
def writeImage (c : LoadCtx) (s : State) : Written :=
  match writeSeq (writeSection c) c.im.indexed (clearStores c s) with
  | (some r, s1) => (some r, s1)
  | (none, s1) =>
    let regs := (c.im.sections.filter fun x => decide (x.kind = 9)).map fun x => c.region x.tgta
    let s2 := { s1 with fab := { s1.fab with configured := s1.fab.configured ||| BitVec.ofNat 24 (maskOf regs) } }
    (checkPorts c s2, s2)

end Sys2Proof.Machine
end

