-- ==== Sys2Proof/Machine/Changes.lean ====
section
/-!
DEFINITION. Changes.lean: the mode changes of R375 as they apply at a tick, are taken back for a positional replay (R47) or
are cancelled (R167, R376): placement switches (R102), region switches and resumes (R195), pendant changes (R305, R311,
R317). A change names its opcode and an argument: the die of a migration; the physical region bits of a region switch, plus
2^24 for its resume; the side or role code of a pendant change.
-/
namespace Sys2Proof.Machine

/-! ### Placement -/

/-- A key of Net Memory lies in one bank of a physical cluster. -/
def inBank (pcl bank key : Nat) : Bool := decide (key / 1536 / 4 / 16 = pcl) && decide (key / 1536 % 4 = bank)

/-- Rows of one bank of a physical cluster are copied to another (the mirror path of Table 4.8): every row is written whole, with its
parity (R77). -/
def copyBank (src dst bank : Nat) (s : State) : State :=
  let rows := (List.range 16).flatMap fun g =>
    (keysIn s.arr.nm (nmKey src g bank 0) 1536).map fun e => (nmKey dst g bank (e.1 - nmKey src g bank 0), e.2)
  { s with arr := { s.arr with nm := smPutAll 0#64 (smDrop (inBank dst bank) s.arr.nm) rows, nmBad := smDrop (inBank dst bank) s.arr.nmBad } }

/-- The map of a partition with the hosts of two logical clusters exchanged. -/
def swapHosts (p l1 l2 : Nat) (s : State) : State :=
  let x := s.part p
  let h1 := smGet 0 x.pmap l1
  let h2 := smGet 0 x.pmap l2
  s.setPart p { x with pmap := smSet 0 (smSet 0 x.pmap l1 h2) l2 h1 }

/-- A logical cluster's placement epoch moves by d (R103). -/
def moveEpoch (p lcl : Nat) (d : U16) (s : State) : State :=
  let x := s.part p
  s.setPart p { x with epochs := smSet 0#16 x.epochs lcl (smGet 0#16 x.epochs lcl + d) }

/-- A migration on a die. -/
def State.migration (s : State) (die : Nat) : Option Migration := smGet none s.arr.migr die
/-- A migration replaced. -/
def State.setMigration (s : State) (die : Nat) (g : Option Migration) : State := { s with arr := { s.arr with migr := smSet none s.arr.migr die g } }

/-- A placement switch at its tick (Table 4.8): L moves to T with the rows of bank m-1 that the mirror filled, U to P, L's
epoch increments; the command completes at the first switch. -/
def switchPlacement (p die : Nat) (s : State) : State :=
  match s.migration die with
  | none => s
  | some g =>
    let s1 := moveEpoch p g.lcl 1 (swapHosts p g.lcl g.spareL (copyBank g.src g.tgt ((s.part p).prevBank) s))
    let s2 := s1.setMigration die (some { g with switched := true, ctx := none })
    completeOpt g.ctx St.ok [] { s2 with
      arr := { s2.arr with fwdUntil := s2.arr.fwdUntil.filter (fun w => decide (w.src / 24 ≠ die)) ++ [{ part := p, src := g.src, m := g.m }] }, trust := { s2.trust with digestDue := true } }

/-- A placement switch taken back: the frames below m run with the old map (R47). -/
def unswitchPlacement (p die : Nat) (s : State) : State :=
  match s.migration die with
  | none => s
  | some g => if g.switched then (moveEpoch p g.lcl (-1) (swapHosts p g.lcl g.spareL s)).setMigration die (some { g with switched := false }) else s

/-- Data of MIGRATE_FAILED (Table 15.7). -/
def migrateFailedData (lcl tgt cause : Nat) : List Byte := leBytes 1 lcl ++ leBytes 1 tgt ++ leBytes 2 cause ++ zeros 4

/-- A migration is cancelled (Table 4.9): its command completes with the code, and a cancellation by a load, unload or
pre-emption is also reported as MIGRATE_FAILED. -/
def cancelMigration (p die code : Nat) (s : State) : State :=
  match s.migration die with
  | none => s
  | some g =>
    let s1 := completeOpt g.ctx code (if code = St.migrateFailed then migrateFailedData g.lcl g.tgt St.migrateTarget else []) (s.setMigration die none)
    if code = St.superseded then partEvent St.migrateFailed 0x2 p (migrateFailedData g.lcl g.tgt St.superseded) s1 else s1

/-! ### Regions -/

/-- Regions whose physical bits are in a mask. -/
def regionsIn (mask : Nat) : List Nat := onesOf mask 24

/-- INIT of a cell (Table 8.1). -/
def cellInit (w : U32) : Bool := w.getLsbD 19

/-- Every flip-flop of a region takes INIT, its clusters' IR and OR registers hold 0, its block memories' output registers 0
(R195), and its slices' register banks their reset values (R204). Only a Start makes a slice's next BAD_UOP the first (R211). -/
def resetRegion (region : Nat) (s : State) : State :=
  let ffs := (s.cellsOf region).map fun c => (ffKey region c, cellInit (s.cellWord region c))
  let f := s.fab
  let fresh := fun e : Nat × Slice => if sliceRegion e.1 = region then (e.1, { (({} : Slice)) with lb := e.2.lb, badSeen := e.2.badSeen }) else e
  { s with fab := { f with
      edge := none, slices := (f.slices.map fresh).filter fun e => decide (e.2 ≠ {})
      ff := smPutAll false (dropClusters f.ff 32768 [region]) ffs, or_ := dropClusters f.or_ 64 [region], ir := dropClusters f.ir 64 [region]
      bout := dropClusters f.bout 192 [region], orNext := f.orNext.filter fun e => decide (e.2.1 / 64 ≠ region) } }

/-- The image of a partial reconfiguration is read again for the rewrite (R195), once an engine has room for the list. -/
def rereadImage (p : Nat) (r : Reconfig) (s : State) : State :=
  match s.pickEngine with
  | none => s
  | some e =>
    let x := s.part p
    enqueue e (.region p) (some r.ctx) x.jsid 0 [imageElem r.addr r.len]
      (s.setPart p { x with reconfig := x.reconfig.map fun o => if o.ctx = r.ctx then { o with unread := false } else o })

/-- The regions of a switch stop, their pins go to high impedance, and their rewrite begins (R195). -/
def switchRegions (p mask : Nat) (s : State) : State :=
  let x := s.part p
  let bits := BitVec.ofNat 24 mask
  let s1 := s.setPart p { x with reconfig := x.reconfig.map fun r => if r.mask.toNat = mask then { r with active := true, unread := true } else r }
  let s2 : State := { s1 with fab := { s1.fab with stopped := s1.fab.stopped ||| bits, drive := s1.fab.drive &&& ~~~bits } }
  match x.reconfig.find? fun r => decide (r.mask.toNat = mask) with
  | some r => rereadImage p r s2
  | none => s2

/-- Physical region of a logical region of a partition. -/
def Partition.region (x : Partition) (k : Nat) : Nat :=
  match x.image with
  | some im => 6 * physDie (dieMap im x.dies) (k / 6) + k % 6
  | none => k

/-- Logical regions of a partition whose physical region is in a mask. -/
def Partition.logicalRegions (x : Partition) (mask : Nat) : List Nat :=
  match x.image with
  | some im => (List.range 24).filter fun k => im.qmask.getLsbD (k / 6) && natBit mask (x.region k)
  | none => []

/-- PRBUILD entries of some logical regions take a value. -/
def setPrbuild (p : Nat) (ks : List Nat) (v : U64) (s : State) : State :=
  let x := s.part p
  s.setPart p { x with prbuild := smPutAll 0#64 x.prbuild (ks.map fun k => (k, v)) }

/-- The resume of a reconfiguration at its tick (R195): flip-flops take INIT, clocks and pins start, PRBUILD takes the BUILD,
the digest is recomputed, the command completes. -/
def resumeRegions (p mask : Nat) (s : State) : State :=
  let x := s.part p
  match x.reconfig.find? fun r => decide (r.mask.toNat = mask) with
  | none => s
  | some r =>
    let bits := BitVec.ofNat 24 mask
    let s1 := (regionsIn mask).foldl (fun a k => resetRegion k a) s
    let s2 := { s1 with
      fab := { s1.fab with stopped := s1.fab.stopped &&& ~~~bits, configured := s1.fab.configured ||| bits, drive := s1.fab.drive ||| bits }
      trust := { s1.trust with digestDue := true } }
    let s3 := setPrbuild p (x.logicalRegions mask) ((r.image.map (·.build)).getD 0) s2
    complete r.ctx St.ok [] (s3.setPart p { s3.part p with reconfig := x.reconfig.filter fun q => decide (q.mask ≠ r.mask) })

/-- Data of RECONFIG_FAILED (Table 15.7). -/
def reconfigFailedData (mask cause : Nat) : List Byte := leBytes 3 mask ++ zeros 1 ++ leBytes 2 cause ++ zeros 2

/-- DESIGN CHOICE: R196 names no new digest for a region left unconfigured, whose PRBUILD becomes 0: none is computed here, the next refresh
takes it in (log entry 72). A reconfiguration ends without its resume: the regions of a switch that has happened are left unconfigured, which is
reported as RECONFIG_FAILED (R196); before the switch tick they are unchanged (R259). The command completes with the code of
its cancellation (R167, R376), else with RECONFIG_FAILED. -/
def failReconfig (p mask cause : Nat) (s : State) : State :=
  let x := s.part p
  match x.reconfig.find? fun r => decide (r.mask.toNat = mask) with
  | none => s
  | some r =>
    let ks := if r.active then x.logicalRegions mask else []
    let s1 := setPrbuild p ks 0 s
    let y := s1.part p
    let s2 := s1.setPart p { y with
      reconfig := y.reconfig.filter fun q => decide (q.mask ≠ r.mask)
      changes := y.changes.filter fun c => !(decide (c.opcode = 0x0405) && decide (c.arg % 2 ^ 24 = mask)) }
    let data := reconfigFailedData (maskOf ks) cause
    let early := cause = St.superseded ∨ cause = St.armTimeout
    let s3 := complete r.ctx (if early then cause else St.reconfigFailed) (if early then [] else data) (dropCtx r.ctx s2)
    if r.active then partEvent St.reconfigFailed 0x5 p data { s3 with fab := { s3.fab with configured := s3.fab.configured &&& ~~~r.mask } } else s3

/-! ### Pendant changes -/

/-- Own side, 0 A, 1 B. -/
def State.side (s : State) : Nat := bitNat s.ident.pendSide

/-- Regions of a partition that are configured. -/
def State.regionsOfPart (s : State) (x : Partition) : List Nat :=
  (List.range 24).filter fun r => x.dies.getLsbD (r / 6) && s.fab.configured.getLsbD r

/-- The pins of a partition's regions drive, or with its end go to high impedance (R190). -/
def drivePins (p : Nat) (on : Bool) (s : State) : State :=
  let bits := BitVec.ofNat 24 (maskOf (s.regionsOfPart (s.part p)))
  { s with fab := { s.fab with drive := if on then s.fab.drive ||| (bits &&& ~~~s.fab.stopped) else s.fab.drive &&& ~~~bits } }

/-- Execution of a partition stops where it stands at a boundary: a pause there is over. -/
def stopAt (p : Nat) (s : State) : State :=
  let x := s.part p
  if x.st ≠ .running then s
  else drivePins p false (s.setPart p { x with phase := .stopped, pausedAt := none, restart := none, nextTick := none, stopNext := false })

/-- Every partition's execution stops: partition p and those paused now, the others at their next boundary (R311). -/
def stopExecution (p : Nat) (s : State) : State :=
  eachPart (fun q a =>
    let x := a.part q
    if x.st ≠ .running then a
    else if q = p ∨ x.phase = .paused ∨ x.phase = .leadIn then stopAt q a
    else a.setPart q { x with stopNext := true }) s

/-- The role and state of the pair. -/
def setPair (st : PairSt) (role : Nat) (s : State) : State := { s with pend := { s.pend with st := st, role := role } }

/-- The twin retires (R311). -/
def retireSelf (s : State) : State := assertFault St.twinRetired (setPair .retired 0 s)

/-- The survivor of a retirement (R309). -/
def surviveSolo (part : Nat) (s : State) : State := logEvent { cause := St.twinRetired, sub := 0xD, sev := 4, part := part } none [] (setPair .solo 1 s)

/-- Every placement epoch of a partition moves by d. -/
def moveEpochs (p : Nat) (d : U16) (s : State) : State := ((s.part p).pmap.map (·.1)).foldl (fun a l => moveEpoch p l d a) s

/-- Every logical cluster of the new carrier takes the old carrier's epoch plus 1 (R317): those that the peer has told for the partition, or those
that this twin holds already, as a join's record has set them. What they replace is kept for a positional replay (R47). -/
def bumpEpochs (p : Nat) (s : State) : State :=
  let x := s.part p
  let old := ((s.pend.peerEpochs.find? fun e => decide (e.1 = p)).map (·.2)).getD x.epochs
  let keep := s.pend.oldEpochs.filter fun e => decide (e.1 ≠ p)
  let s1 := moveEpochs p 1 (s.setPart p { x with epochs := old })
  { s1 with pend := { s1.pend with peerEpochs := s.pend.peerEpochs.filter (fun e => decide (e.1 ≠ p)), oldEpochs := keep ++ [(p, x.epochs)] } }

/-- The epochs that a handover replaced stand again (R47). -/
def unbumpEpochs (p : Nat) (s : State) : State :=
  match s.pend.oldEpochs.find? fun e => decide (e.1 = p) with
  | some e => s.setPart p { s.part p with epochs := e.2 }
  | none => s

/-- The roles that a pendant change gives at the tick of its reference partition (R305, R311, R317): 0x0902 STANDBY with the
standby's side, 0x0903 with the side that retires, 0x0907 with the side that stops executing. -/
def applyRole (opcode arg part : Nat) (s : State) : State :=
  if opcode = 0x0903 then (if arg = s.side then retireSelf s else surviveSolo part s)
  else if arg = s.side then setPair .standby 2 s
  else setPair .standby 1 s

/-- What a pendant change does to the execution of one partition: the named twin stops, and at a handover the other twin's logical
clusters take new epochs. -/
def applyTo (opcode arg p : Nat) (s : State) : State :=
  if arg = s.side then stopAt p s else if opcode = 0x0907 then bumpEpochs p s else s

/-- The twin fences itself (R313). -/
def fenceSelf (p : Nat) (s : State) : State :=
  logEvent { cause := St.twinFenced, sub := 0xD, sev := 4 } none [] (stopExecution p (setPair .fenced 0 s))

/-- The peer is lost, or its SIGF was missing (R309, R313): side A carries in SOLO, side B fences itself. -/
def losePeer (p : Nat) (s : State) : State := if s.side = 0 then setPair .solo 1 s else fenceSelf p s

/-- The command of a pendant change completes (Table 16.10). -/
def completePendant (code : Nat) (data : List Byte) (s : State) : State :=
  match s.pend.change with
  | none => s
  | some (_, c, _) => completeOpt c code data { s with pend := { s.pend with change := none } }

/-! ### One change -/

/-- Opcodes of pendant changes. -/
def pendantOp (op : Nat) : Bool := op = 0x0902 || op = 0x0903 || op = 0x0907

/-- Opcodes that stand for the device's own pendant decisions of R309: a twin retires; the peer's SIGF was missing. -/
abbrev autoRetire : Nat := 0x10903
/-- The peer's SIGF was missing (R309 rule 1). -/
abbrev autoFence : Nat := 0x10913

/-- Added to the opcode of a pendant change in a partition that follows the reference partition (R354). -/
abbrev followOp : Nat := 0x20000

/-- A change applies at the tick of its frame (R32). -/
def applyChange (p : Nat) (s : State) (c : ModeChange) : State :=
  if c.opcode = 0x0404 then switchPlacement p c.arg s
  else if c.opcode = 0x0405 then (if c.arg < 2 ^ 24 then switchRegions p c.arg s else resumeRegions p (c.arg - 2 ^ 24) s)
  else if pendantOp c.opcode then completePendant St.ok [] (applyTo c.opcode c.arg p (applyRole c.opcode c.arg p s))
  else if followOp ≤ c.opcode then applyTo (c.opcode - followOp) c.arg p s
  else if c.opcode = autoRetire then
    let s1 := applyRole 0x0903 c.arg p s
    if c.arg = s.side then stopExecution p s1 else s1
  else if c.opcode = autoFence then losePeer p s
  else s

/-- What a pendant change did to one partition is taken back: the epochs of a handover (R47); the verdict itself restarts a stopped
partition. -/
def unapplyTo (opcode arg p : Nat) (s : State) : State := if opcode = 0x0907 ∧ arg ≠ s.side then unbumpEpochs p s else s

/-- A change applied is taken back because frames below it re-execute (R47). Regions are never restored (R195). -/
def unapplyChange (p : Nat) (s : State) (c : ModeChange) : State :=
  if c.opcode = 0x0404 then unswitchPlacement p c.arg s
  else if pendantOp c.opcode then unapplyTo c.opcode c.arg p (setPair .lockstep 1 (releaseFault St.twinRetired s))
  else if followOp ≤ c.opcode then unapplyTo (c.opcode - followOp) c.arg p s
  else s

/-- A change is cancelled in every unit with a completion code (R167, R376). -/
def cancelChange (p code : Nat) (s : State) (c : ModeChange) : State :=
  let x := s.part p
  let s1 := s.setPart p { x with changes := x.changes.filter fun d => decide (d ≠ c) }
  if c.opcode = 0x0404 then cancelMigration p c.arg code s1
  else if c.opcode = 0x0405 then failReconfig p (c.arg % 2 ^ 24) code s1
  else if pendantOp c.opcode then
    completePendant code [] (eachPart (fun q a => a.setPart q { a.part q with changes := (a.part q).changes.filter fun d => decide (d.opcode ≠ followOp + c.opcode) }) s1)
  else s1

/-- Every pending change of a partition is cancelled (R167 step 1). -/
def cancelChanges (p code : Nat) (s : State) : State := (s.part p).changes.foldl (cancelChange p code) s

/-! ### The tick of a join -/

/-- Roles after tick J: LOCKSTEP; after a handover or the retirement of the carrier the old carrier stops (R305, R311, R317). -/
def joinRoles (s : State) : State :=
  let op := match s.pend.change with | some (op, _, _) => op | none => 0
  if op = 0x0907 ∨ op = 0x0903 then
    let side := if s.pend.role = 1 then s.side else 1 - s.side
    let s1 := applyRole op side 0xFF s
    if s.pend.role = 1 then stopExecution 4 s1 else eachPart bumpEpochs s1
  else setPair .lockstep 1 s

/-- Tick J (Table 14.5): the pair becomes LOCKSTEP, or after a handover the roles change (R317); JOIN_DONE is posted and the
commands complete. -/
def joinTick (p : Nat) (k : FrameNo) (s : State) : State :=
  match s.pend.join with
  | some (6, j, ref) =>
    if j ≠ k ∨ ref ≠ p then s
    else
      let ctx := s.pend.resync.bind fun r => r.2.1
      let s1 := joinRoles { s with pend := { s.pend with join := none, resync := none } }
      let s2 := if s1.pend.st = .lockstep ∨ s1.pend.role = 1 then s1 else stopAt p s1
      let s3 := partEvent St.joinDone 0xD p [] (finishAct 7 0 s2)
      completePendant St.ok [] (completeOpt ctx St.joinDone (leBytes 6 k.toNat ++ [7#8, 0#8]) s3)
  | _ => s

end Sys2Proof.Machine
end

