-- ==== Sys2Proof/Machine/Frames.lean ====
section
/-!
DEFINITION. Frames.lean: frames as they execute (chapter 02): the steps of a frame, housekeeping, the Horizon tick, verdicts,
the replay, pauses and restarts.
-/
namespace Sys2Proof.Machine

/-- Frame-relative step of partition p now. -/
def State.relStep (s : State) (p : Nat) : Nat := s.cnt - (s.part p).tick

/-- A frame of partition p is in progress and advances. -/
def State.frameRuns (s : State) (p : Nat) : Bool := (s.part p).inFrame && s.stepping && decide ((s.part p).tick ≤ s.cnt)

/-! ### One step of a frame -/

/-- Words of a step of the evaluation window; in every later step no word sets XF, and every fabric output bit carries 0 (R28, R63). -/
def wordsStep (p t : Nat) (s : State) : State :=
  let x := s.part p
  if t < x.evalLen then x.hosts.foldl (fun a e => stepCluster p x t a (e.2 - 1)) s
  else { s with fab := { s.fab with xf := smDrop (fun k => x.pcls.contains k) s.fab.xf } }

/-- Exports and injection of a step at which the tables are consulted, also after the evaluation window (R29), in the order the signature
takes their bits (R307). -/
def exportStep (p t : Nat) (s : State) : State :=
  let x := s.part p
  let s1 := inject p t (x.hosts.foldl (fun a e => sxExports p t a (e.2 - 1)) s)
  x.hosts.foldl (fun a e => dxExports p t a e.1 (e.2 - 1)) s1

/-- Imports of a step within the tables (R84, R97); every cluster of the partition detects collisions, an unused one too (R93). -/
def importAll (p t : Nat) (s : State) : State :=
  let x := s.part p
  let s1 := x.pmap.foldl (fun a e => dxConflicts p t a (e.2 - 1)) s
  fabReach p t (x.hosts.foldl (fun a e => importStep p t a e.1 (e.2 - 1)) s1)

/-- The scheduled slices of a step (R210): word t / 4, never in a replay; none in the step of a switch's tick (R213). -/
def sliceStep (p t : Nat) (s : State) : State :=
  let x := s.part p
  if t % 4 ≠ 0 ∨ 512 ≤ t / 4 ∨ x.frameLen < t + 65 ∨ x.replay then s
  else if x.noIssue = some s.cnt then s
  else issueSlices p (t / 4) s

/-- Everything that happens at frame-relative step t (R56, R84, R89, R90, R110, R183, R210, R218). -/
def frameStep (p t : Nat) (s : State) : State :=
  let x := { s.part p with parSeen := [] }
  let s0 := s.setPart p x
  let s1 := if t ≤ x.lastIndex then exportStep p t (wordsStep p t s0) else wordsStep p t s0
  let s2 := if t + 64 < x.frameLen then issueRequests p t s1 else s1
  let s3 := if t ≤ x.lastIndex then x.hosts.foldl (fun a e => fportCapture p t a e.1 (e.2 - 1)) (importAll p t s2) else s2
  let s4 := sliceStep p t s3
  let y := s4.part p
  s4.setPart p { y with rel := t + 1, restore := if t = 0 then none else y.restore, tau := if x.replay then x.tau else x.frame.toNat * x.frameLen + t }

/-- FRAME_RELATIVE_STEP (R56): the step at which the partition's frame stands, once. -/
def execFrameRelativeStep (part : Fin 4) (s : State) : Res :=
  let p := part.val
  let t := s.relStep p
  .next (if s.frameRuns p ∧ (s.part p).rel ≤ t ∧ t < (s.part p).frameLen then frameStep p t s else s)

/-- NM_PARITY_REREAD (R79): in W or H a previous-bank row that failed is read again: a pass raises REPLAY, a failure HOLD
NM_STATE_LOST. -/
def execNmParityReread (part : Fin 4) (s : State) : Res :=
  let p := part.val
  let x := s.part p
  .next (match x.nmSuspect with
    | [] => s
    | (pcl, grp, row, bp) :: l =>
      if !s.frameRuns p ∨ s.relStep p < x.evalLen then s
      else
        let s1 := bump 0x0 pcl 1 (s.setPart p { x with nmSuspect := l })
        let loc := s1.bpLoc pcl grp (bp % 64) row x.prevBank
        if smGet false s1.arr.nmBad (nmKey pcl grp x.prevBank row) then
          raiseHold p St.nmStateLost (nmKey pcl grp x.prevBank row)
            (logEvent { cause := St.nmStateLost, sub := 0x0, sev := 2, part := p, loc := loc } (s1.jsOf p) (leBytes 8 loc) s1)
        else replayVeto p (logRec { cause := St.nmParity, sub := 0x0, sev := 1, part := p, loc := loc } s1))

/-! ### Verdicts -/

/-- Frame k is beyond replay here. -/
def Partition.isBeyond (x : Partition) (k : FrameNo) : Bool := decide (x.beyond ≠ 0) && !frameBefore (BitVec.ofNat 48 (x.beyond - 1)) k

/-- Step of the last execution's tick of frame k as R388 places it: recorded, or F steps after the frame before. -/
def Partition.tickOf (x : Partition) (k : FrameNo) : Nat :=
  match x.ticks.find? fun e => decide (e.1 = k) with
  | some e => e.2
  | none => x.tick + (k - x.frame).toNat * x.frameLen

/-- Last frame from frame k on, whose tick lies at step t, with a tick at or before step tv: each later tick is the recorded one, or F
steps after the one before (R46, R388); n bounds the frames that can lie between. -/
def Partition.lastBy (x : Partition) (tv : Nat) : Nat → FrameNo → Nat → FrameNo
  | 0, k, _ => k
  | n + 1, k, t =>
    let u := match x.ticks.find? fun e => decide (e.1 = k + 1) with | some e => e.2 | none => t + x.frameLen
    if u ≤ tv then x.lastBy tv n (k + 1) u else k

/-- Last frame of the replay sequence of a verdict for frame k issued at step tv (R46). While a pause stands at boundary m its restart,
where R388 and R52 place the tick of m, has not come: no frame from m on has a tick, and a verdict for m itself forms a sequence of
that frame alone. -/
def Partition.seqEnd (x : Partition) (k : FrameNo) (tv : Nat) : FrameNo :=
  let t := x.tickOf k
  let e := x.lastBy tv ((tv - t) / x.frameLen + 1) k t
  match x.pausedAt with
  | some (m, _, _, _) => if k = m then k else if frameBefore e m then e else m - 1
  | none => e

/-- Bank rows of some banks of a partition's clusters are cleared. -/
def clearBanks (p : Nat) (banks : List Nat) (s : State) : State :=
  let cls := (s.part p).pcls
  let gone := fun k => cls.contains (k / 1536 / 4 / 16) && banks.contains (k / 1536 % 4)
  { s with arr := { s.arr with nm := smDrop gone s.arr.nm, nmBad := smDrop gone s.arr.nmBad } }

/-- A hold condition ends with the verdict that it led to: that of a missing response unless the network still carries one of its frame
(R293), and that of a lost marker, whose CLEAR follows the verdict (R373). -/
def endsWithVerdict (p : Nat) (l : List NocOrphan) (h : HoldCause) : Bool :=
  if ofResponse h.code then !awaited l p h.frame else decide (h.code = St.markerLost)

/-- Holds that remain after a verdict for frame k: those of later frames' faults fall away with their executions (R254). -/
def keptHolds (p : Nat) (k : FrameNo) (o : List NocOrphan) (l : List HoldCause) : List HoldCause :=
  (l.filter fun h => !(decide (h.code = St.transFault) && frameBefore k h.frame)).map fun h => if endsWithVerdict p o h then { h with resolved := true } else h

/-- Requests that a verdict abandons while the network carries them or their response (R290). -/
def Partition.orphaned (x : Partition) (p : Nat) (late : FrameNo → Bool) : List NocOrphan :=
  (x.reqs.filter fun q => late q.frame && q.pending).filterMap fun q => q.tag.map fun k => { tag := k, part := p, frame := q.frame }

/-- Records of abandoned frames are marked (R254). -/
def abandonFaults (p : Nat) (k : FrameNo) (s : State) : State :=
  let mark := fun r : FaultRec => if r.src = 1 ∧ r.part = p ∧ frameBefore k r.frame then { r with abandoned := true } else r
  { s with trans := { s.trans with faults := s.trans.faults.map mark } }

/-- The Abandon and Drain phases of Table 2.5 for frame k: commits, responses and banks of frame k and later are discarded,
changes applied above k are taken back, later Cast records are void. -/
def abandon (p : Nat) (k : FrameNo) (tv : Nat) (s : State) : State :=
  let x := s.part p
  let late := fun f : FrameNo => !frameBefore f k
  let back := x.applied.filter fun c => frameBefore k c.m
  let n := if frameBefore x.frame k then 0 else (x.frame - k).toNat
  let s1 := clearBanks p ((List.range (n + 1)).map fun i => (k.toNat + i) % 4) (back.reverse.foldl (unapplyChange p) s)
  let cls := x.pcls
  let orphans := s1.noc.orphans ++ x.orphaned p late
  let s2 : State := { s1 with
    noc := { s1.noc with orphans := orphans }
    dram := { s1.dram with commits := s1.dram.commits.filter fun c => !(decide (c.part = p) && late c.frame) }
    arr := { s1.arr with prNext := smDrop (fun e => cls.contains (e / 512 / 16)) s1.arr.prNext } }
  let y := s2.part p
  abandonFaults p k (s2.setPart p { y with
    seq := some (k, x.seqEnd k tv), topH0 := x.h0Begun s.cnt, vetoes := y.vetoes.filter (fun v => !late v.1), sampled := y.sampled.filter (fun v => !late v.1)
    sc := afterVerdict (k.toNat % 2 ^ 24) y.sc
    reqs := y.reqs.filter (fun q => !late q.frame), holds := keptHolds p k orphans y.holds, unrecorded := y.unrecorded.filter (fun u => !frameBefore k u.1)
    changes := y.changes ++ back.filter ModeChange.positional, applied := y.applied.filter (fun c => !(frameBefore k c.m && c.positional)), nmSuspect := [], noGo := false
    history := y.history.filter (fun h => decide (h.1 < x.tickOf k)), ticks := y.ticks.filter (fun t => !frameBefore k t.1)
    shadow := y.shadow.map fun r => if (if r.kind = 0 then frameBefore k r.frame else late r.frame) then { r with void := true } else r })

/-- A replay needs a cluster that a migration had left, whose engine has failed since: R99 applies (Table 4.9). -/
def needEngines (p : Nat) (s : State) : State :=
  (List.range 4).foldl (fun a d => match a.migration d with
    | some g =>
      if g.part = p ∧ !g.switched ∧ smGet 0 a.arr.engBad g.src ≠ 0 ∧ !((a.part p).holds.any fun h => decide (h.code = St.engineFault) && decide (h.unit = g.src)) then
        raiseHold p St.engineFault g.src a
      else a
    | none => a) s

/-- A verdict for frame k takes effect at this device (R43, R45, R48): g is the replay start of a REPLAY, tv the step at which
the root issued it. -/
def takeVerdict (p : Nat) (k : FrameNo) (hold : Bool) (tv g : Nat) (s : State) : State :=
  let x := s.part p
  let back := x.applied.any fun c => frameBefore k c.m && c.positional
  if x.st ≠ .running ∨ (s.leftScope p ∧ !back) then s
  else if x.isBeyond k then
    let s1 := logRec { cause := St.replayLate, sub := 0xC, sev := 3, part := p } s
    s1.setPart p { s1.part p with stopNext := true }
  else
    let s1 := abandon p k tv (if x.phase = .stopped then drivePins p true s else s)
    let y := s1.part p
    if hold then
      tryClear p (needEngines p (s1.setPart p { y with phase := .held, heldFrame := some (k, tv), verdict := some (k, true), nextTick := none }))
    else needEngines p (s1.setPart p (placeReplay k g { y with
      heldFrame := none, verdict := some (k, false), replayLimit := false, holds := y.holds.filter fun h => !h.resolved }))

/-- The root issues its verdict (R38, R45, R48, R49): the ninth REPLAY in a row for one frame becomes a HOLD with an event, a condition that no
CLEAR waits for. -/
def issueVerdict (p : Nat) (k : FrameNo) (hold : Bool) (s : State) : State :=
  let x := s.part p
  let n := if x.replayCount.1 = k then x.replayCount.2 else 0
  let limit := !hold && decide (8 ≤ n)
  let count := if hold ∨ limit then (k, n) else (k, n + 1)
  let cause : List HoldCause := if limit then [{ code := St.replayLimit, unit := 0, frame := k, resolved := true }] else []
  let s1 := s.setPart p { x with decision := none, replayCount := count, replayLimit := x.replayLimit || limit, holds := x.holds ++ cause }
  let s2 := if limit then partEvent St.replayLimit 0xC p [] (logRec { cause := St.replayLimit, sub := 0xC, sev := 2, part := p } s1) else s1
  let tv := s.cnt
  let g := tv + x.vdown + 2 * x.lin
  if hold ∨ limit then takeVerdict p k true tv g (markerDown 0x03 x.scope16 k.toNat tv s2)
  else takeVerdict p k false tv g (markerDown 0x02 x.scope16 k.toNat g s2)

/-- A decision whose 16 steps have passed becomes a verdict (R371). -/
def decideDue (p : Nat) (s : State) : State :=
  match (s.part p).decision with
  | some (t, k, hold) => if t ≤ s.cnt then issueVerdict p k hold s else s
  | none => s

/-! ### The tick -/

/-- Rows staged for the next frame become readable: the port rows of the partition's clusters are replaced (R18, R32). -/
def showStaged (p : Nat) (s : State) : State :=
  let cls := (s.part p).pcls
  let mine := fun k => cls.contains (k / 512 / 16)
  let a := s.arr
  let rows := a.prNext.filter fun e => mine e.1
  { s with arr := { a with
      pr := smPutAll 0#64 (smDrop mine a.pr) rows, prBad := smDrop mine a.prBad, prNext := smDrop mine a.prNext
      results := smDrop mine a.results, dxFlight := a.dxFlight.filter fun d => !cls.contains d.dst } }

/-- The rows of a partition as readable now. -/
def State.readableRows (s : State) (p : Nat) : SMap (BitVec 64) :=
  let cls := (s.part p).pcls
  s.arr.pr.filter fun e => cls.contains (e.1 / 512 / 16)

/-- Staged rows and arrival log kept for frame k (R44): in a replay the log of the first execution stands. -/
def keepCopy (p : Nat) (k : FrameNo) (flag : Bool) (s : State) : State :=
  let x := s.part p
  let old := x.copyOf k
  let c : StagedCopy := {
    frame := k, rows := s.readableRows p
    fabLog := if flag then (old.map (·.fabLog)).getD [] else [], fabReached := if flag then (old.map (·.fabReached)).getD 0 else 0 }
  s.setPart p { x with staged := x.staged.filter (fun d => decide (d.frame ≠ k)) ++ [c] }

/-- Frame k lies in the replay sequence in force. -/
def Partition.inSeq (x : Partition) (k : FrameNo) : Bool :=
  match x.seq with
  | some (a, b) => !frameBefore k a && !frameBefore b k
  | none => false

/-- The root marks a tick (R370): the Start tick, restart and replay ticks, and every 64th frame. -/
def markTick (p : Nat) (k : FrameNo) (special : Bool) (s : State) : State :=
  if s.isRoot p ∧ (special ∨ k.toNat % 64 = 0) then markDown p k.toNat s.cnt s else s

/-- A member awaits the mark of a tick that the root marks; one that has not come when the tick leaves the last four is absent and counted
(R370, log entry 32). -/
def awaitMark (p : Nat) (k : FrameNo) (special : Bool) (s : State) : State :=
  let x := s.part p
  let others := x.marksDue.filter fun d => decide (d ≠ k)
  let due := if !s.isRoot p && (special || decide (k.toNat % 64 = 0)) then others ++ [k] else others
  let kept := fun d : FrameNo => x.ticks.any fun t => decide (t.1 = d)
  (due.filter fun d => !kept d).foldl (fun a _ => countBad a.upLink a) (s.setPart p { x with marksDue := due.filter kept })

/-- Changes effective at frame k apply, in the order of their commands; they are kept until frame k-1 is beyond replay (R47). -/
def applyChanges (p : Nat) (k : FrameNo) (s : State) : State :=
  let x := s.part p
  let now := x.changes.filter fun c => decide (c.m = k)
  let s1 := s.setPart p { x with changes := x.changes.filter fun c => decide (c.m ≠ k), applied := x.applied ++ now }
  now.foldl (applyChange p) s1

/-- The forwarding of stale responses in partition p ends with the tick of frame m+2 of its switch (R104). -/
def endForwarding (p : Nat) (k : FrameNo) (s : State) : State :=
  { s with arr := { s.arr with fwdUntil := s.arr.fwdUntil.filter fun w => decide (w.part ≠ p) || frameBefore k (w.m + 2) } }

/-- A TAKEOVER takes effect with the first frame that begins (R313). -/
def takeTakeover (s : State) : State :=
  if s.pend.takeover then (let t := setPair .solo 1 s; { t with pend := { t.pend with takeover := false } }) else s

/-- A preference accepted takes effect with the frame that follows (R312). -/
def takePref (s : State) : State :=
  match s.pend.prefNew with
  | some v => { s with pend := { s.pend with pref := v, prefNew := none } }
  | none => s

/-- Frame k begins at this step (R24, R32, R388): banks rotate with the number, staged rows show, changes apply. -/
def beginFrame (p : Nat) (k : FrameNo) (special : Bool) (s : State) : State :=
  let x := s.part p
  let flag := x.inSeq k
  let s1 := s.setPart p { x with
    frame := k, begun := true, top := if x.begun && !frameBefore x.top k then x.top else k
    topH0 := x.topH0 && x.begun && !frameBefore x.top k, stagedTop := if x.begun && !frameBefore x.stagedTop k then x.stagedTop else k, phase := .frame, tick := s.cnt, rel := 0, hstage := 0, replay := flag, crc := 0, brkNow := false, nmSuspect := []
    nextTick := none, noGo := false, verdict := none, seq := if flag then x.seq else none
    peerSigf := none, peerSig := none, peerTag := none, ticks := lastN 4 (x.ticks.filter (fun t => decide (t.1 ≠ k)) ++ [(k, s.cnt)]) }
  let s2 := joinTick p k (applyChanges p k (showStaged p (takePref (takeTakeover s1))))
  markTick p k special (awaitMark p k special (keepCopy p k flag (endForwarding p k s2)))

/-- FRAME.STEP completes when the scope next pauses, also at an earlier boundary than its own (R53); the pause it armed stays. -/
def completeSteps (p : Nat) (m : FrameNo) (s : State) : State :=
  let x := s.part p
  let own := x.pauses.filterMap fun q => match q.owner with | .step c => some c | _ => none
  let rest := x.pauses.map fun q => match q.owner with | .step _ => { q with owner := .remote } | _ => q
  own.foldl (fun a c => complete c St.ok (frameData m) a) (s.setPart p { x with pauses := rest })

/-- Completion of a command whose pause has taken effect (R347, R53). -/
def pausedOwner (p : Nat) (m : FrameNo) (s : State) (o : PauseOwner) : State :=
  match o with
  | .cmd c | .step c => complete c St.ok (frameData m) s
  | .switch _ => cancelChanges p St.superseded s
  | .cast _ | .join | .brk | .device | .remote | .void => s

/-- A join's boundary that another pause shares: the restart is left to that pause (R316, R55). -/
def noteHostPause (p : Nat) (here : List Pause) (s : State) : State :=
  if here.any (fun q => decide (q.owner = .join)) && here.any (fun q => decide (q.owner ≠ .join)) then
    { s with pend := { s.pend with hostPause := p :: s.pend.hostPause } }
  else s

/-- The partition reaches boundary m with a pause (R50 to R54): pauses at one boundary are one, without end if any is; a
boundary reached again keeps the frames counted (R51). DESIGN CHOICE: of several finite durations the largest counts, which R50 leaves
open (log entry 15). -/
def reachPause (p : Nat) (m : FrameNo) (s : State) : State :=
  let x := s.part p
  let here := x.pauses.filter fun q => decide (q.m = m)
  let b := s.cnt
  let endless := here.any fun q => decide (q.d = 0)
  let longest := (here.map (·.d)).foldl max 0
  let (t, dur) := match x.pausedAt with
    | some (_, t, _, e) => (t, if endless ∨ e = 0 then 0 else max e longest)
    | none => (b, if endless then 0 else longest)
  let y := { x with phase := .paused, pauses := x.pauses.filter (fun q => decide (q.m ≠ m)), pausedAt := some (m, t, b, dur), verdict := none }
  let s1 := s.setPart p { y with nextTick := y.pauseTick.map fun g => (g, m, false) }
  let s2 := (here.map (·.owner)).foldl (pausedOwner p m) (noteHostPause p here s1)
  if x.pausedAt.isSome then s2 else completeSteps p m s2

/-- Execution stops at a boundary; an out-of-step device takes the partition's lanes to OFF (R43, R370). -/
def stopHere (p : Nat) (s : State) : State :=
  let x := s.part p
  let off := fun (a : State) (n : Nat) => a.setLane n { a.lane n with st := .off, since := a.clk.now, lock := false, delivered := false }
  let s1 := if x.outStep then x.portLanes.foldl off s else s
  loseCast p (drivePins p false (s1.setPart p { x with phase := .stopped, stopNext := false }))

/-- A boundary of partition p: a pair being dissolved no longer waits for it (R300). -/
def leaveAt (p : Nat) (s : State) : State := { s with pend := { s.pend with leaving := s.pend.leaving.filter (· ≠ p) } }

/-- The boundary after the frame in progress (R24, R34, R50, R370): execution stops, pauses, is withheld, or goes on. -/
def boundary (p : Nat) (s : State) : State :=
  let s0 := leaveAt p s
  let s := s0.setPart p { s0.part p with topH0 := (s0.part p).h0Begun s0.cnt }
  let x := s.part p
  let m := x.frame + 1
  let paused : Bool := match x.pausedAt with | some (f, _, _, _) => decide (f = m) | none => false
  if x.stopNext then stopHere p s
  else if paused || x.pauses.any (fun q => decide (q.m = m)) then reachPause p m s
  else if x.noGo then s.setPart p { x with phase := .withheld }
  else beginFrame p m false s

/-- SHA-384 over the registers in order: the firmware measurement (R170). -/
def State.fwMeasure (s : State) : BitVec 384 := Config.sha384 ((List.range 8).flatMap fun r => leBytes 48 (smGet 0#384 s.trust.mr r).toNat)

/-- The settings record of a partition (Table 7.8). -/
def settingsRecord (x : Partition) : List Byte :=
  let im := x.image
  let placed := fun l => match im with | some i => if i.qmask.getLsbD (l / 24) then smGet 0 x.pmap l else 0 | none => 0
  [BitVec.ofNat 8 x.dies.toNat, BitVec.ofNat 8 x.jsid, x.flags, 0#8] ++
    ((List.range 96).map fun l => match placed l with | 0 => 0xFF#8 | n + 1 => BitVec.ofNat 8 n) ++
    (List.range 24).flatMap fun k => leBytes 8 (smGet 0#64 x.prbuild k).toNat

/-- Sort key of a section in the digest (R170). -/
def sectionKey (x : Section) : Nat := ((x.kind * 65536 + x.tgta) * 65536 + x.tgtb) * 65536 + x.first

/-- Insertion of a section by its key. -/
def insertSection (x : Section) : List Section → List Section
  | [] => [x]
  | y :: l => if sectionKey x < sectionKey y then x :: y :: l else y :: insertSection x l

/-- Bytes of a partition in the configuration digest (R170). -/
def digestPart (s : State) (p : Nat) : List Byte :=
  let x := s.part p
  match x.image with
  | some im =>
    if x.st = .empty ∨ x.st = .loading then [BitVec.ofNat 8 p, 0xFF#8]
    else
      let secs := (im.sections.filter fun e => decide (e.kind ≠ 0xF0)).foldr insertSection []
      [BitVec.ofNat 8 p, 1#8] ++ im.head ++ (secs.flatMap fun e => e.entry ++ sectionData im.data e) ++
        settingsRecord { x with flags := if s.arm.override then x.flags ||| 1 else x.flags }
  | none => [BitVec.ofNat 8 p, 0xFF#8]

/-- The configuration digest (R170). -/
def configDigest (s : State) : BitVec 384 :=
  Config.sha384 ([0, 1, 2, 3].flatMap (digestPart s) ++ leBytes 2 s.ident.bic.toNat ++ leBytes 48 s.fwMeasure.toNat)

/-- The digest is recomputed at a tick when due (R171). -/
def refreshDigest (s : State) : State :=
  if s.trust.digestDue then { s with trust := { s.trust with digest := configDigest s, digestDue := false } } else s

/-! ### Housekeeping (Table 2.2) -/

/-- The frame of partition p stands in housekeeping steps lo to hi, its last stage being from. -/
def State.inStage (s : State) (p lo hi : Nat) (from_ : Nat → Bool) : Bool :=
  let x := s.part p
  s.frameRuns p && decide (x.frameLen + lo ≤ s.relStep p + 64) && decide (s.relStep p + 64 ≤ x.frameLen + hi) && from_ x.hstage

/-- ACCUMULATION_CLOSE (R32, R375): at h 0 the signature closes and each unit latches its armed state for the changes of frame
n+2. -/
def execAccumulationClose (part : Fin 4) (s : State) : Res :=
  let p := part.val
  let x := s.part p
  let latch := fun c : ModeChange => if c.m = x.frame + 2 then { c with armed := c.armed || c.ready } else c
  .next (if s.inStage p 0 0 (fun h => decide (h = 0)) then s.setPart p { x with sig := x.crc, changes := x.changes.map latch, hstage := 1 } else s)

/-- SIGNATURE_SEND (R308): in LOCKSTEP, SIGF, SIG and TAG. -/
def execSignatureSend (part : Fin 4) (s : State) : Res :=
  let p := part.val
  let x := s.part p
  let sigf := BitVec.ofNat 64 (x.frame.toNat * 2 ^ 16 + s.pend.pref.toNat * 2 ^ 14 + min s.pend.cev 16383)
  .next (if s.pend.st = .lockstep ∧ s.inStage p 8 10 (fun h => decide (h = 1)) then
      let s1 := sendTag (sendPendant 3 x.sig (sendPendant 2 sigf s))
      s1.setPart p { s1.part p with hstage := 8, ownSigf := (s.pend.pref, min s.pend.cev 16383) }
    else s)

/-- The compare of R308 finds a mismatch. -/
def sigMismatch (x : Partition) : Bool :=
  match x.peerSigf, x.peerSig with
  | some (f, _, _), some v => decide (f ≠ x.frame) || decide (v ≠ x.sig) || decide (x.peerTag = some false)
  | _, _ => true

/-- Side that retires at the fourth mismatch, by the two SIGF blocks of its compare (R309 rules 2 and 3). -/
def retiringSide (s : State) (x : Partition) : Nat :=
  match x.peerSigf with
  | some (_, pref, cev) =>
    let mine := x.ownSigf.2
    if pref = x.ownSigf.1 ∧ pref = 1 then 0
    else if pref = x.ownSigf.1 ∧ pref = 2 then 1
    else if mine = cev then 1
    else if cev < mine then s.side else 1 - s.side
  | none => 1

/-- The mismatches of the frame in progress: how many in a row from its first execution on, and whether the peer's SIGF was missing at one. -/
def Partition.mismOf (x : Partition) : Nat × Bool := ((x.mism.find? fun e => decide (e.1 = x.frame)).map (·.2)).getD (0, false)

/-- The mismatches of the frame in progress replaced; none when n is 0. -/
def Partition.setMism (x : Partition) (n : Nat) (miss : Bool) : Partition :=
  { x with mism := x.mism.filter (fun e => decide (e.1 ≠ x.frame)) ++ (if n = 0 then [] else [(x.frame, n, miss)]) }

/-- The decision of R309 takes effect at the boundary that begins the fifth execution. -/
def persistent (p : Nat) (s : State) : State :=
  let x := s.part p
  let op := if x.mismOf.2 then autoFence else autoRetire
  addChange p { m := x.frame, opcode := op, armed := true, ready := true, lateAt := none, ctx := none, arg := retiringSide s x } s

/-- SIGNATURE_COMPARE (R308, R309): each frame counts its own mismatches, from its first execution on. -/
def execSignatureCompare (part : Fin 4) (s : State) : Res :=
  let p := part.val
  let x := s.part p
  .next (if s.pend.st ≠ .lockstep ∨ !s.inStage p 48 51 (fun h => decide (1 ≤ h) && decide (h < 48)) then s
    else if sigMismatch x then
      let (n, before) := if x.replay then x.mismOf else (0, false)
      let next := if x.replay && decide (n = 0) then 0 else n + 1
      let s1 := bump 0xD 0 1 (s.setPart p { x.setMism next (x.peerSigf.isNone || before) with hstage := 48 })
      let s2 := replayVeto p (logEvent { cause := St.sigMismatch, sub := 0xD, sev := 1, part := p } (s.jsOf p) [] s1)
      if next = 4 then persistent p s2 else s2
    else s.setPart p { x.setMism 0 false with hstage := 48 })

/-- Incomplete responses at the sampling point raise the hold of R223; the record names the channel, and whether a migration (bit 0) or
walks (bit 1: a tag of a quadrant's walker, INIT 44 to 47, is outstanding) were active (R231, log entry 4). -/
def completeness (p : Nat) (s : State) : State :=
  let x := s.part p
  match x.reqs.find? fun q => decide (q.frame = x.frame) && q.pending with
  | none => s
  | some q =>
    let ch := lineChannel (q.paddr / 64)
    let moving := match smGet none s.dram.migr ch with | some m => m.started | none => false
    let walks := (keysIn s.noc.tags (44 * 64) 256).any fun e => decide (e.2 ≠ 0)
    raiseHold p St.admitOverrun ch (logRec { cause := St.admitOverrun, sub := 0x7, sev := 2, part := p, loc := ch, detail := bitNat moving + 2 * bitNat walks } s)

/-- The frame breaks (R54): a BRK of a replay counts only when its first execution did not break. -/
def Partition.breaks (x : Partition) : Bool := x.brkNow && !(x.replay && x.broke.contains x.frame)

/-- The vetoes of frame k of a partition, with the hold conditions that stand, are sent (R33, R371); a break of a scope of one
device pauses it at the next tick (R54). -/
def sampleVetoes (p : Nat) (s : State) : State :=
  let x := s.part p
  let mine := x.vetoes.filter fun v => !frameBefore x.frame v.1
  let standing := x.holds.any fun h => !h.resolved
  let brk := x.breaks
  let s1 := s.setPart p { x with
    hstage := 52, vetoes := x.vetoes.filter (fun v => frameBefore x.frame v.1), sampled := x.sampled ++ [(x.frame, s.cnt)]
    broke := if brk then x.broke ++ [x.frame] else x.broke }
  let s2 := if brk ∧ s.isSingle p then armPause p { m := x.frame + 1, d := 0, owner := .brk } s1 else s1
  if mine ≠ [] ∨ standing ∨ brk then offerVeto p x.frame (standing || mine.any (·.2)) brk (standing || !mine.isEmpty) s2 else s2

/-- VETO_SAMPLING_POINT (R33, R96, R223, R371): h 52. -/
def execVetoSamplingPoint (part : Fin 4) (s : State) : Res :=
  let p := part.val
  .next (if s.inStage p 52 52 (fun h => decide (1 ≤ h) && decide (h < 52)) then sampleVetoes p (completeness p s) else s)

/-- A change of the next frame that some unit has not armed is late (R375): its veto is charged to that frame. Units that have become ready
since the latch report armed at once (Table 17.4). -/
def lateChange (p : Nat) (s : State) (c : ModeChange) : State :=
  let x := s.part p
  let s1 := s.setPart p { x with changes := x.changes.map fun d => if d = c then { d with lateAt := some s.clk.now } else d }
  let s2 := raiseHold p St.armLate c.opcode (logRec { cause := St.armLate, sub := 0xC, sev := 2, part := p, detail := c.opcode } s1)
  if c.ready then changeReady p c.opcode c.arg s2 else s2

/-- BANK_CLEAR (R35, R375): the bank of frame n+1 is cleared; a late change of frame n+1 is vetoed. -/
def execBankClear (part : Fin 4) (s : State) : Res :=
  let p := part.val
  .next (if s.inStage p 53 60 (fun h => decide (h = 52)) then
      let x := s.part p
      let s1 := clearBanks p [(x.frame.toNat + 1) % 4] (s.setPart p { x with hstage := 53 })
      (x.changes.filter fun c => decide (c.m = x.frame + 1) && !c.armed && c.lateAt.isNone).foldl (lateChange p) s1
    else s)

/-- The frame-constants row of frame k (Table 2.2a). -/
def constRow (k : FrameNo) (replay : Bool) : BitVec 64 :=
  BitVec.ofNat 64 (2 + 4 * bitNat (decide (k = 0)) + 8 * bitNat replay + 256 * (k.toNat % 65536))

/-- The two response rows of a request, staged by the given physical cluster (R74, Table 3.7): FWD says that another one issued it. -/
def responseRows (host : Nat) (q : Request) : List (Nat × BitVec 64) :=
  match q.resp with
  | some (d, err) =>
    let row := 1536 + 32 * q.port + 2 * q.r
    let data := if err then 0 else d
    [(row, data.extractLsb' 0 64), (row + 1, BitVec.ofNat 64 (data.toNat / 2 ^ 64 + 256 * bitNat (!err) + 512 * bitNat err + 1024 * bitNat (q.fwd || decide (host ≠ q.pcl))))]
  | none => []

/-- Rows of one logical cluster for frame m, staged at the physical cluster that will host it (R74, R75, R98, R104). -/
def stageCluster (p : Nat) (m : FrameNo) (s : State) (lcl pcl : Nat) : SMap (BitVec 64) :=
  let x := s.part p
  let host := (s.hostIn p lcl m).getD pcl
  let due := fun late : Bool => x.reqs.filter fun q => decide (q.lcl = lcl) && q.arrived && q.wantsData && (if late then q.late else decide (q.frame = x.frame) && !q.late)
  let resp := (due true ++ due false).flatMap fun q => (responseRows host q).map fun r => (prKey host q.rgrp r.1, r.2)
  let held := (List.range 64).map fun i => (prKey host (i / 4) (1664 + i % 4), s.portRow pcl (i / 4) (1664 + i % 4))
  let mail := (x.mailbox.filter fun w => decide (w.lcl = lcl) && decide (w.m = m)).map fun w => (prKey host w.grp (1664 + w.row), w.value)
  let consts := (List.range 16).map fun g => (prKey host g 2047, constRow m (x.inSeq m))
  smPutAll 0#64 [] (resp ++ held ++ mail ++ consts)

/-- The rows of every logical cluster for frame m are staged. -/
def stageRows (p : Nat) (m : FrameNo) (s : State) : State :=
  (s.part p).pmap.foldl (fun a e => { a with arr := { a.arr with prNext := smPutAll 0#64 a.arr.prNext (stageCluster p m s e.1 (e.2 - 1)) } }) s

/-- ROW_STAGING (R31, R98, R223): h 61 and 62. -/
def execRowStaging (part : Fin 4) (s : State) : Res :=
  let p := part.val
  .next (if s.inStage p 61 62 (fun h => decide (h = 53)) then
      let x := s.part p
      let s1 := stageRows p (x.frame + 1) s
      s1.setPart p { x with reqs := x.reqs.map (fun q => { q with late := false }), hstage := 61, stagedTop := if frameBefore x.stagedTop (x.frame + 1) then x.frame + 1 else x.stagedTop }
    else s)

/-- GO_NO_GO (R34): h 63; the go of the next frame is missing when a change effective there is not armed. -/
def execGoNoGo (part : Fin 4) (s : State) : Res :=
  let p := part.val
  .next (if s.inStage p 63 63 (fun h => decide (h = 61)) then
      let x := s.part p
      s.setPart p { x with hstage := 63, noGo := x.changes.any fun c => decide (c.m = x.frame + 1) && !c.armed }
    else s)

/-! ### Beyond replay (R39) -/

/-- Insertion of a commit by key. -/
def insertCommit (c : Commit) : List Commit → List Commit
  | [] => [c]
  | d :: l => if earlier c.frame c.key d.frame d.key then c :: d :: l else d :: insertCommit c l

/-- What frame f going beyond replay releases in its partition (R44, R47, R97, R98). -/
def releaseFrame (f : FrameNo) (x : Partition) : Partition :=
  let old := fun k : FrameNo => !frameBefore f k
  { x with
    sampled := x.sampled.filter (fun e => !old e.1), beyond := f.toNat + 1, mism := x.mism.filter (fun e => !old e.1)
    staged := x.staged.filter (fun c => !old c.frame)
    history := x.history.filter (fun h => decide (x.tickOf (f + 1) ≤ h.1 + x.lin)), broke := x.broke.filter (fun k => !old k)
    replayCount := if x.replayCount.1 = f then (f, 0) else x.replayCount, applied := x.applied.filter (fun c => frameBefore (f + 1) c.m)
    forceErr := x.forceErr.filter (fun e => !old e.1), unrecorded := x.unrecorded.filter (fun e => !old e.1)
    cancels := x.cancels.filter (fun c => !old c.1), mailbox := x.mailbox.filter (fun w => !old w.m), reqs := x.reqs.filter (fun q => !old q.frame) }

/-- Migrations whose frame m-1 is beyond replay end: the mirror stops and P becomes a spare (Table 4.8). -/
def releaseMigrations (p : Nat) (f : FrameNo) (s : State) : State :=
  (List.range 4).foldl (fun a d => match a.migration d with
    | some g => if g.part = p ∧ g.switched ∧ !frameBefore (f + 1) g.m then a.setMigration d none else a
    | none => a) s

/-- BEYOND_REPLAY (R39, R224): D × F steps after the earliest sampling point not yet passed; the frame's writes drain to DRAM in
key order. The timing stands still while the device coasts (R391). -/
def execBeyondReplay (part : Fin 4) (s : State) : Res :=
  let p := part.val
  let x := s.part p
  .next (match x.sampled with
    | [] => s
    | (f, t) :: _ =>
      if s.clk.coast ∨ s.cnt < t + x.depth * x.frameLen then s
      else
        let mine := fun c : Commit => decide (c.part = p) && !frameBefore f c.frame
        let out := (s.dram.commits.filter mine).foldl (fun l c => insertCommit c l) []
        let s1 : State := { s with dram := { s.dram with commits := s.dram.commits.filter (fun c => !mine c), draining := s.dram.draining ++ out } }
        finishUnload p (releaseMigrations p f (fillMerge (s1.setPart p (releaseFrame f x)))))

/-! ### Replay and restart ticks (R45, R52) -/

/-- History bits of the L_in steps before the boundary at step base go out at their offsets before step g (R44, R45). They stand in the
history of the tick at g from then on, so that a later replay or restart of that tick finds them. -/
def reinject (p base g : Nat) (s : State) : State :=
  let x := s.part p
  let hits := (x.history.filter fun h => decide (h.1 < base) && decide (base ≤ h.1 + x.lin)).map fun h => (g - (base - h.1), h.2)
  let s1 := s.setPart p { x with history := x.history.filter (fun h => decide (h.1 + x.lin < g)) ++ hits }
  { s1 with arr := { s1.arr with sxTx := smPutAll false s1.arr.sxTx (hits.map fun h => ((h.1 + 16) * 9216 + h.2, true)) } }

/-- The staged rows of a replayed frame are restored, with its replay flag (R31, R45). -/
def restoreRows (p : Nat) (k : FrameNo) (s : State) : State :=
  let x := s.part p
  match x.copyOf k with
  | none => stageRows p k s
  | some c =>
    let consts := x.pcls.flatMap fun pcl => (List.range 16).map fun g => (prKey pcl g 2047, constRow k true)
    { s with arr := { s.arr with prNext := smPutAll 0#64 (smPutAll 0#64 s.arr.prNext c.rows) consts } }

/-- The lead-in of the placed tick begins. -/
def leadIn (p g : Nat) (k : FrameNo) (isReplay : Bool) (s : State) : State :=
  let x := s.part p
  let base := match x.pausedAt with
    | some (_, _, b, _) => if isReplay then x.tickOf k else b
    | none => x.tickOf k
  let s1 := reinject p base g (s.setPart p { x with phase := .leadIn })
  if isReplay || x.inSeq k then restoreRows p k s1 else s1

/-- LEAD_IN_START (R45, R52): L_in steps before a placed replay tick, or restart tick of a resumed pause. -/
def execLeadInStart (part : Fin 4) (s : State) : Res :=
  let p := part.val
  let x := s.part p
  .next (match x.nextTick with
    | some (g, k, r) =>
      if s.stepping ∧ s.cnt + x.lin = g ∧ ((r ∧ x.phase = .drain) ∨ (!r ∧ x.phase = .paused)) then leadIn p g k r s else s
    | none => s)

/-- PAUSE_EXPIRY (R52): a pause of d frames ends and its lead-in begins. -/
def execPauseExpiry (part : Fin 4) (s : State) : Res :=
  let p := part.val
  let x := s.part p
  .next (match x.nextTick, x.pausedAt with
    | some (g, k, false), some (_, _, _, d) => if s.stepping ∧ 0 < d ∧ s.cnt + x.lin = g ∧ x.phase = .paused then leadIn p g k false s else s
    | _, _ => s)

/-- Commands that wait for a release complete at the tick of its replay, those that wait for a restart at its tick (R53, R347). -/
def completeResumes (p : Nat) (restart : Bool) (s : State) : State :=
  let x := s.part p
  let all := x.releaseCtx ++ (if restart then x.resumeCtx else [])
  all.foldl (fun a c => complete c St.ok [] a) (s.setPart p { x with releaseCtx := [], resumeCtx := if restart then [] else x.resumeCtx })

/-- REPLAY_TICK (R45, R52): at the placed step the frame begins; a restart ends its pause. -/
def execReplayTick (part : Fin 4) (s : State) : Res :=
  let p := part.val
  let x := s.part p
  .next (match x.nextTick with
    | some (g, k, r) =>
      if s.stepping ∧ s.cnt = g ∧ x.phase = .leadIn then
        let s1 := completeResumes p (!r) s
        let y := s1.part p
        let s2 := s1.setPart p { y with pausedAt := if r then y.pausedAt else none, restart := if r then y.restart else none }
        refreshDigest (beginFrame p k true s2)
      else s
    | none => s)

end Sys2Proof.Machine
end

