-- ==== Sys2Proof/Machine/Block.lean ====
section
/-!
DEFINITION. Block.lean: the 80-bit block of the system-exchange and pendant lanes: CRC-6 and scrambler (R130), headers (R129),
control content (Tables 6.4, 6.5), and the pattern polynomials (R151).
-/
namespace Sys2Proof.Machine

/-- The low n bits of v, most significant first. -/
def bitsMsb (n v : Nat) : List Bool := (List.range n).map fun i => natBit v (n - 1 - i)

/-- The number that bits spell, most significant first. -/
def natMsb (l : List Bool) : Nat := l.foldl (fun a b => 2 * a + bitNat b) 0

/-- One bit through the CRC-6 register: x^6 + x + 1, CRC[5] the coefficient of x^5. -/
def crc6Bit (r : Nat) (b : Bool) : Nat := if natBit r 5 = b then 2 * r % 64 else (2 * r % 64) ^^^ 3

/-- CRC-6 over the header and the scrambled payload, bits 79 down to 6 (R130). -/
def crc6 (hdr payload : Nat) : Nat := (bitsMsb 74 (hdr * 2 ^ 72 + payload)).foldl crc6Bit 63

/-- One payload bit scrambled: x^58 + x^39 + 1, the register holding the last 58 bits sent, the newest in bit 0. -/
def scrambleBit (a : List Bool × Nat) (b : Bool) : List Bool × Nat :=
  let o := (b != natBit a.2 38) != natBit a.2 57
  (a.1 ++ [o], (2 * a.2 + bitNat o) % 2 ^ 58)

/-- A payload scrambled, and the register after it. -/
def scramble (scr : BitVec 58) (payload : BitVec 72) : BitVec 72 × BitVec 58 :=
  let r := (bitsMsb 72 payload.toNat).foldl scrambleBit ([], scr.toNat)
  (BitVec.ofNat 72 (natMsb r.1), BitVec.ofNat 58 r.2)

/-- One received bit descrambled; the register takes the received bit. -/
def descrambleBit (a : List Bool × Nat) (b : Bool) : List Bool × Nat :=
  (a.1 ++ [(b != natBit a.2 38) != natBit a.2 57], (2 * a.2 + bitNat b) % 2 ^ 58)

/-- A payload descrambled, and the register after it. -/
def descramble (scr : BitVec 58) (payload : BitVec 72) : BitVec 72 × BitVec 58 :=
  let r := (bitsMsb 72 payload.toNat).foldl descrambleBit ([], scr.toNat)
  (BitVec.ofNat 72 (natMsb r.1), BitVec.ofNat 58 r.2)

/-- HDR of a data block. -/
abbrev hdrData : Nat := 1
/-- HDR of a control block. -/
abbrev hdrControl : Nat := 2

/-- A block from its header and payload (Table 6.3), and the scrambler after it. -/
def buildBlock (hdr : Nat) (payload : BitVec 72) (scr : BitVec 58) : Block × BitVec 58 :=
  let (p, r) := scramble scr payload
  (BitVec.ofNat 80 ((hdr * 2 ^ 72 + p.toNat) * 64 + crc6 hdr p.toNat), r)

/-- HDR of a block. -/
def blockHdr (b : Block) : Nat := b.toNat / 2 ^ 78
/-- Scrambled payload of a block. -/
def blockPayload (b : Block) : BitVec 72 := b.extractLsb' 6 72
/-- The block's CRC-6 is that of its header and payload. -/
def blockCrcOk (b : Block) : Bool := decide (b.toNat % 64 = crc6 (blockHdr b) (blockPayload b).toNat)
/-- The header is 0b01 or 0b10. -/
def hdrValid (h : Nat) : Bool := decide (h = 1) || decide (h = 2)

/-- Payload of a control block (R131). -/
def controlPayload (ctype content : Nat) : BitVec 72 := BitVec.ofNat 72 (ctype * 2 ^ 64 + content % 2 ^ 64)

/-- TRAIN content (Table 6.4). -/
def trainContent (addr lid : Nat) (bicOk eqDone rxLock : Bool) : Nat :=
  addr * 2 ^ 48 + lid * 2 ^ 40 + 4 * bitNat bicOk + 2 * bitNat eqDone + bitNat rxLock

/-- LREQ content (Table 6.4). -/
def lreqContent (op width lanes seq start : Nat) : Nat :=
  op * 2 ^ 60 + width * 2 ^ 56 + lanes * 2 ^ 48 + seq * 2 ^ 32 + start % 65536

/-- CAL content (Table 6.5). -/
def calContent (addr port lane scope f cls step : Nat) : Nat :=
  addr * 2 ^ 48 + port * 2 ^ 44 + lane * 2 ^ 41 + scope % 2048 * 2 ^ 30 + (f / 16 - 1) * 2 ^ 18 + cls * 2 ^ 16 + step % 65536

/-- CALB content (Table 6.4). -/
def calbContent (bic scope : Nat) : Nat := bic * 2 ^ 48 + scope / 2048 % 32 * 2 ^ 43

/-- Taps of a pattern polynomial (R151): length and the second tap. -/
def prbsTaps (g : Nat) : Nat × Nat := if g = 1 then (7, 6) else if g = 2 then (15, 14) else (31, 28)

/-- The next bit of a pattern whose last bits are r, newest in bit 0. -/
def prbsNext (g r : Nat) : Bool := natBit r ((prbsTaps g).1 - 1) != natBit r ((prbsTaps g).2 - 1)

/-- n bits of a pattern, first bit most significant, and the register after them. DEDUCED: all three sequences are sent as their polynomials
give them, non-inverted (log entry 78). -/
def prbsBits (g : Nat) : Nat → Nat → List Bool → List Bool × Nat
  | 0, r, acc => (acc, r)
  | n + 1, r, acc => prbsBits g n ((2 * r + bitNat (prbsNext g r)) % 2 ^ 31) (acc ++ [prbsNext g r])

/-- Bits of a block or character that a burst flips: from position pos on in transmission order, in which the highest bit is the first
(R153). -/
def flipMask (len pos : Nat) : Nat := (2 ^ min len (pos + 1) - 1) * 2 ^ (pos + 1 - min len (pos + 1))

/-- What is left of a burst after the unit of w bits that it began in: it goes on with the first bit of the next (log entry 70). -/
def burstRest (w len pos : Nat) : Option (Nat × Nat × Option Nat) := if len ≤ pos + 1 then none else some (len - (pos + 1), w - 1, none)

end Sys2Proof.Machine
end

