-- ==== Sys2Proof/Machine/Coding.lean ====
section
/-!
DEFINITION. Coding.lean: how bits become symbols on a lane: PAM4 levels (R129), the 8b/10b code with the special symbols of Table 6.6
(R135), the CRC-8 and the layout of the sequences that start with one (R367, R370, R385), and the CRC-32 of the board table (R140).
-/
namespace Sys2Proof.Machine

/-! ### PAM4 (R129) -/

/-- Level of two consecutive bits, the earlier the more significant: 00, 01, 11, 10 are levels 0 to 3. -/
def pam4Level (v : Nat) : Nat := if v = 0 then 0 else if v = 1 then 1 else if v = 3 then 2 else 3

/-- The 40 symbols of a block, bits 79 and 78 first. -/
def pam4 (b : Block) : List Nat := (List.range 40).map fun i => pam4Level (natBits b.toNat (78 - 2 * i) 2)

/-! ### 8b/10b (R135). PRESUMED: the spec names the code and prints none of its groups; they are the published ones (log entry 68). -/

/-- Number of ones in the low n bits. -/
def ones (n v : Nat) : Nat := (onesOf v n).length

/-- The six-bit groups of D.0 to D.31 at negative disparity, the bit sent first most significant. -/
def groups6 : List Nat := [
  0b100111, 0b011101, 0b101101, 0b110001, 0b110101, 0b101001, 0b011001, 0b111000,
  0b111001, 0b100101, 0b010101, 0b110100, 0b001101, 0b101100, 0b011100, 0b010111,
  0b011011, 0b100011, 0b010011, 0b110010, 0b001011, 0b101010, 0b011010, 0b111010,
  0b110011, 0b100110, 0b010110, 0b110110, 0b001110, 0b101110, 0b011110, 0b101011]
/-- The four-bit groups of a data character at negative disparity. -/
def groups4 : List Nat := [0b1011, 0b1001, 0b0101, 0b1100, 0b1101, 0b1010, 0b0110, 0b1110]
/-- The four-bit groups of a special symbol at negative disparity. -/
def groups4K : List Nat := [0b1011, 0b0110, 0b1010, 0b1100, 0b1101, 0b0101, 0b1001, 0b0111]

/-- Disparity after a group of n bits: it turns when the group does not hold as many ones as zeros; true is positive. -/
def flipsTo (n v : Nat) (rd : Bool) : Bool := if 2 * ones n v = n then rd else !rd

/-- Six-bit group of a character at a disparity. -/
def code6 (special : Bool) (x : Nat) (rd : Bool) : Nat :=
  let v := if special && decide (x = 28) then 0b001111 else nth 0 groups6 x
  if rd && (decide (ones 6 v ≠ 3) || decide (x = 7)) then 63 ^^^ v else v

/-- Four-bit group of a character at the disparity its six-bit group leaves; D.x.7 has an alternate that avoids runs of five. -/
def code4 (special : Bool) (x y : Nat) (rd : Bool) : Nat :=
  if special then (let v := nth 0 groups4K y; if rd then 15 ^^^ v else v)
  else
    let alt := decide (y = 7) && (if rd then [11, 13, 14] else [17, 18, 20]).contains x
    let v := if alt then 0b0111 else nth 0 groups4 y
    if rd && (decide (ones 4 v ≠ 2) || decide (y = 3)) then 15 ^^^ v else v

/-- The ten bits of a byte as data or special symbol at a disparity, the bit sent first most significant. -/
def code10 (special : Bool) (b : Nat) (rd : Bool) : Nat :=
  let x := b % 32
  let c := code6 special x rd
  c * 16 + code4 special x (b / 32) (flipsTo 6 c rd)

/-- Bytes of the special symbols of Table 6.6: K28.0, K28.2, K28.3, K28.5, K27.7, K29.7, K30.7. -/
def specials : List Nat := [0x1C, 0x5C, 0x7C, 0xBC, 0xFB, 0xFD, 0xFE]

/-- K28.5: comma and idle fill. -/
abbrev comma : LinkChar := .k 0xBC
/-- K30.7: error. -/
abbrev errorChar : LinkChar := .k 0xFE

/-- A character's ten bits; one received with a code error goes on as K30.7 (R138). -/
def encodeChar (c : LinkChar) (rd : Bool) : Nat :=
  match c with
  | .data b => code10 false b.toNat rd
  | .k b => code10 true b.toNat rd
  | .bad => code10 true 0xFE rd

/-- Running disparity after ten bits: it follows the surplus, whether or not they spell a character. -/
def disparityAfter (c : Nat) (rd : Bool) : Bool := if 5 < ones 10 c then true else if ones 10 c < 5 then false else rd

/-- The character that ten received bits spell; a reserved special symbol, an invalid group and one of the wrong disparity are code
errors (R135). -/
def decodeChar (c : Nat) (rd : Bool) : LinkChar :=
  match (List.range 256).find? fun b => decide (code10 false b rd = c) with
  | some b => .data (BitVec.ofNat 8 b)
  | none => match specials.find? fun b => decide (code10 true b rd = c) with
    | some b => .k (BitVec.ofNat 8 b)
    | none => .bad

/-! ### Sequences and packets on a control link -/

/-- One bit through the CRC-8 register: x^8 + x^2 + x + 1 (R367). -/
def crc8Bit (r : Nat) (b : Bool) : Nat := if natBit r 7 = b then 2 * r % 256 else (2 * r % 256) ^^^ 7
/-- CRC-8 of bytes: preset 0xFF, no reflection, no final inversion (R367). -/
def crc8 (l : List Byte) : Nat := (l.flatMap fun b => bitsMsb 8 b.toNat).foldl crc8Bit 255

/-- A sequence: its special symbol, its data characters and their CRC (R367, R370, R385). -/
def sequenceChars (start : Byte) (content : List Byte) : List LinkChar :=
  .k start :: (content ++ leBytes 1 (crc8 content)).map LinkChar.data

/-- Data characters of a scope marker (Table 17.2). -/
def markerContent (type scope frame arg : Nat) : List Byte := leBytes 1 type ++ leBytes 2 scope ++ leBytes 3 frame ++ leBytes 4 arg
/-- A scope marker (Table 17.2). -/
def markerChars (type scope frame arg : Nat) : List LinkChar := sequenceChars 0x1C (markerContent type scope frame arg)
/-- Data characters of a Horizon mark (R370). -/
def horizonContent (scope frame step : Nat) : List Byte := leBytes 2 scope ++ leBytes 3 frame ++ leBytes 4 step
/-- A Horizon mark (R370). -/
def horizonChars (scope frame step : Nat) : List LinkChar := sequenceChars 0x7C (horizonContent scope frame step)
/-- Data characters of a time-sync sequence (Table 18.1). -/
def timeSyncContent (type seq ta tb st state : Nat) : List Byte :=
  leBytes 1 type ++ leBytes 1 seq ++ leBytes 8 ta ++ leBytes 8 tb ++ leBytes 8 st ++ leBytes 1 state
/-- A time-sync sequence (Table 18.1). -/
def timeSyncChars (type seq ta tb st state : Nat) : List LinkChar := sequenceChars 0x5C (timeSyncContent type seq ta tb st state)

/-- The check of a received sequence: its characters' code, then the CRC-8 of its data characters (R138, R367). -/
def sequenceCheck (coded : Bool) (crc : Byte) (content : List Byte) : SeqCheck :=
  if coded then .coded else if crc8 content = crc.toNat then .good else .badCrc

/-- The check of a received marker of a TYPE (R367). -/
def markerCheck (type : Nat) (m : Marker) : SeqCheck := sequenceCheck m.coded m.crc (markerContent type m.scope.toNat m.frame.toNat m.arg.toNat)

/-- A framed packet (R332). -/
def packetChars (l : List LinkChar) : List LinkChar := .k 0xFB :: (l ++ [.k 0xFD])

/-- Characters that follow a special symbol in its sequence. -/
def sequenceRest (b : Byte) : Nat := if b = 0x1C then 11 else if b = 0x7C then 10 else if b = 0x5C then 28 else 0

/-- Every inserted sequence and comma is removed before framing (R137); n characters of a sequence are still to come. -/
def removeInserted : Nat → List LinkChar → List LinkChar
  | _, [] => []
  | n + 1, _ :: r => removeInserted n r
  | 0, .k b :: r => if b = 0xBC ∨ sequenceRest b ≠ 0 then removeInserted (sequenceRest b) r else .k b :: removeInserted 0 r
  | 0, c :: r => c :: removeInserted 0 r

/-- Byte of a data character. -/
def charByte : LinkChar → Byte
  | .data b => b
  | _ => 0
/-- A character that makes its packet useless: K30.7 or one with a code error (R138). -/
def spoils : LinkChar → Bool
  | .data _ => false
  | _ => true

/-! ### CRC-32 (R140) -/

/-- One bit through the CRC-32 register of IEEE 802.3, reflected. -/
def crc32Bit (r : Nat) (b : Bool) : Nat := if natBit r 0 = b then r / 2 else (r / 2) ^^^ 0xEDB88320
/-- CRC-32 of bytes, least significant bit first, preset and final inversion as IEEE 802.3 has them. -/
def crc32 (l : List Byte) : Nat :=
  (l.flatMap fun b => (List.range 8).map fun i => natBit b.toNat i).foldl crc32Bit 0xFFFFFFFF ^^^ 0xFFFFFFFF

end Sys2Proof.Machine
end

