-- ==== Sys2Proof/Machine/Time.lean ====
section
/-!
DEFINITION. Time.lean: the time base: system time (R395), time-sync exchanges (R385 to R387), the alternate
upstream (R389, R390), the servo (R396), and group 0x0B (Table 16.12).
-/
namespace Sys2Proof.Machine

/-- System time: step counter plus the integer part of OFFSET (R395). -/
def State.sysTime (s : State) : U64 := s.clk.count + s.clk.offset

/-- OFFSET with its fraction advances by RATE / 2^32 (R395). -/
def advanceOffset (k : Clock) : Clock :=
  let sum : BitVec 96 := (k.offset ++ k.frac) + k.rate.signExtend 96
  { k with offset := sum.extractLsb' 32 64, frac := sum.extractLsb' 0 32 }

/-- Exchange state of an upstream link: S0 or S7. -/
def State.syncOf (s : State) (link : Nat) : SyncLink := if link = 7 then s.clk.s7 else s.clk.s0

/-- That state replaced. -/
def State.setSync (s : State) (link : Nat) (x : SyncLink) : State :=
  if link = 7 then { s with clk := { s.clk with s7 := x } } else { s with clk := { s.clk with s0 := x } }

/-- The alternate of the current upstream (R389). -/
def State.altLink (s : State) : Nat := if s.clk.upS7 then 0 else 7

/-- The ready flag of the alternate upstream (R389): character sync, a clock within 20 ppm, a latest exchange less
than 2 ms old that found |e| below 0.5 step (e counts 1/64 steps). -/
def State.altReady (s : State) : Bool :=
  let x := s.syncOf s.altLink
  (s.link s.altLink).sync && x.ppmOk && (match x.at_ with | some t => decide (s.clk.now < t + usSteps 2000) | none => false) &&
    decide (x.e.natAbs < 32)

/-- Result of TIME.READ (Table 16.12). -/
def timeData (s : State) : List Byte :=
  leBytes 8 s.clk.count.toNat ++ leBytes 8 s.clk.offset.toNat ++ leBytes 4 s.clk.rate.toNat ++ leBytes 1 (servoCode s.clk.servo) ++
    leBytes 1 (if s.clk.upS7 then 7 else 0) ++ leBytes 1 (bitNat s.clk.coast + 2 * bitNat s.altReady) ++ zeros 1

/-- Entry to holdover also posts the TIME.READ result with CODE OK (R475). -/
def enterServo (v : Servo) (s : State) : State :=
  let s1 := setServo v s
  if v = .holdover ∧ s.clk.servo ≠ .holdover then postEvent St.ok 0xE 0xFF none (timeData s1) s1 else s1

/-- A REQ on an upstream link with the next SEQ and the counter as T1 (R385, R386). -/
def sendReq (link : Nat) (s : State) : State :=
  let x := s.syncOf link
  let t1 := s.clk.count.toNat % 2 ^ 58 * 64
  (s.setSync link { x with seq := x.seq + 1, t1 := some t1 }).emit (.timeSync link 1 (x.seq + 1).toNat t1 0 0 0)

/-- Difference a - b of two timestamp fields, as the nearest signed number of 1/64 steps. -/
def stampDiff (a b : Nat) : Int := toSigned 64 (a + 2 ^ 64 - b % 2 ^ 64)

/-- The nearest integer number of steps to e sixty-fourths (R387). -/
def nearestSteps (e : Int) : Int := (e + 32) / 64

/-- The counter is assigned from an exchange (R387): the nearest integer to counter plus e is loaded and the
interpolator takes the rest. -/
def assignCounter (e : Int) (s : State) : State :=
  { s with clk := { s.clk with
      count := s.clk.count + BitVec.ofInt 64 (nearestSteps e), phase := s.clk.phase + (e - 64 * nearestSteps e), counterOk := true } }

/-- The step clock's phase moves by at most 1/64 step towards e = 0 (R387). -/
def movePhase (e : Int) (s : State) : State :=
  { s with clk := { s.clk with phase := s.clk.phase + (if 0 < e then 1 else if e < 0 then -1 else 0) } }

/-- The device acts as out of step (R370): each running partition logs it, stops at its next boundary, and FAULT_N
is asserted. -/
def outOfStep (p detail : Nat) (s : State) : State :=
  let x := s.part p
  if x.st ≠ .running then s
  else assertFault St.outOfStep (logRec { cause := St.outOfStep, sub := 0xC, sev := 3, part := p, detail := detail }
    (s.setPart p { x with stopNext := true, outStep := true }))

/-- The new values of RATE and OFFSET after a correction of the servo: the spec gives the law's time constant and not
its gains, so both are free values (log entry 8). -/
def servoCorrect (s : State) : State :=
  let (r, s1) := s.draw 32
  let (o, s2) := s1.draw 64
  { s2 with clk := { s2.clk with rate := r, offset := o } }

/-- The servo at a RESP of the current upstream with the error in steps and the parent's state (R396, Table 18.3). -/
def servoStep (err : Int) (parent : Nat) (s : State) : State :=
  let s0 := { s with clk := { s.clk with lastResp := s.clk.now } }
  if parent = 3 then enterServo .free s0
  else if parent = 2 then enterServo .holdover s0
  else
    let inside := decide (err.natAbs ≤ 4)
    let good := if inside then s0.clk.good + 1 else 0
    let s1 := servoCorrect { s0 with clk := { s0.clk with good := good } }
    if !inside then enterServo .acquiring s1
    else if 16 ≤ good ∧ parent = 0 then enterServo .locked s1
    else if s1.clk.servo = .locked then s1
    else enterServo .acquiring s1

/-- The upstream switches to the given link (R390): the interpolator applies the fraction of e last measured there,
both links' markers are accepted for 1 ms, and the servo acquires anew. -/
def switchUpstream (link : Nat) (s : State) : State :=
  let x := s.syncOf link
  enterServo .acquiring { s with clk := { s.clk with
    upS7 := decide (link = 7), phase := s.clk.phase + x.e, dualUntil := s.clk.now + usSteps 1000, dualSeen := [], good := 0 } }

/-- A sequence that fails its check is counted: a bad CRC in MARKS_BAD (R367), a code error in CODE_ERR (R138). -/
def countFailed (link : Nat) (c : SeqCheck) (s : State) : State := if c = .coded then bump 0x4 (136 + link) 3 s else countBad link s

/-- TIME.READ (R356). -/
def execTimeRead (c : CmdCtx) (s : State) : Res :=
  .next (immediate .a 0x0B01 c (fun s => reply c 0x0B01 St.ok (timeData s) s) s)

/-- TIME.ADJUST (R397): sets OFFSET and RATE and clears the fraction. -/
def execTimeAdjust (c : CmdCtx) (offset : U64) (rate rsvd : U32) (s : State) : Res :=
  .next (immediate .p 0x0B02 c (fun s =>
    if rsvd ≠ 0 then reply c 0x0B02 St.argRange [] s
    else reply c 0x0B02 St.ok [] { s with clk := { s.clk with offset := offset, rate := rate, frac := 0 } }) s)

/-- TB0 to TB3 (R399). -/
def tbData (s : State) : List Byte :=
  leBytes 8 (s.sysTime + s.clk.d0).toNat ++ leBytes 8 (s.sysTime + s.clk.d1).toNat ++
    leBytes 8 (s.sysTime + s.clk.d2).toNat ++ leBytes 8 (s.sysTime + s.clk.d3).toNat

/-- Dn after a write of TBn: a value of all ones leaves it unchanged (R399). -/
def newDiff (st d tb : U64) : U64 := if tb = BitVec.allOnes 64 then d else tb - st

/-- TIME.COMPAT (R399, R356): a write requires class P. -/
def execTimeCompat (c : CmdCtx) (op : Byte) (rsvd : BitVec 24) (tb0 tb1 tb2 tb3 : U64) (s : State) : Res :=
  .next (immediate .a 0x0B03 c (fun s =>
    if op = 1 ∧ (classRefusal .p 0x0B03 c.src.toNat s).isSome then reply c 0x0B03 ((classRefusal .p 0x0B03 c.src.toNat s).getD 0) [] s
    else if rsvd ≠ 0 ∨ 1 < op.toNat ∨ (op = 0 ∧ (tb0 ≠ 0 ∨ tb1 ≠ 0 ∨ tb2 ≠ 0 ∨ tb3 ≠ 0)) then reply c 0x0B03 St.argRange [] s
    else
      let st := s.sysTime
      let s1 := if op = 1 then { s with clk := { s.clk with
        d0 := newDiff st s.clk.d0 tb0, d1 := newDiff st s.clk.d1 tb1, d2 := newDiff st s.clk.d2 tb2, d3 := newDiff st s.clk.d3 tb3 } } else s
      reply c 0x0B03 St.ok (tbData s1) s1) s)

/-- TIME_SYNC_SEND (R386): a REQ on the current and on the alternate upstream link that is up. -/
def execTimeSyncSend (s : State) : Res :=
  .next ([0, 7].foldl (fun a l => if (a.link l).up then sendReq l a else a) s)

/-- TIME_SYNC_REQ (R386): a REQ from a child is answered with a RESP that echoes SEQ; one that fails its check is discarded and counted
(R385). -/
def execTimeSyncReq (link : Fin 8) (seq : SyncSeq) (t1 : U64) (s : State) : Res :=
  let check := sequenceCheck seq.coded seq.crc (timeSyncContent 1 seq.seq.toNat t1.toNat 0 0 0)
  .next (if check ≠ .good then countFailed link.val check s
    else if link.val = 0 ∨ link.val = 7 then s
    else s.emit (.timeSync link.val 2 seq.seq.toNat (s.clk.count.toNat % 2 ^ 58 * 64) (s.clk.count.toNat % 2 ^ 58 * 64) s.sysTime.toNat (servoCode s.clk.servo)))

/-- System-exchange and pendant lanes leave OFF once the address is assigned (R141, R297), while PD_SER is on (Table 19.2). -/
def bringUpLanes (s : State) : State :=
  if s.pwr.dom ≠ .run ∧ s.pwr.dom ≠ .idle then s
  else (List.range 136).foldl (fun a n =>
    if (a.lane n).st = .off then a.setLane n { a.lane n with st := .trainEq, since := a.clk.now, attempts := 0 } else a) s

/-- A RESP that answers the REQ outstanding on its link: delay and e (R386), then the interpolator or the out-of-step test, the
counter of an assigned device that had lost it (R392, R398), and the servo. -/
def takeResp (link : Nat) (t1 t2 t3 st t4 parent : Nat) (s : State) : State :=
  let delay := (stampDiff t4 t1 - stampDiff t3 t2) / 2
  let e := stampDiff t2 t1 - delay
  let x := s.syncOf link
  let s1 := s.setSync link { x with t1 := none, e := e, at_ := some s.clk.now }
  if link ≠ s.upLink then s1
  else
    let s2 :=
      if s1.clk.counterOk then (if 64 ≤ e.natAbs then eachPart (fun p => outOfStep p e.natAbs) s1 else movePhase e s1)
      else if s1.arm.assigned ∧ !s1.clk.coast then assignCounter e s1
      else s1
    let err := toSigned 64 (st + (nearestSteps delay).toNat + 2 ^ 64 - s2.sysTime.toNat)
    servoStep err parent s2

/-- TIME_SYNC_RESP (R386): a RESP whose SEQ is that of the outstanding REQ is taken; another is not, nor one that fails its check, which
is counted (R385). -/
def execTimeSyncResp (link : Fin 8) (seq : SyncSeq) (t2 t3 st : U64) (parentState : Byte) (t4 : U64) (s : State) : Res :=
  let check := sequenceCheck seq.coded seq.crc (timeSyncContent 2 seq.seq.toNat t2.toNat t3.toNat st.toNat parentState.toNat)
  .next (if check ≠ .good then countFailed link.val check s
    else if link.val ≠ 0 ∧ link.val ≠ 7 then s
    else match (s.syncOf link.val).t1 with
      | some t1 =>
        if (s.syncOf link.val).seq = seq.seq then takeResp link.val t1 t2.toNat t3.toNat st.toNat t4.toNat parentState.toNat s else s
      | none => s)

/-- SERVO_HOLDOVER (R396): no valid RESP for 16 ms puts a disciplined servo in holdover. -/
def execServoHoldover (s : State) : Res :=
  .next (if s.clk.lastResp + usSteps 16000 ≤ s.clk.now ∧ (s.clk.servo = .locked ∨ s.clk.servo = .acquiring) then enterServo .holdover s else s)

end Sys2Proof.Machine
end

