-- ==== Sys2Proof/Machine/Markers.lean ====
section
/-!
DEFINITION. Markers.lean: the scope markers that carry verdicts, pauses and cancellations (Tables 17.2 and 17.3), their
receipt (R367, R373, R390) and relay (R366), and the timeouts that go with them.
-/
namespace Sys2Proof.Machine

/-! ### Receipt -/

/-- Partition of this device that carries a scope: one that holds a maquette before one that does not (R366). -/
def State.memberOf (s : State) (sc : Nat) : Option Nat :=
  match [0, 1, 2, 3].find? fun p => decide ((s.part p).st ≠ .empty) && decide ((s.part p).scope16 = sc) with
  | some p => some p
  | none => [0, 1, 2, 3].find? fun p => decide ((s.part p).scope ≠ 0) && decide ((s.part p).scope16 = sc)

/-- The member of a scope that runs. -/
def State.runner (s : State) (sc : Nat) : Option Nat :=
  match s.memberOf sc with
  | some p => if (s.part p).st = .running then some p else none
  | none => none

/-- What this device keeps of a scope it relays. -/
def State.relay (s : State) (sc : Nat) : ScopeSt := smGet {} s.arm.relays sc
/-- That state replaced. -/
def State.setRelay (s : State) (sc : Nat) (r : ScopeSt) : State := { s with arm := { s.arm with relays := smSet {} s.arm.relays sc r } }

/-- What this device keeps of a scope: in its member partition, else as a relay. -/
def State.scopeSt (s : State) (sc : Nat) : ScopeSt := match s.memberOf sc with | some p => (s.part p).sc | none => s.relay sc
/-- That state replaced. -/
def State.setScopeSt (s : State) (sc : Nat) (r : ScopeSt) : State :=
  match s.memberOf sc with
  | some p => s.setPart p { s.part p with sc := r }
  | none => s.setRelay sc r

/-- Markers that go down arrive on the current upstream, and for 1 ms after a switch on both (R390). -/
def State.takesDown (s : State) (link : Nat) : Bool :=
  decide (link = s.upLink) || (decide (s.clk.now < s.clk.dualUntil) && (decide (link = 0) || decide (link = 7)))

/-- Markers that go up arrive on child links. -/
def takesUp (link : Nat) : Bool := decide (1 ≤ link) && decide (link ≤ 6)

/-- Earliest frame of a partition that is not beyond replay: the first sampled one; with none, the frame in execution, held, placed for a
replay or paused at, else the one that begins next. -/
def Partition.earliest (x : Partition) : FrameNo :=
  match x.sampled with
  | (f, _) :: _ => f
  | [] =>
    if x.phase = .frame then x.frame
    else match x.heldFrame, x.nextTick, x.pausedAt with
      | some (k, _), _, _ => k
      | none, some (_, k, _), _ => k
      | none, none, some (m, _, _, _) => m
      | none, none, none => x.frame + 1

/-- A lost marker (R373): a running member of a scope of more than one device vetoes with HOLD its earliest frame that is not
beyond replay. -/
def loseMarker (link p : Nat) (s : State) : State :=
  let x := s.part p
  if x.st ≠ .running ∨ s.isSingle p then s
  else
    let k := x.earliest
    let s1 := logRec { cause := St.markerLost, sub := 0xC, sev := 2, part := p, detail := link } s
    let y := s1.part p
    offerVeto p k true false true (s1.setPart p { y with holds := y.holds ++ [{ code := St.markerLost, unit := link, frame := k, resolved := false }] })

/-- TYPE that stands for a sequence whose content failed. -/
abbrev badType : Nat := 0x200

/-- A failed sequence is counted; two in succession are both copies of one (R373). -/
def markBad (link : Nat) (c : SeqCheck) (s : State) : State :=
  let s1 := countFailed link c s
  let l := s1.link link
  match l.lastMark with
  | some (t, ty, _, _, _) =>
    if ty = badType ∧ s.cnt ≤ t + 40 then eachPart (loseMarker link) (s1.setLink link { l with lastMark := none })
    else s1.setLink link { l with lastMark := some (s.cnt, badType, 0, 0, 0) }
  | none => s1.setLink link { l with lastMark := some (s.cnt, badType, 0, 0, 0) }

/-- A sequence equal to the one acted on on its link, within 16 characters (40 steps, R367). -/
def State.repeats (s : State) (link type : Nat) (m : Marker) : Bool :=
  match (s.link link).lastMark with
  | some (t, ty, sc, f, a) => decide (s.cnt ≤ t + 40) && decide (ty = type) && decide (sc = m.scope.toNat) && decide (f = m.frame.toNat) && decide (a = m.arg.toNat)
  | none => false

/-- A marker of a TYPE on a link: from the right side, with its CRC, once per sequence and, while both upstream links are
accepted, once for both (R367, R390). -/
def receive (down : Bool) (link type : Nat) (m : Marker) (body : State → State) (s : State) : State :=
  let l := s.link link
  let key := (type, m.scope.toNat, m.frame.toNat, m.arg.toNat)
  let dual := decide (s.clk.now < s.clk.dualUntil) && down
  if !(if down then s.takesDown link else takesUp link) then s
  else if markerCheck type m ≠ .good then markBad link (markerCheck type m) s
  else if s.repeats link type m then s.setLink link { l with lastMark := none }
  else
    let s1 := s.setLink link { l with lastMark := some (s.cnt, type, m.scope.toNat, m.frame.toNat, m.arg.toNat) }
    if dual ∧ s.clk.dualSeen.contains key then s1
    else body (if dual then { s1 with clk := { s1.clk with dualSeen := s1.clk.dualSeen ++ [key] } } else s1)

/-- A marker goes on down. -/
def passDown (type : Nat) (m : Marker) (s : State) : State := markerDown type m.scope.toNat m.frame.toNat m.arg.toNat s
/-- A marker goes on up. -/
def passUp (type : Nat) (m : Marker) (s : State) : State := markerUp type m.scope.toNat m.frame.toNat m.arg.toNat s

/-! ### Vetoes and verdicts -/

/-- A relay forwards a veto that is new (R371). -/
def relayVeto (m : Marker) (s : State) : State :=
  let sc := m.scope.toNat
  let r := s.relay sc
  let hold := m.arg.getLsbD 0
  let brk := m.arg.getLsbD 1
  let veto := m.arg.getLsbD 2
  if vetoIsNew r m.frame.toNat hold brk veto then
    let s1 := s.setRelay sc (noteVeto m.frame.toNat hold brk veto r)
    passUp 0x01 m { s1 with arm := { s1.arm with vetoes := s1.arm.vetoes + 1 } }
  else s

/-- VETO_MARKER (R371, R38, R54). -/
def execVetoMarker (link : Fin 8) (m : Marker) (s : State) : Res :=
  .next (receive false link.val 0x01 m (fun s =>
    match s.memberOf m.scope.toNat with
    | some p =>
      if s.isRoot p ∧ (s.part p).st ≠ .running then s
      else offerVeto p (nearestFrame (s.part p).current m.frame.toNat) (m.arg.getLsbD 0) (m.arg.getLsbD 1) (m.arg.getLsbD 2) s
    | none => relayVeto m s) s)

/-- A device whose member does not run forgets the vetoes that a verdict for frame k answers, and the CLEARs of the hold before it: it relays
whether or not it is a member (R366). -/
def relayVerdict (m : Marker) (s : State) : State :=
  let sc := m.scope.toNat
  if (s.runner sc).isSome then s else s.setScopeSt sc (afterVerdict m.frame.toNat (s.scopeSt sc))

/-- A REPLAY takes effect at a member: t_v is that of the HOLD it ends, else follows from G (R46). -/
def takeReplay (p : Nat) (m : Marker) (s : State) : State :=
  let x := s.part p
  let k := nearestFrame x.current m.frame.toNat
  let g := nearestStep s.cnt m.arg.toNat
  let tv := match x.heldFrame with | some (_, t) => t | none => g - x.vdown - 2 * x.lin
  let s1 := takeVerdict p k false tv g s
  let y := s1.part p
  s1.setPart p { y with holds := y.holds.filter fun h => !h.resolved }

/-- REPLAY_MARKER (R45, R46, R43). -/
def execReplayMarker (link : Fin 8) (m : Marker) (s : State) : Res :=
  .next (receive true link.val 0x02 m (fun s =>
    let s1 := relayVerdict m (passDown 0x02 m s)
    match s1.runner m.scope.toNat with
    | some p => takeReplay p m s1
    | none => s1) s)

/-- HOLD_MARKER (R48, R43). -/
def execHoldMarker (link : Fin 8) (m : Marker) (s : State) : Res :=
  .next (receive true link.val 0x03 m (fun s =>
    let s1 := relayVerdict m (passDown 0x03 m s)
    match s1.runner m.scope.toNat with
    | some p => takeVerdict p (nearestFrame (s1.part p).current m.frame.toNat) true (nearestStep s1.cnt m.arg.toNat) 0 s1
    | none => s1) s)

/-- A relay sends CLEAR once every member-bearing link has (R372). -/
def relayClear (link : Nat) (m : Marker) (s : State) : State :=
  let sc := m.scope.toNat
  let r := s.scopeSt sc
  let c := if r.clears.contains link then r.clears else r.clears ++ [link]
  if r.bearing.all (c.contains ·) then
    passUp 0x04 m (s.setScopeSt sc { r with clears := c, clearSent := some s.clk.now, cleared := m.frame.toNat })
  else s.setScopeSt sc { r with clears := c }

/-- CLEAR_MARKER (R372). -/
def execClearMarker (link : Fin 8) (m : Marker) (s : State) : Res :=
  .next (receive false link.val 0x04 m (fun s =>
    match s.runner m.scope.toNat with
    | some p =>
      let x := s.part p
      match x.heldFrame with
      | some (k, _) =>
        if k.toNat % 2 ^ 24 ≠ m.frame.toNat ∨ x.sc.clears.contains link.val then s
        else tryClear p (s.setPart p { x with sc := { x.sc with clears := x.sc.clears ++ [link.val] } })
      | none => s
    | none => relayClear link.val m s) s)

/-- A relayed scope's CLEAR goes again when no REPLAY has come within 2 V of it (R373). -/
def resendRelay (s : State) (e : Nat × ScopeSt) : State :=
  match e.2.clearSent with
  | some t =>
    if t + 2 * e.2.v ≤ s.clk.now then markerUp 0x04 e.1 e.2.cleared 0 (s.setRelay e.1 { e.2 with clearSent := some s.clk.now }) else s
  | none => s

/-- Every relayed scope whose CLEAR is due again sends it. -/
def resendRelays (s : State) : State := s.arm.relays.foldl resendRelay s

/-- CLEAR_RESEND_TIMEOUT (R373): no REPLAY within 2 V of the CLEAR that the member, or a scope this device relays, has sent sends it
again. -/
def execClearResendTimeout (part : Fin 4) (s : State) : Res :=
  let p := part.val
  let x := s.part p
  let k := match x.heldFrame with | some (k, _) => k.toNat | none => x.sc.cleared
  .next (resendRelays (match x.sc.clearSent with
    | some t => if t + 2 * x.v ≤ s.clk.now then markerUp 0x04 x.scope16 k 0 (s.setPart p { x with sc := { x.sc with clearSent := some s.clk.now } }) else s
    | none => s))

/-! ### Pauses -/

/-- A PAUSE answers the breaks that went up without a veto. -/
def answerBreaks (r : ScopeSt) : ScopeSt := { r with brks := [] }

/-- Reply of a command whose pause has been placed at boundary m. -/
def pausePlaced (p : Nat) (o : PauseOwner) (m : FrameNo) (s : State) : State :=
  match o with
  | .cmd c => reply c 0x0301 St.accepted (frameData m) s
  | .cast c =>
    let x := s.part p
    reply c 0x0D04 St.accepted (frameData m) (s.setPart p { x with cast := x.cast.map fun a => { a with m := m, placed := true } })
  | .switch c => reply c 0x0406 St.accepted (frameData m) s
  | .step _ | .join | .brk | .device | .remote | .void => s

/-- A PAUSE for boundary m and duration d may answer a request: its duration is the one asked for, and m the frame asked for or, but for a
FRAME.STEP, a later one that the root could still reach (R50, R374). -/
def Asked.fits (a : Asked) (m : FrameNo) (d : Nat) : Bool :=
  decide (a.d = d) && (match a.owner with | .step _ => decide (a.m = m) | _ => decide (a.m = 0) || !frameBefore m a.m)

/-- A pause that answers a request takes effect: at the boundary where the partition stands paused, FRAME.PAUSE replies OK (R347); else it
is armed for its owner. A request that CMD_ABORTED has ended is cancelled again. -/
def answerPause (p : Nat) (standing : Bool) (o : PauseOwner) (m : FrameNo) (d : Nat) (s : State) : State :=
  match standing, o with
  | true, .cmd c => reply c 0x0301 St.ok (frameData m) (setRemaining p d s)
  | true, _ => pausePlaced p o m (setRemaining p d s)
  | false, .void => markerUp 0x0B (s.part p).scope16 m.toNat 0x0301 (armPause p { m := m, d := d, owner := .remote } s)
  | false, _ => pausePlaced p o m (armPause p { m := m, d := d, owner := o } s)

/-- A PAUSE at a member (R374): the request it answers is served; with none a paused partition takes the remaining duration, and another
arms the pause. -/
def takePause (p : Nat) (m : FrameNo) (d : Nat) (s : State) : State :=
  let y := s.part p
  let x : Partition := { y with sc := answerBreaks y.sc }
  let s1 := s.setPart p x
  let standing : Bool := match x.pausedAt with | some (f, _, _, _) => decide (f = m) | none => false
  match x.asked.find? (fun a => a.fits m d) with
  | some a => answerPause p standing a.owner m d (s1.setPart p { x with asked := x.asked.erase a })
  | none =>
    if standing then setRemaining p d s1
    else if x.pauses.any (fun q => decide (q.m = m) && decide (q.d = d)) then s1 else armPause p { m := m, d := d, owner := .remote } s1

/-- PAUSE_MARKER (R50, R374). -/
def execPauseMarker (link : Fin 8) (m : Marker) (s : State) : Res :=
  .next (receive true link.val 0x05 m (fun s =>
    let s1 := passDown 0x05 m s
    match s1.runner m.scope.toNat with
    | some p => takePause p (nearestFrame (s1.part p).current m.frame.toNat) m.arg.toNat s1
    | none => s1.setScopeSt m.scope.toNat (answerBreaks (s1.scopeSt m.scope.toNat))) s)

/-- RESTART_MARKER (R52): the restart tick is placed. -/
def execRestartMarker (link : Fin 8) (m : Marker) (s : State) : Res :=
  .next (receive true link.val 0x06 m (fun s =>
    let s1 := passDown 0x06 m s
    match s1.runner m.scope.toNat with
    | some p =>
      let x := s1.part p
      let k := nearestFrame x.current m.frame.toNat
      if x.pausedAt.isNone ∨ x.restarting then s1 else s1.setPart p (takeRestart k (nearestStep s1.cnt m.arg.toNat) x)
    | none => s1) s)

/-- The root serves a PAUSE_REQ (R374); a paused scope takes the remaining duration (Table 2.6). -/
def servePause (p : Nat) (frame : Nat) (d : Nat) (s : State) : State :=
  let x := s.part p
  match x.pausedAt with
  | some (m, _, _, _) => markerDown 0x05 x.scope16 m.toNat d (setRemaining p d s)
  | none => (rootPause p (if frame = 0 then 0 else nearestFrame x.current frame) d .remote s).2

/-- The root serves a RESUME_REQ: a paused scope restarts, a REPLAY_LIMIT hold is released (R52, R49), and a pending pause whose go has not
been taken is cancelled (Table 2.6). -/
def serveResume (p : Nat) (s : State) : State :=
  let x := s.part p
  if x.replayLimit then releaseLimit p (s.setPart p { x with replayLimit := false, replayCount := ((match x.heldFrame with | some (k, _) => k | none => 0), 0) })
  else if x.pausedAt.isSome then rootRestart p s
  else match x.pauses with
    | q :: _ => if goTaken x q.m ∨ q.owner = .join then s else rootUnpause p q.m s
    | [] => s

/-- The root serves a STEP_REQ: PAUSE for m + c, then RESTART for m (R374). -/
def serveStep (p c : Nat) (s : State) : State :=
  let x := s.part p
  match x.pausedAt with
  | none => s
  | some (m, _, _, _) =>
    let b := m + BitVec.ofNat 48 c
    rootRestart p (markerDown 0x05 x.scope16 b.toNat 0 (armPause p { m := b, d := 0, owner := .remote } s))

/-- A request on a child link is served at the root and passed up elsewhere (R374). -/
def serveRequest (type : Nat) (m : Marker) (serve : Nat → State → State) (s : State) : State :=
  match s.memberOf m.scope.toNat with
  | some p => if s.isRoot p then (if (s.part p).st = .running then serve p s else s) else passUp type m s
  | none => passUp type m s

/-- PAUSE_REQ (R374, R50). -/
def execPauseReq (link : Fin 8) (m : Marker) (s : State) : Res :=
  .next (receive false link.val 0x07 m (serveRequest 0x07 m fun p => servePause p m.frame.toNat m.arg.toNat) s)

/-- RESUME_REQ (R374, R52). -/
def execResumeReq (link : Fin 8) (m : Marker) (s : State) : Res :=
  .next (receive false link.val 0x08 m (serveRequest 0x08 m serveResume) s)

/-- STEP_REQ (R374, R53). -/
def execStepReq (link : Fin 8) (m : Marker) (s : State) : Res :=
  .next (receive false link.val 0x09 m (serveRequest 0x09 m fun p => serveStep p m.arg.toNat) s)

/-! ### Cancellation -/

/-- A change of an opcode effective at m is cancelled and its late unit's hold resolved (R376); a pause ordered by that opcode
is cancelled likewise (Table 2.6). -/
def cancelHere (p : Nat) (m : FrameNo) (opcode : Nat) (s : State) : State :=
  if opcode = 0x0301 then cancelPauses p m s
  else
    let mine := (s.part p).changes.filter fun c => decide (c.m = m) && decide (c.opcode = opcode)
    resolveLate p opcode m (mine.foldl (cancelChange p St.armTimeout) s)

/-- The root orders a cancellation in its scope, ahead of the REPLAY that the resolved hold releases (R376). -/
def rootCancel (p : Nat) (m : FrameNo) (opcode : Nat) (s : State) : State :=
  let x := s.part p
  let s1 := s.setPart p { x with cancels := if opcode = 0x0301 then x.cancels else x.cancels ++ [(m, opcode, false)] }
  cancelHere p m opcode (markerDown 0x0A x.scope16 m.toNat opcode s1)

/-- CANCEL_MARKER (R376, Table 2.6). -/
def execCancelMarker (link : Fin 8) (m : Marker) (s : State) : Res :=
  .next (receive true link.val 0x0A m (fun s =>
    let s1 := passDown 0x0A m s
    match s1.runner m.scope.toNat with
    | some p => cancelHere p (nearestFrame (s1.part p).current m.frame.toNat) (m.arg.toNat % 65536) s1
    | none => s1) s)

/-- CANCEL_REQ (R376). -/
def execCancelReq (link : Fin 8) (m : Marker) (s : State) : Res :=
  .next (receive false link.val 0x0B m (serveRequest 0x0B m fun p s => rootCancel p (nearestFrame (s.part p).current m.frame.toNat) (m.arg.toNat % 65536) s) s)

/-- ARM_TIMEOUT (R376): 80,000,000 steps after its late veto a change is cancelled by the root, or asked to be. -/
def execArmTimeout (part : Fin 4) (s : State) : Res :=
  let p := part.val
  let x := s.part p
  let due := fun c : ModeChange => match c.lateAt with | some t => decide (t + 80000000 ≤ s.clk.now) | none => false
  .next (match x.changes.find? due with
    | none => s
    | some c =>
      if s.isRoot p then rootCancel p c.m c.opcode s
      else
        let again := fun d : ModeChange => if d = c then { d with lateAt := some s.clk.now } else d
        markerUp 0x0B x.scope16 c.m.toNat c.opcode (s.setPart p { x with changes := x.changes.map again }))

/-! ### Horizon marks -/

/-- A mark compared with the member's own tick of its frame (R370). -/
def compareMark (p frame step : Nat) (s : State) : State :=
  let x := s.part p
  let k := nearestFrame x.current frame
  match x.ticks.find? fun e => decide (e.1 = k) with
  | some (_, t) =>
    let s := s.setPart p { x with marksDue := x.marksDue.filter fun d => decide (d ≠ k) }
    if t % 2 ^ 32 = step then s else outOfStep p (step * 2 ^ 32 + t % 2 ^ 32) s
  | none => s

/-- A failed mark stands for the youngest that its scope's member awaits: that one is not counted again as absent (R370, log entry 32). -/
def markFailed (sc : Nat) (s : State) : State :=
  match s.runner sc with
  | some p => s.setPart p { s.part p with marksDue := (s.part p).marksDue.dropLast }
  | none => s

/-- HORIZON_MARK (R370): relayed on the member-bearing links and compared; a failed mark is counted in MARKS_BAD, and one with a code
error, which has no CRC to compare, in CODE_ERR too (R138). -/
def execHorizonMark (link : Fin 8) (scope : U16) (frame : BitVec 24) (step : U32) (crc : Option Byte) (s : State) : Res :=
  let sc := scope.toNat
  let check := sequenceCheck crc.isNone (crc.getD 0) (horizonContent sc frame.toNat step.toNat)
  .next (if !s.takesDown link.val then s
    else if check ≠ .good then markFailed sc (countBad link.val (if check = .coded then countFailed link.val check s else s))
    else
      let bearing := match s.memberOf sc with | some p => (s.part p).sc.bearing | none => (s.relay sc).bearing
      let s1 := bearing.foldl (fun a k => a.emit (.horizonMark k sc frame.toNat step.toNat)) s
      match s1.runner sc with
      | some p => compareMark p frame.toNat step.toNat s1
      | none => s1)

end Sys2Proof.Machine
end

