-- ==== Sys2Proof/Machine/Start.lean ====
section
/-!
DEFINITION. Start.lean: the Start of a scope (R169, R368, R369): the Start checks of Table 7.5, the passes that measure the
scope's latencies, admission (R229, R230), preparation of the banks (R36, R263), and the Start tick.
-/
namespace Sys2Proof.Machine

/-! ### State of a Start, as a member or as a relay -/

/-- A Start sequence of which nothing has happened yet. -/
def newSeq : StartSeq := {
  member := false, ctx := none, requested := false, measureAt := none, downLat := 0, uplat := [], downmax := [], readyFrom := []
  checked := false, sentUp := false, sentDown := false, sentReady := false, prepared := false, paramsDone := false }

/-- The Start sequence of a scope, begun when there is none. -/
def State.startSeq (s : State) (sc : Nat) : StartSeq := (s.scopeSt sc).start.getD newSeq
/-- The Start sequence of a scope replaced. -/
def State.setStart (s : State) (sc : Nat) (q : Option StartSeq) : State := s.setScopeSt sc { s.scopeSt sc with start := q }

/-- This device is the root of a scope. -/
def State.rootOf (s : State) (sc : Nat) : Bool := match s.memberOf sc with | some p => s.isRoot p | none => false

/-- The value of an UPLAT with no member (Table 17.3). -/
abbrev noMember : Nat := 0xFFFFFF

/-! ### Checks 0x10 and 0x11 -/

/-- A table entry in use: kind of its section, targets, index, and its place for the refusal record. -/
structure TableUse where
  kind : Nat
  tgta : Nat
  tgtb : Nat
  index : Nat
  lcl : Nat
  sub : Nat
  pos : Nat
deriving DecidableEq, Repr

/-- Logical cluster that a physical one hosts in a partition. -/
def Partition.lclOf (x : Partition) (pcl : Nat) : Option Nat := (x.pmap.find? fun e => decide (e.2 = pcl + 1)).map (·.1)

/-- Logical cluster of a fabric port position in a partition. -/
def Partition.lclAtPort (x : Partition) (port : Nat) : Option Nat :=
  (x.pmap.find? fun e => decide (fabPort (e.2 - 1) e.1 = port)).map (·.1)

/-- Entries of a cluster table that are in use, by physical cluster. -/
def clusterUses {α : Type} (x : Partition) (m : SMap α) (per kind : Nat) (used : α → Bool) (place : Nat → Nat × Nat) : List TableUse :=
  m.filterMap fun e =>
    match x.lclOf (e.1 / per / 1024), used e.2 with
    | some l, true => some { kind := kind, tgta := l, tgtb := 0, index := e.1 / per % 1024, lcl := l, sub := (place (e.1 % per)).1, pos := (place (e.1 % per)).2 }
    | _, _ => none

/-- Entries of a table by fabric port that are in use. -/
def portUses {α : Type} (x : Partition) (m : SMap α) (per kind : Nat) (used : α → Bool) : List TableUse :=
  m.filterMap fun e =>
    match x.lclAtPort (e.1 / per / 1024), used e.2 with
    | some l, true => some { kind := kind, tgta := l, tgtb := 0, index := e.1 / per % 1024, lcl := l, sub := 0xFF, pos := e.1 % per }
    | _, _ => none

/-- Memory-port descriptors in use. -/
def descUses (x : Partition) (s : State) : List TableUse :=
  s.arr.mport.filterMap fun e =>
    match x.lclOf (e.1 / 64), (descOf e.2).v with
    | some l, true => some { kind := 0xD, tgta := l, tgtb := e.1 / 16 % 4, index := (descOf e.2).step, lcl := l, sub := e.1 / 16 % 4, pos := e.1 % 16 }
    | _, _ => none

/-- Every table entry of a partition that is not idle (R29). -/
def tableUses (x : Partition) (s : State) : List TableUse :=
  let a := s.arr
  let inj := a.inj.filterMap fun e =>
    if mapV e.2 ∧ natBit x.pmask (posPort (e.1 % 9216)) then
      some { kind := 5, tgta := posPort (e.1 % 9216), tgtb := 0, index := e.1 / 9216, lcl := 0xFF, sub := posPort (e.1 % 9216), pos := e.1 % 576 : TableUse }
    else none
  clusterUses x a.routes 1024 2 (fun w => decide (w ≠ 0x0FFF)) (fun r => (r / 64, r % 64)) ++
    clusterUses x a.dxexp 256 3 dxV (fun r => (0xFF, r)) ++ clusterUses x a.sxexp 96 4 sxV (fun r => (0xFF, r)) ++ inj ++
    portUses x a.ej 96 7 mapV ++ portUses x s.fab.fport 1 0xA (fun w => decide (w ≠ 0)) ++ descUses x s

/-- Logical die that a physical one hosts. -/
def Partition.logicalDie (x : Partition) (die : Nat) : Nat :=
  match x.image with
  | some im => (((dieMap im x.dies).find? fun e => decide (e.2 = die)).map (·.1)).getD die
  | none => die

/-- Non-idle micro-instructions of a partition's slices, with the step at which each issues (R210). -/
def sliceUses (x : Partition) (s : State) : List TableUse :=
  s.fab.uops.filterMap fun e =>
    let die := e.1 / 512 / 288
    if x.dies.getLsbD die then
      some { kind := 0xC, tgta := 288 * x.logicalDie die + e.1 / 512 % 288, tgtb := 0, index := 4 * (e.1 % 512), lcl := 0xFF, sub := 0xFF, pos := 0xFFFF : TableUse }
    else none

/-- Highest non-idle table index plus 1, 0 when every table is idle. -/
def highestUse (x : Partition) (s : State) : Nat := (tableUses x s).foldl (fun a u => max a (u.index + 1)) 0

/-- Section index and element unit of a use in the loaded image, the unit counted as FIRST counts it (log entry 17). -/
def usePlace (x : Partition) (u : TableUse) : Nat × Nat :=
  let elem := if u.kind = 0xC then u.index / 4 else if u.kind = 0xD then u.pos else u.index
  let hit := fun e : Section => decide (e.kind = u.kind) && decide (e.tgta = u.tgta) && decide (e.tgtb = u.tgtb) &&
    decide (e.first ≤ elem) && decide (elem < e.first + e.count)
  match x.image.bind fun im => im.indexed.find? fun e => hit e.2 with
  | some e => (e.1, elem)
  | none => (0xFFFF, elem)

/-- Check 0x10 (R27, R29, R40, R210). -/
def checkGeometry (x : Partition) (s : State) : Option Refuse :=
  match x.image with
  | none => none
  | some im =>
    let f := im.e + im.w + 64
    let bad : Refuse := { status := St.frameGeometry, check := 0x10 }
    if im.e < 16 ∨ 512 < im.e ∨ im.e % 16 ≠ 0 ∨ 65008 < im.w ∨ im.w % 16 ≠ 0 ∨ f < 128 ∨ 65536 < f ∨ im.d = 0 ∨ 2 < im.d ∨
        im.lin % 16 ≠ 0 ∨ 1120 < im.lin then some bad
    else
      let late := (tableUses x s ++ sliceUses x s).filter fun u => decide (f ≤ u.index + 64)
      let place := fun u => usePlace x u
      let first := late.foldl (fun (r : Option TableUse) u => match r with
        | none => some u
        | some v => if (place u).1 < (place v).1 ∨ ((place u).1 = (place v).1 ∧ (place u).2 < (place v).2) then some u else some v) none
      first.map fun u => { bad with sect := (place u).1, elem := (place u).2, lcl := u.lcl, sub := u.sub, pos := u.pos }

/-- Check 0x11 (R300): HADDR is the assigned address; in a paired system bits [15:1] only. -/
def checkAddr (x : Partition) (s : State) : Option Refuse :=
  match x.image with
  | none => none
  | some im =>
    let same := if x.paired then decide (im.haddr.toNat / 2 = s.arm.addr.toNat / 2) else decide (im.haddr = s.arm.addr)
    if same then none else some { status := St.imagePlace, check := 0x11 }

/-! ### Check 0x14: admission (R41, R229, R230) -/

/-- V = 1 descriptors of a partition on a channel: how many, and the largest step. -/
def channelLoad (x : Partition) (s : State) (ch : Nat) : Nat × Nat :=
  let mask := fun l p => (x.image.map fun im => smGet 0#8 im.cmask (4 * l + p)).getD 0
  let us := (descUses x s).filter fun u => (mask u.lcl u.sub).getLsbD ch
  (us.length, us.foldl (fun a u => max a u.index) 0)

/-- Sum of 12 n / f over other partitions, as a fraction. -/
def channelUse (others : List Partition) (s : State) (ch : Nat) : Nat × Nat :=
  others.foldl (fun (a : Nat × Nat) x => (a.1 * x.frameLen + 12 * (channelLoad x s ch).1 * a.2, a.2 * x.frameLen)) (0, 1)

/-- Ceiling of a quotient. -/
def ceilDiv (a b : Nat) : Nat := (a + b - 1) / b

/-- Channels a partition uses. -/
def channelsOf (x : Partition) (s : State) : List Nat := (List.range 8).filter fun c => decide (0 < (channelLoad x s c).1)

/-- t[c] of R229, with u[c] below 0.75. -/
def channelTerm (x : Partition) (others : List Partition) (s : State) (c : Nat) : Nat :=
  let (n, last) := channelLoad x s c
  let m := n + others.foldl (fun a y => a + (channelLoad y s c).1) 0
  let (un, ud) := channelUse others s c
  max (ceilDiv (48 * n * ud) (3 * ud - 4 * un)) (last + 4 * m + 213)

/-- Channel of a partition on which u[c] is 0.75 or more. -/
def fullChannel (x : Partition) (others : List Partition) (s : State) : Option Nat :=
  (channelsOf x s).find? fun c => let (un, ud) := channelUse others s c; decide (3 * ud ≤ 4 * un)

/-- The memory-budget minimum and the channel that sets it. -/
def memMin (x : Partition) (others : List Partition) (s : State) : Nat × Nat :=
  let best := (channelsOf x s).foldl (fun (a : Nat × Nat) c => let t := channelTerm x others s c; if a.1 < t then (t, c) else a) (0, 0xFF)
  (roundUp best.1 16, best.2)

/-- The terms of R41 in their order. -/
def minTerms (x : Partition) (others : List Partition) (v : Nat) (s : State) : List Nat :=
  let top := highestUse x s
  [128, x.evalLen + 64, if top = 0 then 0 else roundUp (top + 64) 16, roundUp (ceilDiv v x.depth) 16, (memMin x others s).1]

/-- The minimum of R41 and the first term that sets it. -/
def frameMin (x : Partition) (others : List Partition) (v : Nat) (s : State) : Nat × Nat :=
  let l := minTerms x others v s
  let top := l.foldl max 0
  (top, (l.findIdx? fun t => decide (t = top)).getD 0)

/-- USE of Table 7.9: u[c] in parts in 2^32. -/
def useOf (others : List Partition) (s : State) (c : Nat) : Nat := let (n, d) := channelUse others s c; n * 2 ^ 32 / d

/-- Extra bytes of ADMIT_FULL. -/
def admitExtra (q c : Nat) (others : List Partition) (s : State) : List Byte := leBytes 1 q ++ leBytes 1 c ++ zeros 2 ++ leBytes 4 (useOf others s c)

/-- Extra bytes of FRAME_TOO_SHORT. -/
def shortExtra (fmin term chan : Nat) : List Byte := leBytes 4 fmin ++ leBytes 1 term ++ leBytes 1 (if term = 4 then chan else 0xFF) ++ zeros 2

/-- Partitions other than p that run. -/
def State.othersOf (s : State) (p : Nat) : List Nat := [0, 1, 2, 3].filter fun q => decide (q ≠ p) && decide ((s.part q).st = .running)

/-- A refusal of a Start: status, check and the bytes of the record with its extra content. -/
abbrev StartRefusal := Nat × Nat × List Byte

/-- A refusal without extra content. -/
def plainRefusal (r : Refuse) : StartRefusal := (r.status, r.check, refuseBytes r)

/-- A refusal with extra content. -/
def extraRefusal (status check : Nat) (extra : List Byte) : StartRefusal := (status, check, refuseBytes { status := status, check := check } ++ extra)

/-- Running partition whose minimum would exceed its F with p admitted: the partition and the channel. -/
def raisesOther (p : Nat) (s : State) : Option (Nat × Nat) :=
  firstSome ((s.othersOf p).map fun q =>
    let y := s.part q
    let others := ((s.othersOf q) ++ [p]).map s.part
    match fullChannel y others s with
    | some c => some (q, c)
    | none => let (t, c) := memMin y others s; if y.frameLen < t then some (q, c) else none)

/-- Check 0x14 (R230). -/
def checkAdmit (p : Nat) (v : Nat) (s : State) : Option StartRefusal :=
  let x := s.part p
  let others := (s.othersOf p).map s.part
  match fullChannel x others s with
  | some c => some (extraRefusal St.admitFull 0x14 (admitExtra p c others s))
  | none =>
    let (fmin, term) := frameMin x others v s
    if x.frameLen < fmin then some (extraRefusal St.frameTooShort 0x14 (shortExtra fmin term (memMin x others s).2))
    else match raisesOther p s with
      | some (q, c) => some (extraRefusal St.admitFull 0x14 (admitExtra q c (((s.othersOf q) ++ [p]).map s.part) s))
      | none => none

/-- FMIN_DIFFER is logged when the image's FMIN differs from the partition's minimum alone (R230). -/
def compareFmin (p : Nat) (s : State) : State :=
  let x := s.part p
  match x.image.bind (·.fmin) with
  | some m => if m = (memMin x [] s).1 then s else logRec { cause := St.fminDiffer, sub := 0x7, sev := 5, part := p, detail := m + 2 ^ 32 * (memMin x [] s).1 } s
  | none => s

/-! ### Calibration of a partition's lanes -/

/-- A lane end enters CALIBRATE with nothing measured. -/
def enterCalibrate (n : Nat) (s : State) : State :=
  s.setLane n { s.lane n with
    st := .calibrate, since := s.clk.now, calN := 0, calMax := 0, bicOk := false, peerBicOk := false, calDone := false, calbSeen := false
    peerCalDone := false, calAt := none, peerCalAt := none, bicOver := false, bicPeer := false, resumeAt := none }

/-- Partition whose lanes calibrate and carry data: it runs, starts, or is loaded in a standby. -/
def State.lanesServe (s : State) (x : Partition) : Bool :=
  decide (x.st = .running) || decide (x.st = .starting) || (decide (x.st = .loaded) && s.isStandby)

/-- Lane n carries a partition's port. -/
def State.laneOwner (s : State) (n : Nat) : Option Nat :=
  if 128 ≤ n then none
  else [0, 1, 2, 3].find? fun p => s.lanesServe (s.part p) && natBit (s.part p).pmask (n / 8)

/-- A lane enters READY: one of a starting partition goes on to CALIBRATE. -/
def laneReady (n : Nat) (s : State) : State :=
  let s1 := s.setLane n { s.lane n with st := .ready, since := s.clk.now, attempts := 0 }
  match s1.laneOwner n with
  | some _ => enterCalibrate n s1
  | none => s1

/-- The BIC check of a lane (R120): either end reports BICOK, or the override stands at either end. -/
def Lane.bicPasses (l : Lane) : Bool := l.bicOk || l.peerBicOk || l.bicOver || l.bicPeer

/-- Every lane of the mask has frozen its class. -/
def State.lanesFrozen (s : State) (p : Nat) : Bool :=
  (s.part p).portLanes.all fun n => (s.lane n).calDone && (s.lane n).frozen.isSome && (s.lane n).bicPasses

/-- Extra bytes of LINK_TOPOLOGY (Table 7.9). -/
def topoExtra (own peer lid check : Nat) : List Byte := leBytes 2 own ++ leBytes 2 peer ++ leBytes 1 lid ++ leBytes 1 check ++ zeros 2

/-! ### Lanes in and out of service (R143) -/

/-- A map of a running partition names a receive position of the lane; in a paired system lanes 4 to 7 carry the copies of
lanes 0 to 3 (R107, R143). -/
def State.mapsName (s : State) (n : Nat) : Bool :=
  s.arr.thrReg.any (fun e => mapV e.2 && decide (mapIdx e.2 / 72 = n)) || s.arr.ej.any fun e => mapV e.2 && decide (mapIdx e.2 / 72 = n)

/-- Lane of a port in the first half, which a pair of copies is received for. -/
def baseLane (n : Nat) : Nat := if n % 8 < 4 then n else n - 4
/-- Lane that carries the other copy. -/
def mateLane (n : Nat) : Nat := if n % 8 < 4 then n + 4 else n - 4

/-- A hold of a cause and unit stands unresolved in a partition. -/
def Partition.standing (x : Partition) (code unit : Nat) : Bool := x.holds.any fun h => decide (h.code = code) && decide (h.unit = unit) && !h.resolved

/-- The receive positions of a lane deliver 0 from now on: what was to leave the receive stage later is dropped (R143). -/
def dropDue (n : Nat) (s : State) : State :=
  { s with arr := { s.arr with sxRx := smDrop (fun k => decide (s.cnt ≤ k / 9216) && decide (k % 9216 / 72 = n)) s.arr.sxRx } }

/-- A lane of a running partition has left ACTIVE (R143): its positions deliver 0, and named by a map it raises the hold of Table 2.4;
in a paired system both only when the other copy is out too (Table 5.6). -/
def outOfService (n : Nat) (s : State) : State :=
  match s.laneOwner n with
  | none => dropDue n s
  | some p =>
    let x := s.part p
    let unit := if x.paired then baseLane n else n
    let mate := s.lane (mateLane n)
    let other : Bool := x.paired && decide (mate.st = .active) && mate.lock
    if other then s
    else
      let s1 := dropDue unit s
      if x.st ≠ .running ∨ !s.mapsName unit ∨ x.standing St.laneOut unit then s1 else raiseHold p St.laneOut unit s1

/-! ### The end of a Start -/

/-- An event of a MAQUETTE.SWITCH phase (R349). -/
def phaseEvent (p n : Nat) (s : State) : State :=
  match (s.part p).switch with
  | some w => partEvent St.accepted 0x8 p (leBytes 4 w.ctx.accSeq.toNat ++ leBytes 1 n ++ zeros 3) s
  | none => s

/-- The switch of a partition ends when both its tick and its SAVE have completed (R261): OK, or CAST_LOST's outcome has been
told by its own event and the switch goes on (Table 11.9). -/
def finishSwitch (p : Nat) (s : State) : State :=
  let x := s.part p
  match x.switch with
  | some w => if w.tickDone ∧ w.saveDone then complete w.ctx St.ok [] (s.setPart p { x with switch := none }) else s
  | none => s

/-- The list of SLICE SAVE (R261): the record's slice contexts, under the index that SAVE holds. -/
def queueSliceSave (eng p : Nat) (w : Switch) (r : CastRec) (s : State) : State :=
  let el : DmaElem := { src := 0, dst := BitVec.ofNat 64 w.saddr, len := BitVec.ofNat 32 r.len, dir := 2, rsvd := 0 }
  let s1 := enqueue eng (.switchSave p) none w.oldJsid 0 [el] s
  s1.setLists eng ((s1.lists eng).map fun l => if l.lseq = s.lseq then { l with k := 1, kix := w.oldKix } else l)

/-- A switch fails in a phase (R264): its command completes with SWITCH_FAILED, PHASE and CAUSE; a SAVE that has written its first part goes on
with the slice contexts, which no tick will follow. -/
def failSwitch (p phase cause : Nat) (s : State) : State :=
  let x := s.part p
  match x.switch with
  | some w =>
    let s1 := complete w.ctx St.switchFailed (leBytes 1 phase ++ zeros 1 ++ leBytes 2 cause) (s.setPart p { x with switch := none })
    match x.shadow with
    | some r =>
      if 4 ≤ w.phase ∧ !w.saveVoid ∧ !w.sliced ∧ r.late ≠ [] ∧ (s.engineOf (.switchSave p)).isNone then queueSliceSave (s.pickEngine.getD p) p w r s1 else s1
    | none => s1
  | none => s

/-- A partition leaves STARTING for LOADED; its command completes with the refusal (R169, R369), and a switch whose
START it was fails in that phase (R264). -/
def abortMember (p status : Nat) (bytes : List Byte) (addr : Nat) (s : State) : State :=
  let x := s.part p
  if x.st ≠ .starting then s
  else
    let ctx := x.sc.start.bind (·.ctx)
    let s1 := s.setPart p { x with st := .loaded, startAt := none, refusal := none, sc := { x.sc with start := none } }
    let back := fun (a : State) (n : Nat) =>
      if (a.lane n).st = .calibrate then a.setLane n { a.lane n with st := .down, since := a.clk.now, lock := false, txq := [], frozen := none } else a
    let s2 := x.portLanes.foldl back s1
    failSwitch p 7 status (completeOpt ctx status (bytes ++ leBytes 2 addr) s2)

/-- START_ABORT takes effect here (R369): a member that failed itself reports its own record. DESIGN CHOICE: of another member's failure
START_ABORT carries the check, the address and the status alone, so the record goes without the 8 bytes of Table 7.9 (R165; log
entry 71). -/
def abortHere (sc check addr status : Nat) (s : State) : State :=
  match s.memberOf sc with
  | some p =>
    let x := s.part p
    let bytes := match x.refusal with
      | some (st, b) => if st = status ∧ addr = s.arm.addr.toNat then b else refuseBytes { status := status, check := check }
      | none => refuseBytes { status := status, check := check }
    let s1 := abortMember p status bytes addr s
    s1.setPart p { s1.part p with sc := { (s1.part p).sc with start := none } }
  | none => s.setStart sc none

/-- The root aborts the Start of a scope. -/
def rootAbort (sc check addr status : Nat) (s : State) : State :=
  abortHere sc check addr status (markerDown 0x14 sc check (addr + 65536 * status) s)

/-- This member fails its Start: at the root the Start is aborted, elsewhere START_FAIL goes up (R369). -/
def failStart (p : Nat) (r : StartRefusal) (s : State) : State :=
  let x := s.part p
  let s1 := s.setPart p { x with refusal := if x.refusal.isSome then x.refusal else some (r.1, r.2.2) }
  if s.isRoot p then rootAbort x.scope16 r.2.1 s.arm.addr.toNat r.1 s1
  else markerUp 0x13 x.scope16 r.2.1 (s.arm.addr.toNat + 65536 * r.1) s1

/-! ### Preparation and the Start tick -/

/-- Rows of bank b of a partition take the initial state (R36, R159). -/
def writeInitial (p b : Nat) (s : State) : State :=
  let x := s.part p
  let rows := x.pmap.flatMap fun e =>
    let port := fabPort (e.2 - 1) e.1
    (List.range 16).flatMap fun g => (keysIn s.arr.init ((port * 16 + g) * 1536) 1536).map fun r => (nmKey (e.2 - 1) g b (r.1 % 1536), r.2)
  { s with arr := { s.arr with nm := smPutAll 0#64 s.arr.nm rows } }

/-- Row 2047 of every group shows frame k (R31). -/
def stageConst (p : Nat) (k : FrameNo) (s : State) : State :=
  let rows := (s.part p).pcls.flatMap fun pcl => (List.range 16).map fun g => (prKey pcl g 2047, constRow k false)
  { s with arr := { s.arr with prNext := smPutAll 0#64 s.arr.prNext rows } }

/-- First frame of the job: 0, or the frame m′ of a pending restore (R263). -/
def Partition.firstFrame (x : Partition) : FrameNo := (x.restore.map (·.1)).getD 0

/-- Banks and rows before the Start tick (R36, R263): a restored job keeps the bank and rows that RESTORE wrote. The through map's
register array is loaded from its checked store (R115): an entry that the check cannot correct loads as T = 0, a difference that
Rasp's compare then finds. -/
def prepareBanks (p : Nat) (s : State) : State :=
  let x := s.part p
  let k := x.firstFrame
  let keep := (k.toNat + 3) % 4
  let banks := [0, 1, 2, 3].filter fun b => decide (b ≠ keep) || x.restore.isNone
  let s1 := clearBanks p banks s
  let s2 := if x.restore.isNone then writeInitial p keep s1 else s1
  let mine := fun pos : Nat => natBit x.pmask (posPort pos)
  let load := fun (r : SMap (BitVec 16) × State) (e : Nat × BitVec 16) =>
    let (v, a) := fetchEntry p .thr e.1 (tableLoc 0 (posPort e.1) (e.1 % 576) 0 4) 0 e.2 r.2
    (smSet 0#16 r.1 e.1 v, a)
  let (reg, s3) := ((s2.entriesIn .thr s2.arr.thr 0 0 9216).filter fun e => mine e.1).foldl load (smDrop mine s2.arr.thrReg, s2)
  stageConst p k { s3 with arr := { s3.arr with thrReg := reg } }

/-- A slice holds its job's context in both banks (R213): a SWAP word, or static mode. -/
def State.bothBanks (s : State) (n : Nat) : Bool := decide (smGet 0 s.fab.sched n ≠ 1)

/-- Slices of a partition's dies that toggle ACTIVE in step T of a switch: those that hold their context in one bank (R213). -/
def State.toggling (s : State) (x : Partition) : List Nat := (s.fab.sched.map (·.1)).filter fun n => x.dies.getLsbD (n / 288) && !s.bothBanks n

/-- Each of those slices toggles ACTIVE and shows the bank it turns to (R213, Table 9.5). -/
def toggleSlices (x : Partition) (s : State) : State :=
  (s.toggling x).foldl (fun a n => a.setSlice n { a.slice n with active := !(a.slice n).active }.settle) s

/-- At the tick of a switch to a fresh start those slices toggle too: the bank they turn to has its reset values (R204), the other keeps the
outgoing context, as R213 says (DEDUCED, log entry 72). before is the state before the reset of the slices. -/
def freshBanks (x : Partition) (before : State) (s : State) : State :=
  (s.toggling x).foldl (fun a n =>
    let y := before.slice n
    a.setSlice n (if y.active then { a.slice n with active := false, bank1 := y.bank1 } else { a.slice n with active := true, bank0 := y.bank0 })) s

/-- What a partition keeps through its Start tick, the rest as before frame 0. -/
def freshRun (g : Nat) (k : FrameNo) (x : Partition) : Partition := { x with
  st := .running, phase := .frame, begun := true, frame := k, tick := g, seq := none, decision := none, verdict := none, stopNext := false
  outStep := false, noGo := false, asked := [], applied := [], vetoes := [], holds := [], heldFrame := none, replayCount := (0, 0)
  replayLimit := false, sampled := [], beyond := k.toNat, pauses := [], pausedAt := none, restart := none, resumeCtx := [], releaseCtx := []
  top := k, topH0 := false, stagedTop := k, broke := [], changes := []
  mism := [], reqs := [], chanMiss := [], forceErr := [], unrecorded := [], staged := [], mailbox := [], history := []
  conflictSeen := [], ticks := [], marksDue := [], startAt := none, cancels := [], refusal := none
  sc := { x.sc with sent := [], clears := [], clearSent := none, start := none } }

/-- Lanes of the mask that hold lock become ACTIVE at the Start tick (R116, R143); another goes on with its bring-up. DEDUCED: as after a
recalibration (R146) a receiver delivers what was sent from that step on; the calibration content still under way is not classified (log
entry 78). -/
def activateLanes (x : Partition) (s : State) : State :=
  x.portLanes.foldl (fun a n =>
    let l : Lane := { a.lane n with delivered := false, absent := false }
    a.setLane n (if l.lock && (decide (l.st = .calibrate) || decide (l.st = .ready) || decide (l.st = .active)) then
      { l with st := .active, since := a.clk.now, resumeAt := some a.cnt } else l)) s

/-- The Start tick (R169, R190, R195, R263): flip-flops take INIT and registers 0 unless a Cast was restored, outputs drive, lanes
carry data, and the first frame begins. -/
def startTick (p g : Nat) (s : State) : State :=
  let x := s.part p
  let k := x.firstFrame
  let ctx := x.sc.start.bind (·.ctx)
  let regs := s.regionsOfPart x
  let r1 := regs.foldl (fun a r => resetRegion r a) s
  let s1 := if x.restore.isSome then s else if x.switch.isSome then freshBanks x s r1 else r1
  let fresh := s1.fab.slices.map fun e => (e.1, if x.dies.getLsbD (e.1 / 288) then { e.2 with badSeen := false } else e.2)
  let s2 : State := { s1 with
    fab := { s1.fab with drive := s1.fab.drive ||| BitVec.ofNat 24 (maskOf regs), slices := fresh }, trust := { s1.trust with digestDue := true } }
  let toggles := x.switch.isSome || decide (x.restore.map (·.2) = some true)
  let s3 := activateLanes x (s2.setPart p { freshRun g k x with noIssue := if toggles then some s.cnt else none })
  let s4 := if x.restore.map (·.2) = some true then toggleSlices x s3 else s3
  let s5 := refreshDigest (x.portLanes.foldl (fun a n => if (a.lane n).st = .active then a else outOfService n a) (beginFrame p k true s4))
  let s6 := completeOpt ctx St.ok (leBytes 8 g) s5
  let y := s6.part p
  match y.switch with
  | some w =>
    let s7 := if w.phase = 7 then phaseEvent p 7 s6 else s6
    finishSwitch p (phaseEvent p 8 (s7.setPart p { y with switch := some { w with tickDone := true, phase := 9 } }))
  | none => s6

/-- HORIZON_TICK (R24): F steps after the frame's tick, its housekeeping done, the boundary is taken; at the step that START named,
the first frame of a starting partition begins (R369). -/
def execHorizonTick (part : Fin 4) (s : State) : Res :=
  let p := part.val
  let x := s.part p
  .next (if x.st = .starting then (if s.stepping ∧ x.startAt = some s.cnt then startTick p s.cnt s else s)
    else if s.frameRuns p ∧ s.relStep p = x.frameLen ∧ x.hstage = 63 then refreshDigest (boundary p s)
    else s)

/-! ### The passes of R368 and the steps of R369 -/

/-- The latencies gathered: U, M and the largest LIN. -/
def gathered (own : Option Partition) (q : StartSeq) : Nat × Nat × Nat :=
  let u := q.uplat.foldl (fun a e => max a (e.2.getD 0)) 0
  let m := q.downmax.foldl (fun a e => max a e.2.1) (if own.isSome then q.downLat else 0)
  let l := q.downmax.foldl (fun a e => max a e.2.2) ((own.bind (·.image)).map (·.lin) |>.getD 0)
  (u, m, l)

/-- A member takes the scope's V, V_down and L_in, runs check 0x14 and prepares its banks (R369 step 3). -/
def takeParams (p v vdown lin : Nat) (s : State) : State :=
  let s1 := compareFmin p (s.setPart p { s.part p with v := v, vdown := vdown, lin := lin })
  match checkAdmit p v s1 with
  | some r => failStart p r s1
  | none =>
    let s2 := prepareBanks p s1
    let q := s2.startSeq (s2.part p).scope16
    s2.setStart (s2.part p).scope16 (some { q with prepared := true, paramsDone := true })

/-- START is fixed by the root at its decision step plus V_down plus 64 (R369 step 4). -/
def rootStart (p : Nat) (s : State) : State :=
  let x := s.part p
  let g := s.cnt + x.vdown + 64
  markerDown 0x12 x.scope16 0 g (s.setPart p { x with startAt := some g })

/-- READY goes up, or the root starts, once every member-bearing link and the member itself are ready. -/
def advanceReady (sc : Nat) (s : State) : State :=
  let q := s.startSeq sc
  let own := s.memberOf sc
  let kids := (s.scopeSt sc).bearing.all (q.readyFrom.contains ·)
  if !q.paramsDone ∨ q.sentReady ∨ !kids ∨ (own.isSome ∧ !q.prepared) then s
  else
    let s1 := s.setStart sc (some { q with sentReady := true })
    match own with
    | some p => if s.isRoot p then rootStart p s1 else markerUp 0x11 sc 0 0 s1
    | none => markerUp 0x11 sc 0 0 s1

/-- The new V of a running scope after an upstream switch (R42): beyond D F the root holds the current frame and reports the
minimum, and an earlier hold of that cause ends when V fits again. -/
def newLatency (p v vdown : Nat) (s : State) : State :=
  let x := s.part p
  let s1 := s.setPart p { x with v := v, vdown := vdown, sc := { x.sc with start := none } }
  if x.depth * x.frameLen < v then
    let others := (s1.othersOf p).map s1.part
    let (fmin, term) := frameMin x others v s1
    let s2 := partEvent St.frameTooShort 0xC p (shortExtra fmin term (memMin x others s1).2) s1
    if x.holds.any (fun h => decide (h.code = St.frameTooShort) && !h.resolved) then s2 else raiseHold p St.frameTooShort 0 s2
  else resolveHold p St.frameTooShort 0 s1

/-- The root fixes V, V_down and L_in and sends PARAMS (R368, R369 step 3). -/
def rootParams (p : Nat) (s : State) : State :=
  let x := s.part p
  let sc := x.scope16
  let q := s.startSeq sc
  let (u, m, l) := gathered (some x) q
  let v := u + 16 + m + 32
  let vdown := m + 16
  if x.st = .running then newLatency p v vdown s
  else advanceReady sc (takeParams p v vdown l (markerDown 0x10 sc v (vdown + 65536 * l) s))

/-- DOWNMAX goes up, or the root fixes the parameters, once every child that carried MEASURE has delivered its own. -/
def advanceDown (sc : Nat) (s : State) : State :=
  let q := s.startSeq sc
  let own := (s.memberOf sc).map s.part
  if !q.sentUp ∨ q.sentDown ∨ !(q.carried.all fun k => q.downmax.any fun e => decide (e.1 = k)) then s
  else
    let s1 := s.setStart sc (some { q with sentDown := true })
    let (_, m, l) := gathered own q
    match s.memberOf sc with
    | some p => if s.isRoot p then rootParams p s1 else markerUp 0x0E sc l m s1
    | none => markerUp 0x0E sc l m s1

/-- Own member is ready for UPLAT: its checks passed and its lanes frozen, or it runs already (R368, R369). -/
def State.memberReady (s : State) (p : Nat) (q : StartSeq) : Bool :=
  decide ((s.part p).st = .running) || (decide ((s.part p).st = .starting) && q.checked && s.lanesFrozen p)

/-- UPLAT goes up once every child that carried MEASURE has delivered its own and the member is ready. -/
def advanceUp (sc : Nat) (s : State) : State :=
  let q := s.startSeq sc
  let own := s.memberOf sc
  let ready := match own with | some p => s.memberReady p q | none => true
  if q.measureAt.isNone ∨ q.sentUp ∨ !ready ∨ !(q.carried.all fun k => q.uplat.any fun e => decide (e.1 = k)) then s
  else
    let bearing := (q.uplat.filter fun e => e.2.isSome).map (·.1)
    let r := s.scopeSt sc
    let s1 := s.setScopeSt sc { r with bearing := bearing, start := some { q with sentUp := true } }
    if s.rootOf sc then s1
    else
      let value := if own.isNone ∧ bearing = [] then noMember else q.uplat.foldl (fun a e => max a (e.2.getD 0)) 0
      markerUp 0x0D sc value s.cnt s1

/-- Child links whose recorded device lies in the subtree of a scope's root (R368). A relay without a member of the scope has not been told the
root: every recorded child is taken (log entry 16). -/
def State.measureLinks (s : State) (sc : Nat) : List Nat :=
  match (s.memberOf sc).map s.part with
  | some x => s.childLinks.filter fun k => x.rootSc || (s.link k).child.any fun a => inSubtree x.root.toNat a.toNat
  | none => s.childLinks

/-- MEASURE goes down, and the links that carry it are noted (R368). -/
def sendMeasure (sc arg : Nat) (q : StartSeq) (s : State) : State :=
  let links := s.measureLinks sc
  links.foldl (fun a k => sendTwice k 0x0C sc 0 arg a) (s.setStart sc (some { q with carried := links }))

/-- Whatever of a scope's Start can go on goes on. -/
def advance (sc : Nat) (s : State) : State := advanceReady sc (advanceDown sc (advanceUp sc s))

/-- The root begins the gathering (R369 step 2). -/
def rootMeasure (p : Nat) (s : State) : State :=
  let sc := (s.part p).scope16
  let q := s.startSeq sc
  if q.measureAt.isSome then s
  else advance sc (sendMeasure sc s.cnt { q with requested := true, measureAt := some s.clk.now } s)

/-- The root of running scopes measures anew after an upstream switch (R42). -/
def remeasure (p : Nat) (s : State) : State :=
  let x := s.part p
  if x.st = .running ∧ s.isRoot p ∧ !s.isSingle p then rootMeasure p (s.setPart p { x with sc := { x.sc with start := none } }) else s

/-- First refusal of a member's own Start checks: geometry, address, the root's subtree (R366), lanes already DOWN (R120). -/
def ownChecks (p : Nat) (s : State) : Option StartRefusal :=
  let x := s.part p
  let own := s.arm.addr.toNat
  let down := x.portLanes.find? fun n => decide ((s.lane n).st = .down)
  firstSome [
    (checkGeometry x s).map plainRefusal, (checkAddr x s).map plainRefusal,
    if !x.rootSc ∧ !inSubtree x.root.toNat own then some (extraRefusal St.linkTopology 0x12 (topoExtra own own 0xFF 7)) else none,
    down.map fun n => extraRefusal St.linkTopology 0x12 (topoExtra own 0xFFFF n 8)]

/-- A member enters its Start: the request to the root, checks, calibration (R369 steps 1 and 2). -/
def beginStart (p : Nat) (ctx : Option CmdCtx) (s : State) : State :=
  let x := s.part p
  let sc := x.scope16
  let q := x.sc.start.getD newSeq
  let asked := q.requested || q.measureAt.isSome
  let s1 := s.setPart p { x with st := .starting, refusal := none, sc := { x.sc with start := some { q with member := true, ctx := ctx, requested := true } } }
  let s2 := if s1.isRoot p then rootMeasure p s1 else if asked then s1 else markerUp 0x0F sc 0 s1.arm.addr.toNat s1
  match ownChecks p s2 with
  | some r => failStart p r s2
  | none =>
    let s3 := s2.setStart sc (some { s2.startSeq sc with checked := true })
    advance sc (x.portLanes.foldl (fun a n => if (a.lane n).st = .ready then enterCalibrate n a else a) s3)

/-! ### Markers of the Start -/

/-- MEASURE_MARKER (R368): the down latency is recorded and the marker relayed. -/
def execMeasureMarker (link : Fin 8) (m : Marker) (s : State) : Res :=
  .next (receive true link.val 0x0C m (fun s =>
    let sc := m.scope.toNat
    let q := s.startSeq sc
    let running := match s.memberOf sc with | some p => decide ((s.part p).st = .running) | none => false
    let base := if running || q.sentUp then { newSeq with ctx := q.ctx, member := q.member, checked := q.checked } else q
    advance sc (sendMeasure sc m.arg.toNat { base with measureAt := some s.clk.now, downLat := s.cnt - nearestStep s.cnt m.arg.toNat } s)) s)

/-- UPLAT_MARKER (R368). -/
def execUplatMarker (link : Fin 8) (m : Marker) (s : State) : Res :=
  .next (receive false link.val 0x0D m (fun s =>
    let sc := m.scope.toNat
    let q := s.startSeq sc
    let hop := s.cnt - nearestStep s.cnt m.arg.toNat
    let v := if m.frame.toNat = noMember then none else some (m.frame.toNat + hop)
    advance sc (s.setStart sc (some { q with uplat := q.uplat.filter (fun e => decide (e.1 ≠ link.val)) ++ [(link.val, v)] }))) s)

/-- DOWNMAX_MARKER (R368, R40, R45, R157). -/
def execDownmaxMarker (link : Fin 8) (m : Marker) (s : State) : Res :=
  .next (receive false link.val 0x0E m (fun s =>
    let sc := m.scope.toNat
    let q := s.startSeq sc
    advance sc (s.setStart sc (some { q with downmax := q.downmax.filter (fun e => decide (e.1 ≠ link.val)) ++ [(link.val, m.arg.toNat, m.frame.toNat)] }))) s)

/-- START_REQ_MARKER (R369 step 1): the first of a scope begins the Start at the root and is relayed elsewhere. -/
def execStartReqMarker (link : Fin 8) (m : Marker) (s : State) : Res :=
  .next (receive false link.val 0x0F m (fun s =>
    let sc := m.scope.toNat
    match s.memberOf sc with
    | some p =>
      if s.isRoot p then (if (s.part p).st = .running then s else rootMeasure p s)
      else if (s.startSeq sc).requested then s
      else passUp 0x0F m (s.setStart sc (some { s.startSeq sc with requested := true }))
    | none =>
      if (s.startSeq sc).requested then s else passUp 0x0F m (s.setStart sc (some { s.startSeq sc with requested := true }))) s)

/-- PARAMS_MARKER (R369 step 3). -/
def execParamsMarker (link : Fin 8) (m : Marker) (s : State) : Res :=
  .next (receive true link.val 0x10 m (fun s =>
    let sc := m.scope.toNat
    let s1 := passDown 0x10 m s
    match s1.memberOf sc with
    | some p =>
      if (s1.part p).st ≠ .starting then s1
      else advance sc (takeParams p m.frame.toNat (m.arg.toNat % 65536) (m.arg.toNat / 65536) s1)
    | none => advance sc (s1.setScopeSt sc { s1.scopeSt sc with v := m.frame.toNat, start := some { s1.startSeq sc with paramsDone := true } })) s)

/-- READY_MARKER (R369). -/
def execReadyMarker (link : Fin 8) (m : Marker) (s : State) : Res :=
  .next (receive false link.val 0x11 m (fun s =>
    let sc := m.scope.toNat
    let q := s.startSeq sc
    advance sc (s.setStart sc (some { q with readyFrom := q.readyFrom.filter (fun k => decide (k ≠ link.val)) ++ [link.val] }))) s)

/-- START_MARKER (R369 step 4): the Start tick is fixed. -/
def execStartMarker (link : Fin 8) (m : Marker) (s : State) : Res :=
  .next (receive true link.val 0x12 m (fun s =>
    let sc := m.scope.toNat
    let s1 := passDown 0x12 m s
    match s1.memberOf sc with
    | some p => if (s1.part p).st = .starting then s1.setPart p { s1.part p with startAt := some (nearestStep s1.cnt m.arg.toNat) } else s1
    | none => s1.setStart sc none) s)

/-- START_FAIL_MARKER (R369): the root aborts the Start on the first; a relay forwards it. -/
def execStartFailMarker (link : Fin 8) (m : Marker) (s : State) : Res :=
  .next (receive false link.val 0x13 m (fun s =>
    let sc := m.scope.toNat
    if s.rootOf sc then
      if (s.scopeSt sc).start.isSome then rootAbort sc m.frame.toNat (m.arg.toNat % 65536) (m.arg.toNat / 65536) s else s
    else passUp 0x13 m s) s)

/-- START_ABORT_MARKER (R369, R348). -/
def execStartAbortMarker (link : Fin 8) (m : Marker) (s : State) : Res :=
  .next (receive true link.val 0x14 m (fun s =>
    abortHere m.scope.toNat m.frame.toNat (m.arg.toNat % 65536) (m.arg.toNat / 65536) (passDown 0x14 m s)) s)

/-- START_TIMEOUT (R369): 10 s after MEASURE the root aborts a Start that has not completed step 3. -/
def execStartTimeout (part : Fin 4) (s : State) : Res :=
  let p := part.val
  let x := s.part p
  .next (match x.sc.start with
    | some q => match q.measureAt with
      | some t => if s.isRoot p ∧ x.st ≠ .running ∧ x.startAt.isNone ∧ t + 16000000000 ≤ s.clk.now then rootAbort x.scope16 0 0xFFFF St.armTimeout s else s
      | none => s
    | none => s)

end Sys2Proof.Machine
end

