-- ==== Sys2Proof/Machine/Cast.lean ====
section
/-!
DEFINITION. Cast.lean: Cast records (chapter 22): their content and layout, capture at a Horizon tick and at a fabric edge, the
shadow, readout, and the restore of chapter 11.
-/
namespace Sys2Proof.Machine

/-! ### Layout (Tables 22.4 and 22.5) -/

/-- Bytes of one die's section. -/
abbrev dieBytes : Nat := 6814720
/-- Length of a record of n dies (R462). -/
def castLen (n : Nat) : Nat := 4096 + dieBytes * n

/-- n bytes of v at an offset. -/
def leAt (off n v : Nat) : List (Nat × Byte) := (List.range n).map fun i => (off + i, BitVec.ofNat 8 (v / 256 ^ i))

/-- Bytes are merged into a record's content. -/
def recPut (m : SMap Byte) (l : List (Nat × Byte)) : SMap Byte := l.foldl (fun a e => smSet 0#8 a e.1 (smGet 0#8 a e.1 ||| e.2)) m

/-- A single bit n of a bit string at an offset. -/
def bitAt (off n : Nat) : Nat × Byte := (off + n / 8, BitVec.ofNat 8 (2 ^ (n % 8)))

/-- Bytes of a record, the flags of byte 11 as they stand now. -/
def CastRec.byte (r : CastRec) (i : Nat) : Byte :=
  if i = 11 then BitVec.ofNat 8 (bitNat r.void + 2 * bitNat r.damaged) else smGet 0#8 r.bytes i
/-- n bytes of a record from an offset. -/
def CastRec.bytesFrom (r : CastRec) (off n : Nat) : List Byte := (List.range n).map fun i => r.byte (off + i)

/-- Signed value of a register in 4 or 8 bytes (R463). -/
def signedBytes {w : Nat} (n : Nat) (v : BitVec w) : Nat := (BitVec.ofInt (8 * n) v.toInt).toNat

/-- A slice bank's bytes (R463). -/
def bankAt (off : Nat) (b : SliceBank) : List (Nat × Byte) :=
  leAt off 4 (signedBytes 4 b.a0) ++ leAt (off + 4) 4 (signedBytes 4 b.a1) ++ leAt (off + 8) 4 (signedBytes 4 b.b0) ++
    leAt (off + 12) 4 (signedBytes 4 b.b1) ++ leAt (off + 16) 4 (signedBytes 4 b.k0) ++ leAt (off + 20) 4 (signedBytes 4 b.k1) ++
    leAt (off + 24) 8 (signedBytes 8 b.acc) ++ leAt (off + 32) 4 (signedBytes 4 b.y0) ++ leAt (off + 36) 4 (signedBytes 4 b.y1) ++
    leAt (off + 40) 4 b.exp.toNat ++ leAt (off + 44) 4 b.bexp.toNat ++ leAt (off + 48) 4 (bitNat b.ovf) ++ leAt (off + 52) 4 (bitNat b.sat) ++
    leAt (off + 56) 4 b.ag0base.toNat ++ leAt (off + 60) 4 b.ag0len.toNat ++ leAt (off + 64) 4 (signedBytes 4 b.ag0step) ++
    leAt (off + 68) 4 (bitNat b.ag0brev) ++ leAt (off + 72) 4 b.ag0ofs.toNat ++ leAt (off + 76) 4 b.ag1base.toNat ++
    leAt (off + 80) 4 b.ag1len.toNat ++ leAt (off + 84) 4 (signedBytes 4 b.ag1step) ++ leAt (off + 88) 4 (bitNat b.ag1brev) ++
    leAt (off + 92) 4 b.ag1ofs.toNat

/-- A slice bank read from a record's bytes. -/
def bankFrom (b : List Byte) (off : Nat) : SliceBank :=
  let f := fun i => fieldAt b (off + i) 4
  { a0 := BitVec.ofNat 18 (f 0), a1 := BitVec.ofNat 18 (f 4), b0 := BitVec.ofNat 18 (f 8), b1 := BitVec.ofNat 18 (f 12)
    k0 := BitVec.ofNat 18 (f 16), k1 := BitVec.ofNat 18 (f 20), acc := BitVec.ofNat 54 (fieldAt b (off + 24) 8)
    y0 := BitVec.ofNat 18 (f 32), y1 := BitVec.ofNat 18 (f 36), exp := BitVec.ofNat 6 (f 40), bexp := BitVec.ofNat 5 (f 44)
    ovf := natBit (f 48) 0, sat := natBit (f 52) 0, ag0base := BitVec.ofNat 9 (f 56), ag0len := BitVec.ofNat 10 (f 60)
    ag0step := BitVec.ofNat 9 (f 64), ag0brev := natBit (f 68) 0, ag0ofs := BitVec.ofNat 9 (f 72), ag1base := BitVec.ofNat 9 (f 76)
    ag1len := BitVec.ofNat 10 (f 80), ag1step := BitVec.ofNat 9 (f 84), ag1brev := natBit (f 88) 0, ag1ofs := BitVec.ofNat 9 (f 92) }

/-! ### Content of a record -/

/-- HIGH of a DIV generator. -/
def genC (w : U64) : Nat := (w.extractLsb' 0 16).toNat

/-- A DIV clock is high at time c (R177, R178). -/
def divHigh (w : U64) (c : Nat) : Bool :=
  decide (0 < genA w) && decide (genB w ≤ c) && decide ((c - genB w) % genA w < genC w)

/-- A generator's level: free-running at the step counter, gated at the frame time its edges stopped at (R178, R179). -/
def State.genLevel (s : State) (x : Partition) (w : U64) : Bool :=
  match genMode w with
  | 1 => if w.getLsbD 61 then divHigh w x.tau else divHigh w s.cnt
  | 2 =>
    let t := x.tau % x.frameLen
    if genA w < genB w then decide (genA w ≤ t) && decide (t < genB w)
    else decide (genA w ≤ t) || (decide (t < genB w) && decide (x.frameLen ≤ x.tau))
  | _ => false

/-- Generator levels of a region: GCK in bits 0 to 31 of a die's first region, RCK in bits 32 to 39. -/
def State.regionLevels (s : State) (x : Partition) (region : Nat) : Nat :=
  let rck := (List.range 8).filter fun r => s.genLevel x (s.genWord (.rck (Fin.ofNat 24 region) (Fin.ofNat 8 r)))
  let gck := if region % 6 = 0 then (List.range 32).filter fun g => s.genLevel x (s.genWord (.gck (Fin.ofNat 4 (region / 6)) (Fin.ofNat 32 g))) else []
  maskOf (gck ++ rck.map (· + 32))

/-- Record header without its digest (Table 22.4). -/
def headAt (kind p : Nat) (x : Partition) (frame : FrameNo) (s : State) : List (Nat × Byte) :=
  leAt 0 4 0x5443474B ++ leAt 4 2 1 ++ leAt 6 1 kind ++ leAt 7 1 (onesOf x.dies.toNat 4).length ++ leAt 8 2 s.ident.bic.toNat ++
    leAt 10 1 p ++ leAt 12 6 frame.toNat ++ leAt 24 8 s.cnt ++ leAt 32 48 ((x.image.map (·.idigest.toNat)).getD 0)

/-- First bytes of a die's section: the die pair and the placement epochs. -/
def dieHeadAt (base ld pd : Nat) (x : Partition) : List (Nat × Byte) :=
  leAt base 1 ld ++ leAt (base + 1) 1 pd ++ (List.range 24).flatMap fun i => leAt (base + 4 + 2 * i) 2 (smGet 0#16 x.epochs (24 * ld + i)).toNat

/-- Net Memory of a logical cluster: the bank of the frame before. -/
def nmAt (base i pcl bank : Nat) (s : State) : List (Nat × Byte) :=
  (List.range 16).flatMap fun g => (keysIn s.arr.nm (nmKey pcl g bank 0) 1536).flatMap fun e =>
    leAt (base + 1024 + (i * 16 + g) * 12288 + 8 * (e.1 - nmKey pcl g bank 0)) 8 e.2.toNat

/-- Places of the port rows of a cluster in its part of a record (Table 22.5): group, row, offset. -/
def portPlaces (pcl : Nat) (s : State) : List (Nat × Nat × Nat) :=
  let pairs := (keysIn s.arr.mport (mportKey pcl 0 0) 64).flatMap fun m =>
    let i := m.1 - mportKey pcl 0 0
    let row := 1536 + 32 * (i / 16) + 2 * (i % 16)
    if (descOf m.2).v then [((descOf m.2).rgrp, row, 16 * i), ((descOf m.2).rgrp, row + 1, 16 * i + 8)] else []
  pairs ++ (List.range 16).flatMap fun g => (List.range 4).map fun j => (g, 1664 + j, 1024 + 32 * g + 8 * j)

/-- Port rows of a logical cluster as staged. -/
def portsAt (base i pcl : Nat) (s : State) : List (Nat × Byte) :=
  (portPlaces pcl s).flatMap fun e => leAt (base + 4719616 + 1536 * i + e.2.2) 8 (smGet 0#64 s.arr.prNext (prKey pcl e.1 e.2.1)).toNat

/-- One region (Table 22.5). -/
def regionAt (base i region : Nat) (x : Partition) (s : State) : List (Nat × Byte) :=
  let b := base + 4756480 + 11264 * i
  let live := s.regionLive region
  let levels := leAt (b + 8) 8 (s.regionLevels x region)
  if !live then levels
  else
    let ffs := (keysIn s.fab.ff (ffKey region 0) 32768).map fun e => bitAt (b + 64) (e.1 - ffKey region 0)
    let regs := (List.range 4).flatMap fun c => (List.range 16).flatMap fun n =>
      let key := (region * 4 + c) * 16 + n
      leAt (b + 4160 + 256 * c + 8 * n) 8 (smGet 0#64 s.fab.or_ key).toNat ++ leAt (b + 4288 + 256 * c + 8 * n) 8 (smGet 0#64 s.fab.ir key).toNat
    let outs := (List.range 192).flatMap fun k => leAt (b + 5184 + 8 * k) 8 (smGet 0#36 s.fab.bout (region * 192 + k)).toNat
    leAt b 1 1 ++ levels ++ ffs ++ regs ++ outs

/-- Block memories of a die in live regions. -/
def bmemsAt (base pd : Nat) (s : State) : List (Nat × Byte) :=
  (keysIn s.fab.bmem (pd * 576 * 256) (576 * 256)).flatMap fun e =>
    if s.regionLive (bmemRegion (e.1 / 256)) then leAt (base + 4824064 + 9 * (e.1 - pd * 576 * 256)) 9 e.2.toNat else []

/-- Slices of a die in live regions; a KIND 1 record holds no buffer words. -/
def slicesAt (base pd kind : Nat) (s : State) : List (Nat × Byte) :=
  (List.range 288).flatMap fun i =>
    let x := s.slice (288 * pd + i)
    let b := base + 6151168 + 2304 * i
    if !s.regionLive (sliceRegion (288 * pd + i)) then []
    else
      bankAt b x.bank0 ++ leAt (b + 96) 1 (bitNat x.active) ++ bankAt (b + 128) x.bank1 ++
        (if kind = 0 then x.lb.flatMap fun e => leAt (b + 256 + 4 * e.1) 4 e.2.toNat else [])

/-- One die's section. -/
def dieAt (kind base ld pd : Nat) (x : Partition) (bank : Nat) (s : State) : List (Nat × Byte) :=
  let hosts := (List.range 24).filterMap fun i => (x.pcl (24 * ld + i)).map fun pcl => (i, pcl)
  let store := if kind = 0 then hosts.flatMap (fun e => nmAt base e.1 e.2 bank s ++ portsAt base e.1 e.2 s) ++ bmemsAt base pd s else []
  dieHeadAt base ld pd x ++ store ++ ((List.range 6).flatMap fun i => regionAt base i (6 * pd + i) x s) ++ slicesAt base pd kind s

/-- Logical and physical dies of a partition, in ascending logical die. -/
def Partition.diePairs (x : Partition) : List (Nat × Nat) := match x.image with | some im => dieMap im x.dies | none => []

/-- The bytes of a record of partition p: the state with which frame m begins (KIND 0), or the fabric at this step (KIND 1). -/
def castBytes (kind p : Nat) (m : FrameNo) (s : State) : SMap Byte :=
  let x := s.part p
  let bank := (m.toNat + 3) % 4
  let dies := (List.range x.diePairs.length).zip x.diePairs
  recPut [] (headAt kind p x m s ++ dies.flatMap fun e => dieAt kind (4096 + dieBytes * e.1) e.2.1 e.2.2 x bank s)

/-- A record as captured, its digest still to be filled in. -/
def captureRec (kind p : Nat) (m : FrameNo) (s : State) : CastRec := {
  kind := kind, void := false, damaged := false, frame := m, step := s.cnt, finished := false
  bytes := castBytes kind p m s, len := castLen (s.part p).diePairs.length, bad := [] }

/-- A Cast reads the block memory rows and the buffer words of a partition's live regions: their checks (R202, R215). -/
def castReads (p : Nat) (s : State) : State :=
  let x := s.part p
  let rows := s.fab.bmemErr.filter fun e => x.dies.getLsbD (e.1 / 256 / 576) && s.regionLive (bmemRegion (e.1 / 256))
  let words := s.fab.uopErr.filter fun e => x.dies.getLsbD (e.1 / 1024 / 288) && s.regionLive (sliceRegion (e.1 / 1024)) && decide (512 ≤ e.1 % 1024)
  words.foldl (fun a e => bufferCheck p (e.1 / 1024) (e.1 % 512) a) (rows.foldl (fun a e => bmCheck p (e.1 / 256) (e.1 % 256) a) s)

/-- The record is finished: RDIGEST covers it with its own bytes taken as 0 (Table 22.4). -/
def CastRec.finish (r : CastRec) : CastRec :=
  { r with finished := true, bytes := recPut r.bytes (leAt 80 48 (Config.sha384 (r.bytesFrom 0 r.len)).toNat) }

/-! ### Readout (R465) -/

/-- What a read of the shadow space finds. -/
inductive ShadowRead where
  | beyond
  | lost (p : Nat)
  | data (b : List Byte)
deriving DecidableEq, Repr

/-- n bytes of the shadow space from an offset: partition p's record stands at p times 2^32. -/
def State.shadowRead (s : State) (off n : Nat) : ShadowRead :=
  let p := off / 2 ^ 32
  let o := off % 2 ^ 32
  match (if p < 4 then (s.part p).shadow else none) with
  | none => .beyond
  | some r =>
    if !r.finished ∨ r.len < o + n then .beyond
    else if r.bad.any fun w => decide (w * 8 < o + n) && decide (o < w * 8 + 8) then .lost p
    else .data (r.bytesFrom o n)

/-- An uncorrectable shadow word sets DAMAGED in the held header (R465). -/
def markDamaged (p : Nat) (s : State) : State :=
  s.setPart p { s.part p with shadow := (s.part p).shadow.map fun r => { r with damaged := true } }

/-- Some partition holds a finished Cast (STATUS.SHADOW). -/
def State.anyShadow (s : State) : Bool := [0, 1, 2, 3].any fun p => match (s.part p).shadow with | some r => r.finished | none => false

/-! ### CAST.TAKE (R460, R461, Table 22.3) -/

/-- A Cast activity begins to hold for a command, the record of an earlier one gone. -/
def armCast (p : Nat) (a : CastAct) (s : State) : State := startAct 6 p a.ctx (s.setPart p { s.part p with cast := some a, shadow := none })

/-- The boundary of a TRIG 0 Cast (Table 22.3), with the reply. -/
def takeAtTick (p : Nat) (c : CmdCtx) (s : State) : State :=
  let x := s.part p
  let act : CastAct := { ctx := some c, trig1 := false, gen := 0, step := 0, m := 0, capturing := false, beganAt := 0, restart := false }
  match x.pausedAt, x.pauses with
  | some (m, _, _, _), _ => reply c 0x0D04 St.accepted (frameData m) (armCast p { act with m := m } s)
  | none, q :: _ => reply c 0x0D04 St.accepted (frameData q.m) (armCast p { act with m := q.m } s)
  | none, [] =>
    if s.isRoot p then
      let (m, s1) := rootPause p c.eframe 0 (.cast c) s
      reply c 0x0D04 St.accepted (frameData m) (armCast p { act with m := m, restart := s.isSingle p } s1)
    else
      let s1 := armCast p { act with placed := false } s
      markerUp 0x07 x.scope16 c.eframe.toNat 0 (askRoot p { owner := .cast c, d := 0, m := c.eframe } s1)

/-- A TRIG 1 Cast waits for its clock's edge. -/
def takeAtEdge (p clk : Nat) (step : Nat) (c : CmdCtx) (s : State) : State :=
  let act : CastAct := { ctx := some c, trig1 := true, gen := clk, step := step, m := 0, capturing := false, beganAt := 0, restart := false }
  reply c 0x0D04 St.accepted (frameData (s.part p).frame) (armCast p act s)

/-- CAST.TAKE (R460, R461): CLK and STEP say something with TRIG 1 only, which takes no effective frame. -/
def execCastTake (c : CmdCtx) (part trig clk rsvd : Byte) (step : U64) (s : State) : Res :=
  .next (immediate .j 0x0D04 c (fun s =>
    if trig = 1 ∧ c.eframe ≠ 0 then reply c 0x0D04 St.frameField [] s
    else
    let p := part.toNat
    let ok := decide (rsvd = 0) && decide (trig.toNat ≤ 1) && (decide (trig = 0) || decide (clk.toNat < 40))
    onPart c 0x0D04 p ok (fun x => decide (x.st = .running)) (fun s =>
      match s.blocker 6 p with
      | some h => busyReply c 0x0D04 h s
      | none =>
        if (s.part p).switch.isSome then reply c 0x0D04 St.switchBusy [] s
        else if trig = 0 then takeAtTick p c s
        else if step.toNat < s.cnt then reply c 0x0D04 St.argRange [] s
        else takeAtEdge p clk.toNat step.toNat c s) s) s)

/-! ### Capture -/

/-- The partition stands paused at boundary m. -/
def Partition.pausedAtFrame (x : Partition) (m : FrameNo) : Bool :=
  decide (x.st = .running) && decide (x.phase = .paused) && (match x.pausedAt with | some (k, _, _, _) => decide (k = m) | none => false)

/-- CAST_CAPTURE_BEGIN (R460): the state is read as it stands. A partition that has gone past the boundary has lost its Cast. -/
def execCastCaptureBegin (part : Fin 4) (s : State) : Res :=
  let p := part.val
  let x := s.part p
  .next (match x.cast with
    | none => s
    | some a =>
      if a.trig1 ∨ a.capturing ∨ !a.placed ∨ s.clk.halt.isSome then s
      else if x.inFrame ∧ !frameBefore x.frame a.m then loseCast p s
      else if x.pausedAtFrame a.m ∧ s.settled p then
        castReads p (s.setPart p { x with cast := some { a with capturing := true, beganAt := s.clk.now }, shadow := some (captureRec 0 p a.m s) })
      else s)

/-- Generator of a TRIG 1 Cast: GCK of the lowest-numbered physical die, or RCK of that die's lowest-numbered region. -/
def castGen (x : Partition) (clk : Nat) : Gen :=
  let die := (onesOf x.dies.toNat 4).headD 0
  if clk < 32 then .gck (Fin.ofNat 4 die) (Fin.ofNat 32 clk) else .rck (Fin.ofNat 24 (6 * die)) (Fin.ofNat 8 (clk - 32))

/-- CAST_FABRIC_EDGE (R461): at the first rising edge at or after STEP the fabric is read. -/
def execCastFabricEdge (part : Fin 4) (s : State) : Res :=
  let p := part.val
  let x := s.part p
  .next (match x.cast with
    | none => s
    | some a =>
      if !a.trig1 ∨ a.capturing then s
      else if x.st ≠ .running ∨ x.phase = .stopped then loseCast p s
      else if a.step ≤ s.cnt ∧ s.risesNow x (s.genWord (castGen x a.gen)) then
        s.setPart p { x with cast := some { a with capturing := true, beganAt := s.clk.now }, shadow := some (captureRec 1 p x.frame s) }
      else s)

/-- CAST_CAPTURE_COMPLETE (R460, R461): the record is finished and the command completes with LEN; a partition that a Cast of its
own paused restarts (Table 22.3). -/
def execCastCaptureComplete (part : Fin 4) (s : State) : Res :=
  let p := part.val
  let x := s.part p
  .next (match x.cast, x.shadow with
    | some a, some r =>
      if !a.capturing ∨ s.clk.halt.isSome then s
      else
        let s1 := s.setPart p { x with cast := none, shadow := some r.finish }
        let s2 := endAct 6 p (completeOpt a.ctx St.ok (leBytes 8 r.len) s1)
        if a.restart then rootRestart p s2 else s2
    | _, _ => s)

/-! ### Save and read -/

/-- CAST.SAVE (R465): the held record is written to job space by a DMA engine. -/
def execCastSave (c : CmdCtx) (part : Byte) (rsvd : BitVec 56) (jaddr len : U64) (s : State) : Res :=
  .next (pageWait c (s.part part.toNat).jsid jaddr.toNat len.toNat (immediate .j 0x0D05 c (fun s =>
    let p := part.toNat
    let held := fun x : Partition => match x.shadow with | some r => r.finished | none => false
    onPart c 0x0D05 p (decide (rsvd = 0) && rangeOk jaddr.toNat len.toNat) held (fun s =>
      let x := s.part p
      let n := (x.shadow.map (·.len)).getD 0
      if len.toNat < n then reply c 0x0D05 St.argRange [] s
      else if s.memGone then reply c 0x0D05 St.memUnavailable [] s
      else match s.blocker 6 p with
        | some h => busyReply c 0x0D05 h s
        | none => match s.pickEngine with
          | none => reply c 0x0D05 St.dmaBusy [] s
          | some e =>
            let el : DmaElem := { src := 0, dst := jaddr, len := BitVec.ofNat 32 n, dir := 2, rsvd := 0 }
            let s1 := startAct 6 p (some c) (enqueue e (.save p) (some c) x.jsid 0 [el] s)
            reply c 0x0D05 St.accepted [] (s1.setPart p { s1.part p with saveCtx := some c })) s)) s)

/-- CAST.READ (R465). -/
def execCastRead (c : CmdCtx) (offset : U64) (n rsvd : U32) (s : State) : Res :=
  .next (immediate .j 0x0D06 c (fun s =>
    let p := offset.toNat / 2 ^ 32
    if rsvd ≠ 0 ∨ n = 0 ∨ 4072 < n.toNat ∨ 4 ≤ p then reply c 0x0D06 St.argRange [] s
    else if foreignPart c p s then reply c 0x0D06 St.jsDenied [] s
    else if !s.anyShadow then reply c 0x0D06 St.wrongState [] s
    else match s.shadowRead offset.toNat n.toNat with
      | .beyond => reply c 0x0D06 St.argRange [] s
      | .lost q => reply c 0x0D06 St.castLost [] (markDamaged q s)
      | .data b => reply c 0x0D06 St.ok b s) s)

/-! ### Restore (R262, R263) -/

/-- CAST.RESTORE: the record is read on a DMA engine. -/
def execCastRestore (c : CmdCtx) (part : Byte) (rsvd : BitVec 56) (jaddr len : U64) (s : State) : Res :=
  .next (pageWait c (s.part part.toNat).jsid jaddr.toNat len.toNat (immediate .j 0x0D07 c (fun s =>
    let p := part.toNat
    onPart c 0x0D07 p (decide (rsvd = 0) && rangeOk jaddr.toNat len.toNat) (fun x => decide (x.st = .loaded) && x.restoreCtx.isNone) (fun s =>
      let x := s.part p
      let n := castLen x.diePairs.length
      if len.toNat < n then reply c 0x0D07 St.argRange [] s
      else if s.memGone then reply c 0x0D07 St.memUnavailable [] s
      else match s.blocker 6 p with
        | some h => busyReply c 0x0D07 h s
        | none => match s.pickEngine with
          | none => reply c 0x0D07 St.dmaBusy [] s
          | some e =>
            let el : DmaElem := { src := jaddr, dst := 0, len := BitVec.ofNat 32 n, dir := 2, rsvd := 0 }
            let s1 := startAct 6 p (some c) (enqueue e (.restore p) (some c) x.jsid 0 [el] s)
            reply c 0x0D07 St.accepted [] (s1.setPart p { s1.part p with restoreCtx := some c, restore := none })) s)) s)

/-- The record does not fit the loaded maquette (R263), or was taken at a fabric edge (R463). -/
def castMismatch (b : List Byte) (x : Partition) (s : State) : Bool :=
  decide (fieldAt b 0 4 ≠ 0x5443474B) || decide (fieldAt b 6 1 ≠ 0) || decide (fieldAt b 7 1 ≠ x.diePairs.length) ||
    !s.bicOk (BitVec.ofNat 16 (fieldAt b 8 2)) || decide (fieldAt b 32 48 ≠ (x.image.map (·.idigest.toNat)).getD 0)

/-- Net Memory rows and staged rows of one logical cluster. -/
def restoreCluster (b : List Byte) (base i pcl bank : Nat) (s : State) : State :=
  let rows := (List.range 16).flatMap fun g => (List.range 1536).map fun r =>
    (nmKey pcl g bank r, BitVec.ofNat 64 (fieldAt b (base + 1024 + (i * 16 + g) * 12288 + 8 * r) 8))
  let ports := (portPlaces pcl s).map fun e => (prKey pcl e.1 e.2.1, BitVec.ofNat 64 (fieldAt b (base + 4719616 + 1536 * i + e.2.2) 8))
  { s with arr := { s.arr with nm := smPutAll 0#64 s.arr.nm rows, prNext := smPutAll 0#64 s.arr.prNext ports } }

/-- One region: a region recorded as unconfigured takes its initial values. -/
def restoreRegion (b : List Byte) (base i region : Nat) (s : State) : State :=
  let o := base + 4756480 + 11264 * i
  if fieldAt b o 1 % 2 = 0 then resetRegion region s
  else
    let f := s.fab
    let ffs := (List.range 32768).map fun n => (ffKey region n, natBit (fieldAt b (o + 64 + n / 8) 1) (n % 8))
    let cn := (List.range 4).flatMap fun c => (List.range 16).map fun n => (c, n)
    let key := fun e : Nat × Nat => (region * 4 + e.1) * 16 + e.2
    { s with fab := { f with
      ff := smPutAll false f.ff ffs
      or_ := smPutAll 0#64 f.or_ (cn.map fun e => (key e, BitVec.ofNat 64 (fieldAt b (o + 4160 + 256 * e.1 + 8 * e.2) 8)))
      ir := smPutAll 0#64 f.ir (cn.map fun e => (key e, BitVec.ofNat 64 (fieldAt b (o + 4288 + 256 * e.1 + 8 * e.2) 8)))
      bout := smPutAll 0#36 f.bout ((List.range 192).map fun k => (region * 192 + k, BitVec.ofNat 36 (fieldAt b (o + 5184 + 8 * k) 8))) } }

/-- Block memories of a die. -/
def restoreBmems (b : List Byte) (base pd : Nat) (s : State) : State :=
  let rows := (List.range (576 * 256)).map fun r => (pd * 576 * 256 + r, BitVec.ofNat 72 (fieldAt b (base + 4824064 + 9 * r) 9))
  { s with fab := { s.fab with bmem := smPutAll 0#72 s.fab.bmem rows } }

/-- Offsets in a record of the slices' contexts that SLICE SAVE writes: those in one bank (R261, R262). -/
def State.lateSlices (s : State) (x : Partition) : List Nat :=
  ((List.range x.diePairs.length).zip x.diePairs).flatMap fun e =>
    (List.range 288).filterMap fun i =>
      let n := 288 * e.2.2 + i
      if !s.bothBanks n && s.regionLive (sliceRegion n) then some (4096 + dieBytes * e.1 + 6151168 + 2304 * i) else none

/-- Runs of a record, as offset and length, that SAVE writes before a switch's tick, and after it. -/
def CastRec.runs (r : CastRec) (after : Bool) : List (Nat × Nat) :=
  if after then r.late.map fun o => (o, 2304)
  else
    let ends := r.late ++ [r.len]
    (List.range ends.length).map fun i =>
      let a := if i = 0 then 0 else ends.getD (i - 1) 0 + 2304
      (a, ends.getD i 0 - a)

/-- One slice (R213, R262): a slice that keeps its context in both banks takes both; another takes the recorded active bank into the
bank that does not run, or, on the stepwise path, into the bank ACTIVE selects. -/
def restoreSlice (b : List Byte) (o n : Nat) (switching : Bool) (s : State) : State :=
  let x := s.slice n
  let b0 := bankFrom b o
  let b1 := bankFrom b (o + 128)
  let act := natBit (fieldAt b (o + 96) 1) 0
  let lb := smPutAll 0#18 [] ((List.range 512).map fun i => (i, BitVec.ofNat 18 (fieldAt b (o + 256 + 4 * i) 4)))
  let ctx := if act then b1 else b0
  let into1 := if switching then !x.active else x.active
  s.setSlice n (if s.bothBanks n then { x with bank0 := b0, bank1 := b1, active := act, lb := lb }
    else if into1 then { x with bank1 := ctx, lb := lb }
    else { x with bank0 := ctx, lb := lb }).settle

/-- Regions of a die recorded as configured. -/
def recordedRegion (b : List Byte) (base i : Nat) : Bool := fieldAt b (base + 4756480 + 11264 * i) 1 % 2 = 1

/-- One die's section. -/
def restoreDie (b : List Byte) (base ld pd bank : Nat) (switching : Bool) (x : Partition) (s : State) : State :=
  let hosts := (List.range 24).filterMap fun i => (x.pcl (24 * ld + i)).map fun pcl => (i, pcl)
  let s1 := hosts.foldl (fun a e => restoreCluster b base e.1 e.2 bank a) s
  let s2 := (List.range 6).foldl (fun a i => restoreRegion b base i (6 * pd + i) a) s1
  let live := (List.range 288).filter fun i => recordedRegion b base (i / 48)
  live.foldl (fun a i => restoreSlice b (base + 6151168 + 2304 * i) (288 * pd + i) switching a) (restoreBmems b base pd s2)

/-- The saved state is written through the placement map in force, and the restore is pending (R262, R263). -/
def applyRestore (p : Nat) (b : List Byte) (s : State) : State :=
  let x := s.part p
  let m : FrameNo := BitVec.ofNat 48 (fieldAt b 12 6)
  let bank := (m.toNat + 3) % 4
  let dies := (List.range x.diePairs.length).zip x.diePairs
  let s1 := dies.foldl (fun a e => restoreDie b (4096 + dieBytes * e.1) e.2.1 e.2.2 bank x.switch.isSome x a) (clearBanks p [bank] s)
  s1.setPart p { s1.part p with restore := some (m, x.switch.isSome) }

/-- Refusals of MAQUETTE.START by the pair (R300): PAIR_WIRING, then PAIR_IMAGE. -/
def pairRefusal (p : Nat) (s : State) : Option Nat :=
  let x := s.part p
  let peer := smGet 0#384 s.pend.peerIdigest p
  match s.pend.st with
  | .unpaired | .pairing => none
  | .independent => if x.paired then some St.pairWiring else none
  | _ =>
    if !x.paired then some St.pairWiring
    else if peer ≠ 0 ∧ some peer ≠ x.image.map (·.idigest) then some St.pairImage else none

/-- START of a switch (R261): as MAQUETTE.START, its refusal by the pair included (R264, R300). -/
def switchStart (p : Nat) (s : State) : State :=
  match pairRefusal p s with
  | some st => failSwitch p 7 st s
  | none => beginStart p none s

/-- The command or the switch that asked for the restore learns its outcome: OK goes on to START (Table 11.7), CAST_MISMATCH and
LOAD_FAULT leave the partition LOADED (R263, Table 11.9). -/
def endRestore (p outcome : Nat) (s : State) : State :=
  let x := s.part p
  match x.restoreCtx with
  | some c =>
    let s1 := endCast p (s.setPart p { x with restoreCtx := none })
    if outcome = St.loadFault then complete c St.switchFailed (leBytes 1 6 ++ zeros 1 ++ leBytes 2 outcome) s1 else complete c outcome [] s1
  | none =>
    match x.switch with
    | some w =>
      let s1 := endCast p s
      if outcome = St.ok then
        let s2 := phaseEvent p 6 s1
        switchStart p (s2.setPart p { s2.part p with switch := some { w with phase := 7 } })
      else failSwitch p 6 outcome s1
    | none => s

/-- RESTORE_COMPLETE (R262, R263, Table 11.9): the record is read whole; a translation fault suspends its list; engines stand still while the
device is halted (R456). -/
def execRestoreComplete (part : Fin 4) (s : State) : Res :=
  let p := part.val
  .next (match s.engineOf (.restore p) with
    | none => s
    | some e =>
      match s.lists e with
      | [] => s
      | l :: _ =>
        if l.kind ≠ .restore p ∨ l.suspended ∨ s.clk.halt.isSome then s
        else
          let el := l.elems.headD { src := 0, dst := 0, len := 0, dir := 2, rsvd := 0 }
          match readJob (s.listAccess l) el.src.toNat el.len.toNat s with
          | (_, some f, s1) =>
            let g : ElemFault := { srcSide := true, f := f }
            if f.cause = 7 then endRestore p St.loadFault (dropHead e (recordFault e l 0 g s1)) else suspendList e l 0 g s1
          | (b, none, s1) =>
            let s2 := dropHead e s1
            if castMismatch b (s2.part p) s2 then endRestore p St.castMismatch s2 else endRestore p St.ok (applyRestore p b s2))

end Sys2Proof.Machine
end

