-- ==== Sys2Proof/Machine/Debug.lean ====
section
/-!
DEFINITION. Debug.lean: the halt (R456 to R458) and DBG.HALT, DBG.RUN and DBG.ACCESS (R358, R459).
-/
namespace Sys2Proof.Machine

/-! ### Halt -/

/-- The halt's HOLD in a partition that runs or has a pause pending (R457): raised for the frame that R33 charges, its veto
sent at once. -/
def haltHold (p : Nat) (s : State) : State :=
  let x := s.part p
  if x.st ≠ .running ∨ x.pausedAt.isSome ∨ x.heldFrame.isSome ∨ !(x.phase = .frame || x.phase = .withheld) then s
  else
    let k := chargeFrame x s.cnt
    let s1 := s.setPart p { x with
      holds := x.holds ++ [{ code := St.debugHalt, unit := 0, frame := k, resolved := false }], vetoes := x.vetoes ++ [(k, true)] }
    let s2 := logRec { cause := St.debugHalt, sub := 0xF, sev := 2, part := p } s1
    offerVeto p k true false true { s2 with clk := { s2.clk with haltHeld := s2.clk.haltHeld ++ [p] } }

/-- The step clock is gated: the step at which the command executes is the halt step (R456). -/
def startHalt (s : State) : State := eachPart haltHold { s with clk := { s.clk with halt := some s.clk.count, haltHeld := [] } }

/-- A replay or restart tick that fell while the device was halted is missed: HOLD is raised for its frame, on the terms of a
halt that has just ended (R457). -/
def missedTick (p : Nat) (s : State) : State :=
  let x := s.part p
  match x.nextTick with
  | some (g, k, r) =>
    if x.st = .running ∧ g ≤ s.cnt ∧ (x.phase = .drain ∨ x.phase = .paused ∨ x.phase = .leadIn) then
      let y := s.part p
      let s2 := s.setPart p { y with
        nextTick := none, pausedAt := if r then y.pausedAt else none, restart := if r then y.restart else none, phase := .drain
        holds := y.holds ++ [{ code := St.debugHalt, unit := 0, frame := k, resolved := false }], vetoes := y.vetoes ++ [(k, true)] }
      offerVeto p k true false true (logRec { cause := St.debugHalt, sub := 0xF, sev := 2, part := p } s2)
    else s
  | none => s

/-- The halt ends: ticks that were missed hold, and every hold that the halt raised is cleared (R457). -/
def endHalt (s : State) : State :=
  if s.clk.halt.isNone then s
  else
    let s1 := eachPart missedTick { s with clk := { s.clk with halt := none, haltHeld := [] } }
    eachPart (fun p a => resolveHold p St.debugHalt 0 a) s1

/-- Pair states in which a halt needs every partition paused (R458). -/
def haltBarred (s : State) : Bool :=
  (decide (s.pend.st = .lockstep) || decide (s.pend.st = .copy) || decide (s.pend.st = .joining)) &&
    !([0, 1, 2, 3].all fun p => decide ((s.part p).st ≠ .running) || (s.part p).pausedAt.isSome)

/-- DBG.HALT (R456, R458): when already halted it reports the halt in force. -/
def execDbgHalt (c : CmdCtx) (s : State) : Res :=
  .next (immediate .f 0x0D01 c (fun s =>
    match s.clk.halt with
    | some h => reply c 0x0D01 St.ok (leBytes 8 h.toNat) s
    | none =>
      if haltBarred s then reply c 0x0D01 St.wrongState [] s
      else reply c 0x0D01 St.ok (leBytes 8 s.cnt) (startHalt s)) s)

/-- DBG.RUN (R457): legal while halted. -/
def execDbgRun (c : CmdCtx) (s : State) : Res :=
  .next (immediate .f 0x0D02 c (fun s =>
    if s.clk.halt.isNone then reply c 0x0D02 St.wrongState [] s else reply c 0x0D02 St.ok [] (endHalt s)) s)

/-! ### Units of SPACE 0 to 2 (R358) -/

/-- One unit as a debug access finds it: its stored bytes and its check, 0 passed, 1 corrected, 2 uncorrectable. -/
structure DbgUnit where
  bytes : List Byte
  check : Nat
  /-- log-only cause and LOC of an uncorrectable unit -/
  cause : Nat
  loc : Nat
deriving DecidableEq, Repr

/-- A place in a store: how many units stand from it on within its store, and how to read and write unit i. -/
structure DbgPlace where
  /-- bytes of a unit -/
  size : Nat
  /-- units from the first one to the end of the store -/
  left : Nat
  read : Nat → DbgUnit
  write : Nat → Nat → State → State
  /-- a write may reach unit i -/
  writable : Nat → Bool
  /-- physical cluster or slice's region whose partition the write belongs to -/
  owner : State → Option Nat
  /-- LOC of the first unit, for the log -/
  loc : Nat

/-- Reserved bits of an entry taken out. -/
def keepBits (mask v : Nat) : Nat := v &&& mask

/-- A unit of a store with SEC-DED check bits. -/
def eccUnit (s : State) (st : Store) (key size v loc : Nat) : DbgUnit :=
  { bytes := leBytes size v, check := s.errAt st key, cause := St.wordUncorr, loc := loc }

/-- SPACE 0: instruction words of one BP. -/
def wordPlace (s : State) (a : Nat) : Option DbgPlace :=
  let col := natBits a 0 6
  let grp := natBits a 6 4
  let pcl := natBits a 10 7
  let k0 := natBits a 17 9
  if 2 ^ 26 ≤ a ∨ 96 ≤ pcl then none
  else some {
    size := 12, left := 512 - k0
    read := fun i => eccUnit s .word (wordKey pcl grp (k0 + i) col) 12 (smGet 0#96 s.arr.words (wordKey pcl grp (k0 + i) col)).toNat (s.bpLoc pcl grp col (k0 + i) 0)
    write := fun i v t =>
      let key := wordKey pcl grp (k0 + i) col
      let t1 := t.setErr .word key 0
      { t1 with arr := { t1.arr with words := smSet 0#96 t1.arr.words key (BitVec.ofNat 96 (v % 2 ^ 92)) } }
    writable := fun _ => true, owner := fun t => t.partOf pcl, loc := s.bpLoc pcl grp col k0 0 }

/-- A Net Memory row as a debug read returns it: banked, unbanked, or a row above them (R76, Table 2.2a). -/
def rowUnit (s : State) (pcl grp bank row : Nat) : DbgUnit :=
  let loc := s.bpLoc pcl grp 0 row (if row < 1536 then bank else 0)
  if row < 1536 then
    { bytes := leBytes 8 (s.nmRow pcl grp bank row).toNat, check := if smGet false s.arr.nmBad (nmKey pcl grp bank row) then 2 else 0, cause := St.nmParity, loc := loc }
  else if row < 1668 ∨ row = 2047 then
    { bytes := leBytes 8 (s.portRow pcl grp row).toNat, check := if smGet false s.arr.prBad (prKey pcl grp row) then 2 else 0, cause := St.nmParity, loc := loc }
  else { bytes := zeros 8, check := 0, cause := St.nmParity, loc := loc }

/-- SPACE 1: Net Memory rows of one group and bank. -/
def rowPlace (s : State) (a : Nat) : Option DbgPlace :=
  let grp := natBits a 6 4
  let pcl := natBits a 10 7
  let r0 := natBits a 17 11
  let bank := natBits a 28 2
  if 2 ^ 30 ≤ a ∨ natBits a 0 6 ≠ 0 ∨ 96 ≤ pcl then none
  else some {
    size := 8, left := 2048 - r0
    read := fun i => rowUnit s pcl grp bank (r0 + i)
    write := fun i v t =>
      let row := r0 + i
      if row < 1536 then t.setNm pcl grp bank row (BitVec.ofNat 64 v)
      else { t with arr := { t.arr with
        pr := smSet 0#64 t.arr.pr (prKey pcl grp row) (BitVec.ofNat 64 v), prBad := smSet false t.arr.prBad (prKey pcl grp row) false } }
    writable := fun i => decide (r0 + i < 1668), owner := fun t => t.partOf pcl, loc := s.bpLoc pcl grp 0 r0 (if r0 < 1536 then bank else 0) }

/-- A place over entries of one step index: key base, entries, width, writable bits. -/
def entryPlace (s : State) (st : Store) (base e0 count size mask loc : Nat) (get : Nat → Nat) (put : Nat → Nat → State → State)
    (owner : State → Option Nat) : DbgPlace :=
  { size := size, left := count - e0
    read := fun i => eccUnit s st (base + e0 + i) size (get (base + e0 + i)) (loc + i * 2 ^ 18)
    write := fun i v t => put (base + e0 + i) (keepBits mask v) (t.setErr st (base + e0 + i) 0)
    writable := fun _ => true, owner := owner, loc := loc }

/-- Fabric port at which a physical cluster's maps stand: that of the logical cluster it hosts. -/
def portOfPcl (s : State) (pcl : Nat) : Nat :=
  match s.partOf pcl with
  | some p => match (s.part p).lclOf pcl with | some l => fabPort pcl l | none => pcl
  | none => pcl

/-- Partition whose lanes a port's maps serve. -/
def State.partOfPort (s : State) (port : Nat) : Option Nat :=
  [0, 1, 2, 3].find? fun p => decide ((s.part p).st ≠ .empty) && natBit (s.part p).pmask port

/-- Owner of a slice: the partition of its region's die. -/
def State.partOfSlice (s : State) (n : Nat) : Option Nat := s.partOfDie (sliceRegion n / 6)

/-- Micro-instructions of a slice from word j. -/
def uopPlace (s : State) (n j0 loc : Nat) : DbgPlace :=
  { size := 8, left := 512 - j0
    read := fun i => { bytes := leBytes 8 (s.uop n (j0 + i)).toNat, check := smGet 0 s.fab.uopErr (n * 1024 + j0 + i), cause := St.wordUncorr, loc := loc + i * 2 ^ 28 }
    write := fun i v t => { t with fab := { t.fab with
      uops := smSet 0#64 t.fab.uops (n * 512 + j0 + i) (BitVec.ofNat 64 (keepBits 0x0FFFFFFFFFFFFFFF v))
      uopErr := smSet 0 t.fab.uopErr (n * 1024 + j0 + i) 0 } }
    writable := fun _ => true, owner := fun t => t.partOfSlice n, loc := loc }

/-- SPACE 2: entries of a cluster table, a map or a slice's micro-instructions, addressed in the LOC form of Table 20.7. DESIGN CHOICE:
configuration words, which R174 lets a Full debug master read while halted, have no ADDR form in R358 and are not offered (log
entry 72). -/
def entryAt (s : State) (a : Nat) : Option DbgPlace :=
  let unit := natBits a 0 7
  let grp := natBits a 11 7
  let e0 := natBits a 18 10
  let k := natBits a 28 10
  let cl := natBits a 7 4 = 0 && decide (unit < 96)
  let own := fun t : State => t.partOf unit
  if 2 ^ 41 ≤ a then none
  else match natBits a 38 3 with
    | 0 => if !cl ∨ 16 ≤ grp ∨ 64 ≤ e0 then none
      else some (entryPlace s .route (routeKey unit k grp 0) e0 64 2 0x0FFF a (fun key => (smGet 0x0FFF#16 s.arr.routes key).toNat)
        (fun key v t => { t with arr := { t.arr with routes := smSet 0x0FFF#16 t.arr.routes key (BitVec.ofNat 16 v) } }) own)
    | 1 => if !cl ∨ grp ≠ 0 ∨ 256 ≤ e0 then none
      else some (entryPlace s .dxexp (dxKey unit k 0) e0 256 4 0x03FFFFFF a (fun key => (smGet 0#32 s.arr.dxexp key).toNat)
        (fun key v t => { t with arr := { t.arr with dxexp := smSet 0#32 t.arr.dxexp key (BitVec.ofNat 32 v) } }) own)
    | 2 => if !cl ∨ grp ≠ 0 ∨ 96 ≤ e0 then none
      else some (entryPlace s .sxexp (sxKey unit k 0) e0 96 2 0x07FF a (fun key => (smGet 0#16 s.arr.sxexp key).toNat)
        (fun key v t => { t with arr := { t.arr with sxexp := smSet 0#16 t.arr.sxexp key (BitVec.ofNat 16 v) } }) own)
    | 3 => if natBits a 0 11 ≠ 0 ∨ 16 ≤ grp ∨ 576 ≤ e0 then none
      else some (entryPlace s .inj (injKey k (grp * 576)) e0 576 2 0xBFFF a (fun key => (smGet 0#16 s.arr.inj key).toNat)
        (fun key v t => { t with arr := { t.arr with inj := smSet 0#16 t.arr.inj key (BitVec.ofNat 16 v) } }) (fun t => t.partOfPort grp))
    | 4 => if natBits a 0 11 ≠ 0 ∨ 16 ≤ grp ∨ 576 ≤ e0 ∨ k ≠ 0 then none
      else some (entryPlace s .thr (grp * 576) e0 576 2 0xBFFF a (fun key => (smGet 0#16 s.arr.thr key).toNat)
        (fun key v t => { t with arr := { t.arr with thr := smSet 0#16 t.arr.thr key (BitVec.ofNat 16 v) } }) (fun t => t.partOfPort grp))
    | 5 => if !cl ∨ grp ≠ 0 ∨ 96 ≤ e0 then none
      else some (entryPlace s .ej (ejKey (portOfPcl s unit) k 0) e0 96 2 0xBFFF a (fun key => (smGet 0#16 s.arr.ej key).toNat)
        (fun key v t => { t with arr := { t.arr with ej := smSet 0#16 t.arr.ej key (BitVec.ofNat 16 v) } }) own)
    | 6 => if 1152 ≤ natBits a 0 11 ∨ grp ≠ 0 ∨ e0 ≠ 0 ∨ 512 ≤ k then none else some (uopPlace s (natBits a 0 11) k a)
    | _ => none

/-- The store that a SPACE and ADDR name. -/
def dbgPlace (s : State) (space a : Nat) : Option DbgPlace :=
  if space = 0 then wordPlace s a else if space = 1 then rowPlace s a else entryAt s a

/-- FIXED of an access: the worst check among its units. -/
def fixedOf (l : List DbgUnit) : Nat := l.foldl (fun a u => max a u.check) 0

/-- Uncorrectable units are logged; a debug read raises no veto and starts no recovery (R358). -/
def logUnits (l : List DbgUnit) (s : State) : State :=
  l.foldl (fun a u => if u.check = 2 then logRec { cause := u.cause, sub := 0xF, sev := 5, loc := u.loc } a else a) s

/-- A debug write is logged (R59) and sets FLAGS[1] of the settings record of the partition it lands in, which the digest
covers (Table 7.8, R171). -/
def noteWrite (space units : Nat) (pl : DbgPlace) (s : State) : State :=
  let own := pl.owner s
  let s1 := logRec { cause := St.debugWrite, sub := 0xF, sev := 5, part := own.getD 0xFF, loc := pl.loc, detail := space + 2 ^ 32 * units } s
  match own with
  | some p =>
    let s2 := s1.setPart p { s1.part p with flags := (s1.part p).flags ||| 2 }
    { s2 with trust := { s2.trust with digestDue := true } }
  | none => s1

/-- An access to SPACE 0 to 2 (R358, R459). -/
def accessStore (c : CmdCtx) (wr : Bool) (space a n : Nat) (wdata : List Byte) (s : State) : State :=
  if s.clk.halt.isNone then reply c 0x0D03 St.wrongState [] s
  else match dbgPlace s space a with
    | none => reply c 0x0D03 St.argRange [] s
    | some pl =>
      let k := n / pl.size
      if n % pl.size ≠ 0 ∨ pl.left < k then reply c 0x0D03 St.argRange [] s
      else
        let us := (List.range k).map pl.read
        let fixed := leBytes 1 (fixedOf us) ++ zeros 3
        let s1 := logUnits us s
        if !wr then reply c 0x0D03 St.ok (fixed ++ us.flatMap (·.bytes)) s1
        else if !((List.range k).all pl.writable) then reply c 0x0D03 St.argRange [] s
        else
          let s2 := (List.range k).foldl (fun t i => pl.write i (fieldAt wdata (i * pl.size) pl.size) t) s1
          reply c 0x0D03 St.ok fixed (noteWrite space k pl s2)

/-! ### SPACE 3 and 4 -/

/-- The IV of a line (R266): its physical line address, its counter, 0. -/
def State.lineIv (s : State) (line : Nat) : BitVec 96 := BitVec.ofNat 46 line ++ BitVec.ofNat 32 (s.meta line).counter ++ 0#18

/-- A line whose stored content the spec does not give: unwritten, poisoned or damaged. -/
def State.contentOpen (s : State) (line : Nat) : Bool :=
  let m := s.meta line
  decide (m.counter = 0) || m.poison || m.tagBad || decide (m.ecc = 2)

/-- Stored bytes of a DRAM line (R266, Table 12.2): ciphertext; of a line whose stored content the spec does not give, an open value. -/
def State.storedLine (s : State) (line : Nat) : BitVec 512 :=
  if s.contentOpen line then Config.rawLine line
  else Config.gcmCipher (s.meta line).key (s.lineIv line) (s.bytesAtPhys (line * 64) 64)

/-- Stored tag of a line: the leading 64 bits of the GCM tag (R266). -/
def State.storedTag (s : State) (line : Nat) : BitVec 64 :=
  if s.contentOpen line then Config.rawTag line
  else (Config.gcmTag (s.meta line).key (s.lineIv line) (s.bytesAtPhys (line * 64) 64)).extractLsb' 64 64

/-- One byte of device physical memory as stored: data, tag array or counter array (R267); none outside them. -/
def State.storedByte (s : State) (a : Nat) : Option Byte :=
  let n := s.dram.usable
  let tb := s.tagBase
  let cb := s.ctrBase
  if a < n * 64 then some (BitVec.ofNat 8 ((s.storedLine (a / 64)).toNat / 256 ^ (a % 64)))
  else if tb ≤ a ∧ a < tb + 8 * n then some (BitVec.ofNat 8 ((s.storedTag ((a - tb) / 8)).toNat / 256 ^ ((a - tb) % 8)))
  else if cb ≤ a ∧ a < cb + 4 * n then some (BitVec.ofNat 8 ((s.meta ((a - cb) / 4)).counter / 256 ^ ((a - cb) % 4)))
  else none

/-- A physical access (Table 12.2): reads return what is stored; a write is denied. -/
def accessPhys (c : CmdCtx) (wr : Bool) (a n : Nat) (s : State) : State :=
  if wr then reply c 0x0D03 St.dbgDenied [] (secEvent 2 0 0xFF 0xF (a / 64 * 64) 0 s)
  else if s.memGone then reply c 0x0D03 St.memUnavailable [] s
  else
    let got := (List.range n).filterMap fun i => s.storedByte (a + i)
    if got.length ≠ n then reply c 0x0D03 St.argRange [] s else reply c 0x0D03 St.ok (zeros 4 ++ got) s

/-- First page of a range whose access faults: its address, cause and level. -/
def firstFault (s : State) (jsid a n : Nat) (wr : Bool) : Option (Nat × Nat × Nat) :=
  let pages := (List.range (n / 4096 + 2)).map fun i => if i = 0 then a else (a / 4096 + i) * 4096
  (pages.filter fun q => decide (q < a + n)).findSome? fun q => match translate s (s.access jsid 0xF) q wr false with | .error (k, l) => some (q, k, l) | .ok _ => none

/-- The access's fault record, which clears when the reply is sent (R358). -/
def debugFault (c : CmdCtx) (jsid addr cause level : Nat) (wr : Bool) (s : State) : State :=
  let r : FaultRec := {
    seq := 0, src := 6, cause := cause, level := level, jsid := jsid, faddr := addr, elem := 0, eng := 0xFF, count := 1, done := 0, frame := 0
    part := 0xFF, wr := wr, srcSide := !wr, resolved := false, abandoned := false }
  freeFaults (fun f => decide (f.src = 6)) (reply c 0x0D03 St.transFault [] (postFault r s))

/-- A job-space access (R274, R358). -/
def accessJob (c : CmdCtx) (wr : Bool) (jsid a n : Nat) (wdata : List Byte) (s : State) : State :=
  if 16 ≤ jsid ∨ !rangeOk a n then reply c 0x0D03 St.argRange [] s
  else if s.memGone then reply c 0x0D03 St.memUnavailable [] s
  else
    let denied := match s.binding jsid with | some b => !b.dbg | none => false
    if denied then reply c 0x0D03 St.dbgDenied [] (secEvent 2 ((s.takeKix jsid).getD 0) jsid 0xF 0 a s)
    else match firstFault s jsid a n wr with
      | some (q, k, l) => debugFault c jsid q k l wr (walkRead jsid 0xF q s)
      | none =>
        if wr then
          match writeJob (s.access jsid 0xF) a wdata s with
          | (some f, s1) => debugFault c jsid f.addr f.cause f.level wr s1
          | (none, s1) => reply c 0x0D03 St.ok (zeros 4) s1
        else
          match readJob (s.access jsid 0xF) a n s with
          | (_, some f, s1) => debugFault c jsid f.addr f.cause f.level wr s1
          | (b, none, s1) => reply c 0x0D03 St.ok (zeros 4 ++ b) s1

/-- Length of the write data that OP asks for. -/
def dbgDataOk (op : Byte) (n : U32) (wdata : List Byte) : Bool := decide (wdata.length = if op = 1 then n.toNat else 0)

/-- DBG.ACCESS (R358, R459): job-space accesses wait for the pages that a TRANS.MAP or TRANS.UNMAP holds (R338). -/
def execDbgAccess (c : CmdCtx) (op space jsid rsvd : Byte) (addr : U64) (n rsvd2 : U32) (wdata : List Byte) (s : State) : Res :=
  .next (pageWait c jsid.toNat addr.toNat (if space = 4 then n.toNat else 0) (immediate .f 0x0D03 c (fun s =>
    if !dbgDataOk op n wdata then reply c 0x0D03 St.lenPayload [] s
    else if 1 < op.toNat ∨ 4 < space.toNat ∨ rsvd ≠ 0 ∨ rsvd2 ≠ 0 ∨ n = 0 ∨ 4060 < n.toNat then reply c 0x0D03 St.argRange [] s
    else if space.toNat < 3 then accessStore c (op = 1) space.toNat addr.toNat n.toNat wdata s
    else if space = 3 then accessPhys c (op = 1) addr.toNat n.toNat s
    else accessJob c (op = 1) jsid.toNat addr.toNat n.toNat wdata s)) s)

end Sys2Proof.Machine
end

