-- ==== Sys2Proof/Machine/Packet.lean ====
section
/-!
DEFINITION. Packet.lean: command packets (Table 15.1): the payload length of every opcode (Tables 16.2 to 16.16), the command that a
packet's bytes spell, and checks 2 to 6 of R324.
-/
namespace Sys2Proof.Machine

/-! ### Header (Table 15.1) -/

/-- OPCODE. -/
def pktOp (b : List Byte) : Nat := fieldAt b 0 2
/-- TAG. -/
def pktTag (b : List Byte) : U16 := BitVec.ofNat 16 (fieldAt b 2 2)
/-- LENGTH. -/
def pktLength (b : List Byte) : Nat := fieldAt b 4 4
/-- PATH. -/
def pktPath (b : List Byte) : Nat := fieldAt b 8 2
/-- EFRAME. -/
def pktEframe (b : List Byte) : FrameNo := BitVec.ofNat 48 (fieldAt b 10 6)
/-- Payload. -/
def pktPayload (b : List Byte) : List Byte := b.drop 16

/-- Byte 1 names a reply, a completion event or an unsolicited event (R320). -/
def answerClass (b : List Byte) : Bool :=
  let g := fieldAt b 1 1
  (decide (0x81 ≤ g) && decide (g ≤ 0x8F)) || (decide (0xC1 ≤ g) && decide (g ≤ 0xCF)) || (decide (g = 0xFF) && decide (fieldAt b 0 1 = 0))

/-! ### Payload lengths (Tables 16.2 to 16.16) -/

/-- Opcodes that take an effective frame (EF of Command Reference). -/
def takesFrame (op : Nat) : Bool := [0x0301, 0x0304, 0x0404, 0x0405, 0x0406, 0x0902, 0x0903, 0x0906, 0x0907, 0x0D04, 0x0F04].contains op

/-- Payload offset of PART in an opcode that takes an effective frame. -/
def partOffset (op : Nat) : Nat := if op = 0x0902 then 2 else if op = 0x0903 then 1 else 0

/-- Link-local opcodes (Table 16.16, class L). -/
def linkLocal (op : Nat) : Bool := decide (op = 0x0F01) || decide (op = 0x0F02)

/-- Payload length of the opcodes of groups 0x01 to 0x05; the payload is given for those whose tail varies. -/
def lenLow (op : Nat) (p : List Byte) : Option Nat :=
  if [0x0101, 0x0102, 0x0202].contains op then some 0
  else if [0x0103, 0x0201, 0x0302, 0x0303, 0x0305, 0x0402, 0x0403, 0x0404, 0x0505].contains op then some 4
  else if op = 0x0203 then some (8 + 8 * fieldAt p 4 1)
  else if op = 0x0301 then some 8
  else if op = 0x0304 then some 12
  else if [0x0401, 0x0405].contains op then some 20
  else if op = 0x0406 then some 44
  else if [0x0501, 0x0503, 0x0506].contains op then some 16
  else if op = 0x0502 then some 24
  else if op = 0x0504 then some (12 + 4 * fieldAt p 3 1)
  else none

/-- Those of groups 0x06 to 0x0A. DMA.SUBMIT judges its length itself (R256). -/
def lenMid (op : Nat) (p : List Byte) : Option Nat :=
  if op = 0x0601 then some p.length
  else if [0x0602, 0x0603].contains op then some 8
  else if op = 0x0701 then some (if fieldAt p 1 1 = 1 then 144 else 4)
  else if [0x0706, 0x0905, 0x0908, 0x0909, 0x0A03].contains op then some 0
  else if op = 0x0806 then some 16
  else if op = 0x0A01 then some 12
  else if [0x0604, 0x0702, 0x0703, 0x0704, 0x0705, 0x0801, 0x0802, 0x0803, 0x0804, 0x0805, 0x0807,
      0x0901, 0x0902, 0x0903, 0x0904, 0x0906, 0x0907, 0x0A02].contains op then some 4
  else none

/-- Those of groups 0x0B to 0x0F. -/
def lenHigh (op : Nat) (p : List Byte) : Option Nat :=
  if [0x0B01, 0x0C05, 0x0C06, 0x0C07, 0x0D01, 0x0D02, 0x0F01, 0x0F05].contains op then some 0
  else if [0x0B04, 0x0C02, 0x0C04, 0x0E01, 0x0E02, 0x0F02, 0x0F04, 0x0F06].contains op then some 4
  else if [0x0E03, 0x0E04, 0x0F03].contains op then some 8
  else if [0x0B02, 0x0D06].contains op then some 16
  else if op = 0x0B03 ∨ op = 0x0C01 then some 36
  else if op = 0x0C03 then some (8 + fieldAt p 4 4)
  else if op = 0x0D03 then some (20 + if fieldAt p 0 1 = 1 then fieldAt p 12 4 else 0)
  else if op = 0x0D04 then some 12
  else if [0x0D05, 0x0D07].contains op then some 24
  else none

/-- Payload length that an opcode requires; none for an opcode that Command Reference does not list (R320). -/
def payloadLen (op : Nat) (p : List Byte) : Option Nat :=
  if groupOf op ≤ 5 then lenLow op p else if groupOf op ≤ 10 then lenMid op p else lenHigh op p

/-! ### The command a packet spells -/

/-- A payload field of w bits from n bytes at an offset. -/
def pf (w : Nat) (p : List Byte) (off n : Nat) : BitVec w := BitVec.ofNat w (fieldAt p off n)

/-- n records of a payload from an offset on. -/
def records {α : Type} (f : Nat → α) (off size n : Nat) : List α := (List.range n).map fun i => f (off + i * size)

/-- Groups 0x01 to 0x03. -/
def spellLow (c : CmdCtx) (op : Nat) (p : List Byte) : Option Instr :=
  match op with
  | 0x0101 => some (.identQuery c)
  | 0x0102 => some (.identEquiv c)
  | 0x0103 => some (.identCert c (pf 32 p 0 4))
  | 0x0201 => some (.pwrSet c (pf 8 p 0 1) (pf 24 p 1 3))
  | 0x0202 => some (.pwrStatus c)
  | 0x0203 => some (.pwrWatch c (pf 32 p 0 4) (pf 8 p 4 1) (pf 8 p 5 1) (pf 16 p 6 2)
      (records (fun o => { saddr := pf 8 p o 1, sreg := pf 8 p (o + 1) 1, low := pf 16 p (o + 2) 2, high := pf 16 p (o + 4) 2, rsvd := pf 16 p (o + 6) 2 })
        8 8 (fieldAt p 4 1)))
  | 0x0301 => some (.framePause c (pf 8 p 0 1) (pf 24 p 1 3) (pf 32 p 4 4))
  | 0x0302 => some (.frameResume c (pf 8 p 0 1) (pf 24 p 1 3))
  | 0x0303 => some (.frameStep c (pf 8 p 0 1) (pf 8 p 1 1) (pf 16 p 2 2))
  | 0x0304 => some (.frameMailbox c (pf 8 p 0 1) (pf 8 p 1 1) (pf 8 p 2 1) (pf 8 p 3 1) (pf 64 p 4 8))
  | 0x0305 => some (.frameStatus c (pf 8 p 0 1) (pf 24 p 1 3))
  | _ => none

/-- Groups 0x04 and 0x05. -/
def spellMaquette (c : CmdCtx) (op : Nat) (p : List Byte) : Option Instr :=
  match op with
  | 0x0401 => some (.maquetteLoad c (pf 8 p 0 1) (pf 8 p 1 1) (pf 8 p 2 1) (pf 8 p 3 1) (pf 64 p 4 8) (pf 64 p 12 8))
  | 0x0402 => some (.maquetteStart c (pf 8 p 0 1) (pf 24 p 1 3))
  | 0x0403 => some (.maquetteUnload c (pf 8 p 0 1) (pf 24 p 1 3))
  | 0x0404 => some (.maquetteMigrate c (pf 8 p 0 1) (pf 8 p 1 1) (pf 8 p 2 1) (pf 8 p 3 1))
  | 0x0405 => some (.maquetteRegion c (pf 8 p 0 1) (pf 24 p 1 3) (pf 64 p 4 8) (pf 64 p 12 8))
  | 0x0406 => some (.maquetteSwitch c (pf 8 p 0 1) (pf 8 p 1 1) (pf 8 p 2 1) (pf 8 p 3 1) (pf 64 p 4 8) (pf 64 p 12 8)
      (pf 64 p 20 8) (pf 64 p 28 8) (pf 64 p 36 8))
  | 0x0501 => some (.transPool c (pf 64 p 0 8) (pf 64 p 8 8))
  | 0x0502 => some (.transMap c (pf 8 p 0 1) (pf 8 p 1 1) (pf 8 p 2 1) (pf 8 p 3 1) (pf 16 p 4 2) (pf 16 p 6 2) (pf 64 p 8 8) (pf 64 p 16 8))
  | 0x0503 => some (.transUnmap c (pf 8 p 0 1) (pf 8 p 1 1) (pf 16 p 2 2) (pf 16 p 4 2) (pf 16 p 6 2) (pf 64 p 8 8))
  | 0x0504 => some (.transResolve c (pf 8 p 0 1) (pf 8 p 1 1) (pf 8 p 2 1) (pf 8 p 3 1) (pf 48 p 4 6) (pf 16 p 10 2)
      (records (fun o => pf 32 p o 4) 12 4 (fieldAt p 3 1)))
  | 0x0505 => some (.transFaults c (pf 8 p 0 1) (pf 24 p 1 3))
  | 0x0506 => some (.transWalk c (pf 8 p 0 1) (pf 56 p 1 7) (pf 64 p 8 8))
  | _ => none

/-- Bytes by which a DMA list's packet differs from the length that its COUNT gives, or 1 where it is too short for its header. -/
def listExtra (p : List Byte) : Nat :=
  if p.length < 8 then 1 else (p.length - (8 + 32 * fieldAt p 0 1)) + ((8 + 32 * fieldAt p 0 1) - p.length)

/-- Groups 0x06 to 0x08. -/
def spellMid (c : CmdCtx) (op : Nat) (p : List Byte) : Option Instr :=
  match op with
  | 0x0601 => some (.dmaSubmit c (pf 8 p 0 1) (pf 8 p 1 1) (pf 16 p 2 2) (pf 32 p 4 4)
      (records (fun o => { src := pf 64 p o 8, dst := pf 64 p (o + 8) 8, len := pf 32 p (o + 16) 4, dir := pf 8 p (o + 20) 1, rsvd := pf 88 p (o + 21) 11 })
        8 32 (fieldAt p 0 1)) (listExtra p))
  | 0x0602 => some (.dmaResume c (pf 8 p 0 1) (pf 24 p 1 3) (pf 32 p 4 4))
  | 0x0603 => some (.dmaAbort c (pf 8 p 0 1) (pf 24 p 1 3) (pf 32 p 4 4))
  | 0x0604 => some (.dmaStatus c (pf 8 p 0 1) (pf 24 p 1 3))
  | 0x0701 => some (.keyLoad c (pf 8 p 0 1) (pf 8 p 1 1) (pf 16 p 2 2) (bytesAt p 4 97) (pf 24 p 101 3) (bytesAt p 104 40))
  | 0x0702 => some (.keyBind c (pf 8 p 0 1) (pf 8 p 1 1) (pf 8 p 2 1) (pf 8 p 3 1))
  | 0x0703 => some (.keyUnbind c (pf 8 p 0 1) (pf 24 p 1 3))
  | 0x0704 => some (.keyRetire c (pf 8 p 0 1) (pf 24 p 1 3))
  | 0x0705 => some (.keyRotate c (pf 8 p 0 1) (pf 8 p 1 1) (pf 16 p 2 2))
  | 0x0706 => some (.keyStatus c)
  | 0x0801 => some (.laneStatus c (pf 8 p 0 1) (pf 24 p 1 3))
  | 0x0802 => some (.laneEq c (pf 8 p 0 1) (pf 8 p 1 1) (pf 16 p 2 2))
  | 0x0803 => some (.laneRetrain c (pf 8 p 0 1) (pf 24 p 1 3))
  | 0x0804 => some (.laneWidth c (pf 8 p 0 1) (pf 8 p 1 1) (pf 16 p 2 2))
  | 0x0805 => some (.lanePattern c (pf 8 p 0 1) (pf 8 p 1 1) (pf 8 p 2 1) (pf 8 p 3 1))
  | 0x0806 => some (.laneInject c (pf 8 p 0 1) (pf 8 p 1 1) (pf 8 p 2 1) (pf 8 p 3 1) (pf 32 p 4 4) (pf 64 p 8 8))
  | 0x0807 => some (.laneSleep c (pf 8 p 0 1) (pf 8 p 1 1) (pf 16 p 2 2))
  | _ => none

/-- Groups 0x09 to 0x0B. -/
def spellPendant (c : CmdCtx) (op : Nat) (p : List Byte) : Option Instr :=
  match op with
  | 0x0901 => some (.pendantPair c (pf 8 p 0 1) (pf 8 p 1 1) (pf 16 p 2 2))
  | 0x0902 => some (.pendantMode c (pf 8 p 0 1) (pf 8 p 1 1) (pf 8 p 2 1) (pf 8 p 3 1))
  | 0x0903 => some (.pendantRetire c (pf 8 p 0 1) (pf 8 p 1 1) (pf 16 p 2 2))
  | 0x0904 => some (.pendantPrefer c (pf 8 p 0 1) (pf 24 p 1 3))
  | 0x0905 => some (.pendantTakeover c)
  | 0x0906 => some (.pendantResync c (pf 8 p 0 1) (pf 24 p 1 3))
  | 0x0907 => some (.pendantHandover c (pf 8 p 0 1) (pf 24 p 1 3))
  | 0x0908 => some (.pendantDissolve c)
  | 0x0909 => some (.pendantStatus c)
  | 0x0A01 => some (.maintStart c (pf 8 p 0 1) (pf 24 p 1 3) (pf 64 p 4 8))
  | 0x0A02 => some (.maintStop c (pf 8 p 0 1) (pf 24 p 1 3))
  | 0x0A03 => some (.maintStatus c)
  | 0x0B01 => some (.timeRead c)
  | 0x0B02 => some (.timeAdjust c (pf 64 p 0 8) (pf 32 p 8 4) (pf 32 p 12 4))
  | 0x0B03 => some (.timeCompat c (pf 8 p 0 1) (pf 24 p 1 3) (pf 64 p 4 8) (pf 64 p 12 8) (pf 64 p 20 8) (pf 64 p 28 8))
  | 0x0B04 => some (.timeUpstream c (pf 8 p 0 1) (pf 24 p 1 3))
  | _ => none

/-- Groups 0x0C to 0x0F. The counter assignment that goes with ARM.ASSIGN comes from the link's time-sync exchange, whose offset is e
(R387). -/
def spellHigh (c : CmdCtx) (e op : Nat) (p : List Byte) : Option Instr :=
  match op with
  | 0x0C01 => some (.trustQuote c (pf 256 p 0 32) (pf 8 p 32 1) (pf 24 p 33 3))
  | 0x0C02 => some (.trustLog c (pf 32 p 0 4))
  | 0x0C03 => some (.fwDownload c (pf 32 p 0 4) (pf 32 p 4 4) (p.drop 8))
  | 0x0C04 => some (.fwVerify c (pf 32 p 0 4))
  | 0x0C05 => some (.fwActivate c)
  | 0x0C06 => some (.fwConfirm c)
  | 0x0C07 => some (.fwStatus c)
  | 0x0D01 => some (.dbgHalt c)
  | 0x0D02 => some (.dbgRun c)
  | 0x0D03 => some (.dbgAccess c (pf 8 p 0 1) (pf 8 p 1 1) (pf 8 p 2 1) (pf 8 p 3 1) (pf 64 p 4 8) (pf 32 p 12 4) (pf 32 p 16 4) (p.drop 20))
  | 0x0D04 => some (.castTake c (pf 8 p 0 1) (pf 8 p 1 1) (pf 8 p 2 1) (pf 8 p 3 1) (pf 64 p 4 8))
  | 0x0D05 => some (.castSave c (pf 8 p 0 1) (pf 56 p 1 7) (pf 64 p 8 8) (pf 64 p 16 8))
  | 0x0D06 => some (.castRead c (pf 64 p 0 8) (pf 32 p 8 4) (pf 32 p 12 4))
  | 0x0D07 => some (.castRestore c (pf 8 p 0 1) (pf 56 p 1 7) (pf 64 p 8 8) (pf 64 p 16 8))
  | 0x0E01 => some (.statsNoc c (pf 8 p 0 1) (pf 8 p 1 1) (pf 8 p 2 1) (pf 8 p 3 1))
  | 0x0E02 => some (.statsRead c (pf 8 p 0 1) (pf 8 p 1 1) (pf 16 p 2 2))
  | 0x0E03 => some (.logRead c (pf 32 p 0 4) (pf 8 p 4 1) (pf 24 p 5 3))
  | 0x0E04 => some (.logSecurity c (pf 32 p 0 4) (pf 8 p 4 1) (pf 24 p 5 3))
  | 0x0F01 => some (.armProbe c)
  | 0x0F02 => some (.armAssign c (pf 16 p 0 2) (pf 8 p 2 1) (pf 8 p 3 1) 0 (BitVec.ofNat 64 e) (BitVec.ofNat 64 e) 0)
  | 0x0F03 => some (.armScope c (pf 8 p 0 1) (pf 8 p 1 1) (pf 16 p 2 2) (pf 32 p 4 4))
  | 0x0F04 => some (.consensusQuery c (pf 8 p 0 1) (pf 24 p 1 3))
  | 0x0F05 => some (.armStatus c)
  | 0x0F06 => some (.consensusOverride c (pf 8 p 0 1) (pf 24 p 1 3))
  | _ => none

/-- The command that an opcode and a payload spell. -/
def spell (c : CmdCtx) (e op : Nat) (p : List Byte) : Option Instr :=
  if groupOf op ≤ 3 then spellLow c op p
  else if groupOf op ≤ 5 then spellMaquette c op p
  else if groupOf op ≤ 8 then spellMid c op p
  else if groupOf op ≤ 11 then spellPendant c op p
  else spellHigh c e op p

/-! ### Checks 2 to 6 (R324) -/

/-- Four bytes that name the first field in error (R325). -/
def offsetData (n : Nat) : List Byte := leBytes 4 n

/-- Check 5 (R323): an opcode without an effective frame carries 0; one whose partition does not run carries 0 too. -/
def frameFieldBad (op : Nat) (m : FrameNo) (p : List Byte) (s : State) : Bool :=
  if m = 0 then false
  else if !takesFrame op then true
  else
    let part := fieldAt p (partOffset op) 1
    decide (partOffset op < p.length) && decide (part < 4) && decide ((s.part part).st ≠ .running)

/-- First failure of checks 2 to 6 of R324: status and data. A device without an address refuses all but link-local opcodes at check 4
(R322). -/
def packetRefusal (b : List Byte) (pathOk : Bool) (s : State) : Option (Nat × List Byte) :=
  let op := pktOp b
  let p := pktPayload b
  match payloadLen op p with
  | none => some (St.badOpcode, offsetData 0)
  | some n =>
    if pktTag b = 0xFFFF then some (St.argRange, offsetData 2)
    else if !s.arm.assigned && !linkLocal op then some (St.wrongState, offsetData 8)
    else if !pathOk && !linkLocal op then some (St.pathInvalid, offsetData 8)
    else if frameFieldBad op (pktEframe b) p s then some (St.frameField, offsetData 10)
    else if p.length ≠ n then some (St.lenPayload, [])
    else none

/-! ### Acceptance (R328) -/

/-- The pair takes a packet: it receives the next ACCSEQ. -/
def takeSeq (src : Nat) (b : List Byte) (s : State) : CmdCtx × State :=
  ({ src := BitVec.ofNat 8 src, tag := pktTag b, accSeq := s.plinth.accSeq, eframe := pktEframe b },
    { s with plinth := { s.plinth with accSeq := s.plinth.accSeq + 1, lastSrc := src } })

/-- A packet that fails a check is answered and does nothing else. -/
def refusePacket (src st : Nat) (data : List Byte) (b : List Byte) (s : State) : State :=
  let (c, s1) := takeSeq src b s
  sendReply c (pktOp b) st data s1

/-- Offset of the time-sync exchange on a source's link, in 1/64 step, as a 64-bit number. -/
def State.linkOffset (s : State) (src : Nat) : Nat := ((if src = 0x17 then s.clk.s7.e else s.clk.s0.e) % (2 ^ 64 : Int)).toNat

/-- A whole packet is taken from a source: refused at one of checks 2 to 6, or accepted (R324, R328). -/
def takePacket (src : Nat) (pathOk : Bool) (b : List Byte) (s : State) : State :=
  match packetRefusal b pathOk s with
  | some (st, data) => refusePacket src st data b s
  | none =>
    let (c, s1) := takeSeq src b s
    match spell c (s.linkOffset src) (pktOp b) (pktPayload b) with
    | none => sendReply c (pktOp b) St.badOpcode (offsetData 0) s1
    | some i => { s1 with plinth := { s1.plinth with accepted := s1.plinth.accepted ++ [i] } }

/-- PATH on PCIe and the debug port names this device (R322). -/
def State.pathOwn (s : State) (b : List Byte) : Bool := decide (pktPath b = 0) || decide (pktPath b = s.arm.addr.toNat)

end Sys2Proof.Machine
end

