-- ==== Sys2Proof/Machine/Power.lean ====
section
/-!
DEFINITION. Power.lean: device states, domains and transitions (chapter 19) as far as commands ask for them, and
group 0x02 (Table 16.3).
-/
namespace Sys2Proof.Machine

/-- State of a TARGET code (Table 16.3). -/
def pwrOf : Nat → Option PwrState
  | 0 => some .run | 1 => some .idle | 2 => some .sleep | 3 => some .deep | 4 => some .off | 5 => some .watch | _ => none

/-- Entry steps that a state needs from Run (Table 19.3). -/
def stepsOf : PwrState → List TStep
  | .run => []
  | .idle => [.quiesce, .clock]
  | .sleep => [.quiesce, .clock, .memory, .domains]
  | .deep | .watch | .off => [.quiesce, .clock, .memory, .domains, .rails]

/-- Depth of a state, by which a target is deeper or shallower. -/
def pwrDepth : PwrState → Nat
  | .run => 0 | .idle => 1 | .sleep => 2 | .deep => 3 | .watch => 3 | .off => 4

/-- Entry steps from the steps in effect to a deeper target; Sleep to a deeper state takes DOMAINS again (R408). -/
def entrySteps (taken : List TStep) (target : PwrState) : List TStep :=
  if taken.contains .rails then []
  else if taken.contains .domains then [.domains, .rails]
  else (stepsOf target).drop taken.length

/-- Exit steps from the steps in effect to a shallower target, in reverse order; a wake to Sleep after the DOMAINS of a deeper state takes
DOMAINS again (R408). -/
def exitSteps (taken : List TStep) (target : PwrState) : List TStep :=
  if target = .sleep then (if taken.contains .rails then [.rails, .domains] else if taken.contains .domains then [.domains] else [])
  else (taken.drop (stepsOf target).length).reverse

/-- Partition permitted at entry to a state (Table 19.1, R403). -/
def permitsPart (target : PwrState) (x : Partition) : Bool :=
  let paused := decide (x.st = .running) && decide (x.cond = 2)
  match target with
  | .idle => decide (x.st = .empty) || decide (x.st = .loaded) || paused
  | .sleep => decide (x.st = .empty) || decide (x.st = .loaded) || (paused && decide ((x.image.map fun i => natBits i.sxparam.toNat 32 16).getD 0 = 0))
  | .deep | .watch => decide (x.st = .empty)
  | .run | .off => true

/-- Refusal of a PWR.SET to a target other than Run and Off (R403, R413). -/
def pwrRefusal (target : PwrState) (s : State) : Option Nat :=
  if target = .run ∨ target = .off then none
  else if s.pend.st = .copy ∨ s.pend.st = .joining then some St.pwrBusy
  else if s.pend.st ≠ .unpaired ∧ s.pend.st ≠ .fenced ∧ s.pend.st ≠ .retired then some St.wrongState
  else if !([0, 1, 2, 3].all fun p => permitsPart target (s.part p)) then some St.wrongState
  else if target = .watch ∧ s.pwr.wSensors = [] ∧ s.pwr.wChk = 0 then some St.wrongState
  else none

/-- A transition begins: the entry steps of a deeper target, or the exit steps of a shallower one. -/
def beginTransition (target : PwrState) (ctx : Option CmdCtx) (s : State) : State :=
  let entering := decide (pwrDepth s.pwr.st < pwrDepth target)
  let steps := if entering then entrySteps s.pwr.taken target else exitSteps s.pwr.taken target
  let t : Transition := { target := target, entering := entering, steps := steps, ctx := ctx, redirect := none, woken := false }
  { s with pwr := { s.pwr with trans := some t } }

/-- Entry to Off stops every running partition at its next boundary (R405). -/
def stopForOff (s : State) : State :=
  eachPart (fun p a => if (a.part p).st = .running then a.setPart p { a.part p with stopNext := true } else a) s

/-- PWR.SET (R346, R403, R409); while halted only Off is taken, and it ends the halt (R458). -/
def execPwrSet (c : CmdCtx) (target : Byte) (rsvd : BitVec 24) (s : State) : Res :=
  .next (immediate .p 0x0201 c (fun s =>
    match pwrOf target.toNat with
    | none => reply c 0x0201 St.argRange [] s
    | some t =>
      if rsvd ≠ 0 then reply c 0x0201 St.argRange [] s
      else if s.clk.halt.isSome ∧ t ≠ .off then reply c 0x0201 St.wrongState [] s
      else match s.pwr.trans with
        | some tr =>
          if (t = .run ∨ t = .off) ∧ tr.redirect.isNone then
            let s1 := setAlertWatch false (reply c 0x0201 St.accepted [] s)
            let s2 := if t = .off then stopForOff (endHalt s1) else s1
            { s2 with pwr := { s2.pwr with trans := some { tr with redirect := some (t, c) } } }
          else reply c 0x0201 St.pwrBusy [] s
        | none =>
          if t = s.pwr.st then setAlertWatch false (reply c 0x0201 St.ok [] s)
          else match pwrRefusal t s with
            | some st => reply c 0x0201 st [] s
            | none =>
              let s1 := setAlertWatch false (reply c 0x0201 St.accepted [] s)
              beginTransition t (some c) (if t = .off then stopForOff (endHalt s1) else s1)) s)

/-- Condition of a domain (Table 19.2), with what has been woken on demand (R407). -/
def domCond (d : Domain) (s : State) : DomCond :=
  let lvl := s.pwr.dom
  let on := s.pwr.woken.any fun w => decide (w.1 = d)
  let deep := decide (lvl = .deep) || decide (lvl = .watch) || decide (lvl = .off)
  match d with
  | .aon => .on
  | .dbg => if deep || !s.dbg.rstHigh then .off else .on
  | .plinth => if deep then .off else .on
  | .base | .quad _ => if deep then .off else if lvl = .sleep ∧ !on then .ret else .on
  | .ser => if deep ∨ lvl = .sleep then .off else .on
  | .region k => if deep ∨ !s.fab.configured.getLsbD k then .off else if lvl = .sleep ∧ !on then .ret else .on

/-- What a user pin shows outside: a driven level, its pull (PULL code of Table 8.5), or nothing. -/
inductive PinLevel where
  | drive (level : Bool)
  | pull (code : Nat)
  | float
deriving DecidableEq, Repr

/-- A user pin (R190): it floats while its region's domain is off, else drives, or is high impedance with the PULL of the frame last written. -/
def State.pinLevel (s : State) (pins : IoPins) (pin : Nat) : PinLevel :=
  if domCond (.region (Fin.ofNat 24 (pinRegion pin))) s = .off then .float
  else match s.pinOut pins pin with
    | some v => .drive v
    | none => let code := natBits (s.ioWord pin) 12 2; if code = 0 then .float else .pull code

/-- DOM of PWR.STATUS (Table 16.3). -/
def domBits (s : State) : Nat :=
  maskOf (((List.range 8).zip [Domain.dbg, .plinth, .base, .quad 0, .quad 1, .quad 2, .quad 3, .ser]).filterMap
    fun e => if domCond e.2 s = .on then some e.1 else none)

/-- REGIONS of PWR.STATUS: bit k for region domain k on. -/
def regionBits (s : State) : Nat := maskOf ((List.finRange 24).filterMap fun k => if domCond (.region k) s = .on then some k.val else none)

/-- PWR.STATUS (R346). PIN is a reading of the board's PMBus sensors, of which the spec gives no value: a free value
(log entry 4). -/
def execPwrStatus (c : CmdCtx) (s : State) : Res :=
  .next (immediate .a 0x0202 c (fun s =>
    let (pin, s1) := s.draw 32
    let pending := match s.pwr.trans with | some t => pwrCode t.target | none => 0xFF
    reply c 0x0202 St.ok (leBytes 1 (pwrCode s.pwr.st) ++ leBytes 1 pending ++ leBytes 2 (domBits s) ++ leBytes 3 (regionBits s) ++
      zeros 1 ++ leBytes 4 pin.toNat) s1) s)

/-- PWR.WATCH (R412). -/
def execPwrWatch (c : CmdCtx) (period : U32) (ns chk : Byte) (rsvd : U16) (sensors : List WatchSensor) (s : State) : Res :=
  .next (immediate .p 0x0203 c (fun s =>
    if sensors.length ≠ ns.toNat then reply c 0x0203 St.lenPayload [] s
    else if rsvd ≠ 0 ∨ period = 0 ∨ 10000 < period.toNat ∨ 8 < ns.toNat ∨ 3 < chk.toNat ∨
        sensors.any (fun w => decide (w.rsvd ≠ 0) || decide (127 < w.saddr.toNat)) then reply c 0x0203 St.argRange [] s
    else reply c 0x0203 St.ok [] { s with pwr := { s.pwr with wPeriod := period, wChk := chk, wSensors := sensors } }) s)

end Sys2Proof.Machine
end

