-- ==== Sys2Proof/Machine/Identity.lean ====
section
/-!
DEFINITION. Identity.lean: group 0x01, the identity commands (Table 16.2).
-/
namespace Sys2Proof.Machine

/-- STRAPS: [2:0] OSC_DLY, [3] PEND_SIDE. -/
def State.straps (s : State) : Nat := s.ident.oscDly.toNat + 8 * bitNat s.ident.pendSide

/-- Result of IDENT.QUERY (Table 16.2). -/
def identData (s : State) : List Byte :=
  leBytes 2 s.ident.bic.toNat ++ [s.ident.code, BitVec.ofNat 8 (bitNat s.ident.pendSide)] ++ leBytes 2 s.arm.addr.toNat ++
    leBytes 1 (bitNat s.arm.assigned) ++ leBytes 1 s.straps ++ zeros 2 ++ leBytes 16 s.ident.serial.toNat ++
    leBytes 4 s.fw.ver.toNat ++ leBytes 1 (bitNat s.fw.slot) ++ zeros 3

/-- Result of IDENT.EQUIV: N and the equivalence list (R3). -/
def equivData (s : State) : List Byte := leBytes 2 s.ident.equiv.length ++ (s.ident.equiv.map fun b => leBytes 2 b.toNat).flatten

/-- TOTAL, N and the bytes from OFFSET of a byte store read in pieces of 4,072 (IDENT.CERT, TRUST.LOG). -/
def pieceData (l : List Byte) (offset : Nat) : List Byte :=
  let part := bytesAt l offset 4072
  leBytes 4 l.length ++ leBytes 4 part.length ++ part

/-- IDENT.QUERY (R345). -/
def execIdentQuery (c : CmdCtx) (s : State) : Res :=
  .next (immediate .a 0x0101 c (fun s => reply c 0x0101 St.ok (identData s) s) s)

/-- IDENT.EQUIV (R345). -/
def execIdentEquiv (c : CmdCtx) (s : State) : Res :=
  .next (immediate .a 0x0102 c (fun s => reply c 0x0102 St.ok (equivData s) s) s)

/-- IDENT.CERT (R345): an OFFSET at or beyond TOTAL returns ARG_RANGE. -/
def execIdentCert (c : CmdCtx) (offset : U32) (s : State) : Res :=
  .next (immediate .a 0x0103 c (fun s =>
    if s.ident.certs.length ≤ offset.toNat then reply c 0x0103 St.argRange [] s
    else reply c 0x0103 St.ok (pieceData s.ident.certs offset.toNat) s) s)

end Sys2Proof.Machine
end

