-- ==== Sys2Proof/Machine/Measure.lean ====
section
/-!
DEFINITION. Measure.lean: the measurement registers and their log (R438, R439).
-/
namespace Sys2Proof.Machine

/-- A measurement log entry (Table 21.2). -/
def measureEntry (reg type : Nat) (digest : BitVec 384) (desc : List Byte) : List Byte :=
  leBytes 1 reg ++ leBytes 1 type ++ leBytes 2 desc.length ++ leBytes 48 digest.toNat ++ desc

/-- The log has room for an entry whose description has n bytes (R439). -/
def State.measureFits (s : State) (n : Nat) : Bool := decide (s.trust.log.length + 52 + n ≤ 65536)

/-- A register is extended with a digest, and the log takes an entry (R438); the firmware measurement changes, so the
configuration digest is due again (R439). An entry that does not fit is not kept. -/
def extendMr (reg type : Nat) (digest : BitVec 384) (desc : List Byte) (s : State) : State :=
  let old := smGet 0#384 s.trust.mr reg
  let new := Config.sha384 (leBytes 48 old.toNat ++ leBytes 48 digest.toNat)
  let log := if s.measureFits desc.length then s.trust.log ++ measureEntry reg type digest desc else s.trust.log
  { s with trust := { s.trust with mr := smSet 0#384 s.trust.mr reg new, log := log, digestDue := true } }

/-- An extension with a digest whose content the spec does not give: a free value (log entry 4). -/
def extendFree (reg type : Nat) (desc : List Byte) (s : State) : State :=
  let (m, s1) := s.draw 384
  extendMr reg type m desc s1

/-- A use of a BIC override (R164, R298, R378): MR6, and the log record of R164 under subsystem 0xB with both BICs. -/
def noteOverride (part : Nat) (other : Nat) (s : State) : State :=
  extendFree 6 5 [] (logRec { cause := St.bicOverride, sub := 0xB, sev := 5, part := part, detail := other + 65536 * s.ident.bic.toNat } s)

end Sys2Proof.Machine
end

