-- ==== Sys2Proof/Machine/Trust.lean ====
section
/-!
DEFINITION. Trust.lean: attestation and firmware update: group 0x0C (Table 16.13, chapter 21).
-/
namespace Sys2Proof.Machine

/-! ### Attestation (R441) -/

/-- A quote without its signature (Table 21.3). -/
def quoteBody (nonce : BitVec 256) (mask : Byte) (s : State) : List Byte :=
  leBytes 4 0x5451474B ++ leBytes 2 1 ++ [mask] ++
    leBytes 1 (bitNat s.fw.trial + 2 * bitNat s.dbg.fullSeen + 4 * bitNat s.plinth.recovery) ++ leBytes 32 nonce.toNat ++
    leBytes 2 s.ident.bic.toNat ++ leBytes 16 s.ident.serial.toNat ++ leBytes 4 s.fw.ver.toNat ++ leBytes 1 (bitNat s.fw.slot) ++ zeros 1 ++
    leBytes 8 (if s.clk.counterOk then s.clk.count.toNat else 0) ++ leBytes 4 s.trust.log.length ++ zeros 4 ++
    (onesOf mask.toNat 8).flatMap fun r => leBytes 48 (smGet 0#384 s.trust.mr r).toNat

/-- The quote: its body and the signature over it, most significant byte first. -/
def quoteData (nonce : BitVec 256) (mask : Byte) (s : State) : List Byte :=
  let b := quoteBody nonce mask s
  b ++ (leBytes 96 (Config.sign (Config.sha384 b)).toNat).reverse

/-- TRUST.QUOTE (R441). -/
def execTrustQuote (c : CmdCtx) (nonce : BitVec 256) (mask : Byte) (rsvd : BitVec 24) (s : State) : Res :=
  .next (immediate .a 0x0C01 c (fun s =>
    if rsvd ≠ 0 ∨ mask = 0 then reply c 0x0C01 St.argRange [] s
    else if !s.plinth.ready1 then reply c 0x0C01 St.wrongState [] s
    else reply c 0x0C01 St.ok (quoteData nonce mask s) s) s)

/-- TRUST.LOG (R441). -/
def execTrustLog (c : CmdCtx) (offset : U32) (s : State) : Res :=
  .next (immediate .a 0x0C02 c (fun s =>
    if !s.plinth.ready1 then reply c 0x0C02 St.wrongState [] s
    else if s.trust.log.length ≤ offset.toNat then reply c 0x0C02 St.argRange [] s
    else reply c 0x0C02 St.ok (pieceData s.trust.log offset.toNat) s) s)

/-! ### Firmware slots (R442 to R445) -/

/-- State word of the slot that is not running: 0 erased, 1 staging, 2 staged. -/
def Firmware.spare (f : Firmware) : Nat := if f.slot then f.stA else f.stB

/-- That state word written. -/
def Firmware.setSpare (f : Firmware) (v : Nat) : Firmware := if f.slot then { f with stA := v } else { f with stB := v }

/-- VER of the slot that is not running, as written. -/
def Firmware.setSpareVer (f : Firmware) (v : U32) : Firmware := if f.slot then { f with verA := v } else { f with verB := v }

/-- STAGE of FW.STATUS (Table 16.13). -/
def Firmware.stageCode (f : Firmware) : Nat := if f.activated then 3 else if f.spare = 1 then 1 else if f.update && f.spare = 2 then 2 else 0

/-- Bytes of a slot after its 4 KiB header (Table 21.4). -/
abbrev slotBytes : Nat := 28 * 1048576 - 4096

/-- The FW UPDATE activity belongs to another source (R444). -/
def foreignUpdate (c : CmdCtx) (s : State) : Option Holder := s.maint.find? fun h => decide (h.act = 10) && decide (h.src ≠ c.src.toNat)

/-- A group 0x0C write command: refused to a source that does not own the activity, and waiting while a FW.VERIFY holds the
inactive slot (R338, R444). -/
def fwWrite (c : CmdCtx) (op : Nat) (body : State → State) (s : State) : State :=
  match foreignUpdate c s with
  | some h => busyReply c op h s
  | none => body s

/-- A chunk is written at the end of the staging image. -/
def appendStage (bytes : List Byte) (s : State) : State :=
  { s with fw := { s.fw with stageLen := s.fw.stageLen + bytes.length, stage := s.fw.stage ++ bytes } }

/-- OFFSET 0 begins a new image (R357, R444, Table 21.5): the inactive slot is staging, and the activity holds. -/
def beginStage (c : CmdCtx) (s : State) : State :=
  let s1 := if s.maint.any fun h => decide (h.act = 10) then s else startAct 10 0 (some c) s
  let f := (s1.fw.setSpare 1).setSpareVer 0
  { s1 with fw := { f with stageLen := 0, stage := [], update := true } }

/-- FW.DOWNLOAD (R357, R444, R445). -/
def execFwDownload (c : CmdCtx) (offset n : U32) (bytes : List Byte) (s : State) : Res :=
  .next (if s.fw.verify.isSome then s
    else immediate .p 0x0C03 c (fun s =>
      if bytes.length ≠ n.toNat then reply c 0x0C03 St.lenPayload [] s
      else if n = 0 ∨ 4072 < n.toNat ∨ slotBytes < offset.toNat + n.toNat then reply c 0x0C03 St.argRange [] s
      else fwWrite c 0x0C03 (fun s =>
        if s.fw.stageCode = 3 ∨ s.fw.trial then reply c 0x0C03 St.wrongState [] s
        else if offset = 0 then reply c 0x0C03 St.ok [] (appendStage bytes (beginStage c s))
        else if s.fw.spare ≠ 1 ∨ offset.toNat ≠ s.fw.stageLen then reply c 0x0C03 St.argRange [] s
        else reply c 0x0C03 St.ok [] (appendStage bytes s)) s) s)

/-- FW.VERIFY: it stays in execution until the read-back ends. -/
def execFwVerify (c : CmdCtx) (total : U32) (s : State) : Res :=
  .next (if s.fw.verify.isSome then s
    else deferredOp .p 0x0C04 c (fun s => fwWrite c 0x0C04 (fun s =>
      if s.fw.stageCode ≠ 1 then reply c 0x0C04 St.wrongState [] s
      else
        let s1 := holdDeferred c 0x0C04 s
        { s1 with fw := { s1.fw with verify := some (c, total.toNat) } }) s) s)

/-- Status of a verification, none when every check passes (Table 21.5, Table 16.13). -/
def verifyStatus (s : State) (total : Nat) (i : SlotImage) (ok : Bool) : Option Nat :=
  if total ≠ s.fw.stageLen ∨ total ≠ i.length.toNat ∨ i.ver.toNat < i.floorSet.toNat ∨ 16 < i.bics.length then some St.imageFormat
  else if i.target ≠ 0x9616 ∨ !i.bics.contains s.ident.bic then some St.imageTarget
  else if !ok ∨ !i.valid then some St.imageDigest
  else if i.ver.toNat < s.fw.floor.toNat then some St.argRange
  else none

/-- FW_VERIFY_COMPLETE (R445): the slot is staged, or stays staging and the command fails. -/
def execFwVerifyComplete (image : SlotImage) (readBackOk : Bool) (s : State) : Res :=
  .next (match s.fw.verify with
    | none => s
    | some (c, total) =>
      let s1 : State := { s with fw := { s.fw with verify := none } }
      match verifyStatus s total image readBackOk with
      | some st => reply c 0x0C04 st [] s1
      | none => reply c 0x0C04 St.ok (leBytes 4 image.ver.toNat) { s1 with fw := (s1.fw.setSpare 2).setSpareVer image.ver })

/-- FW.ACTIVATE (R445): a selector that tries the staged slot. -/
def execFwActivate (c : CmdCtx) (s : State) : Res :=
  .next (if s.fw.verify.isSome then s
    else immediate .p 0x0C05 c (fun s => fwWrite c 0x0C05 (fun s =>
      if s.fw.stageCode ≠ 2 then reply c 0x0C05 St.wrongState [] s
      else reply c 0x0C05 St.ok [] { s with fw := { s.fw with selSeq := s.fw.selSeq + 1, selTry := !s.fw.slot, boots := 0, activated := true } }) s) s)

/-- FW.CONFIRM (R445, R448): the running image is confirmed, the floor rises, and the activity ends. -/
def execFwConfirm (c : CmdCtx) (s : State) : Res :=
  .next (immediate .p 0x0C06 c (fun s => fwWrite c 0x0C06 (fun s =>
    if !s.fw.trial ∧ s.fw.slot = s.fw.conf then reply c 0x0C06 St.wrongState [] s
    else
      let floor : U32 := if s.fw.floor.toNat < s.fw.floorSet.toNat then s.fw.floorSet else s.fw.floor
      let s1 : State := { s with fw := { s.fw with
        confSeq := s.fw.confSeq + 1, conf := s.fw.slot, floor := floor, selSeq := s.fw.selSeq + 1, selTry := s.fw.slot, boots := 0
        trial := false, activated := false, update := false } }
      reply c 0x0C06 St.ok (leBytes 4 floor.toNat) (endAct 10 0 s1)) s) s)

/-- Result of FW.STATUS (Table 16.13). -/
def fwData (s : State) : List Byte :=
  leBytes 1 (bitNat s.fw.slot) ++ leBytes 1 (bitNat s.fw.trial) ++ leBytes 1 s.fw.boots ++ leBytes 1 s.fw.stageCode ++
    leBytes 4 s.fw.verA.toNat ++ leBytes 4 s.fw.verB.toNat ++ leBytes 4 s.fw.floor.toNat

/-- FW.STATUS. -/
def execFwStatus (c : CmdCtx) (s : State) : Res :=
  .next (immediate .a 0x0C07 c (fun s => reply c 0x0C07 St.ok (fwData s) s) s)

end Sys2Proof.Machine
end

