-- ==== Sys2Proof/Machine/DebugPort.lean ====
section
/-!
DEFINITION. DebugPort.lean: the TAP and the debug access port (R450 to R455, R334, R465, Table 22.2).
-/
namespace Sys2Proof.Machine

/-! ### Register accesses (R451) -/

/-- PD_DBG has power and DBG_RST_N is high (Table 19.2). -/
def State.dbgOn (s : State) : Bool := decide (domCond .dbg s = .on)

/-- The debug port's own state changed by f. -/
def modDbg (f : DebugPort → DebugPort) (s : State) : State := { s with dbg := f s.dbg }

/-- ERR of the access. -/
def dapErr (s : State) : State := modDbg (fun d => { d with err := true }) s

/-- One register access (R451): refused while the one before it is busy; else performed, and busy for a time within 1 µs that the spec
leaves open (log entry 4). -/
def dapAccess (body : State → State) (s : State) : State :=
  if !s.dbgOn then s
  else if s.clk.now < s.dbg.busyUntil then dapErr s
  else
    let (t, s1) := s.draw 11
    body (modDbg (fun d => { d with err := false, busyUntil := s.clk.now + t.toNat % 1601 }) s1)

/-- Read data of the access. -/
def dapData (v : Nat) (s : State) : State := (modDbg (fun d => { d with rdata := BitVec.ofNat 32 v }) s).emit (.readData v)

/-- The access level stands at Observe or Full. -/
def State.observes (s : State) : Bool := decide (s.dbg.level ≠ 0)

/-! ### Access level (R452, R453, R458) -/

/-- The access level takes a value; the loss of Full ends a halt. -/
def setLevel (l : BitVec 2) (s : State) : State :=
  let s1 := modDbg (fun d => { d with level := l }) s
  if s.dbg.level = 2 ∧ l ≠ 2 then endHalt s1 else s1

/-- Bytes of a buffer word. -/
def fourBytes (v : U32) : List Byte := leBytes 4 v.toNat

/-- A challenge for a level (R453): NONCE from the random bit generator, a free value (log entry 4), and CHID, likewise. -/
def drawChallenge (l : BitVec 2) (s : State) : State :=
  if s.dbg.lockout.isSome then dapErr s
  else
    let (nonce, s1) := s.draw 256
    let (chid, s2) := s1.draw 64
    modDbg (fun d => { d with chal := some (nonce, chid, l), authWait := false }) s2

/-- A failed response (R453): a security event, and from the fourth on a lockout of 10 s. -/
def failResponse (s : State) : State :=
  let s1 := secEvent 2 0xFF 0xFF 0xF 0 0 s
  modDbg (fun d => { d with fails := d.fails + 1, lockout := if 4 ≤ d.fails + 1 then some (s.clk.now + usSteps 10000000) else d.lockout }) s1

/-- A grant of Full extends MR6 with DESC equal to CHID; one whose entry does not fit the log is refused (R439). -/
def grantFull (chid : BitVec 64) (s : State) : State :=
  if s.measureFits 8 then
    setLevel 2 (modDbg (fun d => { d with fullSeen := true }) (extendFree 6 4 (leBytes 8 chid.toNat) s))
  else dapErr s

/-- The buffer is judged as the response to the challenge that waits, which it answers once (R453). -/
def judgeResponse (nonce : BitVec 256) (chid : BitVec 64) (l : BitVec 2) (s : State) : State :=
  let s1 := modDbg (fun d => { d with chal := none, pktIn := [], overflow := false }) s
  if !s.dbg.overflow && Config.authOk chid nonce l s.dbg.pktIn then (if l = 2 then grantFull chid s1 else setLevel l s1)
  else failResponse s1

/-- AUTH 0x04: a response that stands in the buffer is judged; with an empty buffer the next GO takes it (Table 22.2). -/
def submitResponse (s : State) : State :=
  match s.dbg.chal with
  | none => dapErr s
  | some (nonce, chid, l) =>
    let s1 := modDbg (fun d => { d with authWait := true }) s
    if s.dbg.pktIn.isEmpty then s1 else judgeResponse nonce chid l s1

/-- A write of AUTH. -/
def writeAuth (cmd : Nat) (s : State) : State :=
  if cmd = 1 then (if s.arm.obsOpen then setLevel 1 s else dapErr s)
  else if cmd = 2 then drawChallenge 1 s
  else if cmd = 3 then drawChallenge 2 s
  else if cmd = 4 then submitResponse s
  else if cmd = 5 then setLevel 0 s
  else dapErr s

/-- AUTH_OBSERVE. -/
def execAuthObserve (s : State) : Res := .next (dapAccess (writeAuth 1) s)
/-- AUTH_CHALLENGE_OBSERVE. -/
def execAuthChallengeObserve (s : State) : Res := .next (dapAccess (writeAuth 2) s)
/-- AUTH_CHALLENGE_FULL. -/
def execAuthChallengeFull (s : State) : Res := .next (dapAccess (writeAuth 3) s)
/-- AUTH_SUBMIT_RESPONSE. -/
def execAuthSubmitResponse (s : State) : Res := .next (dapAccess (writeAuth 4) s)
/-- AUTH_DROP. -/
def execAuthDrop (s : State) : Res := .next (dapAccess (writeAuth 5) s)

/-- LOCKOUT_EXPIRY (R453). -/
def execLockoutExpiry (s : State) : Res :=
  .next (match s.dbg.lockout with
    | some t => if t ≤ s.clk.now then modDbg (fun d => { d with lockout := none }) s else s
    | none => s)

/-! ### Packet buffer (R334, Table 22.2) -/

/-- The buffer towards the device is empty. -/
def clearBuffer (s : State) : State := modDbg (fun d => { d with pktIn := [], overflow := false, goDue := false }) s

/-- Pair 0 takes the buffer as a command packet: the port's length limits, then checks 2 to 6 (R334, R324). -/
def takeDebug (s : State) : State :=
  let b := s.dbg.pktIn
  let s1 := clearBuffer s
  if s.dbg.overflow then refusePacket 0x18 St.lenLong (offsetData 4) b s1
  else if b.length < 16 then refusePacket 0x18 St.lenShort (offsetData 4) b s1
  else if b.length ≠ pktLength b then refusePacket 0x18 St.lenMismatch (offsetData 4) b s1
  else takePacket 0x18 (s.pathOwn b) b s1

/-- A write of PKT_CTRL.GO: a response after AUTH 0x04, else a command packet, which needs Observe or Full and waits for its turn (R328). -/
def bufferGo (s : State) : State :=
  let s1 := modDbg (fun d => { d with authWait := false }) s
  match s.dbg.authWait, s.dbg.chal with
  | true, some (nonce, chid, l) => judgeResponse nonce chid l s1
  | w, _ =>
    if w ∧ s.dbg.pktIn.isEmpty then s1
    else if !s.observes then s1
    else modDbg (fun d => { d with goDue := true }) s1

/-- A write of PKT_DATA: 4 bytes, or ERR where they would not fit (R334). -/
def bufferPut (v : U32) (s : State) : State :=
  if 4096 < s.dbg.pktIn.length + 4 then dapErr (modDbg (fun d => { d with overflow := true }) s)
  else modDbg (fun d => { d with pktIn := d.pktIn ++ fourBytes v }) s

/-- A read of PKT_DATA: the next 4 bytes of the waiting packet, at Observe or Full. -/
def bufferGet (s : State) : State :=
  match s.dbg.pktOut with
  | [] => dapData 0 s
  | b :: r =>
    if !s.observes then dapData 0 s
    else
      let p := s.dbg.pktPos
      let s1 := dapData (fieldAt b p 4) s
      if b.length ≤ p + 4 then modDbg (fun d => { d with pktOut := r, pktPos := 0 }) s1
      else modDbg (fun d => { d with pktPos := p + 4 }) s1

/-- PKT_CTRL_GO. -/
def execPktCtrlGo (s : State) : Res := .next (dapAccess bufferGo s)
/-- PKT_CTRL_CLR. -/
def execPktCtrlClr (s : State) : Res := .next (dapAccess clearBuffer s)
/-- PKT_DATA_WRITE. -/
def execPktDataWrite (value : U32) (s : State) : Res := .next (dapAccess (bufferPut value) s)
/-- PKT_DATA_READ. -/
def execPktDataRead (s : State) : Res := .next (dapAccess bufferGet s)

/-! ### Virtual terminal (R455) -/

/-- A byte enters the 64-byte buffer towards the Plinth, or is dropped. -/
def vtPut (b : Byte) (s : State) : State := if s.dbg.vtTx.length < 64 then modDbg (fun d => { d with vtTx := d.vtTx ++ [b] }) s else s

/-- A write of VT_DATA, carried while the terminal uses it. -/
def vtWrite (v : U32) (s : State) : State := if s.observes && !s.dbg.vtPins then vtPut (v.setWidth 8) s else s

/-- A read of VT_DATA: VALID and the next byte from the Plinth. -/
def vtRead (s : State) : State :=
  if !s.observes || s.dbg.vtPins then dapData 0 s
  else match s.dbg.vtRx with
    | [] => dapData 0 s
    | b :: r => dapData (256 + b.toNat) (modDbg (fun d => { d with vtRx := r }) s)

/-- VT_DATA_WRITE. -/
def execVtDataWrite (value : U32) (s : State) : Res := .next (dapAccess (vtWrite value) s)
/-- VT_DATA_READ. -/
def execVtDataRead (s : State) : Res := .next (dapAccess vtRead s)
/-- VT_SERIAL_BYTE: dropped at None and while the terminal uses VT_DATA. -/
def execVtSerialByte (byte : Byte) (s : State) : Res :=
  .next (if s.dbgOn && s.observes && s.dbg.vtPins then vtPut byte s else s)

/-! ### Shadow readout (R465) -/

/-- A read of SH_DATA: 4 bytes of the shadow space, and the offset moves on; ERR where there is nothing to read. -/
def shadowGet (s : State) : State :=
  if !s.observes then dapData 0 s
  else
    let s1 := modDbg (fun d => { d with shAddr := d.shAddr + 4 }) s
    match s.shadowRead s.dbg.shAddr.toNat 4 with
    | .data b => dapData (leNat b) s1
    | .beyond => dapErr (dapData 0 s1)
    | .lost p => dapErr (dapData 0 (markDamaged p s1))

/-- SH_DATA_READ. -/
def execShDataRead (s : State) : Res := .next (dapAccess shadowGet s)

/-! ### DAPACC (R451, Table 22.2) -/

/-- STATUS. -/
def dapStatus (s : State) : Nat :=
  s.dbg.level.toNat + 8 * bitNat s.clk.halt.isSome + 16 * bitNat (!s.dbg.pktOut.isEmpty) + 32 * bitNat s.anyShadow +
    64 * bitNat s.dbg.chal.isSome + 128 * bitNat s.dbg.lockout.isSome

/-- CHAL0 to CHAL9. -/
def chalWord (k : Nat) (s : State) : Nat :=
  match s.dbg.chal with
  | some (nonce, chid, _) => if k < 8 then natBits nonce.toNat (32 * k) 32 else natBits chid.toNat (32 * (k - 8)) 32
  | none => 0

/-- A register read that has no effect of its own; 0 where none is defined. -/
def plainRead (reg : Nat) (s : State) : Nat :=
  if reg = 0 then 0x96160000 + s.ident.bic.toNat
  else if reg = 1 then dapStatus s
  else if 0x10 ≤ reg ∧ reg ≤ 0x19 then chalWord (reg - 0x10) s
  else if !s.observes then 0
  else if reg = 3 then (s.dbg.pktOut.head?.map (·.length)).getD 0
  else if reg = 5 then bitNat s.dbg.vtPins + 2 * bitNat (decide (64 ≤ s.dbg.vtTx.length)) + 4 * bitNat (!s.dbg.vtRx.isEmpty)
  else if reg = 7 then natBits s.dbg.shAddr.toNat 0 32
  else if reg = 8 then natBits s.dbg.shAddr.toNat 32 32
  else 0

/-- A read of a register by its address. -/
def dapRead (reg : Nat) (s : State) : State :=
  if reg = 4 then bufferGet s
  else if reg = 6 then vtRead s
  else if reg = 9 then shadowGet s
  else dapData (plainRead reg s) s

/-- A write of a register by its address; registers that the level does not reach ignore it (R452). -/
def dapWrite (reg : Nat) (v : U32) (s : State) : State :=
  if reg = 2 then writeAuth (v.toNat % 256) s
  else if reg = 3 then (if v.getLsbD 31 then bufferGo s else if v.getLsbD 30 then clearBuffer s else s)
  else if reg = 4 then bufferPut v s
  else if !s.observes then s
  else if reg = 5 then modDbg (fun d => { d with vtPins := v.getLsbD 0 }) s
  else if reg = 6 then vtWrite v s
  else if reg = 7 then modDbg (fun d => { d with shAddr := BitVec.ofNat 64 (d.shAddr.toNat / 2 ^ 32 * 2 ^ 32 + v.toNat) }) s
  else if reg = 8 then modDbg (fun d => { d with shAddr := BitVec.ofNat 64 (v.toNat * 2 ^ 32 + d.shAddr.toNat % 2 ^ 32) }) s
  else s

/-- DAPACC_UPDATE: Update-DR while DAPACC is the TAP's instruction. -/
def execDapaccUpdate (wr : Bool) (reg : Byte) (data : U32) (s : State) : Res :=
  .next (if s.dbg.ir ≠ 0x10 then s else dapAccess (if wr then dapWrite reg.toNat data else dapRead reg.toNat) s)

/-! ### TAP (R450) -/

/-- DBG_RST_N: low resets the TAP and the debug access port and ends a halt through the loss of Full. -/
def execDbgRstN (high : Bool) (s : State) : Res :=
  .next (if high then modDbg (fun d => { d with rstHigh := true }) s
    else
      let s1 := setLevel 0 s
      modDbg (fun d => { evSeq := d.evSeq, fullSeen := d.fullSeen, rstHigh := false }) s1)

/-- EXTEST acts: Full level and every partition EMPTY. -/
def State.extestOk (s : State) : Bool := s.dbgFull && [0, 1, 2, 3].all fun p => decide ((s.part p).st = .empty)

/-- TAP_INSTRUCTION_UPDATE: the instruction of Update-IR, or none for Test-Logic-Reset, which selects IDCODE; codes outside Table 22.1,
and EXTEST where it does not act, select BYPASS. -/
def execTapInstructionUpdate (ir : Option Byte) (s : State) : Res :=
  .next (if !s.dbgOn then s
    else
      let code : Byte := match ir with
        | none => 0x02
        | some v => if [0x01, 0x02, 0x10].contains v then v else if v = 0 ∧ s.extestOk then 0 else 0xFF
      modDbg (fun d => { d with ir := code }) s)

end Sys2Proof.Machine
end

