-- ==== Sys2Proof/Machine/Lanes.lean ====
section
/-!
DEFINITION. Lanes.lean: the states of the lane ends and what moves them (R141 to R146), requests on a link (R147 to R150), the
calibration of a lane (R119 to R122), and group 0x08 (Table 16.9).
-/
namespace Sys2Proof.Machine

/-! ### Links and lanes -/

/-- Link of a lane: ports 0 to 15, pendant 16, control links 17 + k. -/
def linkOf (n : Nat) : Nat := if n < 128 then n / 8 else if n < 136 then 16 else n - 119
/-- Lanes of a block link. -/
def linkLanes (k : Nat) : List Nat := (List.range 8).map fun i => 8 * k + i
/-- Lane of a link by its bit in LANES. -/
def lanesNamed (k : Nat) (mask : Nat) : List Nat := (onesOf mask 8).map fun i => 8 * k + i

/-- A packet header and payload as a command (Table 15.1). -/
def commandBytes (op tag path eframe : Nat) (payload : List Byte) : List Byte :=
  leBytes 2 op ++ leBytes 2 tag ++ leBytes 4 (16 + payload.length) ++ leBytes 2 path ++ leBytes 6 eframe ++ payload

/-- A lane's record in the log, under subsystem 0x4 (Table 20.7). -/
def laneLog (cause sev n : Nat) (s : State) : State := logRec { cause := cause, sub := 0x4, sev := sev, loc := n } s

/-- A lane on its way from training to READY. -/
def LaneSt.training : LaneSt → Bool
  | .trainEq | .hunt | .linkup | .recover => true
  | _ => false

/-- Code of a lane state (Table 6.8). -/
def laneCode : LaneSt → Nat
  | .off => 0 | .trainEq => 1 | .hunt => 2 | .linkup => 3 | .ready => 4 | .calibrate => 5 | .active => 6 | .recover => 7
  | .pattern => 8 | .sleep => 9 | .peerSleep => 10 | .down => 11

/-- Lane moved to a state, its time noted. -/
def moveLane (n : Nat) (st : LaneSt) (s : State) : State := s.setLane n { s.lane n with st := st, since := s.clk.now }

/-- Every lane that a running map of the partition names is ACTIVE. -/
def State.mappedActive (s : State) (p : Nat) : Bool :=
  (s.part p).portLanes.all fun n => !s.mapsName n || decide ((s.lane n).st = .active)

/-- The coast's hold is resolved once the counter stands and those lanes carry data (R392). -/
def clearCoast (p : Nat) (s : State) : State := if !s.clk.coast ∧ s.mappedActive p then resolveHold p St.clkCoast 0 s else s

/-- A lane is back in service: its hold is resolved, and that of a coast with the last lane (R392, R143). -/
def inService (n : Nat) (s : State) : State :=
  match s.laneOwner n with
  | none => s
  | some p => clearCoast p (resolveHold p St.laneOut (if (s.part p).paired then baseLane n else n) s)

/-! ### Widths -/

/-- Lanes that a width code gives (Table 6.8). -/
def widthLanes (code : Nat) : Nat := if code = 1 then 1 else if code = 2 then 2 else if code = 3 then 4 else if code = 4 then 8 else 0
/-- Largest width code with no more than n lanes. -/
def widthCode (n : Nat) : Nat := if 8 ≤ n then 4 else if 4 ≤ n then 3 else if 2 ≤ n then 2 else if 1 ≤ n then 1 else 0

/-- Lanes of a link that a width change can choose from, lowest first: those not DOWN. -/
def State.usableLanes (s : State) (k : Nat) : List Nat := (linkLanes k).filter fun n => decide ((s.lane n).st ≠ .down)
/-- Healthy lanes of a link: up or coming up, neither DOWN nor taken to OFF. -/
def State.healthy (s : State) (k : Nat) : List Nat := (s.usableLanes k).filter fun n => decide ((s.lane n).st ≠ .off)
/-- Lanes in use: the lowest-numbered healthy lanes of the width (R148). -/
def State.lanesInUse (s : State) (k : Nat) : List Nat := (s.healthy k).take (widthLanes (s.blink k).width.toNat)

/-- A pendant lane that enters DOWN narrows the link to the largest width the other lanes give (R148). -/
def narrow (s : State) : State :=
  let w := widthCode (s.healthy 16).length
  if w < (s.blink 16).width.toNat then s.setBlink 16 { s.blink 16 with width := BitVec.ofNat 8 w } else s

/-! ### Entering the states -/

/-- TRAIN_EQ: the equaliser converges; what was locked or measured is gone (Table 6.8). -/
def enterTrain (n : Nat) (s : State) : State :=
  s.setLane n { s.lane n with
    st := .trainEq, since := s.clk.now, eqDone := false, peerEqDone := false, lock := false, huntN := 0, rxLockRun := 0, window := 0
    waking := false, txSleep := false, rxSleep := false, silentAt := none, peerSilent := none, resumeAt := none, txq := [] }

/-- HUNT: the receiver seeks lock (R133) from the boundary it held. -/
def enterHunt (n : Nat) (waking : Bool) (s : State) : State :=
  s.setLane n { s.lane n with
    st := .hunt, since := s.clk.now, lock := false, huntN := 0, rxLockRun := 0, window := 0, waking := waking, resumeAt := none, peerSilent := none }

/-- A lane enters DOWN: a Start of its partition fails with check 8 (R120), the pendant link narrows (R148). -/
def setDown (n : Nat) (s : State) : State :=
  let s1 := s.setLane n { s.lane n with st := .down, since := s.clk.now, lock := false, waking := false, resumeAt := none, txq := [] }
  if 128 ≤ n then (if n < 136 then narrow s1 else s1)
  else match s1.laneOwner n with
    | some p =>
      if (s1.part p).st = .starting then
        failStart p (extraRefusal St.linkTopology 0x12 (topoExtra s1.arm.addr.toNat 0xFFFF n 8)) s1
      else s1
    | none => s1

/-- The LANE.RETRAIN that made this end of a control link hunt is answered (R353). -/
def answerRetrain (k status : Nat) (s : State) : State :=
  let l := s.link k
  match l.retrain with
  | some c => if l.ownRetrain then reply c 0x0803 status [] (endAct 4 (17 + k) (s.setLink k { l with retrain := none, ownRetrain := false })) else s
  | none => s

/-- DOWN after the third failed recovery attempt, with LANE_DOWN (R142). -/
def laneDown (n : Nat) (s : State) : State :=
  let s1 := logEvent { cause := St.laneDown, sub := 0x4, sev := 4, loc := n } none (leBytes 1 n ++ zeros 7) (setDown n s)
  if 136 ≤ n then answerRetrain (n - 136) St.laneNoPeer s1 else s1

/-- RECOVER releases a freeze and counts an attempt; after three the lane is DOWN (R139, R142). -/
def enterRecover (n : Nat) (s : State) : State :=
  if 3 ≤ (s.lane n).attempts then laneDown n s
  else s.setLane n { s.lane n with
    st := .recover, since := s.clk.now, eqFrozen := false, attempts := (s.lane n).attempts + 1, lock := false, waking := false, resumeAt := none }

/-! ### Requests on a block link -/

/-- The device leads a crossed request (R150): the lower address on a port, side A on the pendant link. -/
def State.leads (s : State) (k : Nat) : Bool := if k = 16 then !s.ident.pendSide else !s.arm.addr.getLsbD k

/-- Lanes on which an LREQ is sent (R147). -/
def State.requestLanes (s : State) (k : Nat) : List Nat :=
  (linkLanes k).filter fun n => decide ((s.lane n).st = .ready) || decide ((s.lane n).st = .active) || decide ((s.lane n).st = .linkup)

/-- A control payload is sent on a lane before its own content. -/
def queueControl (payload : BitVec 72) (s : State) (n : Nat) : State := s.setLane n { s.lane n with txq := (s.lane n).txq ++ [payload] }

/-- A lane that carries or has received an LREQ leaves ACTIVE (R144, Table 6.8): the named lanes wait for START in READY, the
others recalibrate. -/
def leaveActive (mask : Nat) (s : State) (n : Nat) : State :=
  if (s.lane n).st ≠ .active then s
  else
    let s1 := if natBit mask (n % 8) then moveLane n .ready s else laneReady n s
    outOfService n s1

/-- The request of a link goes out on every lane that can carry it, with a START 1,024 steps after the step at which the last of them
sends it (R147). -/
def sendRequest (k : Nat) (r : LinkReq) (s : State) : State :=
  let l := s.blink k
  let lanes := s.requestLanes k
  let start := s.cnt + 1024 + (lanes.map fun n => (s.lane n).txq.length).foldl max 0
  let payload := controlPayload 3 (lreqContent r.op r.width r.lanes.toNat l.seq.toNat start)
  let s1 := s.setBlink k { l with seq := l.seq + 1, req := some { r with seq := l.seq, start := start, acked := false } }
  lanes.foldl (leaveActive r.lanes.toNat) (lanes.foldl (queueControl payload) s1)

/-- Width code that a change gives a link: on the pendant link no more than its lanes that are not DOWN give (R148). -/
def State.widthFor (s : State) (k code : Nat) : Nat := if k = 16 then min code (widthCode (s.usableLanes 16).length) else code

/-- The change of a request begins on its lanes (R147): a retrain sends them to TRAIN_EQ, out of service where one carried data (R143); a width
change brings them up from OFF or takes them to OFF. -/
def applyChangeAt (k : Nat) (r : LinkReq) (s : State) : State :=
  let s1 := if r.op = 2 then s.setBlink k { s.blink k with width := BitVec.ofNat 8 (s.widthFor k r.width) } else s
  (lanesNamed k r.lanes.toNat).foldl (fun a n =>
    let b := a.setLane n { a.lane n with attempts := 0 }
    if r.op = 1 ∨ (b.lane n).st = .off then (if (b.lane n).st = .active then outOfService n (enterTrain n b) else enterTrain n b)
    else b.setLane n { b.lane n with st := .off, since := b.clk.now, lock := false, resumeAt := none, txq := [] }) s1

/-- Every lane of a request has come to rest. -/
def settled (k : Nat) (r : LinkReq) (s : State) : Bool := (lanesNamed k r.lanes.toNat).all fun n => !(s.lane n).st.training

/-- A request of this device ends with a status; the command that ordered it replies. -/
def endRequest (k : Nat) (status : Nat) (s : State) : State :=
  let l := s.blink k
  match l.req with
  | none => s
  | some r =>
    let s1 := endAct (if r.op = 2 then 5 else 4) k (s.setBlink k { l with req := none })
    match r.ctx with
    | some c => reply c (if r.op = 2 then 0x0804 else 0x0803) status [] s1
    | none => s1

/-- Completed changes of a link are concluded: LANE_NO_PEER when a lane named is DOWN; automatic recovery lets go of the link when none
of its lanes trains. -/
def settleLink (k : Nat) (s : State) : State :=
  let l := s.blink k
  let s1 := match l.req with
    | some r =>
      if r.begun ∧ settled k r s then
        endRequest k (if (lanesNamed k r.lanes.toNat).any (fun n => decide ((s.lane n).st = .down)) then St.laneNoPeer else St.ok) s
      else s
    | none => s
  let s2 := match l.follow with
    | some r => if r.begun ∧ settled k r s1 then s1.setBlink k { s1.blink k with follow := none } else s1
    | none => s1
  let own := s2.maint.any fun h => decide (h.act = 4) && decide (h.obj = k) && decide (h.src = 0x19)
  if own && (s2.blink k).req.isNone && !(linkLanes k).any (fun n => (s2.lane n).st.training) then endAct 4 k s2 else s2

/-- The link of a lane is settled after the lane's event. -/
def settleLane (n : Nat) (s : State) : State := if n < 136 then settleLink (linkOf n) s else s

/-- A request of this device begins: it is sent, or begins at once when no lane of the link can carry it. -/
def openRequest (k op width mask : Nat) (ctx : Option CmdCtx) (s : State) : State :=
  let r : LinkReq := {
    op := op, width := width, lanes := BitVec.ofNat 8 mask, seq := 0, start := 0, tries := 0, acked := false, begun := false, ctx := ctx }
  let s1 := startAct (if op = 2 then 5 else 4) k ctx s
  if (s1.requestLanes k).isEmpty then
    let r1 := { r with acked := true, begun := true }
    settleLink k (applyChangeAt k r1 (s1.setBlink k { s1.blink k with req := some r1 }))
  else sendRequest k r s1

/-- A change of a link stands between its LACK and its completion (R149): before the LACK the own request holds the link by the
matrix (R381). -/
def State.linkBusy (s : State) (k : Nat) : Bool := (s.blink k).req.any (·.acked) || (s.blink k).follow.isSome

/-- Automatic recovery asks the peer to retrain a lane whose hunt has failed (R142, R150); it waits while another activity holds the
link (R382). -/
def autoRetrain (n : Nat) (s : State) : State :=
  let k := linkOf n
  if 136 ≤ n ∨ s.linkBusy k ∨ (s.blocker 4 k).isSome ∨ (s.requestLanes k).isEmpty then s else openRequest k 1 0 (2 ^ (n % 8)) none s

/-- A request that names lane n has not begun: the lane waits for its START. -/
def awaitsStart (n : Nat) (r : Option LinkReq) : Bool := r.any fun q => !q.begun && q.lanes.getLsbD (n % 8)

/-- A lane in RECOVER may begin to train (R382): no request that names it waits for its START, and automatic recovery holds its link
already or can take it, or a change of the link has begun. -/
def State.mayRecover (s : State) (n : Nat) : Bool :=
  let k := linkOf n
  !awaitsStart n (s.blink k).req && !awaitsStart n (s.blink k).follow &&
    (s.maint.any (fun h => decide (h.act = 4) && decide (h.obj = k) && decide (h.src = 0x19)) ||
      ((s.blink k).req.any (·.begun)) || ((s.blink k).follow.any (·.begun)) || (s.blocker 4 k).isNone)

/-- RECOVER restarts training from TRAIN_EQ, on a control lane from HUNT (R142). -/
def restartLane (s : State) (n : Nat) : State :=
  let k := linkOf n
  if (s.lane n).st ≠ .recover then s
  else if 136 ≤ n then enterHunt n false s
  else if !s.mayRecover n then s
  else
    let held := s.linkBusy k || s.maint.any fun h => decide (h.act = 4) && decide (h.obj = k)
    enterTrain n (if held then s else startAct 4 k none s)

/-! ### Loss of lock -/

/-- Block lock is lost (R134): counted, logged, and the lane hunts (R142); an ACTIVE lane is out of service. -/
def loseLock (n : Nat) (s : State) : State :=
  let was := (s.lane n).st
  let s1 := enterHunt n false (laneLog St.laneOut (if was = .active then 2 else 5) n (bump 0x4 n 1 s))
  if was = .active then outOfService n s1 else s1

/-- A slip (R122): as loss of lock, logged with its own cause; the lane retrains. -/
def slipLane (n : Nat) (s : State) : State :=
  autoRetrain n (outOfService n (enterTrain n (laneLog St.laneSlip 2 n (bump 0x4 n 1 s))))

/-! ### Calibration -/

/-- Address of the neighbour on lane n (Table 5.1). -/
def neighbour (paired : Bool) (own n : Nat) : Nat :=
  let a := own ^^^ 2 ^ (n / 8)
  if paired ∧ 4 ≤ n % 8 then a ^^^ 1 else a

/-- The smallest class that holds ℓ, or 0 (Table 7.9). -/
def classFor (v : Nat) : Nat := if v + 4 ≤ 40 then 1 else if v + 4 ≤ 56 then 2 else if v + 4 ≤ 88 then 3 else 0

/-- Extra bytes of LINK_CLASS (Table 7.9). -/
def classExtra (n v : Nat) : List Byte := leBytes 1 (n / 8) ++ leBytes 1 (n % 8) ++ leBytes 2 v ++ leBytes 1 (classFor v) ++ zeros 3

/-- A check of R120 fails: the Start of the scope is refused, and in a running partition the lane goes DOWN (Table 6.8). -/
def calFail (n check peer : Nat) (s : State) : State :=
  match s.laneOwner n with
  | none => s
  | some p =>
    if (s.part p).st = .starting then failStart p (extraRefusal St.linkTopology 0x12 (topoExtra s.arm.addr.toNat peer n check)) s
    else laneDown n s

/-- The hold of a lane of an independent system whose new ℓ no longer fits carries LINK_CLASS from here on (Table 16.18); in a paired one the
other copy carries the lane (R122). -/
def relabelHold (p unit : Nat) (s : State) : State :=
  let x := s.part p
  if x.paired then s
  else s.setPart p { x with holds := x.holds.map fun h => if h.code = St.laneOut ∧ h.unit = unit then { h with code := St.linkClass } else h }

/-- ℓ does not fit the class: LINK_CLASS refuses the Start (R121), or a running partition's lane stays down with the event (R122, R145). -/
def classFail (n v : Nat) (s : State) : State :=
  match s.laneOwner n with
  | none => s
  | some p =>
    if (s.part p).st = .starting then failStart p (extraRefusal St.linkClass 0x13 (classExtra n v)) s
    else
      let s1 := relabelHold p n (setDown n s)
      logEvent { cause := St.linkClass, sub := 0x4, sev := 4, part := p, loc := n } (s1.jsOf p) (classExtra n v) s1

/-- Both ends of a lane have finished and neither reports BICOK, nor does this end's override stand: the check still passes when the override is
set at the peer's end (R120), which no block tells this end: a free value (log entry 4). -/
def peerOverride (n : Nat) (s : State) : State :=
  let l := s.lane n
  if l.st ≠ .calibrate ∨ !l.calDone ∨ !l.peerCalDone ∨ l.bicPasses then s
  else
    let (v, s1) := s.draw 1
    s1.setLane n { l with bicPeer := decide (v = 1) }

/-- Whatever the end of a lane's calibration allows: a Start goes on, a recalibrated lane fixes its resume step, the first multiple of
4,096 at least 512 steps after both ends have finished (R146). DEDUCED: an end's finishing is the step at which it first sends the
RXLOCK bit, which both ends know, so both derive one S (log entry 70). -/
def calAdvance (n : Nat) (s : State) : State :=
  match s.laneOwner n with
  | none => s
  | some p =>
    let s := peerOverride n s
    let l := s.lane n
    if !l.calDone ∨ l.st ≠ .calibrate then s
    else if l.peerCalDone ∧ !l.bicPasses then calFail n 6 l.peerAddr.toNat s
    else if (s.part p).st = .starting then advance (s.part p).scope16 s
    else if l.peerCalDone ∧ l.resumeAt.isNone then
      s.setLane n { l with resumeAt := some (roundUp (max (l.calAt.getD s.cnt) (l.peerCalAt.getD s.cnt - l.lat) + 512) 4096) }
    else s

/-- A lane has measured 256 CAL blocks and received a CALB block (R120, R121). -/
def Lane.measured (l : Lane) : Bool := decide (256 ≤ l.calN) && l.calbSeen

/-- Lanes judged together with a lane (R121, R145): before the class is frozen every lane of the port that has no figure yet; a recalibrated lane
alone. -/
def State.calibrating (s : State) (n : Nat) : List Nat :=
  if (s.lane n).frozen.isSome then [n] else (linkLanes (n / 8)).filter fun m => (s.lane m).frozen.isNone

/-- The lane of the largest ℓ among lanes (R121). -/
def State.slowest (s : State) (n : Nat) (l : List Nat) : Nat := l.foldl (fun a m => if (s.lane a).calMax < (s.lane m).calMax then m else a) n

/-- Steps from now until this end's next TRAIN block between CAL bursts (R132, R146). -/
def State.toTrain (s : State) (n : Nat) : Nat := 32 - min 32 ((s.clk.now - (s.lane n).since) % 40)

/-- A lane whose port's figure fits ends CALIBRATE at this end: the figure is frozen at Start and never changed after (R145). -/
def freezeLane (p : Nat) (s : State) (n : Nat) : State :=
  let l := s.lane n
  calAdvance n (s.setLane n { l with
    lat := l.calMax, frozen := some (l.frozen.getD (clsFigure ((s.part p).cls (n / 8)))), calDone := true, calAt := some (s.cnt + s.toTrain n) })

/-- This end finishes CALIBRATE once every lane judged with it has its measurement, one that still trains among them: the largest ℓ + 4 is
judged by the port's class, or by the figure frozen at Start (R121, R145). -/
def finishCal (n : Nat) (s : State) : State :=
  match s.laneOwner n with
  | none => s
  | some p =>
    let lanes := s.calibrating n
    if !(s.lane n).measured ∨ (s.lane n).calDone ∨ !lanes.all (fun m => decide ((s.lane m).st = .calibrate) && (s.lane m).measured) then s
    else
      let w := s.slowest n lanes
      let v := (s.lane w).calMax
      if (s.lane w).frozen.getD (clsFigure ((s.part p).cls (n / 8))) < v + 4 then classFail w v (s.setLane w { s.lane w with lat := v })
      else (lanes.filter fun m => !(s.lane m).calDone).foldl (freezeLane p) s

/-! ### Group 0x08 -/

/-- Low 16 bits of a saturating count. -/
def sat16 (n : Nat) : Nat := min n 65535

/-- LANE.STATUS (R353): reading clears the pattern checker's counters (R152). -/
def execLaneStatus (c : CmdCtx) (lid : Byte) (rsvd : BitVec 24) (s : State) : Res :=
  .next (immediate .a 0x0801 c (fun s =>
    let n := lid.toNat
    if rsvd ≠ 0 ∨ 144 ≤ n then reply c 0x0801 St.argRange [] s
    else
      let l := s.lane n
      let ctr := fun i => s.counter 0x4 n i
      reply c 0x0801 St.ok (leBytes 1 (laneCode l.st + 16 * bitNat l.txSleep + 32 * bitNat l.rxSleep) ++
        leBytes 1 (if 136 ≤ n then 0 else (s.blink (linkOf n)).width.toNat) ++ leBytes 2 l.lat ++ leBytes 4 (ctr 1) ++ leBytes 4 (ctr 2) ++
        leBytes 4 (ctr 3) ++ leBytes 4 (ctr 4) ++ leBytes 2 (sat16 (ctr 5)) ++ leBytes 2 (sat16 (ctr 6)) ++ leBytes 1 (bitNat l.pLock) ++ zeros 3 ++
        leBytes 4 l.perr ++ leBytes 6 l.pbits) (s.setLane n { l with perr := 0, pbits := 0 })) s)

/-- Fixed settings of a pendant or control lane (R140, R353). -/
def fixedEq (e : U32) : List Byte :=
  leBytes 1 (e.extractLsb' 12 4).toNat ++ leBytes 1 (e.extractLsb' 8 4).toNat ++ zeros 2 ++ leBytes 1 (e.extractLsb' 0 8).toNat ++ zeros 11

/-- Settings of an adapting receiver, which the board's signal decides: free values (log entry 4), held while it is frozen (R139) or asleep (R154). -/
def drawTaps (n : Nat) (s : State) : State :=
  let l := s.lane n
  if l.st = .off ∨ l.rxSleep ∨ l.eqFrozen then s
  else
    let (v, s1) := s.draw 112
    s1.setLane n { l with ctle := v.extractLsb' 0 8, vga := v.extractLsb' 8 8, taps := (List.range 12).map fun i => v.extractLsb' (16 + 8 * i) 8 }

/-- Result of LANE.EQ. -/
def eqData (n : Nat) (s : State) : List Byte :=
  let l := s.lane n
  if 128 ≤ n then fixedEq l.eqEntry
  else leBytes 1 l.ctle.toNat ++ leBytes 1 l.vga.toNat ++ leBytes 1 (bitNat l.eqFrozen) ++ zeros 1 ++ (l.taps ++ zeros 12).take 12

/-- LANE.EQ (R139, R353). -/
def execLaneEq (c : CmdCtx) (lid op : Byte) (rsvd : U16) (s : State) : Res :=
  .next (linkWait (linkOf lid.toNat) (immediate .p 0x0802 c (fun s =>
    let n := lid.toNat
    if rsvd ≠ 0 ∨ 144 ≤ n ∨ 2 < op.toNat ∨ (op ≠ 0 ∧ 128 ≤ n) then reply c 0x0802 St.argRange [] s
    else if (s.lane n).st = .down then reply c 0x0802 St.wrongState [] s
    else
      let s1 := if n < 128 then drawTaps n s else s
      let s2 := if op = 1 then s1.setLane n { s1.lane n with eqFrozen := true }
        else if op = 2 then s1.setLane n { s1.lane n with eqFrozen := false } else s1
      reply c 0x0802 St.ok (eqData n s2) s2)) s)

/-- A command of the device's own on a child link, of which at most 8 stand unanswered (R333). -/
def sendOwnPacket (k : Nat) (b : List Byte) (s : State) : State :=
  let l := s.link k
  if 8 ≤ l.unanswered then s.setLink k { l with ownQ := l.ownQ ++ [b] }
  else (s.setLink k { l with unanswered := l.unanswered + 1 }).emit (.linkPacket k b)

/-- An own command that waited on a child link goes once fewer than 8 stand unanswered there. -/
def drainOwnLink (s : State) (k : Nat) : State :=
  let l := s.link k
  match l.ownQ with
  | [] => s
  | b :: r => if 8 ≤ l.unanswered then s else sendOwnPacket k b (s.setLink k { l with ownQ := r })

/-- Own commands that waited go on every child link. -/
def drainOwn (s : State) : State := [1, 2, 3, 4, 5, 6].foldl drainOwnLink s

/-- Character sync on a link is dropped and its lane hunts for commas again (R136, R353). -/
def dropSync (k : Nat) (s : State) : State :=
  enterHunt (136 + k) false (s.setLink k { s.link k with sync := false, up := false, unanswered := 0, ownQ := [], commas := 0, chars := 0, errs := 0 })

/-- Lane identifier of the peer's end of a child link: S7 of an adopted device, else S0 (R364, Table 6.2). -/
def peerEnd (l : CtlLink) : Nat := if l.adopted then 143 else 136

/-- LANE.RETRAIN of a control link (R353, R149): a child is sent the command that names its end of the link; an upstream link that is not the
clock source hunts again, and so does an end in DOWN (Table 6.8), whose reply follows when the link is up. -/
def retrainControl (c : CmdCtx) (k : Nat) (s : State) : State :=
  let l := s.link k
  if k = s.upLink then reply c 0x0803 St.laneInUse [] s
  else match s.blocker 4 (17 + k) with
    | some h => busyReply c 0x0803 h s
    | none =>
      let s1 := fun (a : State) (own : Bool) =>
        startAct 4 (17 + k) (some c) (holdDeferred c 0x0803 (a.setLink k { a.link k with retrain := some c, ownRetrain := own }))
      if k = 0 ∨ k = 7 ∨ (s.lane (136 + k)).st = .down then s1 (dropSync k (s.setLane (136 + k) { s.lane (136 + k) with attempts := 0 })) true
      else match l.child with
        | none => reply c 0x0803 St.laneNoPeer [] s
        | some a => sendOwnPacket k (commandBytes 0x0803 c.tag.toNat a.toNat 0 (leBytes 1 (peerEnd l) ++ zeros 3)) (s1 s false)

/-- LANE.RETRAIN (R147 to R150, R353). -/
def execLaneRetrain (c : CmdCtx) (lid : Byte) (rsvd : BitVec 24) (s : State) : Res :=
  .next (changeWait (linkOf lid.toNat) (deferredOp .p 0x0803 c (fun s =>
    let n := lid.toNat
    if rsvd ≠ 0 ∨ 144 ≤ n then reply c 0x0803 St.argRange [] s
    else if 136 ≤ n then retrainControl c (n - 136) s
    else if s.linkBusy (linkOf n) then reply c 0x0803 St.laneBusy [] s
    else match s.blocker 4 (linkOf n) with
      | some h => busyReply c 0x0803 h s
      | none => openRequest (linkOf n) 1 0 (2 ^ (n % 8)) (some c) (holdDeferred c 0x0803 s))) s)

/-- Lanes of a link that a new width changes (R148): those to bring up and those to take to OFF; a lane in DOWN keeps its state. -/
def widthMask (k code : Nat) (s : State) : Nat :=
  let keep := if k = 16 then (s.usableLanes 16).take (widthLanes code) else (linkLanes k).take (widthLanes code)
  maskOf (((linkLanes k).filter fun n => if keep.contains n then decide ((s.lane n).st = .off) else decide ((s.lane n).st ≠ .off) && decide ((s.lane n).st ≠ .down)).map (· % 8))

/-- LANE.WIDTH (R148, R149). -/
def execLaneWidth (c : CmdCtx) (link width : Byte) (rsvd : U16) (s : State) : Res :=
  .next (changeWait link.toNat (deferredOp .p 0x0804 c (fun s =>
    let k := link.toNat
    if rsvd ≠ 0 ∨ 16 < k ∨ width = 0 ∨ 4 < width.toNat then reply c 0x0804 St.argRange [] s
    else if (linkLanes k).any (fun n => decide ((s.lane n).st = .active)) ∨
        (k < 16 ∧ [0, 1, 2, 3].any fun p => decide ((s.part p).st = .running) && natBit (s.part p).pmask k) then
      reply c 0x0804 St.laneInUse [] s
    else if s.linkBusy k then reply c 0x0804 St.laneBusy [] s
    else match s.blocker 5 k with
      | some h => busyReply c 0x0804 h s
      | none => openRequest k 2 width.toNat (widthMask k width.toNat s) (some c) (holdDeferred c 0x0804 s))) s)

/-- A lane's generator and checker start with fresh registers (R151, R152). -/
def setPattern (n : Nat) (gen chk : Byte) (s : State) : State :=
  s.setLane n { s.lane n with
    st := .pattern, since := s.clk.now, gen := gen, chk := chk, prbs := BitVec.allOnes 31, prbsRx := 0, pLock := false, pRun := 0, pWinErr := 0, pWinBits := 0 }

/-- LANE.PATTERN (R149, R151). -/
def execLanePattern (c : CmdCtx) (lid gen chk rsvd : Byte) (s : State) : Res :=
  .next (linkWait (linkOf lid.toNat) (immediate .p 0x0805 c (fun s =>
    let n := lid.toNat
    let l := s.lane n
    if rsvd ≠ 0 ∨ 144 ≤ n ∨ 3 < gen.toNat ∨ 3 < chk.toNat then reply c 0x0805 St.argRange [] s
    else if l.st = .active then reply c 0x0805 St.laneInUse [] s
    else if l.st = .pattern then
      if gen = 0 ∧ chk = 0 then reply c 0x0805 St.ok [] (endAct 4 (linkOf n) (laneReady n (s.setLane n { l with gen := 0, chk := 0 })))
      else reply c 0x0805 St.ok [] (setPattern n gen chk s)
    else if l.st ≠ .ready then reply c 0x0805 St.wrongState [] s
    else if gen = 0 ∧ chk = 0 then reply c 0x0805 St.ok [] s
    else match s.blocker 4 (linkOf n) with
      | some h => busyReply c 0x0805 h s
      | none => reply c 0x0805 St.ok [] (setPattern n gen chk (startAct 4 (linkOf n) (some c) s)))) s)

/-- A lane transmits (Table 6.8): not while its transmitter sleeps (R154). -/
def Lane.transmits (l : Lane) : Bool := !l.txSleep && decide (l.st ≠ .off) && decide (l.st ≠ .down)

/-- LANE.INJECT (R153): a step that has passed is out of range. -/
def execLaneInject (c : CmdCtx) (lid len pos at_ : Byte) (rsvd : U32) (step : U64) (s : State) : Res :=
  .next (linkWait (linkOf lid.toNat) (immediate .p 0x0806 c (fun s =>
    let n := lid.toNat
    if rsvd ≠ 0 ∨ 144 ≤ n ∨ len = 0 ∨ 64 < len.toNat ∨ (if 136 ≤ n then 10 else 80) ≤ pos.toNat ∨ 1 < at_.toNat ∨
        (at_ = 1 ∧ step.toNat < s.cnt) then reply c 0x0806 St.argRange [] s
    else if !(s.lane n).transmits then reply c 0x0806 St.wrongState [] s
    else reply c 0x0806 St.ok [] (s.setLane n { s.lane n with
      inject := some (len.toNat, pos.toNat, if at_ = 1 then some step.toNat else none) }))) s)

/-- A transmitter begins to sleep: SLEEP blocks for 64 steps, the last 64 steps before the silent step (R155; how many is the model's
choice, log entry 70), or at once where it sends nothing. -/
def sleepTx (n : Nat) (s : State) : State :=
  let l := s.lane n
  if l.txSleep ∨ l.silentAt.isSome then s
  else if l.transmits then s.setLane n { l with silentAt := some (s.cnt + 128) }
  else s.setLane n { l with txSleep := true, st := .sleep, prior := if l.st = .sleep then l.prior else l.st, since := s.clk.now }

/-- A receiver sleeps at once and keeps its taps (R154). -/
def sleepRx (n : Nat) (s : State) : State :=
  let l := s.lane n
  if l.rxSleep then s
  else s.setLane n { l with rxSleep := true, st := .sleep, prior := if l.st = .sleep then l.prior else l.st, since := s.clk.now }

/-- The directions of a lane that SET names awake wake (Table 6.8, R155): a transmitter that wakes while the receiver sleeps sends TRAIN
blocks; a receiver that wakes while the transmitter sleeps relocks; a lane with neither asleep takes its prior state's bring-up path. -/
def wakeLane (n : Nat) (tx rx : Bool) (s : State) : State :=
  let l := s.lane n
  let y := { l with
    txSleep := l.txSleep && !tx, rxSleep := l.rxSleep && !rx, silentAt := if tx then none else l.silentAt, waking := l.waking || (l.txSleep && tx) }
  let s1 := s.setLane n y
  let up := decide (l.prior ≠ .off) && decide (l.prior ≠ .down)
  if l.st ≠ .sleep then s1
  else if !y.txSleep ∧ !y.rxSleep then (if up then enterHunt n true s1 else moveLane n l.prior s1)
  else if up ∧ l.rxSleep ∧ rx then enterHunt n true s1
  else s1

/-- LANE.SLEEP (R154, R155). DESIGN CHOICE: R149 refuses every command but LANE.RETRAIN on a lane in DOWN, while R154 and Table 16.9 let
a lane sleep there and LANE.STATUS reports the state DOWN (Table 6.8): LANE.SLEEP and LANE.STATUS are served in DOWN (log entry 70). -/
def execLaneSleep (c : CmdCtx) (lid set : Byte) (rsvd : U16) (s : State) : Res :=
  .next (linkWait (linkOf lid.toNat) (immediate .p 0x0807 c (fun s =>
    let n := lid.toNat
    let st := (s.lane n).st
    if rsvd ≠ 0 ∨ 136 ≤ n ∨ 3 < set.toNat then reply c 0x0807 St.argRange [] s
    else if st = .active then reply c 0x0807 St.laneInUse [] s
    else if st ≠ .ready ∧ st ≠ .down ∧ st ≠ .off ∧ st ≠ .sleep then reply c 0x0807 St.wrongState [] s
    else
      let s1 := wakeLane n (!set.getLsbD 0) (!set.getLsbD 1) s
      let s2 := if set.getLsbD 0 then sleepTx n s1 else s1
      reply c 0x0807 St.ok [] (if set.getLsbD 1 then sleepRx n s2 else s2))) s)

end Sys2Proof.Machine
end

