-- ==== Sys2Proof/Machine/LaneEvents.lean ====
section
/-!
DEFINITION. LaneEvents.lean: what arrives on the block lanes and what falls due at their ends: blocks (R117, R118, R133, R134), training,
calibration and request content (Table 6.4), timeouts, resume and sleep (R142 to R155).
-/
namespace Sys2Proof.Machine

/-! ### Delivery (R117, R118) -/

/-- The 72 bits of a lane's payload are delivered at step t. -/
def deliver (lane t : Nat) (payload : BitVec 72) (s : State) : State :=
  let keys := (onesOf payload.toNat 72).map fun b => (t * 9216 + 72 * lane + b, true)
  { s with arr := { s.arr with sxRx := smPutAll false s.arr.sxRx keys } }

/-- COPY_LOST is logged once per loss of a copy, while the other copy is valid (Table 5.6). -/
def noteCopy (n : Nat) (kind other : CopyKind) (s : State) : State :=
  let l := s.lane n
  if kind ≠ .absent then s.setLane n { l with absent := false }
  else if l.absent ∨ other ≠ .valid then s
  else laneLog St.copyLost 0 n (s.setLane n { l with absent := true })

/-- The two copies of a lane resolve by Table 5.6: a on lane l, b on lane l + 4. DESIGN CHOICE: both absent raise the HOLD of the table whether
or not a map names the lane, and also where neither lane has delivered since the Start tick, although R117 gives such a lane no veto of its
own (log entry 78). -/
def resolvePair (p lane t : Nat) (a b : CopyKind × BitVec 72) (s : State) : State :=
  let log := fun cause sev n st => logRec { cause := cause, sub := 0x4, sev := sev, part := p, loc := n } st
  match a.1, b.1 with
  | .valid, .valid =>
    if a.2 = b.2 then deliver lane t a.2 s else deliver lane t a.2 (raiseVeto p false (log St.copyDiffer 1 lane s))
  | .valid, .crcError => deliver lane t a.2 (log St.copyRepair 0 (lane + 4) s)
  | .crcError, .valid => deliver lane t b.2 (log St.copyRepair 0 lane s)
  | .crcError, .crcError => raiseVeto p false (log St.laneOut 1 (lane + 4) (log St.laneOut 1 lane s))
  | .valid, .absent => deliver lane t a.2 s
  | .absent, .valid => deliver lane t b.2 s
  | .crcError, .absent => raiseVeto p false (log St.laneOut 1 lane s)
  | .absent, .crcError => raiseVeto p false (log St.laneOut 1 (lane + 4) s)
  | .absent, .absent =>
    if (s.part p).standing St.laneOut lane then s
    else raiseHold p St.laneOut lane (log St.laneOut 2 (lane + 4) (log St.laneOut 2 lane s))

/-- Both copies of lane l of a step are known (R118). -/
def resolveCopies (p lane t : Nat) (a b : CopyKind × BitVec 72) (s : State) : State :=
  let s1 := noteCopy (lane + 4) b.1 a.1 (noteCopy lane a.1 b.1 s)
  let s2 := if (a.1 = .valid ∨ b.1 = .valid) ∧ (s1.part p).standing St.laneOut lane then resolveHold p St.laneOut lane s1 else s1
  resolvePair p lane t a b s2

/-- A copy of a paired system waits for the other, or resolves with it (R118). -/
def takeCopy (p n t : Nat) (kind : CopyKind) (payload : BitVec 72) (s : State) : State :=
  let mate := mateLane n
  let base := baseLane n
  let me := (kind, payload)
  let both := fun (other : CopyKind × BitVec 72) (st : State) =>
    if n = base then resolveCopies p base t me other st else resolveCopies p base t other me st
  let m := s.lane mate
  if !(decide (m.st = .active) && m.lock) then both (.absent, 0) s
  else match s.arr.copies.find? fun c => decide (c.lane = mate) && decide (c.step = t) with
    | some c =>
      both (c.kind, c.payload) { s with arr := { s.arr with copies := s.arr.copies.filter fun d => decide (d ≠ c) } }
    | none => { s with arr := { s.arr with copies := s.arr.copies ++ [{ lane := n, step := t, kind := kind, payload := payload }] } }

/-- A block on an ACTIVE lane of partition p, classified by the lane's history (R117): ok says that its CRC-6 passed. DESIGN CHOICE: an error
is detected, and charged by R33, at the step at which the block arrives, not at that at which the padded block leaves the receive stage
(log entry 78). -/
def classify (p n t : Nat) (ok : Bool) (hdr : Nat) (payload : BitVec 72) (s : State) : State :=
  let l := s.lane n
  let paired := (s.part p).paired
  let data := ok && decide (hdr = hdrData)
  let idle := ok && decide (hdr = hdrControl) && decide (payload = 0)
  if data then
    let s1 := s.setLane n { l with delivered := true }
    if paired then takeCopy p n t .valid payload s1 else deliver n t payload s1
  else if paired && idle then takeCopy p n t .absent 0 s
  else if !l.delivered then (if paired then takeCopy p n t .absent 0 s else s)
  else if paired then takeCopy p n t .crcError 0 s
  else raiseVeto p false s

/-- A block on an ACTIVE lane leaves the receive stage its frozen figure after it left the sender; one whose measured latency exceeds the
figure has slipped (R121, R122); those sent before the resume step are not delivered (R146). -/
def activeBlock (n : Nat) (ok : Bool) (hdr : Nat) (payload : BitVec 72) (s : State) : State :=
  let l := s.lane n
  match s.laneOwner n, l.frozen with
  | some p, some fig =>
    if fig < l.lat then slipLane n s
    else
      let t := s.cnt + fig - l.lat
      let early : Bool := match l.resumeAt with | some r => decide (t < r + fig) | none => false
      if early || decide ((s.part p).st ≠ .running) then s else classify p n t ok hdr payload s
  | _, _ => s

/-! ### Lock and framing -/

/-- Block lock (R133): the lane links up; one whose transmitter sleeps is back in SLEEP (R155). -/
def acquireLock (n : Nat) (s : State) : State :=
  s.setLane n { s.lane n with st := if (s.lane n).txSleep then .sleep else .linkup, since := s.clk.now, lock := true, waking := false, huntN := 0, window := 0, rxLockRun := 0 }

/-- The block that ends a lane's boundary before the newest 80 bits do (R133). -/
def Lane.aligned (l : Lane) (b : Block) : Block := BitVec.ofNat 80 ((l.prevBits.toNat * 2 ^ 80 + b.toNat) / 2 ^ l.cand)

/-- A block while hunting (R133): 64 valid headers in a row at the candidate boundary give lock; an invalid one moves to the next
candidate position. -/
def huntBlock (n : Nat) (b : Block) (s : State) : State :=
  let l := s.lane n
  let y := { l with descr := (descramble l.descr (blockPayload b)).2 }
  if !hdrValid (blockHdr b) then s.setLane n { y with huntN := 0, cand := (y.cand + 1) % 80 }
  else if y.huntN + 1 < 64 then s.setLane n { y with huntN := y.huntN + 1 }
  else acquireLock n (s.setLane n y)

/-- Step counter at which a pendant block received now was sent. -/
def State.pendantSent (s : State) : Nat := s.cnt - s.pend.lat

/-- Counter block of a pendant block (R281). -/
def pendantCounter (step lane side : Nat) : BitVec 128 := BitVec.ofNat 128 (step % 2 ^ 64 * 2 ^ 64 + lane * 2 ^ 61 + side * 2 ^ 60)

/-- A pendant payload under the pair key once encryption has started (R281, R298 step 6). -/
def pendantCrypt (step lane side : Nat) (payload : BitVec 72) (s : State) : BitVec 72 :=
  match s.keys.pairKey, s.pend.encAt with
  | some k, some t => if t ≤ step then payload ^^^ Config.pendantStream k (pendantCounter step lane side) else payload
  | _, _ => payload

/-- Partition whose frame awaits the peer's SIGF or SIG: in housekeeping up to h 47 (R308), one of frame f before another. -/
def State.sigTarget (s : State) (q : Partition → Bool) : Option Nat :=
  let open_ := fun p : Nat =>
    let x := s.part p
    let h := s.relStep p + 64
    x.inFrame && decide (x.frameLen ≤ h) && decide (h < x.frameLen + 48)
  [0, 1, 2, 3].find? fun p => open_ p && q (s.part p)

/-- SIGF and SIG (Table 14.2, R308). -/
def takeSig (ptype : Nat) (v : BitVec 64) (s : State) : State :=
  let f := v.extractLsb' 16 48
  if ptype = 2 then
    match s.sigTarget (fun x => x.peerSigf.isNone && decide (x.frame = f)), s.sigTarget (fun x => x.peerSigf.isNone) with
    | some p, _ => s.setPart p { s.part p with peerSigf := some (f, v.extractLsb' 14 2, v.toNat % 16384) }
    | none, some p => s.setPart p { s.part p with peerSigf := some (f, v.extractLsb' 14 2, v.toNat % 16384) }
    | none, none => s
  else if ptype = 3 then
    match s.sigTarget fun x => x.peerSigf.isSome && x.peerSig.isNone with
    | some p => s.setPart p { s.part p with peerSig := some v }
    | none => s
  else s

/-- A pendant block enters the interval of the next TAG, one of a reserved PTYPE is counted, and signatures reach their frame
(R301, R303, R308). -/
def pendantArrives (n : Nat) (ok : Bool) (hdr : Nat) (payload : BitVec 72) (s : State) : State :=
  let plain := pendantCrypt s.pendantSent (n - 128) (1 - bitNat s.ident.pendSide) payload s
  let ptype := plain.toNat / 2 ^ 64
  let stamp := decide (hdr = hdrControl) && decide (payload.toNat / 2 ^ 64 = 7)
  let data := decide (hdr = hdrData)
  if !s.pendantOn ∨ !(data || stamp) then s
  else
    let s1 := if data ∧ ok ∧ 8 ≤ ptype then bump 0x4 n 7 s else s
    let s2 := if data && ok && s.paired then takeSig ptype (plain.extractLsb' 0 64) s1 else s1
    if (data ∧ ptype = 4) ∨ !s.authOn s.pendantSent then s2 else { s2 with pend := { s2.pend with rxLog := s2.pend.rxLog ++ [payload] } }

/-- Blocks of the last 64 with invalid headers. -/
def invalidCount (w : BitVec 64) : Nat := (onesOf w.toNat 64).length

/-- A block on a locked receiver (R130, R131, R134). DESIGN CHOICE: a block whose CRC-6 matches but whose header is invalid counts in
CRC_ERR with the failed ones; the spec does not say (log entry 70). -/
def lockedBlock (n : Nat) (b : Block) (s : State) : State :=
  let l := s.lane n
  let hdr := blockHdr b
  let ok := hdrValid hdr && blockCrcOk b
  let (payload, descr) := descramble l.descr (blockPayload b)
  let w := (l.window <<< 1) ||| BitVec.ofNat 64 (bitNat (!hdrValid hdr))
  let ctype := payload.toNat / 2 ^ 64
  let run := if l.st = .linkup ∧ !(ok && decide (hdr = hdrControl) && decide (ctype = 2)) then 0 else l.rxLockRun
  let s1 := s.setLane n { l with descr := descr, window := w, rxLockRun := run }
  if 16 ≤ invalidCount w then loseLock n s1
  else
    let s2 := if ok then s1 else bump 0x4 n 2 s1
    let s3 := if ok ∧ hdr = hdrControl ∧ 8 ≤ ctype then bump 0x4 n 6 s2 else s2
    if 128 ≤ n then pendantArrives n ok hdr payload s3
    else if l.st = .active then activeBlock n ok hdr payload s3
    else s3

/-- One received bit through the pattern checker (R152). DESIGN CHOICE: the 1,024 bits in which 64 errors lose lock are fixed windows
counted from lock, and PBITS stops at its largest value as PERR does; the spec says neither (log entry 70). -/
def checkBit (g : Nat) (l : Lane) (b : Bool) : Lane :=
  let want := prbsNext g l.prbsRx.toNat
  let shift := fun v : Bool => BitVec.ofNat 31 (2 * l.prbsRx.toNat + bitNat v)
  if !l.pLock then
    let run := if want = b then l.pRun + 1 else 0
    { l with prbsRx := shift b, pRun := if run = 64 then 0 else run, pLock := decide (run = 64), pWinErr := 0, pWinBits := 0 }
  else
    let bad := decide (want ≠ b)
    let errs := l.pWinErr + bitNat bad
    let bits := l.pWinBits + 1
    let y := { l with prbsRx := shift want, perr := sat32 (l.perr + bitNat bad), pbits := min (2 ^ 48 - 1) (l.pbits + 1) }
    if 64 ≤ errs then { y with pLock := false, pRun := 0, pWinErr := 0, pWinBits := 0 }
    else if bits = 1024 then { y with pWinErr := 0, pWinBits := 0 }
    else { y with pWinErr := errs, pWinBits := bits }

/-! ### Characters of a control link (R135, R136) -/

/-- CONTROL_LINK_UP's effect (R136): the lane is READY, a LANE.RETRAIN of this end is answered, and an upstream link sends its first
REQ (R386). -/
def linkUp (k : Nat) (s : State) : State :=
  let n := 136 + k
  let s1 := s.setLink k { s.link k with sync := true, up := true, skipping := false }
  let s2 := if (s1.lane n).st = .pattern ∨ (s1.lane n).st = .sleep then s1
    else s1.setLane n { s1.lane n with st := .ready, since := s1.clk.now, attempts := 0, lock := true }
  let s3 := answerRetrain k St.ok s2
  if k = 0 ∨ k = 7 then sendReq k (s3.setSync k { s3.syncOf k with ppmOk := true }) else s3

/-- Ten bits that spell K28.5 at one or the other disparity. -/
def isComma (c : Nat) : Bool := decide (c = 0b0011111010) || decide (c = 0b1100000101)

/-- Ten of the last twenty bits, those that begin i bits into the older ten. -/
def charAt (l : CtlLink) (cur : BitVec 10) (i : Nat) : Nat := (l.rxPrev.toNat * 1024 + cur.toNat) / 2 ^ (10 - i) % 1024

/-- Ten bits while the receiver hunts for commas (R136): three at one alignment with no code error between them give sync. DESIGN CHOICE: a
code error of a receiver that still hunts is not counted in CODE_ERR (R135, log entry 78). -/
def seekComma (k : Nat) (cur : BitVec 10) (s : State) : State :=
  let l := s.link k
  let y := { l with rxPrev := cur }
  match (List.range 10).find? fun i => isComma (charAt l cur i) with
  | some i =>
    let c := charAt l cur i
    let n := if 0 < l.commas ∧ i = l.align ∧ decodeChar c l.rxPos = comma then l.commas + 1 else 1
    let z := { y with align := i, rxPos := decide (c = 0b0011111010), commas := n }
    s.setLink k (if n < 3 then z else { z with sync := true, commas := 0, chars := 0, errs := 0 })
  | none =>
    let c := charAt l cur l.align
    s.setLink k { y with
      commas := if decodeChar c l.rxPos = .bad then 0 else l.commas
      rxPos := disparityAfter c l.rxPos }

/-- A character in sync (R135, R136): a code error is counted, 16 in 256 characters lose sync, and 1,024 characters bring the link up.
What the characters spell acts by its own command: CONTROL_LINK_PACKET, or that of the sequence. -/
def takeChar (k : Nat) (cur : BitVec 10) (s : State) : State :=
  let l := s.link k
  let c := charAt l cur l.align
  let bad := decide (decodeChar c l.rxPos = .bad)
  let errs := (l.errs <<< 1) ||| BitVec.ofNat 256 (bitNat bad)
  let chars := min 1024 (l.chars + 1)
  let s1 := s.setLink k { l with rxPrev := cur, rxPos := disparityAfter c l.rxPos, errs := errs, chars := chars }
  let s2 := if bad then bump 0x4 (136 + k) 3 s1 else s1
  if 16 ≤ ones 256 errs.toNat then dropSync k s2
  else if !l.up ∧ chars = 1024 then linkUp k s2
  else s2

/-- Ten bits arrive on a control lane; in PATTERN they go to the checker, bypassing the code (R151, R152). -/
def controlBits (n : Nat) (cur : BitVec 10) (s : State) : State :=
  let l := s.lane n
  let k := n - 136
  match l.st with
  | .off | .down | .recover => s
  | .pattern => if l.chk = 0 then s else s.setLane n ((bitsMsb 10 cur.toNat).foldl (checkBit l.chk.toNat) l)
  | .sleep => if l.rxSleep then s else if (s.link k).sync then takeChar k cur s else seekComma k cur s
  | _ => if (s.link k).sync then takeChar k cur s else seekComma k cur s

/-! ### Blocks -/

/-- Blocks that were under way when the peer fell silent still arrive: 88 steps hold the longest (R121). -/
def State.inFlight (s : State) (l : Lane) : Bool := match l.peerSilent with | some t => decide (s.cnt < t + 88) | none => false

/-- BLOCK_RECEIVED (R117, R133, R134, R152, R155): framing, lock and delivery; what a control block says acts by its own command. On a
control lane the low ten bits are those received (R136). -/
def execBlockReceived (lane : Fin 144) (block : Block) (s : State) : Res :=
  let n := lane.val
  let l := s.lane n
  let s0 := s.setLane n { l with prevBits := block }
  let b := l.aligned block
  .next (settleLane n (if 136 ≤ n then controlBits n (block.setWidth 10) s
    else match l.st with
      | .off | .trainEq | .recover | .down => s
      | .pattern => if l.chk = 0 then s else s.setLane n ((bitsMsb 80 block.toNat).foldl (checkBit l.chk.toNat) l)
      | .sleep => if l.rxSleep then s else if l.lock then lockedBlock n b s0 else if s.inFlight l then s0 else huntBlock n b s0
      | .peerSleep => if s.inFlight l then s0 else huntBlock n b (enterHunt n true s0)
      | .hunt => huntBlock n b s0
      | _ => lockedBlock n b s0))

/-! ### Training -/

/-- EQUALISER_CONVERGED (R141): the lane hunts. -/
def execEqualiserConverged (lane : Fin 144) (s : State) : Res :=
  let n := lane.val
  .next (if (s.lane n).st ≠ .trainEq then s else enterHunt n false (s.setLane n { s.lane n with eqDone := true }))

/-- HUNT_TIMEOUT (R133): 65,536 steps without lock: RECOVER, with a request to the peer where the link can carry one (R142). DESIGN
CHOICE: a child link's hunt for commas has the same limit; an upstream link hunts on, since only its parent's signal ends its
hunt (R392; log entry 69). -/
def execHuntTimeout (lane : Fin 144) (s : State) : Res :=
  let n := lane.val
  let l := s.lane n
  .next (if n = 136 ∨ n = 143 ∨ l.st ≠ .hunt ∨ l.waking ∨ s.clk.now < l.since + 65536 then s
    else settleLane n (autoRetrain n (enterRecover n s)))

/-- TRAIN_EQ_TIMEOUT (Table 6.8): 1 ms. -/
def execTrainEqTimeout (lane : Fin 144) (s : State) : Res :=
  let n := lane.val
  let l := s.lane n
  .next (if l.st ≠ .trainEq ∨ s.clk.now < l.since + usSteps 1000 then s else settleLane n (enterRecover n s))

/-- RELOCK_TIMEOUT (R155): 100 µs after waking. -/
def execRelockTimeout (lane : Fin 144) (s : State) : Res :=
  let n := lane.val
  let l := s.lane n
  .next (if l.st ≠ .hunt ∨ !l.waking ∨ s.clk.now < l.since + usSteps 100 then s else settleLane n (enterRecover n s))

/-- A pendant lane that has come back to READY while a pair exists is measured anew (R299): the lowest in use by its next HB; no block that
another lane carries tells the sender's counter, so its latency is a free value (log entry 4). Above 36 steps the lane goes DOWN. -/
def remeasureLane (n : Nat) (s : State) : State :=
  if n < 128 ∨ 136 ≤ n ∨ !s.paired ∨ (s.lane n).st ≠ .ready ∨ (s.lanesInUse 16).head? = some n then s
  else
    let (v, s1) := s.draw 16
    let s2 := s1.setLane n { s1.lane n with lat := v.toNat }
    if 36 < v.toNat then setDown n s2 else s2

/-- TRAIN_BLOCK (Table 6.4): EQDONE, RXLOCK in a row towards READY, and in CALIBRATE the peer's end of it with BICOK, once its CAL blocks show
that the peer calibrates too; RXLOCK = 0 takes that end back (R146). -/
def execTrainBlock (lane : Fin 144) (payload : U64) (s : State) : Res :=
  let n := lane.val
  let l := s.lane n
  let y := { l with peerEqDone := payload.getLsbD 1 }
  let rx := payload.getLsbD 0
  .next (if 136 ≤ n then s
    else match l.st with
      | .trainEq | .hunt => s.setLane n y
      | .linkup =>
        if !rx then s.setLane n { y with rxLockRun := 0 }
        else if l.rxLockRun + 1 < 64 then s.setLane n { y with rxLockRun := l.rxLockRun + 1 }
        else settleLane n (remeasureLane n (laneReady n (s.setLane n { y with rxLockRun := 0 })))
      | .calibrate =>
        if l.calN = 0 then s.setLane n y
        else settleLane n (calAdvance n (s.setLane n { y with
          peerCalDone := rx, peerBicOk := payload.getLsbD 2, peerAddr := payload.extractLsb' 48 16
          peerCalAt := if !rx then none else if l.peerCalAt.isNone then some s.cnt else l.peerCalAt
          resumeAt := if rx then l.resumeAt else none }))
      | _ => s)

/-! ### Calibration content -/

/-- First check of R120 that a CAL block fails: 1 address, 2 port, 3 scope, 4 frame length, 5 class. -/
def calCheck (x : Partition) (own n v : Nat) : Option Nat :=
  if v / 2 ^ 48 ≠ neighbour x.paired own n then some 1
  else if natBits v 44 4 ≠ n / 8 then some 2
  else if natBits v 30 11 ≠ x.scope16 % 2048 then some 3
  else if natBits v 18 12 ≠ x.frameLen / 16 - 1 then some 4
  else if natBits v 16 2 ≠ x.cls (n / 8) then some 5
  else none

/-- CAL_BLOCK (R120, R121, R145). -/
def execCalBlock (lane : Fin 144) (payload : U64) (s : State) : Res :=
  let n := lane.val
  let v := payload.toNat
  let l := s.lane n
  .next (if 128 ≤ n ∨ l.st ≠ .calibrate ∨ l.calDone then s
    else match s.laneOwner n with
      | none => s
      | some p =>
        let addr := v / 2 ^ 48
        match calCheck (s.part p) s.arm.addr.toNat n v with
        | some k => settleLane n (calFail n k addr s)
        | none =>
          let lat := (s.cnt + 65536 - v % 65536) % 65536
          settleLane n (finishCal n (s.setLane n { l with calN := l.calN + 1, calMax := if l.calN < 256 then max l.calMax lat else l.calMax, peerAddr := BitVec.ofNat 16 addr })))

/-- CALB_BLOCK (R120, R3): the scope's high bits and the BIC check; an override at this end passes the check and is logged. BICOK
reports equality or the list alone (Table 6.4). -/
def execCalbBlock (lane : Fin 144) (payload : U64) (s : State) : Res :=
  let n := lane.val
  let v := payload.toNat
  let l := s.lane n
  let bic := payload.extractLsb' 48 16
  .next (if 128 ≤ n ∨ l.st ≠ .calibrate then s
    else match s.laneOwner n with
      | none => s
      | some p =>
        if natBits v 43 5 ≠ (s.part p).scope16 / 2048 then settleLane n (calFail n 3 l.peerAddr.toNat s)
        else
          let eq := decide (bic = s.ident.bic) || s.ident.equiv.contains bic
          let ovr := !eq && !l.bicOver && s.arm.override && s.measureFits 0
          let s1 := if ovr then noteOverride p bic.toNat s else s
          settleLane n (finishCal n (s1.setLane n { s1.lane n with calbSeen := true, bicOk := eq || l.bicOk, bicOver := ovr || l.bicOver })))

/-- LANE_RESUME (R146): at step S the lane carries data again and its condition is resolved. -/
def execLaneResume (lane : Fin 144) (s : State) : Res :=
  let n := lane.val
  let l := s.lane n
  .next (if l.st ≠ .calibrate ∨ l.resumeAt ≠ some s.cnt then s
    else settleLane n (inService n (s.setLane n { l with st := .active, since := s.clk.now, attempts := 0 })))

/-! ### Requests -/

/-- The peer's request is followed and acknowledged (R147). -/
def followRequest (k n : Nat) (r : LinkReq) (s : State) : State :=
  queueControl (controlPayload 4 (r.seq.toNat * 2 ^ 32)) (s.setBlink k { s.blink k with follow := some r }) n

/-- The step nearest now whose low 16 bits are given. -/
def nearestStep16 (cur low : Nat) : Nat :=
  let d := (low + 65536 - cur % 65536) % 65536
  if d < 32768 then cur + d else cur + d - 65536

/-- An LREQ on an ACTIVE lane is a data-block error (R144, R117): on a lane that has delivered data in an independent system it vetoes the
frame; in a paired system the other copy carries the lane (R118). -/
def requestError (n : Nat) (s : State) : State :=
  match s.laneOwner n with
  | some p => if (s.part p).paired ∨ !(s.lane n).delivered then s else raiseVeto p false s
  | none => s

/-- LREQ_BLOCK (R144, R147, R150). -/
def execLreqBlock (lane : Fin 144) (payload : U64) (s : State) : Res :=
  let n := lane.val
  let k := linkOf n
  let v := payload.toNat
  let op := v / 2 ^ 60
  let r : LinkReq := {
    op := op, width := natBits v 56 4, lanes := payload.extractLsb' 48 8, seq := payload.extractLsb' 32 16
    start := nearestStep16 s.cnt (v % 65536), tries := 0, acked := true, begun := false, ctx := none }
  let legal := (decide (op = 1) && decide (r.width = 0)) || (decide (op = 2) && decide (1 ≤ r.width) && decide (r.width ≤ 4))
  let same : Bool := match (s.blink k).follow with | some f => decide (f.seq = r.seq) || f.begun | none => false
  .next (if 136 ≤ n ∨ !(s.lane n).lock ∨ !legal then s
    else
      let s1 := if (s.lane n).st = .active then leaveActive r.lanes.toNat (requestError n s) n else s
      if same then s1
      else match (s1.blink k).req with
        | some q =>
          if q.acked then s1
          else if s1.leads k then bump 0x4 n 5 s1
          else followRequest k n r (endRequest k St.retrainYielded s1)
        | none => followRequest k n r s1)

/-- LACK_BLOCK (R147). -/
def execLackBlock (lane : Fin 144) (payload : U64) (s : State) : Res :=
  let k := linkOf lane.val
  let l := s.blink k
  .next (if 136 ≤ lane.val then s
    else match l.req with
      | some r => if r.seq = payload.extractLsb' 32 16 ∧ !r.acked then s.setBlink k { l with req := some { r with acked := true } } else s
      | none => s)

/-- A cancelled request leaves the link as it was: lanes that wait for its START in READY recalibrate (R147, R143). -/
def restoreLanes (k : Nat) (s : State) : State :=
  (linkLanes k).foldl (fun a n => if (a.lane n).st = .ready then laneReady n a else a) s

/-- LACK_TIMEOUT (R147): the request is sent anew, and after the third unanswered one ends with LANE_NO_PEER. -/
def execLackTimeout (link : Fin 17) (s : State) : Res :=
  let k := link.val
  .next (match (s.blink k).req with
    | some r =>
      if r.acked ∨ s.cnt + 256 < r.start then s
      else if r.tries + 1 < 3 then sendRequest k { r with tries := r.tries + 1 } s
      else settleLink k (restoreLanes k (endRequest k St.laneNoPeer s))
    | none => s)

/-- LANE_CHANGE_START (R147): at START the change begins at this end. -/
def execLaneChangeStart (link : Fin 17) (s : State) : Res :=
  let k := link.val
  let due := fun r : LinkReq => r.acked && !r.begun && decide (r.start = s.cnt)
  let s1 := match (s.blink k).req with
    | some r => if due r then applyChangeAt k r (s.setBlink k { s.blink k with req := some { r with begun := true } }) else s
    | none => s
  let s2 := match (s1.blink k).follow with
    | some r => if due r then applyChangeAt k r (s1.setBlink k { s1.blink k with follow := some { r with begun := true } }) else s1
    | none => s1
  .next (settleLink k s2)

/-! ### Sleep and injection -/

/-- SLEEP_BLOCK (R155): the peer announces its silent step. -/
def execSleepBlock (lane : Fin 144) (payload : U64) (s : State) : Res :=
  let n := lane.val
  .next (if 136 ≤ n ∨ !(s.lane n).lock then s
    else s.setLane n { s.lane n with peerSilent := some (nearestStep16 s.cnt (payload.toNat % 65536)) })

/-- SLEEP_SILENT_STEP (R155): the transmitter falls silent at its step, and the receiver enters PEER_SLEEP at the peer's. -/
def execSleepSilentStep (lane : Fin 144) (s : State) : Res :=
  let n := lane.val
  let l := s.lane n
  let own := decide (l.silentAt = some s.cnt)
  let peer := decide (l.peerSilent = some s.cnt)
  let y := if own then
      { l with txSleep := true, silentAt := none, st := .sleep, prior := if l.st = .sleep then l.prior else l.st, since := s.clk.now }
    else l
  .next (if !own && !peer then s
    else if peer then s.setLane n { y with lock := false, st := if y.st = .sleep then .sleep else .peerSleep, since := s.clk.now }
    else s.setLane n y)

/-- INJECTION_STEP_REACHED (R153): the flip named for this step falls on the block sent now. -/
def execInjectionStepReached (lane : Fin 144) (s : State) : Res :=
  let n := lane.val
  .next (match (s.lane n).inject with
    | some (len, pos, some t) => if t = s.cnt then s.setLane n { s.lane n with inject := some (len, pos, none) } else s
    | _ => s)

end Sys2Proof.Machine
end

