-- ==== Sys2Proof/Machine/Maquettes.lean ====
section
/-!
DEFINITION. Maquettes.lean: group 0x04 (Table 16.5): loads, starts, unloads, migrations, partial reconfigurations and switches of
partitions, with the events that carry them on (chapters 04, 07, 08 and 11).
-/
namespace Sys2Proof.Machine

/-! ### Commands that a load or unload ends (R167 step 1) -/

/-- The owner of a pause that a load or unload ends. -/
def endOwner (p : Nat) (o : PauseOwner) (s : State) : State :=
  match o with
  | .cmd c | .step c => complete c St.superseded [] s
  | .cast _ => supersedeCast p s
  | .switch _ | .join | .brk | .device | .remote | .void => s

/-- A request whose pause was never placed: its command has had no reply yet, and no reply carries SUPERSEDED (R327, R335). -/
def endAsked (p : Nat) (o : PauseOwner) (s : State) : State :=
  match o with
  | .cmd c => reply c 0x0301 St.wrongState [] s
  | .step c => complete c St.superseded [] s
  | .cast c => endAct 6 p (reply c 0x0D04 St.wrongState [] (s.setPart p { s.part p with cast := none }))
  | .switch c => reply c 0x0406 St.wrongState [] (s.setPart p { s.part p with switch := none })
  | .join | .brk | .device | .remote | .void => s

/-- Pending mode changes and frame commands of a partition end (R167 step 1). -/
def supersede (p : Nat) (s : State) : State :=
  let x := s.part p
  let s1 := cancelChanges p St.superseded s
  let s2 := (x.pauses.map (·.owner)).foldl (fun a o => endOwner p o a) s1
  let s3 := (x.asked.map (·.owner)).foldl (fun a o => endAsked p o a) s2
  let s4 := (x.resumeCtx ++ x.releaseCtx).foldl (fun a c => complete c St.superseded [] a) s3
  s4.setPart p { s4.part p with pauses := [], asked := [], resumeCtx := [], releaseCtx := [], restart := none, nextTick := none }

/-! ### Loads (R161 to R168) -/

/-- A partition enters LOADING: the job space and image address are those named; the image it held is gone from now on and its record
with it, but for one that is being saved (R464). It holds the dies of that image, and awaits its writes (R167), until the load ends. -/
def enterLoading (p : Nat) (ctx : Option CmdCtx) (dies : BitVec 4) (jsid : Nat) (override : Bool) (addr len : Nat) (s : State) : State :=
  let s1 := quietDies p s
  let x := s1.part p
  s1.setPart p { x with
    st := .loading, loadDies := dies, drainJs := if x.st = .empty then none else some x.jsid, jsid := jsid, laddr := addr, llen := len, flags := BitVec.ofNat 8 (bitNat override), phase := .frame
    pausedAt := none, restart := none, nextTick := none, heldFrame := none, holds := [], decision := none, verdict := none, vetoes := [], replayLimit := false
    restore := none, shadow := if s1.savesShadow p then x.shadow else none, loadCtx := ctx, loadPos := 0, refusal := none, startAt := none
    sc := { x.sc with start := none, sent := [], clears := [], clearSent := none } }

/-- MAQUETTE.LOAD (R161, R162, R167). -/
def execMaquetteLoad (c : CmdCtx) (part dies jsid flags : Byte) (addr len : U64) (s : State) : Res :=
  .next (pageWait c jsid.toNat addr.toNat len.toNat (immediate .j 0x0401 c (fun s =>
    let p := part.toNat
    let x := s.part p
    if 4 ≤ p ∨ 16 ≤ dies.toNat ∨ 16 ≤ jsid.toNat ∨ 1 < flags.toNat ∨ !rangeOk addr.toNat len.toNat then reply c 0x0401 St.argRange [] s
    else if foreignJs c jsid.toNat ∨ (x.st ≠ .empty ∧ foreignPart c p s) then reply c 0x0401 St.jsDenied [] s
    else if !(x.st = .empty ∨ x.st = .loaded ∨ (x.st = .running ∧ x.pausedAt.isSome)) ∨ x.switch.isSome ∨ x.unloadCtx.isSome ∨ x.restoreCtx.isSome then
      reply c 0x0401 St.wrongState [] s
    else if s.memGone then reply c 0x0401 St.memUnavailable [] s
    else match s.pickEngine with
      | none => reply c 0x0401 St.dmaBusy [] s
      | some e =>
        let s1 := enterLoading p (some c) (BitVec.ofNat 4 dies.toNat) jsid.toNat (natBit flags.toNat 0) addr.toNat len.toNat (supersedeCast p (supersede p s))
        reply c 0x0401 St.accepted [] (enqueue e (.load p) (some c) jsid.toNat 0 [imageElem addr.toNat len.toNat] s1))) s)

/-- Element of a gather that holds an image offset, with its first offset (R168): 0xFFFF for what stands before the first section's
data. -/
def elementAt (secs : List Section) (off : Nat) : Nat × Nat :=
  let hits := ((List.range secs.length).zip secs).filter fun e => decide (e.2.offset ≤ off) && decide (0 < e.2.offset)
  hits.foldl (fun (b : Nat × Nat) e => if b.2 ≤ e.2.offset then (e.1, e.2.offset) else b) (0xFFFF, 0)

/-- A fault in the read of an image: the element, and the fault with DONE counted from the element's start. -/
def imageFault (jsid addr : Nat) (f : XferFault) (s : State) : Nat × ElemFault :=
  let off := f.addr - addr
  let head := (readJob (s.access jsid dmaMaster) addr off s).1
  let secs := if off < 256 then [] else (List.range (min (fieldAt head 14 2) ((off - 256) / 32))).map (sectionOf head)
  let e := elementAt secs off
  (e.1, { srcSide := true, f := { f with done := off - e.2 } })

/-- A load ends in EMPTY with a code and its data (R165, R168, Table 11.9). -/
def failLoad (p code : Nat) (data : List Byte) (s : State) : State :=
  let ctx := (s.part p).loadCtx
  completeOpt ctx code data (emptyPart p (failSwitch p 4 code s))

/-- The image is written and the partition LOADED (R163, R165, R171). -/
def finishLoad (p : Nat) (im : Image) (pm : SMap Nat) (s : State) : State :=
  let x := s.part p
  let ovr := !s.bicOk im.bic
  let fl := BitVec.ofNat 8 (bitNat ovr + 4 * bitNat im.reloc)
  let s1 := s.setPart p { x with
    st := .loaded, image := some im, dies := x.loadDies, drainJs := none, pmap := pm, spares := (List.range 96).filter (fun l => !lclUsed im l), epochs := [], prbuild := [], flags := fl, lin := im.lin, frame := 0, begun := false
    staged := [], mailbox := [], history := [], reqs := [], loadCtx := none }
  let s2 := if ovr then noteOverride p im.bic.toNat s1 else s1
  completeOpt x.loadCtx St.ok [] (refreshDigest { s2 with trust := { s2.trust with digestDue := true } })

/-- At a reload the lanes of the mask start anew (R121, Table 6.8): a class is frozen anew, and a lane in DOWN trains. -/
def reloadLane (s : State) (n : Nat) : State :=
  let l : Lane := { s.lane n with frozen := none }
  s.setLane n (if l.st = .down then { l with st := .trainEq, since := s.clk.now, attempts := 0, eqDone := false, peerEqDone := false } else l)

/-- A reload is what ends the failure of an engine that three restarts did not cure (R99): the engines of its clusters start anew. -/
def reviveEngines (cls : List Nat) (s : State) : State :=
  { s with arr := { s.arr with engBad := s.arr.engBad.filter fun e => !(decide (e.2 = 4) && cls.contains e.1) } }

/-- The checks of Table 7.5 up to 0x08, then the writing with the checks 0x09 to 0x0D; a BIC override that the measurement log has
no room for is refused as the image's BIC (R439). -/
def loadImage (p : Nat) (b : List Byte) (s : State) : State :=
  let x := s.part p
  let im := imageOf b
  match firstSome [checkHead s b 0 x.llen (x.flags.getLsbD 0 && s.measureFits 0), checkPlace s p im x.loadDies, checkSx s p im] with
  | some r => failLoad p r.status (refuseBytes r) s
  | none =>
    let pm := match placeAll s im (dieMap im x.loadDies) with | .ok m => m | .error _ => []
    let s1 := reviveEngines (clustersOf (onesOf x.loadDies.toNat 4)) (discardRows x.pcls s)
    match writeImage { p := p, im := im, dies := dieMap im x.loadDies, pmap := pm } s1 with
    | (some r, s2) => failLoad p r.status (refuseBytes r) s2
    | (none, s2) =>
      let s3 := finishLoad p im pm s2
      let s4 := (s3.part p).portLanes.foldl reloadLane s3
      if s4.isStandby then (s4.part p).portLanes.foldl (fun a n => if (a.lane n).st = .ready then laneReady n a else a) s4 else s4

/-- A switch goes on after its LOAD (Table 11.7): RESTORE waits for a DMA engine, a fresh start goes to START. -/
def switchLoaded (p : Nat) (s : State) : State :=
  let s1 := phaseEvent p 4 s
  match (s1.part p).switch with
  | some w =>
    let s2 := s1.setPart p { s1.part p with switch := some { w with phase := if w.caddr = 0 then 7 else 5 } }
    if w.caddr = 0 then switchStart p s2 else s2
  | none => s

/-- LOAD_COMPLETE (R165, R167, R168): the partition's own writes done, the image is read through its job space, checked, and
written. -/
def execLoadComplete (part : Fin 4) (s : State) : Res :=
  let p := part.val
  let x := s.part p
  .next (match s.engineOf (.load p) with
    | none => s
    | some e =>
      match s.lists e with
      | [] => s
      | l :: _ =>
        if x.st ≠ .loading ∨ !s.settled p ∨ l.kind ≠ .load p ∨ l.suspended ∨ s.clk.halt.isSome then s
        else match readJob (s.listAccess l) x.laddr x.llen s with
          | (_, some f, s1) =>
            let (k, g) := imageFault l.jsid x.laddr f s1
            if f.cause = 7 then failLoad p St.loadFault [] (dropHead e (recordFault e l k g s1)) else suspendList e l k g s1
          | (b, none, s1) =>
            let s2 := loadImage p b (dropHead e s1)
            if (s2.part p).st = .loaded then switchLoaded p s2 else s2)

/-! ### Start and unload -/

/-- MAQUETTE.START (R166, R169, R300). -/
def execMaquetteStart (c : CmdCtx) (part : Byte) (rsvd : BitVec 24) (s : State) : Res :=
  .next (immediate .j 0x0402 c (fun s =>
    let p := part.toNat
    onPart c 0x0402 p (decide (rsvd = 0)) (fun x => decide (x.st = .loaded) && x.restoreCtx.isNone && x.switch.isNone || (decide (x.st = .loaded) && (match x.switch with | some w => decide (7 ≤ w.phase) | none => false)))
      (fun s =>
      match pairRefusal p s with
      | some st => reply c 0x0402 st [] s
      | none => beginStart p (some c) (reply c 0x0402 St.accepted [] s)) s) s)

/-- The load of a partition is abandoned by an unload (R168, Table 7.7). -/
def abandonLoad (p : Nat) (s : State) : State :=
  let x := s.part p
  completeOpt x.loadCtx St.superseded [] (failSwitch p 4 St.superseded (dropKind (.load p) (s.setPart p { x with loadCtx := none })))

/-- A restore that an unload finds in progress is abandoned, also that of a switch which waits for an engine (Table 11.9). -/
def abandonRestore (p : Nat) (s : State) : State :=
  if (s.engineOf (.restore p)).isNone then endCast p (failSwitch p 6 St.superseded s)
  else
    let x := s.part p
    let s1 := dropKind (.restore p) (s.setPart p { x with restoreCtx := none })
    let s2 := completeOpt x.restoreCtx St.switchFailed (leBytes 1 6 ++ zeros 1 ++ leBytes 2 St.superseded) s1
    endCast p (failSwitch p 6 St.superseded s2)

/-- A Start that an unload ends (R166, R369): START_FAIL with SUPERSEDED goes to the root, which aborts the scope; the Start of this
member completes here, as the partition is EMPTY when START_ABORT comes. -/
def abandonStart (p : Nat) (s : State) : State :=
  let r := extraRefusal St.superseded 0 []
  abortMember p r.1 r.2.2 s.arm.addr.toNat (failStart p r s)

/-- MAQUETTE.UNLOAD (R166, R167, Table 7.7). -/
def execMaquetteUnload (c : CmdCtx) (part : Byte) (rsvd : BitVec 24) (s : State) : Res :=
  .next (immediate .j 0x0403 c (fun s =>
    let p := part.toNat
    onPart c 0x0403 p (decide (rsvd = 0)) (fun x => x.unloadCtx.isNone && (decide (x.st ≠ .running) || x.pausedAt.isSome)) (fun s =>
      let x := s.part p
      if x.st = .empty then reply c 0x0403 St.ok [] s
      else
        let s1 := reply c 0x0403 St.accepted [] s
        let wait := fun a : State => a.setPart p { a.part p with unloadCtx := some c }
        match x.st with
        | .loading => emptyPart p (wait (abandonLoad p s1))
        | .starting => emptyPart p (wait (abandonStart p s1))
        | .running =>
          let s2 := supersedeCast p (supersede p s1)
          finishUnload p (wait (match (s2.part p).switch with | some w => endCast p (failSwitch p w.phase St.superseded s2) | none => s2))
        | .empty | .loaded => emptyPart p (wait (abandonRestore p s1))) s) s)

/-! ### Migration (R101, R102, Table 4.9) -/

/-- The logical cluster that a physical one hosts. -/
def Partition.hosted (x : Partition) (pcl : Nat) : Option Nat := (x.pmap.find? fun e => decide (e.2 = pcl + 1)).map (·.1)

/-- MAQUETTE.MIGRATE: the target must be a healthy spare of the host's die. The switch frame is the first whose latch point follows the
completion of the copy, whose duration the spec does not give: a free value (log entry 20). DEDUCED: a partition that is not RUNNING is answered
WRONG_STATE (R344, Table 16.5) and not R101's MIGRATE_TARGET (log entry 76). -/
def execMaquetteMigrate (c : CmdCtx) (part lcl tgt rsvd : Byte) (s : State) : Res :=
  .next (immediate .j 0x0404 c (fun s =>
    let p := part.toNat
    onPart c 0x0404 p (decide (rsvd = 0) && decide (lcl.toNat < 96) && decide (tgt.toNat < 96)) (fun x => decide (x.st = .running)) (fun s =>
      let x := s.part p
      let t := tgt.toNat
      match x.pcl lcl.toNat, x.hosted t, x.image with
      | some src, some u, some im =>
        if src / 24 ≠ t / 24 ∨ lclUsed im u ∨ u = lcl.toNat ∨ smGet 0 s.arr.retired t = 2 ∨ x.heldFrame.isSome then reply c 0x0404 St.migrateTarget [] s
        else if (s.migration (t / 24)).isSome then reply c 0x0404 St.migrateBusy [] s
        else
          let (w, s) := s.draw 32
          let m := changeFrame x s.cnt w.toNat c.eframe
          let g : Migration := { part := p, lcl := lcl.toNat, src := src, tgt := t, spareL := u, m := m, copied := false, switched := false, ctx := some c }
          let ch : ModeChange := { m := m, opcode := 0x0404, armed := false, ready := false, lateAt := none, ctx := some c, arg := t / 24 }
          reply c 0x0404 St.accepted (frameData m) (addChange p ch (s.setMigration (t / 24) (some g)))
      | _, _, _ => reply c 0x0404 St.migrateTarget [] s) s) s)

/-- Stores of a physical cluster that a migration writes: instruction words, route words, exports and port schedules. -/
def clearTarget (t : Nat) (s : State) : State :=
  let a := s.arr
  let gone := fun k : Nat => match k % 16 with
    | 0 => decide (k / 16 / 524288 = t) | 1 => decide (k / 16 / 1048576 = t) | 2 => decide (k / 16 / 262144 = t) | 3 => decide (k / 16 / 98304 = t)
    | 7 => decide (k / 16 / 64 = t) | _ => false
  { s with arr := { a with
      words := dropClusters a.words 524288 [t], routes := dropClusters a.routes 1048576 [t], dxexp := dropClusters a.dxexp 262144 [t]
      sxexp := dropClusters a.sxexp 98304 [t], mport := dropClusters a.mport 64 [t], errs := smDrop gone a.errs } }

/-- T takes L's stores from the loaded image (Table 4.8). -/
def copyFromImage (p : Nat) (g : Migration) (s : State) : State :=
  let x := s.part p
  match x.image with
  | none => s
  | some im =>
    let c : LoadCtx := { p := p, im := im, dies := dieMap im x.dies, pmap := smSet 0 x.pmap g.lcl (g.tgt + 1) }
    let mine := im.indexed.filter fun e => [1, 2, 3, 4, 0xD].contains e.2.kind && decide (e.2.tgta = g.lcl)
    (writeSeq (writeSection c) mine (clearTarget g.tgt s)).2

/-- MIGRATE_COPY_COMPLETE (R102, Table 4.9): the target's stores are written and read back; a failed read-back cancels the migration
and makes the target a retirement candidate. -/
def execMigrateCopyComplete (die : Fin 4) (readBackOk : Bool) (s : State) : Res :=
  .next (match s.migration die.val with
    | none => s
    | some g =>
      let p := g.part
      if g.copied ∨ g.switched then s
      else if readBackOk then changeReady p 0x0404 die.val ((copyFromImage p g s).setMigration die.val (some { g with copied := true }))
      else
        let s1 := logRec { cause := St.unitCandidate, sub := 0x0, sev := 4, part := p, loc := g.tgt } s
        let s2 : State := { s1 with arr := { s1.arr with retired := smSet 0 s1.arr.retired g.tgt (max 1 (smGet 0 s1.arr.retired g.tgt)) } }
        match (s2.part p).changes.find? fun c => decide (c.opcode = 0x0404) && decide (c.arg = die.val) with
        | some c => cancelChange p St.migrateFailed s2 c
        | none => cancelMigration p die.val St.migrateFailed s2)

/-! ### Partial reconfiguration (R193 to R196) -/

/-- Frames from switch to resume. -/
def resumeDistance (f : Nat) : Nat := (262144 + f - 1) / f + 2

/-- MAQUETTE.REGION (R193): the switch frame is the first whose latch point follows the check of the image, whose duration the spec does
not give: a free value (log entry 20). -/
def execMaquetteRegion (c : CmdCtx) (part : Byte) (mask : BitVec 24) (addr len : U64) (s : State) : Res :=
  .next (pageWait c (s.part part.toNat).jsid addr.toNat len.toNat (immediate .j 0x0405 c (fun s =>
    let p := part.toNat
    onPart c 0x0405 p (decide (mask ≠ 0) && rangeOk addr.toNat len.toNat) (fun x => decide (x.st = .running)) (fun s =>
      let x := s.part p
      let ks := onesOf mask.toNat 24
      let phys := BitVec.ofNat 24 (maskOf (ks.map x.region))
      if !(ks.all fun k => (match x.image with | some im => im.qmask.getLsbD (k / 6) | none => false)) then reply c 0x0405 St.argRange [] s
      else if x.reconfig.any (fun r => decide (r.mask &&& phys ≠ 0)) then reply c 0x0405 St.regionBusy [] s
      else if s.memGone then reply c 0x0405 St.memUnavailable [] s
      else match s.pickEngine with
        | none => reply c 0x0405 St.dmaBusy [] s
        | some e =>
          let (w, s) := s.draw 32
          let m := changeFrame x s.cnt w.toNat c.eframe
          let r := m + BitVec.ofNat 48 (resumeDistance x.frameLen)
          let rec_ : Reconfig := { mask := phys, m := m, resume := r, addr := addr.toNat, len := len.toNat, image := none, rewritten := 0, unread := false, reread := none, active := false, ctx := c }
          let at_ := fun (f : FrameNo) (arg : Nat) => ({ m := f, opcode := 0x0405, armed := false, ready := false, lateAt := none, ctx := some c, arg := arg } : ModeChange)
          let s1 := addChange p (at_ r (phys.toNat + 2 ^ 24)) (addChange p (at_ m phys.toNat) (s.setPart p { x with reconfig := x.reconfig ++ [rec_] }))
          reply c 0x0405 St.accepted (leBytes 6 m.toNat ++ leBytes 6 r.toNat ++ zeros 4)
            (enqueue e (.region p) (some c) x.jsid 0 [imageElem addr.toNat len.toNat] s1)) s)) s)

/-- Every section of a partial image targets a region of the mask and none supplies a non-zero frame 1,537 (R194). -/
def checkRegionTargets (im : Image) (mask : Nat) : Option Refuse :=
  let region := fun x : Section => if x.kind = 11 then x.tgta / 96 else if x.kind = 12 then x.tgta / 48 else x.tgta
  let bad := fun e : Nat × Section =>
    decide (e.2.kind ≠ 0xF0) && (!natBit mask (region e.2) || (decide (e.2.kind = 9) && anyNonZero ((suppliedFrame im e.2.tgta 1537).getD [])))
  (im.indexed.find? bad).map fun e => { status := St.sectionInvalid, check := 0xC, sect := e.1 }

/-- The checks of R194 over a partial image. DESIGN CHOICE: the refusal record of IMAGE_GEOMETRY and of the section-target check, to which
the spec gives no check code, carries 0x0C (log entry 71). -/
def checkPartial (p : Nat) (b : List Byte) (len mask : Nat) (s : State) : Option Refuse :=
  let x := s.part p
  let im := imageOf b
  let same := match x.image with
    | some f => decide (im.e = f.e) && decide (im.w = f.w) && decide (im.d = f.d) && decide (im.lin = f.lin)
    | none => false
  firstSome [
    checkHead s b 1 len false,
    if same then none else some { status := St.imageGeometry, check := 0xC },
    checkRegionTargets im mask,
    (writeSeq (writeSection { p := p, im := im, dies := dieMap ((x.image).getD im) x.dies, pmap := x.pmap }) im.indexed s).1]

/-- The image read again after the switch (R195): the rewrite takes it when its digest is IDIGEST, else the regions are left
unconfigured (R196). -/
def takeReread (p : Nat) (r : Reconfig) (b : List Byte) (s : State) : State :=
  let x := s.part p
  if some (imageDigest b) ≠ r.image.map (·.idigest) then failReconfig p r.mask.toNat St.imageDigest s
  else s.setPart p { x with reconfig := x.reconfig.map fun o => if o.ctx = r.ctx then { o with image := some (imageOf b), reread := some true } else o }

/-- A partial image has been read whole: it is refused, which leaves every region as it was, or the switch may arm (R194); after the
switch it is the rewrite's. -/
def takePartial (p : Nat) (c : CmdCtx) (b : List Byte) (s : State) : State :=
  let x := s.part p
  match x.reconfig.find? fun r => decide (r.ctx = c) with
  | none => s
  | some r =>
    if r.active then takeReread p r b s
    else match checkPartial p b r.len (maskOf (x.logicalRegions r.mask.toNat)) s with
    | some q =>
      complete c q.status (refuseBytes q) (s.setPart p { x with
        reconfig := x.reconfig.filter fun o => decide (o.ctx ≠ c)
        changes := x.changes.filter fun h => !(decide (h.opcode = 0x0405) && decide (h.arg % 2 ^ 24 = r.mask.toNat)) })
    | none =>
      let upd := fun o : Reconfig => if o.ctx = c then { o with image := some (imageOf b) } else o
      changeReady p 0x0405 r.mask.toNat (s.setPart p { x with reconfig := x.reconfig.map upd })

/-- One region is rewritten from the partial image over its defaults, and stays stopped (R195). DEDUCED: frame 1,537 of a die's first region,
for which no section may supply content (R194), keeps the die's GCK words, since regions not in the mask take their clocks from it and "run
throughout" (log entry 72). -/
def rewriteRegion (p region : Nat) (im : Image) (s : State) : State :=
  let x := s.part p
  let full := x.image.getD im
  let f := s.fab
  let c : LoadCtx := { p := p, im := im, dies := dieMap full x.dies, pmap := x.pmap, vio := false }
  let of := fun e : Section => if e.kind = 11 then e.tgta / 96 else if e.kind = 12 then e.tgta / 48 else e.tgta
  let mine := im.indexed.filter fun e => decide (e.2.kind ≠ 0xF0) && decide (c.region (of e.2) = region)
  let s0 := clearRegions [region] s
  let gck := keysIn f.cfg (cfgKey region 1537 0) 256
  let s1 := (writeSeq (writeSection c) mine { s0 with fab := { s0.fab with cfg := smPutAll 0#8 s0.fab.cfg gck } }).2
  { s1 with fab := { s1.fab with stopped := f.stopped, configured := f.configured } }

/-- REGION_REWRITE_COMPLETE (R195, R196): the image read again, a region of a switch that has happened is rewritten and read back; a
mismatch leaves the regions unconfigured, and after the last region the resume may arm. A reading that found no engine is queued
now. -/
def execRegionRewriteComplete (part : Fin 4) (region : Fin 24) (readBackOk : Bool) (s : State) : Res :=
  let p := part.val
  let x := s.part p
  .next (match x.reconfig.find? fun r => r.active && r.mask.getLsbD region.val && !r.rewritten.getLsbD region.val with
    | none => s
    | some r =>
      match r.image, r.reread with
      | none, _ => s
      | some _, none => if r.unread then rereadImage p r s else s
      | some im, some _ =>
        if !readBackOk then failReconfig p r.mask.toNat St.imageDigest s
        else
          let s1 := rewriteRegion p region.val im s
          let done := r.rewritten ||| BitVec.ofNat 24 (2 ^ region.val)
          let upd := fun o : Reconfig => if o.mask = r.mask then { o with rewritten := done } else o
          let s2 := s1.setPart p { s1.part p with reconfig := (s1.part p).reconfig.map upd }
          if done = r.mask then changeReady p 0x0405 (r.mask.toNat + 2 ^ 24) s2 else s2)

/-! ### Switches (R260 to R265) -/

/-- The incoming job space has a loaded key index that is not being retired (R265). -/
def State.keyReady (s : State) (jsid : Nat) : Bool :=
  match s.binding jsid with
  | none => false
  | some b => decide ((s.slot b.kix).st = .loaded) && (match b.rot with | some (k, _, _) => decide ((s.slot k).st = .loaded) | none => true)

/-- A switch begins with its PAUSE phase: the pause is armed at the command's frame, or the partition stands paused already. -/
def beginSwitch (p : Nat) (c : CmdCtx) (w : Switch) (s : State) : State :=
  let s0 := s.setPart p { s.part p with switch := some w, shadow := none }
  let x := s0.part p
  match x.pausedAt with
  | some (m, _, _, _) =>
    let s1 := setRemaining p 0 s0
    reply c 0x0406 St.accepted (frameData m) (if s.isRoot p then markerDown 0x05 x.scope16 m.toNat 0 s1 else markerUp 0x07 x.scope16 m.toNat 0 s1)
  | none =>
    if s.isRoot p then
      let (m, s1) := rootPause p c.eframe 0 (.switch c) s0
      reply c 0x0406 St.accepted (frameData m) s1
    else markerUp 0x07 x.scope16 c.eframe.toNat 0 (askRoot p { owner := .switch c, d := 0, m := c.eframe } s0)

/-- MAQUETTE.SWITCH (R260, R265). -/
def execMaquetteSwitch (c : CmdCtx) (part flags njsid rsvd : Byte) (saddr slen iaddr ilen caddr : U64) (s : State) : Res :=
  let n := castLen (s.part part.toNat).diePairs.length
  let waits := fun go => pageWait c (s.part part.toNat).jsid saddr.toNat slen.toNat (pageWait c njsid.toNat iaddr.toNat ilen.toNat (pageWait c njsid.toNat caddr.toNat (if caddr = 0 then 0 else n) go))
  .next (waits (immediate .j 0x0406 c (fun s =>
    let p := part.toNat
    let x := s.part p
    let ok := decide (rsvd = 0) && decide (flags.toNat ≤ 1) && decide (njsid.toNat < 16) && decide (saddr.toNat % 4096 = 0) &&
      rangeOk saddr.toNat slen.toNat && rangeOk iaddr.toNat ilen.toNat && rangeOk caddr.toNat n
    onPart c 0x0406 p ok (fun y => decide (y.st = .running)) (fun s =>
      if foreignJs c njsid.toNat then reply c 0x0406 St.jsDenied [] s
      else if slen.toNat < n then reply c 0x0406 St.argRange [] s
      else if x.switch.isSome ∨ s.savesShadow p then reply c 0x0406 St.switchBusy [] s
      else match s.blocker 6 p with
        | some h => busyReply c 0x0406 h s
        | none =>
          if s.memGone then reply c 0x0406 St.memUnavailable [] s
          else if !s.keyReady njsid.toNat then reply c 0x0406 St.wrongState [] s
          else beginSwitch p c {
            ctx := c, phase := 1, oldJsid := x.jsid, newJsid := njsid.toNat, saddr := saddr.toNat, slen := slen.toNat, iaddr := iaddr.toNat
            ilen := ilen.toNat, caddr := caddr.toNat, override := natBit flags.toNat 0, saveDone := false, saveVoid := false, tickDone := false } s) s)) s)

/-- A switch's phase counter. -/
def setPhase (p n : Nat) (s : State) : State := s.setPart p { s.part p with switch := (s.part p).switch.map fun w => { w with phase := n } }

/-- The CAPTURE phase ends: the record stands in the shadow, SAVE and LOAD are queued and the partition takes the incoming job
space (Table 11.7). It waits while no two lists find room. -/
def switchCapture (p : Nat) (w : Switch) (s : State) : State :=
  let x := s.part p
  let m := match x.pausedAt with | some (k, _, _, _) => k | none => x.frame + 1
  let r : CastRec := { (captureRec 0 p m s).finish with late := s.lateSlices x }
  let save : DmaElem := { src := 0, dst := BitVec.ofNat 64 w.saddr, len := BitVec.ofNat 32 r.len, dir := 2, rsvd := 0 }
  match s.pickEngine with
  | none => s
  | some e1 =>
    let s1 := enqueue e1 (.switchSave p) none w.oldJsid 0 [save] (castReads p (s.setPart p { x with shadow := some r }))
    match s1.pickEngine with
    | none => s
    | some e2 =>
      let s2 := setPhase p 4 (phaseEvent p 3 (s1.setPart p { s1.part p with switch := (s1.part p).switch.map fun v => { v with oldKix := s.takeKix w.oldJsid } }))
      enqueue e2 (.load p) none w.newJsid 0 [imageElem w.iaddr w.ilen]
        (enterLoading p none x.dies w.newJsid w.override w.iaddr w.ilen (supersede p s2))

/-- The RESTORE phase begins: its list is queued. -/
def switchRestore (p : Nat) (w : Switch) (s : State) : State :=
  match s.pickEngine with
  | none => s
  | some e =>
    let n := castLen (s.part p).diePairs.length
    setPhase p 6 (startAct 6 p (some w.ctx) (enqueue e (.restore p) none w.newJsid 0 [imageElem w.caddr n] (endAct 6 p s)))

/-- SLICE SAVE begins (R261): its list is queued once an engine has room. -/
def sliceSave (p : Nat) (w : Switch) (s : State) : State :=
  match s.pickEngine, (s.part p).shadow with
  | some e, some r => queueSliceSave e p w r (s.setPart p { s.part p with switch := some { w with sliced := true } })
  | _, _ => s

/-- SWITCH_PHASE_COMPLETE (R261, R349): the phase in progress ends when what it waits for holds, its event is posted, and the next
begins. -/
def execSwitchPhaseComplete (part : Fin 4) (s : State) : Res :=
  let p := part.val
  let x := s.part p
  .next (match x.switch with
    | none => s
    | some w =>
      let paused := decide (x.st = .running) && decide (x.phase = .paused) && x.pausedAt.isSome
      match w.phase with
      | 1 => if paused then setPhase p 2 (phaseEvent p 1 (cancelChanges p St.superseded s)) else s
      | 2 =>
        if paused ∧ s.settled p ∧ (s.blocker 6 p).isNone then setPhase p 3 (phaseEvent p 2 (startAct 6 p (some w.ctx) s)) else s
      | 3 =>
        if !paused ∨ !s.settled p then setPhase p 2 s
        else if s.clk.halt.isSome then s
        else switchCapture p w s
      | 5 => if x.st = .loaded then switchRestore p w s else s
      | 7 => if x.startAt.isSome then setPhase p 8 (phaseEvent p 7 s) else s
      | 9 =>
        if (s.engineOf (.switchSave p)).isSome then s
        else if !w.sliced ∧ !w.saveVoid ∧ (match x.shadow with | some r => decide (r.late ≠ []) | none => false) = true then sliceSave p w s
        else
          let s1 := endCast p (phaseEvent p 9 s)
          finishSwitch p (s1.setPart p { s1.part p with switch := (s1.part p).switch.map fun v => { v with saveDone := true } })
      | _ => s)

end Sys2Proof.Machine
end

