-- ==== Sys2Proof/Machine/PairState.lean ====
section
/-!
DEFINITION. PairState.lean: a pendant pair between its commands (chapter 14): reports, the stream of COPY, the phases of a join,
failures of a resynchronisation, and the end of the pair.
-/
namespace Sys2Proof.Machine

/-- Code of a pair state (Table 14.4). -/
def pairCode : PairSt → Nat
  | .unpaired => 0 | .pairing => 1 | .independent => 2 | .lockstep => 3 | .standby => 4 | .solo => 5 | .copy => 6 | .joining => 7
  | .fenced => 8 | .retired => 9

/-- Mask of the partitions that q holds of. -/
def State.partMask (s : State) (q : Partition → Bool) : Nat := maskOf ((List.range 4).filter fun p => q (s.part p))

/-- Partitions that are RUNNING. -/
def State.runningParts (s : State) : List Nat := (List.range 4).filter fun p => decide ((s.part p).st = .running)

/-- A partition runs and has not stopped. -/
def Partition.executes (x : Partition) : Bool := decide (x.st = .running) && decide (x.phase ≠ .stopped)

/-- Partitions that execute. -/
def State.executing (s : State) : List Nat := (List.range 4).filter fun p => (s.part p).executes

/-! ### Reports -/

/-- What this twin reports of itself (R314). -/
def State.ownReport (s : State) : PeerReport := {
  usable := s.dram.usable, poolBase := (s.trans.pool.map (·.1)).getD 0, poolLen := (s.trans.pool.map (·.2)).getD 0
  bound := maskOf ((List.range 16).filter fun j => (s.binding j).isSome)
  loaded := s.partMask fun x => decide (x.st ≠ .empty) && decide (x.st ≠ .loading)
  running := s.partMask fun x => decide (x.st = .running)
  lanesUp := [0, 1, 2, 3].all fun p => (s.part p).portLanes.all fun n => decide ((s.lane n).st = .active) }

/-- A report goes out when it has changed. -/
def sendReport (s : State) : State :=
  let r := s.ownReport
  if r = s.pend.sentReport then s
  else
    let last := r.bound + 65536 * r.loaded + 2 ^ 20 * r.running + 2 ^ 24 * bitNat r.lanesUp
    sendMessage msgReport [r.usable, r.poolBase, r.poolLen, last] { s with pend := { s.pend with sentReport := r } }

/-- IDIGEST of partition p, 0 where none is loaded. -/
def State.idigest (s : State) (p : Nat) : BitVec 384 :=
  if (s.part p).st = .empty ∨ (s.part p).st = .loading then 0 else ((s.part p).image.map (·.idigest)).getD 0

/-- The IDIGEST of a partition goes out when it has changed (R300). -/
def sendIdigest (p : Nat) (s : State) : State :=
  let d := s.idigest p
  if d = smGet 0#384 s.pend.sentIdigest p then s
  else sendMessage msgIdigest (p :: digestWords d) { s with pend := { s.pend with sentIdigest := smSet 0#384 s.pend.sentIdigest p d } }

/-! ### COPY (R314) -/

/-- COPY step 1: every present leaf of every job space is told to the newcomer. -/
def sendLeaves (s : State) : State :=
  (List.range 16).foldl (fun a j => (s.leafEntries j).foldl (fun b l => sendMessage msgLeaf [j + 256 * l.2.1, l.1, l.2.2.toNat] b) a) s

/-- Job space of a physical line: the lowest whose leaves hold it. -/
def State.lineOwner (s : State) (line : Nat) : Option Nat :=
  (List.range 16).find? fun j => (s.leaves j).any fun l => decide (l.2.2 ≤ line * 64) && decide (line * 64 < l.2.2 + l.2.1)

/-- Job-space address of a physical line in a job space. -/
def State.lineAddr (s : State) (jsid line : Nat) : Nat :=
  match (s.leaves jsid).find? fun l => decide (l.2.2 ≤ line * 64) && decide (line * 64 < l.2.2 + l.2.1) with
  | some l => l.1 + (line * 64 - l.2.2)
  | none => 0

/-- The next written line at or above the watermark that a leaf holds: line and job space. -/
def State.nextCopy (s : State) : Option (Nat × Nat) :=
  (s.dram.lines.find? fun e => decide (s.pend.wmark / 64 ≤ e.1) && decide (e.2.counter ≠ 0) && (s.lineOwner e.1).isSome).map fun e =>
    (e.1, (s.lineOwner e.1).getD 0)

/-- COPY step 3: the newcomer is told each partition to load. -/
def sendLoads (s : State) : State :=
  (List.range 4).foldl (fun a p =>
    let x := s.part p
    if x.st = .empty ∨ x.st = .loading then a
    else sendMessage msgLoad [p + 256 * x.dies.toNat + 65536 * x.jsid + 2 ^ 24 * x.flags.toNat, x.laddr, x.llen] a) s

/-- A message is on its way: it waits, or its interval has not been reported verified (R303). -/
def State.messagesOut (s : State) : Bool :=
  s.pend.sendq.any (fun e => decide (e.1 = 5)) || s.pend.sentNow.any (fun e => decide (e.1 = 5)) || s.pend.unverified.any fun e => decide (e.2.1 = 5)

/-- COPY in this step: step 2 begins when the newcomer has verified the messages of step 1, and so has recreated the leaves. In step 2, when the lanes have nothing waiting, the next line is read and goes out, one that gives no data with the
poisoned flag; after the last, step 3 begins (R314, R315). -/
def copyNext (s : State) : State :=
  match s.pend.resync with
  | some (1, c, ref) => if s.pend.role ≠ 1 ∨ s.messagesOut then s else { s with pend := { s.pend with resync := some (2, c, ref) } }
  | some (2, c, ref) =>
    if s.pend.role ≠ 1 ∨ s.pend.bulk ≠ [] ∨ s.dram.selfRefresh then s
    else match s.nextCopy with
      | some (line, j) =>
        let (data, s0) := match accessLine (s.access j 0xD) line (s.lineAddr j line) s with
          | (.data d, a) => (some d, a)
          | (_, a) => (none, a)
        let s1 := sendUnits (xaddrWord 0 j data.isNone line) (match data with | some d => xdataWords d | none => List.replicate 8 0) s0
        setProgress 7 0 ((line + 1) * 64) { s1 with pend := { s1.pend with wmark := (line + 1) * 64 } }
      | none => sendLoads { s with pend := { s.pend with resync := some (3, c, ref) } }
  | _ => s

/-! ### Joins (R316) -/

/-- First boundary of a partition whose tick falls at or after step t and whose latch point falls at or after step l (R354). -/
def followFrame (x : Partition) (now t l : Nat) : FrameNo :=
  let f := x.frameLen
  let byTick := (t - x.tick + f - 1) / f
  let byLatch := (l + 64 + f - x.tick + f - 1) / f
  let m := x.frame + BitVec.ofNat 48 (max 1 (max byTick byLatch))
  changeFrame x now 0 m

/-- Step of the tick of a boundary of a running partition, and of its latch point (R375). -/
def tickAndLatch (x : Partition) (m : FrameNo) : Nat × Nat :=
  let t := x.tickOf m
  (t, t - x.frameLen - 64)

/-- The join pauses one partition: at the root by its own order, elsewhere by a request; a partition that stands paused keeps its
pause. -/
def joinPause (p : Nat) (m : FrameNo) (s : State) : State :=
  let x := s.part p
  if x.pausedAt.isSome then { s with pend := { s.pend with hostPause := p :: s.pend.hostPause } }
  else if s.isRoot p then (rootPause p m 0 .join s).2
  else markerUp 0x07 x.scope16 m.toNat 0 (askRoot p { owner := .join, d := 0, m := m } s)

/-- A join with nothing RUNNING ends at once (R354). -/
def joinAtOnce (ref : Nat) (s : State) : State :=
  let ctx := s.pend.resync.bind fun r => r.2.1
  let s1 := joinRoles { s with pend := { s.pend with join := none, resync := none } }
  let s2 := sendMessage msgJoin [0xFF] s1
  let s3 := partEvent St.joinDone 0xD ref [] (finishAct 7 0 s2)
  completePendant St.ok [] (completeOpt ctx St.joinDone (zeros 6 ++ [7#8, 0#8]) s3)

/-- A join begins (R316, R354): the reference partition pauses at frame m, each other running partition at the boundary that follows. -/
def beginJoin (ref : Nat) (m : FrameNo) (s : State) : State :=
  let runs := s.executing
  if runs.isEmpty then joinAtOnce ref s
  else
    let lead := if runs.contains ref then ref else runs.headD 0
    let s1 : State := { s with pend := { s.pend with
        st := .joining, join := some (1, m, lead), hostPause := [], castIn := [], histIn := [], joinInfo := [], peerDigest := [] } }
    let s2 := joinPause lead m s1
    let j := match (s2.part lead).pauses.find? fun q => decide (q.owner = .join) with | some q => q.m | none => changeFrame (s.part lead) s.cnt 0 m
    let tl := tickAndLatch (s.part lead) j
    (runs.filter (· ≠ lead)).foldl (fun a q => joinPause q (followFrame (a.part q) a.cnt tl.1 tl.2) a) s2

/-- Boundary at which a partition stands paused. -/
def Partition.pauseFrame (x : Partition) : FrameNo := match x.pausedAt with | some (m, _, _, _) => m | none => 0

/-- The peer is told the placement epochs of a partition, four to a word (R317). -/
def sendEpochs (p : Nat) (s : State) : State :=
  let e := (s.part p).epochs
  let word := fun i : Nat => (List.range 4).foldl (fun a k => a + (smGet 0#16 e (4 * i + k)).toNat * 65536 ^ k) 0
  sendMessage msgEpochs (p :: (List.range 24).map word) s

/-- A run of units of a space, 4,096 to an XADDR (Table 14.2). -/
def sendRun (space jsid unit : Nat) (words : List U64) (s : State) : State :=
  (List.range ((words.length + 4095) / 4096)).foldl (fun a i =>
    sendUnits (xaddrWord space jsid false (unit + 4096 * i)) ((words.drop (4096 * i)).take 4096) a) s

/-- The transmit history for a tick whose boundary stands at step b, as L_in × 9,216 bits, oldest step first (R44, R316). -/
def histWords (x : Partition) (b : Nat) : List U64 :=
  (List.range (x.lin * 144)).map fun i =>
    let t := b - x.lin + i / 144
    BitVec.ofNat 64 (maskOf ((x.history.filter fun h => decide (h.1 = t) && decide (h.2 / 64 = i % 144)).map fun h => h.2 % 64))

/-- TRANSFER of one partition: what it needs to stand at J, its record, its history (R316). -/
def sendJoin (p : Nat) (s : State) : State :=
  let x := s.part p
  match x.pausedAt, x.shadow with
  | some (j, t, b, _), some r =>
    let s1 := sendMessage msgJoin [p, j.toNat, t, b, x.v + 2 ^ 32 * x.vdown, x.lin] s
    sendRun 3 x.jsid (p * 2 ^ 29) (histWords x b) (sendRun 1 x.jsid (p * 2 ^ 29) (xdataWords (r.bytesFrom 0 r.len)) s1)
  | _, _ => s

/-- Digest of a partition's record in VERIFY. -/
def recordDigest (r : CastRec) : BitVec 384 := Config.sha384 (r.bytesFrom 0 r.len)

/-- The record a newcomer has received for a partition. -/
def State.received (s : State) (p : Nat) : List Byte :=
  (List.range (castLen (s.part p).diePairs.length)).map fun i => smGet 0#8 s.pend.castIn (p * 2 ^ 32 + i)

/-- Transmit history received for a partition whose boundary stands at step b. -/
def State.receivedHistory (s : State) (p b lin : Nat) : List (Nat × Nat) :=
  (s.pend.histIn.filter fun h => decide (h.1 = p)).flatMap fun h =>
    (onesOf h.2.2.toNat 64).map fun i => (b - lin + h.2.1 / 144, h.2.1 % 144 * 64 + i)

/-- Placement epochs in a record received for a partition: bytes 4 to 51 of each die's section, in ascending logical die (R460, R317). -/
def State.recordEpochs (s : State) (p : Nat) : SMap U16 :=
  let b := s.received p
  let pairs := (s.part p).diePairs
  (List.range pairs.length).foldl (fun m i =>
    (List.range 24).foldl (fun n k => smSet 0#16 n (24 * ((pairs[i]?.map (·.1)).getD 0) + k) (BitVec.ofNat 16 (leNat (bytesAt b (4096 + dieBytes * i + 4 + 2 * k) 2)))) m) []

/-- The newcomer stands paused at J with the carrier's state (R316, R263), its placement epochs included (R317). -/
def restoreJoin (i : JoinInfo) (s : State) : State :=
  let p := i.part
  let s1 := applyRestore p (s.received p) s
  let x := s1.part p
  let s2 := prepareBanks p (s1.setPart p { x with restore := some (i.j, false) })
  let y := s2.part p
  let z : Partition := { y with
    epochs := s.recordEpochs p, st := .running, phase := .paused, pausedAt := some (i.j, i.t, i.b, 0), restart := none, nextTick := none, frame := i.j - 1, begun := true, top := i.j - 1, topH0 := true, stagedTop := i.j, tick := i.t - x.frameLen
    rel := x.frameLen, hstage := 63, ticks := [(i.j - 1, i.t - x.frameLen)], sampled := [], beyond := i.j.toNat, v := i.v, vdown := i.vdown, lin := i.lin
    history := s.receivedHistory p i.b i.lin, stopNext := false, noGo := false, seq := none, verdict := none, heldFrame := none, holds := [], vetoes := [] }
  let regs := s2.regionsOfPart z
  { s2.setPart p z with fab := { s2.fab with drive := s2.fab.drive ||| BitVec.ofNat 24 (maskOf regs) } }

/-- VERIFY at the newcomer: when every record agrees, its partitions take the state and wait for their restart. -/
def verifyNewcomer (s : State) : State :=
  let ok := s.pend.joinInfo.all fun i => decide (smGet 0#384 s.pend.peerDigest i.part = Config.sha384 (s.received i.part))
  match s.pend.joinInfo with
  | [] => s
  | i :: _ =>
    if !ok then s
    else
      let s1 := s.pend.joinInfo.foldl (fun a i => restoreJoin i a) s
      let ref := match s.pend.join with | some (_, _, r) => r | none => i.part
      let lead := (s.pend.joinInfo.find? fun k => decide (k.part = ref)).getD i
      { s1 with pend := { s1.pend with join := some (6, lead.j, lead.part), castIn := [], histIn := [], joinInfo := [] } }

/-! ### Failure and the end of the pair -/

/-- A newcomer whose join is cancelled gives up the state it had taken (R318): its partitions are loaded again and drive nothing. -/
def undoJoin (s : State) : State :=
  eachPart (fun p a => if (a.part p).st = .running then (let b := drivePins p false a
      b.setPart p { b.part p with st := .loaded, phase := .stopped, pausedAt := none, restart := none, nextTick := none }) else a)
    { s with pend := { s.pend with join := none, castIn := [], histIn := [], joinInfo := [] } }

/-- A resynchronisation or join ends without success in a phase (Table 14.6): the carrier resumes its scope, the newcomer stays
STANDBY; the commands complete with RESYNC_FAILED. -/
def failResync (phase : Nat) (st : PairSt) (s : State) : State :=
  let ctx := s.pend.resync.bind fun r => r.2.1
  let j : Nat := match s.pend.join with | some (_, j, _) => j.toNat | none => 0
  let data := leBytes 6 j ++ leBytes 1 phase ++ zeros 1
  let cast := decide (3 ≤ phase) && decide (phase ≤ 5) && s.pend.join.isSome
  let runs := s.executing
  let own := runs.filter fun p => !s.pend.hostPause.contains p
  let s1 : State := { s with pend := { s.pend with st := st, join := none, resync := none, hostPause := [], castIn := [], histIn := [], joinInfo := [] } }
  let s2 := if cast then runs.foldl (fun a p => endAct 6 p a) s1 else s1
  let s3 := finishAct 7 0 s2
  let s4 := if s.pend.join.isSome ∧ s.pend.role = 1 then
      own.foldl (fun a p =>
        let x := a.part p
        let b := a.setPart p { x with pauses := x.pauses.filter (fun q => decide (q.owner ≠ .join)), asked := x.asked.filter fun q => decide (q.owner ≠ .join) }
        if x.pausedAt.isNone then b else if b.isRoot p then rootRestart p b else markerUp 0x08 x.scope16 0 0 b) s3
    else s3
  completePendant St.resyncFailed data (completeOpt ctx St.resyncFailed data s4)

/-- The pair ends (R300): the pair key is zeroised, and what a retirement asserted is released (R311). -/
def dissolvePair (s : State) : State :=
  let ctx := s.pend.dissolve.join
  let s1 := if s.pend.resync.isSome ∨ s.pend.join.isSome then failResync (match s.pend.join with | some (ph, _, _) => ph | none => 0) s.pend.st s else s
  let s2 := releaseFault St.twinRetired (completePendant St.resyncFailed [] s1)
  completeOpt ctx St.ok [] { s2 with pend := { lat := s2.pend.lat }, keys := { s2.keys with pairKey := none } }

/-- A dissolution whose boundaries have passed ends the pair once the peer has been told, or at once where there is no peer to tell. -/
def dissolveDue (s : State) : State :=
  let alone := decide (s.pend.st = .solo) || decide (s.pend.st = .fenced) || decide (s.pend.st = .retired) || (s.lanesInUse 16).isEmpty
  let told := !(s.pend.sendq.any fun e => decide (e.1 = 5)) && s.pend.sentNow.isEmpty
  let still := s.pend.leaving.filter fun p => (s.part p).inFrame
  if s.pend.dissolve.isNone ∨ still ≠ [] ∨ !(alone || told) then s else dissolvePair s

/-- What the pair does in every step. -/
def pairStep (s : State) : State := dissolveDue (copyNext s)

end Sys2Proof.Machine
end

