-- ==== Sys2Proof/Machine/Pendant.lean ====
section
/-!
DEFINITION. Pendant.lean: group 0x09, the pendant commands (Table 16.10), with the sequence of Table 14.1 that PENDANT.PAIR starts.
-/
namespace Sys2Proof.Machine

/-! ### Pairing (R298, Table 14.1) -/

/-- This twin's pairing ends without a pair: its command replies with the status. -/
def endPairing (status : Nat) (s : State) : State :=
  let s1 : State := { s with pend := { sendq := s.pend.sendq }, keys := { s.keys with pairKey := none } }
  match s.pend.pair with
  | some (c, _, _, _) => reply c 0x0901 status [] s1
  | none => s1

/-- A step of Table 14.1 fails here: both commands return the same status. -/
def failPair (status : Nat) (s : State) : State := endPairing status (sendMessage msgAbort [status] s)

/-- The step of Table 14.1 reached. -/
def setPairStep (n : Nat) (s : State) : State :=
  { s with pend := { s.pend with pair := s.pend.pair.map fun q => (q.1, q.2.1, q.2.2.1, n) } }

/-- The step of Table 14.1 reached, 0 where no pairing runs. -/
def State.pairStepNo (s : State) : Nat := match s.pend.pair with | some (_, _, _, n) => n | none => 0

/-- Step 1 of Table 14.1: the pendant lanes that are off or asleep are brought up. -/
def raiseLink (s : State) : State :=
  (linkLanes 16).foldl (fun a n => match (a.lane n).st with
    | .off => enterTrain n a
    | .sleep => wakeLane n true true a
    | _ => a) s

/-- Both commands are known (R298): modes and addresses agree, and the link is brought up. -/
def tryPair (s : State) : State :=
  match s.pend.pair, s.pend.peerMode with
  | some (_, _, _, 1), some m =>
    if m ≠ s.pend.mode then failPair St.pairWiring s
    else if m ≠ 0 ∧ s.pend.paddr ≠ s.arm.addr ^^^ 1 then failPair St.pairWiring s
    else raiseLink s
  | _, _ => s

/-- Step 2 of Table 14.1 begins once no lane of the link trains: at the largest width that its READY lanes give; with none READY the pairing
fails. The nonce and the ephemeral key are drawn. -/
def linkRaised (s : State) : State :=
  match s.pend.pair, s.pend.peerMode with
  | some (_, _, _, 1), some _ =>
    let ready := (linkLanes 16).filter fun n => decide ((s.lane n).st = .ready)
    if (linkLanes 16).any (fun n => (s.lane n).st.training) then s
    else if ready.isEmpty then failPair St.laneNoPeer s
    else
      let (nonce, s1) := s.draw 256
      let (priv, s2) := s1.draw 384
      let s3 := s2.setBlink 16 { s2.blink 16 with width := BitVec.ofNat 8 (widthCode ready.length) }
      setPairStep 2 { s3 with pend := { s3.pend with nonce := nonce, priv := priv, latN := 0, latMax := 0 } }
  | _, _ => s

/-- Bytes of a HELLO that its signature covers. -/
def helloBytes (side : Bool) (bic : U16) (equiv : List U16) (chain : List Byte) (nonce : BitVec 256) (pub : List Byte) : List Byte :=
  leBytes 1 (bitNat side) ++ leBytes 2 bic.toNat ++ leBytes 2 equiv.length ++ equiv.flatMap (fun e => leBytes 2 e.toNat) ++ chain ++
    leBytes 32 nonce.toNat ++ pub

/-- Own HELLO. -/
def State.ownHello (s : State) : List Byte :=
  helloBytes s.ident.pendSide s.ident.bic s.ident.equiv s.ident.certs s.pend.nonce (Config.ecPublic s.pend.priv)

/-- HELLO is sent, signed over every earlier message and itself (R298 step 3): side A sends first (log entry 61). -/
def sendHello (s : State) : State :=
  let text := (s.pend.heard.getD []) ++ s.ownHello
  s.emit (.pairHello s.ident.pendSide s.ident.bic s.ident.equiv s.ident.certs s.pend.nonce (Config.ecPublic s.pend.priv) (Config.sign (Config.sha384 text)))

/-- KEYCHK is sent: 8 bytes of the same HKDF with the info "check" (R298 step 5). -/
def sendKeychk (s : State) : State := setPairStep 5 (sendMessage msgKeychk [s.pend.keychk.toNat] s)

/-- The latency has been measured and the peer's HELLO may have been heard: what this side sends next. -/
def goOnPairing (s : State) : State :=
  if !s.ident.pendSide then sendHello s
  else if s.pend.heard.isSome then sendKeychk (sendHello s)
  else s

/-- The pair forms (R298 step 6, Table 14.4): state and role by the mode; in STANDBY the twin that runs carries, else side A. -/
def formPair (s : State) : State :=
  let runs := !s.runningParts.isEmpty
  let carrier := if runs ≠ s.pend.peerRuns then runs else !s.ident.pendSide
  let (st, role) := match s.pend.mode with
    | 0 => (PairSt.independent, 0)
    | 1 => (PairSt.lockstep, 1)
    | _ => (PairSt.standby, if carrier then 1 else 2)
  let p := s.pend
  let s1 : State := { s with pend := { p with
      st := st, role := role, pair := none, cev := 0, hbAt := s.clk.now, hbNew := false, tagOk := true, peerTagOk := false, encAt := none, interval := []
      rxLog := [], txLog := [], sentNow := [], unverified := [], sentReport := {}, report := {}, sentIdigest := [], peerIdigest := [], mirror := [] } }
  match p.pair with
  | some (c, _, _, _) => reply c 0x0901 St.ok ([BitVec.ofNat 8 (pairCode st)] ++ zeros 3) s1
  | none => s1

/-- PENDANT.PAIR (R298): in a paired system a twin's address ends in its side (R362, log entry 62). -/
def execPendantPair (c : CmdCtx) (mode flags : Byte) (rsvd : U16) (s : State) : Res :=
  .next (linkWait 16 (deferredOp .p 0x0901 c (fun s =>
    if 2 < mode.toNat ∨ 1 < flags.toNat ∨ rsvd ≠ 0 then reply c 0x0901 St.argRange [] s
    else if s.pend.st ≠ .unpaired then reply c 0x0901 St.pairBusy [] s
    else if mode ≠ 0 ∧ s.arm.addr.getLsbD 0 ≠ s.ident.pendSide then reply c 0x0901 St.pairWiring [] s
    else
      let ovr := flags.getLsbD 0
      let word := mode.toNat + 4 * bitNat ovr + 8 * bitNat (!s.runningParts.isEmpty) + 65536 * s.arm.addr.toNat
      let s1 := holdDeferred c 0x0901 { s with pend := { s.pend with st := .pairing, mode := mode.toNat, pair := some (c, ovr, s.clk.now, 1) } }
      tryPair (sendMessage msgPair [word] s1))) s)

/-! ### Mode changes (R305, R311, R317, R354) -/

/-- The change of a reference partition is registered, with those of the other running partitions, and the peer is told (R354). -/
def registerChange (op side ref : Nat) (m : FrameNo) (armed : Bool) (s : State) : State :=
  let c := fun (o : Nat) (k : FrameNo) => ({ m := k, opcode := o, armed := armed, ready := true, lateAt := none, ctx := none, arg := side } : ModeChange)
  let tl := tickAndLatch (s.part ref) m
  (s.executing.filter (· ≠ ref)).foldl (fun a q => addChange q (c (followOp + op) (followFrame (a.part q) a.cnt tl.1 tl.2)) a)
    (addChange ref (c op m) s)

/-- A change whose reference partition does not run takes effect at once; the running partitions follow (R354). -/
def changeNow (op side ref : Nat) (s : State) : State :=
  let s1 := applyRole op side ref s
  let c := fun (k : FrameNo) => ({ m := k, opcode := followOp + op, armed := false, ready := true, lateAt := none, ctx := none, arg := side } : ModeChange)
  completePendant St.ok [] (s1.executing.foldl (fun a q => addChange q (c (followFrame (a.part q) a.cnt a.cnt a.cnt)) a) s1)

/-- Kind of a pendant change in a message, which carries no opcode (R23): 0 a twin becomes standby, 1 a twin retires, 2 a handover. -/
def changeKind (op : Nat) : Nat := if op = 0x0902 then 0 else if op = 0x0903 then 1 else 2

/-- The peer is told of a pendant change: kind, side, reference partition, and its frame when the change has one; before a handover also the
placement epochs of the partitions that stop here (R317). -/
def tellChange (op side ref : Nat) (m : Option FrameNo) (s : State) : State :=
  let s1 := if op = 0x0907 ∧ side = s.side then s.executing.foldl (fun a p => sendEpochs p a) s else s
  sendMessage msgChange [changeKind op + 65536 * side + 2 ^ 24 * ref + 2 ^ 32 * bitNat m.isSome, (m.map (·.toNat)).getD 0] s1

/-- A pendant change in LOCKSTEP, or of a standby that retires: the named side stops at the tick of m. -/
def takeChange (c : CmdCtx) (op side ref : Nat) (s : State) : State :=
  let x := s.part ref
  if !x.executes ∧ c.eframe ≠ 0 then reply c op St.frameField [] s
  else
    let s0 : State := { s with pend := { s.pend with change := some (op, some c, side) } }
    match x.changes.find? fun d => decide (d.opcode = op) && decide (d.arg = side) with
    | some d => reply c op St.accepted (frameData d.m) s0
    | none =>
      if !x.executes then
        changeNow op side ref (tellChange op side ref none (reply c op St.accepted (frameData 0) s0))
      else
        let m := changeFrame x s.cnt 0 c.eframe
        registerChange op side ref m false (tellChange op side ref (some m) (reply c op St.accepted (frameData m) s0))

/-- First condition of R314 that fails, counted from 1; a handover in STANDBY asks all but the second, since a standby holds the partitions that
COPY loaded (Table 16.10; DEDUCED, log entry 61). -/
def resyncCond (empty : Bool) (s : State) : Option Nat :=
  let r := s.pend.report
  let own := s.ownReport
  let leaves := maskOf ((List.range 16).filter fun j => s.hasLeaf j)
  if s.pend.peerRole ≠ 2 ∨ s.pend.hbAt + 65536 < s.clk.now then some 1
  else if empty ∧ r.loaded ≠ 0 then some 2
  else if r.poolBase ≠ own.poolBase ∨ r.poolLen ≠ own.poolLen then some 3
  else if r.usable ≠ own.usable then some 4
  else if (onesOf leaves 16).any fun j => !natBit r.bound j then some 5
  else none

/-- The condition that refuses a join ordered by an opcode: a handover at the carrier is refused as PENDANT.RESYNC is. -/
def joinCond (op : Nat) (s : State) : Option Nat := if op = 0x0907 ∧ s.pend.role = 1 then resyncCond false s else none

/-- A join ordered by a mode change in STANDBY (R305, R311, R317): the carrier runs it; a command to the standby completes with it. -/
def takeJoin (c : CmdCtx) (op side ref : Nat) (s : State) : State :=
  let x := s.part ref
  if !x.executes ∧ c.eframe ≠ 0 then reply c op St.frameField [] s
  else match (if s.pend.role = 1 then s.blocker 7 0 else none) with
    | some h => busyReply c op h s
    | none => match joinCond op s with
    | some k => reply c op St.resyncMismatch [BitVec.ofNat 8 k] s
    | none =>
      let m := if x.executes then pauseBoundary (s.isSingle ref) x s.cnt c.eframe else 0
      let s1 := reply c op St.accepted (frameData m) { s with pend := { s.pend with change := some (op, some c, side) } }
      if s.pend.role = 1 then beginJoin ref m s1 else s1

/-- A change, resynchronisation or join is in progress, other than one of this opcode of which the peer has told. -/
def State.pairChanging (s : State) (op : Nat) : Bool :=
  s.pend.join.isSome || s.pend.resync.isSome ||
    (match s.pend.change with | some (o, c, _) => decide (o ≠ op) || c.isSome | none => false)

/-- What PENDANT.MODE, RETIRE and HANDOVER share: reserved fields, the pair state, PAIR_BUSY. -/
def pairChange (c : CmdCtx) (op : Nat) (argsOk : Bool) (body : State → State) (s : State) : State :=
  if !argsOk then reply c op St.argRange [] s
  else if s.pend.st ≠ .lockstep ∧ s.pend.st ≠ .standby then reply c op St.wrongState [] s
  else if s.pairChanging op then reply c op St.pairBusy [] s
  else body s

/-- PENDANT.MODE (R305). -/
def execPendantMode (c : CmdCtx) (mode sb part rsvd : Byte) (s : State) : Res :=
  .next (pairWait (immediate .p 0x0902 c (fun s =>
    let ok := decide (rsvd = 0) && decide (part.toNat < 4) &&
      ((decide (mode = 1) && decide (sb = 0xFF)) || (decide (mode = 2) && decide (sb.toNat < 2)))
    pairChange c 0x0902 ok (fun s =>
      if mode = 2 ∧ s.pend.st = .lockstep then takeChange c 0x0902 sb.toNat part.toNat s
      else if mode = 1 ∧ s.pend.st = .standby then takeJoin c 0x0902 2 part.toNat s
      else reply c 0x0902 St.wrongState [] s) s)) s)

/-- PENDANT.RETIRE (R311): in STANDBY the carrier hands over first. -/
def execPendantRetire (c : CmdCtx) (side part : Byte) (rsvd : U16) (s : State) : Res :=
  .next (pairWait (immediate .p 0x0903 c (fun s =>
    let own := decide (side.toNat = s.side)
    let carrier := if s.pend.role = 1 then own else !own
    pairChange c 0x0903 (decide (rsvd = 0) && decide (side.toNat < 2) && decide (part.toNat < 4)) (fun s =>
      if s.pend.st = .standby ∧ carrier then takeJoin c 0x0903 side.toNat part.toNat s
      else takeChange c 0x0903 side.toNat part.toNat s) s)) s)

/-- PENDANT.HANDOVER (R317): this device stops executing, or in STANDBY the carrier does. -/
def execPendantHandover (c : CmdCtx) (part : Byte) (rsvd : BitVec 24) (s : State) : Res :=
  .next (pairWait (immediate .p 0x0907 c (fun s =>
    pairChange c 0x0907 (decide (rsvd = 0) && decide (part.toNat < 4)) (fun s =>
      if s.pend.st = .lockstep then takeChange c 0x0907 s.side part.toNat s
      else takeJoin c 0x0907 (if s.pend.role = 1 then s.side else 1 - s.side) part.toNat s) s)) s)

/-- PENDANT.PREFER (R312): in effect from the next frame, or at once while nothing runs. -/
def execPendantPrefer (c : CmdCtx) (pref : Byte) (rsvd : BitVec 24) (s : State) : Res :=
  .next (pairWait (immediate .p 0x0904 c (fun s =>
    if 2 < pref.toNat ∨ rsvd ≠ 0 then reply c 0x0904 St.argRange [] s
    else if !s.paired then reply c 0x0904 St.wrongState [] s
    else
      let s1 : State := { s with pend := { s.pend with prefNew := some (BitVec.ofNat 2 pref.toNat) } }
      reply c 0x0904 St.ok [] (if s.runningParts.isEmpty then takePref s1 else s1))) s)

/-- A stopped partition of a fenced twin stands held at the frame after its last, so that the release of its scope's hold starts it
(R313, log entry 63). -/
def rejoinScope (p : Nat) (s : State) : State :=
  let x := s.part p
  if x.st ≠ .running ∨ x.phase ≠ .stopped then s
  else tryClear p (drivePins p true <| s.setPart p { x with phase := .held, heldFrame := some (x.frame + 1, s.cnt), holds := [], sc := { x.sc with clears := [], clearSent := none } })

/-- PENDANT.TAKEOVER (R313): a fenced side B carries in SOLO from the next boundary of the scope, at once where nothing runs; not when its carrier
was lost during JOIN (R318). -/
def execPendantTakeover (c : CmdCtx) (s : State) : Res :=
  .next (pairWait (immediate .p 0x0905 c (fun s =>
    if s.pend.st ≠ .fenced ∨ s.side = 0 ∨ s.pend.noTake then reply c 0x0905 St.wrongState [] s
    else
      let s1 := reply c 0x0905 St.accepted [] s
      let stopped := s.runningParts.filter fun p => decide ((s.part p).phase = .stopped)
      match stopped with
      | [] => complete c St.ok [] (setPair .solo 1 s1)
      | p :: _ => eachPart rejoinScope ({ s1 with pend := { s1.pend with takeover := true } }.setPart p { s1.part p with releaseCtx := (s1.part p).releaseCtx ++ [c] }))) s)

/-! ### RESYNC and DISSOLVE -/

/-- PENDANT.RESYNC (R314): COPY begins; the reply names the join frame, 0 for as soon as COPY completes. -/
def execPendantResync (c : CmdCtx) (part : Byte) (rsvd : BitVec 24) (s : State) : Res :=
  .next (pairWait (immediate .p 0x0906 c (fun s =>
    let p := part.toNat
    let x := s.part p
    if rsvd ≠ 0 ∨ 4 ≤ p then reply c 0x0906 St.argRange [] s
    else match s.blocker 7 0 with
      | some h => busyReply c 0x0906 h s
      | none =>
        if !(s.pend.st = .solo ∨ s.pend.st = .standby) ∨ s.pend.role ≠ 1 then reply c 0x0906 St.wrongState [] s
        else if s.pairChanging 0x0906 then reply c 0x0906 St.pairBusy [] s
        else if x.st ≠ .running ∧ c.eframe ≠ 0 then reply c 0x0906 St.frameField [] s
        else match resyncCond true s with
          | some k => reply c 0x0906 St.resyncMismatch [BitVec.ofNat 8 k] s
          | none =>
            let m := if c.eframe = 0 then 0 else pauseBoundary (s.isSingle p) x s.cnt c.eframe
            let s1 := startAct 7 0 (some c) (reply c 0x0906 St.accepted (frameData m) s)
            let s2 := sendMessage msgResync [] { s1 with pend := { s1.pend with st := .copy, resync := some (1, some c, p), wmark := 0, mirror := [] } }
            sendLeaves s2)) s)

/-- PENDANT.DISSOLVE is accepted (R300): an INDEPENDENT pair, which is no paired system; SOLO as either twin reports it; or while both twins hold
no RUNNING partition, a COPY among those, which it abandons (Table 14.6). -/
def State.mayDissolve (s : State) : Bool :=
  match s.pend.st with
  | .unpaired | .pairing => false
  | .independent | .solo | .retired | .fenced => true
  | _ => s.runningParts.isEmpty && decide (s.pend.report.running = 0)

/-- The pair ends at the next boundary of every running partition. -/
def beginDissolve (c : Option CmdCtx) (s : State) : State :=
  { s with pend := { s.pend with dissolve := some c, leaving := s.runningParts } }

/-- PENDANT.DISSOLVE. -/
def execPendantDissolve (c : CmdCtx) (s : State) : Res :=
  .next (pairWait (immediate .p 0x0908 c (fun s =>
    if !s.mayDissolve then reply c 0x0908 St.wrongState [] s
    else match s.pend.dissolve with
      | some (some _) => reply c 0x0908 St.wrongState [] s
      | _ => sendMessage msgDissolve [] (beginDissolve (some c) (reply c 0x0908 St.accepted [] s)))) s)

/-- Result of PENDANT.STATUS (Table 16.10). -/
def pendantData (s : State) : List Byte :=
  let mism := (List.range 4).foldl (fun a p => (s.part p).mism.foldl (fun b e => max b e.2.1) a) 0
  leBytes 1 (pairCode s.pend.st) ++ leBytes 1 s.side ++ leBytes 1 s.pend.role ++ leBytes 1 (s.blink 16).width.toNat ++
    leBytes 1 s.pend.pref.toNat ++ zeros 1 ++ leBytes 2 s.pend.lat ++ leBytes 2 s.pend.cev ++ leBytes 2 mism ++
    leBytes 2 s.pend.pbic.toNat ++ leBytes 2 s.pend.paddr.toNat ++ leBytes 8 s.pend.wmark

/-- PENDANT.STATUS (R354). -/
def execPendantStatus (c : CmdCtx) (s : State) : Res :=
  .next (immediate .a 0x0909 c (fun s => reply c 0x0909 St.ok (pendantData s) s) s)

end Sys2Proof.Machine
end

