-- ==== Sys2Proof/Machine/Stats.lean ====
section
/-!
DEFINITION. Stats.lean: group 0x0E, statistics and logs (Table 16.15, Table 20.9).
-/
namespace Sys2Proof.Machine

/-! ### Lifetime (R434) -/

/-- Seconds in a lifetime bin. -/
def State.binSecs (s : State) (i : Nat) : Nat := nth 0 s.pwr.bins i

/-- LIFE_USED in parts per million: hours times weight over 87,600 hours. -/
def State.lifeUsed (s : State) : Nat :=
  ((List.range 6).map fun i => s.binSecs i * 2 ^ i).sum * 1000000 / (4 * 3600 * 87600)

/-! ### The counter directory -/

/-- Counters with these IDs as they stand. -/
def plainCounters (s : State) (sub unit : Nat) (ids : List Nat) : List (Nat × Nat) := ids.map fun i => (i, s.counter sub unit i)

/-- IDs and values that a subsystem's unit returns (Table 20.9); none for a UNIT outside its range. -/
def directory (s : State) (sub unit : Nat) : Option (List (Nat × Nat)) :=
  let within := fun (b : Bool) (l : List (Nat × Nat)) => if b then some l else none
  match sub with
  | 0x0 => within (unit < 96) (plainCounters s 0 unit [1, 2, 3] ++
      [(4, s.groupSpares 0 unit false), (5, s.groupSpares 0 unit true), (6, s.groupSpares 1 unit false), (7, s.groupSpares 1 unit true)])
  | 0x1 => within (unit < 96) [(1, s.sparesLeft 2 unit false), (2, s.sparesLeft 2 unit true)]
  | 0x2 => within (unit < 96) (plainCounters s 2 unit [1])
  | 0x3 => within (unit = 0) [(1, s.sparesLeft 3 0 false), (2, s.sparesLeft 3 0 true)]
  | 0x4 => within (unit < 144) (plainCounters s 4 unit [1, 2, 3, 4, 5, 6, 7])
  | 0x5 => within (unit < 24) (plainCounters s 5 unit [1, 2])
  | 0x6 =>
    if unit < 2304 then some (plainCounters s 6 unit [1, 2, 3] ++ [(4, s.sparesLeft 5 unit false), (5, s.sparesLeft 5 unit true)])
    else within (4096 ≤ unit && unit < 4096 + 1152)
      (plainCounters s 6 unit [1, 2, 3] ++ [(4, s.sparesLeft 4 (unit - 4096) false), (5, s.sparesLeft 4 (unit - 4096) true)])
  | 0x7 => within (unit < 384 || (0x8000 ≤ unit && unit < 0x8020)) (plainCounters s 7 unit [1, 2, 3, 4])
  | 0x8 => within (unit < 16) (plainCounters s 8 unit [1])
  | 0x9 => within (unit = 0) (plainCounters s 9 0 [1])
  | 0xA => within (unit < 36) (plainCounters s 0xA unit [1, 2, 3, 4, 5])
  | 0xB => within (unit < 16) (plainCounters s 0xB unit [1, 2])
  | 0xC => within (unit < 8) (plainCounters s 0xC unit [1, 2, 3, 4, 5])
  | 0xE => within (unit = 0) (plainCounters s 0xE 0 [1, 2, 3, 4])
  | 0xF => within (unit = 0) ((List.range 6).map (fun i => (i + 1, s.binSecs i / 3600)) ++ [(7, s.lifeUsed)] ++ plainCounters s 0xF 0 [8])
  | _ => some []

/-- STATS.READ (R432): a SUB that Table 1.1 does not list returns ARG_RANGE. -/
def execStatsRead (c : CmdCtx) (sub rsvd : Byte) (unit : U16) (s : State) : Res :=
  .next (immediate .a 0x0E02 c (fun s =>
    if rsvd ≠ 0 ∨ 16 ≤ sub.toNat then reply c 0x0E02 St.argRange [] s
    else match directory s sub.toNat unit.toNat with
      | none => reply c 0x0E02 St.argRange [] s
      | some l =>
        reply c 0x0E02 St.ok (leBytes 2 l.length ++ zeros 2 ++ l.flatMap fun e => leBytes 2 e.1 ++ zeros 2 ++ leBytes 8 (sat32 e.2)) s) s)

/-! ### NoC statistics (R294, R359) -/

/-- One 96-byte record. -/
def nocRecord (x : NocCtr) : List Byte :=
  leBytes 6 x.pktsOut ++ leBytes 6 x.flitsOut ++ leBytes 6 x.flitsIn ++ ((List.range 16).flatMap fun i => leBytes 4 (nth 0 x.hist i)) ++
    leBytes 4 x.latMax ++ leBytes 4 x.dorCnt ++ leBytes 2 x.lost ++ zeros 4

/-- STATS.NOC (R359): NEW takes a snapshot of all initiators, CLR with it zeroes them. -/
def execStatsNoc (c : CmdCtx) (first n flags rsvd : Byte) (s : State) : Res :=
  .next (immediate .a 0x0E01 c (fun s =>
    let fresh := natBit flags.toNat 0
    let clr := natBit flags.toNat 1
    if rsvd ≠ 0 ∨ 3 < flags.toNat ∨ (clr ∧ !fresh) ∨ n = 0 ∨ 42 < n.toNat ∨ 59 < first.toNat + n.toNat then reply c 0x0E01 St.argRange [] s
    else
      let k := s.noc
      let k1 := if fresh then { k with snap := k.ctr, snapStep := s.clk.count, ctr := if clr then [] else k.ctr } else k
      let data := (List.range n.toNat).flatMap fun i => nocRecord (smGet {} k1.snap (first.toNat + i))
      reply c 0x0E01 St.ok (leBytes 8 k1.snapStep.toNat ++ data) { s with noc := k1 }) s)

/-! ### Logs (R429, R275) -/

/-- The 48 bytes of a record (Table 20.6). -/
def logBytes (r : LogRec) : List Byte :=
  leBytes 4 r.seq.toNat ++ leBytes 2 r.cause ++ leBytes 1 r.sub ++ leBytes 1 r.sev ++ leBytes 8 r.step.toNat ++ leBytes 6 r.frame.toNat ++
    leBytes 1 r.part ++ leBytes 1 (bitNat r.persist + 2 * bitNat r.event) ++ leBytes 2 r.count ++ zeros 2 ++ leBytes 8 r.loc.toNat ++
    leBytes 12 r.detail.toNat

/-- A sequence number at or after another in 32-bit order. -/
def seqFrom (from_ x : U32) : Bool := decide ((x - from_).toNat < 2 ^ 31)

/-- LOG.READ (R429): the records held from FROM on, at most N; NEXT is the sequence after the last one returned. -/
def execLogRead (c : CmdCtx) (from_ : U32) (n : Byte) (rsvd : BitVec 24) (s : State) : Res :=
  .next (immediate .a 0x0E03 c (fun s =>
    if rsvd ≠ 0 ∨ n = 0 ∨ 84 < n.toNat then reply c 0x0E03 St.argRange [] s
    else
      let l := (s.logs.recs.filter fun r => seqFrom from_ r.seq).take n.toNat
      let next := match l.getLast? with | some r => r.seq + 1 | none => s.logs.seq
      reply c 0x0E03 St.ok (leBytes 1 l.length ++ zeros 3 ++ leBytes 4 next.toNat ++ l.flatMap logBytes) s) s)

/-- LOG.SECURITY (R359). -/
def execLogSecurity (c : CmdCtx) (from_ : U32) (n : Byte) (rsvd : BitVec 24) (s : State) : Res :=
  .next (immediate .p 0x0E04 c (fun s =>
    if rsvd ≠ 0 ∨ n = 0 ∨ 127 < n.toNat then reply c 0x0E04 St.argRange [] s
    else
      let l := (s.logs.sec.filter fun e => seqFrom from_ e.seq).take n.toNat
      reply c 0x0E04 St.ok (leBytes 1 l.length ++ zeros 3 ++ leBytes 4 (s.counter 9 0 1) ++ l.flatMap secBytes) s) s)

end Sys2Proof.Machine
end

