-- ==== Sys2Proof/Machine/Rely.lean ====
section
/-!
DEFINITION. Rely.lean: Rasp, the recovery of stored words, sparing, the lifetime bins and the health record's hourly copy
(chapter 20), and group 0x0A, the maintenance commands (Table 16.11).
-/
namespace Sys2Proof.Machine

/-- Check status of any store's entry. -/
def State.checkAt (s : State) (code key : Nat) : Nat := if code = uopCode then smGet 0 s.fab.uopErr key else smGet 0 s.arr.errs (key * 16 + code)

/-- Check status of any store's entry set. -/
def State.setCheck (s : State) (code key v : Nat) : State :=
  if code = uopCode then { s with fab := { s.fab with uopErr := smSet 0 s.fab.uopErr key v } }
  else { s with arr := { s.arr with errs := smSet 0 s.arr.errs (key * 16 + code) v } }

/-! ### Rasp (R420 to R422, R426) -/

/-- Partition whose store an entry belongs to: by its cluster, its port or its slice's die. -/
def State.ownerOf (s : State) (code key : Nat) : Option Nat :=
  match clusterOfKey code key with
  | some pcl => s.partOf pcl
  | none =>
    if code = uopCode then s.partOfDie (key / 1024 / 288)
    else if code = 6 then s.partOf (key / 98304)
    else [0, 1, 2, 3].find? fun p => decide ((s.part p).st ≠ .empty) && natBit (s.part p).pmask (key % 9216 / 576)

/-- Rasp's finding at one entry: a single-bit error is rewritten, an uncorrectable one starts a recovery and no veto (R420). -/
def raspEntry (code key : Nat) (s : State) : State :=
  let p := (s.ownerOf code key).getD 0xFF
  match s.checkAt code key with
  | 0 => s
  | 1 =>
    let s1 := logRec { cause := St.wordFix, sub := 0xF, sev := 0, part := p, loc := s.keyLoc code key } (s.setCheck code key 0)
    noteCorrect code key true (if code = 0 then bump 0x0 (key / 524288) 2 s1 else s1)
  | _ =>
    if s.arr.recovery.any fun r => decide (r.1 = code) && decide (r.2.1 = key) then s
    else
      let s1 := logRec { cause := St.wordUncorr, sub := 0xF, sev := 5, part := p, loc := s.keyLoc code key } s
      let s2 := if code = 0 then bump 0x0 (key / 524288) 3 s1 else s1
      { s2 with arr := { s2.arr with recovery := s2.arr.recovery ++ [(code, key, 1, p)] } }

/-- Entries of a store between two keys whose check status is not clean. -/
def State.badIn (s : State) (code lo n : Nat) : List Nat :=
  if code = uopCode then (keysIn s.fab.uopErr lo n).map (·.1)
  else (keysIn s.arr.errs (lo * 16) (n * 16)).filterMap fun e => if e.1 % 16 = code then some (e.1 / 16) else none

/-- Rasp reads a range of one store. -/
def raspRange (code lo n : Nat) (s : State) : State := (s.badIn code lo n).foldl (fun a k => raspEntry code k a) s

/-- An engine of Rasp moves to its next index; a pass that ends counts, and may be the last that a MAINT.START waits for (R421,
R422). -/
def raspNext (engine size : Nat) (s : State) : State :=
  let i := smGet 0 s.arr.rasp engine
  let s1 : State := { s with arr := { s.arr with rasp := smSet 0 s.arr.rasp engine (if i + 1 < size then i + 1 else 0) } }
  if i + 1 < size then s1 else bump 0xF 0 8 s1

/-- Engines still to finish, each counted with the passes it must end: the one in progress and a whole one (R422). -/
def raspEnded (engine : Nat) (s : State) : State :=
  if s.arr.raspLeft.contains engine then
    let left := s.arr.raspLeft.erase engine
    let s1 : State := { s with arr := { s.arr with raspLeft := left } }
    if left = [] then
      let ctx := (s1.maint.find? fun h => decide (h.act = 1)).bind (·.ctx)
      finishAct 1 0 (completeOpt ctx St.ok [] s1)
    else setProgress 1 0 (smGet 0 s1.arr.rasp engine) s1
  else s

/-- An engine whose store has been unloaded has nothing left to read: a MAINT.START waits for it no longer. -/
def raspGone (engine : Nat) (s : State) : State :=
  if s.arr.raspLeft.contains engine then
    raspEnded engine { s with arr := { s.arr with raspLeft := engine :: s.arr.raspLeft.filter fun e => decide (e ≠ engine) } }
  else s

/-- One read of an engine with index i of its store. -/
def raspTurn (engine size : Nat) (read : Nat → State → State) (s : State) : State :=
  let i := smGet 0 s.arr.rasp engine
  let s1 := raspNext engine size (read i s)
  if i + 1 < size then s1 else raspEnded engine s1

/-- The words of index k of a group's stores. -/
def raspWords (pcl grp k : Nat) (s : State) : State := raspRange 0 (wordKey pcl grp k 0) 64 s

/-- The tables of a cluster at step index t, and its ejection map. -/
def raspTables (pcl t : Nat) (s : State) : State :=
  raspRange 6 (ejKey pcl t 0) 96 (raspRange 3 (sxKey pcl t 0) 96 (raspRange 2 (dxKey pcl t 0) 256 (raspRange 1 (routeKey pcl t 0 0) 1024 s)))

/-- Code of a hold that a difference in the through map's register array has raised, beside those of the stores (R115). -/
abbrev thrRegCode : Nat := 9

/-- A difference between the through map's register array and its store is handled as an uncorrectable route word (R115): the array is
loaded again from the store while the hold stands (reloadThrough). -/
def raspThrough (s : State) : State :=
  let bad := (List.range 9216).find? fun x => decide (s.errAt .thr x ≠ 2) && decide (smGet 0#16 s.arr.thr x ≠ smGet 0#16 s.arr.thrReg x) &&
    ([0, 1, 2, 3].any fun p => decide ((s.part p).st = .running) && natBit (s.part p).pmask (posPort x))
  match bad with
  | none => s
  | some x =>
    let p := (s.ownerOf 5 x).getD 0
    let s1 := logRec { cause := St.wordUncorr, sub := 0xF, sev := 2, part := p, loc := s.keyLoc 5 x } s
    raiseHold p St.wordUncorr (x * 16 + thrRegCode) s1

/-- The injection maps at step index t; the through registers are compared once per pass. -/
def raspMaps (t : Nat) (s : State) : State :=
  let s1 := raspRange 4 (injKey t 0) 9216 s
  if t = 0 then raspThrough (raspRange 5 0 9216 s1) else s1

/-- The step is free for Rasp at stores of a partition that are consulted up to step n (R68, R95, R421). -/
def State.freeFor (s : State) (p : Option Nat) (n : Partition → Nat) : Bool :=
  match p with
  | none => false
  | some q => !s.frameRuns q || decide (n (s.part q) ≤ s.relStep q)

/-- Rasp's engines run: the array clock is not gated (R404, R421). DEDUCED: R421 calls every step of a debug halt free and R456 stops Rasp in
it; the model follows R456, which names what stops (log entry 10). -/
def State.raspOn (s : State) : Bool := decide (s.pwr.dom = .run) && s.clk.pll && s.clk.halt.isNone && !s.clk.coast

/-- The slot of the engine that reads the exchange maps, which the first cluster's first slot brings; s is the state the slots began in. -/
def raspMapSlot (s t : State) : State :=
  if [0, 1, 2, 3].all fun q => decide ((s.part q).st = .empty) then raspGone 2100 t
  else if [0, 1, 2, 3].all fun q => s.freeFor (some q) (fun x => x.lastIndex + 1) then raspTurn 2100 1024 raspMaps t
  else t

/-- RASP_SLOT (R420): one slot of the group's engine; group 0 stands also for its cluster's table engine, group 0 of cluster 0 for the
engine of the system-exchange maps, and groups 0 to 11 for the micro-instruction engine of slice 12 pcl + grp (log entry 10). -/
def execRaspSlot (pcl : Fin 96) (grp : Fin 16) (s : State) : Res :=
  let p := s.partOf pcl.val
  let n := 12 * pcl.val + grp.val
  let d := s.partOfDie (n / 288)
  .next (if !s.raspOn then s
    else
      let s1 := if s.freeFor p (·.evalLen) then raspTurn (pcl.val * 16 + grp.val) 512 (raspWords pcl.val grp.val) s
        else if p = none then raspGone (pcl.val * 16 + grp.val) s else s
      let s2 := if grp.val = 0 ∧ s.freeFor p (fun x => x.lastIndex + 1) then raspTurn (2000 + pcl.val) 1024 (raspTables pcl.val) s1
        else if grp.val = 0 ∧ p = none then raspGone (2000 + pcl.val) s1 else s1
      let s3 := if pcl.val = 0 ∧ grp.val = 0 then raspMapSlot s s2 else s2
      let issues : Bool := match d with | some q => s.frameRuns q && decide (s.relStep q % 4 = 0) && s.scheduled n | none => true
      if grp.val < 12 ∧ !issues then raspTurn (3000 + n) 512 (fun j => raspRange uopCode (n * 1024 + j) 1) s3 else s3)

/-! ### Recovery (R424, R425) -/

/-- The recovery of partition p that is next: one begun, else one that a hold condition asks for. -/
def State.nextRecovery (s : State) (p : Nat) : Option (Nat × Nat × Nat) :=
  match s.arr.recovery.find? fun r => decide (r.2.2.2 = p) && decide (r.2.2.1 < 4) with
  | some r => some (r.1, r.2.1, r.2.2.1)
  | none =>
    ((s.part p).holds.find? fun h => decide (h.code = St.wordUncorr) && !h.resolved &&
      !s.arr.recovery.any fun r => decide (r.1 = h.unit % 16) && decide (r.2.1 = h.unit / 16)).map fun h => (h.unit % 16, h.unit / 16, 1)

/-- A recovery's stage set. -/
def setRecovery (p code key stage : Nat) (s : State) : State :=
  { s with arr := { s.arr with recovery := (s.arr.recovery.filter fun r => !(decide (r.1 = code) && decide (r.2.1 = key))) ++ [(code, key, stage, p)] } }

/-- A recovery ends with success: the hold it may have raised is resolved. -/
def endRecovery (p code key : Nat) (s : State) : State :=
  resolveHold p St.wordUncorr (key * 16 + code)
    { s with arr := { s.arr with recovery := s.arr.recovery.filter fun r => !(decide (r.1 = code) && decide (r.2.1 = key)) } }

/-- Content of a range of one store taken from another state. -/
def takeRange (code lo n : Nat) (t s : State) : State :=
  let inside := fun k : Nat => decide (lo ≤ k) && decide (k < lo + n)
  let a := s.arr
  let b := t.arr
  let s1 : State := match code with
    | 0 => { s with arr := { a with words := smPutAll 0 (smDrop inside a.words) (keysIn b.words lo n) } }
    | 1 => { s with arr := { a with routes := smPutAll 0x0FFF (smDrop inside a.routes) (keysIn b.routes lo n) } }
    | 2 => { s with arr := { a with dxexp := smPutAll 0 (smDrop inside a.dxexp) (keysIn b.dxexp lo n) } }
    | 3 => { s with arr := { a with sxexp := smPutAll 0 (smDrop inside a.sxexp) (keysIn b.sxexp lo n) } }
    | 4 => { s with arr := { a with inj := smPutAll 0 (smDrop inside a.inj) (keysIn b.inj lo n) } }
    | 5 =>
      let thr := smPutAll 0 (smDrop inside a.thr) (keysIn b.thr lo n)
      { s with arr := { a with thr := thr, thrReg := smPutAll 0 (smDrop inside a.thrReg) (keysIn b.thr lo n) } }
    | 6 => { s with arr := { a with ej := smPutAll 0 (smDrop inside a.ej) (keysIn b.ej lo n) } }
    | 7 => { s with arr := { a with mport := smPutAll 0 (smDrop inside a.mport) (keysIn b.mport lo n) } }
    | _ => s
  (List.range n).foldl (fun q i => q.setCheck code (lo + i) 0) s1

/-- The micro-instructions of a row, whose keys differ from those of their check status. -/
def takeUops (lo n : Nat) (t s : State) : State :=
  (List.range n).foldl (fun q i =>
    let k := (lo + i) / 1024 * 512 + (lo + i) % 1024
    ({ q with fab := { q.fab with uops := smSet 0#64 q.fab.uops k (smGet 0#64 t.fab.uops k) } } : State).setCheck uopCode (lo + i) 0) s

/-- A range of a store rewritten from the bytes of the loaded image, under the placement in force. -/
def rewriteFrom (p : Nat) (b : List Byte) (code lo n : Nat) (s : State) : State :=
  let x := s.part p
  let im := imageOf b
  let t := (writeImage { p := p, im := im, dies := dieMap im x.dies, pmap := x.pmap } s).2
  if code = uopCode then takeUops lo n t s else takeRange code lo n t s

/-- A cluster is retired (R425): at once, logged and recorded. -/
def retireCluster (pcl : Nat) (s : State) : State :=
  writeHealth (logRec { cause := St.unitRetired, sub := 0xF, sev := 4, loc := pcl * 1024 }
    { s with arr := { s.arr with retired := smSet 0 s.arr.retired pcl 2 } })

/-- No rewrite and no spare cured the entry: its cluster is retired and its work is to move; a slice becomes a candidate; an entry of
the base die's maps keeps its hold. -/
def giveUp (p code key : Nat) (s : State) : State :=
  match clusterOfKey code key with
  | some pcl => setRecovery p code key 3 (retireCluster pcl s)
  | none => setRecovery p code key 4 (if code = uopCode then candidateFabric (0x10000 + key / 1024) s else s)

/-- A failed read-back goes on to a spare row, or gives up (R424). -/
def escalate (p code key stage : Nat) (s : State) : State :=
  match spareUnit code key with
  | some (a, u) =>
    if stage = 1 ∧ 0 < s.sparesLeft a u false then setRecovery p code key 2 (softRepair code key false s)
    else giveUp p code key s
  | none => giveUp p code key s

/-- A rewrite reaches a store of partition p at this step (R68, R95, R420): a free step of its cluster, of every partition for the maps of
the base die, a step that is no issue step for a slice. -/
def State.freeStore (s : State) (p code key : Nat) : Bool :=
  if code = 0 then s.freeFor (some p) (·.evalLen)
  else if code = 4 ∨ code = 5 then [0, 1, 2, 3].all fun q => s.freeFor (some q) (fun x => x.lastIndex + 1)
  else if code = uopCode then !(s.frameRuns p && decide (s.relStep p % 4 = 0) && s.scheduled (key / 1024))
  else s.freeFor (some p) (fun x => x.lastIndex + 1)

/-- The register array of the through map is loaded from its store on the ports of a partition's mask (R115). -/
def reloadThrough (x : Partition) (s : State) : State :=
  let mine := fun k : Nat => natBit x.pmask (posPort k)
  { s with arr := { s.arr with thrReg := smPutAll 0#16 (smDrop mine s.arr.thrReg) (s.arr.thr.filter fun e => mine e.1 && decide (s.errAt .thr e.1 ≠ 2)) } }

/-- RECOVERY_READBACK (R67, R95, R424), at a step that the store's fetches leave free (R68): the image is read through the job space; the word, or its whole row once a spare serves it, is
rewritten and read back. A data error in the image ends the recovery and leaves the hold. -/
def execRecoveryReadback (part : Fin 4) (ok : Bool) (s : State) : Res :=
  let p := part.val
  let x := s.part p
  .next (match s.nextRecovery p with
    | none => s
    | some (code, key, stage) =>
      if code = thrRegCode then
        let s1 := if x.heldFrame.isSome then reloadThrough x s else s
        if x.heldFrame.isSome ∧ ok then endRecovery p code key s1 else s1
      else if stage = 3 ∨ x.st = .empty ∨ !s.freeStore p code key then s
      else match readJob (s.access x.jsid dmaMaster) x.laddr x.llen s with
        | (_, some f, s1) =>
          if f.cause = 7 then partEvent St.loadFault 0xF p [] (setRecovery p code key 4 s1)
          else postFault {
            seq := 0, src := 3, cause := f.cause, level := f.level, jsid := x.jsid, faddr := f.addr, elem := 0xFFFF, eng := 0xFF, count := 1
            done := f.done, frame := 0, part := p, wr := false, srcSide := true, resolved := false, abandoned := false } s1
        | (b, none, s1) =>
          let (lo, n) := if stage = 1 then (key, 1) else rowSpan code key
          let s2 := rewriteFrom p b code lo n s1
          if ok then endRecovery p code key s2 else escalate p code key stage s1)

/-- Lowest spare on a die that is neither retired nor a candidate, with the unused logical cluster it hosts. -/
def relocTarget (p die : Nat) (s : State) : Option (Nat × Nat) :=
  let x := s.part p
  match x.image with
  | none => none
  | some im => (List.range 24).findSome? fun i =>
      let t := 24 * die + i
      if smGet 0 s.arr.retired t ≠ 0 then none
      else match x.lclOf t with | some u => if lclUsed im u then none else some (t, u) | none => none

/-- L moves from P to T while the scope holds (R425). -/
def relocate (p src l t u : Nat) (k : FrameNo) (s : State) : State :=
  let g : Migration := { part := p, lcl := l, src := src, tgt := t, spareL := u, m := k, copied := true, switched := true, ctx := none }
  let s1 := [0, 1, 2, 3].foldl (fun a b => copyBank src t b a) (copyFromImage p g s)
  let s2 := moveEpoch p l 1 (swapHosts p l u s1)
  let s3 : State := { s2 with
    arr := { s2.arr with
      fwdUntil := s2.arr.fwdUntil.filter (fun w => decide (w.src / 24 ≠ t / 24)) ++ [{ part := p, src := src, m := k }]
      recovery := s2.arr.recovery.filter fun r => decide (clusterOfKey r.1 r.2.1 ≠ some src) }
    trust := { s2.trust with digestDue := true } }
  resolveHolds p (fun h => decide (h.code = St.wordUncorr) && decide (clusterOfKey (h.unit % 16) (h.unit / 16) = some src)) s3

/-- RECOVERY_RELOCATION (R425): it runs only while the scope holds; with no spare, or the mirror path held, MIGRATE_FAILED names L and
the hold persists. -/
def execRecoveryRelocation (part : Fin 4) (s : State) : Res :=
  let p := part.val
  let x := s.part p
  .next (match s.arr.recovery.find? fun r => decide (r.2.2.2 = p) && decide (r.2.2.1 = 3), x.heldFrame with
    | some (code, key, _, _), some (k, _) =>
      match clusterOfKey code key with
      | none => s
      | some src =>
        match x.lclOf src with
        | none => setRecovery p code key 4 s
        | some l =>
          match relocTarget p (src / 24) s, s.migration (src / 24) with
          | some (t, u), none => relocate p src l t u k s
          | _, _ => partEvent St.migrateFailed 0x2 p (migrateFailedData l 0xFF St.noSpare) (setRecovery p code key 4 s)
    | _, _ => s)

/-! ### Lifetime and the health record -/

/-- Bin of a junction reading in degrees (R434). -/
def lifeBin (t : Nat) : Nat := if t < 65 then 0 else if t < 75 then 1 else if t < 85 then 2 else if t < 95 then 3 else if t < 105 then 4 else 5

/-- LIFE_BIN_SAMPLE (R434): a second counts in the bin of the hottest reading; UNIT_CANDIDATE is written once LIFE_USED reaches
900,000. -/
def execLifeBinSample (reading : Nat) (s : State) : Res :=
  .next (
    let i := lifeBin reading
    let bins := (List.range 6).map fun j => s.binSecs j + bitNat (decide (j = i))
    let s1 : State := { s with pwr := { s.pwr with bins := bins } }
    if 900000 ≤ s1.lifeUsed ∧ !s1.pwr.lifeDone then
      logRec { cause := St.unitCandidate, sub := 0xF, sev := 5, loc := 0 } { s1 with pwr := { s1.pwr with lifeDone := true } }
    else s1)

/-- HEALTH_RECORD_WRITE (R427): the hourly copy. -/
def execHealthRecordWrite (s : State) : Res := .next (writeHealth s)

/-! ### Group 0x0A (R355) -/

/-- Engines of Rasp that read a loaded store. -/
def State.raspEngines (s : State) : List Nat :=
  let cls := (List.range 96).filter fun c => (s.partOf c).isSome
  cls.flatMap (fun c => (List.range 16).map fun g => c * 16 + g) ++ cls.map (· + 2000) ++ (if cls = [] then [] else [2100]) ++
    ((List.range 1152).filter fun n => (s.partOfDie (n / 288)).isSome).map (· + 3000)

/-- SCRUB: each engine finishes the pass in progress and one more. -/
def startScrub (c : CmdCtx) (s : State) : State :=
  let l := s.raspEngines
  let s1 := reply c 0x0A01 St.accepted [] s
  if l = [] then complete c St.ok [] s1
  else startAct 1 0 (some c) { s1 with arr := { s1.arr with raspLeft := l ++ l.filter fun e => decide (smGet 0 s.arr.rasp e ≠ 0) } }

/-- DRAM PATROL: a pass of every channel of the mask, each from its first line. -/
def startPatrol (c : CmdCtx) (mask : Nat) (s : State) : State :=
  let chs := onesOf mask 8
  let s1 := chs.foldl (fun a ch => startAct 2 ch (some c) { a with dram := { a.dram with patrol := smSet 0 a.dram.patrol ch 0 } }) (reply c 0x0A01 St.accepted [] s)
  { s1 with dram := { s1.dram with patrolMask := s1.dram.patrolMask ||| BitVec.ofNat 8 mask } }

/-- CALIBRATE holds until the oscillator is trimmed, when the lanes are compared as well (log entry 11). -/
def startRecal (c : CmdCtx) (s : State) : State := startAct 8 0 (some c) (reply c 0x0A01 St.accepted [] s)

/-- The completion of a command is withdrawn (R422). -/
def withdraw (c : Option CmdCtx) (s : State) : State :=
  { s with plinth := { s.plinth with open_ := s.plinth.open_.filter fun w => decide (some w.ctx ≠ c) } }

/-- Objects a MAINT.START of this activity would hold. -/
def maintObjects (act mask : Nat) : List Nat := if act = 2 then onesOf mask 8 else [0]

/-- MAINT.START (R355, R422). -/
def execMaintStart (c : CmdCtx) (act : Byte) (rsvd : BitVec 24) (param : U64) (s : State) : Res :=
  .next (immediate .p 0x0A01 c (fun s =>
    let a := act.toNat
    if rsvd ≠ 0 ∨ !(a = 1 ∨ a = 2 ∨ a = 8) ∨ (a ≠ 2 ∧ param ≠ 0) ∨ (a = 2 ∧ (param = 0 ∨ 256 ≤ param.toNat)) then reply c 0x0A01 St.argRange [] s
    else if a = 2 ∧ s.memGone then reply c 0x0A01 St.memUnavailable [] s
    else match (maintObjects a param.toNat).findSome? (fun o => s.blocker a o) with
      | some h => busyReply c 0x0A01 h s
      | none => if a = 1 then startScrub c s else if a = 2 then startPatrol c param.toNat s else startRecal c s) s)

/-- MAINT.STOP: the activity ends; Rasp and the patrol go on (R240, R422). The completion of a SCRUB is withdrawn (R422). DESIGN CHOICE: a DRAM
PATROL or CALIBRATE, whose pass ends here, completes with OK, as R335 gives every accepted command its completion (log entry 11). -/
def execMaintStop (c : CmdCtx) (act : Byte) (rsvd : BitVec 24) (s : State) : Res :=
  .next (immediate .p 0x0A02 c (fun s =>
    let a := act.toNat
    if rsvd ≠ 0 ∨ !(a = 1 ∨ a = 2 ∨ a = 8) then reply c 0x0A02 St.argRange [] s
    else
      let mine := s.maint.filter fun h => decide (h.act = a) && h.ctx.isSome
      if mine = [] then reply c 0x0A02 St.wrongState [] s
      else
        let s1 := mine.foldl (fun t h => finishAct h.act h.obj (if a = 1 then withdraw h.ctx t else completeOpt h.ctx St.ok [] t)) s
        let s2 : State := if a = 1 then { s1 with arr := { s1.arr with raspLeft := [] } }
          else if a = 2 then { s1 with dram := { s1.dram with patrolMask := 0 } } else s1
        reply c 0x0A02 St.ok [] s2) s)

/-- Result of MAINT.STATUS (Table 16.11). -/
def maintData (s : State) : List Byte :=
  leBytes 1 s.maint.length ++ zeros 3 ++ s.maint.flatMap fun h =>
    leBytes 1 h.act ++ zeros 1 ++ leBytes 2 h.tag.toNat ++ leBytes 2 h.src ++ zeros 2 ++ leBytes 8 h.progress

/-- MAINT.STATUS. -/
def execMaintStatus (c : CmdCtx) (s : State) : Res :=
  .next (immediate .a 0x0A03 c (fun s => reply c 0x0A03 St.ok (maintData s) s) s)

end Sys2Proof.Machine
end

