-- ==== Sys2Proof/Machine/Reset.lean ====
section
/-!
DEFINITION. Reset.lean: what a device reset, a loss of rails and the retention of Deep sleep leave (R282, R405, R483), and the
boot: slot selection (R446 to R449), measurements (Table 21.1), the board's tables, DRAM and the health record.
-/
namespace Sys2Proof.Machine

/-! ### What is left -/

/-- A PCIe function after a device reset that is no PCI Express reset (R478): its MSI-X masks and its D state stand. -/
def keepPcie (f : Func) : Func := {
  ({} : Func) with v0 := { masked := f.v0.masked }, v1 := { masked := f.v1.masked }, v2 := { masked := f.v2.masked }, d3hot := f.d3hot }

/-- What the endpoint's configuration space keeps of the SR-IOV settings. -/
def keepVfs (a : Armature) : Armature := { numVfs := a.numVfs, vfEnable := a.vfEnable }

/-- Debug port after PD_DBG has lost its level only: the TAP and the count of failed responses stand until DBG_RST_N (R452, R453). -/
def dropDebug (d : DebugPort) : DebugPort := { ir := d.ir, fails := d.fails, lockout := d.lockout, rstHigh := d.rstHigh }

/-- PD_AON through a device reset: Watch settings, boot flags, the lifetime bins of the health record, the rails and pins. -/
def keepPower (p : Power) : Power := {
  wPeriod := p.wPeriod, wChk := p.wChk, wSensors := p.wSensors, railFlag := p.railFlag, tripFlag := p.tripFlag, retained := p.retained
  bins := p.bins, lifeDone := p.lifeDone, pwrOk := p.pwrOk }

/-- The flash as the boot ROM finds it: a verification that ran has ended without its word (Table 21.5). -/
def keepFlash (f : Firmware) : Firmware := { f with verify := none }

/-- The device after a reset with a cause code (Table 23.4): flash, fuses, the health record with what it retires, the trim code and
what PD_AON keeps stand; everything else has its reset value, keys and DRAM among it (R282, R483). -/
def cold (cause : Nat) (pcie : Bool) (s : State) : State := {
  State.reset with
  ident := s.ident
  pwr := keepPower s.pwr
  clk := { now := s.clk.now, trim := s.clk.trim }
  plinth := { rstCause := BitVec.ofNat 4 cause, bootAt := s.clk.now }
  fns := if pcie then [] else (List.range 16).foldl (fun m n => smSet {} m n (keepPcie (s.fn n))) []
  dbg := dropDebug s.dbg
  arm := if pcie then {} else keepVfs s.arm
  arr := { retired := s.arr.retired, spares := s.arr.spares }
  fab := { retired := s.fab.retired }
  dram := { rankRetired := s.dram.rankRetired }
  maint := s.maint.filter fun h => decide (h.act = 10)
  fw := keepFlash s.fw
  health := s.health
  out := s.out
  free := s.free
  pending := s.pending }

/-- Off, reached with every rail but VAON disabled (R405, Table 12.5): contents, keys and partitions are lost, and the device boots
only after a wake. -/
def lostRails (s : State) : State :=
  let r := cold s.plinth.rstCause.toNat true s
  { r with
    pwr := { r.pwr with st := .off, dom := .off, rails := 1, taken := stepsOf .off }
    plinth := { r.plinth with bootDue := false }
    dbg := { rstHigh := s.dbg.rstHigh } }

/-- PMBus OPERATION off to the rails of a mask, in reverse order (R481, R491). -/
def railsOff (mask : Nat) (s : State) : State := ((onesOf mask 8).reverse).foldl (fun a i => a.emit (.pmbus (i + 1) false)) s

/-- An uncontrolled or ordered loss of every rail but VAON, with the regulators told to stop. -/
def dropRails (s : State) : State := lostRails (railsOff (s.pwr.rails.toNat - s.pwr.rails.toNat % 2) s)

/-- Digest over the component digests of the running image, which Deep sleep retains (R440). -/
def State.imageSum (s : State) : BitVec 384 := Config.sha384 ([1, 2, 3, 4, 5].flatMap fun k => leBytes 48 (smGet 0#384 s.trust.comp k).toNat)

/-- Lanes keep nothing but their board entries when PD_SER and PD_PLINTH are off. -/
def bareLanes (l : SMap Lane) : SMap Lane := l.foldl (fun m e => smSet {} m e.1 { ({} : Lane) with eqEntry := e.2.eqEntry, ctle := e.2.ctle, vga := e.2.vga, taps := e.2.taps }) []

/-- Deep sleep or Watch, reached (Table 19.2): what PD_AON, the DRAM in self-refresh and the endpoint's retention hold stands; the
rest of the device is unpowered. -/
def enterDeep (target : PwrState) (s : State) : State := {
  s with
  pwr := { s.pwr with st := target, dom := target, woken := [], retained := s.imageSum, wEntry := s.clk.now, wDone := 0 }
  clk := { now := s.clk.now, trim := s.clk.trim }
  plinth := { s.plinth with ready0 := false, ready1 := false, selfTest := false }
  links := s.links.map fun e => (e.1, { e.2 with sync := false, up := false })
  lanes := bareLanes s.lanes
  blinks := []
  dbg := { rstHigh := s.dbg.rstHigh }
  arr := { retired := s.arr.retired, spares := s.arr.spares }
  fab := { retired := s.fab.retired }
  noc := { cyc := s.noc.cyc, ctr := s.noc.ctr, snap := s.noc.snap, snapStep := s.noc.snapStep }
  maint := s.maint.filter fun h => decide (h.act = 2) || decide (h.act = 3) || decide (9 ≤ h.act)
  logs := { s.logs with recs := [] } }

/-! ### Boot selection (R446 to R449) -/

/-- State word of a slot, A or B. -/
def Firmware.word (f : Firmware) (slot : Bool) : Nat := if slot then f.stB else f.stA
/-- State word of a slot written. -/
def Firmware.setWord (f : Firmware) (slot : Bool) (v : Nat) : Firmware :=
  if slot then { f with stB := v, verB := if v = 0 then 0 else f.verB } else { f with stA := v, verA := if v = 0 then 0 else f.verA }

/-- An image passes the boot ROM's check, its VER at or above FLOOR (R446). -/
def State.imageOk (s : State) (i : SlotImage) : Bool :=
  i.valid && decide (i.target = 0x9616) && i.bics.contains s.ident.bic && decide (s.fw.floor.toNat ≤ i.ver.toNat)

/-- A selector record is written (R442). -/
def Firmware.select (f : Firmware) (slot : Bool) (boots : Nat) : Firmware := { f with selSeq := f.selSeq + 1, selTry := slot, boots := boots }

/-- A cause for an event to which the spec gives none: a free one of the event codes of Table 15.6, 0x0320 to 0x0356 (R339, log entry 4). -/
def State.drawCode (s : State) : Nat × State := (0x0320 + (s.draw 16).1.toNat % 55, (s.draw 16).2)

/-- A fallback to the confirmed slot (R446, R447): the selector names it, the update ends, the device logs it and posts it to the host. -/
def fallback (s : State) : State :=
  let f := s.fw.select s.fw.conf 0
  let (cause, s1) := ({ s with fw := { f with update := false, activated := false, trial := false } } : State).drawCode
  logEvent { cause := cause, sub := 0xB, sev := 5 } none [] (endAct 10 0 s1)

/-- A slot that is not the one to run and is staging, or staged with a failing image, is erased and its update ends (Table 21.5). -/
def discardSlot (slot : Bool) (i : SlotImage) (s : State) : State :=
  if s.fw.word slot = 1 ∨ (s.fw.word slot = 2 ∧ !s.imageOk i) then
    endAct 10 0 { s with fw := { s.fw.setWord slot 0 with update := false, activated := false } }
  else s

/-- The slot that the boot ROM selects, on trial or not; none when neither passes (R446 to R448). -/
def selectSlot (a b : SlotImage) (s : State) : Option (Bool × Bool) × State :=
  let img := fun x : Bool => if x then b else a
  let conf := s.fw.conf
  let try_ := s.fw.selTry
  let confirmed := fun t : State =>
    if t.imageOk (img conf) then (some (conf, false), discardSlot (!conf) (img !conf) t)
    else if t.fw.word (!conf) = 2 ∧ t.imageOk (img !conf) then
      let (cause, t1) := t.drawCode
      (some (!conf, false), logEvent { cause := cause, sub := 0xB, sev := 5 } none [] t1)
    else (none, t)
  if try_ ≠ conf ∧ s.fw.boots < 3 ∧ s.fw.word try_ = 2 then
    let s1 : State := { s with fw := s.fw.select try_ (s.fw.boots + 1) }
    if s1.imageOk (img try_) then (some (try_, true), s1) else confirmed (fallback s1)
  else confirmed (if try_ ≠ conf then fallback s else s)

/-! ### Measured boot (Table 21.1) -/

/-- Description of a component: identifier and VER (Table 21.2); the identifiers are free values (log entry 4). -/
def measureComp (reg k : Nat) (ver : U32) (d : BitVec 384) (s : State) : State :=
  let (id, s1) := s.draw 32
  extendMr reg 1 d (leBytes 4 id.toNat ++ leBytes 4 ver.toNat) { s1 with trust := { s1.trust with comp := smSet 0#384 s1.trust.comp k d } }

/-- The registers are rebuilt and take the boot's extensions, each before its stage runs (R438, Table 21.1). -/
def measureBoot (i : SlotImage) (s : State) : State :=
  let s0 : State := { s with trust := {} }
  let s1 := extendFree 0 2 [] (measureComp 0 1 i.ver i.loader s0)
  let s2 := extendFree 5 2 [] (extendFree 5 2 [] (extendFree 5 3 [] s1))
  measureComp 4 5 i.ver i.engine (measureComp 3 4 i.ver i.quadMgr (measureComp 2 3 i.ver i.pair1 (measureComp 1 2 i.ver i.pair0 s2)))

/-- The configuration digest after a boot covers its measurements (R170). -/
def freshDigest (s : State) : State := { s with trust := { s.trust with digest := configDigest s, digestDue := false } }

/-- The slot runs (R446). -/
def runSlot (slot trial : Bool) (i : SlotImage) (s : State) : State :=
  let s1 := freshDigest (measureBoot i s)
  { s1 with fw := { s1.fw with slot := slot, trial := trial, ver := i.ver, floorSet := i.floorSet } }

/-- Recovery mode (R449): FAULT_N, MR0 with the boot ROM's own recovery code, and the packet interface of R449. -/
def enterRecovery (s : State) : State :=
  let s1 := extendFree 0 1 [] { s with trust := {} }
  assertFault 0 { s1 with
    plinth := { s1.plinth with recovery := true, ready0 := true, ready1 := true }
    fw := { s1.fw with trial := false } }

/-! ### The board at boot -/

/-- A board equalisation entry (Table 6.7) is applied to a pendant or control lane. -/
def applyEq (n : Nat) (e : U32) (s : State) : State :=
  let dfe := e.extractLsb' 0 8
  s.setLane n { s.lane n with
    eqEntry := e, ctle := (e.extractLsb' 12 4).setWidth 8, vga := (e.extractLsb' 8 4).setWidth 8
    taps := if dfe = 0 then [] else dfe :: List.replicate 11 0#8 }

/-- The board's table is good (R140): 16 entries with RSVD 0, and the CRC-32 over their 64 bytes. -/
def tableGood (l : List U32) (crc : U32) : Bool :=
  decide (l.length = 16) && decide (crc.toNat = crc32 (l.flatMap fun e => leBytes 4 e.toNat)) && l.all fun e => decide (e.extractLsb' 30 2 = 0)

/-- A control lane's receiver is enabled: it hunts (R140, Table 6.8). -/
def enableLane (s : State) (n : Nat) : State := if (s.lane n).st = .off then s.setLane n { s.lane n with st := .hunt, since := s.clk.now } else s

/-- The equalisation table (R140): 16 entries, pendant lanes then control lanes; without a good one every lane has the default of Table
6.7, and EQ_TABLE_DEFAULT is logged. Then the control lanes' receivers are enabled. -/
def applyTable (t : Option (List U32 × U32)) (s : State) : State :=
  let all := fun (f : Nat → U32) (s : State) => (List.range 16).foldl (fun a i => applyEq (128 + i) (f i) a) s
  let plain := fun s : State => logRec { cause := St.eqTableDefault, sub := 0x4, sev := 5 } (all (fun _ => 0x30246800#32) s)
  let s1 := match t with
    | some (l, crc) => if tableGood l crc then all (nth 0x30246800#32 l) s else plain s
    | none => plain s
  ((List.range 8).map (136 + ·)).foldl enableLane s1

/-- DIMM of a slot. -/
def slotDimm (dimms : List (Option Dimm)) (slot : Nat) : Option Dimm := (dimms[slot]?).join
/-- DIMMs of a channel. -/
def dimmCount (dimms : List (Option Dimm)) (ch : Nat) : Nat := bitNat (slotDimm dimms (2 * ch)).isSome + bitNat (slotDimm dimms (2 * ch + 1)).isSome

/-- A slot keeps a rule of Table 10.5, its rows numbered from 1: module, data rate, DIMMs per channel, ranks per DIMM, capacity,
uniformity, thermal sensor. -/
def slotKeeps (dimms : List (Option Dimm)) (rule slot : Nat) : Bool :=
  let n := dimmCount dimms (slot / 2)
  match rule, slotDimm dimms slot with
  | 3, _ => decide (1 ≤ n) && decide (n = dimmCount dimms 0)
  | _, none => true
  | 1, some d => d.rdimm
  | 2, some d => decide (6400 ≤ d.rate)
  | 4, some d => decide (d.ranks = 1) || decide (d.ranks = 2)
  | 5, some d => decide (16 ≤ d.gib) && decide (d.gib ≤ 128)
  | 6, some d => match dimms.findSome? id with
    | some e => decide (d.gib = e.gib) && decide (d.ranks = e.ranks) && decide (d.density = e.density)
    | none => true
  | 7, some d => d.sensor
  | _, some _ => true

/-- The first slot, in the order of the rules, that breaks one (R232). DESIGN CHOICE: the rules carry their row of Table 10.5 as their
number, to which the spec gives none (log entry 72). -/
def populationFault (dimms : List (Option Dimm)) : Option (Nat × Nat) :=
  (List.range 7).findSome? fun i => ((List.range 16).find? fun slot => !slotKeeps dimms (i + 1) slot).map fun slot => (slot, i + 1)

/-- Ranks of a channel and lines of a rank in a good population. -/
def populationRanks (dimms : List (Option Dimm)) : Nat × Nat :=
  match dimms.findSome? id with
  | some d => (dimmCount dimms 0 * d.ranks, d.gib * 2 ^ 24 / d.ranks)
  | none => (0, 0)

/-- Usable lines of a population: 16/19 of the lines outside the spare ranks (R233, R267). -/
def usableLines (ranks lines : Nat) : Nat := 8 * (if 2 ≤ ranks then ranks - 1 else ranks) * lines * 16 / 19

/-- DRAM is initialised with a new device key, and ranks the health record retires give way to their spares (R232, R268, R270, R428);
a population that breaks a rule initialises no channel and is reported. -/
def bootDram (b : BoardBoot) (s : State) : State :=
  match populationFault b.dimms with
  | some (slot, rule) =>
    logEvent { cause := St.memPopulation, sub := 0x7, sev := 5, loc := slot, detail := rule } none (leBytes 1 slot ++ leBytes 1 rule)
      { s with dram := { rankRetired := s.dram.rankRetired } }
  | none =>
    let (key, s1) := s.draw 256
    let (ranks, lines) := populationRanks b.dimms
    let spares := (List.range 8).foldl (fun m ch =>
      if 2 ≤ ranks ∧ (List.range 4).any (fun r => smGet false s1.dram.rankRetired (ch * 4 + r)) then smSet 0 m ch 1 else m) []
    let s2 : State := { s1 with dram := {
      ok := true, usable := usableLines ranks lines, ranks := ranks, rankLines := lines
      rankRetired := s1.dram.rankRetired, spare := spares } }
    s2.setSlot 0 { st := .loaded, key := key }

/-- Candidates of a store become retired, each with its record (R428). -/
def retireCandidates (m : SMap Nat) (unit : Nat) (s : State) : State :=
  (m.filter fun e => decide (e.2 = 1)).foldl (fun a e => writeHealth (logRec { cause := St.unitRetired, sub := 0xF, sev := 4, loc := e.1 * unit } a)) s

/-- The health record at start-up (R427, R428): one of another part is discarded and started afresh; else its candidates are retired. -/
def bootHealth (serial : Option (BitVec 128)) (s : State) : State :=
  if serial = some s.ident.serial then
    let s1 := retireCandidates s.fab.retired 1 (retireCandidates s.arr.retired 1024 s)
    { s1 with
      arr := { s1.arr with retired := s1.arr.retired.map fun e => (e.1, 2) }
      fab := { s1.fab with retired := s1.fab.retired.map fun e => (e.1, 2) } }
  else
    let s1 : State := { s with
      health := {}
      arr := { s.arr with retired := [], spares := [] }
      fab := { s.fab with retired := [] }
      dram := { s.dram with rankRetired := [] }
      pwr := { s.pwr with bins := [], lifeDone := false } }
    if serial.isSome then logRec { cause := St.healthReset, sub := 0xF, sev := 5 } s1 else s1

/-- The flags that PD_AON held for the log (R482, R491). -/
def bootFlags (s : State) : State :=
  let s1 := if s.pwr.railFlag then logRec { cause := St.railRange, sub := 0xE, sev := 3 } s else s
  let s2 := if s.pwr.tripFlag then logRec { cause := St.thermalTrip, sub := 0xE, sev := 5 } s1 else s1
  { s2 with pwr := { s2.pwr with railFlag := false, tripFlag := false } }

/-- A boot that selects a slot (R446), with the board's tables, the health record and DRAM. -/
def bootSelect (a b : SlotImage) (board : BoardBoot) (s : State) : State :=
  let s1 := bootFlags (bootDram board (bootHealth board.healthSerial (applyTable board.eqTable s)))
  match selectSlot a b s1 with
  | (some (slot, trial), s2) => runSlot slot trial (if slot then b else a) s2
  | (none, s2) => enterRecovery s2

/-- A wake from Deep sleep or Watch reloads the running slot; when its digest is not the retained one, the boot is one from RST_N (R440). -/
def bootWake (a b : SlotImage) (board : BoardBoot) (s : State) : State :=
  let s1 := freshDigest <| measureBoot (if s.fw.slot then b else a) (bootFlags (applyTable board.eqTable s))
  if s1.imageSum = s.pwr.retained then s1
  else
    let r := cold 2 false s
    bootSelect a b board { r with plinth := { r.plinth with bootDue := false } }

/-- BOOT (R446, R440): the device has left reset, no oscillator delay runs, and it has not booted since. -/
def execBoot (slotA slotB : SlotImage) (board : BoardBoot) (s : State) : Res :=
  .next (if !s.plinth.bootDue ∨ s.clk.oscStart.isSome then s
    else
      let s1 : State := { s with plinth := { s.plinth with bootDue := false, bootAt := s.clk.now, selfTest := false, recovery := false } }
      if s.plinth.rstCause = 4 then bootWake slotA slotB board s1
      else bootSelect slotA slotB board s1)

/-- SELF_TEST_DONE (R447): both pairs report ready. -/
def execSelfTestDone (s : State) : Res :=
  .next (if s.plinth.bootDue ∨ s.plinth.selfTest ∨ s.plinth.recovery then s
    else { s with plinth := { s.plinth with selfTest := true, ready0 := true, ready1 := true } })

/-- A trial boot has failed (R447): the selector names the confirmed slot, and the boot ROM boots it next. -/
def failTrial (s : State) : State :=
  let s1 := fallback s
  { s1 with plinth := { s1.plinth with bootDue := true, ready0 := false, ready1 := false }, fw := { s1.fw with slot := s1.fw.conf } }

/-- TRIAL_SELF_TEST_TIMEOUT (R447): 5 s from the start of the loader without the end of self-test. -/
def execTrialSelfTestTimeout (s : State) : Res :=
  .next (if s.fw.trial ∧ !s.plinth.bootDue ∧ !s.plinth.selfTest ∧ s.plinth.bootAt + usSteps 5000000 ≤ s.clk.now then failTrial s else s)

/-! ### Reset pins (R483, R394) -/

/-- RST_N (R483): a device reset, with PEND_SIDE latched at its release; with the rails off the device stays in Off. -/
def execRstN (pendSide : Bool) (s : State) : Res :=
  .next (
    let s1 : State := { s with ident := { s.ident with pendSide := pendSide } }
    let r := cold 2 false s1
    if s.pwr.rails = 0xFF#8 then { r with clk := { r.clk with oscStart := s.clk.oscStart } } else dropRails s1)

/-- Steps of the oscillator start delay (Table 18.2): 0.1 ms doubled by each increment of the strap code. -/
def oscDelay (d : BitVec 3) : Nat := usSteps 100 * 2 ^ d.toNat

/-- PWR_OK_RISE (R483, R394): the straps are latched and, where the always-on domain is to leave reset, its delay starts. A wake from
Deep sleep or Watch has the domain running. -/
def execPwrOkRise (oscDly : BitVec 3) (s : State) : Res :=
  .next (
    let s1 : State := { s with ident := { s.ident with oscDly := oscDly }, pwr := { s.pwr with pwrOk := true } }
    if s.pwr.st = .deep ∨ s.pwr.st = .watch then s1
    else { s1 with clk := { s1.clk with oscStart := some (s.clk.now + oscDelay oscDly) } })

/-- OSC_DLY_EXPIRY (R394, R483): the oscillator starts and the always-on domain leaves reset; outside a wake from Off the device boots as
from power-on. -/
def execOscDlyExpiry (s : State) : Res :=
  .next (if s.clk.oscStart.isNone then s
    else
      let s1 : State := { s with clk := { s.clk with oscStart := none } }
      if s.pwr.trans.isSome then s1 else cold 1 true s1)

/-- PWR_OK_FALL (R482, Table 12.5): while a RAILS step runs it is the board's answer to that step; else the rails are lost. In Off VAON
is lost with them, and PD_AON with its trim code and Watch settings. -/
def execPwrOkFall (s : State) : Res :=
  .next (
    let s1 : State := { s with pwr := { s.pwr with pwrOk := false } }
    let railing : Bool := match s.pwr.trans with | some t => decide (t.steps.head? = some .rails) | none => false
    if railing then s1
    else if s.pwr.st = .off then
      let s2 := lostRails s1
      { s2 with
        pwr := { s2.pwr with wPeriod := 1000, wChk := 0, wSensors := [], railFlag := false, tripFlag := false, retained := 0 }
        clk := { s2.clk with trim := 512 } }
    else lostRails s1)

end Sys2Proof.Machine
end

