-- ==== Sys2Proof/Machine/PowerEvents.lean ====
section
/-!
DEFINITION. PowerEvents.lean: power transitions as their steps end (R408 to R410), domains woken on demand (R407), Watch (R412, R413),
the rail sequencer (R481, R482), telemetry (R487) and the thermal limits (R491).
-/
namespace Sys2Proof.Machine

/-! ### The rail sequencer (R481, R482) -/

/-- The sequencer enables the lowest step of Table 24.2 that is off; with none left it has ended. -/
def nextRail (s : State) : State :=
  match (List.range 8).find? fun i => !s.pwr.rails.getLsbD i with
  | some i =>
    ({ s with pwr := { s.pwr with rails := s.pwr.rails ||| BitVec.ofNat 8 (2 ^ i), railStep := some (i + 1), railAt := s.clk.now } } : State).emit (.pmbus (i + 1) true)
  | none => { s with pwr := { s.pwr with railStep := none } }

/-- A wake to Sleep starts the rail sequencer, and after it the exit steps of R408. -/
def startWake (s : State) : State :=
  let t : Transition := { target := .sleep, entering := false, steps := [.rails, .domains], ctx := none, redirect := none, woken := false }
  nextRail { s with pwr := { s.pwr with trans := some t } }

/-- RAIL_SEQUENCE_STEP (R481): with the rails enabled so far in tolerance, the next ones are enabled. -/
def execRailSequenceStep (railsInTolerance : Bool) (s : State) : Res :=
  .next (if s.pwr.railStep.isSome ∧ railsInTolerance then nextRail s else s)

/-- RAIL_POWER_GOOD_TIMEOUT (R482): no POWER_GOOD within 5 ms: the rails go off again, FAULT_N asserts, the device is in Off with its
flag set. -/
def execRailPowerGoodTimeout (s : State) : Res :=
  .next (if s.pwr.railStep.isSome ∧ s.pwr.railAt + usSteps 5000 ≤ s.clk.now then
      let s1 := assertFault St.railRange (dropRails s)
      { s1 with pwr := { s1.pwr with railFlag := true } }
    else s)

/-! ### Transition steps (R408, Table 19.3) -/

/-- The partition has nothing left that QUIESCE waits for (R405, Table 19.3). -/
def quietPart (target : PwrState) (x : Partition) : Bool :=
  if x.st ≠ .running then true
  else if target = .off then x.phase = .stopped || x.phase = .paused || x.phase = .held || x.phase = .withheld
  else x.phase = .paused && x.sampled.isEmpty

/-- QUIESCE may end: DMA lists are finished or suspended, no slot is FLUSHING, no Cast is being captured (R464), and the executed frames are committed; on the way to Off
what is not yet beyond replay is discarded instead (Table 19.3, R405). -/
def State.quiet (s : State) (target : PwrState) : Bool :=
  ((List.range 16).all fun e => match s.lists e with | [] => true | l :: _ => l.suspended) &&
    ((List.range 64).all fun k => decide ((s.slot k).st ≠ .flushing)) &&
    ([0, 1, 2, 3].all fun p => quietPart target (s.part p) && !(match (s.part p).cast with | some a => a.capturing | none => false)) && s.dram.draining.isEmpty && (decide (target = .off) || s.dram.commits.isEmpty)

/-- The step in progress may end: an exit DOMAINS with the PLL locked, where the target runs it, and the counter of an assigned device
reassigned when it was lost (Table 19.3). -/
def State.stepDone (s : State) (t : Transition) (k : TStep) : Bool :=
  if t.entering then
    match k with
    | .quiesce => s.quiet t.target
    | .memory => s.dram.merge.isEmpty && s.dram.draining.isEmpty
    | _ => true
  else
    match k with
    | .rails => s.pwr.railStep.isNone && decide (s.pwr.rails = 0xFF#8) && s.pwr.pwrOk && s.clk.oscStart.isNone
    | .domains => (decide (t.target = .sleep) || s.clk.pll) && (s.clk.counterOk || !s.arm.assigned)
    | _ => true

/-- Block lanes in PD_SER go off (Table 19.2, R414). -/
def serOff (s : State) : State := (List.range 136).foldl (fun a n => if (a.lane n).st = .off then a else moveLane n .off a) s

/-- Cast shadows are dropped on the way to Deep sleep, Watch or Off. -/
def dropShadows (s : State) : State := eachPart (fun p a => let x := a.part p; a.setPart p { x with shadow := none }) s

/-- Key loads whose commit bit is not set never took effect (Table 12.5). -/
def dropKeyLoads (s : State) : State := { s with keys := { s.keys with slots := (s.keys.slots.map fun e => (e.1, { e.2 with shadow := none })).filter fun e => decide (e.2 ≠ {}) } }

/-- Rails that a state keeps on (Table 19.1): bits by step of Table 24.2. -/
def keptRails (target : PwrState) (chk : Byte) : Nat :=
  match target with
  | .off => 1
  | .watch => if chk.getLsbD 1 then 1 + 2 + 16 + 32 + 64 else 1 + 64
  | .deep => 1 + 64
  | _ => 255

/-- The device's RAILS entry: regulators are told to stop, links go down, and the state is reached. -/
def enterRails (target : PwrState) (s : State) : State :=
  let keep := keptRails target s.pwr.wChk
  let s1 := railsOff (maskOf ((List.range 8).filter fun i => s.pwr.rails.getLsbD i && !natBit keep i)) s
  if target = .off then
    let r := lostRails s1
    { r with pwr := { r.pwr with trans := s.pwr.trans } }
  else enterDeep target { s1 with pwr := { s1.pwr with rails := s1.pwr.rails &&& BitVec.ofNat 8 keep } }

/-- What the end of an entry step leaves (Table 19.3). -/
def entryEffect (target : PwrState) (k : TStep) (s : State) : State :=
  match k with
  | .quiesce => if target = .off then { s with dram := { s.dram with commits := [] } } else s
  | .clock => { s with pwr := { s.pwr with dom := .idle } }
  | .memory => { s with dram := { s.dram with selfRefresh := true } }
  | .domains =>
    let s1 := serOff { s with pwr := { s.pwr with dom := if target = .sleep then .sleep else target }, clk := { s.clk with pll := false } }
    dropKeyLoads (if target = .sleep then s1 else dropShadows s1)
  | .rails => enterRails target s

/-- Page histories after self-refresh (R234). -/
def resetHistories (s : State) : State :=
  { s with dram := { s.dram with selfRefresh := false, banks := s.dram.banks.map fun e => (e.1, { e.2 with hist := 0xFF#8, row := none, last := none }) } }

/-- What the end of an exit step leaves: after RAILS the device has left reset and boots (R410, R440). -/
def exitEffect (target : PwrState) (k : TStep) (s : State) : State :=
  match k with
  | .rails =>
    if s.pwr.st = .off then
      let r := cold 3 true s
      { r with pwr := { r.pwr with st := .off, dom := .off, trans := s.pwr.trans, taken := s.pwr.taken } }
    else { s with plinth := { s.plinth with bootDue := true, rstCause := 4 } }
  | .domains =>
    if target = .sleep then { s with pwr := { s.pwr with dom := .sleep, woken := [] } }
    else
      let s1 : State := { s with pwr := { s.pwr with dom := .idle, woken := [] } }
      if s1.arm.assigned then bringUpLanes s1 else s1
  | .memory => resetHistories s
  | .clock => { s with pwr := { s.pwr with dom := .run } }
  | .quiesce => s

/-- Result of PWR.SET's completion: STATE and RSVD. -/
def pwrData (v : PwrState) : List Byte := leBytes 1 (pwrCode v) ++ zeros 1

/-- The transition goes on with other steps. -/
def setTrans (t : Option Transition) (s : State) : State := { s with pwr := { s.pwr with trans := t } }

/-- The state of the last step is reached: the command completes, and a wake that waited is acted on (R408, R410). -/
def reachState (t : Transition) (s : State) : State :=
  let s1 := completeOpt t.ctx St.ok (pwrData t.target) (setTrans none { s with pwr := { s.pwr with st := t.target } })
  if t.target = .off ∧ t.woken then startWake s1 else s1

/-- The steps towards a redirected target (R409): the first command completes with PWR_BUSY and the state the device stands in. Sleep, to
which WAKE_N leads (R410), is entered by what is left of its entry steps when the device has not come so far. -/
def redirect (t : Transition) (target : PwrState) (c : Option CmdCtx) (s : State) : State :=
  let s1 := completeOpt t.ctx St.pwrBusy (pwrData s.pwr.st) s
  let entering := decide (target = .off) || (decide (target = .sleep) && !s1.pwr.taken.contains .domains)
  let steps := if entering then entrySteps s1.pwr.taken target else exitSteps s1.pwr.taken target
  let n : Transition := { target := target, entering := entering, steps := steps, ctx := c, redirect := none, woken := entering && t.woken }
  if steps.isEmpty then reachState n s1
  else if steps.head? = some .rails ∧ !entering then nextRail (setTrans (some n) s1)
  else setTrans (some n) s1

/-- A step has ended: redirected (R409), woken (R410), on to the next, or there. -/
def afterStep (t : Transition) (rest : List TStep) (s : State) : State :=
  match t.redirect with
  | some (target, c) => redirect t target (some c) s
  | none =>
    if t.entering ∧ t.woken ∧ (t.target = .deep ∨ t.target = .watch) then redirect t .sleep none s
    else if rest.isEmpty then reachState t s
    else setTrans (some { t with steps := rest }) s

/-- Steps in effect after a step. -/
def takenAfter (taken : List TStep) (entering : Bool) (target : PwrState) (k : TStep) : List TStep :=
  if entering then (if taken.contains k then taken else taken ++ [k])
  else if k = .domains ∧ target = .sleep then taken
  else taken.filter fun j => decide (j ≠ k)

/-- TRANSITION_STEP_END (R408): the step in progress ends, once what it waits for has come, and the next one begins. The completion of
a command whose state takes the links and the Plinth away is sent ahead of that. -/
def execTransitionStepEnd (s : State) : Res :=
  .next (match s.pwr.trans with
    | none => s
    | some t =>
      match t.steps with
      | [] => reachState t s
      | k :: rest =>
        if !s.stepDone t k then s
        else
          let last : Bool := t.entering && decide (k = .rails) && t.redirect.isNone && !(t.woken && decide (t.target ≠ .off))
          let s0 := if last then completeOpt t.ctx St.ok (pwrData t.target) s else s
          let s1 := if t.entering then entryEffect t.target k s0 else exitEffect t.target k s0
          afterStep t rest { s1 with pwr := { s1.pwr with taken := takenAfter s.pwr.taken t.entering t.target k } })

/-- WAKE_N (R410): from Deep sleep, Watch or Off the device wakes to Sleep; during an entry to one of them the wake waits for the step in
progress, on the way to Off for Off itself. -/
def execWakeN (s : State) : Res :=
  .next (match s.pwr.trans with
    | some t => if t.entering ∧ (t.target = .deep ∨ t.target = .watch ∨ t.target = .off) then setTrans (some { t with woken := true }) s else s
    | none => if s.pwr.st = .deep ∨ s.pwr.st = .watch ∨ s.pwr.st = .off then startWake s else s)

/-! ### Domains on demand (R407) -/

/-- Domains of Table 19.2 that wake on demand. -/
def onDemand : Domain → Bool
  | .base | .quad _ | .region _ => true
  | _ => false

/-- An access reaches a domain: in retention, or while a step powers it down, it is woken; awake, its time is noted. -/
def touchDomain (d : Domain) (s : State) : State :=
  let falling : Bool := match s.pwr.trans with | some t => t.entering && decide (t.steps.head? = some .domains) && decide (t.target = .sleep) | none => false
  let up : Bool := s.pwr.woken.any fun w => decide (w.1 = d)
  if onDemand d && (decide (domCond d s = .ret) || falling || up) then
    { s with pwr := { s.pwr with woken := s.pwr.woken.filter (fun w => decide (w.1 ≠ d)) ++ [(d, s.clk.now)] } }
  else s

/-- DOMAIN_WAKE_ON_DEMAND (R407). -/
def execDomainWakeOnDemand (dom : Domain) (s : State) : Res := .next (touchDomain dom s)

/-- DOMAIN_IDLE_EXPIRY (R407): 1 ms without an access returns the domain to its state's condition. -/
def execDomainIdleExpiry (dom : Domain) (s : State) : Res :=
  .next { s with pwr := { s.pwr with woken := s.pwr.woken.filter fun w => !(decide (w.1 = dom) && decide (w.2 + usSteps 1000 ≤ s.clk.now)) } }

/-! ### Watch (R412, R413) -/

/-- A sensor's reading violates its limits; one that did not answer does too. -/
def sensorBad (w : WatchSensor) (r : Option U16) : Bool :=
  match r with
  | none => true
  | some v => decide (v.toInt < w.low.toInt) || decide (w.high.toInt < v.toInt)

/-- What the Watch sampler has taken from the blocks so far: the descrambler, the sender's counter at the latest block, the payloads of the
TAG interval in progress with whether one was an HB, and the outcome of the first complete one (R304). -/
structure WatchScan where
  descr : BitVec 58
  cnt : Option Nat
  interval : Option (List (BitVec 72) × Bool)
  verdict : Option Bool
deriving DecidableEq, Repr

/-- One block of pendant lane 0 reaches the Watch sampler (R304): a STAMP that passes its CRC-6 gives the sender's counter, which every block
after it advances; with it the blocks of the first TAG interval that begins later are decrypted and its TAG is checked. -/
def watchBlock (key : BitVec 256) (side : Nat) (w : WatchScan) (b : Block) : WatchScan :=
  let hdr := blockHdr b
  let (payload, descr) := descramble w.descr (blockPayload b)
  let stamp := decide (hdr = hdrControl) && decide (payload.toNat / 2 ^ 64 = 7)
  let y := { w with descr := descr, cnt := w.cnt.map (· + 1) }
  if w.verdict.isSome then y
  else match y.cnt with
    | none => if stamp && blockCrcOk b then { y with cnt := some (payload.toNat % 2 ^ 64) } else y
    | some c =>
      let plain := payload ^^^ Config.pendantStream key (pendantCounter c 0 side)
      let log := fun hb : Bool => { y with interval := y.interval.map fun i => (i.1 ++ [payload], i.2 || hb) }
      if stamp then log false
      else if hdr ≠ hdrData then y
      else if plain.toNat / 2 ^ 64 ≠ 4 then log (blockCrcOk b && decide (plain.toNat / 2 ^ 64 = 1))
      else match y.interval with
        | some (l, hb) => { y with verdict := some (hb && decide (Config.gmac key (tagIv c side) l = plain.extractLsb' 0 64)) }
        | none => { y with interval := some ([], false) }

/-- The heartbeat check (R304, R412): an HB in a TAG interval verified under the pair key within 200 µs. The first block fills the
descrambler only. -/
def watchHeartbeat (blocks : List Block) (s : State) : Bool :=
  match s.keys.pairKey, blocks.take (usSteps 200) with
  | some k, b :: l =>
    let w := l.foldl (watchBlock k (1 - bitNat s.ident.pendSide)) { descr := (descramble 0 (blockPayload b)).2, cnt := none, interval := none, verdict := none }
    w.verdict = some true
  | _, _ => false

/-- The first violation of a sample: item and, for a sensor that answered, its value (R412). -/
def watchItem (readings : List (Option U16)) (coolantOk : Bool) (blocks : List Block) (s : State) : Option (Nat × Option U16) :=
  match (List.range s.pwr.wSensors.length).find? fun i =>
      match s.pwr.wSensors[i]? with | some w => sensorBad w (nth none readings i) | none => false with
  | some i => some (i, nth none readings i)
  | none =>
    if s.pwr.wChk.getLsbD 0 ∧ !coolantOk then some (8, none)
    else if s.pwr.wChk.getLsbD 1 ∧ !watchHeartbeat blocks s then some (9, none)
    else none

/-- A counter of subsystem 0xE takes a value. -/
def setWatchCtr (id v : Nat) (s : State) : State := { s with logs := { s.logs with ctr := smSet 0 s.logs.ctr (ctrKey 0xE 0 id) v } }

/-- A violation (R413): counted, ALERT_N, and the wake to Sleep. WATCH_VALUE of an item without a reading is a free value (log entry 4). -/
def watchViolation (item : Nat) (v : Option U16) (s : State) : State :=
  let (f, s0) := s.draw 16
  let s1 := setWatchCtr 4 (v.getD f).toNat (setWatchCtr 3 item (bump 0xE 0 2 (bump 0xE 0 1 s0)))
  startWake (setAlertWatch true s1)

/-- Multiples of the sampling period since entry to Watch (R412). -/
def State.watchPeriods (s : State) : Nat := (s.clk.now - s.pwr.wEntry) / usSteps (1000 * s.pwr.wPeriod.toNat)

/-- WATCH_SAMPLE (R412): at a multiple of the period, each sampled once at most; blocks are what pendant lane 0 receives, aligned. -/
def execWatchSample (readings : List (Option U16)) (coolantOk : Bool) (blocks : List Block) (s : State) : Res :=
  .next (if s.pwr.st ≠ .watch ∨ s.pwr.trans.isSome ∨ s.watchPeriods ≤ s.pwr.wDone then s
    else
      let r : State := { s with pwr := { s.pwr with wDone := s.watchPeriods } }
      let s0 := if coolantOk then setAlertHold false r else r
      match watchItem readings coolantOk blocks s0 with
      | some (i, v) => watchViolation i v s0
      | none => s0)

/-- COOLANT_OK_LOW (R413): low for 10 ms outside Watch asserts ALERT_N and does nothing else. -/
def execCoolantOkLow (s : State) : Res := .next (if s.pwr.st = .watch then s else setAlertHold true s)

/-! ### Telemetry and thermal limits (R487, R491) -/

/-- Every running partition pauses at its first reachable boundary, with duration 0. -/
def pauseAll (s : State) : State := eachPart (fun p => selfPause p .device) s

/-- RAIL_TELEMETRY_READ (R487): a rail outside its tolerance in ten reads of 1 ms in a row. -/
def execRailTelemetryRead (outOfTolerance : BitVec 8) (s : State) : Res :=
  .next (if !s.plinth.ready0 then s
    else
      let bad := (List.range 8).map fun i => if outOfTolerance.getLsbD i && s.pwr.rails.getLsbD i then nth 0 s.pwr.railBad i + 1 else 0
      let s1 : State := { s with pwr := { s.pwr with railBad := bad } }
      if bad.any (fun n => decide (n = 10)) then
        pauseAll (setAlertRail true (logRec { cause := St.railRange, sub := 0xE, sev := 3, detail := outOfTolerance.toNat } s1))
      else if bad.all (fun n => decide (n = 0)) then setAlertRail false s1
      else s1)

/-- THERMAL_HIGH (R491): 110 °C or above. -/
def execThermalHigh (reading : Nat) (s : State) : Res :=
  .next (if reading < 110 ∨ s.pwr.st = .off ∨ s.pwr.alertThermal then s
    else pauseAll (setAlertThermal true (logRec { cause := St.thermalHigh, sub := 0xE, sev := 3, detail := reading } s)))

/-- THERMAL_TRIP (R491): 120 °C or above: FAULT_N, every rail but VAON off, the outcome of Off, and a flag for the next boot. -/
def execThermalTrip (reading : Nat) (s : State) : Res :=
  .next (if reading < 120 ∨ s.pwr.st = .off then s
    else
      let s1 := assertFault St.thermalTrip (dropRails s)
      { s1 with pwr := { s1.pwr with tripFlag := true } })

/-- THERMAL_ALERT_RELEASE (R491): 100 °C or below. -/
def execThermalAlertRelease (reading : Nat) (s : State) : Res := .next (if reading ≤ 100 then setAlertThermal false s else s)

end Sys2Proof.Machine
end

