-- ==== Sys2Proof/Machine/ClockEvents.lean ====
section
/-!
DEFINITION. ClockEvents.lean: the step clock's source (chapter 18) and the control links as they come up and fail (R136): lock, trim, the
loss of the upstream with its switch or coast, and the recovery.
-/
namespace Sys2Proof.Machine

/-! ### Oscillator and PLL -/

/-- The PLL has its supply: in Run and Idle, and in the exit step DOMAINS towards them (Tables 19.2 and 19.3). -/
def State.pllOn (s : State) : Bool :=
  decide (s.pwr.dom = .run) || decide (s.pwr.dom = .idle) ||
    (match s.pwr.trans with | some t => !t.entering && decide (t.steps.head? = some .domains) && decide (t.target ≠ .sleep) | none => false)

/-- PLL_LOCK (R384): the step-clock PLL locks on an upstream link that is up; unless the counter is still assigned it runs from 0. -/
def execPllLock (s : State) : Res :=
  .next (if s.clk.pll ∨ !(s.link s.upLink).up ∨ !s.pllOn then s
    else if s.clk.counterOk then { s with clk := { s.clk with pll := true } }
    else { s with clk := { s.clk with pll := true, count := 0, phase := 0 } })

/-- CALIBRATE compares the ℓ of an ACTIVE lane with its frozen figure (Table 17.5, R122): what is measured is the board's, a free value
(log entries 4 and 11); a lane that retrains is skipped (R381). -/
def recheckLane (s : State) (n : Nat) : State :=
  let l := s.lane n
  if l.st ≠ .active ∨ (s.blink (linkOf n)).req.isSome ∨ s.linkBusy (linkOf n) then s
  else
    let (v, s1) := s.draw 16
    let s2 := s1.setLane n { l with lat := v.toNat }
    match l.frozen with
    | some f => if f < v.toNat then slipLane n s2 else s2
    | none => s2

/-- The CALIBRATE activity ends with a trim (Table 17.5, log entry 11). -/
def endCalibrate (s : State) : State :=
  match s.maint.find? fun h => decide (h.act = 8) with
  | some h => completeOpt h.ctx St.ok [] (finishAct 8 0 ((List.range 128).foldl recheckLane s))
  | none => s

/-- OSC_TRIM (R393): while character sync is held the oscillator is trimmed again; while a partition runs, a count that differs by more
than 0.05 % from that of the marks gives way to it and is logged. The code a count selects is a free value (log entry 4). -/
def execOscTrim (cycles markCycles : Nat) (s : State) : Res :=
  .next (if !(s.link s.upLink).sync ∨ s.clk.coast then s
    else
      let runs := [0, 1, 2, 3].any fun p => decide ((s.part p).st = .running)
      let off := 327680 < 2000 * (if cycles < markCycles then markCycles - cycles else cycles - markCycles)
      let s1 := if runs ∧ off then logRec { cause := St.oscTrim, sub := 0xE, sev := 5, detail := cycles + 2 ^ 32 * markCycles } s else s
      let (t, s2) := s1.draw 10
      endCalibrate { s2 with clk := { s2.clk with trim := t } })

/-! ### Control links (R136) -/

/-- CONTROL_LINK_UP: sync has held for 1,024 characters. The receivers of the control lanes are enabled by BOOT, after the board table is
read (R140). -/
def execControlLinkUp (link : Fin 8) (s : State) : Res :=
  let st := (s.lane (136 + link.val)).st
  .next (if domCond .plinth s ≠ .on ∨ st = .off ∨ st = .down then s else linkUp link.val s)

/-- CONTROL_LINK_SYNC_LOSS: 16 code errors within 256 characters, of which CODE_ERR counts those not yet counted (R135). -/
def execControlLinkSyncLoss (link : Fin 8) (s : State) : Res :=
  let l := s.link link.val
  .next (if !l.sync then s else dropSync link.val (bumpBy (16 - ones 256 l.errs.toNat) 0x4 (136 + link.val) 3 s))

/-! ### Loss of the upstream (R390 to R392) -/

/-- The coast's hold in a partition (R391): charged by R33, its veto sent at once, on S7 when only S7 holds character sync. -/
def coastHold (p : Nat) (s : State) : State :=
  let x := s.part p
  if x.st ≠ .running ∨ s.leftScope p then s
  else
    let k := chargeFrame x s.cnt
    let s1 := logRec { cause := St.clkCoast, sub := 0xE, sev := 2, part := p } (s.setPart p { x with
      holds := x.holds ++ [{ code := St.clkCoast, unit := 0, frame := k, resolved := false }], vetoes := x.vetoes ++ [(k, true)] })
    let via := s1.clk.upS7 || (s1.link 7).sync
    let s2 := offerVeto p k true false true { s1 with clk := { s1.clk with upS7 := via } }
    { s2 with clk := { s2.clk with upS7 := s.clk.upS7 } }

/-- The device coasts (R391): the counter is unassigned, the servo reports holdover, evaluation stops with HOLD. -/
def startCoast (s : State) : State :=
  let s1 := enterServo .holdover (setCoast true { s with clk := { s.clk with counterOk := false } })
  eachPart coastHold s1

/-- The scopes this device roots are measured anew after a change of the tree (R42). -/
def treeChanged (s : State) : State := eachPart remeasure s

/-- TIME.UPSTREAM (R390, Table 18.4): on the target already it replies OK; with the target's ready flag 0 it returns
WRONG_STATE; else the switch is made and the reply follows when the new parent's routing is in place. One that
follows a TIME.UPSTREAM still in execution waits (R338). -/
def execTimeUpstream (c : CmdCtx) (link : Byte) (rsvd : BitVec 24) (s : State) : Res :=
  .next (if s.arm.upCtx.isSome then s
    else deferredOp .p 0x0B04 c (fun s =>
      if rsvd ≠ 0 ∨ (link ≠ 0 ∧ link ≠ 7) then reply c 0x0B04 St.argRange [] s
      else if link.toNat = s.upLink then reply c 0x0B04 St.ok [] s
      else if !s.altReady then reply c 0x0B04 St.wrongState [] s
      else
        let s1 := holdDeferred c 0x0B04 (treeChanged (switchUpstream link.toNat s))
        { s1 with arm := { s1.arm with upCtx := some c } }) s)

/-- UPSTREAM_LOSS (R390, R391): in Sleep the counter becomes unassigned (Table 19.6); else the device switches when the alternate is
ready, and coasts when it is not. -/
def execUpstreamLoss (s : State) : Res :=
  .next (if s.clk.coast ∨ domCond .plinth s ≠ .on then s
    else
      let k := s.upLink
      let s1 := if (s.link k).sync then dropSync k s else s
      if s.pwr.dom = .sleep then { s1 with clk := { s1.clk with counterOk := false } }
      else if !s.clk.pll then s1
      else if s.altReady then treeChanged (switchUpstream s.altLink s1)
      else startCoast s1)

/-- A block lane retrains after the coast, when it was up (R392). -/
def retrainAfter (s : State) (n : Nat) : State :=
  match (s.lane n).st with
  | .off | .down | .sleep | .pattern => s
  | _ => enterTrain n (dropDue n s)

/-- UPSTREAM_REGAIN (R392): an upstream link has sync again: the PLL relocks, one exchange reassigns the counter, CLK_COAST clears, and
the lanes retrain. -/
def execUpstreamRegain (link : Fin 8) (t1 t2 t3 t4 : U64) (s : State) : Res :=
  let k := link.val
  .next (if (k ≠ 0 ∧ k ≠ 7) ∨ !s.clk.coast then s
    else
      let delay := (stampDiff t4.toNat t1.toNat - stampDiff t3.toNat t2.toNat) / 2
      let e := stampDiff t2.toNat t1.toNat - delay
      let l := s.link k
      let s1 := (s.setLink k { l with sync := true, up := true }).setLane (136 + k) { s.lane (136 + k) with st := .ready, since := s.clk.now, lock := true }
      let s2 := s1.setSync k { s1.syncOf k with t1 := none, e := e, at_ := some s1.clk.now, ppmOk := true }
      let s3 := assignCounter e { s2 with clk := { s2.clk with pll := true, upS7 := decide (k = 7), good := 0 } }
      let s4 := enterServo .acquiring (setCoast false s3)
      let s5 := eachPart clearCoast ((List.range 136).foldl retrainAfter s4)
      if s.upLink = k then s5 else treeChanged s5)

end Sys2Proof.Machine
end

