-- ==== Sys2Proof/Machine/Armature.lean ====
section
/-!
DEFINITION. Armature.lean: the control tree (R362 to R366): positions, enumeration and routing; consensus (R377, R378); group 0x0F
(Table 16.16).
-/
namespace Sys2Proof.Machine

/-! ### Positions (R362) -/

/-- Position that child link Sk leads to. -/
def childPos (a k : Nat) : Nat := 6 * a + 5 + k
/-- Level of a position (Table 17.1). -/
def levelOf (pos : Nat) : Nat :=
  if pos < 6 then 1 else if pos < 42 then 2 else if pos < 258 then 3 else if pos < 1554 then 4 else if pos < 9330 then 5 else if pos < 55986 then 6 else 7

/-- Child link whose recorded device is a target or an ancestor of it (R364). -/
def State.routeTo (s : State) (addr : Nat) : Option Nat :=
  [1, 2, 3, 4, 5, 6].find? fun k => match (s.link k).child with
    | some d => inSubtree d.toNat addr
    | none => false

/-- CHILDREN: bit k for Sk up. -/
def State.childBits (s : State) : Nat := maskOf ([1, 2, 3, 4, 5, 6].filter fun k => (s.link k).up)

/-! ### Commands the device sends to its children -/

/-- A command of the device's own on a child link. -/
def sendOwn (k op tag path eframe : Nat) (payload : List Byte) (s : State) : State := sendOwnPacket k (commandBytes op tag path eframe payload) s

/-- A tag for own commands: any but the reserved 0xFFFF (R321). -/
def takeTag (s : State) : U16 × State :=
  (s.arm.ownTag, { s with arm := { s.arm with ownTag := if s.arm.ownTag = 0xFFFE then 0 else s.arm.ownTag + 1 } })

/-- Nothing is recorded on a child link. -/
def dropChild (k : Nat) (s : State) : State := s.setLink k { s.link k with child := none, adopted := false, childBic := 0, childEquiv := [] }

/-- A device is recorded on a child link; the equivalence list of a new one is fetched (R363, R364). -/
def recordChild (k : Nat) (addr : U16) (adopted : Bool) (bic : U16) (serial : BitVec 128) (equiv : List U16) (s : State) : State :=
  let l := s.link k
  if l.child = some addr ∧ l.childSerial = serial then s.setLink k { l with adopted := adopted, childBic := bic }
  else
    let (t, s1) := takeTag s
    (sendOwn k 0x0102 t.toNat addr.toNat 0 [] s1).setLink k { l with
      child := some addr, adopted := adopted, childBic := bic, childEquiv := equiv, childSerial := serial, fetch := some t }

/-- One child link is probed and its answer taken (R363, R364): an unassigned device at an existing position is assigned, an assigned one is
recorded as the formula child or, when its current upstream is its S7, as adopted. Any other that holds another address is sent its
assignment, which it answers with WRONG_STATE, and nothing is routed to it. -/
def probeChild (k : Nat) (a : ProbeAnswer) (equiv : List U16) (s : State) : State :=
  if !(s.link k).up then dropChild k s
  else
    let (t, s0) := takeTag s
    let s1 := s0.emit (.linkPacket k (commandBytes 0x0F01 t.toNat 0 0 []))
    let pos := childPos s1.arm.addr.toNat k
    match a with
    | .noAnswer | .denied => dropChild k s1
    | .device bic assigned _ addr _ serial viaS7 =>
      if assigned && (viaS7 || decide (addr.toNat = pos)) then recordChild k addr (decide (addr.toNat ≠ pos)) bic serial equiv s1
      else if 65536 ≤ pos then dropChild k s1
      else
        let (t2, s2) := takeTag s1
        let s3 := sendOwn k 0x0F02 t2.toNat 0 0 (leBytes 2 pos ++ leBytes 1 (levelOf pos) ++ zeros 1) s2
        if assigned then (let s4 := dropChild k s3; s4.setLink k { s4.link k with childSerial := serial })
        else recordChild k (BitVec.ofNat 16 pos) false bic serial equiv s3

/-- The devices recorded on the child links. -/
def State.childRecord (s : State) : List (Option U16) := [1, 2, 3, 4, 5, 6].map fun k => (s.link k).child

/-- CHILD_PROBE (R364): a device that holds an address probes S1 to S6; a changed tree is measured anew by the roots here (R42). -/
def execChildProbe (answers : List ProbeAnswer) (equivs : List (List U16)) (s : State) : Res :=
  .next (if !s.arm.assigned ∨ !s.plinth.ready0 ∨ domCond .plinth s ≠ .on then s
    else
      let s1 := [1, 2, 3, 4, 5, 6].foldl (fun a k => probeChild k (nth .noAnswer answers (k - 1)) (nth [] equivs (k - 1)) a) s
      if s1.childRecord = s.childRecord then s1 else treeChanged s1)

/-! ### Group 0x0F -/

/-- ARM.PROBE (R364): answered by its identity and position; it is how a new parent's routing shows itself to a child that has switched
(R390). -/
def execArmProbe (c : CmdCtx) (s : State) : Res :=
  .next (immediate .l 0x0F01 c (fun s =>
    let s1 := reply c 0x0F01 St.ok (leBytes 2 s.ident.bic.toNat ++ leBytes 1 (bitNat s.arm.assigned) ++ leBytes 1 s.arm.level.toNat ++
      leBytes 2 s.arm.addr.toNat ++ leBytes 1 s.childBits ++ zeros 1 ++ leBytes 16 s.ident.serial.toNat) s
    match s1.arm.upCtx with
    | some u => reply u 0x0B04 St.ok [] { s1 with arm := { s1.arm with upCtx := none } }
    | none => s1) s)

/-- ARM.ASSIGN (R363, R387): the position and, by the exchange it completes first, the step counter; block lanes may then come up. -/
def execArmAssign (c : CmdCtx) (addr : U16) (level rsvd : Byte) (t1 t2 t3 t4 : U64) (s : State) : Res :=
  .next (immediate .l 0x0F02 c (fun s =>
    if rsvd ≠ 0 ∨ level.toNat ≠ levelOf addr.toNat then reply c 0x0F02 St.argRange [] s
    else if s.arm.assigned ∧ s.arm.addr ≠ addr then reply c 0x0F02 St.wrongState [] s
    else
      let delay := (stampDiff t4.toNat t1.toNat - stampDiff t3.toNat t2.toNat) / 2
      let e := stampDiff t2.toNat t1.toNat - delay
      let s1 := assignCounter e { s with arm := { s.arm with assigned := true, addr := addr, level := level } }
      reply c 0x0F02 St.ok [] (bringUpLanes s1)) s)

/-- ARM.SCOPE (R366): legal while the partition is EMPTY or LOADED. -/
def execArmScope (c : CmdCtx) (part flags : Byte) (root : U16) (scope : U32) (s : State) : Res :=
  .next (immediate .p 0x0F03 c (fun s =>
    onPart c 0x0F03 part.toNat (decide (flags.toNat ≤ 1)) (fun x => decide (x.st = .empty) || decide (x.st = .loaded)) (fun s =>
      let x := s.part part.toNat
      reply c 0x0F03 St.ok [] (s.setPart part.toNat { x with scope := scope, root := root, rootSc := flags.getLsbD 0, sc := {} })) s) s)

/-- ARM.STATUS. -/
def execArmStatus (c : CmdCtx) (s : State) : Res :=
  .next (immediate .a 0x0F05 c (fun s =>
    reply c 0x0F05 St.ok (leBytes 2 s.arm.addr.toNat ++ leBytes 1 s.arm.level.toNat ++ leBytes 1 s.upLink ++ leBytes 1 s.childBits ++ zeros 3 ++
      leBytes 4 s.arm.marksBad ++ leBytes 4 s.arm.vetoes) s) s)

/-- CONSENSUS.OVERRIDE (R360): each setting is logged under subsystem 0xC. -/
def execConsensusOverride (c : CmdCtx) (flags : Byte) (rsvd : BitVec 24) (s : State) : Res :=
  .next (immediate .p 0x0F06 c (fun s =>
    if rsvd ≠ 0 ∨ 1 < flags.toNat then reply c 0x0F06 St.argRange [] s
    else reply c 0x0F06 St.ok [] (logRec { cause := St.bicOverride, sub := 0xC, sev := 5, detail := flags.toNat }
      { s with arm := { s.arm with override := flags.getLsbD 0 } })) s)

/-! ### Consensus (R377, R378) -/

/-- Nothing more is awaited from a child. -/
def ConsensusKid.done (k : ConsensusKid) : Bool := k.failed || (k.ver.isSome && k.ans.isSome)

/-- A child's BIC is equivalent to this device's by the union of both lists (R3). -/
def State.bicMatches (s : State) (k : Nat) : Bool :=
  let l := s.link k
  decide (l.childBic = s.ident.bic) || s.ident.equiv.contains l.childBic || l.childEquiv.contains s.ident.bic

/-- A child is divergent from this device (R378); the override accepts a BIC while the log can take the acceptance (R439). -/
def State.divergent (s : State) (k : ConsensusKid) : Bool :=
  k.failed || decide (k.ver ≠ some s.fw.ver) || (!s.bicMatches k.link && !(s.arm.override && s.measureFits 0))

/-- The first divergent device in preorder, as links from here and address (R378), of children that have been judged. -/
def firstDivergent (l : List (ConsensusKid × Bool)) : Option (List Byte × U16) :=
  l.findSome? fun (k, bad) =>
    if bad then some ([BitVec.ofNat 8 k.link], k.addr)
    else match k.ans with
      | some (_, false, path, daddr) => some (BitVec.ofNat 8 k.link :: path, daddr)
      | _ => none

/-- Acceptances of a non-equivalent BIC are logged and measured (R378, Table 21.1). -/
def noteAccepted (s : State) (k : ConsensusKid) : State :=
  if s.bicMatches k.link || !(s.arm.override && s.measureFits 0) then s
  else extendFree 6 5 [] (logRec { cause := St.bicOverride, sub := 0xC, sev := 5, detail := (s.link k.link).childBic.toNat + 65536 * s.ident.bic.toNat } s)

/-- The children are judged in order, each with the room that the acceptances before it left in the log (R378, R439). -/
def judgeKids : List ConsensusKid → State → List (ConsensusKid × Bool) × State
  | [], s => ([], s)
  | k :: r, s =>
    let (l, s1) := judgeKids r (noteAccepted s k)
    ((k, s.divergent k) :: l, s1)

/-- Bytes of the children's part of c(x) (R377). The value of a child that gave none is free (log entry 4). -/
def kidBytes : List ConsensusKid → State → List Byte × State
  | [], s => ([], s)
  | k :: r, s =>
    match k.ans with
    | some (d, _) => let (b, s1) := kidBytes r s; ([BitVec.ofNat 8 k.link] ++ leBytes 48 d.toNat ++ b, s1)
    | none =>
      let (v, s1) := s.draw 384
      let (b, s2) := kidBytes r s1
      ([BitVec.ofNat 8 k.link] ++ leBytes 48 v.toNat ++ b, s2)

/-- DEPTH, PATH and DADDR of a reply: those of the first divergent device; with none the spec states no DEPTH, no DADDR and no
PATH within DEPTH, and they are free values (R378, log entry 4). -/
def divergentFields (div : Option (List Byte × U16)) (s : State) : List Byte × State :=
  match div with
  | some (path, addr) => (leBytes 1 (min 7 path.length) ++ (path ++ zeros 7).take 7 ++ zeros 1 ++ leBytes 2 addr.toNat ++ zeros 2, s)
  | none =>
    let (v, s1) := s.draw 80
    let depth := fieldAt (leBytes 10 v.toNat) 0 1
    (leBytes 1 depth ++ (bytesAt (leBytes 10 v.toNat) 1 (min 7 depth) ++ zeros 7).take 7 ++ zeros 1 ++ bytesAt (leBytes 10 v.toNat) 8 2 ++ zeros 2, s1)

/-- A query whose own digest and children have all come is answered (R377, R378). -/
def finishQuery (q : ConsensusQ) (s : State) : State :=
  match q.own with
  | none => s
  | some d =>
    if !q.kids.all (·.done) then s
    else
      let s0 : State := { s with arm := { s.arm with queries := s.arm.queries.filter fun r => decide (r ≠ q) } }
      let (b, s1) := kidBytes q.kids s0
      let (judged, s2) := judgeKids q.kids s1
      let div := firstDivergent judged
      let (f, s3) := divergentFields div s2
      reply q.ctx 0x0F04 St.ok (leBytes 48 (Config.sha384 (leBytes 48 d.toNat ++ b)).toNat ++ leBytes 1 (bitNat div.isNone) ++ f) s3

/-- The digest in force at a query's frame is taken when that frame has come, or at once where the partition does not run (R323, R377). -/
def captureQuery (s : State) (q : ConsensusQ) : ConsensusQ :=
  let x := s.part q.part
  if q.own.isSome then q
  else if x.st ≠ .running ∨ framePassed x.current q.m then { q with own := some s.trust.digest }
  else q

/-- Every query that can go on goes on. -/
def advanceQueries (s : State) : State :=
  if s.arm.queries.isEmpty then s
  else
    let s1 : State := { s with arm := { s.arm with queries := s.arm.queries.map (captureQuery s) } }
    s1.arm.queries.foldl (fun a q => finishQuery q a) s1

/-- CONSENSUS.QUERY (R377): the query goes on to every recorded child, with an IDENT.QUERY. -/
def execConsensusQuery (c : CmdCtx) (part : Byte) (rsvd : BitVec 24) (s : State) : Res :=
  .next (deferredOp .a 0x0F04 c (fun s =>
    if rsvd ≠ 0 ∨ 4 ≤ part.toNat then reply c 0x0F04 St.argRange [] s
    else if c.eframe ≠ 0 ∧ (s.part part.toNat).st ≠ .running then reply c 0x0F04 St.frameField [] s
    else
      let (t, s1) := takeTag s
      let kids := [1, 2, 3, 4, 5, 6].filterMap fun k => (s.link k).child.map fun a =>
        ({ link := k, addr := a, ver := none, ans := none, failed := false } : ConsensusKid)
      let q : ConsensusQ := {
        ctx := c, part := part.toNat, m := if c.eframe = 0 then (s.part part.toNat).current + 1 else c.eframe, own := none, tag := t, at_ := s.clk.now, kids := kids }
      let s2 := kids.foldl (fun a k =>
        sendOwn k.link 0x0101 t.toNat k.addr.toNat 0 [] (sendOwn k.link 0x0F04 t.toNat k.addr.toNat c.eframe.toNat ([part] ++ zeros 3) a)) s1
      let s3 := holdDeferred c 0x0F04 s2
      advanceQueries { s3 with arm := { s3.arm with queries := s3.arm.queries ++ [q] } }) s)

/-- A child of the queries that await it is changed. -/
def updateKid (link : Nat) (want : ConsensusQ → Bool) (f : ConsensusKid → ConsensusKid) (s : State) : State :=
  let kids := fun q : ConsensusQ => q.kids.map fun k => if k.link = link then f k else k
  let upd := fun q : ConsensusQ => if want q then { q with kids := kids q } else q
  advanceQueries { s with arm := { s.arm with queries := s.arm.queries.map upd } }

/-- CONSENSUS_REPLY_TIMEOUT (R378): 100 ms without a reply make the child divergent. -/
def execConsensusReplyTimeout (link : Fin 8) (s : State) : Res :=
  .next (updateKid link.val (fun q => decide (q.at_ + usSteps 100000 ≤ s.clk.now)) (fun k => if k.done then k else { k with failed := true }) s)

/-! ### Packets from a child (R333) -/

/-- A query that awaits a reply with this tag from the child on a link. -/
def State.awaits (s : State) (link tag : Nat) : Bool :=
  s.arm.queries.any fun q => decide (q.tag.toNat = tag) && q.kids.any fun k => decide (k.link = link) && !k.done

/-- A child's answer to a query this device sent on (R377, R378). -/
def takeAnswer (link op status : Nat) (tag : Nat) (data : List Byte) (s : State) : State :=
  let mine := fun q : ConsensusQ => decide (q.tag.toNat = tag)
  if status ≠ St.ok then updateKid link mine (fun k => { k with failed := true }) s
  else if op = 0x8101 then updateKid link mine (fun k => { k with ver := some (BitVec.ofNat 32 (fieldAt data 26 4)) }) s
  else
    let a := (BitVec.ofNat 384 (fieldAt data 0 48), decide (fieldAt data 48 1 = 1), bytesAt data 50 (fieldAt data 49 1), BitVec.ofNat 16 (fieldAt data 58 2))
    updateKid link mine (fun k => { k with ans := some a }) s

/-- A child refuses its assignment because it holds another address (R363): its SERIAL is logged and nothing is routed to it. The spec
gives the record no cause: a free value (log entry 4). -/
def refusedChild (link : Nat) (s : State) : State :=
  let (cause, s1) := s.draw 16
  dropChild link (logRec { cause := cause.toNat, sub := 0xC, sev := 5, loc := (s.link link).childSerial.toNat % 2 ^ 64, detail := (s.link link).childSerial.toNat / 2 ^ 64 } s1)

/-- A reply from a child answers one of the commands that stand unanswered on its link (R333). -/
def noteAnswer (k : Nat) (bytes : List Byte) (s : State) : State :=
  let l := s.link k
  if fieldAt bytes 0 2 < 0xC000 then s.setLink k { l with unanswered := l.unanswered - 1 } else s

/-- A packet goes up unchanged. -/
def forwardUp (bytes : List Byte) (s : State) : State := s.emit (.linkPacket s.upLink bytes)

/-- A reply or event from a child goes up unchanged, but for replies to link-local commands and to commands that this device itself
sent (R333). -/
def childPacket (k : Nat) (bytes : List Byte) (s : State) : State :=
  let op := fieldAt bytes 0 2
  let tag := fieldAt bytes 2 2
  let status := fieldAt bytes 10 2
  if k = 0 ∨ k = 7 ∨ op < 0x8000 ∨ bytes.length < 16 ∨ op = 0x8F01 then s
  else
    let s := noteAnswer k bytes s
    if op = 0x8F02 then (if status = St.wrongState then refusedChild k s else s)
    else if op = 0x8102 ∧ (s.link k).fetch.map (·.toNat) = some tag then
      let n := fieldAt bytes 16 2
      s.setLink k { s.link k with fetch := none, childEquiv := (List.range n).map fun i => BitVec.ofNat 16 (fieldAt bytes (18 + 2 * i) 2) }
    else if (op = 0x8F04 ∨ op = 0x8101) ∧ s.awaits k tag then takeAnswer k op status tag (bytes.drop 16) s
    else match (s.link k).retrain with
      | some c =>
        if op = 0x8803 ∧ tag = c.tag.toNat then
          reply c 0x0803 status [] (endAct 4 (17 + k) (s.setLink k { s.link k with retrain := none }))
        else forwardUp bytes s
      | none => forwardUp bytes s

/-- CHILD_REPLY_FORWARD (R333). -/
def execChildReplyForward (link : Fin 8) (bytes : List Byte) (s : State) : Res := .next (childPacket link.val bytes s)

end Sys2Proof.Machine
end

