-- ==== Sys2Proof/Machine/Transports.lean ====
section
/-!
DEFINITION. Transports.lean: how packets come in and go out: command rings (R330, R331), control links (R332, R333), backlogs and
ring errors (R331, R471), and the reset of a function (Table 23.5).
-/
namespace Sys2Proof.Machine

/-! ### Command rings (R330) -/

/-- Commands of a function accepted and not yet replied (R331): not executed, deferred, waiting for the scope root, or waiting for the reply
of such a one. -/
def State.unreplied (s : State) (src : Nat) : Nat :=
  (s.plinth.accepted.filter fun i => decide ((instrCtx i).map (·.src.toNat) = some src)).length +
    (s.plinth.deferred.filter fun w => decide (w.ctx.src.toNat = src)).length +
    (s.asking.filter fun a => decide (a.1.src.toNat = src)).length + (s.plinth.held.filter fun h => !h.event && decide (h.ctx.src.toNat = src)).length

/-- The reply part of the backlog has a free entry for one more command (R331). -/
def State.hasRoom (s : State) (n : Nat) : Bool := decide ((s.fn n).backRpl.length + s.unreplied n + 1 ≤ 256)

/-- The device fetches a function's commands (R331, R296, R471, R21). -/
def State.fetches (s : State) (n : Nat) : Bool :=
  let f := s.fn n
  s.executes && s.fnExists n && f.enable && f.qactive && !f.hostStall && s.hasRoom n && decide (f.cmd.filled ≠ 0)

/-- The command ring's head moves on. -/
def advanceHead (n k : Nat) (s : State) : State :=
  let f := s.fn n
  s.setFn n { f with cmd := { f.cmd with head := f.cmd.after f.cmd.head k } }

/-- The packet at the head of a command ring (R330): what its LENGTH says, then checks 2 to 6. One that is not whole waits for a doorbell. -/
def fetchPacket (n : Nat) (slots : List Byte) (s : State) : State :=
  let len := pktLength slots
  let avail := (s.fn n).cmd.filled
  let k := (len + 63) / 64
  if slots.length < 64 then s
  else if len < 16 then refusePacket n St.lenShort (offsetData 4) slots (advanceHead n 1 s)
  else if 4096 < len then refusePacket n St.lenLong (offsetData 4) slots (advanceHead n (min k avail) s)
  else if avail < k then s.setFn n { s.fn n with awaitsBell := true }
  else if slots.length < len then s
  else takePacket n (s.pathOwn slots) (slots.take len) (advanceHead n k s)

/-! ### Control links (R332, R333) -/

/-- A counter of Table 15.5 for a control link. -/
def armCount (k id : Nat) (s : State) : State := bump 0xC k id s

/-- Child link on which a command from the upstream goes on; none when it is for this device or goes nowhere (R322). -/
def State.forwardLink (s : State) (b : List Byte) : Option Nat :=
  if linkLocal (pktOp b) ∨ !s.arm.assigned ∨ pktPath b = s.arm.addr.toNat then none else s.routeTo (pktPath b)

/-- The command at the head of a link's buffer waits while 8 commands stand unanswered on its child link (R333). -/
def State.linkBlocked (s : State) (b : List Byte) : Bool :=
  match s.forwardLink b with
  | some c => decide (8 ≤ (s.link c).unanswered)
  | none => false

/-- A command from the upstream link is taken: refused, executed here, or forwarded unchanged (R322, R332). -/
def takeLink (k : Nat) (b : List Byte) (s : State) : State :=
  let src := if k = 7 then 0x17 else 0x10
  if pktLength b ≠ b.length then refusePacket src St.lenMismatch (offsetData 4) b s
  else if (payloadLen (pktOp b) (pktPayload b)).isNone then refusePacket src St.badOpcode (offsetData 0) b s
  else if pktTag b = 0xFFFF then refusePacket src St.argRange (offsetData 2) b s
  else match s.forwardLink b with
    | some c => ({ s with plinth := { s.plinth with lastSrc := src } }.setLink c { s.link c with unanswered := (s.link c).unanswered + 1 }).emit (.linkPacket c b)
    | none => takePacket src (!s.arm.assigned || decide (pktPath b = s.arm.addr.toNat)) b s

/-- A buffered packet of a link can be taken: the link is the current upstream, and 8 commands do not stand unanswered where it goes on
(R333, R390). -/
def State.linkReady (s : State) (k : Nat) : Bool :=
  match (s.link k).rxBuf with
  | [] => false
  | b :: _ => s.executes && decide (k = s.upLink) && !s.linkBlocked b

/-- Pair 0 takes one buffered packet of a link (R328). -/
def drainLink (k : Nat) (s : State) : State :=
  let l := s.link k
  match l.rxBuf with
  | [] => s
  | b :: r => takeLink k b (s.setLink k { l with rxBuf := r })

/-- A source of Table 15.4 has a packet ready. -/
def State.sourceReady (s : State) (src : Nat) : Bool :=
  if src < 16 then s.fetches src && !(s.fn src).awaitsBell
  else if src = 0x10 then s.linkReady 0
  else if src = 0x17 then s.linkReady 7
  else decide (src = 0x18) && s.dbg.goDue && s.executes

/-- The source whose turn it is: the first after the one served last that has a packet ready (R328). -/
def State.turn (s : State) : Option Nat := ((List.range 25).map fun i => (s.plinth.lastSrc + 1 + i) % 25).find? s.sourceReady

/-- Pair 0 takes packets in turn, at most n, until the turn is a function's, whose packet a fetch brings. -/
def drainTurns : Nat → State → State
  | 0, s => s
  | n + 1, s => match s.turn with
    | some 0x10 => drainTurns n (drainLink 0 s)
    | some 0x17 => drainTurns n (drainLink 7 s)
    | some 0x18 => drainTurns n (takeDebug s)
    | _ => s

/-- Every packet of the links and the debug port whose turn has come is taken: 8 of each link and one of the port. -/
def drainSources (s : State) : State := drainTurns 17 s

/-- COMMAND_RING_FETCH (R328, R330): slots holds the bytes of host memory from the ring's head on; the packet is taken when its function's
turn has come. -/
def execCommandRingFetch (fn : Fin 16) (slots : List Byte) (s : State) : Res :=
  let s1 := drainSources s
  .next (if s1.turn = some fn.val then fetchPacket fn.val slots (touchDomain .base s1) else s1)

/-- A LANE.RETRAIN from the peer of a control link crosses this device's own (R150): the end nearer the root, that of a child link, leads,
counts it and does nothing else; the other end's own command yields, and it answers the leader's request and follows it: its receiver
hunts anew (R147, R353). -/
def crossControl (k : Nat) (b : List Byte) (s : State) : Option State :=
  let l := s.link k
  if pktOp b ≠ 0x0803 ∨ l.retrain.isNone then none
  else if k ≠ 0 ∧ k ≠ 7 then some (bump 0x4 (136 + k) 5 s)
  else if l.ownRetrain then
    some (dropSync k ((answerRetrain k St.retrainYielded s).emit (.linkPacket k (replyBytes (pktOp b) (pktTag b) s.arm.addr.toNat St.ok 0 []))))
  else none

/-- A command framed on a link (R328, Table 15.5): refused on a child link or a link that is not the current upstream; else buffered,
and taken as soon as pair 0 takes commands. -/
def commandOnLink (k : Nat) (b : List Byte) (s : State) : State :=
  let l := s.link k
  if (k ≠ 0 ∧ k ≠ 7) ∨ k ≠ s.upLink then
    (crossControl k b s).getD (s.emit (.linkPacket k (replyBytes (pktOp b) (pktTag b) s.arm.addr.toNat St.pathDenied 0 [])))
  else if 8 ≤ l.rxBuf.length then armCount k 5 s
  else drainSources (s.setLink k { l with rxBuf := l.rxBuf ++ [b] })

/-- A packet with a spoilt character (R138) that this device would forward unchanged, its header whole, goes on with K30.7 in the
character's place; any other is discarded and counted in PKT_BAD (log entry 69). -/
def spoiltPacket (k : Nat) (l : List LinkChar) (s : State) : State :=
  let b := l.map charByte
  let own := s.awaits k (pktTag b).toNat || decide ((s.link k).fetch = some (pktTag b)) || (s.link k).retrain.any fun c => decide (c.tag = pktTag b)
  let down := if (k = 0 ∨ k = 7) ∧ k = s.upLink ∧ !answerClass b then s.forwardLink b else none
  let up := if k ≠ 0 ∧ k ≠ 7 ∧ answerClass b ∧ !linkLocal (pktOp b % 0x4000) ∧ !own then some s.upLink else none
  let whole := decide (16 ≤ l.length) && decide (l.length ≤ 4096) && !(l.take 16).any spoils
  match (if whole then down <|> up else none) with
  | some c => s.emit (.spoiltPacket c l)
  | none => bump 0x4 (136 + k) 4 s

/-- The bytes between two delimiters (Table 15.5). -/
def framedBytes (k : Nat) (b : List Byte) (s : State) : State :=
  if b.length < 16 then armCount k 2 s
  else if 4096 < b.length then armCount k 3 s
  else if answerClass b then (if k = 0 ∨ k = 7 then armCount k 4 s else childPacket k b s)
  else commandOnLink k b s

/-- CONTROL_LINK_PACKET (R332, Table 15.5, R138): a link without character sync delivers nothing; what was inserted into the packet is
removed before it is framed (R137). -/
def execControlLinkPacket (link : Fin 8) (frame : LinkFrame) (s : State) : Res :=
  let k := link.val
  let skip := fun b : Bool => s.setLink k { s.link k with skipping := b }
  .next (if !(s.link k).sync then s
    else match frame with
      | .framed chars =>
        let l := removeInserted 0 chars
        if l.any spoils then spoiltPacket k l (skip false) else framedBytes k (l.map charByte) (skip false)
      | .giant => armCount k 3 (skip true)
      | .strayStart => armCount k 4 (skip false)
      | .strayEnd => if (s.link k).skipping then s else armCount k 4 s)

/-! ### Backlogs (R331, R296) -/

/-- Spooled packets of a ring are written, first to last, while they fit; at most n. -/
def drainRing (n : Nat) (ev : Bool) : Nat → State → State
  | 0, s => s
  | k + 1, s =>
    let f := s.fn n
    match f.back ev with
    | [] => s
    | b :: r => if f.fits ev b then drainRing n ev k (writeRing n ev b (s.setFn n (f.setBack ev r))) else s

/-- Packets that the backlog holds. -/
def Func.spooled (f : Func) : Nat := f.backRpl.length + f.backEvt.length

/-- Network cycle from which one queue is full, after a drain: it starts anew with a write into that queue (R296). -/
def Func.fullAfter (f : Func) (ev : Bool) (before cyc : Nat) : Option Nat :=
  if (f.back ev).isEmpty then none else if (f.back ev).length < before then some cyc else f.full ev

/-- After a drain, with what each part of the backlog held before: HOSTSTALL clears once nothing is spooled (R296). -/
def settleBacklog (n rpl evt : Nat) (s : State) : State :=
  let f := s.fn n
  s.setFn n { f with
    hostStall := f.hostStall && decide (f.spooled ≠ 0), replyFull := f.fullAfter false rpl s.noc.cyc, eventFull := f.fullAfter true evt s.noc.cyc }

/-- BACKLOG_DRAIN (R331): both rings, and the marker of lost events before any later event (R326). -/
def execBacklogDrain (fn : Fin 16) (s : State) : Res :=
  let n := fn.val
  .next (if !s.fnExists n ∨ domCond .plinth s ≠ .on then s
    else
      let f := s.fn n
      let s1 := drainRing n true 256 (drainRing n false 256 (touchDomain .base s))
      putLostMarker n (settleBacklog n f.backRpl.length f.backEvt.length s1))

/-! ### Ring errors (R471) -/

/-- The last packet written into a ring. -/
def lastWritten (n : Nat) (ev : Bool) (l : List Output) : Option (List Byte) :=
  l.reverse.findSome? fun o => match o with
    | .ringPacket m e b => if m = n ∧ e = ev then some b else none
    | _ => none

/-- The packet whose write failed goes back to the head of the backlog, its slots unwritten. -/
def takeBack (n : Nat) (ev : Bool) (s : State) : State :=
  match lastWritten n ev s.out with
  | none => s
  | some b =>
    let f := s.fn n
    let r := f.ring ev
    if r.filled < slotsOf b then s
    else s.setFn n ((f.setRing ev { r with tail := r.after r.tail (r.size - slotsOf b) }).setBack ev (b :: f.back ev))

/-- RING_ACCESS_ERROR (R471): the rings go out of service, RINGERR is set, and a packet being written is spooled. -/
def execRingAccessError (fn : Fin 16) (ring : Ring) (s : State) : Res :=
  let n := fn.val
  .next (if !(s.fn n).enable then s
    else
      let s1 := match ring with
        | .cmd => s
        | .rpl => takeBack n false s
        | .evt => takeBack n true s
      s1.setFn n { s1.fn n with enable := false, qactive := false, ringErr := true, replyFull := none, eventFull := none })

/-! ### Reset of a function (Table 23.5) -/

/-- ACCSEQ of the commands of a source that are accepted and not completed (R335). -/
def State.outstanding (s : State) (src : Nat) : List U32 :=
  (s.plinth.accepted.filterMap instrCtx ++ s.plinth.deferred.map (·.ctx) ++ s.plinth.open_.map (·.ctx) ++ s.asking.map (·.1) ++ s.plinth.held.map (·.ctx)).filterMap fun c =>
    if c.src.toNat = src then some c.accSeq else none

/-- An element has a host-side end (Table 11.6). -/
def hostSide (e : DmaElem) : Bool := decide (e.dir = 0) || decide (e.dir = 1)

end Sys2Proof.Machine
end

