-- ==== Sys2Proof/Machine/Clocktick.lean ====
section
/-!
DEFINITION. Clocktick.lean: one step period passing while no command waits: what the transmitters send in the step (R116, R301,
Table 6.8), what falls due with it, and the counters that advance.
-/
namespace Sys2Proof.Machine

/-! ### What a block lane sends -/

/-- A twin of a paired system that is not carrier sends IDLE on its system-exchange lanes (R116, R305). -/
def State.sendsIdle (s : State) (x : Partition) : Bool :=
  decide (x.phase = .stopped) || decide (x.st ≠ .running) ||
    (x.paired && s.paired && decide (s.pend.role ≠ 1))

/-- Bit of a transmit position in the block of this step: a through position forwards what the receive stage delivers now, another
carries what was exported 16 steps ago, 0 during a halt (R110, R111, R456). -/
def State.txBit (s : State) (pos : Nat) : Bool :=
  let e := smGet 0#16 s.arr.thrReg pos
  if mapV e then smGet false s.arr.sxRx (s.cnt * 9216 + mapIdx e) else s.clk.halt.isNone && smGet false s.arr.sxTx (s.cnt * 9216 + pos)

/-- Payload of a data block on a lane: in a paired system lanes 4 to 7 carry a mirror of lanes 0 to 3 (Table 5.1). -/
def State.dataPayload (s : State) (x : Partition) (n : Nat) : BitVec 72 :=
  let base := if x.paired then baseLane n else n
  BitVec.ofNat 72 (maskOf ((List.range 72).filter fun b => s.txBit (72 * base + b)))

/-- TRAIN content of a lane: RXLOCK reports lock, and in CALIBRATE its end (Table 6.4, R146). -/
def State.trainPayload (s : State) (n : Nat) : BitVec 72 :=
  let l := s.lane n
  let cal := decide (l.st = .calibrate)
  controlPayload 2 (trainContent (if n < 128 then s.arm.addr.toNat else 0) n (cal && l.bicOk) l.eqDone (if cal then l.calDone else l.lock))

/-- Calibration content: 31 CAL blocks, a CALB block, and 8 TRAIN blocks between the bursts (R132, R146). -/
def State.calPayload (s : State) (p n : Nat) : BitVec 72 :=
  let x := s.part p
  let k := (s.clk.now - (s.lane n).since) % 40
  if k < 31 then controlPayload 1 (calContent s.arm.addr.toNat (n / 8) (n % 8) x.scope16 x.frameLen (x.cls (n / 8)) s.cnt)
  else if k = 31 then controlPayload 6 (calbContent s.ident.bic.toNat x.scope16)
  else s.trainPayload n

/-- Header and payload that a block lane sends in this step from its state (Table 6.8). -/
def State.laneContent (s : State) (n : Nat) : Nat × BitVec 72 :=
  let l := s.lane n
  match l.silentAt with
  | some t => (hdrControl, if s.cnt + 64 ≤ t then controlPayload 5 (t % 65536) else 0)
  | none => match l.st with
    | .trainEq | .hunt | .linkup | .recover => (hdrControl, s.trainPayload n)
    | .sleep => (hdrControl, if l.waking then s.trainPayload n else 0)
    | .calibrate => match s.laneOwner n with
      | some p => (hdrControl, s.calPayload p n)
      | none => (hdrControl, 0)
    | .active => match s.laneOwner n with
      | some p => if s.sendsIdle (s.part p) then (hdrControl, 0) else (hdrData, s.dataPayload (s.part p) n)
      | none => (hdrControl, 0)
    | _ => (hdrControl, 0)

/-- The bits of a block or character of w bits that a lane sends, with an armed injection flipped into them after their coding (R153). -/
def injectInto (n w v : Nat) (s : State) : Nat × State :=
  let l := s.lane n
  match l.inject with
  | some (len, pos, none) => (v ^^^ flipMask len pos, s.setLane n { l with inject := burstRest w len pos })
  | _ => (v, s)

/-- A block leaves on a lane as 40 PAM4 symbols (R129). -/
def putBlock (n : Nat) (b : Block) (s : State) : State :=
  let (v, s1) := injectInto n 80 b.toNat s
  s1.emit (.laneBlock n s.cnt (pam4 (BitVec.ofNat 80 v)))

/-- A block is built, scrambled and sent (R129, R130). -/
def sendBlock (n hdr : Nat) (payload : BitVec 72) (s : State) : State :=
  let (b, scr) := buildBlock hdr payload (s.lane n).scr
  putBlock n b (s.setLane n { s.lane n with scr := scr })

/-- A pattern of 80 bits replaces the block (R151). -/
def sendPattern (n : Nat) (s : State) : State :=
  let l := s.lane n
  let (bits, r) := prbsBits l.gen.toNat 80 l.prbs.toNat []
  putBlock n (BitVec.ofNat 80 (natMsb bits)) (s.setLane n { l with prbs := BitVec.ofNat 31 r })

/-! ### Pendant blocks -/

/-- A payload sent enters the interval of the next TAG (R303). -/
def logSent (wire : BitVec 72) (s : State) : State :=
  if s.authOn s.cnt then { s with pend := { s.pend with txLog := s.pend.txLog ++ [wire] } } else s

/-- A pendant data block is encrypted, enters the interval of the next TAG, and is sent (R301, R303); units and messages are kept
until a TAG result is reported. -/
def sendPendantData (n ptype : Nat) (content : U64) (s : State) : State :=
  let wire := pendantCrypt s.cnt (n - 128) (bitNat s.ident.pendSide) (BitVec.ofNat 8 ptype ++ content) s
  let keep := decide (5 ≤ ptype) && decide (ptype ≤ 7) && s.authOn s.cnt
  let s1 := if keep then { s with pend := { s.pend with sentNow := s.pend.sentNow ++ [(ptype, content)] } } else s
  sendBlock n hdrData wire (if ptype = 4 then s1 else logSent wire s1)

/-- The next XADDR or XDATA block, or the filler. -/
def sendBulk (n : Nat) (s : State) : State :=
  match s.pend.bulk with
  | [] => sendPendantData n 0 0 s
  | (t, v) :: r => sendPendantData n t v { s with pend := { s.pend with bulk := r } }

/-- The STAMP block (R304). -/
def sendStamp (n : Nat) (s : State) : State :=
  let payload := controlPayload 7 s.cnt
  sendBlock n hdrControl payload (logSent payload { s with pend := { s.pend with stampDue := false } })

/-- Content of a block at its transmission: HB carries the step counter, TAG the interval's tag (Table 14.2, R303). -/
def blockContent (ptype : Nat) (v : U64) (s : State) : U64 :=
  if ptype = 1 then BitVec.ofNat 64 (s.cnt % 65536 * 2 ^ 48 + v.toNat % 2 ^ 48)
  else if ptype = 4 then Config.gmac (s.keys.pairKey.getD 0) (tagIv s.cnt (bitNat s.ident.pendSide)) s.pend.txLog
  else v

/-- A TAG closes the interval of what was sent (R303). -/
def closeInterval (s : State) : State :=
  { s with pend := { s.pend with txLog := [], unverified := s.pend.unverified ++ s.pend.sentNow.map (fun e => (s.cnt, e)), sentNow := [] } }

/-- The block of the lowest lane in use (R301, R304): STAMP when due unless HB, SIGF, SIG or TAG falls here, then what waits, then bulk. -/
def sendLowest (n : Nat) (s : State) : State :=
  match s.pend.sendq with
  | [] => if s.pend.stampDue then sendStamp n s else sendBulk n s
  | (t, v) :: r =>
    if s.pend.stampDue ∧ t = 5 then sendStamp n s
    else
      let s1 := { s with pend := { s.pend with sendq := r } }
      let c := blockContent t v s
      sendPendantData n t c (if t = 4 then closeInterval s1 else s1)

/-- A pendant lane in READY while a pair exists (R301). -/
def sendPair (n : Nat) (s : State) : State :=
  let used := s.lanesInUse 16
  if used.head? = some n then sendLowest n s
  else if used.contains n then sendBulk n s
  else sendPendantData n 0 0 s

/-! ### Control links (R135 to R137) -/

/-- A packet's characters wait behind those before it. -/
def queuePacket (k : Nat) (l : List LinkChar) (s : State) : State := s.setLink k { s.link k with txChars := (s.link k).txChars ++ packetChars l }
/-- A sequence waits to be inserted. -/
def queueSequence (k : Nat) (l : List LinkChar) (s : State) : State := s.setLink k { s.link k with txSeqs := (s.link k).txSeqs ++ [l] }

/-- What was handed to a control link becomes its characters: packets framed (R332), each marker of the two that follow each other (R367),
a Horizon mark and a time-sync sequence (R370, R385). -/
def queueOutput (s : State) (o : Output) : State :=
  match o with
  | .linkPacket k b => queuePacket k (b.map LinkChar.data) s
  | .spoiltPacket k l => queuePacket k l s
  | .marker k t sc f a => queueSequence k (markerChars t sc f a) s
  | .horizonMark k sc f t => queueSequence k (horizonChars sc f t) s
  | .timeSync k t q ta tb st state => queueSequence k (timeSyncChars t q ta tb st state) s
  | _ => s

/-- Everything handed to the control links since the last step is queued. -/
def queueOutputs (s : State) : State :=
  let s1 := (s.out.drop s.queued).foldl queueOutput s
  { s1 with queued := s.out.length }

/-- The next character of a control link: the rest of a sequence; a comma before 256 characters pass without one; a sequence that waits;
then packets; else the idle comma (R136, R137). An unassigned device sends nothing else on S1 to S6 (R384). -/
def nextChar (quiet : Bool) (l : CtlLink) : LinkChar × CtlLink :=
  match l.txSeq, l.txSeqs, l.txChars with
  | c :: r, _, _ => (c, { l with txSeq := r, sinceComma := l.sinceComma + 1 })
  | [], q :: qs, _ =>
    if quiet ∨ 256 ≤ l.sinceComma + q.length then (comma, { l with sinceComma := 0 })
    else (q.headD comma, { l with txSeqs := qs, txSeq := q.tail, sinceComma := l.sinceComma + 1 })
  | [], [], c :: r =>
    if quiet ∨ 255 ≤ l.sinceComma then (comma, { l with sinceComma := 0 }) else (c, { l with txChars := r, sinceComma := l.sinceComma + 1 })
  | [], [], [] => (comma, { l with sinceComma := 0 })

/-- A character begins in a step: ten bits at four bits a step (Table 6.1). -/
def charBegins (t : Nat) : Bool := decide ((10 - 4 * t % 10) % 10 < 4)

/-- Ten bits leave on a control lane (R135, R151, R153). -/
def sendChar (k : Nat) (s : State) : State :=
  let n := 136 + k
  let l := s.lane n
  let put := fun (v : Nat) (a : State) => (let (w, b) := injectInto n 10 v a; b.emit (.laneChar n s.cnt (BitVec.ofNat 10 w)))
  if l.st = .pattern ∧ l.gen ≠ 0 then
    let (bits, r) := prbsBits l.gen.toNat 10 l.prbs.toNat []
    put (natMsb bits) (s.setLane n { l with prbs := BitVec.ofNat 31 r })
  else
    let (c, y) := nextChar (!s.clk.counterOk && decide (1 ≤ k) && decide (k ≤ 6)) (s.link k)
    let v := encodeChar c y.txPos
    put v (s.setLink k { y with txPos := disparityAfter v y.txPos })

/-- A control link sends while its transmitter is on; during a coast S1 to S6 are silent (R391). -/
def sendControl (s : State) (k : Nat) : State :=
  if !(s.lane (136 + k)).transmits ∨ (s.clk.coast ∧ 1 ≤ k ∧ k ≤ 6) then s else sendChar k s

/-- The control links' transmitters in this step: they run from PD_PLINTH (Table 6.1). -/
def sendControls (s : State) : State :=
  if domCond .plinth s ≠ .on ∨ !charBegins s.clk.now then s else (List.range 8).foldl sendControl s

/-! ### The step -/

/-- What a block lane sends in this step: requests and acknowledgements first (R147). DESIGN CHOICE: a lane in PATTERN whose generator is off
sends IDLE blocks, a control lane its normal characters (R151, log entry 78). -/
def sendLane (s : State) (n : Nat) : State :=
  let l := s.lane n
  if 136 ≤ n ∨ !l.transmits then s
  else match l.txq with
    | q :: r => sendBlock n hdrControl q (s.setLane n { l with txq := r })
    | [] =>
      if l.st = .pattern ∧ l.gen ≠ 0 then sendPattern n s
      else if 128 ≤ n ∧ s.pendantOn ∧ (l.st = .ready ∨ l.st = .peerSleep) ∧ l.silentAt.isNone then sendPair n s
      else let (h, p) := s.laneContent n; sendBlock n h p s

/-- Every transmitter sends; during a coast block lanes are silent (R391). -/
def sendAll (s : State) : State := if !s.clk.pll || s.clk.coast then s else (s.lanes.map (·.1)).foldl sendLane s

/-- A copy as its lane stands at delivery: absent once the lane has left ACTIVE or its lock is lost (R143, R118). -/
def State.copyNow (s : State) (c : LaneCopy) : CopyKind × BitVec 72 :=
  if (s.lane c.lane).st = .active ∧ (s.lane c.lane).lock then (c.kind, c.payload) else (.absent, 0)

/-- Copies whose step of delivery has come without the other copy resolve with it absent (R118). -/
def dueCopies (s : State) : State :=
  let due := s.arr.copies.filter fun c => decide (c.step ≤ s.cnt)
  due.foldl (fun a c =>
    match a.laneOwner c.lane with
    | some p =>
      if c.lane = baseLane c.lane then resolveCopies p c.lane c.step (a.copyNow c) (.absent, 0) a
      else resolveCopies p (baseLane c.lane) c.step (.absent, 0) (a.copyNow c) a
    | none => a) { s with arr := { s.arr with copies := s.arr.copies.filter fun c => decide (s.cnt < c.step) } }

/-- Exchange bits that no later step reads are dropped: an ejection reaches back 16 steps (R112). -/
def pruneExchange (s : State) : State :=
  { s with arr := { s.arr with
      sxTx := smDrop (fun k => decide (k / 9216 ≤ s.cnt)) s.arr.sxTx, sxRx := smDrop (fun k => decide (k / 9216 + 17 ≤ s.cnt)) s.arr.sxRx } }

/-- The counter moves by one while the PLL runs; at the coast rate every fourth period, while system time goes on from the
oscillator (R384, R391, R397, R395). -/
def advanceClock (runs : Bool) (k : Clock) : Clock :=
  let k1 := { k with now := k.now + 1 }
  if !runs then k1
  else
    let k2 := advanceOffset k1
    if k.coast ∧ k.now % 4 ≠ 3 then { k2 with offset := k2.offset + 1 } else { k2 with count := k2.count + 1 }

/-- The network clock has an edge in this period (R284): every one, and at the coast rate every fourth. -/
def State.nocCycle (s : State) : Bool := s.nocRuns && (!s.clk.coast || decide (s.clk.now % 4 = 3))

/-- One step period passes (log entry 7): what falls due at it, the packets that wait in link buffers, and the counters. In Sleep the
assigned counter goes on from the upstream's characters (R398). -/
def passStep (s : State) : State :=
  let s1 := if s.clk.pll then startWaiting <| finishWaits <| pairStep <| linkRaised (pruneExchange (sendAll (dueCopies (applyOr (eachPart retestFaultHold (eachPart decideDue s)))))) else s
  let s2 := applyFixes <| sendControls (queueOutputs (drainOwn (drainSources (releaseReplies <| advanceQueries ((s1.lanes.map (·.1)).foldl restartLane s1)))))
  let runs := s2.clk.pll || (decide (s2.pwr.dom = .sleep) && s2.clk.counterOk)
  { s2 with clk := advanceClock runs s2.clk, noc := if s2.nocCycle then { s2.noc with cyc := s2.noc.cyc + 1 } else s2.noc }

end Sys2Proof.Machine
end

