-- ==== Sys2Proof/Machine/Dma.lean ====
section
/-!
DEFINITION. Dma.lean: group 0x06 (Table 16.7) and the events of the DMA engines (R256 to R259): elements of submitted lists, image
reads, Cast saves.
-/
namespace Sys2Proof.Machine

/-! ### Submission (R256) -/

/-- A job-space range that leaves the 48-bit space. -/
def badRange (addr len : Nat) : Bool := decide (2 ^ 48 ≤ addr) || decide (2 ^ 48 < addr + len)

/-- An element that R256 refuses. -/
def badElem (e : DmaElem) : Bool :=
  let src := e.src.toNat
  let dst := e.dst.toNat
  let n := e.len.toNat
  decide (2 < e.dir.toNat) || decide (e.rsvd ≠ 0) || decide (n = 0) || decide (16777216 < n) ||
    (decide (e.dir ≠ 0) && badRange src n) || (decide (e.dir ≠ 1) && badRange dst n) ||
    (decide (e.dir = 2) && decide (src < dst + n) && decide (dst < src + n))

/-- A list waits while a command of lower ACCSEQ holds, or waits for, a page that one of its elements reaches (R338). -/
def listWait (c : CmdCtx) (jsid : Nat) (l : List DmaElem) (go : State → State) (s : State) : State :=
  let ranges := l.flatMap (elemRanges jsid)
  if ranges.any (fun r => s.pagesHeld r.1 r.2.1 r.2.2) ∨ s.acceptedBefore c (fun i => (s.pagesOf i).any fun a => ranges.any (pagesMeet a)) then s else go s

/-- DMA.SUBMIT: the whole list is checked, then it joins the least loaded engine. -/
def execDmaSubmit (c : CmdCtx) (count jsid : Byte) (rsvd : U16) (utag : U32) (elems : List DmaElem) (extra : Nat) (s : State) : Res :=
  .next (listWait c jsid.toNat elems (immediate .j 0x0601 c (fun s =>
    if rsvd ≠ 0 ∨ 16 ≤ jsid.toNat then reply c 0x0601 St.argRange [] s
    else if foreignJs c jsid.toNat then reply c 0x0601 St.jsDenied [] s
    else if elems.length ≠ count.toNat ∨ extra ≠ 0 ∨ count = 0 ∨ 64 < count.toNat ∨ elems.any badElem then reply c 0x0601 St.dmaList [] s
    else if s.memGone then reply c 0x0601 St.memUnavailable [] s
    else match s.pickEngine with
      | none => reply c 0x0601 St.dmaBusy [] s
      | some e =>
        reply c 0x0601 St.accepted (leBytes 1 e ++ zeros 3 ++ leBytes 4 s.lseq.toNat) (enqueue e .list (some c) jsid.toNat utag elems s))) s)

/-! ### Resume, abort, status (R259, R351) -/

/-- The suspended list of an engine that a command names: the list, or the status that refuses the command; first of all that of naming a list
of another job space, whatever its state (R342). -/
def suspendedList (c : CmdCtx) (eng : Byte) (rsvd : BitVec 24) (lseq : U32) (s : State) : Except Nat DmaList :=
  if rsvd ≠ 0 ∨ 16 ≤ eng.toNat then .error St.argRange
  else if (s.lists eng.toNat).any fun l => decide (l.lseq = lseq) && foreignJs c l.jsid then .error St.jsDenied
  else match s.lists eng.toNat with
    | [] => .error St.wrongState
    | l :: _ =>
      if !l.suspended then .error St.wrongState
      else if foreignJs c l.jsid then .error St.jsDenied
      else if l.lseq ≠ lseq then .error St.argRange
      else .ok l

/-- DMA.RESUME: the faulted element starts again from its first byte. -/
def execDmaResume (c : CmdCtx) (eng : Byte) (rsvd : BitVec 24) (lseq : U32) (s : State) : Res :=
  .next (immediate .j 0x0602 c (fun s =>
    match suspendedList c eng rsvd lseq s with
    | .error st => reply c 0x0602 st [] s
    | .ok l => reply c 0x0602 St.ok [] (setHead eng.toNat { l with suspended := false, done := 0, losses := 0, joined := [] } (clearEngine eng.toNat s))) s)

/-- A save of a Cast ends: its command learns the outcome. -/
def endSave (p code : Nat) (s : State) : State :=
  let x := s.part p
  let s1 := s.setPart p { x with saveCtx := none, shadow := if x.st = .empty then none else x.shadow }
  completeOpt x.saveCtx code [] (endCast p s1)

/-- The SAVE of a switch ends: its phase event is posted; a Cast that is void or incomplete is reported (Table 11.9). -/
def endSwitchSave (p : Nat) (lost : Bool) (s : State) : State :=
  let x := s.part p
  let s1 := if lost then partEvent St.castLost 0x8 p [] s else phaseEvent p 5 s
  endCast p (s1.setPart p { x with
    switch := x.switch.map fun w => { w with saveVoid := w.saveVoid || lost }, shadow := if x.st = .empty then none else x.shadow })

/-- The record of a save that ended early is void (Table 11.9). -/
def voidShadow (p : Nat) (s : State) : State :=
  s.setPart p { s.part p with shadow := (s.part p).shadow.map fun r => { r with void := true } }

/-- What the abort of a list ends besides it (R259, R168, Table 11.9). -/
def abortKind (l : DmaList) (s : State) : State :=
  match l.kind with
  | .list => completeOpt l.ctx St.transFault (leBytes 4 l.utag.toNat ++ leBytes 2 l.k ++ zeros 2 ++ leBytes 4 l.done) s
  | .load p => failLoad p St.loadFault [] s
  | .region p =>
    match (s.part p).reconfig.find? fun r => decide (some r.ctx = l.ctx) with
    | some r => failReconfig p r.mask.toNat St.loadFault s
    | none => s
  | .save p => endSave p St.castLost (voidShadow p s)
  | .switchSave p => endSwitchSave p true (voidShadow p s)
  | .restore p => endRestore p St.loadFault s

/-- DMA.ABORT. -/
def execDmaAbort (c : CmdCtx) (eng : Byte) (rsvd : BitVec 24) (lseq : U32) (s : State) : Res :=
  .next (immediate .j 0x0603 c (fun s =>
    match suspendedList c eng rsvd lseq s with
    | .error st => reply c 0x0603 st [] s
    | .ok l => abortKind l (reply c 0x0603 St.ok (leBytes 2 l.k ++ zeros 2 ++ leBytes 4 l.done) (dropHead eng.toNat (clearEngine eng.toNat s)))) s)

/-- Result of DMA.STATUS; a virtual function sees no list of another job space (R351). -/
def dmaStatusData (c : CmdCtx) (eng : Nat) (s : State) : List Byte :=
  let ls := s.lists eng
  match ls with
  | [] => zeros 16
  | l :: _ =>
    let hide := foreignJs c l.jsid
    leBytes 1 (if l.suspended then 2 else 1) ++ leBytes 1 ls.length ++ zeros 2 ++ leBytes 4 (if hide then 0 else l.lseq.toNat) ++
      leBytes 2 (if hide then 0 else l.k) ++ zeros 2 ++ leBytes 4 (if hide then 0 else l.done)

/-- DMA.STATUS. -/
def execDmaStatus (c : CmdCtx) (eng : Byte) (rsvd : BitVec 24) (s : State) : Res :=
  .next (immediate .j 0x0604 c (fun s =>
    if rsvd ≠ 0 ∨ 16 ≤ eng.toNat then reply c 0x0604 St.argRange [] s
    else reply c 0x0604 St.ok (dmaStatusData c eng.toNat s) s) s)

/-! ### Elements as they end (R257, R258) -/

/-- A submitted list's element moves; the next begins, or the list completes, once all its lines have left the merge buffer (R257). -/
def runElement (eng : Nat) (l : DmaList) (host : List Byte) (s : State) : State :=
  match l.elems[l.k]? with
  | none => completeOpt l.ctx St.ok (leBytes 4 l.utag.toNat) (dropHead eng s)
  | some e =>
    if l.joined ≠ [] then s
    else match moveElem (s.listAccess l) e host s with
    | (some f, s1) => suspendList eng l l.k f s1
    | (none, s1) =>
      match s1.joinedLines (s.listAccess l) e with
      | [] => finishElement eng l s1
      | w => setHead eng { l with joined := w } s1

/-- Length of what a list reads whole: an image's is that of its command, which may pass 32 bits (R161, R193). -/
def readLen (l : DmaList) (s : State) : Nat :=
  match l.kind with
  | .load p => (s.part p).llen
  | .region p => (((s.part p).reconfig.find? fun r => decide (some r.ctx = l.ctx)).map (·.len)).getD 0
  | _ => (l.elems.headD (imageElem 0 0)).len.toNat

/-- The bytes of an image that a list names, read through its job space. -/
def readImage (l : DmaList) (s : State) : List Byte × Option XferFault × State :=
  readJob (s.listAccess l) (l.elems.headD (imageElem 0 0)).src.toNat (readLen l s) s

/-- Where the next element of a gather starts (R168): the offset after an element, in image order. -/
def nextElement (secs : List Section) (off : Nat) : Option Nat :=
  let later := ((List.range secs.length).zip secs).filter fun e => decide (off < e.2.offset)
  (later.foldl (fun (b : Option (Nat × Nat)) e => match b with
    | some (_, o) => if e.2.offset < o then some (e.1, e.2.offset) else b
    | none => some (e.1, e.2.offset)) none).map (·.1)

/-- An element of a maquette load has been read: the next one is in progress. What the elements hold is checked and written when the
load completes. -/
def loadElement (eng : Nat) (l : DmaList) (s : State) : State :=
  match readImage l s with
  | (_, some _, _) => s
  | (b, none, _) =>
    let secs := (imageOf b).sections
    let off := if l.k = 0xFFFF then 0 else (secs[l.k]?.map (·.offset)).getD 0
    match nextElement secs off with
    | some k => setHead eng { l with k := k, done := 0 } s
    | none => s

/-- The read of an image or a record meets a fault: bad data leaves its record and ends the operation, a translation fault suspends its
list (R253). -/
def imageReadFault (eng : Nat) (l : DmaList) (f : XferFault) (s : State) : State :=
  let src := (l.elems.headD (imageElem 0 0)).src.toNat
  let (k, g) := match l.kind with
    | .restore _ => (0, ({ srcSide := true, f := f } : ElemFault))
    | _ => imageFault l.jsid src f s
  if f.cause = 7 then abortKind l (dropHead eng (recordFault eng l k g s)) else suspendList eng l k g s

/-- A partial image has been read (R194), or its read has met a fault. -/
def regionElement (eng p : Nat) (l : DmaList) (s : State) : State :=
  match readImage l s with
  | (_, some f, s1) => imageReadFault eng l f s1
  | (b, none, s1) =>
    match l.ctx with
    | some c => takePartial p c b (dropHead eng s1)
    | none => dropHead eng s1

/-- Lines of job space that hold shadow words found bad are stored poisoned (Table 11.9). -/
def poisonWords (v : Access) (dst : Nat) (bad : List Nat) (s : State) : State :=
  let lines := (bad.map fun w => (dst + 8 * w) / 64 * 64).eraseDups
  lines.foldl (fun a d => match translate a v d true false with | .ok ph => poisonLine v.jsid (v.kix.getD 0) (ph / 64) a | .error _ => a) s

/-- Runs of a record written to job space, with DONE counted from the record's start. -/
def writeRuns (w : Access) (dst : Nat) (r : CastRec) : List (Nat × Nat) → State → Option XferFault × State
  | [], s => (none, s)
  | (o, n) :: l, s => match writeJob w (dst + o) (r.bytesFrom o n) s with
    | (some f, s1) => (some { f with done := o + f.done }, s1)
    | (none, s1) => writeRuns w dst r l s1

/-- Runs that a save's list writes: SLICE SAVE (element 1) the contexts held back, SAVE the rest, or all once no tick will follow (R261). -/
def State.saveRuns (s : State) (p : Nat) (l : DmaList) (r : CastRec) : List (Nat × Nat) :=
  if l.k = 1 then r.runs true else if l.kind = .switchSave p ∧ (s.part p).switch.isSome then r.runs false else [(0, r.len)]

/-- Every run of a record has been written: bad words are stored poisoned, and the save ends; SLICE SAVE ends with its phase. -/
def endRuns (eng p : Nat) (l : DmaList) (r : CastRec) (runs : List (Nat × Nat)) (s : State) : State :=
  let bad := r.bad.filter fun w => runs.any fun e => decide (e.1 ≤ 8 * w) && decide (8 * w < e.1 + e.2)
  let s1 := dropHead eng (poisonWords (s.listAccess l) (l.elems.headD (imageElem 0 0)).dst.toNat bad s)
  if l.k = 1 then s1.setPart p { s1.part p with shadow := if (s1.part p).st = .empty then none else (s1.part p).shadow }
  else if l.kind = .switchSave p then endSwitchSave p (decide (r.bad ≠ [])) s1
  else endSave p (if r.bad = [] then St.ok else St.castLost) s1

/-- A record is written to job space (R465, R261); a fault suspends the list and the shadow keeps the data. -/
def saveElement (eng p : Nat) (l : DmaList) (s : State) : State :=
  match (s.part p).shadow with
  | none => dropHead eng s
  | some r =>
    match writeRuns (s.listAccess l) (l.elems.headD (imageElem 0 0)).dst.toNat r (s.saveRuns p l r) s with
    | (some f, s1) => suspendList eng l l.k { srcSide := false, f := f } s1
    | (none, s1) => endRuns eng p l r (s.saveRuns p l r) s1

/-- What the end of an element does, by what its list carries. -/
def elementDone (eng : Nat) (l : DmaList) (host : List Byte) (s : State) : State :=
  match l.kind with
  | .list => runElement eng l host s
  | .load _ => loadElement eng l s
  | .region p => regionElement eng p l s
  | .save p | .switchSave p => saveElement eng p l s
  | .restore _ => s

/-- DMA_ELEMENT_COMPLETE (R257): the engine's element in progress ends; engines stand still while the device is halted (R456). -/
def execDmaElementComplete (eng : Fin 16) (hostData : List Byte) (s : State) : Res :=
  .next (match s.lists eng.val with
    | [] => s
    | l :: _ => if l.suspended ∨ s.clk.halt.isSome then s else elementDone eng.val l hostData s)

/-- A submitted list's element faults: with a host error the host bytes that came are all there are (R258). -/
def faultElement (eng : Nat) (l : DmaList) (host : List Byte) (hostError : Bool) (s : State) : State :=
  match l.elems[l.k]? with
  | none => s
  | some e =>
    let data := if e.dir = 0 ∧ hostError then host.take (e.len.toNat - 1) else host
    if l.joined ≠ [] then s
    else match moveElem (s.listAccess l) e data s with
    | (some f, s1) => suspendList eng l l.k f s1
    | (none, _) => s

/-- The list's next element cannot be performed: it suspends or, on bad data, ends. -/
def elementFault (eng : Nat) (l : DmaList) (host : List Byte) (hostError : Bool) (s : State) : State :=
  match l.kind with
  | .list => faultElement eng l host hostError s
  | .load _ | .region _ | .restore _ =>
    match readImage l s with
    | (_, some f, s1) => imageReadFault eng l f s1
    | (_, none, _) => s
  | .save p | .switchSave p =>
    match (s.part p).shadow with
    | none => s
    | some r => match writeRuns (s.listAccess l) (l.elems.headD (imageElem 0 0)).dst.toNat r (s.saveRuns p l r) s with
      | (some f, s1) => suspendList eng l l.k { srcSide := false, f := f } s1
      | (none, _) => s

/-- DMA_ELEMENT_FAULT (R258). -/
def execDmaElementFault (eng : Fin 16) (hostData : List Byte) (hostError : Bool) (s : State) : Res :=
  .next (match s.lists eng.val with
    | [] => s
    | l :: _ => if l.suspended ∨ s.clk.halt.isSome then s else elementFault eng.val l hostData hostError s)

/-- PCIE_COMPLETION_TIMEOUT (R296, R253): a host read of the element in progress never completes; the engine sees HOST_ERROR. -/
def execPcieCompletionTimeout (eng : Fin 16) (s : State) : Res :=
  .next (match s.lists eng.val with
    | [] => s
    | l :: _ => if l.suspended ∨ l.kind ≠ .list then s else faultElement eng.val l [] true s)

end Sys2Proof.Machine
end

