-- ==== Sys2Proof/Machine/Host.lean ====
section
/-!
DEFINITION. Host.lean: the registers of a function page and of the device page (Tables 23.3 and 23.4), their interrupts, and the resets
and states that PCI Express gives a function (Table 23.5, R467, R469).
-/
namespace Sys2Proof.Machine

/-- A register access of a function (R467 to R469): the function exists, its BARs are enabled and the endpoint has power; an endpoint in
retention wakes (R407). -/
def hostAccess (n : Nat) (body : State → State) (s : State) : State :=
  if !s.fnExists n || (s.fn n).d3hot || decide (domCond .base s = .off) then s else body (touchDomain .base s)

/-- DOORBELL_BAD of a function (R329, R472), an unsolicited event (R326): REG and VALUE after the common fields. -/
def badDoorbell (n reg : Nat) (value : U32) (s : State) : State :=
  postEvent St.doorbellBad 0x8 0xFF (some n) (leBytes 2 reg ++ zeros 2 ++ leBytes 4 value.toNat) s

/-! ### Ring registers (R471, R472) -/

/-- Doorbell of the command ring (R329). -/
def writeCmdDb (n : Nat) (value : U32) (s : State) : State :=
  let f := s.fn n
  let v := value.setWidth 16
  if !f.enable then s
  else if f.cmd.size ≤ v.toNat then badDoorbell n 0x110 value s
  else s.setFn n { f with cmd := { f.cmd with tail := v }, awaitsBell := false }

/-- An index lies among the slots that the device has filled and the host has not returned, or just behind them. -/
def RingRegs.returns (r : RingRegs) (v : Nat) : Bool := decide (v < r.size) && decide ((v + r.size - r.head.toNat) % r.size ≤ r.filled)

/-- The host returns slots of the reply (false) or event (true) ring (R472). -/
def writeHead (n : Nat) (ev : Bool) (value : U32) (s : State) : State :=
  let f := s.fn n
  let r := f.ring ev
  let v := value.setWidth 16
  if !f.enable then s
  else if r.returns v.toNat then s.setFn n (f.setRing ev { r with head := v })
  else badDoorbell n (if ev then 0x14C else 0x12C) value s

/-- Indexes of a ring at 0. -/
def RingRegs.zero (r : RingRegs) : RingRegs := { r with head := 0, tail := 0 }

/-- Every index of a function at 0. -/
def zeroRings (f : Func) : Func := { f with cmd := f.cmd.zero, rpl := f.rpl.zero, evt := f.evt.zero, awaitsBell := false }

/-- Two rings overlap in host memory. -/
def overlap (a b : RingRegs) : Bool :=
  decide (a.base.toNat < b.base.toNat + 64 * b.size) && decide (b.base.toNat < a.base.toNat + 64 * a.size)

/-- A write of ENABLE = 1 is refused (R471). -/
def Func.cfgBad (f : Func) : Bool :=
  [f.cmd, f.rpl, f.evt].any (fun r => decide (r.log2.toNat < 7) || decide (16 < r.log2.toNat)) ||
    overlap f.cmd f.rpl || overlap f.cmd f.evt || overlap f.rpl f.evt

/-- A write of CTRL.ENABLE. -/
def writeEnable (n : Nat) (enable : Bool) (s : State) : State :=
  let f := s.fn n
  if !enable then s.setFn n { f with enable := false, qactive := false, replyFull := none, eventFull := none }
  else if f.cfgBad then s.setFn n { f with enable := false, qactive := false, cfgErr := true, replyFull := none, eventFull := none }
  else s.setFn n { zeroRings f with enable := true, qactive := true, replyFull := none, eventFull := none }

/-- A write of 1 to CTRL.QRESET while ENABLE is 0: the backlog is discarded and every index zeroed (Table 23.3). -/
def writeQreset (n : Nat) (s : State) : State :=
  let f := s.fn n
  if f.enable then s else s.setFn n { zeroRings f with backRpl := [], backEvt := [], hostStall := false, replyFull := none, eventFull := none }

/-- CMD_DB_WRITE. -/
def execCmdDbWrite (fn : Fin 16) (value : U32) (s : State) : Res := .next (hostAccess fn.val (writeCmdDb fn.val value) s)
/-- RPL_HEAD_WRITE. -/
def execRplHeadWrite (fn : Fin 16) (value : U32) (s : State) : Res := .next (hostAccess fn.val (writeHead fn.val false value) s)
/-- EVT_HEAD_WRITE. -/
def execEvtHeadWrite (fn : Fin 16) (value : U32) (s : State) : Res := .next (hostAccess fn.val (writeHead fn.val true value) s)
/-- CTRL_ENABLE_WRITE. -/
def execCtrlEnableWrite (fn : Fin 16) (enable : Bool) (s : State) : Res := .next (hostAccess fn.val (writeEnable fn.val enable) s)
/-- CTRL_QRESET. -/
def execCtrlQreset (fn : Fin 16) (s : State) : Res := .next (hostAccess fn.val (writeQreset fn.val) s)

/-! ### Interrupts (R473) -/

/-- A write of ones clears bits of INT_STATUS. -/
def writeIntStatus (n : Nat) (value : U32) (s : State) : State :=
  let f := s.fn n
  s.setFn n { f with intStatus := f.intStatus &&& ~~~(value.setWidth 4) }

/-- A write of INT_MASK: a set bit that it unmasks arms its vector, as one occurrence. -/
def writeIntMask (n : Nat) (value : U32) (s : State) : State :=
  let f := s.fn n
  let m : BitVec 4 := value.setWidth 4
  (onesOf (f.intMask &&& ~~~m &&& f.intStatus).toNat 4).foldl (fun a b => armVector n (vectorOfBit b) a) (s.setFn n { f with intMask := m })

/-- INT_STATUS_CLEAR. -/
def execIntStatusClear (fn : Fin 16) (value : U32) (s : State) : Res := .next (hostAccess fn.val (writeIntStatus fn.val value) s)
/-- INT_MASK_WRITE. -/
def execIntMaskWrite (fn : Fin 16) (value : U32) (s : State) : Res := .next (hostAccess fn.val (writeIntMask fn.val value) s)

/-- INT_MOD_DELAY_EXPIRY: DELAY µs have passed since an armed vector was armed. -/
def execIntModDelayExpiry (fn : Fin 16) (vector : Fin 4) (s : State) : Res :=
  let f := s.fn fn.val
  let x := f.vec vector.val
  .next (if s.fnExists fn.val && decide (vector.val < 3) && x.armed && decide (x.armAt + usSteps f.modDelay.toNat ≤ s.clk.now) then
    sendVector fn.val vector.val s else s)

/-- A vector whose pending bit is set and which may now be signalled sends its message. -/
def sendPending (n v : Nat) (s : State) : State :=
  let f := s.fn n
  let x := f.vec v
  if x.pend && !x.masked && !f.d3hot then (s.setFn n (f.setVec v { x with pend := false })).emit (.msi n v) else s

/-- MSIX_VECTOR_UNMASK: vector 3 is never signalled. -/
def execMsixVectorUnmask (fn : Fin 16) (vector : Fin 4) (s : State) : Res :=
  let n := fn.val
  let v := vector.val
  .next (if v = 3 then s
    else hostAccess n (fun a => sendPending n v (a.setFn n ((a.fn n).setVec v { (a.fn n).vec v with masked := false }))) s)

/-! ### Frame and time readout (R474) -/

/-- FRAME_HI of a partition: STATE, COND and FRAME[47:32]. -/
def frameHi (x : Partition) : U32 := BitVec.ofNat 32 (pstateCode x.st * 2 ^ 20 + x.cond * 2 ^ 16 + x.frame.toNat / 2 ^ 32)

/-- A function sees a partition's frame: the physical function every one, a virtual function those of its job space. -/
def State.seesFrame (s : State) (n p : Nat) : Bool := decide (n = 0) || (decide ((s.part p).st ≠ .empty) && decide ((s.part p).jsid = n))

/-- FRAME_LO_READ: the low half is returned and the high half latched at the same step. -/
def execFrameLoRead (fn : Fin 16) (s : State) : Res :=
  let n := fn.val
  .next (hostAccess n (fun s =>
    let f := s.fn n
    let x := s.part f.frameSel.toNat
    let see := s.seesFrame n f.frameSel.toNat
    let lo : U32 := if see then x.frame.setWidth 32 else 0
    let hi : U32 := if see then frameHi x else 0
    (s.setFn n { f with frameLo := lo, frameHi := hi }).emit (.readData lo.toNat)) s)

/-- TSTAT (Table 23.3). -/
def tstatOf (s : State) : U32 :=
  BitVec.ofNat 32 (servoCode s.clk.servo + 4 * bitNat s.clk.coast + 8 * bitNat s.altReady + 16 * bitNat s.clk.upS7)

/-- COUNT_LO_READ: the low half is returned; the high half, OFFSET, RATE and TSTAT are latched at the same step. -/
def execCountLoRead (fn : Fin 16) (s : State) : Res :=
  let n := fn.val
  .next (hostAccess n (fun s =>
    let lo : U32 := s.clk.count.setWidth 32
    let f := { s.fn n with
      countLo := lo, countHi := BitVec.ofNat 32 (s.clk.count.toNat / 2 ^ 32), offs := s.clk.offset, rate := s.clk.rate, tstat := tstatOf s }
    (s.setFn n f).emit (.readData lo.toNat)) s)

/-! ### Device page (Table 23.4) -/

/-- A write to DEV_STATUS: a 1 in bit 0 clears SECALARM and releases SEC_ALARM_N (R476). -/
def writeDevStatus (value : U32) (s : State) : State :=
  if value.getLsbD 0 then noteDev s.devBits { s with pwr := { s.pwr with secAlarm := false } } else s

/-- The first write to DBG_POLICY sets OBSOPEN and locks it (R477). -/
def writeDbgPolicy (value : U32) (s : State) : State :=
  if s.arm.obsLocked then s else { s with arm := { s.arm with obsOpen := value.getLsbD 0, obsLocked := true } }

/-- SECALARM_CLEAR. -/
def execSecalarmClear (value : U32) (s : State) : Res := .next (hostAccess 0 (writeDevStatus value) s)
/-- DBG_POLICY_WRITE. -/
def execDbgPolicyWrite (value : U32) (s : State) : Res := .next (hostAccess 0 (writeDbgPolicy value) s)

/-- A write of a register of the device page. -/
def writeDevice (offset : Nat) (value : U32) (s : State) : State :=
  if offset = 0 then writeDevStatus value s
  else if offset = 4 then { s with arm := { s.arm with devInten := value.setWidth 4 } }
  else if offset = 8 then writeDbgPolicy value s
  else s

/-! ### Other registers (R468, R470) -/

/-- A write to BASE_LO, BASE_HI or SIZE of a ring, at 0, 4 and 8 from its first register; ignored while ENABLE is 1 (R471). -/
def writeRingReg (f : Func) (r : RingRegs) (off : Nat) (v : U32) : RingRegs :=
  if f.enable then r
  else if off = 0 then { r with base := BitVec.ofNat 64 (r.base.toNat / 2 ^ 32 * 2 ^ 32 + v.toNat / 4096 * 4096) }
  else if off = 4 then { r with base := BitVec.ofNat 64 (v.toNat * 2 ^ 32 + r.base.toNat % 2 ^ 32) }
  else { r with log2 := v.setWidth 5 }

/-- The plain registers of a function page: STATUS, ring bases and sizes, INT_MOD, FRAME_SEL. -/
def writePlain (f : Func) (offset : Nat) (v : U32) : Func :=
  if offset = 0x014 then { f with ringErr := f.ringErr && !v.getLsbD 6, cfgErr := f.cfgErr && !v.getLsbD 5 }
  else if [0x100, 0x104, 0x108].contains offset then { f with cmd := writeRingReg f f.cmd (offset - 0x100) v }
  else if [0x120, 0x124, 0x128].contains offset then { f with rpl := writeRingReg f f.rpl (offset - 0x120) v }
  else if [0x140, 0x144, 0x148].contains offset then { f with evt := writeRingReg f f.evt (offset - 0x140) v }
  else if offset = 0x208 then { f with modCount := BitVec.ofNat 16 (v.toNat / 65536), modDelay := v.setWidth 16 }
  else if offset = 0x300 then { f with frameSel := v.setWidth 2 }
  else f

/-- A write of CTRL: QRESET while ENABLE is still 0, then ENABLE. -/
def writeCtrl (n : Nat) (v : U32) (s : State) : State :=
  writeEnable n (v.getLsbD 0) (if v.getLsbD 1 then writeQreset n s else s)

/-- A write of any register of a function page by its offset; offsets that no table defines are ignored. -/
def writeFunction (n offset : Nat) (v : U32) (s : State) : State :=
  if offset = 0x010 then writeCtrl n v s
  else if offset = 0x110 then writeCmdDb n v s
  else if offset = 0x12C then writeHead n false v s
  else if offset = 0x14C then writeHead n true v s
  else if offset = 0x200 then writeIntStatus n v s
  else if offset = 0x204 then writeIntMask n v s
  else s.setFn n (writePlain (s.fn n) offset v)

/-- REGISTER_WRITE (R468): ignored unless every byte enable is set; the device page stands in the physical function only. -/
def execRegisterWrite (fn : Fin 16) (devicePage : Bool) (offset : U16) (value : U32) (byteEnables : BitVec 4) (s : State) : Res :=
  .next (hostAccess fn.val (fun s =>
    if byteEnables ≠ 0xF#4 then s
    else if devicePage then (if fn.val = 0 then writeDevice offset.toNat value s else s)
    else writeFunction fn.val offset.toNat value s) s)

/-! ### Function resets and states (Table 23.5, R467, R469) -/

/-- The lists of a job space that have a host-side element end as by DMA.ABORT. The records cleared may let a translation-fault hold end
(R254); a reset alters no partition (R478), so the hold is looked at again at the next step. -/
def abortHostLists (js : Nat) (s : State) : State :=
  (List.range 16).foldl (fun a e =>
    let hit := fun l : DmaList => decide (l.jsid = js) && decide (l.kind = .list) && l.elems.any hostSide
    let a1 := if ((a.lists e).head?.map hit).getD false then clearFaults (engineFault e) a else a
    ((a.lists e).filter hit).foldl (fun b l => abortKind l b) (a1.setLists e ((a.lists e).filter fun l => !hit l))) s

/-- Function level reset: page and MSI-X state at reset, the backlog gone, and nothing more is said of what was accepted (R335). -/
def resetFn (n : Nat) (s : State) : State :=
  let f := s.fn n
  abortHostLists n (s.setFn n { ({} : Func) with evSeq := f.evSeq, dead := f.dead ++ s.outstanding n })

/-- FLR_VF. -/
def execFlrVf (fn : Fin 16) (s : State) : Res :=
  .next (if fn.val = 0 ∨ !s.fnExists fn.val then s else resetFn fn.val s)

/-- Every virtual function that exists is reset. -/
def resetVfs (s : State) : State := ((List.range 16).filter fun n => decide (n ≠ 0) && s.fnExists n).foldl (fun a n => resetFn n a) s

/-- FLR of the physical function: VF Enable clears, and its pages are reset but for SECALARM and DBG_POLICY. -/
def resetPf (s : State) : State :=
  let s1 := resetFn 0 (resetVfs s)
  { s1 with arm := { s1.arm with vfEnable := false, devInten := 0xF } }

/-- FLR_PF. -/
def execFlrPf (s : State) : Res := .next (if domCond .base s = .off then s else resetPf s)

/-- PCIE_CONVENTIONAL_RESET: hot reset, link down or PERST#. -/
def execPcieConventionalReset (s : State) : Res := .next (if domCond .base s = .off then s else resetPf s)

/-- D3HOT_ENTRY (R469). -/
def execD3hotEntry (fn : Fin 16) (s : State) : Res :=
  .next (if !s.fnExists fn.val ∨ domCond .base s = .off then s else s.setFn fn.val { s.fn fn.val with d3hot := true })

/-- D3HOT_EXIT (R469): BARs and MSI-X messages are enabled again, and vectors left pending send. -/
def execD3hotExit (fn : Fin 16) (s : State) : Res :=
  .next (if !s.fnExists fn.val ∨ domCond .base s = .off then s
    else [0, 1, 2].foldl (fun a v => sendPending fn.val v a) (s.setFn fn.val { s.fn fn.val with d3hot := false }))

/-- VF_ENABLE_WRITE (R467): functions that cease to exist are reset. -/
def execVfEnableWrite (enable : Bool) (numVfs : BitVec 8) (s : State) : Res :=
  .next (if domCond .base s = .off then s
    else
      let gone := (List.range 16).filter fun n => decide (n ≠ 0) && s.fnExists n && !(enable && decide (n ≤ numVfs.toNat))
      let s1 := gone.foldl (fun a n => resetFn n a) s
      { s1 with arm := { s1.arm with vfEnable := enable, numVfs := numVfs.toNat } })

end Sys2Proof.Machine
end

