-- ==== Sys2Proof/Machine/Noc.lean ====
section
/-!
DEFINITION. Noc.lean: the network on chip: headers (Table 13.2), routing (R287, R288), checks (R291, R292), tags and counters (R290,
R294). Routers are numbered x times 6 plus y; a router's ports are 0 to 3 for N, E, S, W, 4 vertical, 5 to 10 local 0 to 5.
-/
namespace Sys2Proof.Machine

/-! ### Header fields (Table 13.2) -/

/-- n bits of a header from bit lo. -/
def hdr (h : NocHeader) (lo n : Nat) : Nat := natBits h.toNat lo n
/-- VC. -/
def hdrVc (h : NocHeader) : Nat := hdr h 78 2
/-- Destination router: x, y. -/
def hdrDst (h : NocHeader) : Nat × Nat := (hdr h 75 3, hdr h 72 3)
/-- Destination port DP: 0 to 5 local, 6 vertical. -/
def hdrDp (h : NocHeader) : Nat := hdr h 69 3
/-- Source router: x, y. -/
def hdrSrc (h : NocHeader) : Nat × Nat := (hdr h 66 3, hdr h 63 3)
/-- Source port SP. -/
def hdrSp (h : NocHeader) : Nat := hdr h 60 3
/-- INIT. -/
def hdrInit (h : NocHeader) : Nat := hdr h 54 6
/-- TAG. -/
def hdrTag (h : NocHeader) : Nat := hdr h 48 6
/-- OPC. -/
def hdrOpc (h : NocHeader) : Nat := hdr h 44 4
/-- NW. -/
def hdrNw (h : NocHeader) : Nat := hdr h 40 4
/-- KIX: key index of the request (R274). -/
def hdrKix (h : NocHeader) : Nat := hdr h 34 6
/-- JSID: job space. -/
def hdrJsid (h : NocHeader) : Nat := hdr h 30 4
/-- AGE. -/
def hdrAge (h : NocHeader) : Nat := hdr h 19 9
/-- DOR. -/
def hdrDor (h : NocHeader) : Bool := natBit h.toNat 18

/-- Number of ones among n bits from bit lo is even. -/
def evenOnes (h : NocHeader) (lo n : Nat) : Bool := (onesOf (hdr h lo n) n).length % 2 = 0

/-- A header is in error (R291): parity, destination, port, operation or reserved bits. PH covers every field but AGE, DOR and PA. -/
def hdrBad (h : NocHeader) : Bool :=
  !(evenOnes h 18 10 == !natBit h.toNat 1) || !(evenOnes h 28 52 == (evenOnes h 2 16 == !natBit h.toNat 0)) ||
    decide (5 < (hdrDst h).1) || decide (5 < (hdrDst h).2) || decide (hdrDp h = 7) || decide (8 < hdrOpc h) ||
    decide (hdr h 28 2 ≠ 0) || decide (hdr h 2 16 ≠ 0)

/-- The header with AGE and DOR replaced and PA regenerated (R288). -/
def setAge (h : NocHeader) (age : Nat) (dor : Bool) : NocHeader :=
  let base := h.toNat / 2 ^ 28 * 2 ^ 28 + age * 2 ^ 19 + bitNat dor * 2 ^ 18 + hdr h 2 16 * 4 + bitNat (natBit h.toNat 0)
  let ones := (onesOf (age * 2 + bitNat dor) 10).length
  BitVec.ofNat 80 (base + ones % 2 * 2)

/-- Flits of a packet (R285). -/
def flits (nw : Nat) : Nat := 1 + (nw - 3 + 3) / 4

/-- The 8 words in which a 64-byte line travels: bytes 9i to 9i + 8 form word i, byte 63 forms bits [7:0] of word 7 (R285). -/
def lineWords (b : List Byte) : List (BitVec 72) := (List.range 8).map fun i => BitVec.ofNat 72 (leNat ((b.drop (9 * i)).take 9))

/-- The line that 8 words carry. -/
def wordsLine (l : List (BitVec 72)) : List Byte := (l.flatMap fun w => leBytes 9 w.toNat).take 64

/-! ### Routers -/

/-- Place of a router. -/
def routerXy (r : Nat) : Nat × Nat := (r / 6, r % 6)
/-- Port of a router for DP or SP. -/
def portOf (dp : Nat) : Nat := if dp = 6 then 4 else 5 + dp
/-- The router beyond a mesh port. -/
def neighbourRouter (r port : Nat) : Nat := if port = 0 then r - 1 else if port = 1 then r + 6 else if port = 2 then r + 1 else r - 6
/-- The neighbour's port towards this router. -/
def oppositePort (port : Nat) : Nat := (port + 2) % 4

/-- Key of the credits of a router's port and VC. -/
def creditKey (r port vc : Nat) : Nat := (r * 11 + port) * 4 + vc

/-- Flit slots in use (R286). -/
def State.used (s : State) (r port vc : Nat) : Nat := smGet 0 s.noc.used (creditKey r port vc)

/-- Flit slots in use changed. -/
def setUsed (r port vc n : Nat) (s : State) : State := { s with noc := { s.noc with used := smSet 0 s.noc.used (creditKey r port vc) n } }

/-- A packet finds a credit for each of its flits at an output; one longer than a whole buffer passes through an empty one (R286). -/
def State.hasSlots (s : State) (r port : Nat) (h : NocHeader) : Bool :=
  decide (s.used r port (hdrVc h) = 0) || decide (s.used r port (hdrVc h) + flits (hdrNw h) ≤ Config.nocDepth)

/-- A router has a neighbour beyond a mesh port (R283). -/
def hasNeighbour (r port : Nat) : Bool :=
  let (x, y) := routerXy r
  if port = 0 then decide (0 < y) else if port = 1 then decide (x < 5) else if port = 2 then decide (y < 5) else decide (0 < x)

/-- Output port that a router gives a packet (R287, R288): west hops first; then, with DOR, X before Y, else the productive port of E and
N or S with the most free credits, E on a tie. -/
def outPort (s : State) (r : Nat) (h : NocHeader) : Nat :=
  let (x, y) := routerXy r
  let (dx, dy) := hdrDst h
  let ns := if dy < y then 0 else 2
  if dx < x then 3
  else if dx = x ∧ dy = y then portOf (hdrDp h)
  else if dx = x then ns
  else if dy = y ∨ hdrDor h then 1
  else if s.used r 1 (hdrVc h) ≤ s.used r ns (hdrVc h) then 1
  else ns

/-- A packet is the one that a header names. -/
def samePacket (a b : NocHeader) : Bool :=
  decide (hdrVc a = hdrVc b) && decide (hdrInit a = hdrInit b) && decide (hdrTag a = hdrTag b) && decide (hdrSrc a = hdrSrc b)

/-- AGE of a packet that waits in an output buffer, now (R288). -/
def State.ageNow (s : State) (e : NocPacket) : Nat := min 511 (hdrAge e.header + (s.noc.cyc - e.since))

/-- Packets of a VC that wait at a router's output. -/
def State.waiting (s : State) (r port vc : Nat) : List NocPacket :=
  s.noc.bufs.filter fun e => decide (e.router = r) && decide (e.port = port) && decide (hdrVc e.header = vc)

/-- A packet goes before another: by the higher AGE, then by the input whose turn comes sooner after the one granted last. -/
def State.goesBefore (s : State) (last : Nat) (a b : NocPacket) : Bool :=
  let turn := fun e : NocPacket => (e.input + 11 - last) % 11
  decide (s.ageNow b < s.ageNow a) || (decide (s.ageNow a = s.ageNow b) && decide (turn a < turn b))

/-- The packet that a VC of an output grants: the highest AGE, round robin among the inputs on a tie (R288). -/
def State.grantee (s : State) (r port vc : Nat) : Option NocPacket :=
  let last := smGet 0 s.noc.lastIn (creditKey r port vc)
  (s.waiting r port vc).foldl (fun b e => match b with | some c => if s.goesBefore last e c then some e else some c | none => some e) none

/-- An output grants a packet (R288); one that does not wait there is not held back. -/
def State.granted (s : State) (r port : Nat) (h : NocHeader) : Bool :=
  if (s.waiting r port (hdrVc h)).any fun e => samePacket e.header h then (s.grantee r port (hdrVc h)).any fun e => samePacket e.header h else true

/-- Packet of an output that a header belongs to. DESIGN CHOICE: a header in error that names none of them belongs to the one granted on its
VC, else to the first there (log entry 37). -/
def State.upstream (s : State) (r port : Nat) (h : NocHeader) : Option NocPacket :=
  let here := s.noc.bufs.filter fun e => decide (e.router = r) && decide (e.port = port)
  match here.find? fun e => samePacket e.header h with
  | some e => some e
  | none => if hdrBad h then s.grantee r port (hdrVc h) <|> here.head? else none

/-- A packet leaves an output buffer: its credits return, and its input was the last granted (R286, R288). -/
def leaveBuffer (r port : Nat) (h : NocHeader) (s : State) : State :=
  match s.upstream r port h with
  | none => s
  | some e =>
    let vc := hdrVc e.header
    setUsed r port vc (s.used r port vc - flits (hdrNw e.header)) { s with noc := { s.noc with
      bufs := s.noc.bufs.erase e, lastIn := smSet 0 s.noc.lastIn (creditKey r port vc) (e.input + 1) } }

/-- A packet enters an output buffer and takes a credit for each flit. -/
def enterBuffer (r input port : Nat) (h : NocHeader) (s : State) : State :=
  let e : NocPacket := { router := r, port := port, input := input, header := h, since := s.noc.cyc }
  setUsed r port (hdrVc h) (s.used r port (hdrVc h) + flits (hdrNw h)) ({ s with noc := { s.noc with bufs := s.noc.bufs ++ [e] } }.emit (.nocForward r port h))

/-! ### Counters (Table 13.5) -/

/-- Counters of an initiator. -/
def State.nocCtr (s : State) (i : Nat) : NocCtr := smGet {} s.noc.ctr i
/-- Those counters changed. -/
def modCtr (i : Nat) (f : NocCtr → NocCtr) (s : State) : State := { s with noc := { s.noc with ctr := smSet {} s.noc.ctr i (f (s.nocCtr i)) } }

/-- Histogram bin of a latency. -/
def latBin (n : Nat) : Nat := if n < 32 then 0 else min 15 (Nat.log2 (n / 32) + 1)

/-- One more in a histogram bin. -/
def bumpHist (l : List Nat) (k : Nat) : List Nat := (List.range 16).map fun i => if i = k then sat32 (nth 0 l i + 1) else nth 0 l i

/-- Key of a transaction tag. -/
def tagKey (i t : Nat) : Nat := i * 64 + t

/-- Initiator attached at a router's DP or SP (Tables 13.1 and 13.4); none at a channel or at a port with no agent. -/
def agentInit (r dp : Nat) : Option Nat :=
  let (x, y) := routerXy r
  let q := 2 * (y / 3) + x / 3
  let j := 3 * (y % 3) + x % 3
  if dp = 6 then some (if j < 6 then 16 + 6 * q + j else if j = 6 then 40 + q else if j = 7 then 44 + q else 55 + q)
  else if 1 ≤ x ∧ x ≤ 4 ∧ 1 ≤ y ∧ y ≤ 4 then some (4 * (y - 1) + (x - 1))
  else if (x, y) = (2, 0) then some 49
  else if (x, y) = (3, 0) then some 50
  else if (x, y) = (0, 0) then some 52
  else if (x, y) = (5, 0) then some 48
  else if (x, y) = (2, 5) then some 51
  else if (x, y) = (0, 5) then some 53
  else if (x, y) = (5, 5) then some 54
  else none

/-- DDR5 channel attached at a router's DP or SP (Table 13.1): local port 0 for even lines, 1 for odd. -/
def channelAt (r dp : Nat) : Option Nat :=
  let (x, y) := routerXy r
  if 1 < dp ∨ y = 0 ∨ y = 5 then none else if x = 0 then some (y - 1) else if x = 5 then some (y + 3) else none

/-- Router and DP that serve a 64-byte line (Table 13.1). -/
def lineEndpoint (line : Nat) : Nat × Nat :=
  let ch := lineChannel line
  ((if ch < 4 then 0 else 5) * 6 + (1 + ch % 4), line % 2)

/-- An endpoint is attached at a router's DP or SP (Table 13.1); router (3, 5) carries the PCIe endpoint as a target. -/
def endpointAt (r dp : Nat) : Bool :=
  (agentInit r dp).isSome || (channelAt r dp).isSome || (decide (dp < 6) && decide (routerXy r = (3, 5)))

/-- An initiator sends requests and messages on a VC (Table 13.4). -/
def initVc (i vc : Nat) : Bool :=
  if (40 ≤ i ∧ i < 44) ∨ (55 ≤ i ∧ i < 59) then decide (vc = 2)
  else if i = 49 ∨ i = 50 ∨ i = 54 then decide (vc = 0 ∨ vc = 2)
  else if i = 52 then decide (vc = 3)
  else decide (vc = 0)

/-- One more packet injected, by an initiator if there is one (Table 13.5). -/
def countOut (i : Option Nat) (h : NocHeader) (s : State) : State :=
  match i with
  | some n => if n < 59 then modCtr n (fun c => { c with pktsOut := c.pktsOut + 1, flitsOut := c.flitsOut + flits (hdrNw h) }) s else s
  | none => s

/-- Flits ejected at an initiator, if there is one (Table 13.5). -/
def countIn (i : Option Nat) (h : NocHeader) (s : State) : State :=
  match i with
  | some n => if n < 59 then modCtr n (fun c => { c with flitsIn := c.flitsIn + flits (hdrNw h) }) s else s
  | none => s

/-- A packet answers another: a data response, a completion or a credit return. -/
def answers (h : NocHeader) : Bool := decide (hdrOpc h = 5) || decide (hdrOpc h = 6) || decide (hdrOpc h = 8)

/-- Source and destination endpoints of a header, as numbers. -/
def srcKey (h : NocHeader) : Nat := hdr h 60 9
/-- See srcKey. -/
def dstKey (h : NocHeader) : Nat := hdr h 69 9

/-- End-to-end credits that a VC's packets hold of an ordered pair: debug packets are those of the debug access port (R286). -/
def State.creditsHeld (s : State) (h : NocHeader) : Nat :=
  (s.noc.e2e.filter fun e => decide (e.2.1 = srcKey h) && decide (e.2.2 = dstKey h) && (decide (e.1 / 64 = 52) == decide (hdrInit h = 52))).length

/-- The end-to-end credits let a packet in: 4 of an ordered pair for management and debug (Table 13.3). -/
def State.hasCredit (s : State) (h : NocHeader) : Bool := decide (hdrVc h < 2) || decide (s.creditsHeld h < 4)

/-- A management or debug packet takes an end-to-end credit of its pair. -/
def takeCredit (h : NocHeader) (s : State) : State :=
  if hdrVc h < 2 then s else { s with noc := { s.noc with e2e := s.noc.e2e ++ [(tagKey (hdrInit h) (hdrTag h), srcKey h, dstKey h)] } }

/-- A credit return gives its packet's credit back to the pair that it answers. -/
def returnCredit (h : NocHeader) (s : State) : State :=
  let mine := fun e : Nat × Nat × Nat => decide (e = (tagKey (hdrInit h) (hdrTag h), dstKey h, srcKey h))
  { s with noc := { s.noc with e2e := s.noc.e2e.filter fun e => !mine e } }

/-- A request or message injected binds the request of its memory-port unit that it carries: the first not yet sent, of the operation's
kind (R290). -/
def bindRequest (h : NocHeader) (s : State) : State :=
  let i := hdrInit h
  let kind := fun q : Request => if hdrOpc h = 0 then decide (q.op = 0) else if hdrOpc h = 4 then decide (2 ≤ q.op.toNat) else false
  let fits := fun q : Request => q.pending && !q.sent && decide (16 + q.mpu = i) && kind q
  let first := fun l : List Request => l.foldl (fun b q => match b with | some c => if q.seq < c.seq then some q else some c | none => some q) none
  match first ([0, 1, 2, 3].flatMap fun p => (s.part p).reqs.filter fits) with
  | none => s
  | some q =>
    let upd := fun o : Request => if fits o && decide (o.seq = q.seq) then { o with sent := true, tag := some (tagKey i (hdrTag h)) } else o
    eachPart (fun p a => a.setPart p { a.part p with reqs := (a.part p).reqs.map upd }) s

/-- An initiator injects a packet of its own: its tag is taken, its header kept for a reissue, and counters move (R290, R293, R294). -/
def injectPacket (h : NocHeader) (s : State) : State :=
  let k := tagKey (hdrInit h) (hdrTag h)
  countOut (some (hdrInit h)) h { s with noc := { s.noc with tags := smSet 0 s.noc.tags k (1 + s.noc.cyc), hdrs := smSet 0 s.noc.hdrs k h } }

/-- The abandoned request of a tag has been answered or declared lost: with the last of its frame the hold of the missing response is
resolved (R293). -/
def settleOrphan (k : Nat) (s : State) : State :=
  match s.noc.orphans.find? fun o => decide (o.tag = k) with
  | none => s
  | some o =>
    let l := s.noc.orphans.erase o
    let s1 : State := { s with noc := { s.noc with orphans := l } }
    if awaited l o.part o.frame then s1
    else resolveHolds o.part (fun h => ofResponse h.code && decide (h.frame = o.frame)) s1

/-- The request of a tag holds it no longer: its response is at its initiator. -/
def unbindTag (k : Nat) (s : State) : State :=
  let upd := fun q : Request => if q.tag = some k then { q with tag := none } else q
  eachPart (fun p a => a.setPart p { a.part p with reqs := (a.part p).reqs.map upd }) s

/-- A transaction's tag is freed (R290). -/
def freeTag (k : Nat) (s : State) : State :=
  settleOrphan k (unbindTag k { s with noc := { s.noc with tags := smSet 0 s.noc.tags k 0, hdrs := smSet 0 s.noc.hdrs k 0, losses := smSet 0 s.noc.losses k 0 } })

/-- A response or completion of a request is ejected at its initiator: the tag is freed and the latency counted (R290, R294). -/
def endTransaction (h : NocHeader) (s : State) : State :=
  let k := tagKey (hdrInit h) (hdrTag h)
  match smGet 0 s.noc.tags k with
  | 0 => s
  | t + 1 =>
    let lat := s.noc.cyc - t
    modCtr (hdrInit h) (fun c => { c with hist := bumpHist c.hist (latBin lat), latMax := max c.latMax (min lat (2 ^ 32 - 1)) }) (freeTag k s)

/-- What an answer does at its initiator. A credit return frees the credit of its packet, and the tag of a message, which has no other
answer; a debug reply frees the tag of its access, with no latency (R290, R294; log entry 74). -/
def nocAnswer (h : NocHeader) (s : State) : State :=
  let k := tagKey (hdrInit h) (hdrTag h)
  if hdrOpc h = 8 then (let s1 := returnCredit h s; if hdrInit h = 52 then s1 else freeTag k s1)
  else if hdrVc h = 1 then endTransaction h s
  else if hdrVc h = 3 then freeTag k s
  else s

/-! ### Arrival and consumption -/

/-- LOC of a network record (Table 20.7). -/
def nocLoc (r port vc : Nat) : Nat := r + 64 * min port 7 + 512 * vc

/-- A header in error is discarded with its packet (R291). -/
def dropHeader (r port : Nat) (h : NocHeader) (s : State) : State :=
  let s1 := if port ≤ 4 then bump 0xA r (port + 1) s else s
  logRec { cause := St.nocHdrParity, sub := 0xA, sev := 5, loc := nocLoc r port (hdrVc h), detail := h.toNat } s1

/-- The packet of a header comes from the agent at this port. -/
def fromAgent (r port : Nat) (h : NocHeader) : Bool := decide (4 ≤ port) && decide (hdrSrc h = routerXy r) && decide (portOf (hdrSp h) = port)

/-- AGE and DOR of a good header at a router, after the cycles in it and on the link into it (R288). -/
def agedHeader (h : NocHeader) (cycles : Nat) : NocHeader :=
  let age := min 511 (hdrAge h + cycles)
  setAge h age (hdrDor h || decide (256 ≤ age))

/-- A good header goes on: aged, its fallback counted when it sets in, routed. -/
def forwardHeader (r input : Nat) (h : NocHeader) (cycles : Nat) (s : State) : State :=
  let h1 := agedHeader h cycles
  let s1 := if hdrDor h1 && !hdrDor h && decide (hdrInit h < 59) then modCtr (hdrInit h) (fun c => { c with dorCnt := sat32 (c.dorCnt + 1) }) s else s
  enterBuffer r input (outPort s1 r h1) h1 s1

/-- The output that a header takes has a credit for each of its flits. -/
def State.mayForward (s : State) (r : Nat) (h : NocHeader) (cycles : Nat) : Bool :=
  let h1 := agedHeader h cycles
  s.hasSlots r (outPort s r h1) h1

/-- A header is a request or message of its initiator, not the answer to one. -/
def ownPacket (h : NocHeader) : Bool := decide (hdrVc h ≠ 1) && decide (hdrInit h < 59) && !answers h

/-- The agent at a local or vertical port sends a packet: one of its own carries its number, on a VC of Table 13.4, with a tag that is free
(R290); an answer comes from an endpoint; the ordered pair of a management or debug packet has a credit left (R286). -/
def State.maySend (s : State) (r port : Nat) (h : NocHeader) : Bool :=
  fromAgent r port h && s.hasCredit h &&
    (if ownPacket h then
      decide (agentInit r (hdrSp h) = some (hdrInit h)) && initVc (hdrInit h) (hdrVc h) && decide (smGet 0 s.noc.tags (tagKey (hdrInit h) (hdrTag h)) = 0)
    else answers h && endpointAt r (hdrSp h))

/-- An agent's packet is in the network: its end-to-end credit and its tag are taken, the request that it carries is bound, and it counts. -/
def sendPacket (r : Nat) (h : NocHeader) (s : State) : State :=
  let s1 := takeCredit h s
  if ownPacket h then
    bindRequest h (injectPacket h { s1 with noc := { s1.noc with got := s1.noc.got.filter fun k => decide (k ≠ tagKey (hdrInit h) (hdrTag h)) } })
  else countOut (agentInit r (hdrSp h)) h s1

/-- NOC_HEADER_ARRIVAL (R283, R287, R288, R290, R291): cycles counts the router and the link into it. A packet that the output behind it
does not grant yet, or that has no credit at its next output, has not arrived; an agent sends what State.maySend says. -/
def execNocHeaderArrival (router : Fin 36) (input : Fin 11) (header : NocHeader) (cycles : Nat) (s : State) : Res :=
  let r := router.val
  let i := input.val
  .next (
    if !s.nocRuns then s
    else if i < 4 then
      (if !hasNeighbour r i || !s.granted (neighbourRouter r i) (oppositePort i) header then s
      else
        let s1 := leaveBuffer (neighbourRouter r i) (oppositePort i) header s
        if hdrBad header then dropHeader r i header s1
        else if s.mayForward r header cycles then forwardHeader r i header cycles s1
        else s)
    else if hdrBad header then dropHeader r i header s
    else if s.maySend r i header && s.mayForward r header cycles then forwardHeader r i header cycles (sendPacket r header s)
    else s)

/-- Indexes of the words with a check outcome. -/
def wordsWith (o : CheckOutcome) (l : List (BitVec 72 × CheckOutcome)) : List Nat :=
  (List.range l.length).filter fun i => match l[i]? with | some w => decide (w.2 = o) | none => false

/-- A payload record (R292): INIT, TAG and the word. -/
def payloadRecord (cause sev r port : Nat) (h : NocHeader) (s : State) (word : Nat) : State :=
  logRec { cause := cause, sub := 0xA, sev := sev, loc := nocLoc r port (hdrVc h), detail := hdrInit h + 256 * hdrTag h + 65536 * word } s

/-- What the consumer's check of the payload logs: a record for each word corrected and for each that is uncorrectable (R292). -/
def checkPayload (r port : Nat) (h : NocHeader) (words : List (BitVec 72 × CheckOutcome)) (s : State) : State :=
  (wordsWith .uncorr words).foldl (payloadRecord St.nocUncorr 5 r port h) ((wordsWith .single words).foldl (payloadRecord St.nocFix 0 r port h) s)

/-- Initiator at which a packet is ejected: a response's own, else the one attached there. -/
def ejectedAt (r port : Nat) (h : NocHeader) : Option Nat :=
  if hdrVc h = 1 then some (hdrInit h) else if hdrVc h = 0 then none else agentInit r port

/-- A message whose receiver discards duplicates (Table 13.4: hubs, Plinth pairs and log ports). -/
def numbered (h : NocHeader) : Bool :=
  let i := hdrInit h
  decide (hdrVc h = 2) && !answers h && (decide (40 ≤ i ∧ i < 44) || decide (i = 49) || decide (i = 50) || decide (55 ≤ i ∧ i < 59))

/-- A packet's payload is handed to its agent, a 64-byte line as bytes: not a duplicate of a message, nor the response of an abandoned
request (R285, R290, R293). -/
def deliverPayload (r port : Nat) (h : NocHeader) (words : List (BitVec 72)) (s : State) : State :=
  let k := tagKey (hdrInit h) (hdrTag h)
  if numbered h && s.noc.got.contains k then s
  else if hdrVc h = 1 && s.noc.orphans.any fun o => decide (o.tag = k) then s
  else
    let s1 : State := if numbered h then { s with noc := { s.noc with got := s.noc.got ++ [k] } } else s
    s1.emit (if hdrNw h = 8 ∧ (hdrOpc h = 3 ∨ hdrOpc h = 5) then .nocLine r port h (wordsLine words) else .nocDeliver r port h words)

/-- A packet stands where it is consumed: an endpoint is attached, the header names it, and the words are as many as it says. -/
def atEndpoint (r port : Nat) (h : NocHeader) (words : List (BitVec 72 × CheckOutcome)) : Bool :=
  endpointAt r port && (hdrBad h || (decide (hdrDst h = routerXy r) && decide (hdrDp h = port) && decide (words.length = hdrNw h)))

/-- NOC_PACKET_CONSUMED (R285, R290, R291, R292): port is DP. -/
def execNocPacketConsumed (router : Fin 36) (port : Fin 7) (header : NocHeader) (words : List (BitVec 72 × CheckOutcome)) (s : State) : Res :=
  let r := router.val
  let o := portOf port.val
  .next (if !s.nocRuns || !s.granted r o header || !atEndpoint r port.val header words then s
    else
      let s1 := leaveBuffer r o header s
      if hdrBad header then dropHeader r o header s1
      else
        let s2 := checkPayload r o header words s1
        if (wordsWith .uncorr words).isEmpty then
          let s3 := deliverPayload r port.val header (words.map (·.1)) (countIn (ejectedAt r port.val header) header s2)
          if answers header then nocAnswer header s3 else s3
        else s2)

end Sys2Proof.Machine
end

