-- ==== Sys2Proof/Machine/PairEvents.lean ====
section
/-!
DEFINITION. PairEvents.lean: what arrives on the pendant link and what falls due on it (chapter 14): heartbeats, tags, messages,
transferred units, the pairing sequence, the loss of the peer, the mirror, and the phases of COPY and JOIN.
-/
namespace Sys2Proof.Machine

/-! ### Messages -/

/-- A word of a message, 0 where it is missing. -/
def wordAt (l : List U64) (i : Nat) : Nat := (nth 0#64 l i).toNat

/-- The peer's PENDANT.PAIR (R298): a twin that is already paired refuses it. -/
def takePeerPair (w : Nat) (s : State) : State :=
  if s.pend.st ≠ .unpaired ∧ s.pend.st ≠ .pairing then sendMessage msgAbort [St.pairBusy] s
  else tryPair { s with pend := { s.pend with
      peerMode := some (natBits w 0 2), peerOver := natBit w 2, peerRuns := natBit w 3, paddr := BitVec.ofNat 16 (natBits w 16 16) } }

/-- The standby applies a TRANS.MAP or TRANS.UNMAP of the carrier to its own page tables (R306). -/
def takePages (type : Nat) (l : List U64) (s : State) : State :=
  let w := wordAt l 1
  let j := natBits w 0 8
  let level := natBits w 8 8
  let page := pageBytes level
  (List.range (w / 2 ^ 32)).foldl (fun a i =>
    let addr := wordAt l 2 + i * page
    if type = msgMap then (mapPage j level addr (leafEntry level (wordAt l 3 + i * page) (natBit w 16) (natBit w 17)) a).getD a
    else match pageAt a j level addr with
      | .same _ => unmapPage j level addr a
      | _ => a) s

/-- A leaf of COPY step 1 (R314). -/
def takeLeaf (l : List U64) (s : State) : State :=
  let w := wordAt l 1
  (mapPage (natBits w 0 8) (natBits w 8 8) (wordAt l 2) (nth 0#64 l 3) s).getD s

/-- A partition of COPY step 3: the newcomer loads its own copy of the image (R314). -/
def takeLoad (l : List U64) (s : State) : State :=
  let w := wordAt l 1
  let p := natBits w 0 8
  let js := natBits w 16 8
  if 4 ≤ p ∨ (s.part p).st ≠ .empty then s
  else
    let s1 := enterLoading p none (BitVec.ofNat 4 (natBits w 8 8)) js (natBit w 24) (wordAt l 2) (wordAt l 3) s
    enqueue (s.pickEngine.getD p) (.load p) none js 0 [imageElem (wordAt l 2) (wordAt l 3)] s1

/-- Opcode of the pendant change that a kind in a message stands for, 0 for none. -/
def kindChange (k : Nat) : Nat := if k = 0 then 0x0902 else if k = 1 then 0x0903 else if k = 2 then 0x0907 else 0

/-- Placement epochs that the peer has told (R317). -/
def takeEpochs (l : List U64) (s : State) : State :=
  let p := wordAt l 1 % 4
  let e := (List.range 96).foldl (fun m i => smSet 0#16 m i (BitVec.ofNat 16 (natBits (wordAt l (2 + i / 4)) (16 * (i % 4)) 16))) []
  { s with pend := { s.pend with peerEpochs := s.pend.peerEpochs.filter (fun x => decide (x.1 ≠ p)) ++ [(p, e)] } }

/-- A mode change that the peer has taken (R354): registered here, unless this twin holds it already. -/
def takePeerChange (l : List U64) (s : State) : State :=
  let w := wordAt l 1
  let op := kindChange (natBits w 0 16)
  let side := natBits w 16 8
  let ref := natBits w 24 8 % 4
  let m := BitVec.ofNat 48 (wordAt l 2)
  let known := (s.part ref).changes.any fun d => decide (d.opcode = op) && decide (d.arg = side)
  let done := decide (s.pend.st ≠ .lockstep) && decide (s.pend.st ≠ .standby)
  if known ∨ done ∨ !pendantOp op then s
  else
    let s1 := if s.pend.change.isSome then s else { s with pend := { s.pend with change := some (op, none, side) } }
    if natBit w 32 ∧ (s.part ref).executes then registerChange op side ref m true s1 else changeNow op side ref s1

/-- A partition that the carrier has captured for a join (R316): the newcomer is in TRANSFER. A join without a running partition ends
at once. -/
def takeJoinInfo (l : List U64) (s : State) : State :=
  let p := wordAt l 1
  let w := wordAt l 5
  if p = 0xFF then completePendant St.ok [] (joinRoles { s with pend := { s.pend with join := none, joinInfo := [] } })
  else
    let i : JoinInfo := {
      part := p % 4, j := BitVec.ofNat 48 (wordAt l 2), t := wordAt l 3, b := wordAt l 4, v := w % 2 ^ 32, vdown := w / 2 ^ 32, lin := wordAt l 6 }
    let first := (s.pend.join.map fun q => q.2.2).getD i.part
    { s with pend := { s.pend with st := .joining, join := some (4, i.j, first), joinInfo := s.pend.joinInfo ++ [i] } }

/-- A record digest of VERIFY (R316). -/
def takeVerify (l : List U64) (s : State) : State :=
  let p := wordAt l 1 % 4
  let s1 : State := { s with pend := { s.pend with peerDigest := smSet 0#384 s.pend.peerDigest p (wordsDigest (l.drop 2)) } }
  if s.pend.role = 1 then s1 else verifyNewcomer (sendMessage msgVerify (p :: digestWords (Config.sha384 (s.received p))) s1)

/-- The peer's report. -/
def takeReport (l : List U64) (s : State) : State :=
  let w := wordAt l 4
  let r : PeerReport := {
    usable := wordAt l 1, poolBase := wordAt l 2, poolLen := wordAt l 3, bound := natBits w 0 16, loaded := natBits w 16 4
    running := natBits w 20 4, lanesUp := natBit w 24 }
  { s with pend := { s.pend with report := r } }

/-- What a newcomer does when the carrier begins COPY, completes it, or gives a resynchronisation up. -/
def takePhase (type : Nat) (s : State) : State :=
  if s.pend.role ≠ 2 then s
  else if type = msgResync then setPair .copy 2 s
  else if type = msgStandby then setPair .standby 2 s
  else completePendant St.resyncFailed [] (setPair .standby 2 (undoJoin s))

/-- KEYCHK is compared (R298 step 5); the pair forms. -/
def takeKeychk (v : U64) (s : State) : State :=
  if s.pend.st ≠ .pairing ∨ s.pairStepNo ≠ 5 then s
  else if v = s.pend.keychk then formPair s
  else failPair St.pairAuth s

/-- The peer dissolves the pair (R300). -/
def takeDissolve (s : State) : State := if !s.paired ∨ s.pend.dissolve.isSome then s else beginDissolve none s

/-- A management message (Table 14.2, log entry 60). -/
def takeMessage (l : List U64) (s : State) : State :=
  let type := wordAt l 0 / 2 ^ 56
  if type = msgPair then takePeerPair (wordAt l 1) s
  else if type = msgAbort then (if s.pend.st = .pairing then endPairing (wordAt l 1 % 65536) s else s)
  else if type = msgKeychk then takeKeychk (nth 0#64 l 1) s
  else if !s.paired then s
  else if type = msgMap ∨ type = msgUnmap then (if s.pend.role = 2 then takePages type l s else s)
  else if type = msgLeaf then (if s.pend.role = 2 then takeLeaf l s else s)
  else if type = msgLoad then (if s.pend.role = 2 then takeLoad l s else s)
  else if type = msgVerify then takeVerify l s
  else if type = msgIdigest then { s with pend := { s.pend with peerIdigest := smSet 0#384 s.pend.peerIdigest (wordAt l 1 % 4) (wordsDigest (l.drop 2)) } }
  else if type = msgDissolve then takeDissolve s
  else if type = msgChange then takePeerChange l s
  else if type = msgJoin then (if s.pend.role = 2 then takeJoinInfo l s else s)
  else if type = msgReport then takeReport l s
  else if type = msgEpochs then takeEpochs l s
  else if type = msgResync ∨ type = msgStandby ∨ type = msgFailed then takePhase type s
  else s

/-! ### Units (R301, R315, R316) -/

/-- A line from the carrier: stored under this device's own binding, or poisoned (R314 step 2). -/
def takeLine (jsid line : Nat) (poisoned : Bool) (words : List U64) (s : State) : State :=
  let k := (s.takeKix jsid).getD 0
  if poisoned then poisonLine jsid k line s
  else storeLine jsid k line (words.flatMap fun w => leBytes 8 w.toNat) s

/-- A commit word from the carrier: DATA[63:0], then DATA[71:64]. -/
def takeWord (jsid addr : Nat) (words : List U64) (s : State) : State :=
  let bytes := leBytes 8 (wordAt words 0) ++ leBytes 1 (wordAt words 1)
  let line := addr / 64
  let at_ := (List.range 9).zip bytes |>.map fun e => (addr % 64 + e.1, e.2)
  storeLine jsid ((s.takeKix jsid).getD 0) line (overlay (s.bytesAtPhys (line * 64) 64) at_) s

/-- The n-th k words of a list. -/
def chunk (k n : Nat) (l : List U64) : List U64 := (l.drop (k * n)).take k

/-- A run of units (Table 14.2). -/
def takeUnits (addr : U64) (data : List U64) (s : State) : State :=
  let a := addr.toNat
  let space := a / 2 ^ 62
  let jsid := natBits a 58 4
  let unit := a % 2 ^ 57
  if s.pend.role ≠ 2 ∨ !s.isStandby then s
  else if space = 0 then
    (List.range (data.length / 8)).foldl (fun b i => takeLine jsid (unit + i) (natBit a 57) (chunk 8 i data) b) s
  else if space = 2 then
    (List.range (data.length / 2)).foldl (fun b i => takeWord jsid (unit + 9 * i) (chunk 2 i data) b) s
  else if space = 1 then
    let bytes := ((List.range data.length).zip data).flatMap fun e =>
      ((List.range 8).zip (leBytes 8 e.2.toNat)).map fun b => (8 * (unit + e.1) + b.1, b.2)
    { s with pend := { s.pend with castIn := smPutAll 0#8 s.pend.castIn bytes } }
  else
    let words := ((List.range data.length).zip data).map fun e => ((unit + e.1) / 2 ^ 29, (unit + e.1) % 2 ^ 29, e.2)
    { s with pend := { s.pend with histIn := s.pend.histIn ++ words } }

/-! ### Rows -/

/-- Units and messages of intervals that the peer could not verify go out again (R303). -/
def resend (sent : Nat) (s : State) : State :=
  let covered := s.pend.unverified.filter fun e => decide (e.1 + s.pend.lat < sent)
  let rest := s.pend.unverified.filter fun e => !decide (e.1 + s.pend.lat < sent)
  let units := fun l : List (Nat × U64) => l.filter fun e => decide (e.1 ≠ 5)
  let msgs := (covered.map (·.2)).filter fun e => decide (e.1 = 5)
  let all := units (covered.map (·.2)) ++ units (rest.map (·.2)) ++ units s.pend.sentNow
  if covered.isEmpty then s
  else { s with pend := { s.pend with unverified := rest, sendq := s.pend.sendq ++ msgs, bulk := all ++ s.pend.bulk } }

/-- Blocks of verified intervals are no longer kept (R303). -/
def forget (sent : Nat) (s : State) : State :=
  { s with pend := { s.pend with unverified := s.pend.unverified.filter fun e => !decide (e.1 + s.pend.lat < sent) } }

/-- A pendant lane whose latency exceeds 36 steps goes DOWN (R299): the lowest in use, which carried the block. -/
def dropSlowLane (s : State) : State :=
  match s.lanesInUse 16 with
  | n :: _ => if 36 < s.pend.lat then settleLane n (setDown n s) else s
  | [] => s

/-- An HB of a twin that pairs (R298 step 2): the largest latency over 256 of them, as R121 measures it, is the link's. -/
def pairingHb (lat : Nat) (s : State) : State :=
  let n := s.pend.latN + 1
  let top := max s.pend.latMax lat
  let s1 : State := { s with pend := { s.pend with lat := lat, latN := n, latMax := top } }
  if n < 256 then s1
  else
    let s2 : State := { s1 with pend := { s1.pend with lat := top } }
    if 36 < top then failPair St.pairLatency s2 else goOnPairing (setPairStep 3 s2)

/-- PENDANT_HB (R301, R298 step 2, R299). -/
def execPendantHb (payload : U64) (s : State) : Res :=
  let v := payload.toNat
  let lat := (s.cnt + 65536 - v / 2 ^ 48) % 65536
  let sent := s.cnt - lat
  let s1 : State := { s with pend := { s.pend with lat := lat } }
  .next (if s.pend.st = .unpaired then s
    else if s.pend.st = .pairing then
      (if s.pairStepNo ≠ 2 then s else pairingHb lat s)
    else
      let s2 : State := { s1 with pend := { s1.pend with
          peerSt := natBits v 44 4, peerRole := natBits v 42 2, peerTagOk := natBit v 41, hbNew := true } }
      dropSlowLane (if natBit v 41 then forget sent s2 else resend sent s2))

/-- A TAG that fails (R303): the interval is dropped, and in LOCKSTEP the frame has a mismatch. -/
def tagFails (s : State) : State :=
  let s1 := secEvent 4 0xFF 0xFF 0xD 0 0 { s with pend := { s.pend with tagOk := false, hbNew := false } }
  if s.pend.st = .lockstep then
    eachPart (fun p a => let x := a.part p; if x.peerSig.isSome ∧ x.peerTag.isNone then a.setPart p { x with peerTag := some false } else a) s1
  else s1

/-- A TAG that verifies: the interval's messages and units take effect in order of arrival, and its HB counts (R303, R313). -/
def tagPasses (items : List (Nat × List U64)) (s : State) : State :=
  let s1 : State := { s with pend := { s.pend with hbAt := if s.pend.hbNew then s.clk.now else s.pend.hbAt, hbNew := false } }
  let s2 := eachPart (fun p a => let x := a.part p; if x.peerSig.isSome ∧ x.peerTag.isNone then a.setPart p { x with peerTag := some true } else a) s1
  items.foldl (fun a e => if e.1 = 5 then takeMessage e.2 a else takeUnits (e.2.headD 0) (e.2.drop 1) a) s2

/-- PENDANT_TAG (R303). -/
def execPendantTag (tag : U64) (s : State) : Res :=
  let sent := s.pendantSent
  let want := Config.gmac (s.keys.pairKey.getD 0) (tagIv sent (1 - s.side)) s.pend.rxLog
  let s1 : State := { s with pend := { s.pend with rxLog := [], interval := [] } }
  .next (if !s.paired ∨ !s.authOn sent then s else if tag = want then tagPasses s.pend.interval s1 else tagFails s1)

/-- PENDANT_MSG (R301, R303, R306): held until its interval's TAG verifies; before authentication starts it takes effect at once. -/
def execPendantMsg (words : List U64) (s : State) : Res :=
  .next (if s.paired ∧ s.authOn s.pendantSent then { s with pend := { s.pend with interval := s.pend.interval ++ [(5, words)] } }
    else takeMessage words s)

/-- XADDR_XDATA (R301, R303): held until its interval's TAG verifies. -/
def execXaddrXdata (addr : U64) (data : List U64) (s : State) : Res :=
  .next (if s.paired ∧ s.authOn s.pendantSent then { s with pend := { s.pend with interval := s.pend.interval ++ [(6, addr :: data)] } } else s)

/-- STAMP_BLOCK (R304): a receiver with a step counter ignores it apart from its part in the TAG, which BLOCK_RECEIVED gives it. -/
def execStampBlock (_payload : U64) (s : State) : Res := .next s

/-- The two BICs are equivalent over the union of both lists (R3, R6). -/
def bicUnion (own : U16) (ownList : List U16) (bic : U16) (list : List U16) : Bool := decide (own = bic) || ownList.contains bic || list.contains own

/-- The pair key and KEYCHK (R281, R298 step 5). -/
def derivePair (side : Bool) (nonce : BitVec 256) (pub : List Byte) (s : State) : State :=
  let secret := Config.ecdh s.pend.priv pub
  let salt := if side then leBytes 32 s.pend.nonce.toNat ++ leBytes 32 nonce.toNat else leBytes 32 nonce.toNat ++ leBytes 32 s.pend.nonce.toNat
  { s with
    keys := { s.keys with pairKey := some (Config.hkdf 256 secret salt []) }
    pend := { s.pend with keychk := Config.hkdf 64 secret salt ([0x63, 0x68, 0x65, 0x63, 0x6B].map fun b => BitVec.ofNat 8 b) } }

/-- PAIR_HELLO (R298 steps 3 to 5): chain and signature, then the BICs, then the pair key. -/
def execPairHello (side : Bool) (bic : U16) (equiv : List U16) (chain : List Byte) (nonce : BitVec 256) (pubKey : List Byte) (signature : BitVec 768) (s : State) : Res :=
  let bytes := helloBytes side bic equiv chain nonce pubKey
  let earlier := if s.ident.pendSide then [] else s.ownHello
  let eq := bicUnion s.ident.bic s.ident.equiv bic equiv
  let ovr := (match s.pend.pair with | some (_, o, _, _) => o | none => false) || s.pend.peerOver
  .next (if s.pend.st ≠ .pairing ∨ !(s.pairStepNo = 2 ∨ s.pairStepNo = 3) ∨ s.pend.heard.isSome then s
    else if side = s.ident.pendSide then failPair St.pairWiring s
    else if !Config.helloOk chain (earlier ++ bytes) signature then failPair St.pairAuth (secEvent 4 0xFF 0xFF 0xD 0 0 s)
    else if !eq && !(ovr && s.measureFits 0) then failPair St.pairBic s
    else
      let s1 := if eq then s else noteOverride 0xFF bic.toNat s
      let s2 := derivePair side nonce pubKey { s1 with pend := { s1.pend with heard := some bytes, pbic := bic } }
      if s2.pairStepNo = 2 then s2
      else if s.ident.pendSide then sendKeychk (sendHello s2)
      else sendKeychk s2)

/-- PAIR_KEYCHK (R298 step 5). -/
def execPairKeychk (value : U64) (s : State) : Res := .next (takeKeychk value s)

/-- PAIR_PEER_TIMEOUT (R298): 10 s without the peer's PENDANT.PAIR. -/
def execPairPeerTimeout (s : State) : Res :=
  .next (match s.pend.pair with
    | some (_, _, t, _) => if s.pend.peerMode.isNone ∧ t + 16000000000 ≤ s.clk.now then failPair St.laneNoPeer s else s
    | none => s)

/-- The carrier has lost its standby or newcomer (Table 14.6): it carries on in SOLO and reports RESYNC_FAILED; a resynchronisation or join ends
with it. -/
def loseStandby (s : State) : State :=
  if s.pend.resync.isSome ∨ s.pend.join.isSome then failResync (match s.pend.join with | some (ph, _, _) => ph | none => 0) .solo s
  else postEvent St.resyncFailed 0xD 0xFF none (zeros 8) (completePendant St.resyncFailed [] (setPair .solo 1 s))

/-- PEER_LOST (R313, Table 14.6): outside LOCKSTEP, where the compare decides (R309), side A carries in SOLO and side B fences itself, but a carrier
with a standby or newcomer stays carrier, and a newcomer that loses it in JOIN fences itself and cannot take over. A twin whose peer is
already lost or retired stays as it is (log entry 64). -/
def execPeerLost (s : State) : Res :=
  let silent := decide (s.pend.hbAt + 65536 ≤ s.clk.now) || (s.healthy 16).isEmpty
  let joining := s.pend.join.isSome || decide (s.pend.st = .joining)
  .next (if !silent then s
    else match s.pend.st with
      | .standby | .copy | .joining =>
        if s.pend.role = 1 then loseStandby s
        else if joining then (let t := fenceSelf 4 (undoJoin s); { t with pend := { t.pend with noTake := true } })
        else losePeer 4 s
      | .independent => losePeer 4 s
      | _ => s)

/-- MIRROR_SEND (R315): the oldest entry of the mirror queue goes out, a line in space 0, one of no bytes as poisoned, a commit word in space 2. -/
def execMirrorSend (s : State) : Res :=
  .next (match s.pend.mirror with
    | [] => s
    | (j, a, b) :: rest =>
      let s1 : State := { s with pend := { s.pend with mirror := rest } }
      if b = [] then sendUnits (xaddrWord 0 j true (a / 64)) (List.replicate 8 0) s1
      else if b.length = 64 then sendUnits (xaddrWord 0 j false (a / 64)) (xdataWords b) s1 else sendUnits (xaddrWord 2 j false a) (xdataWords b) s1)

/-- COPY_COMPLETE (R314, R349): the lines and loads done and the newcomer's lanes ACTIVE, the newcomer is a standby; the join that
RESYNC ordered begins. -/
def execCopyComplete (s : State) : Res :=
  let own := s.ownReport
  .next (match s.pend.resync with
    | some (3, ctx, ref) =>
      if s.pend.role ≠ 1 ∨ s.pend.bulk ≠ [] ∨ s.pend.mirror ≠ [] ∨ s.pend.report.loaded ≠ own.loaded ∨ !s.pend.report.lanesUp then s
      else
        let s1 := sendMessage msgStandby [] (setPair .standby 1 s)
        match ctx with
        | none => { s1 with pend := { s1.pend with resync := none } }
        | some c =>
          let s2 := postEvent St.accepted 0xD 0xFF none (leBytes 4 c.accSeq.toNat ++ zeros 4) s1
          let x := s2.part ref
          beginJoin ref (if x.executes then pauseBoundary (s.isSingle ref) x s.cnt c.eframe else 0)
            { s2 with pend := { s2.pend with resync := some (4, some c, ref) } }
    | _ => s)

/-- Every partition of a join stands paused. -/
def State.allPaused (s : State) : Bool := s.executing.all fun p => decide ((s.part p).phase = .paused)

/-- CAPTURE may take the CAST activity of every partition of the join. -/
def State.castFree (s : State) : Bool :=
  s.executing.all fun p => !(s.maint.any fun h => decide (h.act ≠ 7) && incompatible false 6 p h.act h.obj)

/-- A join goes to its next phase. -/
def joinPhase (n : Nat) (s : State) : State := { s with pend := { s.pend with join := s.pend.join.map fun q => (n, q.2) } }

/-- The state of every partition is captured into its shadow (R316, R460). -/
def captureAll (s : State) : State :=
  s.executing.foldl (fun a p =>
    let x := a.part p
    startAct 6 p none (castReads p (a.setPart p { x with shadow := some (captureRec 0 p x.pauseFrame a) }))) s

/-- The records are finished. -/
def finishAll (s : State) : State := s.executing.foldl (fun a p => let x := a.part p; a.setPart p { x with shadow := x.shadow.map (·.finish) }) s

/-- Digests of the records go to the newcomer (VERIFY). -/
def sendDigests (s : State) : State :=
  s.executing.foldl (fun a p => match (a.part p).shadow with
    | some r => sendMessage msgVerify (p :: digestWords (recordDigest r)) a
    | none => a) s

/-- Both sides computed the same digest of every record. -/
def State.verified (s : State) : Bool :=
  s.executing.all fun p => match (s.part p).shadow with
    | some r => decide (smGet 0#384 s.pend.peerDigest p = recordDigest r)
    | none => false

/-- RESUME (Table 14.5): the restart of every partition goes to its scope root, but where another pause shares the boundary. -/
def resumeJoin (s : State) : State :=
  let s1 := s.executing.foldl (fun a p => endAct 6 p a) (joinPhase 6 s)
  s.executing.foldl (fun a p =>
    if s.pend.hostPause.contains p then a
    else if a.isRoot p then rootRestart p a else markerUp 0x08 (a.part p).scope16 0 0 a) s1

/-- JOIN_PHASE_COMPLETE (R316, R318, Table 14.5): the carrier's join goes on, or fails. -/
def execJoinPhaseComplete (ok : Bool) (s : State) : Res :=
  .next (match s.pend.join with
    | some (ph, _, ref) =>
      if s.pend.role ≠ 1 ∨ 6 ≤ ph then s
      else if !ok then failResync ph .standby (sendMessage msgFailed [ph] s)
      else if ph = 1 then
        (if s.allPaused then { s with pend := { s.pend with join := some (2, (s.part ref).pauseFrame, ref) } } else s)
      else if ph = 2 then
        (if s.allPaused && s.executing.all (fun p => s.settled p) && s.pend.mirror.isEmpty && s.pend.bulk.isEmpty && s.castFree then captureAll (joinPhase 3 s) else s)
      else if ph = 3 then
        (if s.clk.halt.isSome then s else (let s1 := finishAll (joinPhase 4 s); s1.executing.foldl (fun a p => sendJoin p a) s1))
      else if ph = 4 then (if s.pend.bulk.isEmpty then sendDigests (joinPhase 5 s) else s)
      else if s.verified then resumeJoin s
      else if s.executing.all (fun p => decide (smGet 0#384 s.pend.peerDigest p ≠ 0)) then failResync 5 .standby (sendMessage msgFailed [5] s)
      else s
    | none => s)

/-- PENDANT_HEARTBEAT_SEND (R301, R303, R304, R298 step 6): at each multiple of 4,096 the HB and, outside LOCKSTEP frames, the TAG; at
2,048 modulo 65,536 the STAMP; encryption and authentication start at the first such multiple after the pair formed. -/
def execPendantHeartbeatSend (s : State) : Res :=
  let t := s.cnt
  let frames := decide (s.pend.st = .lockstep) && [0, 1, 2, 3].any fun p => (s.part p).inFrame
  .next (if s.pend.st = .unpaired ∨ !s.clk.pll then s
    else if t % 65536 = 2048 then (if s.paired then { s with pend := { s.pend with stampDue := true } } else s)
    else if t % 4096 ≠ 0 then s
    else
      let s1 := if s.paired ∧ s.pend.encAt.isNone then { s with pend := { s.pend with encAt := some t } } else s
      let hb := BitVec.ofNat 64 (pairCode s.pend.st * 2 ^ 44 + s.pend.role * 2 ^ 42 + bitNat s.pend.tagOk * 2 ^ 41)
      let s2 := sendPendant 1 hb s1
      if !s.paired then s2
      else
        let s3 : State := if frames then s2 else sendTag s2
        eachPart sendIdigest (sendReport { s3 with pend := { s3.pend with tagOk := true } }))

end Sys2Proof.Machine
end

