-- ==== Sys2Proof/Machine/Progress.lean ====
section
/-!
DEFINITION. Progress.lean: the progress guarantee and what breaks it (R293, R296), cluster-engine failures (R99) and the restart of a
Plinth pair (R21, R337, R361, R440).
-/
namespace Sys2Proof.Machine

/-! ### Cluster engines (R99) -/

/-- Failed restarts of an engine within its hold, plus 1; 0 for an engine that runs. -/
def State.engineBad (s : State) (pcl : Nat) : Nat := smGet 0 s.arr.engBad pcl

/-- That figure written. -/
def setEngine (pcl n : Nat) (s : State) : State := { s with arr := { s.arr with engBad := smSet 0 s.arr.engBad pcl n } }

/-- An engine serves a cluster that has handed its work over: between the switch tick and the release of a migration its failure
matters only if a replay needs the cluster again (Table 4.9). -/
def State.handedOver (s : State) (pcl : Nat) : Bool :=
  match s.migration (pcl / 24) with
  | some g => g.switched && decide (g.src = pcl)
  | none => false

/-- The partition of an engine holds for it. -/
def engineHold (pcl code : Nat) (s : State) : State :=
  match s.partOf pcl with
  | some p =>
    let s1 := logRec { cause := code, sub := 0xC, sev := 2, part := p, loc := pcl } s
    if s.handedOver pcl then s1 else raiseHold p code pcl s1
  | none => logRec { cause := code, sub := 0xC, sev := 2, loc := pcl } s

/-- The hold persists and the host is told: three failed restarts, or firmware that no longer measures the same (R99, R440). -/
def engineLost (pcl : Nat) (s : State) : State :=
  let part := (s.partOf pcl).getD 0xFF
  postEvent St.engineFault 0xC part ((s.partOf pcl).bind s.jsOf) [] (setEngine pcl 4 s)

/-- An engine fails: its restart begins under HOLD; a restart that fails counts, and the third is the last (R99). -/
def failEngine (pcl : Nat) (s : State) : State :=
  match s.engineBad pcl with
  | 0 => noteEngine pcl (engineHold pcl St.engineFault (setEngine pcl 1 s))
  | 1 => setEngine pcl 2 s
  | 2 => setEngine pcl 3 s
  | 3 => engineLost pcl s
  | _ => s

/-- ENGINE_WATCHDOG (R99): not while a debug halt stops the watchdog (R456), nor where the die has no power. -/
def execEngineWatchdog (pcl : Fin 96) (s : State) : Res :=
  .next (if s.clk.halt.isSome ∨ domCond (.quad ⟨pcl.val / 24, by omega⟩) s ≠ .on then s else failEngine pcl.val s)

/-- Component of the measurements that an engine's firmware is (Table 21.1). -/
abbrev engineComp : Nat := 5

/-- ENGINE_RESTARTED (R99, R440): with the digest of the boot the holds of its failure are resolved; with another it is not started. -/
def execEngineRestarted (pcl : Fin 96) (digest : BitVec 384) (s : State) : Res :=
  let n := pcl.val
  .next (if s.engineBad n = 0 ∨ 4 ≤ s.engineBad n then s
    else if digest = smGet 0#384 s.trust.comp engineComp then
      let s1 := setEngine n 0 s
      match s.partOf n with
      | some p => resolveHold p St.fwServiceWait n (resolveHold p St.engineFault n s1)
      | none => s1
    else engineLost n (extendMr 7 6 digest [] s))

/-! ### What CMD_ABORTED leaves (R361, Table 16.17) -/

/-- Placed pauses of a command whose go has not been taken are cancelled in every unit; one still asked of the root is cancelled when it is
placed. -/
def dropPause (p : Nat) (own : PauseOwner → Bool) (s : State) : State :=
  let x := s.part p
  let hit := fun q : Pause => own q.owner && !goTaken x q.m
  let kept := x.pauses.filter fun q => !hit q
  let s1 := s.setPart p { x with pauses := kept, asked := x.asked.map fun a => if own a.owner then { a with owner := .void } else a }
  ((x.pauses.filter hit).filter fun q => !kept.any fun r => decide (r.m = q.m)).foldl (fun a q =>
    if a.isRoot p then markerDown 0x0A x.scope16 q.m.toNat 0x0301 a else markerUp 0x0B x.scope16 q.m.toNat 0x0301 a) s1

/-- A lane request of a command: it takes place at START when its LACK had arrived, else it is cancelled. -/
def dropRequest (c : CmdCtx) (s : State) : State :=
  let one := fun (a : State) (k : Nat) =>
    let l := a.blink k
    match l.req with
    | some r => if r.ctx = some c then (if r.acked then a.setBlink k { l with req := some { r with ctx := none } } else settleLink k (restoreLanes k (endRequest k 0 (a.setBlink k { l with req := some { r with ctx := none } })))) else a
    | none => a
  let child := fun (a : State) (k : Nat) => if (a.link k).retrain = some c then endAct 4 (17 + k) (a.setLink k { a.link k with retrain := none }) else a
  [1, 2, 3, 4, 5, 6].foldl child ((List.range 17).foldl one s)

/-- A pairing that has not formed a pair ends UNPAIRED on both twins. -/
def dropPairing (c : CmdCtx) (s : State) : State :=
  match s.pend.pair with
  | some (d, _) => if d = c then (let s1 := sendMessage msgAbort [St.cmdAborted] s; { s1 with pend := { sendq := s1.pend.sendq }, keys := { s1.keys with pairKey := none } }) else s
  | none => s

/-- A change of a partition that its command placed, and whose go has not been taken, is cancelled. -/
def dropChange (p : Nat) (own : ModeChange → Bool) (s : State) : State :=
  let x := s.part p
  (x.changes.filter fun c => own c && !goTaken x c.m).foldl (cancelChange p St.cmdAborted) s

/-- A pendant change or join of a command: a join whose resumption is ordered has had its go. -/
def dropPendant (c : CmdCtx) (s : State) : State :=
  match s.pend.change with
  | some (op, some d, _) =>
    if d ≠ c then s
    else match s.pend.join with
      | some (ph, _, _) => if 6 ≤ ph then s else failResync ph .standby (sendMessage msgFailed [ph] s)
      | none => eachPart (fun p => dropChange p fun q => decide (q.opcode = op)) s
  | _ => s

/-- A switch of a command: the phase in progress ends as it does on a failure; SAVE runs on (Table 11.9). -/
def dropSwitch (p : Nat) (c : CmdCtx) (s : State) : State :=
  let x := s.part p
  match x.switch with
  | none => s
  | some w =>
    if w.ctx ≠ c then s
    else
      let owns := fun o : PauseOwner => decide (o = .switch c)
      match w.phase with
      | 1 => endAct 6 p (failSwitch p 1 St.cmdAborted (dropPause p owns s))
      | 2 | 3 => endAct 6 p (failSwitch p w.phase St.cmdAborted s)
      | 4 => failLoad p St.cmdAborted [] (dropKind (.load p) s)
      | 5 => failSwitch p 6 St.cmdAborted s
      | 6 => endRestore p St.cmdAborted (dropKind (.restore p) s)
      | 7 => failStart p (extraRefusal St.cmdAborted 0 []) s
      | _ => s

/-- A RESYNC of a command: COPY runs on, a join ends as on a failure (Table 14.6). -/
def dropResync (c : CmdCtx) (s : State) : State :=
  match s.pend.resync, s.pend.join with
  | some (_, d, _), some (ph, _, _) => if d = some c then failResync ph .standby (sendMessage msgFailed [ph] s) else s
  | _, _ => s

/-- What an abort ends in one partition. -/
def dropInPart (c : CmdCtx) (op p : Nat) (s : State) : State :=
  let x := s.part p
  let owns := fun o : PauseOwner => decide (o = .cmd c) || decide (o = .step c) || decide (o = .cast c)
  if op = 0x0401 then (if x.loadCtx = some c ∧ x.st = .loading then emptyPart p (dropKind (.load p) s) else s)
  else if op = 0x0402 then
    (if x.st = .starting ∧ (x.sc.start.bind (·.ctx)) = some c then failStart p (extraRefusal St.cmdAborted 0 []) s else s)
  else if op = 0x0301 ∨ op = 0x0303 then dropPause p owns s
  else if op = 0x0D04 then
    (match x.cast with
      | some a => if a.ctx = some c ∧ !a.capturing ∧ !(a.placed && goTaken x a.m) then endAct 6 p (let s1 := dropPause p owns s; s1.setPart p { s1.part p with cast := none }) else s
      | none => s)
  else if op = 0x0404 ∨ op = 0x0405 then dropChange p (fun q => decide (q.opcode = op) && decide (q.ctx = some c)) s
  else if op = 0x0406 then dropSwitch p c s
  else s

/-- State left by CMD_ABORTED for one command (Table 16.17); hardware activities run on. -/
def abortEffect (c : CmdCtx) (op : Nat) (s : State) : State :=
  if op = 0x0502 ∨ op = 0x0503 then { s with trans := { s.trans with waits := s.trans.waits.filter fun w => decide (w.ctx ≠ c) } }
  else if op = 0x0803 ∨ op = 0x0804 then dropRequest c s
  else if op = 0x0901 then dropPairing c s
  else if op = 0x0C04 then { s with fw := { s.fw with verify := none } }
  else if op = 0x0B04 then { s with arm := { s.arm with upCtx := none } }
  else if op = 0x0F04 then { s with arm := { s.arm with queries := s.arm.queries.filter fun q => decide (q.ctx ≠ c) } }
  else if op = 0x0902 ∨ op = 0x0903 ∨ op = 0x0907 then dropPendant c s
  else if op = 0x0906 then dropResync c s
  else eachPart (dropInPart c op) s

/-- The reply of a command that was accepted and never replied. -/
def abortReply (s : State) (e : CmdCtx × Nat) : State := sendReply e.1 e.2 St.cmdAborted [] s

/-- Every command accepted and not completed ends with CMD_ABORTED (R337), with the state of Table 16.17. -/
def abortCommands (s : State) : State :=
  let waiting := s.plinth.accepted.filterMap instrHead
  let held := s.plinth.deferred.map fun w => (w.ctx, w.opcode)
  let opened := s.plinth.open_.map fun w => (w.ctx, w.opcode)
  let asking := s.asking.filter fun e => !s.plinth.open_.any fun w => decide (w.ctx = e.1)
  let s1 := opened.foldl (fun a e => sendCompletion e.1 e.2 St.cmdAborted [] a) ((asking ++ waiting ++ held).foldl abortReply s)
  let s2 : State := { s1 with plinth := { s1.plinth with accepted := [], deferred := [], open_ := [] } }
  (asking ++ held ++ opened).foldl (fun a e => abortEffect e.1 e.2 a) s2

/-! ### Plinth pairs (R21) -/

/-- A pair is ready. -/
def State.pairReady (s : State) (pair : Nat) : Bool := if pair = 0 then s.plinth.ready0 else s.plinth.ready1

/-- A pair's ready flag. -/
def setReady (pair : Nat) (b : Bool) (s : State) : State :=
  { s with plinth := if pair = 0 then { s.plinth with ready0 := b } else { s.plinth with ready1 := b } }

/-- FAULT_N cause of a stopped pair. -/
def pairFault (pair : Nat) : Nat := St.plinthMismatch + 65536 * (pair + 1)

/-- A pair stops: FAULT_N, a record under subsystem 0xB, HOLD in every running partition with the cause's code (unit 128 for pair 0, 129
for pair 1), and its restart begins; pair 0 aborts the commands that it had accepted. -/
def stopPair (pair code : Nat) (s : State) : State :=
  let s1 := assertFault (pairFault pair) (setReady pair false s)
  let s2 := holdAll code (128 + pair) (logRec { cause := code, sub := 0xB, sev := 2, loc := pair } s1)
  if pair = 0 then abortCommands s2 else s2

/-- PLINTH_MISMATCH (R21). -/
def execPlinthMismatch (pair : Fin 2) (s : State) : Res :=
  .next (if s.pairReady pair.val then stopPair pair.val St.plinthMismatch s else s)

/-- A pair that measures the same is ready: FAULT_N and the holds of its stop end. -/
def restartPair (pair : Nat) (s : State) : State :=
  resolveAll St.fwServiceWait (128 + pair) (resolveAll St.plinthMismatch (128 + pair) (releaseFault (pairFault pair) (setReady pair true s)))

/-- PLINTH_PAIR_READY (R21, R440): a pair whose digest differs is not started; before the end of self-test on trial the boot has failed
(R447). -/
def execPlinthPairReady (pair : Fin 2) (digest : BitVec 384) (s : State) : Res :=
  let n := pair.val
  .next (if !s.pwr.faults.contains (pairFault n) ∨ s.plinth.barred.getLsbD n then s
    else if digest = smGet 0#384 s.trust.comp (2 + n) then restartPair n s
    else
      let s1 := extendMr 7 6 digest [] s
      let s2 : State := { s1 with plinth := { s1.plinth with barred := s1.plinth.barred ||| BitVec.ofNat 2 (2 ^ n) } }
      if s.fw.trial ∧ !s.plinth.selfTest then failTrial s2 else s2)

/-- FW_SERVICE_WAIT (R296): the watchdog of a fault service expires; its unit restarts, and the frame stays held until then. -/
def execFwServiceWait (engine : Option (Fin 96)) (pair : Fin 2) (s : State) : Res :=
  .next (match engine with
    | some e => if s.clk.halt.isSome ∨ s.engineBad e.val ≠ 0 then s else setEngine e.val 1 (engineHold e.val St.fwServiceWait s)
    | none => if s.pairReady pair.val then stopPair pair.val St.fwServiceWait s else s)

/-! ### Lost transactions (R293) -/

/-- Timeout of an initiator (Table 13.4), in steps. -/
def lossTimeout (i : Nat) : Nat := if (16 ≤ i ∧ i < 40) ∨ (44 ≤ i ∧ i < 48) then 65536 else usSteps 1000

/-- A DMA transaction lost 8 times in a row suspends its list at its element, or ends an image read, with DATA_ERROR. -/
def loseDma (eng n : Nat) (s : State) : State :=
  match s.lists eng with
  | l :: _ =>
    if l.suspended then s
    else if n < 8 then setHead eng { l with losses := n } s
    else
      let e := l.elems.getD l.k (imageElem 0 0)
      let f : XferFault := { addr := e.src.toNat, cause := 7, level := 0, done := l.done }
      match l.kind with
      | .list | .save _ | .switchSave _ => suspendList eng l l.k { srcSide := true, f := f } s
      | .load _ | .region _ | .restore _ => imageReadFault eng l f s
  | [] => s

/-- The oldest request of partition p that still waits and whose cluster q holds of. -/
def oldestRequest (p : Nat) (q : Nat → Bool) (s : State) : Option Request := (s.part p).reqs.find? fun r => r.waits && q r.pcl

/-- The oldest waiting request among the clusters that q holds of is changed by f. -/
def onOldest (q : Nat → Bool) (f : Nat → Request → State → State) (s : State) : State :=
  match [0, 1, 2, 3].findSome? fun p => (oldestRequest p q s).map fun r => (p, r) with
  | some (p, r) => f p r s
  | none => s

/-- A request of partition p changed. -/
def modRequest (p : Nat) (r : Request) (f : Request → Request) (s : State) : State :=
  s.setPart p { s.part p with reqs := (s.part p).reqs.map fun o => if o.frame = r.frame ∧ o.key = r.key then f o else o }

/-- A memory-port transaction is lost and not reissued: the response is missing and the frame holds (R223). -/
def loseRequest (p : Nat) (r : Request) (s : State) : State :=
  raiseHold p St.nocLost r.pcl (modRequest p r (fun o => { o with lost := true, tag := none }) s)

/-- The request that a memory-port unit's lost tag carried: one that a verdict has abandoned is settled (R293). -/
def loseTag (k : Nat) (s : State) : State :=
  match [0, 1, 2, 3].findSome? fun p => ((s.part p).reqs.find? fun r => decide (r.tag = some k)).map fun r => (p, r) with
  | some (p, r) => if r.pending then loseRequest p r s else unbindTag k s
  | none => settleOrphan k s

/-- A lost packet is injected again at its source, with its tag, when its pair and its output have room (Table 13.4). -/
def reissue (k : Nat) (s : State) : State :=
  let h := smGet 0#80 s.noc.hdrs k
  let r := 6 * (hdrSrc h).1 + (hdrSrc h).2
  if h ≠ 0#80 ∧ s.hasCredit h ∧ s.mayForward r h 0 then forwardHeader r (portOf (hdrSp h)) h 0 (injectPacket h (takeCredit h s)) else s

/-- Level of a walk lost in the network: the spec names none (R253, R293): a free value of 1 to 4 (log entry 4). -/
def lostLevel (s : State) : Nat × State :=
  let (l, s1) := s.draw 2
  (l.toNat + 1, s1)

/-- A walk lost 8 times faults with TABLE_ERROR (R253, R293). -/
def faultWalk (p : Nat) (r : Request) (s : State) : State :=
  let (l, s1) := lostLevel s
  portFault p r r.jaddr 5 l (decide (r.op ≠ 0)) (modRequest p r (fun o => { o with faulted := true }) s1)

/-- A DMA walk lost 8 times: the first list that runs suspends with TABLE_ERROR. -/
def faultDmaWalk (s : State) : State :=
  match (List.range 16).find? fun e => match s.lists e with | l :: _ => !l.suspended | [] => false with
  | some e =>
    match s.lists e with
    | l :: _ =>
      let x := l.elems.getD l.k (imageElem 0 0)
      let (level, s1) := lostLevel s
      let src := decide (x.dir ≠ 0)
      suspendList e l l.k { srcSide := src, f := { addr := if src then x.src.toNat else x.dst.toNat, cause := 5, level := level, done := l.done } } s1
    | [] => s
  | none => s

/-- Loss of a message to or from a quadrant's hub, the 8th in a row: the engine that it concerns, which the header does not name, has
failed (log entry 4). -/
def loseHub (q : Nat) (s : State) : State :=
  let (e, s1) := s.draw 5
  failEngine (24 * q + e.toNat % 24) s1

/-- What an initiator does on its n-th loss in a row (Table 13.4). A log port acts as its die's hub and keeps its records; the sweep engine
visits its line again, which stays locked until then. -/
def lossAction (i n tag : Nat) (s : State) : State :=
  let again := reissue (tagKey i tag)
  if i < 16 then loseDma i n (if n < 8 then again s else s)
  else if i < 40 then loseTag (tagKey i tag) s
  else if i < 44 then (if n < 8 then again s else loseHub (i - 40) s)
  else if i < 48 then (if n < 8 then again s else onOldest (fun c => decide (c / 24 = i - 44)) faultWalk s)
  else if i = 48 then (if n < 8 then again s else faultDmaWalk s)
  else if i = 49 ∨ i = 50 then (if n < 8 then again s else if !s.pairReady (i - 49) then s else stopPair (i - 49) St.plinthMismatch s)
  else if i = 51 then s.emit (.completerAbort tag)
  else if i = 52 then { s with dbg := { s.dbg with err := true } }
  else if i = 54 then
    (if n < 8 then again s
      else if (s.pend.resync.isNone ∧ s.pend.join.isNone) then s
      else
        let ph := match s.pend.join with | some (ph, _, _) => ph | none => 0
        failResync ph (if s.pend.join.isSome then .standby else .solo) (sendMessage msgFailed [ph] s))
  else if i = 53 then again s
  else if 55 ≤ i ∧ i < 59 then (if n < 8 then again s else loseHub (i - 55) s)
  else s

/-- NOC_LOST (R284, R293): a tag not freed within the timeout of its initiator, in network cycles, is declared lost. -/
def execNocLost (init : Fin 59) (tag : Fin 64) (s : State) : Res :=
  let i := init.val
  let k := tagKey i tag.val
  .next (match smGet 0 s.noc.tags k with
    | 0 => s
    | t + 1 =>
      if !s.nocRuns || decide (s.noc.cyc < t + lossTimeout i) then s
      else
        let n := smGet 0 s.noc.losses k + 1
        let s1 : State := { s with noc := { s.noc with tags := smSet 0 s.noc.tags k 0, losses := smSet 0 s.noc.losses k (if 8 ≤ n then 0 else n), e2e := s.noc.e2e.filter fun e => decide (e.1 ≠ k) } }
        let s2 := modCtr i (fun c => { c with lost := min 65535 (c.lost + 1) }) s1
        let sev := if 16 ≤ i ∧ i < 40 then 2 else 5
        lossAction i n tag.val (logRec { cause := St.nocLost, sub := 0xA, sev := sev, detail := i + 256 * tag.val } s2))

/-! ### Broken conditions (Table 13.6) -/

/-- NOC_STALL: a response packet has stood in a router's buffer for 65,536 steps; only RST_N ends the hold. -/
def execNocStall (router : Fin 36) (port : Fin 11) (s : State) : Res :=
  let b := (router.val, port.val)
  .next (if !s.nocRuns || s.noc.stalls.contains b || !(s.waiting b.1 b.2 1).any fun e => decide (e.since + 65536 ≤ s.noc.cyc) then s
    else
      let s1 := logRec { cause := St.nocStall, sub := 0xA, sev := 2, loc := nocLoc router.val port.val 1 } s
      holdAll St.nocStall 0 (assertFault St.nocStall { s1 with noc := { s1.noc with stalls := s1.noc.stalls ++ [b] } }))

/-- HOST_STALL: a reply or event queue has stayed full for 10 ms; the device stops fetching that function's commands. -/
def execHostStall (fn : Fin 16) (s : State) : Res :=
  let f := s.fn fn.val
  let full := fun ev : Bool => (f.full ev).any fun t => decide (t + usSteps 10000 ≤ s.noc.cyc)
  .next (if s.fnExists fn.val && f.enable && !f.hostStall && (full false || full true) then
      logRec { cause := St.hostStall, sub := 0xB, sev := 5, loc := fn.val } (s.setFn fn.val { f with hostStall := true })
    else s)

end Sys2Proof.Machine
end

