-- ==== Sys2Proof/Machine/Dispatch.lean ====
section
/-!
DEFINITION. Dispatch.lean: one arm per command of the table, each one direct call of the command's meaning.
-/
namespace Sys2Proof.Machine

def exec (i : Instr) (s : State) : Host.Outcome State Fault Refusal :=
  match i with
  | .identQuery c => Sys2Proof.Machine.execIdentQuery c s
  | .identEquiv c => Sys2Proof.Machine.execIdentEquiv c s
  | .identCert c offset => Sys2Proof.Machine.execIdentCert c offset s
  | .pwrSet c target rsvd => Sys2Proof.Machine.execPwrSet c target rsvd s
  | .pwrStatus c => Sys2Proof.Machine.execPwrStatus c s
  | .pwrWatch c period ns chk rsvd sensors => Sys2Proof.Machine.execPwrWatch c period ns chk rsvd sensors s
  | .framePause c part rsvd dur => Sys2Proof.Machine.execFramePause c part rsvd dur s
  | .frameResume c part rsvd => Sys2Proof.Machine.execFrameResume c part rsvd s
  | .frameStep c part rsvd count => Sys2Proof.Machine.execFrameStep c part rsvd count s
  | .frameMailbox c part lcl grp row value => Sys2Proof.Machine.execFrameMailbox c part lcl grp row value s
  | .frameStatus c part rsvd => Sys2Proof.Machine.execFrameStatus c part rsvd s
  | .maquetteLoad c part dies jsid flags addr len => Sys2Proof.Machine.execMaquetteLoad c part dies jsid flags addr len s
  | .maquetteStart c part rsvd => Sys2Proof.Machine.execMaquetteStart c part rsvd s
  | .maquetteUnload c part rsvd => Sys2Proof.Machine.execMaquetteUnload c part rsvd s
  | .maquetteMigrate c part lcl tgt rsvd => Sys2Proof.Machine.execMaquetteMigrate c part lcl tgt rsvd s
  | .maquetteRegion c part mask addr len => Sys2Proof.Machine.execMaquetteRegion c part mask addr len s
  | .maquetteSwitch c part flags njsid rsvd saddr slen iaddr ilen caddr => Sys2Proof.Machine.execMaquetteSwitch c part flags njsid rsvd saddr slen iaddr ilen caddr s
  | .transPool c base len => Sys2Proof.Machine.execTransPool c base len s
  | .transMap c jsid size flags rsvd count rsvd2 jaddr paddr => Sys2Proof.Machine.execTransMap c jsid size flags rsvd count rsvd2 jaddr paddr s
  | .transUnmap c jsid size rsvd count rsvd2 jaddr => Sys2Proof.Machine.execTransUnmap c jsid size rsvd count rsvd2 jaddr s
  | .transResolve c jsid action sel n frame rsvd seqs => Sys2Proof.Machine.execTransResolve c jsid action sel n frame rsvd seqs s
  | .transFaults c jsid rsvd => Sys2Proof.Machine.execTransFaults c jsid rsvd s
  | .transWalk c jsid rsvd jaddr => Sys2Proof.Machine.execTransWalk c jsid rsvd jaddr s
  | .dmaSubmit c count jsid rsvd utag elems extra => Sys2Proof.Machine.execDmaSubmit c count jsid rsvd utag elems extra s
  | .dmaResume c eng rsvd lseq => Sys2Proof.Machine.execDmaResume c eng rsvd lseq s
  | .dmaAbort c eng rsvd lseq => Sys2Proof.Machine.execDmaAbort c eng rsvd lseq s
  | .dmaStatus c eng rsvd => Sys2Proof.Machine.execDmaStatus c eng rsvd s
  | .keyLoad c kix form rsvd pub rsvd2 wkey => Sys2Proof.Machine.execKeyLoad c kix form rsvd pub rsvd2 wkey s
  | .keyBind c jsid kix flags rsvd => Sys2Proof.Machine.execKeyBind c jsid kix flags rsvd s
  | .keyUnbind c jsid rsvd => Sys2Proof.Machine.execKeyUnbind c jsid rsvd s
  | .keyRetire c kix rsvd => Sys2Proof.Machine.execKeyRetire c kix rsvd s
  | .keyRotate c jsid kix rsvd => Sys2Proof.Machine.execKeyRotate c jsid kix rsvd s
  | .keyStatus c => Sys2Proof.Machine.execKeyStatus c s
  | .laneStatus c lid rsvd => Sys2Proof.Machine.execLaneStatus c lid rsvd s
  | .laneEq c lid op rsvd => Sys2Proof.Machine.execLaneEq c lid op rsvd s
  | .laneRetrain c lid rsvd => Sys2Proof.Machine.execLaneRetrain c lid rsvd s
  | .laneWidth c link width rsvd => Sys2Proof.Machine.execLaneWidth c link width rsvd s
  | .lanePattern c lid gen chk rsvd => Sys2Proof.Machine.execLanePattern c lid gen chk rsvd s
  | .laneInject c lid len pos at_ rsvd step => Sys2Proof.Machine.execLaneInject c lid len pos at_ rsvd step s
  | .laneSleep c lid set rsvd => Sys2Proof.Machine.execLaneSleep c lid set rsvd s
  | .pendantPair c mode flags rsvd => Sys2Proof.Machine.execPendantPair c mode flags rsvd s
  | .pendantMode c mode sb part rsvd => Sys2Proof.Machine.execPendantMode c mode sb part rsvd s
  | .pendantRetire c side part rsvd => Sys2Proof.Machine.execPendantRetire c side part rsvd s
  | .pendantPrefer c pref rsvd => Sys2Proof.Machine.execPendantPrefer c pref rsvd s
  | .pendantTakeover c => Sys2Proof.Machine.execPendantTakeover c s
  | .pendantResync c part rsvd => Sys2Proof.Machine.execPendantResync c part rsvd s
  | .pendantHandover c part rsvd => Sys2Proof.Machine.execPendantHandover c part rsvd s
  | .pendantDissolve c => Sys2Proof.Machine.execPendantDissolve c s
  | .pendantStatus c => Sys2Proof.Machine.execPendantStatus c s
  | .maintStart c act rsvd param => Sys2Proof.Machine.execMaintStart c act rsvd param s
  | .maintStop c act rsvd => Sys2Proof.Machine.execMaintStop c act rsvd s
  | .maintStatus c => Sys2Proof.Machine.execMaintStatus c s
  | .timeRead c => Sys2Proof.Machine.execTimeRead c s
  | .timeAdjust c offset rate rsvd => Sys2Proof.Machine.execTimeAdjust c offset rate rsvd s
  | .timeCompat c op rsvd tb0 tb1 tb2 tb3 => Sys2Proof.Machine.execTimeCompat c op rsvd tb0 tb1 tb2 tb3 s
  | .timeUpstream c link rsvd => Sys2Proof.Machine.execTimeUpstream c link rsvd s
  | .trustQuote c nonce mask rsvd => Sys2Proof.Machine.execTrustQuote c nonce mask rsvd s
  | .trustLog c offset => Sys2Proof.Machine.execTrustLog c offset s
  | .fwDownload c offset n bytes => Sys2Proof.Machine.execFwDownload c offset n bytes s
  | .fwVerify c total => Sys2Proof.Machine.execFwVerify c total s
  | .fwActivate c => Sys2Proof.Machine.execFwActivate c s
  | .fwConfirm c => Sys2Proof.Machine.execFwConfirm c s
  | .fwStatus c => Sys2Proof.Machine.execFwStatus c s
  | .dbgHalt c => Sys2Proof.Machine.execDbgHalt c s
  | .dbgRun c => Sys2Proof.Machine.execDbgRun c s
  | .dbgAccess c op space jsid rsvd addr n rsvd2 wdata => Sys2Proof.Machine.execDbgAccess c op space jsid rsvd addr n rsvd2 wdata s
  | .castTake c part trig clk rsvd step => Sys2Proof.Machine.execCastTake c part trig clk rsvd step s
  | .castSave c part rsvd jaddr len => Sys2Proof.Machine.execCastSave c part rsvd jaddr len s
  | .castRead c offset n rsvd => Sys2Proof.Machine.execCastRead c offset n rsvd s
  | .castRestore c part rsvd jaddr len => Sys2Proof.Machine.execCastRestore c part rsvd jaddr len s
  | .statsNoc c first n flags rsvd => Sys2Proof.Machine.execStatsNoc c first n flags rsvd s
  | .statsRead c sub rsvd unit => Sys2Proof.Machine.execStatsRead c sub rsvd unit s
  | .logRead c from_ n rsvd => Sys2Proof.Machine.execLogRead c from_ n rsvd s
  | .logSecurity c from_ n rsvd => Sys2Proof.Machine.execLogSecurity c from_ n rsvd s
  | .armProbe c => Sys2Proof.Machine.execArmProbe c s
  | .armAssign c addr level rsvd t1 t2 t3 t4 => Sys2Proof.Machine.execArmAssign c addr level rsvd t1 t2 t3 t4 s
  | .armScope c part flags root scope => Sys2Proof.Machine.execArmScope c part flags root scope s
  | .consensusQuery c part rsvd => Sys2Proof.Machine.execConsensusQuery c part rsvd s
  | .armStatus c => Sys2Proof.Machine.execArmStatus c s
  | .consensusOverride c flags rsvd => Sys2Proof.Machine.execConsensusOverride c flags rsvd s
  | .commandRingFetch fn slots => Sys2Proof.Machine.execCommandRingFetch fn slots s
  | .controlLinkPacket link frame => Sys2Proof.Machine.execControlLinkPacket link frame s
  | .childReplyForward link bytes => Sys2Proof.Machine.execChildReplyForward link bytes s
  | .backlogDrain fn => Sys2Proof.Machine.execBacklogDrain fn s
  | .cmdDbWrite fn value => Sys2Proof.Machine.execCmdDbWrite fn value s
  | .rplHeadWrite fn value => Sys2Proof.Machine.execRplHeadWrite fn value s
  | .evtHeadWrite fn value => Sys2Proof.Machine.execEvtHeadWrite fn value s
  | .ctrlEnableWrite fn enable => Sys2Proof.Machine.execCtrlEnableWrite fn enable s
  | .ctrlQreset fn => Sys2Proof.Machine.execCtrlQreset fn s
  | .ringAccessError fn ring => Sys2Proof.Machine.execRingAccessError fn ring s
  | .intStatusClear fn value => Sys2Proof.Machine.execIntStatusClear fn value s
  | .intMaskWrite fn value => Sys2Proof.Machine.execIntMaskWrite fn value s
  | .intModDelayExpiry fn vector => Sys2Proof.Machine.execIntModDelayExpiry fn vector s
  | .secalarmClear value => Sys2Proof.Machine.execSecalarmClear value s
  | .dbgPolicyWrite value => Sys2Proof.Machine.execDbgPolicyWrite value s
  | .frameLoRead fn => Sys2Proof.Machine.execFrameLoRead fn s
  | .countLoRead fn => Sys2Proof.Machine.execCountLoRead fn s
  | .registerWrite fn devicePage offset value byteEnables => Sys2Proof.Machine.execRegisterWrite fn devicePage offset value byteEnables s
  | .authObserve => Sys2Proof.Machine.execAuthObserve s
  | .authChallengeObserve => Sys2Proof.Machine.execAuthChallengeObserve s
  | .authChallengeFull => Sys2Proof.Machine.execAuthChallengeFull s
  | .authSubmitResponse => Sys2Proof.Machine.execAuthSubmitResponse s
  | .authDrop => Sys2Proof.Machine.execAuthDrop s
  | .lockoutExpiry => Sys2Proof.Machine.execLockoutExpiry s
  | .pktCtrlGo => Sys2Proof.Machine.execPktCtrlGo s
  | .pktCtrlClr => Sys2Proof.Machine.execPktCtrlClr s
  | .pktDataWrite value => Sys2Proof.Machine.execPktDataWrite value s
  | .pktDataRead => Sys2Proof.Machine.execPktDataRead s
  | .vtDataWrite value => Sys2Proof.Machine.execVtDataWrite value s
  | .vtDataRead => Sys2Proof.Machine.execVtDataRead s
  | .vtSerialByte byte => Sys2Proof.Machine.execVtSerialByte byte s
  | .shDataRead => Sys2Proof.Machine.execShDataRead s
  | .dapaccUpdate wr reg data => Sys2Proof.Machine.execDapaccUpdate wr reg data s
  | .dbgRstN high => Sys2Proof.Machine.execDbgRstN high s
  | .wakeN => Sys2Proof.Machine.execWakeN s
  | .rstN pendSide => Sys2Proof.Machine.execRstN pendSide s
  | .pwrOkRise oscDly => Sys2Proof.Machine.execPwrOkRise oscDly s
  | .pwrOkFall => Sys2Proof.Machine.execPwrOkFall s
  | .oscDlyExpiry => Sys2Proof.Machine.execOscDlyExpiry s
  | .boot slotA slotB board => Sys2Proof.Machine.execBoot slotA slotB board s
  | .selfTestDone => Sys2Proof.Machine.execSelfTestDone s
  | .trialSelfTestTimeout => Sys2Proof.Machine.execTrialSelfTestTimeout s
  | .flrVf fn => Sys2Proof.Machine.execFlrVf fn s
  | .flrPf => Sys2Proof.Machine.execFlrPf s
  | .pcieConventionalReset => Sys2Proof.Machine.execPcieConventionalReset s
  | .d3hotEntry fn => Sys2Proof.Machine.execD3hotEntry fn s
  | .domainWakeOnDemand dom => Sys2Proof.Machine.execDomainWakeOnDemand dom s
  | .domainIdleExpiry dom => Sys2Proof.Machine.execDomainIdleExpiry dom s
  | .transitionStepEnd => Sys2Proof.Machine.execTransitionStepEnd s
  | .watchSample readings coolantOk blocks => Sys2Proof.Machine.execWatchSample readings coolantOk blocks s
  | .coolantOkLow => Sys2Proof.Machine.execCoolantOkLow s
  | .railSequenceStep railsInTolerance => Sys2Proof.Machine.execRailSequenceStep railsInTolerance s
  | .railPowerGoodTimeout => Sys2Proof.Machine.execRailPowerGoodTimeout s
  | .railTelemetryRead outOfTolerance => Sys2Proof.Machine.execRailTelemetryRead outOfTolerance s
  | .thermalHigh reading => Sys2Proof.Machine.execThermalHigh reading s
  | .thermalTrip reading => Sys2Proof.Machine.execThermalTrip reading s
  | .lifeBinSample reading => Sys2Proof.Machine.execLifeBinSample reading s
  | .healthRecordWrite => Sys2Proof.Machine.execHealthRecordWrite s
  | .oscTrim cycles markCycles => Sys2Proof.Machine.execOscTrim cycles markCycles s
  | .pllLock => Sys2Proof.Machine.execPllLock s
  | .controlLinkUp link => Sys2Proof.Machine.execControlLinkUp link s
  | .controlLinkSyncLoss link => Sys2Proof.Machine.execControlLinkSyncLoss link s
  | .upstreamLoss => Sys2Proof.Machine.execUpstreamLoss s
  | .upstreamRegain link t1 t2 t3 t4 => Sys2Proof.Machine.execUpstreamRegain link t1 t2 t3 t4 s
  | .timeSyncSend => Sys2Proof.Machine.execTimeSyncSend s
  | .timeSyncReq link seq t1 => Sys2Proof.Machine.execTimeSyncReq link seq t1 s
  | .timeSyncResp link seq t2 t3 st parentState t4 => Sys2Proof.Machine.execTimeSyncResp link seq t2 t3 st parentState t4 s
  | .servoHoldover => Sys2Proof.Machine.execServoHoldover s
  | .childProbe answers equivs => Sys2Proof.Machine.execChildProbe answers equivs s
  | .frameRelativeStep part => Sys2Proof.Machine.execFrameRelativeStep part s
  | .nmParityReread part => Sys2Proof.Machine.execNmParityReread part s
  | .horizonTick part => Sys2Proof.Machine.execHorizonTick part s
  | .accumulationClose part => Sys2Proof.Machine.execAccumulationClose part s
  | .signatureSend part => Sys2Proof.Machine.execSignatureSend part s
  | .signatureCompare part => Sys2Proof.Machine.execSignatureCompare part s
  | .vetoSamplingPoint part => Sys2Proof.Machine.execVetoSamplingPoint part s
  | .bankClear part => Sys2Proof.Machine.execBankClear part s
  | .rowStaging part => Sys2Proof.Machine.execRowStaging part s
  | .goNoGo part => Sys2Proof.Machine.execGoNoGo part s
  | .beyondReplay part => Sys2Proof.Machine.execBeyondReplay part s
  | .commitComplete => Sys2Proof.Machine.execCommitComplete s
  | .vetoMarker link m => Sys2Proof.Machine.execVetoMarker link m s
  | .replayMarker link m => Sys2Proof.Machine.execReplayMarker link m s
  | .holdMarker link m => Sys2Proof.Machine.execHoldMarker link m s
  | .leadInStart part => Sys2Proof.Machine.execLeadInStart part s
  | .replayTick part => Sys2Proof.Machine.execReplayTick part s
  | .clearMarker link m => Sys2Proof.Machine.execClearMarker link m s
  | .clearResendTimeout part => Sys2Proof.Machine.execClearResendTimeout part s
  | .pauseMarker link m => Sys2Proof.Machine.execPauseMarker link m s
  | .restartMarker link m => Sys2Proof.Machine.execRestartMarker link m s
  | .pauseReq link m => Sys2Proof.Machine.execPauseReq link m s
  | .resumeReq link m => Sys2Proof.Machine.execResumeReq link m s
  | .stepReq link m => Sys2Proof.Machine.execStepReq link m s
  | .pauseExpiry part => Sys2Proof.Machine.execPauseExpiry part s
  | .cancelMarker link m => Sys2Proof.Machine.execCancelMarker link m s
  | .cancelReq link m => Sys2Proof.Machine.execCancelReq link m s
  | .armTimeout part => Sys2Proof.Machine.execArmTimeout part s
  | .measureMarker link m => Sys2Proof.Machine.execMeasureMarker link m s
  | .uplatMarker link m => Sys2Proof.Machine.execUplatMarker link m s
  | .downmaxMarker link m => Sys2Proof.Machine.execDownmaxMarker link m s
  | .startReqMarker link m => Sys2Proof.Machine.execStartReqMarker link m s
  | .paramsMarker link m => Sys2Proof.Machine.execParamsMarker link m s
  | .readyMarker link m => Sys2Proof.Machine.execReadyMarker link m s
  | .startMarker link m => Sys2Proof.Machine.execStartMarker link m s
  | .startFailMarker link m => Sys2Proof.Machine.execStartFailMarker link m s
  | .startAbortMarker link m => Sys2Proof.Machine.execStartAbortMarker link m s
  | .startTimeout part => Sys2Proof.Machine.execStartTimeout part s
  | .horizonMark link scope frame step check => Sys2Proof.Machine.execHorizonMark link scope frame step check s
  | .blockReceived lane block => Sys2Proof.Machine.execBlockReceived lane block s
  | .huntTimeout lane => Sys2Proof.Machine.execHuntTimeout lane s
  | .trainEqTimeout lane => Sys2Proof.Machine.execTrainEqTimeout lane s
  | .trainBlock lane payload => Sys2Proof.Machine.execTrainBlock lane payload s
  | .calBlock lane payload => Sys2Proof.Machine.execCalBlock lane payload s
  | .calbBlock lane payload => Sys2Proof.Machine.execCalbBlock lane payload s
  | .lreqBlock lane payload => Sys2Proof.Machine.execLreqBlock lane payload s
  | .lackBlock lane payload => Sys2Proof.Machine.execLackBlock lane payload s
  | .lackTimeout link => Sys2Proof.Machine.execLackTimeout link s
  | .laneChangeStart link => Sys2Proof.Machine.execLaneChangeStart link s
  | .laneResume lane => Sys2Proof.Machine.execLaneResume lane s
  | .sleepBlock lane payload => Sys2Proof.Machine.execSleepBlock lane payload s
  | .sleepSilentStep lane => Sys2Proof.Machine.execSleepSilentStep lane s
  | .relockTimeout lane => Sys2Proof.Machine.execRelockTimeout lane s
  | .pendantHb payload => Sys2Proof.Machine.execPendantHb payload s
  | .pendantTag tag => Sys2Proof.Machine.execPendantTag tag s
  | .pendantMsg words => Sys2Proof.Machine.execPendantMsg words s
  | .xaddrXdata addr data => Sys2Proof.Machine.execXaddrXdata addr data s
  | .stampBlock payload => Sys2Proof.Machine.execStampBlock payload s
  | .pairHello side bic equiv chain nonce pubKey signature => Sys2Proof.Machine.execPairHello side bic equiv chain nonce pubKey signature s
  | .pairKeychk value => Sys2Proof.Machine.execPairKeychk value s
  | .pairPeerTimeout => Sys2Proof.Machine.execPairPeerTimeout s
  | .peerLost => Sys2Proof.Machine.execPeerLost s
  | .mirrorSend => Sys2Proof.Machine.execMirrorSend s
  | .copyComplete => Sys2Proof.Machine.execCopyComplete s
  | .joinPhaseComplete ok => Sys2Proof.Machine.execJoinPhaseComplete ok s
  | .memoryResponse pcl port r => Sys2Proof.Machine.execMemoryResponse pcl port r s
  | .nocHeaderArrival router input header cycles => Sys2Proof.Machine.execNocHeaderArrival router input header cycles s
  | .nocPacketConsumed router port header words => Sys2Proof.Machine.execNocPacketConsumed router port header words s
  | .nocLost init tag => Sys2Proof.Machine.execNocLost init tag s
  | .nocStall router port => Sys2Proof.Machine.execNocStall router port s
  | .hostStall fn => Sys2Proof.Machine.execHostStall fn s
  | .fwServiceWait engine pair => Sys2Proof.Machine.execFwServiceWait engine pair s
  | .engineWatchdog pcl => Sys2Proof.Machine.execEngineWatchdog pcl s
  | .engineRestarted pcl digest => Sys2Proof.Machine.execEngineRestarted pcl digest s
  | .plinthMismatch pair => Sys2Proof.Machine.execPlinthMismatch pair s
  | .plinthPairReady pair digest => Sys2Proof.Machine.execPlinthPairReady pair digest s
  | .dramReadComplete line requester => Sys2Proof.Machine.execDramReadComplete line requester s
  | .mergeFetchComplete line => Sys2Proof.Machine.execMergeFetchComplete line s
  | .rankMigrateLine channel => Sys2Proof.Machine.execRankMigrateLine channel s
  | .rankMigrateComplete channel => Sys2Proof.Machine.execRankMigrateComplete channel s
  | .refreshInterval channel rank bank bankBusy => Sys2Proof.Machine.execRefreshInterval channel rank bank bankBusy s
  | .dimmTempRead channel dimm celsius => Sys2Proof.Machine.execDimmTempRead channel dimm celsius s
  | .dramPatrolLine channel => Sys2Proof.Machine.execDramPatrolLine channel s
  | .dmaElementComplete eng hostData => Sys2Proof.Machine.execDmaElementComplete eng hostData s
  | .dmaElementFault eng hostData hostError => Sys2Proof.Machine.execDmaElementFault eng hostData hostError s
  | .keyFlushComplete kix => Sys2Proof.Machine.execKeyFlushComplete kix s
  | .sweepLineVisit jsid => Sys2Proof.Machine.execSweepLineVisit jsid s
  | .rotateDone jsid => Sys2Proof.Machine.execRotateDone jsid s
  | .loadComplete part => Sys2Proof.Machine.execLoadComplete part s
  | .migrateCopyComplete die readBackOk => Sys2Proof.Machine.execMigrateCopyComplete die readBackOk s
  | .regionRewriteComplete part region readBackOk => Sys2Proof.Machine.execRegionRewriteComplete part region readBackOk s
  | .castCaptureComplete part => Sys2Proof.Machine.execCastCaptureComplete part s
  | .castCaptureBegin part => Sys2Proof.Machine.execCastCaptureBegin part s
  | .castFabricEdge part => Sys2Proof.Machine.execCastFabricEdge part s
  | .switchPhaseComplete part => Sys2Proof.Machine.execSwitchPhaseComplete part s
  | .restoreComplete part => Sys2Proof.Machine.execRestoreComplete part s
  | .raspSlot pcl grp => Sys2Proof.Machine.execRaspSlot pcl grp s
  | .configMonitorRead region => Sys2Proof.Machine.execConfigMonitorRead region s
  | .recoveryReadback part ok => Sys2Proof.Machine.execRecoveryReadback part ok s
  | .recoveryRelocation part => Sys2Proof.Machine.execRecoveryRelocation part s
  | .equaliserConverged lane => Sys2Proof.Machine.execEqualiserConverged lane s
  | .pendantHeartbeatSend => Sys2Proof.Machine.execPendantHeartbeatSend s
  | .injectionStepReached lane => Sys2Proof.Machine.execInjectionStepReached lane s
  | .tapInstructionUpdate ir => Sys2Proof.Machine.execTapInstructionUpdate ir s
  | .thermalAlertRelease reading => Sys2Proof.Machine.execThermalAlertRelease reading s
  | .msixVectorUnmask fn vector => Sys2Proof.Machine.execMsixVectorUnmask fn vector s
  | .keyLoadCommit kix => Sys2Proof.Machine.execKeyLoadCommit kix s
  | .fwVerifyComplete image readBackOk => Sys2Proof.Machine.execFwVerifyComplete image readBackOk s
  | .consensusReplyTimeout link => Sys2Proof.Machine.execConsensusReplyTimeout link s
  | .fabricClockEdge gen pins => Sys2Proof.Machine.execFabricClockEdge gen pins s
  | .pcieCompletionTimeout eng => Sys2Proof.Machine.execPcieCompletionTimeout eng s
  | .d3hotExit fn => Sys2Proof.Machine.execD3hotExit fn s
  | .vfEnableWrite enable numVfs => Sys2Proof.Machine.execVfEnableWrite enable numVfs s

end Sys2Proof.Machine
end

