-- ==== Sys2Proof/Machine/Step.lean ====
section
/-!
DEFINITION. Step.lean: one step of the block: the command at the front of the queue, or, on an empty queue, an accepted command or one
step period (log entry 7).
-/
namespace Sys2Proof.Machine

/-- The first command of a list that can go on now, executed; one that waits for another (R338) stays accepted and blocks none. -/
def runFirst : List Instr → State → Option (Host.Outcome State Fault Refusal)
  | [], _ => none
  | i :: l, s =>
    match exec i s with
    | .next t => if t.plinth.accepted.contains i then runFirst l s else some (.next t)
    | o => some o

/-- What the block does while no command waits in its queue: pair 0 executes the first accepted command that can go on (R328, R336);
with none, one period of the step clock passes. -/
def idle (s : State) : Host.Outcome State Fault Refusal :=
  if s.executes then (runFirst s.plinth.accepted s).getD (.next (passStep s)) else .next (passStep s)

/-- One step: the front command is taken and executed with the queue's rest; with no command waiting the block goes on by itself. -/
def step (s : State) : Host.Outcome State Fault Refusal :=
  match s.pending with
  | [] => idle s
  | c :: rest => exec c { s with pending := rest }

/-- s with the command that the word spells put at the front of its queue; unchanged where it spells none. -/
def State.withFetchWord (s : State) (nbits w : Nat) : State :=
  match decodeTableWord nbits w with
  | some c => { s with pending := c :: s.pending }
  | none => s

end Sys2Proof.Machine
end

