-- ==== Sys2Proof/Safety.lean ====
section
/-!
DEFINITION. Safety.lean: what the statements say of states and steps: the bounds that every step keeps, when an opcode row is served,
and which part of the state a command leaves alone.
-/
namespace Sys2Proof.Machine

/-- The bounds of the state's open-ended stores: DRAM contents in canonical form; at most 8,192 error-log records (R429) and 256
security events (R275); a measurement log of at most 65,536 bytes (R439). -/
def State.Bounded (s : State) : Prop :=
  Memory.wf s.dram.mem = true ∧ s.logs.recs.length ≤ 8192 ∧ s.logs.sec.length ≤ 256 ∧ s.trust.log.length ≤ 65536

/-- The opcode row is served: the Plinth executes commands of the opcode, and the gate of the opcode's source class lets it go on (R324 check 7, R334,
R343, R449, Table 16.1). -/
def State.serves (s : State) (cls : SrcClass) (op : Nat) (c : CmdCtx) : Bool := s.runs op && (gate cls op c s).isNone

/-- A deferred opcode is served: the row is served, and its source holds fewer than 32 deferred commands (R336). -/
def State.servesLate (s : State) (cls : SrcClass) (op : Nat) (c : CmdCtx) : Bool := s.serves cls op c && decide (s.deferredOf c.src < 32)

/-- The command may name partition p: p is 0 to 3 and the confinement of R342 lets its source name it. -/
def State.mayName (s : State) (c : CmdCtx) (p : Nat) : Bool := decide (p < 4) && !foreignPart c p s

/-- t is s but for what a reply touches: the accepted, deferred and open commands, the rings and backlogs of the functions, the debug
port's packet buffer, the record of outputs, the event sequence numbers of the links, and the event-loss counters. -/
def State.Answered (s t : State) : Prop :=
  t = { s with plinth := t.plinth, fns := t.fns, dbg := t.dbg, links := t.links, out := t.out, logs := t.logs, pwr := t.pwr }

/-- The host reaches the registers of function n: it exists, stands in D0, and the endpoint has power (R467 to R469). -/
def State.reaches (s : State) (n : Nat) : Bool := s.fnExists n && !(s.fn n).d3hot && decide (domCond .base s ≠ .off)

/-- A marker of a TYPE on a link is acted on (R367, R390): it comes from the side it travels from, its CRC is good, it is no second copy,
and no upstream switch of the last 1 ms stands. -/
def State.hears (s : State) (down : Bool) (link type : Nat) (m : Marker) : Bool :=
  (if down then decide (link = s.upLink) else takesUp link) && decide (markerCheck type m = .good) && !s.repeats link type m && decide (s.clk.dualUntil ≤ s.clk.now)

/-- s with the marker noted as the one acted on on its link, so that its second copy is known (R367). -/
def State.marked (s : State) (link type : Nat) (m : Marker) : State :=
  s.setLink link { s.link link with lastMark := some (s.cnt, type, m.scope.toNat, m.frame.toNat, m.arg.toNat) }

/-- Source class of an opcode: the Src column of Tables 16.2 to 16.16. CAST.READ's "F or J" is J, which takes in F. -/
def classOf (op : Nat) : SrcClass :=
  if [0x0301, 0x0302, 0x0303, 0x0304, 0x0305, 0x0401, 0x0402, 0x0403, 0x0404, 0x0405, 0x0406, 0x0505, 0x0506, 0x0601, 0x0602, 0x0603, 0x0604,
    0x0D04, 0x0D05, 0x0D06, 0x0D07].contains op then .j
  else if [0x0201, 0x0203, 0x0701, 0x0704, 0x0705, 0x0802, 0x0803, 0x0804, 0x0805, 0x0806, 0x0807, 0x0901, 0x0902, 0x0903, 0x0904, 0x0905, 0x0906,
    0x0907, 0x0908, 0x0A01, 0x0A02, 0x0B02, 0x0B04, 0x0C03, 0x0C04, 0x0C05, 0x0C06, 0x0E04, 0x0F03, 0x0F06].contains op then .p
  else if [0x0501, 0x0502, 0x0503, 0x0504, 0x0702, 0x0703].contains op then .h
  else if [0x0D01, 0x0D02, 0x0D03].contains op then .f
  else if [0x0F01, 0x0F02].contains op then .l
  else .a

/-- The opcode is deferred: D in the K column of Tables 16.2 to 16.16. -/
def deferredRow (op : Nat) : Bool := [0x0502, 0x0503, 0x0803, 0x0804, 0x0901, 0x0B04, 0x0C04, 0x0F04].contains op

/-- No command of lower ACCSEQ holds, or waits for, one of n bytes of job space, so that a command which acts on them need not wait (R338). -/
def State.pagesFree (s : State) (c : CmdCtx) (jsid lo n : Nat) : Bool :=
  !s.pagesHeld jsid lo n && !s.acceptedBefore c fun i => (s.pagesOf i).any (pagesMeet (jsid, lo, n))

/-- No link and no pendant pairing is held by a deferred command in execution (R338). -/
def State.linksFree (s : State) : Bool :=
  s.blinks.all (fun e => e.2.req.all (·.ctx.isNone)) && s.links.all (fun e => e.2.retrain.isNone) && s.pend.pair.isNone

/-- No command in execution or accepted before c holds an object that c would have to wait for (R338). -/
def State.unblocked (s : State) (c : CmdCtx) : Bool :=
  s.trans.waits.isEmpty && s.fw.verify.isNone && s.arm.upCtx.isNone && s.linksFree && !s.acceptedBefore c fun _ => true

/-- The command may change bytes of DRAM: the page tables that TRANS.MAP and TRANS.UNMAP write and the other twin sends, commits and DMA as they
end, the debug unit, the units that a pendant's TAG accepts, and what powers or resets the device. -/
def storesDram : Instr → Bool
  | .transMap .. | .transUnmap .. | .pendantMsg .. => true
  | .commitComplete | .dmaElementComplete .. | .dmaElementFault .. | .pcieCompletionTimeout .. | .dbgAccess .. | .pendantTag .. => true
  | .boot .. | .rstN .. | .pwrOkFall | .oscDlyExpiry | .transitionStepEnd | .railPowerGoodTimeout | .thermalTrip .. => true
  | _ => false

/-- The opcode rows that only report: they draw no free value, clear nothing and change nothing but what a reply touches. -/
def onlyReports : Instr → Bool
  | .identQuery .. | .identEquiv .. | .identCert .. | .frameStatus .. | .transFaults .. | .dmaStatus .. | .keyStatus .. => true
  | .pendantStatus .. | .maintStatus .. | .timeRead .. | .trustLog .. | .fwStatus .. | .statsRead .. | .logRead .. | .logSecurity .. => true
  | .armStatus .. => true
  | _ => false

/-- The rows of a function page that concern their function alone, with that function: CTRL, the interrupts, the readouts and D3hot. -/
def ownPageRow : Instr → Option Nat
  | .ctrlEnableWrite fn _ | .ctrlQreset fn | .intStatusClear fn _ | .intMaskWrite fn _ | .intModDelayExpiry fn _ => some fn.val
  | .msixVectorUnmask fn _ | .frameLoRead fn | .countLoRead fn | .d3hotEntry fn | .d3hotExit fn => some fn.val
  | _ => none

/-- The rows of the debug port that stay within it: its buffers, its terminal, its challenges and its TAP. -/
def debugPortRow : Instr → Bool
  | .pktDataWrite _ | .pktDataRead | .pktCtrlClr | .vtDataWrite _ | .vtDataRead | .vtSerialByte _ | .lockoutExpiry | .authChallengeObserve => true
  | .authChallengeFull | .tapInstructionUpdate _ => true
  | _ => false

end Sys2Proof.Machine
end

