-- ==== Sys2Proof/Certificates/Slice0/Obligations.lean ====
section
/-!
DEFINITION. Obligations.lean: the statements about the SKM-9616 model for the provers. Obligations 1 to 38 say, command by command, that every
row of the table completes and with what state; the rest are rules of the whole machine. State functions named on the right of an
equation are the model's own operations, each of which cites its rule where it is defined.
-/
open Sys2Proof Sys2Proof.Machine

/-- Identity queries (R345): each served query is answered OK, with the data of Table 16.2 and no other effect; an IDENT.CERT whose OFFSET
lies at or beyond the chain's length is answered ARG_RANGE. -/
def Obligations.IdentityAnswers : Prop :=
  ∀ (c : CmdCtx) (offset : U32) (s : State),
    (s.serves .a 0x0101 c = true →
      exec (.identQuery c) s = .next (reply c 0x0101 St.ok
        (leBytes 2 s.ident.bic.toNat ++ [s.ident.code, BitVec.ofNat 8 (bitNat s.ident.pendSide)] ++ leBytes 2 s.arm.addr.toNat ++
          leBytes 1 (bitNat s.arm.assigned) ++ leBytes 1 (s.ident.oscDly.toNat + 8 * bitNat s.ident.pendSide) ++ zeros 2 ++
          leBytes 16 s.ident.serial.toNat ++ leBytes 4 s.fw.ver.toNat ++ leBytes 1 (bitNat s.fw.slot) ++ zeros 3) (takeAccepted c s))) ∧
    (s.serves .a 0x0102 c = true →
      exec (.identEquiv c) s = .next (reply c 0x0102 St.ok
        (leBytes 2 s.ident.equiv.length ++ (s.ident.equiv.map fun b => leBytes 2 b.toNat).flatten) (takeAccepted c s))) ∧
    (s.serves .a 0x0103 c = true → offset.toNat < s.ident.certs.length →
      exec (.identCert c offset) s = .next (reply c 0x0103 St.ok
        (leBytes 4 s.ident.certs.length ++ leBytes 4 (bytesAt s.ident.certs offset.toNat 4072).length ++ bytesAt s.ident.certs offset.toNat 4072)
        (takeAccepted c s))) ∧
    (s.serves .a 0x0103 c = true → s.ident.certs.length ≤ offset.toNat →
      exec (.identCert c offset) s = .next (reply c 0x0103 St.argRange [] (takeAccepted c s)))

/-- Power commands (R346, R403, R408, R409, R412, R413): a legal PWR.SET is answered ACCEPTED, releases the Watch alert and begins the
transition with its completion event open; one to the state the device is in is answered OK; PWR.STATUS reports Table 16.3 with the
board's PIN reading a free value (log entry 4); PWR.WATCH stores its settings. -/
def Obligations.PowerCommandsComplete : Prop :=
  ∀ (c : CmdCtx) (target : Byte) (st : PwrState) (s : State),
    (s.serves .p 0x0201 c = true → pwrOf target.toNat = some st → s.clk.halt = none → s.pwr.trans = none → st ≠ s.pwr.st → st ≠ .off →
      pwrRefusal st s = none →
      exec (.pwrSet c target 0) s =
        .next (beginTransition st (some c) (setAlertWatch false (reply c 0x0201 St.accepted [] (takeAccepted c s))))) ∧
    (s.serves .p 0x0201 c = true → pwrOf target.toNat = some st → s.clk.halt = none → s.pwr.trans = none → st = s.pwr.st →
      exec (.pwrSet c target 0) s = .next (setAlertWatch false (reply c 0x0201 St.ok [] (takeAccepted c s)))) ∧
    (s.serves .a 0x0202 c = true →
      exec (.pwrStatus c) s = .next (reply c 0x0202 St.ok
        (leBytes 1 (pwrCode s.pwr.st) ++ leBytes 1 (match s.pwr.trans with | some t => pwrCode t.target | none => 0xFF) ++
          leBytes 2 (domBits s) ++ leBytes 3 (regionBits s) ++ zeros 1 ++ leBytes 4 (Config.freeValue 32 s.free).toNat)
        { takeAccepted c s with free := s.free + 1 })) ∧
    (∀ (period : U32) (ns chk : Byte) (sensors : List WatchSensor),
      s.serves .p 0x0203 c = true → sensors.length = ns.toNat → 1 ≤ period.toNat → period.toNat ≤ 10000 → ns.toNat ≤ 8 → chk.toNat ≤ 3 →
      (∀ w ∈ sensors, w.rsvd = 0 ∧ w.saddr.toNat ≤ 127) →
      exec (.pwrWatch c period ns chk 0 sensors) s = .next (reply c 0x0203 St.ok []
        { takeAccepted c s with pwr := { s.pwr with wPeriod := period, wChk := chk, wSensors := sensors } }))

/-- Frame commands at the scope root of a running partition (R49, R50, R52, R53, R98, R347, R374): FRAME.PAUSE arms the pause and sends PAUSE down;
FRAME.RESUME and FRAME.STEP of a paused partition restart it, and FRAME.RESUME of one held by REPLAY_LIMIT releases that hold (R49); FRAME.MAILBOX queues its write for its frame; FRAME.STATUS reports. -/
def Obligations.FrameCommandsComplete : Prop :=
  ∀ (c : CmdCtx) (part : Byte) (s : State), s.mayName c part.toNat = true →
    (∀ dur : U32, s.serves .j 0x0301 c = true → (s.part part.toNat).st = .running → (s.part part.toNat).cond ≠ 1 →
      (s.part part.toNat).pausedAt = none → s.isRoot part.toNat = true →
      exec (.framePause c part 0 dur) s = .next
        (let m := pauseBoundary (s.isSingle part.toNat) (s.part part.toNat) s.cnt c.eframe
         reply c 0x0301 St.accepted (frameData m) (markerDown 0x05 (s.part part.toNat).scope16 m.toNat dur.toNat
          (armPause part.toNat { m := m, d := dur.toNat, owner := .cmd c } (takeAccepted c s))))) ∧
    (∀ m t b d, s.serves .j 0x0302 c = true → (s.part part.toNat).st = .running → (s.part part.toNat).pausedAt = some (m, t, b, d) →
      (s.part part.toNat).replayLimit = false → s.joining = false → s.isRoot part.toNat = true →
      exec (.frameResume c part 0) s = .next (rootRestart part.toNat (reply c 0x0302 St.accepted (frameData m)
        ((takeAccepted c s).setPart part.toNat { s.part part.toNat with resumeCtx := (s.part part.toNat).resumeCtx ++ [c] })))) ∧
    (∀ k tv, s.serves .j 0x0302 c = true → (s.part part.toNat).st = .running → (s.part part.toNat).cond ≠ 0 →
      (s.part part.toNat).heldFrame = some (k, tv) → (s.part part.toNat).replayLimit = true → s.joining = false →
      exec (.frameResume c part 0) s = .next (reply c 0x0302 St.accepted (frameData k) (releaseLimit part.toNat
        ((takeAccepted c s).setPart part.toNat { s.part part.toNat with
          replayLimit := false, replayCount := (k, 0), releaseCtx := (s.part part.toNat).releaseCtx ++ [c] })))) ∧
    (∀ (count : U16) m t b d, s.serves .j 0x0303 c = true → (s.part part.toNat).st = .running →
      (s.part part.toNat).pausedAt = some (m, t, b, d) → s.joining = false → s.isRoot part.toNat = true → count ≠ 0 →
      exec (.frameStep c part 0 count) s = .next
        (let n := m + BitVec.ofNat 48 count.toNat
         rootRestart part.toNat (markerDown 0x05 (s.part part.toNat).scope16 n.toNat 0 (armPause part.toNat { m := n, d := 0, owner := .step c }
          (reply c 0x0303 St.accepted (frameData m) (takeAccepted c s)))))) ∧
    (∀ (lcl grp row : Byte) (value : U64), s.serves .j 0x0304 c = true → (s.part part.toNat).st = .running → grp.toNat < 16 → row.toNat < 4 →
      ((s.part part.toNat).pcl lcl.toNat).isSome = true →
      ((s.part part.toNat).mailbox.filter fun w => decide (w.lcl = lcl.toNat) && mailboxWaits (s.part part.toNat) s.cnt w).length < 64 →
      exec (.frameMailbox c part lcl grp row value) s = .next
        (let x := s.part part.toNat
         let m := placeAt x.current c.eframe (mailboxFirst x s.cnt)
         reply c 0x0304 St.ok (frameData m) ((takeAccepted c s).setPart part.toNat { x with mailbox := x.mailbox ++
          [{ lcl := lcl.toNat, grp := grp.toNat, row := row.toNat, value := value, m := m, acc := c.accSeq }] }))) ∧
    (s.serves .j 0x0305 c = true →
      exec (.frameStatus c part 0) s = .next (reply c 0x0305 St.ok (statusData (s.part part.toNat)) (takeAccepted c s)))

/-- Maquette commands (R101, R161, R166, R169, R193, R260, R375): each legal command is answered ACCEPTED (MAQUETTE.UNLOAD of an EMPTY
partition OK) and begins what its row gives it: a load that reads the image through a DMA engine, a Start, an unload, a migration to a
healthy spare, a partial reconfiguration with its switch and resume frames, a pre-emptive switch. The time a
migration's copy and a reconfiguration's check are expected to take is a free value (log entry 20). -/
def Obligations.MaquetteCommandsComplete : Prop :=
  ∀ (c : CmdCtx) (part : Byte) (s : State), s.mayName c part.toNat = true →
    (∀ (dies jsid flags : Byte) (addr len : U64) (e : Nat), s.serves .j 0x0401 c = true → dies.toNat < 16 → jsid.toNat < 16 →
      flags.toNat ≤ 1 → rangeOk addr.toNat len.toNat = true → s.memGone = false → foreignJs c jsid.toNat = false →
      ((s.part part.toNat).st = .loaded ∨ (s.part part.toNat).st = .empty ∨ ((s.part part.toNat).st = .running ∧ (s.part part.toNat).pausedAt.isSome = true)) →
      (s.part part.toNat).switch = none → (s.part part.toNat).unloadCtx = none → (s.part part.toNat).restoreCtx = none →
      s.pagesFree c jsid.toNat addr.toNat len.toNat = true → s.pickEngine = some e →
      exec (.maquetteLoad c part dies jsid flags addr len) s = .next (reply c 0x0401 St.accepted []
        (enqueue e (.load part.toNat) (some c) jsid.toNat 0 [imageElem addr.toNat len.toNat]
          (enterLoading part.toNat (some c) (BitVec.ofNat 4 dies.toNat) jsid.toNat (natBit flags.toNat 0) addr.toNat len.toNat
            (supersedeCast part.toNat (supersede part.toNat (takeAccepted c s))))))) ∧
    (s.serves .j 0x0402 c = true → (s.part part.toNat).st = .loaded → (s.part part.toNat).restoreCtx = none →
      (s.part part.toNat).switch = none → pairRefusal part.toNat s = none →
      exec (.maquetteStart c part 0) s = .next (beginStart part.toNat (some c) (reply c 0x0402 St.accepted [] (takeAccepted c s)))) ∧
    (s.serves .j 0x0403 c = true → (s.part part.toNat).st = .empty → (s.part part.toNat).unloadCtx = none →
      exec (.maquetteUnload c part 0) s = .next (reply c 0x0403 St.ok [] (takeAccepted c s))) ∧
    (s.serves .j 0x0403 c = true → (s.part part.toNat).st = .loaded → (s.part part.toNat).unloadCtx = none →
      exec (.maquetteUnload c part 0) s = .next
        (let s1 := abandonRestore part.toNat (reply c 0x0403 St.accepted [] (takeAccepted c s))
         emptyPart part.toNat (s1.setPart part.toNat { s1.part part.toNat with unloadCtx := some c }))) ∧
    (∀ (lcl tgt : Byte) (src u : Nat) (im : Image), s.serves .j 0x0404 c = true → lcl.toNat < 96 → tgt.toNat < 96 →
      (s.part part.toNat).st = .running → (s.part part.toNat).pcl lcl.toNat = some src → (s.part part.toNat).hosted tgt.toNat = some u →
      (s.part part.toNat).image = some im → src / 24 = tgt.toNat / 24 → lclUsed im u = false → u ≠ lcl.toNat →
      smGet 0 s.arr.retired tgt.toNat ≠ 2 → (s.part part.toNat).heldFrame = none → s.migration (tgt.toNat / 24) = none →
      exec (.maquetteMigrate c part lcl tgt 0) s = .next
        (let m := changeFrame (s.part part.toNat) s.cnt (Config.freeValue 32 s.free).toNat c.eframe
         reply c 0x0404 St.accepted (frameData m) (addChange part.toNat
          { m := m, opcode := 0x0404, armed := false, ready := false, lateAt := none, ctx := some c, arg := tgt.toNat / 24 }
          (({ takeAccepted c s with free := s.free + 1 } : State).setMigration (tgt.toNat / 24) (some {
            part := part.toNat, lcl := lcl.toNat, src := src, tgt := tgt.toNat, spareL := u, m := m, copied := false, switched := false
            ctx := some c }))))) ∧
    (∀ (mask : BitVec 24) (addr len : U64) (e : Nat) (im : Image), s.serves .j 0x0405 c = true → mask ≠ 0 →
      rangeOk addr.toNat len.toNat = true → s.memGone = false → s.pagesFree c (s.part part.toNat).jsid addr.toNat len.toNat = true →
      (s.part part.toNat).st = .running → (s.part part.toNat).image = some im →
      ((onesOf mask.toNat 24).all fun k => im.qmask.getLsbD (k / 6)) = true → (s.part part.toNat).reconfig.any (fun r => decide (r.mask &&& BitVec.ofNat 24 (maskOf ((onesOf mask.toNat 24).map (s.part part.toNat).region)) ≠ 0)) = false →
      s.pickEngine = some e →
      exec (.maquetteRegion c part mask addr len) s = .next
        (let x := s.part part.toNat
         let phys := BitVec.ofNat 24 (maskOf ((onesOf mask.toNat 24).map x.region))
         let m := changeFrame x s.cnt (Config.freeValue 32 s.free).toNat c.eframe
         let r := m + BitVec.ofNat 48 (resumeDistance x.frameLen)
         reply c 0x0405 St.accepted (leBytes 6 m.toNat ++ leBytes 6 r.toNat ++ zeros 4)
          (enqueue e (.region part.toNat) (some c) x.jsid 0 [imageElem addr.toNat len.toNat]
            (addChange part.toNat { m := r, opcode := 0x0405, armed := false, ready := false, lateAt := none, ctx := some c, arg := phys.toNat + 2 ^ 24 }
              (addChange part.toNat { m := m, opcode := 0x0405, armed := false, ready := false, lateAt := none, ctx := some c, arg := phys.toNat }
                (({ takeAccepted c s with free := s.free + 1 } : State).setPart part.toNat { x with reconfig := x.reconfig ++ [{
                    mask := phys, m := m, resume := r, addr := addr.toNat, len := len.toNat, image := none, rewritten := 0, unread := false
                    reread := none, active := false, ctx := c }] })))))) ∧
    (∀ (flags njsid : Byte) (saddr slen iaddr ilen caddr : U64), s.serves .j 0x0406 c = true → flags.toNat ≤ 1 → njsid.toNat < 16 →
      saddr.toNat % 4096 = 0 → rangeOk saddr.toNat slen.toNat = true → rangeOk iaddr.toNat ilen.toNat = true → s.memGone = false →
      rangeOk caddr.toNat (castLen (s.part part.toNat).diePairs.length) = true →
      (caddr = 0 ∨ s.pagesFree c njsid.toNat caddr.toNat (castLen (s.part part.toNat).diePairs.length) = true) → castLen (s.part part.toNat).diePairs.length ≤ slen.toNat →
      s.pagesFree c (s.part part.toNat).jsid saddr.toNat slen.toNat = true → s.pagesFree c njsid.toNat iaddr.toNat ilen.toNat = true →
      (s.part part.toNat).st = .running → (s.part part.toNat).switch = none → s.savesShadow part.toNat = false → s.blocker 6 part.toNat = none →
      foreignJs c njsid.toNat = false → s.keyReady njsid.toNat = true →
      exec (.maquetteSwitch c part flags njsid 0 saddr slen iaddr ilen caddr) s = .next (beginSwitch part.toNat c {
        ctx := c, phase := 1, oldJsid := (s.part part.toNat).jsid, newJsid := njsid.toNat, saddr := saddr.toNat, slen := slen.toNat
        iaddr := iaddr.toNat, ilen := ilen.toNat, caddr := caddr.toNat, override := natBit flags.toNat 0, saveDone := false, saveVoid := false
        tickDone := false } (takeAccepted c s)))

/-- Translation commands (R246, R249, R250, R253, R255, R338, Table 16.6): TRANS.POOL takes an aligned range of usable memory; TRANS.MAP
writes the leaves of its pages and TRANS.UNMAP clears them, replying once no commit translated before the change is left;
TRANS.RESOLVE clears the records it names; TRANS.FAULTS and TRANS.WALK report. -/
def Obligations.TranslationCommandsComplete : Prop :=
  ∀ (c : CmdCtx) (jsid : Byte) (s : State),
    (∀ base len : U64, s.serves .h 0x0501 c = true → s.dram.ok = true → s.trans.pool = none → base.toNat % 2097152 = 0 →
      len.toNat % 2097152 = 0 → 0 < len.toNat → base.toNat + len.toNat ≤ s.usableBytes →
      exec (.transPool c base len) s = .next (reply c 0x0501 St.ok []
        { takeAccepted c s with trans := { s.trans with pool := some (base.toNat, len.toNat) } })) ∧
    (∀ (size flags : Byte) (count : U16) (jaddr paddr : U64) (s1 : State), s.servesLate .h 0x0502 c = true → jsid.toNat ≤ 15 → size.toNat ≤ 2 →
      flags.toNat ≤ 3 → 0 < count.toNat → count.toNat ≤ 512 → s.dram.ok = true → s.trans.pool.isSome = true →
      rangeOk jaddr.toNat (count.toNat * pageBytes (sizeLevel size.toNat)) = true → jaddr.toNat % pageBytes (sizeLevel size.toNat) = 0 →
      paddr.toNat % pageBytes (sizeLevel size.toNat) = 0 → s.physBad paddr.toNat (count.toNat * pageBytes (sizeLevel size.toNat)) = false →
      s.pagesFree c jsid.toNat jaddr.toNat (count.toNat * pageBytes (sizeLevel size.toNat)) = true →
      (∀ i < count.toNat, pageAt s jsid.toNat (sizeLevel size.toNat) (jaddr.toNat + i * pageBytes (sizeLevel size.toNat)) = .absent) →
      (List.range count.toNat).foldl (fun (r : Option State) (i : Nat) => r.bind fun a =>
        mapPage jsid.toNat (sizeLevel size.toNat) (jaddr.toNat + i * pageBytes (sizeLevel size.toNat))
          (leafEntry (sizeLevel size.toNat) (paddr.toNat + i * pageBytes (sizeLevel size.toNat)) (flags.getLsbD 0) (flags.getLsbD 1)) a)
        (some (takeAccepted c s)) = some s1 →
      exec (.transMap c jsid size flags 0 count 0 jaddr paddr) s = .next (replyOrWait c 0x0502 jsid.toNat jaddr.toNat
        (count.toNat * pageBytes (sizeLevel size.toNat)) []
        (forwardPages msgMap jsid.toNat (sizeLevel size.toNat) flags.toNat count.toNat jaddr.toNat paddr.toNat s1))) ∧
    (∀ (size : Byte) (jaddr : U64) (e : Nat), s.servesLate .h 0x0503 c = true → jsid.toNat ≤ 15 → size.toNat ≤ 2 → s.dram.ok = true →
      rangeOk jaddr.toNat (1 * pageBytes (sizeLevel size.toNat)) = true → jaddr.toNat % pageBytes (sizeLevel size.toNat) = 0 →
      s.pagesFree c jsid.toNat jaddr.toNat (1 * pageBytes (sizeLevel size.toNat)) = true →
      pageAt s jsid.toNat (sizeLevel size.toNat) jaddr.toNat = .same e →
      exec (.transUnmap c jsid size 0 1 0 jaddr) s = .next (replyOrWait c 0x0503 jsid.toNat jaddr.toNat (1 * pageBytes (sizeLevel size.toNat))
        [(entryPa (s.pte e), pageBytes (sizeLevel size.toNat))]
        (forwardPages msgUnmap jsid.toNat (sizeLevel size.toNat) 0 1 jaddr.toNat 0
          (unmapPage jsid.toNat (sizeLevel size.toNat) jaddr.toNat (takeAccepted c s))))) ∧
    (∀ (frame : FrameNo), s.serves .h 0x0504 c = true → jsid.toNat ≤ 15 →
      exec (.transResolve c jsid 0 1 0 frame 0 []) s = .next (eachPart retestFaultHold (reply c 0x0504 St.ok []
        (clearFaults (fun r => decide (r.jsid = jsid.toNat) && decide (r.src = 1) && decide (r.frame = frame)) (takeAccepted c s))))) ∧
    (s.serves .j 0x0505 c = true → jsid.toNat ≤ 15 → foreignJs c jsid.toNat = false →
      exec (.transFaults c jsid 0) s = .next (reply c 0x0505 St.ok
        (leBytes 1 (s.faultsOf jsid.toNat).length ++ zeros 3 ++ ((s.faultsOf jsid.toNat).map faultBytes).flatten) (takeAccepted c s))) ∧
    (∀ jaddr : U64, s.serves .j 0x0506 c = true → jsid.toNat ≤ 15 → rangeOk jaddr.toNat 1 = true →
      foreignJs c jsid.toNat = false → s.dram.ok = true → s.pagesFree c jsid.toNat jaddr.toNat 1 = true →
      exec (.transWalk c jsid 0 jaddr) s = .next (reply c 0x0506 St.ok
        (match tableWalk s jsid.toNat jaddr.toNat with
          | .leaf l e _ => leBytes 1 l ++ zeros 7 ++ leBytes 8 e.toNat
          | .stop l _ e => leBytes 1 l ++ zeros 7 ++ leBytes 8 e.toNat)
        (walkRead jsid.toNat 8 jaddr.toNat (takeAccepted c s))))

/-- DMA commands (R256, R259, R351): a good list joins the least loaded engine and takes the next LSEQ; a suspended list resumes from the
first byte of its element, or is dropped and its command completed; DMA.STATUS reports and changes nothing. -/
def Obligations.DmaCommandsComplete : Prop :=
  ∀ (c : CmdCtx) (s : State),
    (∀ (count jsid : Byte) (utag : U32) (elems : List DmaElem) (e : Nat), s.serves .j 0x0601 c = true → jsid.toNat < 16 →
      foreignJs c jsid.toNat = false → elems.length = count.toNat → 0 < count.toNat → count.toNat ≤ 64 → elems.any badElem = false →
      (elems.flatMap (elemRanges jsid.toNat)).all (fun r => s.pagesFree c r.1 r.2.1 r.2.2) = true → s.dram.ok = true → s.pickEngine = some e →
      exec (.dmaSubmit c count jsid 0 utag elems 0) s = .next (reply c 0x0601 St.accepted (leBytes 1 e ++ zeros 3 ++ leBytes 4 s.lseq.toNat)
        (enqueue e .list (some c) jsid.toNat utag elems (takeAccepted c s)))) ∧
    (∀ (eng : Byte) (lseq : U32) (l : DmaList) (r : List DmaList), eng.toNat < 16 → s.lists eng.toNat = l :: r → l.suspended = true →
      (∀ x ∈ l :: r, x.lseq = lseq → foreignJs c x.jsid = false) → l.lseq = lseq →
      (s.serves .j 0x0602 c = true →
        exec (.dmaResume c eng 0 lseq) s = .next (reply c 0x0602 St.ok []
          (setHead eng.toNat { l with suspended := false, done := 0, losses := 0, joined := [] } (clearEngine eng.toNat (takeAccepted c s))))) ∧
      (s.serves .j 0x0603 c = true →
        exec (.dmaAbort c eng 0 lseq) s = .next (abortKind l (reply c 0x0603 St.ok (leBytes 2 l.k ++ zeros 2 ++ leBytes 4 l.done)
          (dropHead eng.toNat (clearEngine eng.toNat (takeAccepted c s))))))) ∧
    (∀ eng : Byte, s.serves .j 0x0604 c = true → eng.toNat < 16 →
      exec (.dmaStatus c eng 0) s = .next (reply c 0x0604 St.ok (dmaStatusData c eng.toNat s) (takeAccepted c s)))

/-- Key commands (R270 to R273, R276, R277, R352): a load puts a generated key, a free value (log entry 4), into the shadow of an EMPTY
slot; BIND, UNBIND, RETIRE and ROTATE act on LOADED slots and bindings in a legal state; KEY.STATUS reports and no key leaves. -/
def Obligations.KeyCommandsComplete : Prop :=
  ∀ (c : CmdCtx) (kix jsid : Byte) (s : State),
    (s.serves .p 0x0701 c = true → 0 < kix.toNat → kix.toNat ≤ 63 → (s.slot kix.toNat).st = .empty → (s.slot kix.toNat).shadow = none →
      s.boundNotRotating + 1 ≤ s.emptySlots →
      exec (.keyLoad c kix 0 0 [] 0 []) s = .next
        (let s1 : State := { takeAccepted c s with free := s.free + 1 }
         reply c 0x0701 St.ok [] (s1.setSlot kix.toNat { s.slot kix.toNat with shadow := some (Config.freeValue 256 s.free, none) }))) ∧
    (∀ flags : Byte, s.serves .h 0x0702 c = true → jsid.toNat ≤ 15 → 0 < kix.toNat → kix.toNat ≤ 63 → flags.toNat ≤ 1 →
      (s.slot kix.toNat).st = .loaded → s.hasLeaf jsid.toNat = false →
      exec (.keyBind c jsid kix flags 0) s = .next (reply c 0x0702 St.ok [] ((takeAccepted c s).setBinding jsid.toNat
        (some { kix := kix.toNat, dbg := flags.getLsbD 0, rot := (s.binding jsid.toNat).bind fun b => b.rot })))) ∧
    (s.serves .h 0x0703 c = true → jsid.toNat ≤ 15 → (s.binding jsid.toNat).isSome = true → s.hasLeaf jsid.toNat = false →
      (∀ p < 4, (s.part p).st = .empty ∨ (s.part p).jsid ≠ jsid.toNat) →
      exec (.keyUnbind c jsid 0) s = .next (reply c 0x0703 St.ok [] ((finishRotation jsid.toNat (takeAccepted c s)).setBinding jsid.toNat none))) ∧
    (s.serves .p 0x0704 c = true → 0 < kix.toNat → kix.toNat ≤ 63 → (s.slot kix.toNat).st = .loaded → s.retirable kix.toNat = true →
      exec (.keyRetire c kix 0) s = .next (reply c 0x0704 St.accepted []
        ((takeAccepted c s).setSlot kix.toNat { s.slot kix.toNat with st := .flushing, ctx := some c }))) ∧
    (∀ b : Binding, s.serves .p 0x0705 c = true → jsid.toNat ≤ 15 → 0 < kix.toNat → kix.toNat ≤ 63 → s.binding jsid.toNat = some b → b.rot = none →
      (s.slot kix.toNat).st = .loaded → s.slotBound kix.toNat = false → s.blocker 9 jsid.toNat = none →
      exec (.keyRotate c jsid kix 0) s = .next (startRotation jsid.toNat kix.toNat (some c) (reply c 0x0705 St.accepted [] (takeAccepted c s)))) ∧
    (s.serves .a 0x0706 c = true → exec (.keyStatus c) s = .next (reply c 0x0706 St.ok (keyData s) (takeAccepted c s)))

/-- Lane commands (R139, R147, R148, R151, R153, R154, R353), for every lane identifier the row takes, control lanes included: LANE.STATUS
reports and clears the pattern checker's counters; LANE.EQ reports, and freezes or frees an adapting receiver; LANE.RETRAIN and LANE.WIDTH
open their request and reply when it ends; LANE.PATTERN runs a generator and checker on a READY lane, changes them in PATTERN, and ends
PATTERN; LANE.INJECT arms a burst, at once or for a step; LANE.SLEEP puts the directions named to sleep and wakes the others. The link is held
by no deferred command in execution (R338). -/
def Obligations.LaneCommandsComplete : Prop :=
  ∀ (c : CmdCtx) (lid : Byte) (s : State), lid.toNat < 144 → s.linkHeld (linkOf lid.toNat) = false →
    (s.serves .a 0x0801 c = true →
      exec (.laneStatus c lid 0) s = .next
        (let l := s.lane lid.toNat
         let ctr := fun i => s.counter 0x4 lid.toNat i
         reply c 0x0801 St.ok (leBytes 1 (laneCode l.st + 16 * bitNat l.txSleep + 32 * bitNat l.rxSleep) ++
            leBytes 1 (if 136 ≤ lid.toNat then 0 else (s.blink (linkOf lid.toNat)).width.toNat) ++ leBytes 2 l.lat ++ leBytes 4 (ctr 1) ++
            leBytes 4 (ctr 2) ++ leBytes 4 (ctr 3) ++ leBytes 4 (ctr 4) ++ leBytes 2 (sat16 (ctr 5)) ++ leBytes 2 (sat16 (ctr 6)) ++
            leBytes 1 (bitNat l.pLock) ++ zeros 3 ++ leBytes 4 l.perr ++ leBytes 6 l.pbits)
          ((takeAccepted c s).setLane lid.toNat { l with perr := 0, pbits := 0 }))) ∧
    (∀ op : Byte, s.serves .p 0x0802 c = true → op.toNat ≤ 2 → (op = 0 ∨ lid.toNat < 128) → (s.lane lid.toNat).st ≠ .down →
      exec (.laneEq c lid op 0) s = .next
        (let s1 := if lid.toNat < 128 then drawTaps lid.toNat (takeAccepted c s) else takeAccepted c s
         let s2 := if op = 1 then s1.setLane lid.toNat { s1.lane lid.toNat with eqFrozen := true }
           else if op = 2 then s1.setLane lid.toNat { s1.lane lid.toNat with eqFrozen := false } else s1
         reply c 0x0802 St.ok (eqData lid.toNat s2) s2)) ∧
    (s.servesLate .p 0x0803 c = true → lid.toNat < 136 → s.linkBusy (linkOf lid.toNat) = false → s.blocker 4 (linkOf lid.toNat) = none →
      exec (.laneRetrain c lid 0) s = .next (openRequest (linkOf lid.toNat) 1 0 (2 ^ (lid.toNat % 8)) (some c)
        (holdDeferred c 0x0803 (takeAccepted c s)))) ∧
    (∀ k : Nat, s.servesLate .p 0x0803 c = true → lid.toNat = 136 + k → k ≠ s.upLink → s.blocker 4 (17 + k) = none →
      ((k = 0 ∨ k = 7 ∨ (s.lane (136 + k)).st = .down) →
        exec (.laneRetrain c lid 0) s = .next
          (let s1 := dropSync k ((takeAccepted c s).setLane (136 + k) { s.lane (136 + k) with attempts := 0 })
           startAct 4 (17 + k) (some c) (holdDeferred c 0x0803 (s1.setLink k { s1.link k with retrain := some c, ownRetrain := true })))) ∧
      (∀ a, k ≠ 0 → k ≠ 7 → (s.lane (136 + k)).st ≠ .down → (s.link k).child = some a →
        exec (.laneRetrain c lid 0) s = .next (sendOwnPacket k (commandBytes 0x0803 c.tag.toNat a.toNat 0 (leBytes 1 (peerEnd (s.link k)) ++ zeros 3))
          (startAct 4 (17 + k) (some c) (holdDeferred c 0x0803
            ((takeAccepted c s).setLink k { s.link k with retrain := some c, ownRetrain := false })))))) ∧
    (∀ link width : Byte, s.servesLate .p 0x0804 c = true → link.toNat ≤ 16 → s.linkHeld link.toNat = false → 0 < width.toNat → width.toNat ≤ 4 →
      (∀ n ∈ linkLanes link.toNat, (s.lane n).st ≠ .active) →
      (link.toNat < 16 → ∀ p < 4, (s.part p).st = .running → natBit (s.part p).pmask link.toNat = false) → s.linkBusy link.toNat = false →
      s.blocker 5 link.toNat = none →
      exec (.laneWidth c link width 0) s = .next (openRequest link.toNat 2 width.toNat (widthMask link.toNat width.toNat (takeAccepted c s)) (some c)
        (holdDeferred c 0x0804 (takeAccepted c s)))) ∧
    (∀ gen chk : Byte, s.serves .p 0x0805 c = true → gen.toNat ≤ 3 → chk.toNat ≤ 3 → ¬ (gen = 0 ∧ chk = 0) →
      ((s.lane lid.toNat).st = .ready → s.blocker 4 (linkOf lid.toNat) = none →
        exec (.lanePattern c lid gen chk 0) s = .next (reply c 0x0805 St.ok []
          (setPattern lid.toNat gen chk (startAct 4 (linkOf lid.toNat) (some c) (takeAccepted c s))))) ∧
      ((s.lane lid.toNat).st = .pattern →
        exec (.lanePattern c lid gen chk 0) s = .next (reply c 0x0805 St.ok [] (setPattern lid.toNat gen chk (takeAccepted c s))))) ∧
    (s.serves .p 0x0805 c = true → (s.lane lid.toNat).st = .pattern →
      exec (.lanePattern c lid 0 0 0) s = .next (reply c 0x0805 St.ok [] (endAct 4 (linkOf lid.toNat) (laneReady lid.toNat
        ((takeAccepted c s).setLane lid.toNat { s.lane lid.toNat with gen := 0, chk := 0 }))))) ∧
    (∀ len pos at_ : Byte, ∀ step : U64, s.serves .p 0x0806 c = true → 0 < len.toNat → len.toNat ≤ 64 →
      pos.toNat < (if 136 ≤ lid.toNat then 10 else 80) → (at_ = 0 ∨ (at_ = 1 ∧ s.cnt ≤ step.toNat)) → (s.lane lid.toNat).transmits = true →
      exec (.laneInject c lid len pos at_ 0 step) s = .next (reply c 0x0806 St.ok [] ((takeAccepted c s).setLane lid.toNat
        { s.lane lid.toNat with inject := some (len.toNat, pos.toNat, if at_ = 1 then some step.toNat else none) }))) ∧
    (∀ set : Byte, s.serves .p 0x0807 c = true → lid.toNat < 136 → set.toNat ≤ 3 →
      ((s.lane lid.toNat).st = .ready ∨ (s.lane lid.toNat).st = .sleep ∨ (s.lane lid.toNat).st = .down ∨ (s.lane lid.toNat).st = .off) →
      exec (.laneSleep c lid set 0) s = .next
        (let s1 := wakeLane lid.toNat (!set.getLsbD 0) (!set.getLsbD 1) (takeAccepted c s)
         let s2 := if set.getLsbD 0 then sleepTx lid.toNat s1 else s1
         reply c 0x0807 St.ok [] (if set.getLsbD 1 then sleepRx lid.toNat s2 else s2)))

/-- Pendant commands but for the mode changes (R298, R300, R312 to R314, R338, R354), while no pairing holds the pair state. PENDANT.PAIR of a
mode that the wiring allows becomes a command in execution and sends PAIR, and once the peer's PAIR with the same mode and the twin's
address has come it brings the link up (Table 14.1 step 1); PENDANT.PREFER sets the preference for the next frame, or at once where nothing
runs; PENDANT.TAKEOVER of a fenced side B makes it carrier in SOLO at the next boundary of its scope, at once where nothing is stopped;
PENDANT.RESYNC of a carrier that meets R314 begins COPY with the leaf messages; PENDANT.DISSOLVE begins the end of the pair;
PENDANT.STATUS reports. -/
def Obligations.PendantCommandsComplete : Prop :=
  ∀ (c : CmdCtx) (s : State), s.pend.pair = none →
    (∀ mode flags : Byte, s.servesLate .p 0x0901 c = true → s.linkHeld 16 = false → mode.toNat ≤ 2 → flags.toNat ≤ 1 → s.pend.st = .unpaired →
      (mode = 0 ∨ s.arm.addr.getLsbD 0 = s.ident.pendSide) →
      (s.pend.peerMode = none →
        exec (.pendantPair c mode flags 0) s = .next (sendMessage msgPair
          [mode.toNat + 4 * bitNat (flags.getLsbD 0) + 8 * bitNat (!s.runningParts.isEmpty) + 65536 * s.arm.addr.toNat]
          (holdDeferred c 0x0901 { takeAccepted c s with pend := { s.pend with
            st := .pairing, mode := mode.toNat, pair := some (c, flags.getLsbD 0, s.clk.now, 1) } }))) ∧
      (s.pend.peerMode = some mode.toNat → (mode = 0 ∨ s.pend.paddr = s.arm.addr ^^^ 1) →
        exec (.pendantPair c mode flags 0) s = .next (raiseLink (sendMessage msgPair
          [mode.toNat + 4 * bitNat (flags.getLsbD 0) + 8 * bitNat (!s.runningParts.isEmpty) + 65536 * s.arm.addr.toNat]
          (holdDeferred c 0x0901 { takeAccepted c s with pend := { s.pend with
            st := .pairing, mode := mode.toNat, pair := some (c, flags.getLsbD 0, s.clk.now, 1) } }))))) ∧
    (∀ pref : Byte, s.serves .p 0x0904 c = true → pref.toNat ≤ 2 → s.paired = true →
      exec (.pendantPrefer c pref 0) s = .next
        (let s1 : State := { takeAccepted c s with pend := { s.pend with prefNew := some (BitVec.ofNat 2 pref.toNat) } }
         reply c 0x0904 St.ok [] (if s.runningParts.isEmpty then takePref s1 else s1))) ∧
    (s.serves .p 0x0905 c = true → s.pend.st = .fenced → s.side = 1 → s.pend.noTake = false →
      ((∀ p ∈ s.runningParts, (s.part p).phase ≠ .stopped) →
        exec (.pendantTakeover c) s = .next (complete c St.ok [] (setPair .solo 1 (reply c 0x0905 St.accepted [] (takeAccepted c s))))) ∧
      (∀ p r, (s.runningParts.filter fun p => decide ((s.part p).phase = .stopped)) = p :: r →
        exec (.pendantTakeover c) s = .next
          (let s1 := reply c 0x0905 St.accepted [] (takeAccepted c s)
           eachPart rejoinScope ({ s1 with pend := { s1.pend with takeover := true } }.setPart p
            { s1.part p with releaseCtx := (s1.part p).releaseCtx ++ [c] })))) ∧
    (∀ part : Byte, s.serves .p 0x0906 c = true → part.toNat < 4 → s.blocker 7 0 = none → (s.pend.st = .solo ∨ s.pend.st = .standby) →
      s.pend.role = 1 → s.pairChanging 0x0906 = false → ((s.part part.toNat).st = .running ∨ c.eframe = 0) → resyncCond true s = none →
      exec (.pendantResync c part 0) s = .next
        (let m := if c.eframe = 0 then 0 else pauseBoundary (s.isSingle part.toNat) (s.part part.toNat) s.cnt c.eframe
         let s1 := startAct 7 0 (some c) (reply c 0x0906 St.accepted (frameData m) (takeAccepted c s))
         sendLeaves (sendMessage msgResync [] { s1 with pend := { s1.pend with
           st := .copy, resync := some (1, some c, part.toNat), wmark := 0, mirror := [] } }))) ∧
    (s.serves .p 0x0908 c = true → s.mayDissolve = true → (∀ d, s.pend.dissolve ≠ some (some d)) →
      exec (.pendantDissolve c) s = .next (sendMessage msgDissolve [] (beginDissolve (some c) (reply c 0x0908 St.accepted [] (takeAccepted c s))))) ∧
    (s.serves .a 0x0909 c = true → exec (.pendantStatus c) s = .next (reply c 0x0909 St.ok (pendantData s) (takeAccepted c s)))

/-- PENDANT.MODE, RETIRE and HANDOVER (R305, R311, R317, R354), while no pairing holds the pair state and no change, resynchronisation or join is
in progress. The changes of the first clause: in LOCKSTEP a twin becomes standby, retires, or hands over; in STANDBY the standby retires. Each
is told to the peer and registered for its frame, or for the frame that the peer has told; with a reference partition that executes nothing and
an EFRAME of 0 it takes effect at once. Those of the second, in STANDBY: to LOCKSTEP, the carrier retires, or hands over. Each is a join, which
the carrier begins when no activity excludes it and, for a handover, R314's conditions hold there; the standby waits for the carrier. A
mode change's own checks take no expected time: the model's choice (log entry 20). -/
def Obligations.PairChangesComplete : Prop :=
  ∀ (c : CmdCtx) (i : Instr) (op side : Nat) (part : Byte) (s : State), s.serves .p op c = true → s.pend.pair = none → s.pairChanging op = false →
    part.toNat < 4 → side < 2 → (s.pend.st = .lockstep ∨ s.pend.st = .standby) →
    (((i = .pendantMode c 2 (BitVec.ofNat 8 side) part 0 ∧ op = 0x0902 ∧ s.pend.st = .lockstep) ∨
        (i = .pendantRetire c (BitVec.ofNat 8 side) part 0 ∧ op = 0x0903 ∧ (s.pend.st = .lockstep ∨ ¬ (s.pend.role = 1 ↔ side = s.side))) ∨
        (i = .pendantHandover c part 0 ∧ op = 0x0907 ∧ side = s.side ∧ s.pend.st = .lockstep)) →
      let x := s.part part.toNat
      let s0 : State := { takeAccepted c s with pend := { s.pend with change := some (op, some c, side) } }
      (∀ d, ((x.executes = true ∨ c.eframe = 0) ∧ x.changes.find? (fun d => decide (d.opcode = op) && decide (d.arg = side)) = some d) →
        exec i s = .next (reply c op St.accepted (frameData d.m) s0)) ∧
      (x.changes.find? (fun d => decide (d.opcode = op) && decide (d.arg = side)) = none → x.executes = true →
        exec i s = .next
          (let m := changeFrame x s.cnt 0 c.eframe
           registerChange op side part.toNat m false (tellChange op side part.toNat (some m) (reply c op St.accepted (frameData m) s0)))) ∧
      (x.changes.find? (fun d => decide (d.opcode = op) && decide (d.arg = side)) = none → x.executes = false → c.eframe = 0 →
        exec i s = .next (changeNow op side part.toNat (tellChange op side part.toNat none (reply c op St.accepted (frameData 0) s0))))) ∧
    (((i = .pendantMode c 1 0xFF part 0 ∧ op = 0x0902 ∧ side = 0) ∨
        (i = .pendantRetire c (BitVec.ofNat 8 side) part 0 ∧ op = 0x0903 ∧ (s.pend.role = 1 ↔ side = s.side)) ∨
        (i = .pendantHandover c part 0 ∧ op = 0x0907 ∧ side = (if s.pend.role = 1 then s.side else 1 - s.side))) →
      s.pend.st = .standby → ((s.part part.toNat).executes = true ∨ c.eframe = 0) →
      let m := if (s.part part.toNat).executes then pauseBoundary (s.isSingle part.toNat) (s.part part.toNat) s.cnt c.eframe else 0
      let s1 := reply c op St.accepted (frameData m)
        { takeAccepted c s with pend := { s.pend with change := some (op, some c, if op = 0x0902 then 2 else side) } }
      (s.pend.role = 1 → s.blocker 7 0 = none → (op = 0x0907 → resyncCond false s = none) → exec i s = .next (beginJoin part.toNat m s1)) ∧
      (s.pend.role ≠ 1 → exec i s = .next s1))

/-- Maintenance and time commands (R355, R390, R395 to R399, R422): SCRUB, a patrol of any channels and CALIBRATE are started with their
completion open; stopped, a SCRUB's completion is withdrawn, and a PATROL or CALIBRATE completes OK, the model's choice (log entry 11); MAINT.STATUS and TIME.READ report; TIME.ADJUST sets OFFSET and RATE and clears the
fraction; TIME.COMPAT reads the differences, or writes them; TIME.UPSTREAM switches to a ready alternate, remeasures the tree and replies
later, and to the link in use replies OK at once. -/
def Obligations.MaintTimeCommandsComplete : Prop :=
  ∀ (c : CmdCtx) (s : State),
    (s.serves .p 0x0A01 c = true → s.blocker 1 0 = none →
      exec (.maintStart c 1 0 0) s = .next (startScrub c (takeAccepted c s))) ∧
    (s.serves .p 0x0A01 c = true → s.blocker 8 0 = none →
      exec (.maintStart c 8 0 0) s = .next (startAct 8 0 (some c) (reply c 0x0A01 St.accepted [] (takeAccepted c s)))) ∧
    (∀ (mask : U64), s.serves .p 0x0A01 c = true → s.dram.ok = true → 0 < mask.toNat → mask.toNat < 256 →
      (∀ o ∈ onesOf mask.toNat 8, s.blocker 2 o = none) →
      exec (.maintStart c 2 0 mask) s = .next (startPatrol c mask.toNat (takeAccepted c s))) ∧
    (∀ act : Byte, s.serves .p 0x0A02 c = true → (act = 1 ∨ act = 2 ∨ act = 8) →
      (s.maint.filter fun h => decide (h.act = act.toNat) && h.ctx.isSome) ≠ [] →
      exec (.maintStop c act 0) s = .next
        (let s1 := (s.maint.filter fun h => decide (h.act = act.toNat) && h.ctx.isSome).foldl
           (fun t h => finishAct h.act h.obj (if act.toNat = 1 then withdraw h.ctx t else completeOpt h.ctx St.ok [] t)) (takeAccepted c s)
         reply c 0x0A02 St.ok [] (if act.toNat = 1 then { s1 with arr := { s1.arr with raspLeft := [] } }
           else if act.toNat = 2 then { s1 with dram := { s1.dram with patrolMask := 0 } } else s1))) ∧
    (s.serves .a 0x0A03 c = true → exec (.maintStatus c) s = .next (reply c 0x0A03 St.ok (maintData s) (takeAccepted c s))) ∧
    (s.serves .a 0x0B01 c = true → exec (.timeRead c) s = .next (reply c 0x0B01 St.ok
      (leBytes 8 s.clk.count.toNat ++ leBytes 8 s.clk.offset.toNat ++ leBytes 4 s.clk.rate.toNat ++ leBytes 1 (servoCode s.clk.servo) ++
        leBytes 1 s.upLink ++ leBytes 1 (bitNat s.clk.coast + 2 * bitNat s.altReady) ++ zeros 1) (takeAccepted c s))) ∧
    (∀ (offset : U64) (rate : U32), s.serves .p 0x0B02 c = true →
      exec (.timeAdjust c offset rate 0) s = .next (reply c 0x0B02 St.ok []
        { takeAccepted c s with clk := { s.clk with offset := offset, rate := rate, frac := 0 } })) ∧
    (s.serves .a 0x0B03 c = true →
      exec (.timeCompat c 0 0 0 0 0 0) s = .next (reply c 0x0B03 St.ok (tbData (takeAccepted c s)) (takeAccepted c s))) ∧
    (∀ (tb0 tb1 tb2 tb3 : U64), s.serves .a 0x0B03 c = true → classRefusal .p 0x0B03 c.src.toNat s = none →
      exec (.timeCompat c 1 0 tb0 tb1 tb2 tb3) s = .next
        (let s1 : State := { takeAccepted c s with clk := { s.clk with
           d0 := newDiff s.sysTime s.clk.d0 tb0, d1 := newDiff s.sysTime s.clk.d1 tb1, d2 := newDiff s.sysTime s.clk.d2 tb2
           d3 := newDiff s.sysTime s.clk.d3 tb3 } }
         reply c 0x0B03 St.ok (tbData s1) s1)) ∧
    (∀ (link : Byte), s.servesLate .p 0x0B04 c = true → s.arm.upCtx = none → (link = 0 ∨ link = 7) →
      (link.toNat = s.upLink → exec (.timeUpstream c link 0) s = .next (reply c 0x0B04 St.ok [] (takeAccepted c s))) ∧
      (link.toNat ≠ s.upLink → s.altReady = true →
        exec (.timeUpstream c link 0) s = .next
          (let s1 := holdDeferred c 0x0B04 (treeChanged (switchUpstream link.toNat (takeAccepted c s)))
           { s1 with arm := { s1.arm with upCtx := some c } })))

/-- Trust and firmware commands (R357, R441, R443 to R445, R448), by the source that owns the FW UPDATE activity or while none holds: a quote
covers the registers of its mask; the measurement log is read in pieces; OFFSET 0 begins a new image, and a chunk at the end of a staging
image is kept; FW.VERIFY stays in execution; FW.ACTIVATE tries the staged slot; FW.CONFIRM confirms a running image that is on trial or
not the confirmed one, and never lowers FLOOR; FW.STATUS reports. -/
def Obligations.TrustCommandsComplete : Prop :=
  ∀ (c : CmdCtx) (s : State),
    (∀ (nonce : BitVec 256) (mask : Byte), s.serves .a 0x0C01 c = true → s.plinth.ready1 = true → mask ≠ 0 →
      exec (.trustQuote c nonce mask 0) s = .next (reply c 0x0C01 St.ok (quoteData nonce mask s) (takeAccepted c s))) ∧
    (∀ offset : U32, s.serves .a 0x0C02 c = true → s.plinth.ready1 = true → offset.toNat < s.trust.log.length →
      exec (.trustLog c offset) s = .next (reply c 0x0C02 St.ok (pieceData s.trust.log offset.toNat) (takeAccepted c s))) ∧
    (s.serves .a 0x0C07 c = true → exec (.fwStatus c) s = .next (reply c 0x0C07 St.ok (fwData s) (takeAccepted c s))) ∧
    (foreignUpdate c s = none →
      (∀ (offset n : U32) (bytes : List Byte), s.serves .p 0x0C03 c = true → s.fw.verify = none → bytes.length = n.toNat → 0 < n.toNat →
        n.toNat ≤ 4072 → offset.toNat + n.toNat ≤ slotBytes → s.fw.stageCode ≠ 3 → s.fw.trial = false → offset ≠ 0 → s.fw.spare = 1 →
        offset.toNat = s.fw.stageLen →
        exec (.fwDownload c offset n bytes) s = .next (reply c 0x0C03 St.ok [] (appendStage bytes (takeAccepted c s)))) ∧
      (∀ (n : U32) (bytes : List Byte), s.serves .p 0x0C03 c = true → s.fw.verify = none → bytes.length = n.toNat → 0 < n.toNat →
        n.toNat ≤ 4072 → s.fw.stageCode ≠ 3 → s.fw.trial = false →
        exec (.fwDownload c 0 n bytes) s = .next (reply c 0x0C03 St.ok [] (appendStage bytes (beginStage c (takeAccepted c s))))) ∧
      (∀ total : U32, s.servesLate .p 0x0C04 c = true → s.fw.verify = none → s.fw.stageCode = 1 →
        exec (.fwVerify c total) s = .next { holdDeferred c 0x0C04 (takeAccepted c s) with fw := { s.fw with verify := some (c, total.toNat) } }) ∧
      (s.serves .p 0x0C05 c = true → s.fw.verify = none → s.fw.stageCode = 2 →
        exec (.fwActivate c) s = .next (reply c 0x0C05 St.ok [] { takeAccepted c s with fw := { s.fw with
          selSeq := s.fw.selSeq + 1, selTry := !s.fw.slot, boots := 0, activated := true } })) ∧
      (s.serves .p 0x0C06 c = true → (s.fw.trial = true ∨ s.fw.slot ≠ s.fw.conf) →
        exec (.fwConfirm c) s = .next
          (let floor : U32 := if s.fw.floor.toNat < s.fw.floorSet.toNat then s.fw.floorSet else s.fw.floor
           reply c 0x0C06 St.ok (leBytes 4 floor.toNat) (endAct 10 0 { takeAccepted c s with fw := { s.fw with
             confSeq := s.fw.confSeq + 1, conf := s.fw.slot, floor := floor, selSeq := s.fw.selSeq + 1, selTry := s.fw.slot, boots := 0
             trial := false, activated := false, update := false } }))))

/-- Debug and Cast commands (R358, R456, R457, R459, R461, R463, R465, R262): DBG.HALT gates the step clock at its own step, or reports the halt
in force, and DBG.RUN lets it go; DBG.ACCESS reads and writes whole units of the stores in a halt (a write is logged and marks the
partition), reads device physical memory as stored, and reads and writes job space; CAST.TAKE arms a capture at a boundary or an edge;
CAST.SAVE and CAST.RESTORE queue a transfer; CAST.READ answers bytes of the held record. -/
def Obligations.DebugCommandsComplete : Prop :=
  ∀ (c : CmdCtx) (s : State),
    (s.serves .f 0x0D01 c = true →
      (s.clk.halt = none → haltBarred s = false →
        exec (.dbgHalt c) s = .next (reply c 0x0D01 St.ok (leBytes 8 s.cnt) (startHalt (takeAccepted c s)))) ∧
      (∀ h, s.clk.halt = some h → exec (.dbgHalt c) s = .next (reply c 0x0D01 St.ok (leBytes 8 h.toNat) (takeAccepted c s)))) ∧
    (s.serves .f 0x0D02 c = true → s.clk.halt.isSome = true →
      exec (.dbgRun c) s = .next (reply c 0x0D02 St.ok [] (endHalt (takeAccepted c s)))) ∧
    (∀ (space jsid : Byte) (addr : U64) (n : U32) (pl : DbgPlace), s.serves .f 0x0D03 c = true → s.clk.halt.isSome = true → space.toNat < 3 →
      0 < n.toNat → n.toNat ≤ 4060 → dbgPlace (takeAccepted c s) space.toNat addr.toNat = some pl → n.toNat % pl.size = 0 →
      n.toNat / pl.size ≤ pl.left →
      (let us := (List.range (n.toNat / pl.size)).map pl.read
       exec (.dbgAccess c 0 space jsid 0 addr n 0 []) s = .next (reply c 0x0D03 St.ok
         ((leBytes 1 (fixedOf us) ++ zeros 3) ++ us.flatMap (·.bytes)) (logUnits us (takeAccepted c s)))) ∧
      (∀ w : List Byte, w.length = n.toNat → (List.range (n.toNat / pl.size)).all pl.writable = true →
        exec (.dbgAccess c 1 space jsid 0 addr n 0 w) s = .next
          (let us := (List.range (n.toNat / pl.size)).map pl.read
           reply c 0x0D03 St.ok (leBytes 1 (fixedOf us) ++ zeros 3) (noteWrite space.toNat (n.toNat / pl.size) pl
             ((List.range (n.toNat / pl.size)).foldl (fun t i => pl.write i (fieldAt w (i * pl.size) pl.size) t)
               (logUnits us (takeAccepted c s))))))) ∧
    (∀ (jsid : Byte) (addr : U64) (n : U32), s.serves .f 0x0D03 c = true → 0 < n.toNat → n.toNat ≤ 4060 →
      (∀ w : List Byte, w.length = n.toNat →
        exec (.dbgAccess c 1 3 jsid 0 addr n 0 w) s = .next (reply c 0x0D03 St.dbgDenied []
          (secEvent 2 0 0xFF 0xF (addr.toNat / 64 * 64) 0 (takeAccepted c s)))) ∧
      (s.dram.ok = true → (∀ i < n.toNat, (s.storedByte (addr.toNat + i)).isSome = true) →
        exec (.dbgAccess c 0 3 jsid 0 addr n 0 []) s = .next (reply c 0x0D03 St.ok
          (zeros 4 ++ (List.range n.toNat).filterMap fun i => s.storedByte (addr.toNat + i)) (takeAccepted c s)))) ∧
    (∀ (jsid : Byte) (addr : U64) (n : U32), s.serves .f 0x0D03 c = true → s.dram.ok = true → 0 < n.toNat → n.toNat ≤ 4060 → jsid.toNat < 16 →
      addr.toNat + n.toNat ≤ 2 ^ 48 → s.pagesFree c jsid.toNat addr.toNat n.toNat = true →
      (∀ b, s.binding jsid.toNat = some b → b.dbg = true) →
      (∀ b s1, firstFault (takeAccepted c s) jsid.toNat addr.toNat n.toNat false = none →
        readJob ((takeAccepted c s).access jsid.toNat 0xF) addr.toNat n.toNat (takeAccepted c s) = (b, none, s1) →
        exec (.dbgAccess c 0 4 jsid 0 addr n 0 []) s = .next (reply c 0x0D03 St.ok (zeros 4 ++ b) s1)) ∧
      (∀ w s1, w.length = n.toNat → firstFault (takeAccepted c s) jsid.toNat addr.toNat n.toNat true = none →
        writeJob ((takeAccepted c s).access jsid.toNat 0xF) addr.toNat w (takeAccepted c s) = (none, s1) →
        exec (.dbgAccess c 1 4 jsid 0 addr n 0 w) s = .next (reply c 0x0D03 St.ok (zeros 4) s1))) ∧
    (∀ (part clk : Byte) (step : U64), s.serves .j 0x0D04 c = true → s.mayName c part.toNat = true → (s.part part.toNat).st = .running →
      s.blocker 6 part.toNat = none → (s.part part.toNat).switch = none →
      exec (.castTake c part 0 clk 0 step) s = .next (takeAtTick part.toNat c (takeAccepted c s))) ∧
    (∀ (p : Nat),
      let act : FrameNo → Bool → CastAct := fun m r =>
        { ctx := some c, trig1 := false, gen := 0, step := 0, m := m, capturing := false, beganAt := 0, restart := r }
      (∀ m t b d, (s.part p).pausedAt = some (m, t, b, d) → takeAtTick p c s = reply c 0x0D04 St.accepted (frameData m) (armCast p (act m false) s)) ∧
      (∀ q l, (s.part p).pausedAt = none → (s.part p).pauses = q :: l →
        takeAtTick p c s = reply c 0x0D04 St.accepted (frameData q.m) (armCast p (act q.m false) s)) ∧
      ((s.part p).pausedAt = none → (s.part p).pauses = [] → s.isRoot p = true →
        takeAtTick p c s = reply c 0x0D04 St.accepted (frameData (rootPause p c.eframe 0 (.cast c) s).1)
          (armCast p (act (rootPause p c.eframe 0 (.cast c) s).1 (s.isSingle p)) (rootPause p c.eframe 0 (.cast c) s).2)) ∧
      ((s.part p).pausedAt = none → (s.part p).pauses = [] → s.isRoot p = false →
        takeAtTick p c s =
          markerUp 0x07 (s.part p).scope16 c.eframe.toNat 0 (askRoot p { owner := .cast c, d := 0, m := c.eframe }
            (armCast p { act 0 false with placed := false } s)))) ∧
    (∀ (part clk : Byte) (step : U64), s.serves .j 0x0D04 c = true → s.mayName c part.toNat = true → (s.part part.toNat).st = .running →
      s.blocker 6 part.toNat = none → (s.part part.toNat).switch = none → clk.toNat < 40 → c.eframe = 0 → s.cnt ≤ step.toNat →
      exec (.castTake c part 1 clk 0 step) s = .next (takeAtEdge part.toNat clk.toNat step.toNat c (takeAccepted c s))) ∧
    (∀ (part : Byte) (jaddr len : U64) (r : CastRec) (e : Nat), s.serves .j 0x0D05 c = true → s.mayName c part.toNat = true →
      (s.part part.toNat).shadow = some r → r.finished = true → r.len ≤ len.toNat → rangeOk jaddr.toNat len.toNat = true → s.dram.ok = true →
      s.pagesFree c (s.part part.toNat).jsid jaddr.toNat len.toNat = true → s.blocker 6 part.toNat = none → s.pickEngine = some e →
      exec (.castSave c part 0 jaddr len) s = .next
        (let s1 := startAct 6 part.toNat (some c) (enqueue e (.save part.toNat) (some c) (s.part part.toNat).jsid 0
           [{ src := 0, dst := jaddr, len := BitVec.ofNat 32 r.len, dir := 2, rsvd := 0 }] (takeAccepted c s))
         reply c 0x0D05 St.accepted [] (s1.setPart part.toNat { s1.part part.toNat with saveCtx := some c }))) ∧
    (∀ (offset : U64) (n : U32) (b : List Byte), s.serves .j 0x0D06 c = true → 0 < n.toNat → n.toNat ≤ 4072 → offset.toNat / 2 ^ 32 < 4 →
      foreignPart c (offset.toNat / 2 ^ 32) s = false → s.anyShadow = true → s.shadowRead offset.toNat n.toNat = .data b →
      exec (.castRead c offset n 0) s = .next (reply c 0x0D06 St.ok b (takeAccepted c s))) ∧
    (∀ (part : Byte) (jaddr len : U64) (e : Nat), s.serves .j 0x0D07 c = true → s.mayName c part.toNat = true →
      (s.part part.toNat).st = .loaded → (s.part part.toNat).restoreCtx = none →
      castLen (s.part part.toNat).diePairs.length ≤ len.toNat → rangeOk jaddr.toNat len.toNat = true → s.dram.ok = true →
      s.pagesFree c (s.part part.toNat).jsid jaddr.toNat len.toNat = true → s.blocker 6 part.toNat = none → s.pickEngine = some e →
      exec (.castRestore c part 0 jaddr len) s = .next
        (let s1 := startAct 6 part.toNat (some c) (enqueue e (.restore part.toNat) (some c) (s.part part.toNat).jsid 0
           [{ src := jaddr, dst := 0, len := BitVec.ofNat 32 (castLen (s.part part.toNat).diePairs.length), dir := 2, rsvd := 0 }] (takeAccepted c s))
         reply c 0x0D07 St.accepted [] (s1.setPart part.toNat { s1.part part.toNat with restoreCtx := some c, restore := none })))

/-- Statistics and logs (R294, R359, R429, R432, Tables 20.6 and 20.9): NoC records of a new snapshot, or of the last one; a directory of
counters; the error-log records from FROM on with the next sequence, and the security events. A snapshot with CLR zeroes the NoC
counters, and nothing else is changed. -/
def Obligations.LogCommandsComplete : Prop :=
  ∀ (c : CmdCtx) (s : State),
    (∀ first n flags : Byte, s.serves .a 0x0E01 c = true → 0 < n.toNat → n.toNat ≤ 42 → first.toNat + n.toNat ≤ 59 →
      (flags = 0 ∨ flags = 1 ∨ flags = 3) →
      exec (.statsNoc c first n flags 0) s = .next
        (let k : Noc := if flags = 0 then s.noc
           else { s.noc with snap := s.noc.ctr, snapStep := s.clk.count, ctr := if flags = 3 then [] else s.noc.ctr }
         reply c 0x0E01 St.ok (leBytes 8 k.snapStep.toNat ++ (List.range n.toNat).flatMap fun i => nocRecord (smGet {} k.snap (first.toNat + i)))
           { takeAccepted c s with noc := k })) ∧
    (∀ (sub : Byte) (unit : U16) (l : List (Nat × Nat)), s.serves .a 0x0E02 c = true → sub.toNat < 16 →
      directory s sub.toNat unit.toNat = some l →
      exec (.statsRead c sub 0 unit) s = .next (reply c 0x0E02 St.ok
        (leBytes 2 l.length ++ zeros 2 ++ l.flatMap fun e => leBytes 2 e.1 ++ zeros 2 ++ leBytes 8 (sat32 e.2)) (takeAccepted c s))) ∧
    (∀ (from_ : U32) (n : Byte), s.serves .a 0x0E03 c = true → 0 < n.toNat → n.toNat ≤ 84 →
      exec (.logRead c from_ n 0) s = .next
        (let l := (s.logs.recs.filter fun r => seqFrom from_ r.seq).take n.toNat
         reply c 0x0E03 St.ok (leBytes 1 l.length ++ zeros 3 ++ leBytes 4 (match l.getLast? with | some r => r.seq + 1 | none => s.logs.seq).toNat ++
          l.flatMap logBytes) (takeAccepted c s))) ∧
    (∀ (from_ : U32) (n : Byte), s.serves .p 0x0E04 c = true → 0 < n.toNat → n.toNat ≤ 127 →
      exec (.logSecurity c from_ n 0) s = .next
        (let l := (s.logs.sec.filter fun e => seqFrom from_ e.seq).take n.toNat
         reply c 0x0E04 St.ok (leBytes 1 l.length ++ zeros 3 ++ leBytes 4 (s.counter 9 0 1) ++ l.flatMap secBytes) (takeAccepted c s)))

/-- Control-tree commands (R360, R363, R364, R366, R377, R387, R390): ARM.PROBE answers identity and position, and ends a TIME.UPSTREAM that
waited for it; ARM.ASSIGN takes the position and, by its exchange, the step counter; ARM.SCOPE sets a partition's scope;
CONSENSUS.QUERY goes, with an IDENT.QUERY, to every recorded child and waits; ARM.STATUS reports; CONSENSUS.OVERRIDE is set and logged. -/
def Obligations.ArmatureCommandsComplete : Prop :=
  ∀ (c : CmdCtx) (s : State),
    (s.serves .l 0x0F01 c = true → exec (.armProbe c) s = .next
      (let s1 := reply c 0x0F01 St.ok (leBytes 2 s.ident.bic.toNat ++ leBytes 1 (bitNat s.arm.assigned) ++
         leBytes 1 s.arm.level.toNat ++ leBytes 2 s.arm.addr.toNat ++ leBytes 1 s.childBits ++ zeros 1 ++ leBytes 16 s.ident.serial.toNat)
         (takeAccepted c s)
       match s1.arm.upCtx with
       | some u => reply u 0x0B04 St.ok [] { s1 with arm := { s1.arm with upCtx := none } }
       | none => s1)) ∧
    (∀ (addr : U16) (level : Byte) (t1 t2 t3 t4 : U64), s.serves .l 0x0F02 c = true → level.toNat = levelOf addr.toNat →
      (s.arm.assigned = false ∨ s.arm.addr = addr) →
      exec (.armAssign c addr level 0 t1 t2 t3 t4) s = .next
        (let delay := (stampDiff t4.toNat t1.toNat - stampDiff t3.toNat t2.toNat) / 2
         let e := stampDiff t2.toNat t1.toNat - delay
         reply c 0x0F02 St.ok [] (bringUpLanes { takeAccepted c s with
           arm := { s.arm with assigned := true, addr := addr, level := level }
           clk := { s.clk with
             count := s.clk.count + BitVec.ofInt 64 (nearestSteps e), phase := s.clk.phase + (e - 64 * nearestSteps e), counterOk := true } }))) ∧
    (∀ (part flags : Byte) (root : U16) (scope : U32), s.serves .p 0x0F03 c = true → s.mayName c part.toNat = true → flags.toNat ≤ 1 →
      ((s.part part.toNat).st = .empty ∨ (s.part part.toNat).st = .loaded) →
      exec (.armScope c part flags root scope) s = .next (reply c 0x0F03 St.ok [] ((takeAccepted c s).setPart part.toNat
        { s.part part.toNat with scope := scope, root := root, rootSc := flags.getLsbD 0, sc := {} }))) ∧
    (∀ part : Byte, s.servesLate .a 0x0F04 c = true → part.toNat < 4 → (c.eframe = 0 ∨ (s.part part.toNat).st = .running) →
      exec (.consensusQuery c part 0) s = .next
        (let t := (takeTag (takeAccepted c s)).1
         let kids : List ConsensusKid := [1, 2, 3, 4, 5, 6].filterMap fun k => (s.link k).child.map fun a =>
           { link := k, addr := a, ver := none, ans := none, failed := false }
         let s2 := kids.foldl (fun a k => sendOwn k.link 0x0101 t.toNat k.addr.toNat 0 []
           (sendOwn k.link 0x0F04 t.toNat k.addr.toNat c.eframe.toNat ([part] ++ zeros 3) a)) (takeTag (takeAccepted c s)).2
         let s3 := holdDeferred c 0x0F04 s2
         advanceQueries { s3 with arm := { s3.arm with queries := s3.arm.queries ++ [{
           ctx := c, part := part.toNat
           m := if c.eframe = 0 then (s.part part.toNat).current + 1 else c.eframe
           own := none, tag := t, at_ := s.clk.now, kids := kids }] } })) ∧
    (s.serves .a 0x0F05 c = true → exec (.armStatus c) s = .next (reply c 0x0F05 St.ok
      (leBytes 2 s.arm.addr.toNat ++ leBytes 1 s.arm.level.toNat ++ leBytes 1 s.upLink ++ leBytes 1 s.childBits ++ zeros 3 ++
        leBytes 4 s.arm.marksBad ++ leBytes 4 s.arm.vetoes) (takeAccepted c s))) ∧
    (∀ flags : Byte, s.serves .p 0x0F06 c = true → flags.toNat ≤ 1 →
      exec (.consensusOverride c flags 0) s = .next (reply c 0x0F06 St.ok []
        (logRec { cause := St.bicOverride, sub := 0xC, sev := 5, detail := flags.toNat }
          { takeAccepted c s with arm := { s.arm with override := flags.getLsbD 0 } })))

/-- Ring registers (R329, R471, R472, Table 23.3): a doorbell in range moves the tail; a head among the slots the device has filled
returns them; a value out of range changes no index and posts DOORBELL_BAD; with ENABLE 0 both are ignored; ENABLE with a good
configuration puts the rings in service at index 0, with a bad one sets CFGERR, and 0 takes them out; QRESET with ENABLE 0 empties the
backlog, else is ignored; a failed ring access takes the rings out of service, sets RINGERR and spools the packet it was writing. -/
def Obligations.RingRegistersComplete : Prop :=
  ∀ (fn : Fin 16) (value : U32) (s : State),
    (s.reaches fn.val = true →
      ((s.fn fn.val).enable = true →
        ((value.setWidth 16).toNat < (s.fn fn.val).cmd.size →
          exec (.cmdDbWrite fn value) s = .next ((touchDomain .base s).setFn fn.val
            { s.fn fn.val with awaitsBell := false, cmd := { (s.fn fn.val).cmd with tail := value.setWidth 16 } })) ∧
        ((s.fn fn.val).cmd.size ≤ (value.setWidth 16).toNat →
          exec (.cmdDbWrite fn value) s = .next (badDoorbell fn.val 0x110 value (touchDomain .base s))) ∧
        ((s.fn fn.val).rpl.returns (value.setWidth 16).toNat = true →
          exec (.rplHeadWrite fn value) s = .next ((touchDomain .base s).setFn fn.val
            { s.fn fn.val with rpl := { (s.fn fn.val).rpl with head := value.setWidth 16 } })) ∧
        ((s.fn fn.val).rpl.returns (value.setWidth 16).toNat = false →
          exec (.rplHeadWrite fn value) s = .next (badDoorbell fn.val 0x12C value (touchDomain .base s))) ∧
        ((s.fn fn.val).evt.returns (value.setWidth 16).toNat = true →
          exec (.evtHeadWrite fn value) s = .next ((touchDomain .base s).setFn fn.val
            { s.fn fn.val with evt := { (s.fn fn.val).evt with head := value.setWidth 16 } })) ∧
        ((s.fn fn.val).evt.returns (value.setWidth 16).toNat = false →
          exec (.evtHeadWrite fn value) s = .next (badDoorbell fn.val 0x14C value (touchDomain .base s))) ∧
        exec (.ctrlQreset fn) s = .next (touchDomain .base s)) ∧
      ((s.fn fn.val).enable = false →
        exec (.cmdDbWrite fn value) s = .next (touchDomain .base s) ∧
        exec (.rplHeadWrite fn value) s = .next (touchDomain .base s) ∧
        exec (.evtHeadWrite fn value) s = .next (touchDomain .base s) ∧
        exec (.ctrlQreset fn) s = .next ((touchDomain .base s).setFn fn.val
          { zeroRings (s.fn fn.val) with backRpl := [], backEvt := [], hostStall := false, replyFull := none, eventFull := none })) ∧
      ((s.fn fn.val).cfgBad = false →
        exec (.ctrlEnableWrite fn true) s = .next ((touchDomain .base s).setFn fn.val
          { zeroRings (s.fn fn.val) with enable := true, qactive := true, replyFull := none, eventFull := none })) ∧
      ((s.fn fn.val).cfgBad = true →
        exec (.ctrlEnableWrite fn true) s = .next ((touchDomain .base s).setFn fn.val
          { s.fn fn.val with enable := false, qactive := false, cfgErr := true, replyFull := none, eventFull := none })) ∧
      exec (.ctrlEnableWrite fn false) s = .next ((touchDomain .base s).setFn fn.val
        { s.fn fn.val with enable := false, qactive := false, replyFull := none, eventFull := none })) ∧
    ((s.fn fn.val).enable = true → ∀ ring : Ring, exec (.ringAccessError fn ring) s = .next
      (let s1 := match ring with | .cmd => s | .rpl => takeBack fn.val false s | .evt => takeBack fn.val true s
       s1.setFn fn.val { s1.fn fn.val with enable := false, qactive := false, ringErr := true, replyFull := none, eventFull := none }))

/-- Interrupts, readouts and plain registers (R467, R468, R470, R473, R474, R476, R477): writing ones clears INT_STATUS; a new INT_MASK arms the
vector of each set bit that it unmasks; a modulation delay that has run sends its vector; an unmasked vector sends its pending message;
FRAME_LO and COUNT_LO latch their high halves, and FRAME_LO answers zero for a partition the function does not see; SECALARM is
cleared by a 1; DBG_POLICY is taken once; a register write of full width acts on the register at its offset, any other on none. -/
def Obligations.HostRegistersComplete : Prop :=
  ∀ (fn : Fin 16) (value : U32) (s : State), s.reaches fn.val = true →
    (exec (.intStatusClear fn value) s = .next ((touchDomain .base s).setFn fn.val
      { s.fn fn.val with intStatus := (s.fn fn.val).intStatus &&& ~~~(value.setWidth 4) })) ∧
    (exec (.intMaskWrite fn value) s = .next
      (let m : BitVec 4 := value.setWidth 4
       (onesOf ((s.fn fn.val).intMask &&& ~~~m &&& (s.fn fn.val).intStatus).toNat 4).foldl (fun a b => armVector fn.val (vectorOfBit b) a)
         ((touchDomain .base s).setFn fn.val { s.fn fn.val with intMask := m }))) ∧
    (∀ v : Fin 4, v.val < 3 → ((s.fn fn.val).vec v.val).armed = true →
      ((s.fn fn.val).vec v.val).armAt + usSteps (s.fn fn.val).modDelay.toNat ≤ s.clk.now →
      exec (.intModDelayExpiry fn v) s = .next (sendVector fn.val v.val s)) ∧
    (∀ v : Fin 4, v.val < 3 →
      exec (.msixVectorUnmask fn v) s = .next (sendPending fn.val v.val ((touchDomain .base s).setFn fn.val
        ((s.fn fn.val).setVec v.val { (s.fn fn.val).vec v.val with masked := false })))) ∧
    (exec (.frameLoRead fn) s = .next
      (let x := s.part (s.fn fn.val).frameSel.toNat
       let see := s.seesFrame fn.val (s.fn fn.val).frameSel.toNat
       let lo : U32 := if see then x.frame.setWidth 32 else 0
       ((touchDomain .base s).setFn fn.val { s.fn fn.val with
         frameLo := lo
         frameHi := if see then BitVec.ofNat 32 (pstateCode x.st * 2 ^ 20 + x.cond * 2 ^ 16 + x.frame.toNat / 2 ^ 32) else 0 }).emit
        (.readData lo.toNat))) ∧
    (exec (.countLoRead fn) s = .next
      (((touchDomain .base s).setFn fn.val { s.fn fn.val with
          countLo := s.clk.count.setWidth 32, countHi := BitVec.ofNat 32 (s.clk.count.toNat / 2 ^ 32), offs := s.clk.offset, rate := s.clk.rate
          tstat := tstatOf (touchDomain .base s) }).emit (.readData (s.clk.count.setWidth 32 : U32).toNat))) ∧
    (fn.val = 0 →
      (value.getLsbD 0 = true → exec (.secalarmClear value) s = .next (noteDev (touchDomain .base s).devBits
        { touchDomain .base s with pwr := { (touchDomain .base s).pwr with secAlarm := false } })) ∧
      (value.getLsbD 0 = false → exec (.secalarmClear value) s = .next (touchDomain .base s)) ∧
      (s.arm.obsLocked = false →
        exec (.dbgPolicyWrite value) s = .next { touchDomain .base s with arm := { s.arm with obsOpen := value.getLsbD 0, obsLocked := true } }) ∧
      (s.arm.obsLocked = true → exec (.dbgPolicyWrite value) s = .next (touchDomain .base s)) ∧
      (∀ offset : U16, exec (.registerWrite fn true offset value 0xF) s = .next (writeDevice offset.toNat value (touchDomain .base s)))) ∧
    (∀ offset : U16, exec (.registerWrite fn false offset value 0xF) s = .next (writeFunction fn.val offset.toNat value (touchDomain .base s))) ∧
    (writeFunction fn.val 0x300 value s = s.setFn fn.val { s.fn fn.val with frameSel := value.setWidth 2 }) ∧
    (writeFunction fn.val 0x208 value s = s.setFn fn.val
      { s.fn fn.val with modCount := BitVec.ofNat 16 (value.toNat / 65536), modDelay := value.setWidth 16 }) ∧
    (∀ (devicePage : Bool) (offset : U16) (be : BitVec 4), (be ≠ 0xF ∨ (devicePage = true ∧ fn.val ≠ 0)) →
      exec (.registerWrite fn devicePage offset value be) s = .next (touchDomain .base s))

/-- Function resets and states (R467, R469, Table 23.5): a function level reset of an existing virtual function clears its page, its backlog
and its MSI-X state and silences what it had accepted; a reset of the physical function or of the link clears VF Enable; D3hot is
entered and left, and then pending messages go out; VF Enable and NumVFs are stored, and functions that cease to exist are reset. -/
def Obligations.FunctionResetsComplete : Prop :=
  ∀ (fn : Fin 16) (s : State),
    (0 < fn.val → s.fnExists fn.val = true →
      exec (.flrVf fn) s = .next (abortHostLists fn.val (s.setFn fn.val
        { ({} : Func) with evSeq := (s.fn fn.val).evSeq, dead := (s.fn fn.val).dead ++ s.outstanding fn.val }))) ∧
    (domCond .base s ≠ .off →
      (exec .flrPf s = .next (let s1 := resetFn 0 (resetVfs s); { s1 with arm := { s1.arm with vfEnable := false, devInten := 0xF } })) ∧
      (exec .pcieConventionalReset s = .next (let s1 := resetFn 0 (resetVfs s); { s1 with arm := { s1.arm with vfEnable := false, devInten := 0xF } })) ∧
      (s.fnExists fn.val = true →
        (exec (.d3hotEntry fn) s = .next (s.setFn fn.val { s.fn fn.val with d3hot := true })) ∧
        (exec (.d3hotExit fn) s = .next (sendPending fn.val 2 (sendPending fn.val 1 (sendPending fn.val 0
          (s.setFn fn.val { s.fn fn.val with d3hot := false })))))) ∧
      (∀ (e : Bool) (n : BitVec 8), exec (.vfEnableWrite e n) s = .next
        (let gone := (List.range 16).filter fun k => decide (k ≠ 0) && s.fnExists k && !(e && decide (k ≤ n.toNat))
         let s1 := gone.foldl (fun a k => resetFn k a) s
         { s1 with arm := { s1.arm with vfEnable := e, numVfs := n.toNat } })))

/-- Transports (R322, R328, R330 to R333, R137, Table 15.5): a fetch takes what the links and the debug port hold in turn, and then its
packet if the turn is its function's; a whole packet on a command ring moves the head by its slots and is accepted with
the next ACCSEQ, or refused by length or by checks 2 to 6; one framed on the current upstream link, what was inserted into it removed,
enters its buffer and is taken from there, and a ninth is counted; a command on another link is refused; a frame below 16 or above 4,096
bytes, a stray delimiter or an answer on an upstream link is counted; a child's reply goes up unchanged and answers one forwarded
command; spooled packets are written while they fit. -/
def Obligations.TransportsComplete : Prop :=
  ∀ s : State,
    (∀ (fn : Fin 16) (slots : List Byte), (drainSources s).turn ≠ some fn.val → exec (.commandRingFetch fn slots) s = .next (drainSources s)) ∧
    (∀ (fn : Fin 16) (slots : List Byte), (drainSources s).turn = some fn.val → 64 ≤ slots.length →
      let t := drainSources s
      let a := fun k => advanceHead fn.val k (touchDomain .base t)
      let len := pktLength slots
      (len < 16 → exec (.commandRingFetch fn slots) s = .next (refusePacket fn.val St.lenShort (offsetData 4) slots (a 1))) ∧
      (4096 < len → exec (.commandRingFetch fn slots) s = .next
        (refusePacket fn.val St.lenLong (offsetData 4) slots (a (min ((len + 63) / 64) (t.fn fn.val).cmd.filled)))) ∧
      (16 ≤ len → len ≤ 4096 → len ≤ slots.length → (len + 63) / 64 ≤ (t.fn fn.val).cmd.filled →
        (∀ st d, packetRefusal (slots.take len) (t.pathOwn slots) (a ((len + 63) / 64)) = some (st, d) →
          exec (.commandRingFetch fn slots) s = .next (refusePacket fn.val st d (slots.take len) (a ((len + 63) / 64)))) ∧
        (∀ i, packetRefusal (slots.take len) (t.pathOwn slots) (a ((len + 63) / 64)) = none →
          spell { src := BitVec.ofNat 8 fn.val, tag := pktTag (slots.take len), accSeq := t.plinth.accSeq,
                  eframe := pktEframe (slots.take len) } ((a ((len + 63) / 64)).linkOffset fn.val)
            (pktOp (slots.take len)) (pktPayload (slots.take len)) = some i →
          exec (.commandRingFetch fn slots) s = .next
            { a ((len + 63) / 64) with
              plinth := { t.plinth with accSeq := t.plinth.accSeq + 1, lastSrc := fn.val, accepted := t.plinth.accepted ++ [i] } }))) ∧
    (∀ k : Fin 8, (s.link k.val).sync = true →
      let clear := s.setLink k.val { s.link k.val with skipping := false }
      (∀ (chars : List LinkChar) (b : List Byte), removeInserted 0 chars = b.map .data →
        (16 ≤ b.length → b.length ≤ 4096 → answerClass b = false → (k.val = 0 ∨ k.val = 7) → k.val = s.upLink →
          ((clear.link k.val).rxBuf.length < 8 →
            exec (.controlLinkPacket k (.framed chars)) s = .next (drainSources (clear.setLink k.val
              { clear.link k.val with rxBuf := (clear.link k.val).rxBuf ++ [b] }))) ∧
          (8 ≤ (clear.link k.val).rxBuf.length → exec (.controlLinkPacket k (.framed chars)) s = .next (bump 0xC k.val 5 clear))) ∧
        (16 ≤ b.length → b.length ≤ 4096 → answerClass b = false → k.val ≠ s.upLink → pktOp b ≠ 0x0803 →
          exec (.controlLinkPacket k (.framed chars)) s = .next
            (clear.emit (.linkPacket k.val (replyBytes (pktOp b) (pktTag b) s.arm.addr.toNat St.pathDenied 0 [])))) ∧
        (16 ≤ b.length → b.length ≤ 4096 → answerClass b = true →
          ((k.val = 0 ∨ k.val = 7) → exec (.controlLinkPacket k (.framed chars)) s = .next (bump 0xC k.val 4 clear)) ∧
          (k.val ≠ 0 → k.val ≠ 7 → exec (.controlLinkPacket k (.framed chars)) s = exec (.childReplyForward k b) clear)) ∧
        (b.length < 16 → exec (.controlLinkPacket k (.framed chars)) s = .next (bump 0xC k.val 2 clear)) ∧
        (4096 < b.length → exec (.controlLinkPacket k (.framed chars)) s = .next (bump 0xC k.val 3 clear))) ∧
      exec (.controlLinkPacket k .giant) s = .next (bump 0xC k.val 3 (s.setLink k.val { s.link k.val with skipping := true })) ∧
      exec (.controlLinkPacket k .strayStart) s = .next (bump 0xC k.val 4 clear) ∧
      ((s.link k.val).skipping = false → exec (.controlLinkPacket k .strayEnd) s = .next (bump 0xC k.val 4 s))) ∧
    (∀ k : Fin 8, (s.link k.val).sync = false → ∀ f : LinkFrame, exec (.controlLinkPacket k f) s = .next s) ∧
    (∀ (k : Fin 8) (bytes : List Byte), 0 < k.val → k.val < 7 → 16 ≤ bytes.length → 0x8000 ≤ fieldAt bytes 0 2 →
      fieldAt bytes 0 2 ≠ 0x8F01 → fieldAt bytes 0 2 ≠ 0x8F02 → s.awaits k.val (fieldAt bytes 2 2) = false →
      let t := if fieldAt bytes 0 2 < 0xC000 then s.setLink k.val { s.link k.val with unanswered := (s.link k.val).unanswered - 1 } else s
      (t.link k.val).fetch = none → (t.link k.val).retrain = none →
      exec (.childReplyForward k bytes) s = .next (t.emit (.linkPacket s.upLink bytes))) ∧
    (∀ fn : Fin 16, s.fnExists fn.val = true → domCond .plinth s = .on →
      exec (.backlogDrain fn) s = .next (putLostMarker fn.val (settleBacklog fn.val (s.fn fn.val).backRpl.length (s.fn fn.val).backEvt.length
        (drainRing fn.val true 256 (drainRing fn.val false 256 (touchDomain .base s))))) ∧
      (∀ (n k : Nat) (ev : Bool) b r, (s.fn n).back ev = b :: r → (s.fn n).fits ev b = true →
        drainRing n ev (k + 1) s = drainRing n ev k (writeRing n ev b (s.setFn n ((s.fn n).setBack ev r)))))

/-- The debug port's access level and packet buffer (R334, R451 to R453, Table 22.2): while no access is in progress, each register access
draws its busy time and has its effect: OBSOPEN gives Observe, a challenge is drawn while no lockout runs, AUTH 0x04 waits for the
response or judges the one in the buffer, AUTH 0x05 drops to None; the packet buffer is filled, cleared, handed over to be taken in its turn (R328), and read; an ended lockout is over. -/
def Obligations.DebugPortComplete : Prop :=
  ∀ s : State, s.dbgOn = true → s.dbg.busyUntil ≤ s.clk.now →
    let d := { s.dbg with err := false, busyUntil := s.clk.now + (Config.freeValue 11 s.free).toNat % 1601 }
    let a : State := { s with dbg := d, free := s.free + 1 }
    (s.arm.obsOpen = true → exec .authObserve s = .next (setLevel 1 a)) ∧
    (s.arm.obsOpen = false → exec .authObserve s = .next { a with dbg := { d with err := true } }) ∧
    (s.dbg.lockout = none → exec .authChallengeObserve s = .next { a with
      dbg := { d with chal := some (Config.freeValue 256 (s.free + 1), Config.freeValue 64 (s.free + 2), 1), authWait := false }, free := s.free + 3 }) ∧
    (s.dbg.lockout = none → exec .authChallengeFull s = .next { a with
      dbg := { d with chal := some (Config.freeValue 256 (s.free + 1), Config.freeValue 64 (s.free + 2), 2), authWait := false }, free := s.free + 3 }) ∧
    (s.dbg.lockout ≠ none → exec .authChallengeFull s = .next { a with dbg := { d with err := true } }) ∧
    (s.dbg.chal ≠ none → s.dbg.pktIn = [] → exec .authSubmitResponse s = .next { a with dbg := { d with authWait := true } }) ∧
    (∀ nonce chid, s.dbg.chal = some (nonce, chid, 1) → s.dbg.pktIn ≠ [] → s.dbg.overflow = false →
      exec .authSubmitResponse s = .next
        (let a1 : State := { a with dbg := { d with chal := none, pktIn := [], overflow := false, authWait := true } }
         if Config.authOk chid nonce 1 s.dbg.pktIn then setLevel 1 a1 else failResponse a1)) ∧
    (exec .authDrop s = .next (setLevel 0 a)) ∧
    (∀ t, s.dbg.lockout = some t → t ≤ s.clk.now → exec .lockoutExpiry s = .next { s with dbg := { s.dbg with lockout := none } }) ∧
    (s.dbg.authWait = false → s.dbg.level ≠ 0 → exec .pktCtrlGo s = .next { a with dbg := { d with authWait := false, goDue := true } }) ∧
    (exec .pktCtrlClr s = .next { a with dbg := { d with pktIn := [], overflow := false, goDue := false } }) ∧
    (∀ value : U32, s.dbg.pktIn.length ≤ 4092 →
      exec (.pktDataWrite value) s = .next { a with dbg := { d with pktIn := s.dbg.pktIn ++ leBytes 4 value.toNat } }) ∧
    (∀ (b : List Byte) r, s.dbg.level ≠ 0 → s.dbg.pktOut = b :: r → s.dbg.pktPos + 4 < b.length →
      exec .pktDataRead s = .next (({ a with dbg := { d with
        rdata := BitVec.ofNat 32 (fieldAt b s.dbg.pktPos 4), pktPos := s.dbg.pktPos + 4 } } : State).emit (.readData (fieldAt b s.dbg.pktPos 4))))

/-- The virtual terminal, the shadow readout, DAPACC and the TAP (R450 to R452, R455, R465, Tables 22.1 and 22.2): bytes pass between VT_DATA
and the Plinth at Observe or Full; SH_DATA reads the held records and moves on; DAPACC writes and reads a register while it is the
TAP's instruction; DBG_RST_N low resets the port but for its event sequence and MR6 memory; Update-IR takes the listed codes. -/
def Obligations.DebugAccessComplete : Prop :=
  ∀ s : State,
    (∀ high : Bool, high = true → exec (.dbgRstN high) s = .next { s with dbg := { s.dbg with rstHigh := true } }) ∧
    (s.dbg.level ≠ 2 →
      exec (.dbgRstN false) s = .next { s with dbg := { evSeq := s.dbg.evSeq, fullSeen := s.dbg.fullSeen, rstHigh := false } }) ∧
    (s.dbgOn = true → exec (.tapInstructionUpdate none) s = .next { s with dbg := { s.dbg with ir := 0x02 } }) ∧
    (∀ v : Byte, s.dbgOn = true → v = 0x01 ∨ v = 0x02 ∨ v = 0x10 →
      exec (.tapInstructionUpdate (some v)) s = .next { s with dbg := { s.dbg with ir := v } }) ∧
    (∀ v : Byte, s.dbgOn = true → v ≠ 0 → v ≠ 0x01 → v ≠ 0x02 → v ≠ 0x10 →
      exec (.tapInstructionUpdate (some v)) s = .next { s with dbg := { s.dbg with ir := 0xFF } }) ∧
    (∀ byte : Byte, s.dbgOn = true → s.dbg.level ≠ 0 → s.dbg.vtPins = true → s.dbg.vtTx.length < 64 →
      exec (.vtSerialByte byte) s = .next { s with dbg := { s.dbg with vtTx := s.dbg.vtTx ++ [byte] } }) ∧
    (s.dbgOn = true → s.dbg.busyUntil ≤ s.clk.now →
      let d := { s.dbg with err := false, busyUntil := s.clk.now + (Config.freeValue 11 s.free).toNat % 1601 }
      let a : State := { s with dbg := d, free := s.free + 1 }
      (∀ value : U32, s.dbg.level ≠ 0 → s.dbg.vtPins = false → s.dbg.vtTx.length < 64 →
        exec (.vtDataWrite value) s = .next { a with dbg := { d with vtTx := s.dbg.vtTx ++ [value.setWidth 8] } }) ∧
      (∀ (b : Byte) r, s.dbg.level ≠ 0 → s.dbg.vtPins = false → s.dbg.vtRx = b :: r →
        exec .vtDataRead s = .next
          (({ a with dbg := { d with vtRx := r, rdata := BitVec.ofNat 32 (256 + b.toNat) } } : State).emit (.readData (256 + b.toNat)))) ∧
      (∀ b : List Byte, s.dbg.level ≠ 0 → a.shadowRead s.dbg.shAddr.toNat 4 = .data b →
        exec .shDataRead s = .next (({ a with dbg := { d with
          shAddr := s.dbg.shAddr + 4, rdata := BitVec.ofNat 32 (leNat b) } } : State).emit (.readData (leNat b)))) ∧
      (∀ data : U32, s.dbg.ir = 0x10 → s.dbg.level ≠ 0 →
        exec (.dapaccUpdate true 0x05 data) s = .next { a with dbg := { d with vtPins := data.getLsbD 0 } }) ∧
      (∀ data : U32, s.dbg.ir = 0x10 →
        exec (.dapaccUpdate false 0x00 data) s = .next (({ a with dbg := { d with
          rdata := BitVec.ofNat 32 (0x96160000 + s.ident.bic.toNat) } } : State).emit (.readData (0x96160000 + s.ident.bic.toNat)))))

/-- Pins, boot and power transitions (R394, R408 to R410, R440, R446, R447, R482, R483, R485, Table 19.3): PWR_OK's rise latches the strap
and starts the oscillator delay, whose end is a power-on reset outside a wake; RST_N is a device reset with PEND_SIDE latched; a rail loss
ends in Off; BOOT consumes the boot that is due; self-test makes both pairs ready; a trial that does not end falls back; a transition step
that waits for nothing ends with its effect; WAKE_N wakes from Deep sleep, Watch and Off. -/
def Obligations.BootEventsComplete : Prop :=
  ∀ s : State,
    (∀ d : BitVec 3, s.pwr.st ≠ .deep → s.pwr.st ≠ .watch → exec (.pwrOkRise d) s = .next { s with
      ident := { s.ident with oscDly := d }, pwr := { s.pwr with pwrOk := true }
      clk := { s.clk with oscStart := some (s.clk.now + usSteps 100 * 2 ^ d.toNat) } }) ∧
    (s.clk.oscStart.isSome = true → s.pwr.trans = none →
      exec .oscDlyExpiry s = .next (cold 1 true { s with clk := { s.clk with oscStart := none } })) ∧
    (∀ side : Bool, s.pwr.rails = 0xFF → s.clk.oscStart = none →
      exec (.rstN side) s = .next (cold 2 false { s with ident := { s.ident with pendSide := side } })) ∧
    (s.pwr.trans = none → s.pwr.st ≠ .off →
      exec .pwrOkFall s = .next (lostRails { s with pwr := { s.pwr with pwrOk := false } })) ∧
    (∀ (a b : SlotImage) (board : BoardBoot), s.plinth.bootDue = true → s.clk.oscStart = none → s.plinth.rstCause ≠ 4 →
      exec (.boot a b board) s = .next (bootSelect a b board { s with
        plinth := { s.plinth with bootDue := false, bootAt := s.clk.now, selfTest := false, recovery := false } })) ∧
    (s.plinth.bootDue = false → s.plinth.selfTest = false → s.plinth.recovery = false →
      exec .selfTestDone s = .next { s with plinth := { s.plinth with selfTest := true, ready0 := true, ready1 := true } }) ∧
    (s.fw.trial = true → s.plinth.bootDue = false → s.plinth.selfTest = false → s.plinth.bootAt + usSteps 5000000 ≤ s.clk.now →
      exec .trialSelfTestTimeout s = .next (failTrial s)) ∧
    (s.pwr.trans = none → (s.pwr.st = .deep ∨ s.pwr.st = .watch ∨ s.pwr.st = .off) → exec .wakeN s = .next (startWake s)) ∧
    (∀ t : Transition, s.pwr.trans = some t → t.entering = true → (t.target = .deep ∨ t.target = .watch ∨ t.target = .off) →
      exec .wakeN s = .next { s with pwr := { s.pwr with trans := some { t with woken := true } } }) ∧
    (∀ (t : Transition) (k : TStep) (rest : List TStep), s.pwr.trans = some t → t.steps = k :: rest → rest ≠ [] → k ≠ .rails → t.redirect = none →
      t.woken = false → s.stepDone t k = true →
      exec .transitionStepEnd s = .next
        (let s1 := if t.entering then entryEffect t.target k s else exitEffect t.target k s
         setTrans (some { t with steps := rest })
           { s1 with pwr := { s1.pwr with taken := takenAfter s.pwr.taken t.entering t.target k } })) ∧
    (∀ (t : Transition), s.pwr.trans = some t → t.entering = false → t.steps = [.clock] → t.redirect = none → t.ctx = none →
      t.target = .run →
      exec .transitionStepEnd s = .next { s with pwr := { s.pwr with
        trans := none, st := .run, dom := .run, taken := s.pwr.taken.filter fun j => decide (j ≠ .clock) } })

/-- Domains, rails, telemetry and sensors (R407, R412, R413, R427, R481, R482, R487, R491): an access wakes a domain in retention and 1 ms
without one puts it back; the rail sequencer enables the lowest step that is off and ends with none left; a rail timeout, a thermal
trip, a thermal limit, a rail out of tolerance in ten reads and a Watch violation have their outcomes. -/
def Obligations.PowerEventsComplete : Prop :=
  ∀ s : State,
    (∀ d : Domain, onDemand d = true → domCond d s = .ret →
      exec (.domainWakeOnDemand d) s = .next { s with pwr := { s.pwr with
        woken := s.pwr.woken.filter (fun w => decide (w.1 ≠ d)) ++ [(d, s.clk.now)] } }) ∧
    (∀ d : Domain, exec (.domainIdleExpiry d) s = .next { s with pwr := { s.pwr with
      woken := s.pwr.woken.filter fun w => !(decide (w.1 = d) && decide (w.2 + usSteps 1000 ≤ s.clk.now)) } }) ∧
    (∀ i : Fin 8, s.pwr.railStep.isSome = true → s.pwr.rails.getLsbD i = false → (∀ j < i.val, s.pwr.rails.getLsbD j = true) →
      exec (.railSequenceStep true) s = .next (({ s with pwr := { s.pwr with
        rails := s.pwr.rails ||| BitVec.ofNat 8 (2 ^ i.val), railStep := some (i.val + 1), railAt := s.clk.now } } : State).emit
          (.pmbus (i.val + 1) true))) ∧
    (s.pwr.railStep.isSome = true → s.pwr.rails = 0xFF →
      exec (.railSequenceStep true) s = .next { s with pwr := { s.pwr with railStep := none } }) ∧
    (s.pwr.railStep.isSome = true → exec (.railSequenceStep false) s = .next s) ∧
    (s.pwr.railStep.isSome = true → s.pwr.railAt + usSteps 5000 ≤ s.clk.now →
      exec .railPowerGoodTimeout s = .next
        (let s1 := assertFault St.railRange (dropRails s)
         { s1 with pwr := { s1.pwr with railFlag := true } })) ∧
    (∀ m : BitVec 8, s.plinth.ready0 = true →
      (∀ i < 8, (if m.getLsbD i && s.pwr.rails.getLsbD i then nth 0 s.pwr.railBad i + 1 else 0) ≠ 10) → m &&& s.pwr.rails ≠ 0 →
      exec (.railTelemetryRead m) s = .next { s with pwr := { s.pwr with
        railBad := (List.range 8).map fun i => if m.getLsbD i && s.pwr.rails.getLsbD i then nth 0 s.pwr.railBad i + 1 else 0 } }) ∧
    (∀ i < 8, ∀ m : BitVec 8, s.plinth.ready0 = true → m.getLsbD i = true → s.pwr.rails.getLsbD i = true → nth 0 s.pwr.railBad i = 9 →
      exec (.railTelemetryRead m) s = .next
        (let s1 : State := { s with pwr := { s.pwr with
           railBad := (List.range 8).map fun i => if m.getLsbD i && s.pwr.rails.getLsbD i then nth 0 s.pwr.railBad i + 1 else 0 } }
         pauseAll (setAlertRail true (logRec { cause := St.railRange, sub := 0xE, sev := 3, detail := m.toNat } s1)))) ∧
    (∀ reading : Nat, 110 ≤ reading → s.pwr.st ≠ .off → s.pwr.alertThermal = false →
      exec (.thermalHigh reading) s = .next
        (pauseAll (setAlertThermal true (logRec { cause := St.thermalHigh, sub := 0xE, sev := 3, detail := reading } s)))) ∧
    (∀ reading : Nat, 120 ≤ reading → s.pwr.st ≠ .off →
      exec (.thermalTrip reading) s = .next
        (let s1 := assertFault St.thermalTrip (dropRails s)
         { s1 with pwr := { s1.pwr with tripFlag := true } })) ∧
    (∀ reading : Nat, reading ≤ 100 → exec (.thermalAlertRelease reading) s = .next (setAlertThermal false s)) ∧
    (∀ (l : List (Option U16)) (ok : Bool) (blocks : List Block), s.pwr.st = .watch → s.pwr.trans = none → s.pwr.wDone < s.watchPeriods →
      let r : State := { s with pwr := { s.pwr with wDone := s.watchPeriods } }
      let s0 := if ok then setAlertHold false r else r
      (watchItem l ok blocks s0 = none → exec (.watchSample l ok blocks) s = .next s0) ∧
      (∀ i v, watchItem l ok blocks s0 = some (i, v) → exec (.watchSample l ok blocks) s = .next (watchViolation i v s0))) ∧
    (s.pwr.st ≠ .watch → exec .coolantOkLow s = .next (setAlertHold true s))

/-- The step clock, the control links and time (R136, R363, R364, R378, R384 to R387, R390 to R393, R396): the oscillator is trimmed while sync
is held, an error above 163.84 ppm in a running device logged; the PLL locks on an upstream link; a link comes up and loses sync; the loss of
the only upstream coasts the device and its return reassigns the counter; REQ, RESP and the servo's holdover; children are probed, and a
change of what is recorded changes the tree; a silent child of a query fails. -/
def Obligations.ClockEventsComplete : Prop :=
  ∀ s : State,
    (∀ cycles marks : Nat, (s.link s.upLink).sync = true → s.clk.coast = false →
      exec (.oscTrim cycles marks) s = .next
        (let off := 327680 < 2000 * (if cycles < marks then marks - cycles else cycles - marks)
         let s1 := if ([0, 1, 2, 3].any fun p => decide ((s.part p).st = .running)) ∧ off then
           logRec { cause := St.oscTrim, sub := 0xE, sev := 5, detail := cycles + 2 ^ 32 * marks } s else s
         endCalibrate { s1 with clk := { s1.clk with trim := Config.freeValue 10 s1.free }, free := s1.free + 1 })) ∧
    (s.clk.pll = false → (s.link s.upLink).up = true → s.pllOn = true →
      (s.clk.counterOk = true → exec .pllLock s = .next { s with clk := { s.clk with pll := true } }) ∧
      (s.clk.counterOk = false → exec .pllLock s = .next { s with clk := { s.clk with pll := true, count := 0, phase := 0 } })) ∧
    (∀ k : Fin 8, domCond .plinth s = .on → (s.lane (136 + k.val)).st ≠ .off → (s.lane (136 + k.val)).st ≠ .down →
      exec (.controlLinkUp k) s = .next
        (let n := 136 + k.val
         let s1 := s.setLink k.val { s.link k.val with sync := true, up := true, skipping := false }
         let s2 := if (s.lane n).st = .pattern ∨ (s.lane n).st = .sleep then s1
           else s1.setLane n { s.lane n with st := .ready, since := s.clk.now, attempts := 0, lock := true }
         let s3 := answerRetrain k.val St.ok s2
         if k.val = 0 ∨ k.val = 7 then sendReq k.val (s3.setSync k.val { s3.syncOf k.val with ppmOk := true }) else s3)) ∧
    (∀ k : Fin 8, (s.link k.val).sync = true →
      exec (.controlLinkSyncLoss k) s = .next (dropSync k.val (bumpBy (16 - ones 256 (s.link k.val).errs.toNat) 0x4 (136 + k.val) 3 s))) ∧
    (s.clk.coast = false → domCond .plinth s = .on →
      let s1 := if (s.link s.upLink).sync then dropSync s.upLink s else s
      (s.pwr.dom = .sleep → exec .upstreamLoss s = .next { s1 with clk := { s1.clk with counterOk := false } }) ∧
      (s.pwr.dom ≠ .sleep → s.clk.pll = false → exec .upstreamLoss s = .next s1) ∧
      (s.pwr.dom ≠ .sleep → s.clk.pll = true → s.altReady = false → exec .upstreamLoss s = .next (startCoast s1)) ∧
      (s.pwr.dom ≠ .sleep → s.clk.pll = true → s.altReady = true → exec .upstreamLoss s = .next (treeChanged (switchUpstream s.altLink s1)))) ∧
    (∀ (k : Fin 8) (t1 t2 t3 t4 : U64), s.clk.coast = true → (k.val = 0 ∨ k.val = 7) → exec (.upstreamRegain k t1 t2 t3 t4) s = .next
      (let e := stampDiff t2.toNat t1.toNat - (stampDiff t4.toNat t1.toNat - stampDiff t3.toNat t2.toNat) / 2
       let s1 := (s.setLink k.val { s.link k.val with sync := true, up := true }).setLane (136 + k.val)
         { s.lane (136 + k.val) with st := .ready, since := s.clk.now, lock := true }
       let s2 := s1.setSync k.val { s1.syncOf k.val with t1 := none, e := e, at_ := some s1.clk.now, ppmOk := true }
       let s3 := assignCounter e { s2 with clk := { s2.clk with pll := true, upS7 := decide (k.val = 7), good := 0 } }
       let s5 := eachPart clearCoast ((List.range 136).foldl retrainAfter (enterServo .acquiring (setCoast false s3)))
       if s.upLink = k.val then s5 else treeChanged s5)) ∧
    ((s.link 0).up = true → (s.link 7).up = false → exec .timeSyncSend s = .next (sendReq 0 s)) ∧
    ((s.link 0).up = false → (s.link 7).up = true → exec .timeSyncSend s = .next (sendReq 7 s)) ∧
    (∀ (k : Fin 8) (q : SyncSeq) (t1 : U64), 0 < k.val → k.val < 7 → q.coded = false →
      crc8 (timeSyncContent 1 q.seq.toNat t1.toNat 0 0 0) = q.crc.toNat → exec (.timeSyncReq k q t1) s = .next
      (s.emit (.timeSync k.val 2 q.seq.toNat (s.clk.count.toNat % 2 ^ 58 * 64) (s.clk.count.toNat % 2 ^ 58 * 64) s.sysTime.toNat
        (servoCode s.clk.servo)))) ∧
    (∀ (k : Fin 8) (q : SyncSeq) (t1 : U64),
      (q.coded = false → crc8 (timeSyncContent 1 q.seq.toNat t1.toNat 0 0 0) ≠ q.crc.toNat → exec (.timeSyncReq k q t1) s = .next (countBad k.val s)) ∧
      (q.coded = true → exec (.timeSyncReq k q t1) s = .next (bump 0x4 (136 + k.val) 3 s))) ∧
    (∀ (k : Fin 8) (q : SyncSeq) (ps : Byte) (t2 t3 st t4 : U64) (t1 : Nat), (k.val = 0 ∨ k.val = 7) → (s.syncOf k.val).t1 = some t1 →
      (s.syncOf k.val).seq = q.seq → q.coded = false →
      crc8 (timeSyncContent 2 q.seq.toNat t2.toNat t3.toNat st.toNat ps.toNat) = q.crc.toNat →
      (exec (.timeSyncResp k q t2 t3 st ps t4) s = .next (takeResp k.val t1 t2.toNat t3.toNat st.toNat t4.toNat ps.toNat s)) ∧
      (k.val ≠ s.upLink → takeResp k.val t1 t2.toNat t3.toNat st.toNat t4.toNat ps.toNat s = s.setSync k.val { s.syncOf k.val with
        t1 := none, e := stampDiff t2.toNat t1 - (stampDiff t4.toNat t1 - stampDiff t3.toNat t2.toNat) / 2, at_ := some s.clk.now })) ∧
    (s.clk.lastResp + usSteps 16000 ≤ s.clk.now → s.clk.servo = .locked → exec .servoHoldover s = .next (enterServo .holdover s)) ∧
    (∀ (a : List ProbeAnswer) (eq : List (List U16)), s.arm.assigned = true → s.plinth.ready0 = true → domCond .plinth s = .on →
      exec (.childProbe a eq) s = .next
        (let s1 := [1, 2, 3, 4, 5, 6].foldl (fun b k => probeChild k (nth .noAnswer a (k - 1)) (nth [] eq (k - 1)) b) s
         if (([1, 2, 3, 4, 5, 6].map fun k => (s1.link k).child) = [1, 2, 3, 4, 5, 6].map fun k => (s.link k).child) then s1 else treeChanged s1)) ∧
    (∀ (k : Nat) (a : ProbeAnswer) (eq : List U16), (s.link k).up = false → probeChild k a eq s = dropChild k s) ∧
    (∀ k : Fin 8, exec (.consensusReplyTimeout k) s = .next (advanceQueries { s with arm := { s.arm with
      queries := s.arm.queries.map fun q => if decide (q.at_ + usSteps 100000 ≤ s.clk.now) = true then { q with
        kids := q.kids.map fun e => if e.link = k.val then (if e.done then e else { e with failed := true }) else e } else q } }))

/-- The frame's housekeeping (Table 2.2, R32 to R35, R79, R231, R308, R371, R375): at its steps of housekeeping (h counts them) each row closes
the signature and latches the armed changes, sends and compares the signatures of a LOCKSTEP pair, takes the vetoes after the
completeness check, clears the next frame's bank, where an armed change is late, stages its rows, and gives or withholds its go; a suspect
previous-bank row is read again, and a hold is raised where it is still wrong. -/
def Obligations.HousekeepingComplete : Prop :=
  ∀ (part : Fin 4) (s : State),
    let p := part.val
    let x := s.part p
    let h := s.relStep p + 64 - x.frameLen
    s.frameRuns p = true → x.frameLen ≤ s.relStep p + 64 →
    (h = 0 → x.hstage = 0 →
      exec (.accumulationClose part) s = .next (s.setPart p { x with sig := x.crc, hstage := 1, changes := x.changes.map fun c =>
        if c.m = x.frame + 2 then { c with armed := c.armed || c.ready } else c })) ∧
    (s.pend.st = .lockstep → 8 ≤ h → h ≤ 10 → x.hstage = 1 →
      exec (.signatureSend part) s = .next
        (let s1 := sendTag (sendPendant 3 x.sig (sendPendant 2
           (BitVec.ofNat 64 (x.frame.toNat * 2 ^ 16 + s.pend.pref.toNat * 2 ^ 14 + min s.pend.cev 16383)) s))
         s1.setPart p { s1.part p with hstage := 8, ownSigf := (s.pend.pref, min s.pend.cev 16383) })) ∧
    (s.pend.st = .lockstep → 48 ≤ h → h ≤ 51 → 1 ≤ x.hstage → x.hstage < 48 →
      (sigMismatch x = false →
        exec (.signatureCompare part) s = .next (s.setPart p { x.setMism 0 false with hstage := 48 })) ∧
      (sigMismatch x = true →
        exec (.signatureCompare part) s = .next
          (let n := if x.replay then x.mismOf.1 else 0
           let next := if x.replay && decide (n = 0) then 0 else n + 1
           let miss := x.peerSigf.isNone || (x.replay && x.mismOf.2)
           let s2 := replayVeto p (logEvent { cause := St.sigMismatch, sub := 0xD, sev := 1, part := p } (s.jsOf p) []
             (bump 0xD 0 1 (s.setPart p { x.setMism next miss with hstage := 48 })))
           if next = 4 then persistent p s2 else s2))) ∧
    (h = 52 → 1 ≤ x.hstage → x.hstage < 52 →
      exec (.vetoSamplingPoint part) s = .next (sampleVetoes p (completeness p s)) ∧
      ((∀ q ∈ x.reqs, q.frame = x.frame → q.pending = false) → completeness p s = s) ∧
      (x.vetoes = [] → (∀ v ∈ x.holds, v.resolved = true) → x.breaks = false →
        sampleVetoes p s = s.setPart p { x with hstage := 52, vetoes := [], sampled := x.sampled ++ [(x.frame, s.cnt)] }) ∧
      (∀ hold, x.vetoes = [(x.frame, hold)] → (∀ v ∈ x.holds, v.resolved = true) → x.breaks = false →
        sampleVetoes p s = offerVeto p x.frame hold false true
          (s.setPart p { x with hstage := 52, vetoes := [], sampled := x.sampled ++ [(x.frame, s.cnt)] }))) ∧
    (53 ≤ h → h ≤ 60 → x.hstage = 52 →
      exec (.bankClear part) s = .next
        ((x.changes.filter fun c => decide (c.m = x.frame + 1) && !c.armed && c.lateAt.isNone).foldl (lateChange p)
          (clearBanks p [(x.frame.toNat + 1) % 4] (s.setPart p { x with hstage := 53 })))) ∧
    (61 ≤ h → h ≤ 62 → x.hstage = 53 →
      exec (.rowStaging part) s = .next ((stageRows p (x.frame + 1) s).setPart p { x with
        reqs := x.reqs.map (fun q => { q with late := false }), hstage := 61
        stagedTop := if frameBefore x.stagedTop (x.frame + 1) then x.frame + 1 else x.stagedTop })) ∧
    (h = 63 → x.hstage = 61 →
      exec (.goNoGo part) s = .next (s.setPart p { x with
        hstage := 63, noGo := x.changes.any fun c => decide (c.m = x.frame + 1) && !c.armed })) ∧
    (∀ pcl grp row bp l, x.nmSuspect = (pcl, grp, row, bp) :: l → x.evalLen ≤ s.relStep p →
      exec (.nmParityReread part) s = .next
        (let s1 := bump 0x0 pcl 1 (s.setPart p { x with nmSuspect := l })
         let loc := s1.bpLoc pcl grp (bp % 64) row x.prevBank
         if smGet false s1.arr.nmBad (nmKey pcl grp x.prevBank row) = true then
           raiseHold p St.nmStateLost (nmKey pcl grp x.prevBank row)
             (logEvent { cause := St.nmStateLost, sub := 0x0, sev := 2, part := p, loc := loc } (s1.jsOf p) (leBytes 8 loc) s1)
         else replayVeto p (logRec { cause := St.nmParity, sub := 0x0, sev := 1, part := p, loc := loc } s1)))

/-- The frame's steps and its ticks (R24, R34, R39, R45, R50 to R52, R56, R224, R300): the step at which the frame stands is performed; at the
Horizon tick the boundary b is taken, at which the partition stops, pauses, is withheld or begins frame n+1; the sampled frame goes
beyond replay after D frames and its commits go to the merge buffer; a placed tick has its lead-in and its step; a pause that ends is
followed by its lead-in. -/
def Obligations.FrameTicksComplete : Prop :=
  ∀ (part : Fin 4) (s : State),
    let p := part.val
    let x := s.part p
    (s.frameRuns p = true → x.rel ≤ s.relStep p → s.relStep p < x.frameLen →
      exec (.frameRelativeStep part) s = .next (frameStep p (s.relStep p) s)) ∧
    (s.frameRuns p = true → x.st ≠ .starting → s.relStep p = x.frameLen → x.hstage = 63 →
      let left := s.pend.leaving.filter (· ≠ p)
      let b : State := ({ s with pend := { s.pend with leaving := left } } : State).setPart p { x with topH0 := x.h0Begun s.cnt }
      let y := b.part p
      let m := y.frame + 1
      (y.stopNext = true → exec (.horizonTick part) s = .next (refreshDigest (stopHere p b))) ∧
      (y.stopNext = false → ((∃ t f d, y.pausedAt = some (m, t, f, d)) ∨ ∃ q ∈ y.pauses, q.m = m) →
        exec (.horizonTick part) s = .next (refreshDigest (reachPause p m b))) ∧
      (y.stopNext = false → y.pausedAt = none → (∀ q ∈ y.pauses, q.m ≠ m) →
        (y.noGo = true → exec (.horizonTick part) s = .next (refreshDigest (b.setPart p { y with phase := .withheld }))) ∧
        (y.noGo = false → exec (.horizonTick part) s = .next (refreshDigest (beginFrame p m false b))))) ∧
    (x.st = .starting → s.stepping = true → x.startAt = some s.cnt → exec (.horizonTick part) s = .next (startTick p s.cnt s)) ∧
    (∀ f t l, x.sampled = (f, t) :: l → s.clk.coast = false → t + x.depth * x.frameLen ≤ s.cnt →
      exec (.beyondReplay part) s = .next
        (let mine := fun c : Commit => decide (c.part = p) && !frameBefore f c.frame
         let out := (s.dram.commits.filter mine).foldl (fun l c => insertCommit c l) []
         let s1 : State := { s with dram := { s.dram with
           commits := s.dram.commits.filter (fun c => !mine c), draining := s.dram.draining ++ out } }
         finishUnload p (releaseMigrations p f (fillMerge (s1.setPart p (releaseFrame f x)))))) ∧
    (∀ g k r, x.nextTick = some (g, k, r) → s.stepping = true → s.cnt + x.lin = g → (if r then x.phase = .drain else x.phase = .paused) →
      exec (.leadInStart part) s = .next (leadIn p g k r s)) ∧
    (∀ g k m t b d, x.nextTick = some (g, k, false) → x.pausedAt = some (m, t, b, d) → 0 < d → s.stepping = true → s.cnt + x.lin = g →
      x.phase = .paused → exec (.pauseExpiry part) s = .next (leadIn p g k false s)) ∧
    (∀ k r, x.nextTick = some (s.cnt, k, r) → s.stepping = true → x.phase = .leadIn →
      exec (.replayTick part) s = .next
        (let s1 := completeResumes p (!r) s
         let y := s1.part p
         refreshDigest (beginFrame p k true (s1.setPart p { y with
           pausedAt := if r then y.pausedAt else none, restart := if r then y.restart else none }))))

/-- Markers of verdicts and cancellations (R43, R45, R46, R48, R371 to R373, R376): a veto reaches the member's offer, or goes up from a relay
that has not sent it; REPLAY and HOLD are relayed down and take effect at a running member; CLEAR is gathered at a held member; a CLEAR
without an answer is sent again after 2 V; CANCEL and CANCEL_REQ cancel at the member and the root; a late change times out. -/
def Obligations.VerdictMarkersComplete : Prop :=
  ∀ (k : Fin 8) (m : Marker) (s : State),
    let sc := m.scope.toNat
    (∀ p, s.hears false k.val 0x01 m = true → (s.marked k.val 0x01 m).memberOf sc = some p → (s.part p).st = .running →
      exec (.vetoMarker k m) s = .next (offerVeto p (nearestFrame (s.part p).current m.frame.toNat) (m.arg.getLsbD 0) (m.arg.getLsbD 1)
        (m.arg.getLsbD 2) (s.marked k.val 0x01 m))) ∧
    (s.hears false k.val 0x01 m = true → (s.marked k.val 0x01 m).memberOf sc = none →
      exec (.vetoMarker k m) s = .next (relayVeto m (s.marked k.val 0x01 m))) ∧
    (∀ p, s.hears true k.val 0x02 m = true → (relayVerdict m (passDown 0x02 m (s.marked k.val 0x02 m))).runner sc = some p →
      exec (.replayMarker k m) s = .next (takeReplay p m (relayVerdict m (passDown 0x02 m (s.marked k.val 0x02 m))))) ∧
    (∀ p, s.hears true k.val 0x03 m = true → (relayVerdict m (passDown 0x03 m (s.marked k.val 0x03 m))).runner sc = some p →
      exec (.holdMarker k m) s = .next
        (let s1 := relayVerdict m (passDown 0x03 m (s.marked k.val 0x03 m))
         takeVerdict p (nearestFrame (s1.part p).current m.frame.toNat) true (nearestStep s1.cnt m.arg.toNat) 0 s1)) ∧
    (s.hears true k.val 0x03 m = true → (relayVerdict m (passDown 0x03 m (s.marked k.val 0x03 m))).runner sc = none →
      exec (.holdMarker k m) s = .next (relayVerdict m (passDown 0x03 m (s.marked k.val 0x03 m)))) ∧
    (∀ p f t, s.hears false k.val 0x04 m = true → (s.marked k.val 0x04 m).runner sc = some p → (s.part p).heldFrame = some (f, t) →
      f.toNat % 2 ^ 24 = m.frame.toNat → (s.part p).sc.clears.contains k.val = false →
      exec (.clearMarker k m) s = .next (tryClear p ((s.marked k.val 0x04 m).setPart p { s.part p with
        sc := { (s.part p).sc with clears := (s.part p).sc.clears ++ [k.val] } }))) ∧
    (s.hears false k.val 0x04 m = true → (s.marked k.val 0x04 m).runner sc = none →
      exec (.clearMarker k m) s = .next (relayClear k.val m (s.marked k.val 0x04 m))) ∧
    (∀ (part : Fin 4) f tv t, (s.part part.val).heldFrame = some (f, tv) → (s.part part.val).sc.clearSent = some t →
      t + 2 * (s.part part.val).v ≤ s.clk.now →
      exec (.clearResendTimeout part) s = .next (resendRelays (markerUp 0x04 (s.part part.val).scope16 f.toNat 0 (s.setPart part.val { s.part part.val with
        sc := { (s.part part.val).sc with clearSent := some s.clk.now } })))) ∧
    (∀ part : Fin 4, (s.part part.val).sc.clearSent = none → exec (.clearResendTimeout part) s = .next (resendRelays s)) ∧
    (∀ p, s.hears true k.val 0x0A m = true → (passDown 0x0A m (s.marked k.val 0x0A m)).runner sc = some p →
      exec (.cancelMarker k m) s = .next
        (let s1 := passDown 0x0A m (s.marked k.val 0x0A m)
         cancelHere p (nearestFrame (s1.part p).current m.frame.toNat) (m.arg.toNat % 65536) s1)) ∧
    (∀ p, s.hears false k.val 0x0B m = true → (s.marked k.val 0x0B m).memberOf sc = some p → (s.marked k.val 0x0B m).isRoot p = true →
      (s.part p).st = .running →
      exec (.cancelReq k m) s = .next (rootCancel p (nearestFrame (s.part p).current m.frame.toNat) (m.arg.toNat % 65536) (s.marked k.val 0x0B m))) ∧
    (∀ (part : Fin 4) (c : ModeChange) t, (s.part part.val).changes = [c] → c.lateAt = some t → t + 80000000 ≤ s.clk.now →
      s.isRoot part.val = true → exec (.armTimeout part) s = .next (rootCancel part.val c.m c.opcode s)) ∧
    (∀ (down : Bool) (l type : Nat) (body : State → State), (if down then s.takesDown l else takesUp l) = true → markerCheck type m = .good →
      s.repeats l type m = true → receive down l type m body s = s.setLink l { s.link l with lastMark := none })

/-- Markers of pauses and Horizon marks (R50, R52, R53, R370, R374): PAUSE and RESTART are relayed down and placed at the running member; the
requests are served at the root and passed up elsewhere; a mark is relayed and compared; one whose check fails is counted. -/
def Obligations.PauseMarkersComplete : Prop :=
  ∀ (k : Fin 8) (m : Marker) (s : State),
    let sc := m.scope.toNat
    (∀ p, s.hears true k.val 0x05 m = true → (passDown 0x05 m (s.marked k.val 0x05 m)).runner sc = some p →
      exec (.pauseMarker k m) s = .next
        (let s1 := passDown 0x05 m (s.marked k.val 0x05 m)
         takePause p (nearestFrame (s1.part p).current m.frame.toNat) m.arg.toNat s1)) ∧
    (∀ p, s.hears true k.val 0x06 m = true →
      (let s1 := passDown 0x06 m (s.marked k.val 0x06 m)
       s1.runner sc = some p → (s1.part p).pausedAt.isSome = true → (s1.part p).restarting = false →
       exec (.restartMarker k m) s = .next (s1.setPart p
         (takeRestart (nearestFrame (s1.part p).current m.frame.toNat) (nearestStep s1.cnt m.arg.toNat) (s1.part p))))) ∧
    (∀ p f t b d, s.hears false k.val 0x07 m = true → (s.marked k.val 0x07 m).memberOf sc = some p → (s.marked k.val 0x07 m).isRoot p = true →
      (s.part p).st = .running → (s.part p).pausedAt = some (f, t, b, d) →
      exec (.pauseReq k m) s = .next (markerDown 0x05 (s.part p).scope16 f.toNat m.arg.toNat (setRemaining p m.arg.toNat (s.marked k.val 0x07 m)))) ∧
    (∀ p, s.hears false k.val 0x07 m = true → (s.marked k.val 0x07 m).memberOf sc = some p → (s.marked k.val 0x07 m).isRoot p = true →
      (s.part p).st = .running → (s.part p).pausedAt = none →
      exec (.pauseReq k m) s = .next (rootPause p (if m.frame.toNat = 0 then 0 else nearestFrame (s.part p).current m.frame.toNat) m.arg.toNat
        .remote (s.marked k.val 0x07 m)).2) ∧
    (∀ p, s.hears false k.val 0x07 m = true → (s.marked k.val 0x07 m).memberOf sc = some p → (s.marked k.val 0x07 m).isRoot p = false →
      exec (.pauseReq k m) s = .next (passUp 0x07 m (s.marked k.val 0x07 m))) ∧
    (∀ p, s.hears false k.val 0x08 m = true → (s.marked k.val 0x08 m).memberOf sc = some p → (s.marked k.val 0x08 m).isRoot p = true →
      (s.part p).st = .running → (s.part p).replayLimit = false → (s.part p).pausedAt.isSome = true →
      exec (.resumeReq k m) s = .next (rootRestart p (s.marked k.val 0x08 m))) ∧
    (∀ p q l, s.hears false k.val 0x08 m = true → (s.marked k.val 0x08 m).memberOf sc = some p → (s.marked k.val 0x08 m).isRoot p = true →
      (s.part p).st = .running → (s.part p).replayLimit = false → (s.part p).pausedAt = none → (s.part p).pauses = q :: l →
      goTaken (s.part p) q.m = false → q.owner ≠ .join → exec (.resumeReq k m) s = .next (rootUnpause p q.m (s.marked k.val 0x08 m))) ∧
    (∀ p f t b d, s.hears false k.val 0x09 m = true → (s.marked k.val 0x09 m).memberOf sc = some p → (s.marked k.val 0x09 m).isRoot p = true →
      (s.part p).st = .running → (s.part p).pausedAt = some (f, t, b, d) →
      exec (.stepReq k m) s = .next
        (let c := f + BitVec.ofNat 48 m.arg.toNat
         rootRestart p (markerDown 0x05 (s.part p).scope16 c.toNat 0 (armPause p { m := c, d := 0, owner := .remote } (s.marked k.val 0x09 m))))) ∧
    (∀ p, s.hears false k.val 0x08 m = true → (s.marked k.val 0x08 m).memberOf sc = some p → (s.marked k.val 0x08 m).isRoot p = true →
      (s.part p).st = .running → (s.part p).replayLimit = true →
      exec (.resumeReq k m) s = .next (releaseLimit p ((s.marked k.val 0x08 m).setPart p { s.part p with
        replayLimit := false, replayCount := ((match (s.part p).heldFrame with | some (f, _) => f | none => 0), 0) }))) ∧
    (∀ (scope : U16) (frame : BitVec 24) (step : U32) (crc : Byte), s.takesDown k.val = true →
      crc8 (horizonContent scope.toNat frame.toNat step.toNat) ≠ crc.toNat →
      exec (.horizonMark k scope frame step (some crc)) s = .next (markFailed scope.toNat (countBad k.val s))) ∧
    (∀ (scope : U16) (frame : BitVec 24) (step : U32), s.takesDown k.val = true →
      exec (.horizonMark k scope frame step none) s = .next (markFailed scope.toNat (countBad k.val (bump 0x4 (136 + k.val) 3 s)))) ∧
    (∀ (scope : U16) (frame : BitVec 24) (step : U32) (crc : Byte) (p : Nat), s.takesDown k.val = true →
      crc8 (horizonContent scope.toNat frame.toNat step.toNat) = crc.toNat → s.memberOf scope.toNat = some p →
      (s.part p).st = .running → (s.part p).sc.bearing = [] →
      (exec (.horizonMark k scope frame step (some crc)) s = .next (compareMark p frame.toNat step.toNat s)) ∧
      (∀ n t, nearestFrame (s.part p).current frame.toNat = n → ((s.part p).ticks.find? fun e => decide (e.1 = n)) = some (n, t) →
        compareMark p frame.toNat step.toNat s =
          (let s1 := s.setPart p { s.part p with marksDue := (s.part p).marksDue.filter fun d => decide (d ≠ n) }
           if t % 2 ^ 32 = step.toNat then s1 else outOfStep p (step.toNat * 2 ^ 32 + t % 2 ^ 32) s1)))

/-- Markers of a Start (R348, R368, R369): MEASURE records the down latency and goes on; UPLAT, DOWNMAX and READY are gathered by link; the
first START_REQ begins the measurement at the root; PARAMS gives a starting member its latencies; START fixes its tick; a failure
aborts at the root; an abort reaches the member; ten seconds after MEASURE the root aborts. -/
def Obligations.StartMarkersComplete : Prop :=
  ∀ (k : Fin 8) (m : Marker) (s : State),
    let sc := m.scope.toNat
    (∀ p, s.hears true k.val 0x0C m = true →
      (let s0 := s.marked k.val 0x0C m
       s0.memberOf sc = some p → (s0.part p).st = .starting → (s0.startSeq sc).sentUp = false →
       exec (.measureMarker k m) s = .next (advance sc (sendMeasure sc m.arg.toNat { s0.startSeq sc with
         measureAt := some s0.clk.now, downLat := s0.cnt - nearestStep s0.cnt m.arg.toNat } s0)))) ∧
    (s.hears false k.val 0x0D m = true →
      exec (.uplatMarker k m) s = .next
        (let s0 := s.marked k.val 0x0D m
         let v := if m.frame.toNat = noMember then none else some (m.frame.toNat + (s0.cnt - nearestStep s0.cnt m.arg.toNat))
         advance sc (s0.setStart sc (some { s0.startSeq sc with
           uplat := (s0.startSeq sc).uplat.filter (fun e => decide (e.1 ≠ k.val)) ++ [(k.val, v)] })))) ∧
    (s.hears false k.val 0x0E m = true →
      exec (.downmaxMarker k m) s = .next
        (let s0 := s.marked k.val 0x0E m
         advance sc (s0.setStart sc (some { s0.startSeq sc with
           downmax := (s0.startSeq sc).downmax.filter (fun e => decide (e.1 ≠ k.val)) ++ [(k.val, m.arg.toNat, m.frame.toNat)] })))) ∧
    (∀ p, s.hears false k.val 0x0F m = true → (s.marked k.val 0x0F m).memberOf sc = some p → (s.marked k.val 0x0F m).isRoot p = true →
      (s.part p).st ≠ .running → exec (.startReqMarker k m) s = .next (rootMeasure p (s.marked k.val 0x0F m))) ∧
    (∀ p, s.hears true k.val 0x10 m = true →
      (let s1 := passDown 0x10 m (s.marked k.val 0x10 m)
       s1.memberOf sc = some p → (s1.part p).st = .starting →
       exec (.paramsMarker k m) s = .next (advance sc (takeParams p m.frame.toNat (m.arg.toNat % 65536) (m.arg.toNat / 65536) s1)))) ∧
    (s.hears false k.val 0x11 m = true →
      exec (.readyMarker k m) s = .next
        (let s0 := s.marked k.val 0x11 m
         advance sc (s0.setStart sc (some { s0.startSeq sc with
           readyFrom := (s0.startSeq sc).readyFrom.filter (fun e => decide (e ≠ k.val)) ++ [k.val] })))) ∧
    (∀ p, s.hears true k.val 0x12 m = true →
      (let s1 := passDown 0x12 m (s.marked k.val 0x12 m)
       s1.memberOf sc = some p → (s1.part p).st = .starting →
       exec (.startMarker k m) s = .next (s1.setPart p { s1.part p with startAt := some (nearestStep s1.cnt m.arg.toNat) }))) ∧
    (s.hears false k.val 0x13 m = true → (s.marked k.val 0x13 m).rootOf sc = true → ((s.marked k.val 0x13 m).scopeSt sc).start.isSome = true →
      exec (.startFailMarker k m) s = .next
        (rootAbort sc m.frame.toNat (m.arg.toNat % 65536) (m.arg.toNat / 65536) (s.marked k.val 0x13 m))) ∧
    (s.hears false k.val 0x13 m = true → (s.marked k.val 0x13 m).rootOf sc = false →
      exec (.startFailMarker k m) s = .next (passUp 0x13 m (s.marked k.val 0x13 m))) ∧
    (s.hears true k.val 0x14 m = true →
      exec (.startAbortMarker k m) s = .next
        (abortHere sc m.frame.toNat (m.arg.toNat % 65536) (m.arg.toNat / 65536) (passDown 0x14 m (s.marked k.val 0x14 m)))) ∧
    (∀ (part : Fin 4) (q : StartSeq) t, (s.part part.val).sc.start = some q → q.measureAt = some t → s.isRoot part.val = true →
      (s.part part.val).st ≠ .running → (s.part part.val).startAt = none → t + 16000000000 ≤ s.clk.now →
      exec (.startTimeout part) s = .next (rootAbort (s.part part.val).scope16 0 0xFFFF St.armTimeout s))

/-- Training and calibration events of a lane (R120, R121, R133, R141, R146, R147, R155, Table 6.8): the equaliser's end hunts; hunting 65,536 steps,
TRAIN_EQ of 1 ms and a relock of 100 µs recover; 64 TRAIN blocks with RXLOCK make a linked-up lane READY; CAL blocks are measured and
CALB checked; a lane resumes at its step. -/
def Obligations.LaneTrainingComplete : Prop :=
  ∀ (lane : Fin 144) (s : State),
    let n := lane.val
    let l := s.lane n
    (l.st = .trainEq → exec (.equaliserConverged lane) s = .next (enterHunt n false (s.setLane n { l with eqDone := true }))) ∧
    (n ≠ 136 → n ≠ 143 → l.st = .hunt → l.waking = false → l.since + 65536 ≤ s.clk.now →
      exec (.huntTimeout lane) s = .next (settleLane n (autoRetrain n (enterRecover n s)))) ∧
    (l.st = .trainEq → l.since + usSteps 1000 ≤ s.clk.now → exec (.trainEqTimeout lane) s = .next (settleLane n (enterRecover n s))) ∧
    (l.st = .hunt → l.waking = true → l.since + usSteps 100 ≤ s.clk.now →
      exec (.relockTimeout lane) s = .next (settleLane n (enterRecover n s))) ∧
    (∀ payload : U64, n < 136 → l.st = .linkup → payload.getLsbD 0 = true → l.rxLockRun < 63 →
      exec (.trainBlock lane payload) s = .next (s.setLane n { l with peerEqDone := payload.getLsbD 1, rxLockRun := l.rxLockRun + 1 })) ∧
    (∀ payload : U64, n < 136 → l.st = .linkup → payload.getLsbD 0 = true → 63 ≤ l.rxLockRun →
      exec (.trainBlock lane payload) s = .next
        (settleLane n (remeasureLane n (laneReady n (s.setLane n { l with peerEqDone := payload.getLsbD 1, rxLockRun := 0 }))))) ∧
    (∀ payload : U64, n < 136 → l.st = .linkup → payload.getLsbD 0 = false →
      exec (.trainBlock lane payload) s = .next (s.setLane n { l with peerEqDone := payload.getLsbD 1, rxLockRun := 0 })) ∧
    (∀ (payload : U64) (p : Nat), n < 128 → l.st = .calibrate → l.calDone = false → s.laneOwner n = some p →
      calCheck (s.part p) s.arm.addr.toNat n payload.toNat = none →
      exec (.calBlock lane payload) s = .next (settleLane n (finishCal n (s.setLane n { l with
        calN := l.calN + 1
        calMax := if l.calN < 256 then max l.calMax ((s.cnt + 65536 - payload.toNat % 65536) % 65536) else l.calMax
        peerAddr := BitVec.ofNat 16 (payload.toNat / 2 ^ 48) })))) ∧
    (∀ (payload : U64) (p k : Nat), n < 128 → l.st = .calibrate → l.calDone = false → s.laneOwner n = some p →
      calCheck (s.part p) s.arm.addr.toNat n payload.toNat = some k →
      exec (.calBlock lane payload) s = .next (settleLane n (calFail n k (payload.toNat / 2 ^ 48) s))) ∧
    (∀ (payload : U64) (p : Nat), n < 128 → l.st = .calibrate → s.laneOwner n = some p →
      natBits payload.toNat 43 5 = (s.part p).scope16 / 2048 → payload.extractLsb' 48 16 = s.ident.bic →
      exec (.calbBlock lane payload) s = .next (settleLane n (finishCal n (s.setLane n { l with calbSeen := true, bicOk := true })))) ∧
    (l.st = .calibrate → l.resumeAt = some s.cnt →
      exec (.laneResume lane) s = .next
        (settleLane n (inService n (s.setLane n { l with st := .active, since := s.clk.now, attempts := 0 }))))

/-- Blocks, requests, sleep and injection on a lane (R117, R133, R147, R152, R153, R155): a block is ignored where the receiver is off, checked in
PATTERN, hunted in HUNT and framed at its boundary by a locked receiver, and a control lane takes its ten bits; a request from the peer is followed and acknowledged; an acknowledgement, a
missing one and the START of a change act on the request; a sleeping transmitter falls silent at its step; an injection fires at its step. -/
def Obligations.LaneBlocksComplete : Prop :=
  ∀ (lane : Fin 144) (s : State),
    let n := lane.val
    let l := s.lane n
    let k := linkOf n
    (∀ b : Block, n < 136 → (l.st = .off ∨ l.st = .trainEq ∨ l.st = .recover ∨ l.st = .down) →
      exec (.blockReceived lane b) s = .next (settleLane n s)) ∧
    (∀ b : Block, n < 136 → l.st = .pattern → l.chk ≠ 0 →
      exec (.blockReceived lane b) s = .next (settleLane n (s.setLane n ((bitsMsb 80 b.toNat).foldl (checkBit l.chk.toNat) l)))) ∧
    (∀ b : Block, n < 136 → l.st = .hunt →
      exec (.blockReceived lane b) s = .next (settleLane n (huntBlock n (l.aligned b) (s.setLane n { l with prevBits := b })))) ∧
    (∀ b : Block, n < 136 → (l.st = .linkup ∨ l.st = .calibrate ∨ l.st = .ready ∨ l.st = .active) →
      exec (.blockReceived lane b) s = .next (settleLane n (lockedBlock n (l.aligned b) (s.setLane n { l with prevBits := b })))) ∧
    (∀ b : Block, 136 ≤ n → exec (.blockReceived lane b) s = .next (settleLane n (controlBits n (b.setWidth 10) s))) ∧
    (∀ payload : U64, n < 136 → l.lock = true → payload.toNat / 2 ^ 60 = 1 → natBits payload.toNat 56 4 = 0 → l.st ≠ .active →
      (s.blink k).follow = none → (s.blink k).req = none →
      exec (.lreqBlock lane payload) s = .next (followRequest k n { op := 1, width := 0, lanes := payload.extractLsb' 48 8
                                                                    seq := payload.extractLsb' 32 16, start := nearestStep16 s.cnt (payload.toNat % 65536)
                                                                    tries := 0, acked := true, begun := false, ctx := none } s)) ∧
    (∀ (payload : U64) (r : LinkReq), n < 136 → (s.blink k).req = some r → r.seq = payload.extractLsb' 32 16 → r.acked = false →
      exec (.lackBlock lane payload) s = .next (s.setBlink k { s.blink k with req := some { r with acked := true } })) ∧
    (∀ (link : Fin 17) (r : LinkReq), (s.blink link.val).req = some r → r.acked = false → r.start ≤ s.cnt + 256 → r.tries < 2 →
      exec (.lackTimeout link) s = .next (sendRequest link.val { r with tries := r.tries + 1 } s)) ∧
    (∀ (link : Fin 17) (r : LinkReq), (s.blink link.val).req = some r → r.acked = false → r.start ≤ s.cnt + 256 → 2 ≤ r.tries →
      exec (.lackTimeout link) s = .next (settleLink link.val (restoreLanes link.val (endRequest link.val St.laneNoPeer s)))) ∧
    (∀ (link : Fin 17) (r : LinkReq), (s.blink link.val).req = some r → r.acked = true → r.begun = false → r.start = s.cnt →
      let s1 := applyChangeAt link.val r (s.setBlink link.val { s.blink link.val with req := some { r with begun := true } })
      (s1.blink link.val).follow = none → exec (.laneChangeStart link) s = .next (settleLink link.val s1)) ∧
    (∀ (link : Fin 17) (r : LinkReq), (s.blink link.val).req = none → (s.blink link.val).follow = some r → r.acked = true → r.begun = false →
      r.start = s.cnt → exec (.laneChangeStart link) s = .next (settleLink link.val
        (applyChangeAt link.val r (s.setBlink link.val { s.blink link.val with follow := some { r with begun := true } })))) ∧
    (∀ payload : U64, n < 136 → l.lock = true →
      exec (.sleepBlock lane payload) s = .next (s.setLane n { l with peerSilent := some (nearestStep16 s.cnt (payload.toNat % 65536)) })) ∧
    (l.silentAt = some s.cnt → l.peerSilent = none → l.st ≠ .sleep →
      exec (.sleepSilentStep lane) s = .next (s.setLane n { l with txSleep := true, silentAt := none, st := .sleep, prior := l.st, since := s.clk.now })) ∧
    (l.silentAt = none → l.peerSilent = some s.cnt → l.st ≠ .sleep →
      exec (.sleepSilentStep lane) s = .next (s.setLane n { l with lock := false, st := .peerSleep, since := s.clk.now })) ∧
    (∀ len pos : Nat, l.inject = some (len, pos, some s.cnt) →
      exec (.injectionStepReached lane) s = .next (s.setLane n { l with inject := some (len, pos, none) }))

/-- The pendant link's messages (R281, R298, R299, R301 to R304): an HB gives the latency and the peer's report, and in
pairing the largest latency of 256; a TAG verifies its interval or
drops it; messages and units wait for their TAG; HELLO, KEYCHK and the timeout of the peer carry the pairing on or end it; the HB is sent at
its steps. -/
def Obligations.PendantLinkComplete : Prop :=
  ∀ s : State,
    (∀ payload : U64, s.paired = true → exec (.pendantHb payload) s = .next
      (let lat := (s.cnt + 65536 - payload.toNat / 2 ^ 48) % 65536
       let s2 : State := { s with pend := { s.pend with lat := lat, peerSt := natBits payload.toNat 44 4, peerRole := natBits payload.toNat 42 2
                                                        peerTagOk := natBit payload.toNat 41, hbNew := true } }
       dropSlowLane (if natBit payload.toNat 41 then forget (s.cnt - lat) s2 else resend (s.cnt - lat) s2))) ∧
    (∀ payload : U64, s.pend.st = .pairing → s.pairStepNo = 2 →
      let lat := (s.cnt + 65536 - payload.toNat / 2 ^ 48) % 65536
      let top := max s.pend.latMax lat
      (s.pend.latN < 255 →
        exec (.pendantHb payload) s = .next { s with pend := { s.pend with lat := lat, latN := s.pend.latN + 1, latMax := top } }) ∧
      (255 ≤ s.pend.latN → 36 < top →
        exec (.pendantHb payload) s = .next (failPair St.pairLatency
          { s with pend := { s.pend with lat := top, latN := s.pend.latN + 1, latMax := top } })) ∧
      (255 ≤ s.pend.latN → top ≤ 36 →
        exec (.pendantHb payload) s = .next (goOnPairing (setPairStep 3
          { s with pend := { s.pend with lat := top, latN := s.pend.latN + 1, latMax := top } })))) ∧
    (∀ tag : U64, s.paired = true → s.authOn s.pendantSent = true → exec (.pendantTag tag) s = .next
      (if tag = Config.gmac (s.keys.pairKey.getD 0) (tagIv s.pendantSent (1 - s.side)) s.pend.rxLog then
        tagPasses s.pend.interval { s with pend := { s.pend with rxLog := [], interval := [] } }
       else tagFails { s with pend := { s.pend with rxLog := [], interval := [] } })) ∧
    (∀ words : List U64, s.paired = true → s.authOn s.pendantSent = true →
      exec (.pendantMsg words) s = .next { s with pend := { s.pend with interval := s.pend.interval ++ [(5, words)] } }) ∧
    (∀ words : List U64, s.paired = false → exec (.pendantMsg words) s = .next (takeMessage words s)) ∧
    (∀ (addr : U64) (data : List U64), s.paired = true → s.authOn s.pendantSent = true →
      exec (.xaddrXdata addr data) s = .next { s with pend := { s.pend with interval := s.pend.interval ++ [(6, addr :: data)] } }) ∧
    (∀ payload : U64, exec (.stampBlock payload) s = .next s) ∧
    (∀ bic equiv chain nonce pub sig, s.pend.st = .pairing → (s.pairStepNo = 2 ∨ s.pairStepNo = 3) → s.pend.heard = none →
      exec (.pairHello s.ident.pendSide bic equiv chain nonce pub sig) s = .next (failPair St.pairWiring s)) ∧
    (∀ side equiv chain nonce pub sig, s.pend.st = .pairing → (s.pairStepNo = 2 ∨ s.pairStepNo = 3) → s.pend.heard = none →
      side ≠ s.ident.pendSide →
      exec (.pairHello side s.ident.bic equiv chain nonce pub sig) s = .next
        (let bytes := helloBytes side s.ident.bic equiv chain nonce pub
         if Config.helloOk chain ((if s.ident.pendSide then [] else s.ownHello) ++ bytes) sig then
           (let s2 := derivePair side nonce pub { s with pend := { s.pend with heard := some bytes, pbic := s.ident.bic } }
            if s.pairStepNo = 2 then s2 else if s.ident.pendSide then sendKeychk (sendHello s2) else sendKeychk s2)
         else failPair St.pairAuth (secEvent 4 0xFF 0xFF 0xD 0 0 s))) ∧
    (s.pend.st = .pairing → s.pairStepNo = 5 → exec (.pairKeychk s.pend.keychk) s = .next (formPair s)) ∧
    (∀ v : U64, s.pend.st = .pairing → s.pairStepNo = 5 → v ≠ s.pend.keychk → exec (.pairKeychk v) s = .next (failPair St.pairAuth s)) ∧
    (∀ c o t n, s.pend.pair = some (c, o, t, n) → s.pend.peerMode = none → t + 16000000000 ≤ s.clk.now →
      exec .pairPeerTimeout s = .next (failPair St.laneNoPeer s)) ∧
    (s.pend.st = .pairing → s.clk.pll = true → s.cnt % 4096 = 0 →
      exec .pendantHeartbeatSend s = .next (sendPendant 1 (BitVec.ofNat 64
        (pairCode s.pend.st * 2 ^ 44 + s.pend.role * 2 ^ 42 + bitNat s.pend.tagOk * 2 ^ 41)) s)) ∧
    (s.paired = true → s.clk.pll = true → s.cnt % 65536 = 2048 →
      exec .pendantHeartbeatSend s = .next { s with pend := { s.pend with stampDue := true } })

/-- Resynchronisation and joins (R313 to R316, R318, Tables 14.5 and 14.6): outside LOCKSTEP a carrier that loses its standby or newcomer goes
on in SOLO, and a twin that loses its carrier is fenced or takes over by its side, a newcomer in JOIN fenced for good (what an
INDEPENDENT twin does: log entry 64); the mirror sends its oldest entry, a line, a poisoned line or a commit word; a
complete COPY makes a standby; the join's phases follow one another or fail. -/
def Obligations.ResyncComplete : Prop :=
  ∀ s : State,
    (s.pend.hbAt + 65536 ≤ s.clk.now → (s.pend.st = .standby ∨ s.pend.st = .copy ∨ s.pend.st = .joining) →
      (s.pend.role = 1 → exec .peerLost s = .next (loseStandby s)) ∧
      (s.pend.role ≠ 1 → s.pend.join = none → s.pend.st ≠ .joining → exec .peerLost s = .next (losePeer 4 s)) ∧
      (s.pend.role ≠ 1 → (s.pend.join ≠ none ∨ s.pend.st = .joining) → exec .peerLost s = .next
        (let t := fenceSelf 4 (undoJoin s)
         { t with pend := { t.pend with noTake := true } }))) ∧
    (s.pend.hbAt + 65536 ≤ s.clk.now → s.pend.st = .independent → exec .peerLost s = .next (losePeer 4 s)) ∧
    (s.pend.resync = none → s.pend.join = none →
      loseStandby s = postEvent St.resyncFailed 0xD 0xFF none (zeros 8) (completePendant St.resyncFailed [] (setPair .solo 1 s))) ∧
    (∀ r, s.pend.resync = some r → s.pend.join = none → loseStandby s = failResync 0 .solo s) ∧
    (∀ ph j ref, s.pend.join = some (ph, j, ref) → loseStandby s = failResync ph .solo s) ∧
    (∀ j a rest, s.pend.mirror = (j, a, []) :: rest →
      exec .mirrorSend s = .next (sendUnits (xaddrWord 0 j true (a / 64)) (List.replicate 8 0) { s with pend := { s.pend with mirror := rest } })) ∧
    (∀ j a b rest, s.pend.mirror = (j, a, b) :: rest → b.length = 64 →
      exec .mirrorSend s = .next (sendUnits (xaddrWord 0 j false (a / 64)) (xdataWords b) { s with pend := { s.pend with mirror := rest } })) ∧
    (∀ j a b rest, s.pend.mirror = (j, a, b) :: rest → b ≠ [] → b.length ≠ 64 →
      exec .mirrorSend s = .next (sendUnits (xaddrWord 2 j false a) (xdataWords b) { s with pend := { s.pend with mirror := rest } })) ∧
    (∀ ref, s.pend.resync = some (3, none, ref) → s.pend.role = 1 → s.pend.bulk = [] → s.pend.mirror = [] →
      s.pend.report.loaded = s.ownReport.loaded → s.pend.report.lanesUp = true →
      exec .copyComplete s = .next
        (let s1 := sendMessage msgStandby [] (setPair .standby 1 s)
         { s1 with pend := { s1.pend with resync := none } })) ∧
    (∀ ph j ref, s.pend.join = some (ph, j, ref) → s.pend.role = 1 → ph < 6 →
      exec (.joinPhaseComplete false) s = .next (failResync ph .standby (sendMessage msgFailed [ph] s))) ∧
    (∀ j ref, s.pend.join = some (1, j, ref) → s.pend.role = 1 → s.allPaused = true →
      exec (.joinPhaseComplete true) s = .next { s with pend := { s.pend with join := some (2, (s.part ref).pauseFrame, ref) } }) ∧
    (∀ j ref, s.pend.join = some (2, j, ref) → s.pend.role = 1 → s.allPaused = true → (∀ p ∈ s.executing, s.settled p = true) →
      s.pend.mirror = [] → s.pend.bulk = [] → s.castFree = true →
      exec (.joinPhaseComplete true) s = .next (captureAll (joinPhase 3 s))) ∧
    (∀ j ref, s.pend.join = some (4, j, ref) → s.pend.role = 1 → s.pend.bulk = [] →
      exec (.joinPhaseComplete true) s = .next (sendDigests (joinPhase 5 s))) ∧
    (∀ j ref, s.pend.join = some (5, j, ref) → s.pend.role = 1 → s.verified = true →
      exec (.joinPhaseComplete true) s = .next (resumeJoin s))

/-- DRAM events (R104, R224, R235, R237 to R243): a response reaches its request; a line read corrects or poisons it, and a line beyond the
capacity faults; a merged line is fetched and written back; a migration copies its line, goes on to the next line of its rank, and ends
after the last; a refresh is issued, or postponed up to four intervals while its bank is busy; a hot DIMM halves its interval; the
patrol reads its next line, and ends or begins again after the last. -/
def Obligations.DramEventsComplete : Prop :=
  ∀ s : State,
    (∀ (pcl : Fin 96) (port : Fin 4) (r : Fin 16) (p : Nat) (q : Request), s.partOf pcl.val = some p →
      ((s.part p).reqs.find? fun q => decide (q.pcl = pcl.val) && decide (q.port = port.val) && decide (q.r = r.val) && q.pending) = some q →
      q.tag = none → s.holdsTag q = true →
      exec (.memoryResponse pcl port r) s = .next (takeResponse p pcl.val q (if q.waits then answerLine p (q.paddr / 64) s else s))) ∧
    (∀ (line : Nat) (req : Byte), s.dram.ok = true → line < s.dataLines * 8 →
      (req ≠ 7 → exec (.dramReadComplete line req) s = .next (eccLost (eccRead s line) line)) ∧
      (req = 7 → exec (.dramReadComplete line req) s = .next (eachPart (fun p a => answerLine p line a) s))) ∧
    (∀ (line : Nat) (req : Byte), s.dram.ok = true → s.dataLines * 8 ≤ line → exec (.dramReadComplete line req) s = .fault .noSuchLine) ∧
    (∀ (line : Nat), s.dram.ok = true → s.dataLines * 8 ≤ line → exec (.mergeFetchComplete line) s = .fault .noSuchLine) ∧
    (∀ (line : Nat) (e : MergeLine) (b : List Byte) (t : State), s.dram.ok = true → line < s.dataLines * 8 →
      (s.dram.merge.find? fun e => decide (e.line = line) && !e.fetched) = some e → accessLine { jsid := e.jsid, kix := some e.kix, master := 0x7 } line e.jaddr s = (.data b, t) →
      exec (.mergeFetchComplete line) s = .next (updMerge line (fun m => { m with fetched := true }) t)) ∧
    (∀ e : MergeLine, s.dram.merge.find? (·.fetched) = some e → s.clk.coast = false →
      exec .commitComplete s = .next
        (let data := overlay (s.bytesAtPhys (e.line * 64) 64) e.bytes
         let s1 := storeLine e.jsid e.kix e.line data s
         leaveMerge e.line (if e.bad then poisonLine e.jsid e.kix e.line s
           else if e.joined then mirrorPush e.jsid (e.line * 64) data s1
           else mirrorWords e.jsid e.line e.bytes e.bytes.length s1))) ∧
    (∀ (ch : Fin 8) (m : RankMigr), smGet none s.dram.migr ch.val = some m → m.started = true → s.movesPaused = false →
      m.mark < s.dataLines →
      exec (.rankMigrateLine ch) s = .next
        (let line := chanLine ch.val m.mark
         let s0 := touchRank line (s.dram.ranks - 1) (eccRead s line)
         let s1 := s0.setMeta line { s0.meta line with ecc := 0, poison := (s0.meta line).poison || decide ((s0.meta line).ecc = 2) }
         let next := s.nextOfRank ch.val m.rank (m.mark + 1)
         setProgress 3 ch.val next { s1 with dram := { s1.dram with migr := smSet none s1.dram.migr ch.val (some { m with mark := next }) } })) ∧
    (∀ (ch : Fin 8) (m : RankMigr), smGet none s.dram.migr ch.val = some m → m.started = true → s.dataLines ≤ m.mark →
      exec (.rankMigrateComplete ch) s = .next (m.waits.foldl (fun a l => retireRank l a)
        (endAct 3 ch.val { s with dram := { s.dram with migr := smSet none s.dram.migr ch.val none } }))) ∧
    (∀ (ch : Fin 8) (rank : Fin 4) (bank : Fin 32), s.dram.ok = true → s.dram.selfRefresh = false → rank.val < s.dram.ranks →
      (let k := bankKey ch.val rank.val bank.val
       let b : BankSt := smGet {} s.dram.banks k
       (b.postponed < 4 → exec (.refreshInterval ch rank bank true) s = .next { s with dram := { s.dram with
         banks := smSet {} s.dram.banks k { b with postponed := b.postponed + 1 } } }) ∧
       (4 ≤ b.postponed → exec (.refreshInterval ch rank bank true) s = .next (({ s with dram := { s.dram with
         banks := smSet {} s.dram.banks k { b with postponed := 0, row := none } } } : State).emit (.refresh ch.val rank.val bank.val))) ∧
       exec (.refreshInterval ch rank bank false) s = .next (({ s with dram := { s.dram with
         banks := smSet {} s.dram.banks k { b with postponed := 0, row := none } } } : State).emit (.refresh ch.val rank.val bank.val)))) ∧
    (∀ (ch : Fin 8) (dimm : Fin 2) (t : Nat), exec (.dimmTempRead ch dimm t) s = .next { s with dram := { s.dram with
      hot := smSet false s.dram.hot (ch.val * 2 + dimm.val)
        (if 85 < t then true else if t ≤ 83 then false else smGet false s.dram.hot (ch.val * 2 + dimm.val)) } }) ∧
    (∀ ch : Fin 8, s.dram.ok = true → s.dram.selfRefresh = false → s.channelLines ≠ 0 →
      exec (.dramPatrolLine ch) s = .next
        (let i := smGet 0 s.dram.patrol ch.val
         let line := chanLine ch.val i
         let next := if i + 1 < s.channelLines then i + 1 else 0
         let s1 := if s.migratingRank ch.val = some (s.lineRank line) then s else patrolRead line s
         let s2 : State := { s1 with dram := { s1.dram with patrol := smSet 0 s1.dram.patrol ch.val next } }
         if next = 0 ∧ s2.dram.patrolMask.getLsbD ch.val then patrolEnd ch.val s2 else setProgress 2 ch.val next s2))

/-- The network and forward progress (R21, R99, R284 to R296, R440): a good header that has won its input leaves the neighbour's buffer and
goes into its output buffer, one of this die's agent as it takes its tag and its credits; a bad one is dropped, and one with no room beyond
waits where it is; a consumed packet's words are checked, a good one is delivered, returns its credit and ends its transaction; a lost tag
is counted and acted on; a response packet that stalls holds every partition; a full queue stops a function's fetches; engines and pairs
fail, are restarted, and wait under HOLD. -/
def Obligations.ProgressEventsComplete : Prop :=
  ∀ s : State,
    (∀ (r : Fin 36) (i : Fin 11) (h : NocHeader) (n : Nat), s.nocRuns = true → i.val < 4 → hasNeighbour r.val i.val = true →
      s.granted (neighbourRouter r.val i.val) (oppositePort i.val) h = true →
      let s1 := leaveBuffer (neighbourRouter r.val i.val) (oppositePort i.val) h s
      (hdrBad h = true → exec (.nocHeaderArrival r i h n) s = .next (dropHeader r.val i.val h s1)) ∧
      (hdrBad h = false → s.mayForward r.val h n = true →
        exec (.nocHeaderArrival r i h n) s = .next (forwardHeader r.val i.val h n s1)) ∧
      (hdrBad h = false → s.mayForward r.val h n = false → exec (.nocHeaderArrival r i h n) s = .next s)) ∧
    (∀ (r : Fin 36) (i : Fin 11) (h : NocHeader) (n : Nat), s.nocRuns = true → 4 ≤ i.val →
      (hdrBad h = true → exec (.nocHeaderArrival r i h n) s = .next (dropHeader r.val i.val h s)) ∧
      (hdrBad h = false → s.maySend r.val i.val h = true → s.mayForward r.val h n = true →
        exec (.nocHeaderArrival r i h n) s = .next (forwardHeader r.val i.val h n (sendPacket r.val h s)))) ∧
    (∀ (r : Fin 36) (port : Fin 7) (h : NocHeader) (w : List (BitVec 72 × CheckOutcome)), s.nocRuns = true →
      s.granted r.val (portOf port.val) h = true → atEndpoint r.val port.val h w = true →
      let s1 := leaveBuffer r.val (portOf port.val) h s
      let s2 := (wordsWith .uncorr w).foldl (payloadRecord St.nocUncorr 5 r.val (portOf port.val) h)
        ((wordsWith .single w).foldl (payloadRecord St.nocFix 0 r.val (portOf port.val) h) s1)
      (hdrBad h = true → exec (.nocPacketConsumed r port h w) s = .next (dropHeader r.val (portOf port.val) h s1)) ∧
      (hdrBad h = false → wordsWith .uncorr w ≠ [] → exec (.nocPacketConsumed r port h w) s = .next s2) ∧
      (hdrBad h = false → wordsWith .uncorr w = [] →
        exec (.nocPacketConsumed r port h w) s = .next
          (let s3 := deliverPayload r.val port.val h (w.map (·.1)) (countIn (ejectedAt r.val port.val h) h s2)
           if answers h then nocAnswer h s3 else s3))) ∧
    (∀ (i : Fin 59) (tag : Fin 64) (t : Nat), s.nocRuns = true → smGet 0 s.noc.tags (tagKey i.val tag.val) = t + 1 →
      t + lossTimeout i.val ≤ s.noc.cyc →
      exec (.nocLost i tag) s = .next
        (let k := tagKey i.val tag.val
         let n := smGet 0 s.noc.losses k + 1
         lossAction i.val n tag.val (logRec { cause := St.nocLost, sub := 0xA, sev := if 16 ≤ i.val ∧ i.val < 40 then 2 else 5, detail := i.val + 256 * tag.val }
           (modCtr i.val (fun c => { c with lost := min 65535 (c.lost + 1) }) { s with noc := { s.noc with
             tags := smSet 0 s.noc.tags k 0, losses := smSet 0 s.noc.losses k (if 8 ≤ n then 0 else n)
             e2e := s.noc.e2e.filter fun e => decide (e.1 ≠ k) } })))) ∧
    (∀ (r : Fin 36) (port : Fin 11) (e : NocPacket), s.nocRuns = true → s.noc.stalls.contains (r.val, port.val) = false →
      e ∈ s.waiting r.val port.val 1 → e.since + 65536 ≤ s.noc.cyc →
      exec (.nocStall r port) s = .next
        (let s1 := logRec { cause := St.nocStall, sub := 0xA, sev := 2, loc := nocLoc r.val port.val 1 } s
         holdAll St.nocStall 0 (assertFault St.nocStall { s1 with noc := { s1.noc with stalls := s1.noc.stalls ++ [(r.val, port.val)] } }))) ∧
    (∀ (fn : Fin 16) (ev : Bool) (t : Nat), (s.fn fn.val).full ev = some t → s.fnExists fn.val = true → (s.fn fn.val).enable = true →
      (s.fn fn.val).hostStall = false → t + usSteps 10000 ≤ s.noc.cyc →
      exec (.hostStall fn) s = .next (logRec { cause := St.hostStall, sub := 0xB, sev := 5, loc := fn.val }
        (s.setFn fn.val { s.fn fn.val with hostStall := true }))) ∧
    (∀ pcl : Fin 96, s.clk.halt = none → domCond (.quad ⟨pcl.val / 24, by omega⟩) s = .on →
      exec (.engineWatchdog pcl) s = .next (failEngine pcl.val s)) ∧
    (∀ (pcl : Fin 96), 0 < s.engineBad pcl.val → s.engineBad pcl.val < 4 →
      (s.partOf pcl.val = none → exec (.engineRestarted pcl (smGet 0#384 s.trust.comp engineComp)) s = .next (setEngine pcl.val 0 s)) ∧
      (∀ p, s.partOf pcl.val = some p → exec (.engineRestarted pcl (smGet 0#384 s.trust.comp engineComp)) s = .next
        (resolveHold p St.fwServiceWait pcl.val (resolveHold p St.engineFault pcl.val (setEngine pcl.val 0 s)))) ∧
      (∀ d, d ≠ smGet 0#384 s.trust.comp engineComp → exec (.engineRestarted pcl d) s = .next (engineLost pcl.val (extendMr 7 6 d [] s)))) ∧
    (∀ pair : Fin 2, s.pairReady pair.val = true → exec (.plinthMismatch pair) s = .next (stopPair pair.val St.plinthMismatch s)) ∧
    (∀ (pair : Fin 2), s.pwr.faults.contains (pairFault pair.val) = true → s.plinth.barred.getLsbD pair.val = false →
      exec (.plinthPairReady pair (smGet 0#384 s.trust.comp (2 + pair.val))) s = .next (restartPair pair.val s)) ∧
    (∀ (e : Fin 96) (pair : Fin 2), s.clk.halt = none → s.engineBad e.val = 0 →
      exec (.fwServiceWait (some e) pair) s = .next (setEngine e.val 1 (engineHold e.val St.fwServiceWait s))) ∧
    (∀ pair : Fin 2, s.pairReady pair.val = true → exec (.fwServiceWait none pair) s = .next (stopPair pair.val St.fwServiceWait s))

/-- DMA and key events (R257, R258, R271, R276, R278, R280): an element that ends advances its list or
completes it, and waits for the lines it joined in the merge buffer; a fault suspends the list; a
load's commit makes its slot LOADED; a flushed slot is zeroised; the sweep visits the line at its watermark; the rotation ends. -/
def Obligations.DmaKeyEventsComplete : Prop :=
  ∀ s : State,
    (∀ (eng : Fin 16) (data : List Byte) (l : DmaList) (r : List DmaList), s.lists eng.val = l :: r → l.suspended = false → s.clk.halt = none →
      exec (.dmaElementComplete eng data) s = .next (elementDone eng.val l data s)) ∧
    (∀ (eng : Fin 16) (data : List Byte) (l : DmaList) (r : List DmaList) (e : DmaElem) (t : State), s.lists eng.val = l :: r →
      l.suspended = false → s.clk.halt = none → l.kind = .list → l.elems[l.k]? = some e → l.k + 1 < l.elems.length →
      l.joined = [] → moveElem (s.listAccess l) e data s = (none, t) →
      (t.joinedLines (s.listAccess l) e = [] →
        exec (.dmaElementComplete eng data) s = .next (setHead eng.val { l with k := l.k + 1, done := 0, losses := 0, joined := [] } t)) ∧
      (t.joinedLines (s.listAccess l) e ≠ [] →
        exec (.dmaElementComplete eng data) s = .next (setHead eng.val { l with joined := t.joinedLines (s.listAccess l) e } t))) ∧
    (∀ (eng : Fin 16) (data : List Byte) (hostError : Bool) (l : DmaList) (r : List DmaList), s.lists eng.val = l :: r → l.suspended = false →
      s.clk.halt = none → exec (.dmaElementFault eng data hostError) s = .next (elementFault eng.val l data hostError s)) ∧
    (∀ (eng : Fin 16) (l : DmaList) (r : List DmaList), s.lists eng.val = l :: r → l.suspended = false → l.kind = .list →
      exec (.pcieCompletionTimeout eng) s = .next (faultElement eng.val l [] true s)) ∧
    (∀ (kix : Fin 64) key c, (s.slot kix.val).shadow = some (key, c) →
      exec (.keyLoadCommit kix) s = .next (s.setSlot kix.val { st := .loaded, key := key, shadow := none, ctx := none })) ∧
    (∀ kix : Fin 64, (s.slot kix.val).st = .flushing → s.slotInUse kix.val = false →
      exec (.keyFlushComplete kix) s = .next (completeOpt (s.slot kix.val).ctx St.ok [] (postEvent St.keyRetired 0x9 0xFF none []
        (let t := s.setSlot kix.val {}
         (List.range 16).foldl (fun a j => match a.binding j with
           | some b => if b.kix = kix.val then a.setBinding j none else a
           | none => a) { t with keys := { t.keys with heirs := s.keys.heirs.filter fun h => decide (h.2.1 ≠ kix.val) } })))) ∧
    (∀ (jsid : Fin 16) (b : Binding) k mark ctx a line, s.binding jsid.val = some b → b.rot = some (k, mark, ctx) → s.movesPaused = false →
      s.nextSweep jsid.val mark = some (a, line) →
      exec (.sweepLineVisit jsid) s = .next (setProgress 9 jsid.val (a + 64)
        ((sweepLine jsid.val line a b.kix k s).setBinding jsid.val (some { b with rot := some (k, a + 64, ctx) })))) ∧
    (∀ (jsid : Fin 16) (b : Binding) k mark ctx, s.binding jsid.val = some b → b.rot = some (k, mark, ctx) → s.nextSweep jsid.val mark = none →
      exec (.rotateDone jsid) s = .next (finishRotation jsid.val s))

/-- Maquette and Cast events (R102, R165, R195, R196, R261 to R263, R460, R461): a load that is read is checked and written; a migration's copy
and a region's rewrite are confirmed or given up; a switch's phases follow; a capture begins at its boundary or its edge and ends with
its length; a record is restored. -/
def Obligations.MaquetteEventsComplete : Prop :=
  ∀ (part : Fin 4) (s : State),
    let p := part.val
    let x := s.part p
    (∀ (e : Nat) (l : DmaList) (r : List DmaList) (b : List Byte) (t : State), s.engineOf (.load p) = some e → s.lists e = l :: r →
      x.st = .loading → s.settled p = true → l.kind = .load p → l.suspended = false → s.clk.halt = none →
      readJob (s.listAccess l) x.laddr x.llen s = (b, none, t) →
      exec (.loadComplete part) s = .next
        (let s2 := loadImage p b (dropHead e t)
         if (s2.part p).st = .loaded then switchLoaded p s2 else s2)) ∧
    (∀ (die : Fin 4) (g : Migration), s.migration die.val = some g → g.copied = false → g.switched = false →
      exec (.migrateCopyComplete die true) s = .next (changeReady g.part 0x0404 die.val
        ((copyFromImage g.part g s).setMigration die.val (some { g with copied := true })))) ∧
    (∀ (region : Fin 24) (r : Reconfig) im, (x.reconfig.find? fun r => r.active && r.mask.getLsbD region.val && !r.rewritten.getLsbD region.val) =
      some r → r.image = some im →
      (r.reread.isSome = true →
        (exec (.regionRewriteComplete part region false) s = .next (failReconfig p r.mask.toNat St.imageDigest s)) ∧
        (exec (.regionRewriteComplete part region true) s = .next
          (let s1 := rewriteRegion p region.val im s
           let done := r.rewritten ||| BitVec.ofNat 24 (2 ^ region.val)
           let s2 := s1.setPart p { s1.part p with reconfig := (s1.part p).reconfig.map fun o =>
             if o.mask = r.mask then { o with rewritten := done } else o }
           if done = r.mask then changeReady p 0x0405 (r.mask.toNat + 2 ^ 24) s2 else s2))) ∧
      (∀ ok, r.reread = none → r.unread = true → exec (.regionRewriteComplete part region ok) s = .next (rereadImage p r s))) ∧
    (∀ (w : Switch), x.switch = some w → w.phase = 1 → x.st = .running → x.phase = .paused → x.pausedAt.isSome = true →
      exec (.switchPhaseComplete part) s = .next (setPhase p 2 (phaseEvent p 1 (cancelChanges p St.superseded s)))) ∧
    (∀ (w : Switch), x.switch = some w → w.phase = 5 → x.st = .loaded → exec (.switchPhaseComplete part) s = .next (switchRestore p w s)) ∧
    (∀ (w : Switch), x.switch = some w → w.phase = 7 → x.startAt.isSome = true →
      exec (.switchPhaseComplete part) s = .next (setPhase p 8 (phaseEvent p 7 s))) ∧
    (∀ a : CastAct, x.cast = some a → a.trig1 = false → a.capturing = false → a.placed = true → s.clk.halt = none → x.inFrame = false →
      x.pausedAtFrame a.m = true → s.settled p = true →
      exec (.castCaptureBegin part) s = .next (castReads p (s.setPart p { x with
        cast := some { a with capturing := true, beganAt := s.clk.now }, shadow := some (captureRec 0 p a.m s) }))) ∧
    (∀ a : CastAct, x.cast = some a → a.trig1 = true → a.capturing = false → x.st = .running → x.phase ≠ .stopped → a.step ≤ s.cnt →
      s.risesNow x (s.genWord (castGen x a.gen)) = true →
      exec (.castFabricEdge part) s = .next (s.setPart p { x with
        cast := some { a with capturing := true, beganAt := s.clk.now }, shadow := some (captureRec 1 p x.frame s) })) ∧
    (∀ (a : CastAct) (r : CastRec), x.cast = some a → x.shadow = some r → a.capturing = true → s.clk.halt = none →
      exec (.castCaptureComplete part) s = .next
        (let s2 := endAct 6 p (completeOpt a.ctx St.ok (leBytes 8 r.len) (s.setPart p { x with cast := none, shadow := some r.finish }))
         if a.restart then rootRestart p s2 else s2)) ∧
    (∀ (e : Nat) (l : DmaList) (r : List DmaList) (el : DmaElem) (b : List Byte) (t : State), s.engineOf (.restore p) = some e →
      s.lists e = l :: r → l.kind = .restore p → l.suspended = false → s.clk.halt = none → l.elems = [el] →
      readJob (s.listAccess l) el.src.toNat el.len.toNat s = (b, none, t) →
      exec (.restoreComplete part) s = .next
        (let s2 := dropHead e t
         if castMismatch b (s2.part p) s2 then endRestore p St.castMismatch s2 else endRestore p St.ok (applyRestore p b s2)))

/-- Reliability and fabric events (R67, R178, R192, R420, R424, R425, R427, R434, R445): the Rasp engine of a group takes its slot; the configuration
monitor reads the next frame and corrects or reports it; a recovery reads the image and ends or escalates; a relocation without a spare
reports it; a verified slot is staged or stays; a clock edge reaches the regions of its generator; the bins and the health record are
written. -/
def Obligations.ReliabilityEventsComplete : Prop :=
  ∀ s : State,
    (∀ (pcl : Fin 96) (grp : Fin 16), s.raspOn = true → 12 ≤ grp.val → s.freeFor (s.partOf pcl.val) (·.evalLen) = true →
      exec (.raspSlot pcl grp) s = .next (raspTurn (pcl.val * 16 + grp.val) 512 (raspWords pcl.val grp.val) s)) ∧
    (∀ region : Fin 24, s.fab.configured.getLsbD region.val = true → s.fab.stopped.getLsbD region.val = false → s.stepping = true →
      smGet 0 s.fab.cfgErr (region.val * 1539 + smGet 0 s.fab.monitor region.val) = 0 →
      exec (.configMonitorRead region) s = .next
        (let f := smGet 0 s.fab.monitor region.val
         { s with fab := { s.fab with monitor := smSet 0 s.fab.monitor region.val (if f + 1 < 1539 then f + 1 else 0) } })) ∧
    (∀ (pcl : Fin 96) (grp : Fin 16), s.raspOn = true → 0 < grp.val → grp.val < 12 →
      let n := 12 * pcl.val + grp.val
      let s1 := if s.freeFor (s.partOf pcl.val) (·.evalLen) then raspTurn (pcl.val * 16 + grp.val) 512 (raspWords pcl.val grp.val) s
        else if s.partOf pcl.val = none then raspGone (pcl.val * 16 + grp.val) s else s
      (s.partOfDie (n / 288) = none → exec (.raspSlot pcl grp) s = .next s1) ∧
      (∀ q, s.partOfDie (n / 288) = some q →
        ((s.frameRuns q && decide (s.relStep q % 4 = 0) && s.scheduled n) = true → exec (.raspSlot pcl grp) s = .next s1) ∧
        ((s.frameRuns q && decide (s.relStep q % 4 = 0) && s.scheduled n) = false → exec (.raspSlot pcl grp) s = .next
          (raspTurn (3000 + n) 512 (fun j => raspRange uopCode (n * 1024 + j) 1) s1)))) ∧
    (∀ region : Fin 24, s.fab.configured.getLsbD region.val = true → s.fab.stopped.getLsbD region.val = false → s.stepping = true →
      smGet 0 s.fab.cfgErr (region.val * 1539 + smGet 0 s.fab.monitor region.val) = 1 →
      exec (.configMonitorRead region) s = .next
        (let f := smGet 0 s.fab.monitor region.val
         let s1 : State := { s with fab := { s.fab with monitor := smSet 0 s.fab.monitor region.val (if f + 1 < 1539 then f + 1 else 0) } }
         noteFix region.val f (logRec { cause := St.fabricCfgFix, sub := 0x5, sev := 0, part := (s.partOfDie (region.val / 6)).getD 0xFF
                                        loc := fabLoc region.val f }
           (bump 0x5 region.val 1 { s1 with fab := { s1.fab with cfgErr := smSet 0 s1.fab.cfgErr (region.val * 1539 + f) 0 } })))) ∧
    (∀ region : Fin 24, s.fab.configured.getLsbD region.val = true → s.fab.stopped.getLsbD region.val = false → s.stepping = true →
      smGet 0 s.fab.cfgErr (region.val * 1539 + smGet 0 s.fab.monitor region.val) = 2 →
      exec (.configMonitorRead region) s = .next
        (let f := smGet 0 s.fab.monitor region.val
         fabricLost region.val f
           { s with fab := { s.fab with monitor := smSet 0 s.fab.monitor region.val (if f + 1 < 1539 then f + 1 else 0) } })) ∧
    (∀ (part : Fin 4) (code key stage : Nat) (b : List Byte) (t : State), s.nextRecovery part.val = some (code, key, stage) → code ≠ thrRegCode → stage ≠ 3 →
      (s.part part.val).st ≠ .empty → s.freeStore part.val code key = true →
      readJob (s.access (s.part part.val).jsid dmaMaster) (s.part part.val).laddr (s.part part.val).llen s = (b, none, t) →
      exec (.recoveryReadback part true) s = .next (endRecovery part.val code key (rewriteFrom part.val b code
        (if stage = 1 then (key, 1) else rowSpan code key).1 (if stage = 1 then (key, 1) else rowSpan code key).2 t)) ∧
      exec (.recoveryReadback part false) s = .next (escalate part.val code key stage t)) ∧
    (∀ (part : Fin 4) (code key pt src l : Nat) (k : FrameNo) (tv : Nat),
      (s.arr.recovery.find? fun r => decide (r.2.2.2 = part.val) && decide (r.2.2.1 = 3)) = some (code, key, 3, pt) →
      (s.part part.val).heldFrame = some (k, tv) → clusterOfKey code key = some src → (s.part part.val).lclOf src = some l →
      (relocTarget part.val (src / 24) s = none →
        exec (.recoveryRelocation part) s = .next (partEvent St.migrateFailed 0x2 part.val (migrateFailedData l 0xFF St.noSpare)
          (setRecovery part.val code key 4 s))) ∧
      (∀ g u, relocTarget part.val (src / 24) s = some (g, u) → s.migration (src / 24) = none →
        exec (.recoveryRelocation part) s = .next (relocate part.val src l g u k s))) ∧
    (∀ (image : SlotImage) (ok : Bool) (c : CmdCtx) (total : Nat) (st : Nat), s.fw.verify = some (c, total) →
      verifyStatus s total image ok = some st →
      exec (.fwVerifyComplete image ok) s = .next (reply c 0x0C04 st [] { s with fw := { s.fw with verify := none } })) ∧
    (∀ (image : SlotImage) (ok : Bool) (c : CmdCtx) (total : Nat), s.fw.verify = some (c, total) → verifyStatus s total image ok = none →
      exec (.fwVerifyComplete image ok) s = .next (reply c 0x0C04 St.ok (leBytes 4 image.ver.toNat)
        { s with fw := (({ s.fw with verify := none } : Firmware).setSpare 2).setSpareVer image.ver })) ∧
    (∀ (gen : Gen) (pins : IoPins) (p : Nat), s.partOfDie (genDie gen) = some p → s.risesNow (s.part p) (s.genWord gen) = true →
      exec (.fabricClockEdge gen pins) s = .next ((genRegions gen).foldl (fun a r => regionEdge p (genSel gen) pins a r) s)) ∧
    (∀ reading : Nat,
      (let t : State := { s with pwr := { s.pwr with bins := (List.range 6).map fun j => s.binSecs j + bitNat (decide (j = lifeBin reading)) } }
       ((t.lifeUsed < 900000 ∨ s.pwr.lifeDone = true) → exec (.lifeBinSample reading) s = .next t) ∧
       (900000 ≤ t.lifeUsed → s.pwr.lifeDone = false → exec (.lifeBinSample reading) s = .next
         (logRec { cause := St.unitCandidate, sub := 0xF, sev := 5, loc := 0 } { t with pwr := { t.pwr with lifeDone := true } })))) ∧
    (exec .healthRecordWrite s = .next (writeHealth s))

/-- The gate of Command Reference (R334, R341, R343, R449, Table 16.1) is one for every opcode: while the Plinth runs the opcode and no command in
execution or accepted before it blocks it, a command that the gate refuses is answered with the gate's status and no data, and nothing else executes. -/
def Obligations.GateRefusesEveryOpcode : Prop :=
  ∀ (i : Instr) (c : CmdCtx) (op st : Nat) (s : State), instrHead i = some (c, op) → s.runs op = true → s.unblocked c = true →
    gate (classOf op) op c s = some st → exec i s = .next (reply c op st [] (takeAccepted c s))

/-- In Idle and Sleep an opcode outside the groups that R343 lists is answered WRONG_STATE (R343). -/
def Obligations.OnlyListedGroupsOutsideRun : Prop :=
  ∀ (i : Instr) (c : CmdCtx) (op : Nat) (s : State), instrHead i = some (c, op) → s.runs op = true → s.unblocked c = true →
    (s.pwr.st = .idle ∨ s.pwr.st = .sleep) → ¬ op / 256 ∈ [0x01, 0x02, 0x0B, 0x0E, 0x0F] → op ∉ [0x0C01, 0x0C02, 0x0C07, 0x0706] →
    exec i s = .next (reply c op St.wrongState [] (takeAccepted c s))

/-- Source classes (R341, R334, R322, Table 16.1): in Run, outside recovery, a virtual function is answered JS_DENIED to opcodes of classes P
and H; the debug port below Full DBG_DENIED to every opcode outside groups 0x01 and 0x0E; a source other than a current control link
PATH_DENIED to ARM.PROBE and ARM.ASSIGN; a source other than the debug port DBG_DENIED to DBG.HALT, DBG.RUN and DBG.ACCESS. -/
def Obligations.SourceClassesRefuse : Prop :=
  ∀ (i : Instr) (c : CmdCtx) (op : Nat) (s : State), instrHead i = some (c, op) → s.runs op = true → s.pwr.st = .run →
    s.plinth.recovery = false → s.unblocked c = true →
    (1 ≤ c.src.toNat → c.src.toNat < 16 → (classOf op = .p ∨ classOf op = .h) →
      exec i s = .next (reply c op St.jsDenied [] (takeAccepted c s))) ∧
    (c.src.toNat = 0x18 → s.dbg.level ≠ 2 → op / 256 ≠ 0x01 → op / 256 ≠ 0x0E →
      exec i s = .next (reply c op St.dbgDenied [] (takeAccepted c s))) ∧
    (c.src.toNat < 16 → (op = 0x0F01 ∨ op = 0x0F02) → exec i s = .next (reply c op St.pathDenied [] (takeAccepted c s))) ∧
    (c.src.toNat ≠ 0x18 → (op = 0x0D01 ∨ op = 0x0D02 ∨ op = 0x0D03) → exec i s = .next (reply c op St.dbgDenied [] (takeAccepted c s)))

/-- An unassigned device serves no opcode but the link-local ones (R363, R322). -/
def Obligations.UnassignedServesOnlyLinkLocal : Prop :=
  ∀ (i : Instr) (c : CmdCtx) (op : Nat) (s : State), instrHead i = some (c, op) → s.runs op = true → s.pwr.st = .run →
    s.plinth.recovery = false → s.unblocked c = true → s.arm.assigned = false → op ≠ 0x0F01 → op ≠ 0x0F02 →
    classRefusal (classOf op) op c.src.toNat s = none → exec i s = .next (reply c op St.wrongState [] (takeAccepted c s))

/-- While pair 0 is not ready, or the device is in Watch, Deep sleep or Off, an opcode waits where it is: it changes nothing (R343, R21). So
does one that pair 1 runs while pair 1 is stopped: the model's choice (log entry 53). -/
def Obligations.CommandsWaitWhileNotTaken : Prop :=
  ∀ (i : Instr) (c : CmdCtx) (op : Nat) (s : State), instrHead i = some (c, op) →
    (s.plinth.ready0 = false ∨ s.pwr.st = .deep ∨ s.pwr.st = .watch ∨ s.pwr.st = .off ∨ (s.plinth.ready1 = false ∧ pairOneRuns op = true)) → exec i s = .next s

/-- The 33rd deferred command of a source is answered CMD_BUSY (R336). -/
def Obligations.DeferredLimit : Prop :=
  ∀ (i : Instr) (c : CmdCtx) (op : Nat) (s : State), instrHead i = some (c, op) → deferredRow op = true → s.runs op = true →
    s.unblocked c = true → gate (classOf op) op c s = none → 32 ≤ s.deferredOf c.src →
    exec i s = .next (reply c op St.cmdBusy [] (takeAccepted c s))

/-- A step with a command at the front of the queue is that command's execution with the queue's rest. -/
def Obligations.FrontCommandRuns : Prop :=
  ∀ (c : Instr) (rest : List Instr) (s : State), step { s with pending := c :: rest } = exec c { s with pending := rest }

/-- With no command waiting and none accepted, a step is one period of the step clock: the model's choice (log entry 7). -/
def Obligations.EmptyQueueStep : Prop :=
  ∀ s : State, s.pending = [] → (s.executes = false ∨ s.plinth.accepted = []) → step s = .next (passStep s)

/-- What reset leaves (R478), of what the spec gives a value: nothing is pending, accepted or open; pairs 0 and 1 are not ready (R21) and
RSTCAUSE is power-on (Table 23.4); the device is unassigned at address 0 and level 0 (R363); the step counter is 0 and unassigned (R384)
and the corrections of R399 are 0; the rings of every function are disabled and empty, its interrupts masked, INT_MOD is COUNT 1 and
DELAY 0 (Table 23.3), and its EVSEQ is 0 (Table 15.3); ACCSEQ (R328) and LSEQ (R256) are 0; the error and security logs are empty with SEQ 0 (R429,
R275) and the fault records likewise (R253); there is no translation pool (R246); every measurement register is 0 (R438); the debug
port stands at None with IDCODE selected (R450, R452); OBSOPEN is 0 and not locked (R477); every partition is EMPTY and every key slot
EMPTY (R166, R269). -/
def Obligations.ResetLeaves : Prop :=
  let s := State.reset
  (s.pending = [] ∧ s.plinth.accepted = [] ∧ s.plinth.deferred = [] ∧ s.plinth.open_ = [] ∧ s.plinth.accSeq = 0) ∧
  (s.plinth.ready0 = false ∧ s.plinth.ready1 = false ∧ s.plinth.rstCause = 1) ∧
  (s.arm.assigned = false ∧ s.arm.addr = 0 ∧ s.arm.level = 0 ∧ s.arm.vfEnable = false ∧ s.arm.obsOpen = false ∧ s.arm.obsLocked = false) ∧
  (s.clk.count = 0 ∧ s.clk.counterOk = false ∧ s.clk.d0 = 0 ∧ s.clk.d1 = 0 ∧ s.clk.d2 = 0 ∧ s.clk.d3 = 0) ∧
  (∀ n, (s.fn n).enable = false ∧ (s.fn n).qactive = false ∧ (s.fn n).cmd = {} ∧ (s.fn n).rpl = {} ∧ (s.fn n).evt = {} ∧
    (s.fn n).intStatus = 0 ∧ (s.fn n).intMask = 0xF ∧ (s.fn n).modCount = 1 ∧ (s.fn n).modDelay = 0 ∧ (s.fn n).evSeq = 0) ∧
  (s.lseq = 0 ∧ s.logs.recs = [] ∧ s.logs.seq = 0 ∧ s.logs.sec = [] ∧ s.logs.secSeq = 0 ∧ s.trans.faults = [] ∧ s.trans.pool = none) ∧
  ((∀ n, smGet 0#384 s.trust.mr n = 0) ∧ s.dbg.level = 0 ∧ s.dbg.ir = 0x02 ∧ (∀ p, (s.part p).st = .empty) ∧ ∀ k, (s.slot k).st = .empty)

/-- The bounds hold at reset. -/
def Obligations.ResetIsBounded : Prop := State.reset.Bounded

/-- Every step keeps the bounds (R429, R275, R439), whatever it does: DRAM stays in its canonical form, the error log within 8,192
records, the security log within 256 and the measurement log within 65,536 bytes. -/
def Obligations.StepKeepsBounds : Prop := ∀ s t : State, s.Bounded → step s = .next t → t.Bounded

/-- No command's own effect touches the queue of waiting commands, and none changes the BIC that the stepping carries (R2). -/
def Obligations.QueueAndBuildCodeStand : Prop :=
  ∀ (i : Instr) (s t : State), exec i s = .next t → t.pending = s.pending ∧ t.ident.bic = s.ident.bic

/-- Every command completes in every state, but for one that names a DRAM line at or beyond the installed capacity (R233): DRAM_READ_COMPLETE
and MERGE_FETCH_COMPLETE of such a line fault. No command is refused. -/
def Obligations.CommandsNeverRefuse : Prop :=
  ∀ (i : Instr) (s : State), (∃ t, exec i s = .next t) ∨
    (exec i s = .fault .noSuchLine ∧ ∃ line, s.dataLines * 8 ≤ line ∧ (i = .mergeFetchComplete line ∨ ∃ req, i = .dramReadComplete line req))

/-- A command that stores nothing leaves every byte of DRAM as it was: all but sixteen rows, in every form. -/
def Obligations.NothingElseStores : Prop :=
  ∀ (i : Instr) (s t : State), storesDram i = false → exec i s = .next t → ∀ a, t.byteAt a = s.byteAt a

/-- COMMIT_COMPLETE (R224, R239, R391) writes back the first fetched line of the merge buffer: within the line a good entry's bytes stand over what
was there, an entry whose line was bad changes no byte, and outside the line every byte is as it was. While the device coasts it changes nothing. -/
def Obligations.CommitStoresItsLine : Prop :=
  ∀ (s : State) (e : MergeLine), Memory.wf s.dram.mem = true → s.dram.merge.find? (·.fetched) = some e →
    (s.clk.coast = true → exec .commitComplete s = .next s) ∧
    (s.clk.coast = false → ∃ t, exec .commitComplete s = .next t ∧ (∀ a, a / 64 ≠ e.line → t.byteAt a = s.byteAt a) ∧
      (e.bad = true → ∀ a, t.byteAt a = s.byteAt a) ∧
      (e.bad = false → ∀ i < 64, t.byteAt (e.line * 64 + i) = (overlay (s.bytesAtPhys (e.line * 64) 64) e.bytes).getD i 0))

/-- The rows that report only report: whatever they answer, they change nothing but the commands in execution, the rings and backlogs of
the functions, the debug port's packet buffer and what leaves the block. TRANS.WALK (Table 16.6) changes besides only what reading the table's
lines changes (R248). -/
def Obligations.ReportsChangeNothing : Prop :=
  ∀ (i : Instr) (s t : State), exec i s = .next t →
    (onlyReports i = true → t = { s with plinth := t.plinth, fns := t.fns, dbg := t.dbg, out := t.out }) ∧
    ∀ (c : CmdCtx) (jsid : Byte) (rsvd : BitVec 56) (jaddr : U64), i = .transWalk c jsid rsvd jaddr →
      ∃ u, (u = s ∨ u = walkRead jsid.toNat 0x8 jaddr.toNat (takeAccepted c s)) ∧
        t = { u with plinth := t.plinth, fns := t.fns, dbg := t.dbg, out := t.out }

/-- The registers of a function page (R470 to R474, R469): CTRL, the interrupts, the readouts and D3hot change only their own function, what
leaves the block, and the condition of the endpoint's domain (R407); the ring indexes may also post DOORBELL_BAD (R472). -/
def Obligations.FunctionPageFrame : Prop :=
  ∀ (i : Instr) (s t : State), exec i s = .next t →
    (∀ n, ownPageRow i = some n → t = { s with fns := t.fns, out := t.out, pwr := t.pwr } ∧ ∀ m, m ≠ n → t.fn m = s.fn m) ∧
    ((∃ fn v, i = .cmdDbWrite fn v ∨ i = .rplHeadWrite fn v ∨ i = .evtHeadWrite fn v) →
      t = { s with fns := t.fns, links := t.links, logs := t.logs, out := t.out, pwr := t.pwr })

/-- The debug port's buffers, terminal, challenges and TAP change nothing outside the port but what leaves the block and the free values
drawn (R450 to R455). -/
def Obligations.DebugPortFrame : Prop :=
  ∀ (i : Instr) (s t : State), debugPortRow i = true → exec i s = .next t → t = { s with dbg := t.dbg, out := t.out, free := t.free }

/-- No PCI Express reset alters partitions, translations, keys, DRAM or the frame of any partition (R478): a function level reset of any
function, and a conventional reset. Of the translation state only fault records clear, as DMA.ABORT clears them. -/
def Obligations.PciExpressResetsAlterNoRun : Prop :=
  ∀ (i : Instr) (s t : State), (i = .flrPf ∨ i = .pcieConventionalReset ∨ ∃ fn, i = .flrVf fn) → exec i s = .next t →
    t.parts = s.parts ∧ t.keys = s.keys ∧ t.dram = s.dram ∧ t.trans = { s.trans with faults := t.trans.faults } ∧ t.arr = s.arr ∧ t.fab = s.fab

/-- R57: the result of an executing word is TT[i], i = 8 × D + 4 × C + 2 × B + A, with the bits read through operand fields A to D. -/
def Obligations.WordResultIsTruthTable : Prop :=
  ∀ (s : State) (x : Partition) (pcl grp k : Nat) (w : BitVec 96), (wordCtl w).getLsbD 0 = true →
    wordResult s x pcl grp k w = (wordTT w).getLsbD (8 * bitNat (readBit s x pcl grp k (wordOp w 3)) + 4 * bitNat (readBit s x pcl grp k (wordOp w 2)) +
      2 * bitNat (readBit s x pcl grp k (wordOp w 1)) + bitNat (readBit s x pcl grp k (wordOp w 0)))

/-- R471: the base and size registers of a ring accept writes only while ENABLE is 0; a write made while ENABLE is 1 is ignored. -/
def Obligations.RingRegistersNeedEnableClear : Prop :=
  ∀ (fn : Fin 16) (off : U16) (v : U32) (s : State), s.reaches fn.val = true →
    off.toNat ∈ [0x100, 0x104, 0x108, 0x120, 0x124, 0x128, 0x140, 0x144, 0x148] →
    (let f := s.fn fn.val
     let s1 := touchDomain .base s
     (f.enable = true → exec (.registerWrite fn false off v 0xF#4) s = .next (s1.setFn fn.val f)) ∧
     (f.enable = false →
       let wr := fun (r : RingRegs) (k : Nat) => if k = 0 then { r with base := BitVec.ofNat 64 (r.base.toNat / 2 ^ 32 * 2 ^ 32 + v.toNat / 4096 * 4096) }
         else if k = 4 then { r with base := BitVec.ofNat 64 (v.toNat * 2 ^ 32 + r.base.toNat % 2 ^ 32) } else { r with log2 := v.setWidth 5 }
       exec (.registerWrite fn false off v 0xF#4) s = .next (s1.setFn fn.val
         (if off.toNat < 0x120 then { f with cmd := wr f.cmd (off.toNat - 0x100) }
          else if off.toNat < 0x140 then { f with rpl := wr f.rpl (off.toNat - 0x120) }
          else { f with evt := wr f.evt (off.toNat - 0x140) }))))

/-- R477: the first write to DBG_POLICY sets OBSOPEN and locks it, so that later ones change nothing; until then OBSOPEN is 0, as reset leaves it,
and AUTH command 0x01 sets ERR and grants nothing. -/
def Obligations.DebugPolicyLocks : Prop :=
  State.reset.arm.obsOpen = false ∧ State.reset.arm.obsLocked = false ∧
  ∀ (v : U32) (s : State), s.reaches 0 = true →
    (let s1 := touchDomain .base s
     (s.arm.obsLocked = false →
       exec (.dbgPolicyWrite v) s = .next { s1 with arm := { s.arm with obsOpen := v.getLsbD 0, obsLocked := true } }) ∧
     (s.arm.obsLocked = true → exec (.dbgPolicyWrite v) s = .next s1)) ∧
    (s.dbgOn = true → s.dbg.busyUntil ≤ s.clk.now → s.arm.obsOpen = false → ∃ t, exec .authObserve s = .next t ∧ t.dbg.err = true ∧ t.dbg.level = s.dbg.level)
end

