-- ==== Sys2Proof/Laws/State.lean ====
section
/-!
SUPPORT. State.lean (laws): one lemma per field per update: what an update of one part of the state leaves as it was.
-/
namespace Sys2Proof.Machine

@[simp] theorem setLink_ident (s : State) (n : Nat) (l : CtlLink) : (s.setLink n l).ident = s.ident := rfl
@[simp] theorem setLink_pwr (s : State) (n : Nat) (l : CtlLink) : (s.setLink n l).pwr = s.pwr := rfl
@[simp] theorem setLink_clk (s : State) (n : Nat) (l : CtlLink) : (s.setLink n l).clk = s.clk := rfl
@[simp] theorem setLink_plinth (s : State) (n : Nat) (l : CtlLink) : (s.setLink n l).plinth = s.plinth := rfl
@[simp] theorem setLink_fns (s : State) (n : Nat) (l : CtlLink) : (s.setLink n l).fns = s.fns := rfl
@[simp] theorem setLink_dbg (s : State) (n : Nat) (l : CtlLink) : (s.setLink n l).dbg = s.dbg := rfl
@[simp] theorem setLink_arm (s : State) (n : Nat) (l : CtlLink) : (s.setLink n l).arm = s.arm := rfl
@[simp] theorem setLink_lanes (s : State) (n : Nat) (l : CtlLink) : (s.setLink n l).lanes = s.lanes := rfl
@[simp] theorem setLink_blinks (s : State) (n : Nat) (l : CtlLink) : (s.setLink n l).blinks = s.blinks := rfl
@[simp] theorem setLink_parts (s : State) (n : Nat) (l : CtlLink) : (s.setLink n l).parts = s.parts := rfl
@[simp] theorem setLink_arr (s : State) (n : Nat) (l : CtlLink) : (s.setLink n l).arr = s.arr := rfl
@[simp] theorem setLink_fab (s : State) (n : Nat) (l : CtlLink) : (s.setLink n l).fab = s.fab := rfl
@[simp] theorem setLink_dram (s : State) (n : Nat) (l : CtlLink) : (s.setLink n l).dram = s.dram := rfl
@[simp] theorem setLink_trans (s : State) (n : Nat) (l : CtlLink) : (s.setLink n l).trans = s.trans := rfl
@[simp] theorem setLink_dma (s : State) (n : Nat) (l : CtlLink) : (s.setLink n l).dma = s.dma := rfl
@[simp] theorem setLink_lseq (s : State) (n : Nat) (l : CtlLink) : (s.setLink n l).lseq = s.lseq := rfl
@[simp] theorem setLink_keys (s : State) (n : Nat) (l : CtlLink) : (s.setLink n l).keys = s.keys := rfl
@[simp] theorem setLink_noc (s : State) (n : Nat) (l : CtlLink) : (s.setLink n l).noc = s.noc := rfl
@[simp] theorem setLink_pend (s : State) (n : Nat) (l : CtlLink) : (s.setLink n l).pend = s.pend := rfl
@[simp] theorem setLink_maint (s : State) (n : Nat) (l : CtlLink) : (s.setLink n l).maint = s.maint := rfl
@[simp] theorem setLink_logs (s : State) (n : Nat) (l : CtlLink) : (s.setLink n l).logs = s.logs := rfl
@[simp] theorem setLink_trust (s : State) (n : Nat) (l : CtlLink) : (s.setLink n l).trust = s.trust := rfl
@[simp] theorem setLink_fw (s : State) (n : Nat) (l : CtlLink) : (s.setLink n l).fw = s.fw := rfl
@[simp] theorem setLink_health (s : State) (n : Nat) (l : CtlLink) : (s.setLink n l).health = s.health := rfl
@[simp] theorem setLink_out (s : State) (n : Nat) (l : CtlLink) : (s.setLink n l).out = s.out := rfl
@[simp] theorem setLink_queued (s : State) (n : Nat) (l : CtlLink) : (s.setLink n l).queued = s.queued := rfl
@[simp] theorem setLink_free (s : State) (n : Nat) (l : CtlLink) : (s.setLink n l).free = s.free := rfl
@[simp] theorem setLink_pending (s : State) (n : Nat) (l : CtlLink) : (s.setLink n l).pending = s.pending := rfl

@[simp] theorem setLane_ident (s : State) (n : Nat) (l : Lane) : (s.setLane n l).ident = s.ident := rfl
@[simp] theorem setLane_pwr (s : State) (n : Nat) (l : Lane) : (s.setLane n l).pwr = s.pwr := rfl
@[simp] theorem setLane_clk (s : State) (n : Nat) (l : Lane) : (s.setLane n l).clk = s.clk := rfl
@[simp] theorem setLane_plinth (s : State) (n : Nat) (l : Lane) : (s.setLane n l).plinth = s.plinth := rfl
@[simp] theorem setLane_fns (s : State) (n : Nat) (l : Lane) : (s.setLane n l).fns = s.fns := rfl
@[simp] theorem setLane_dbg (s : State) (n : Nat) (l : Lane) : (s.setLane n l).dbg = s.dbg := rfl
@[simp] theorem setLane_arm (s : State) (n : Nat) (l : Lane) : (s.setLane n l).arm = s.arm := rfl
@[simp] theorem setLane_links (s : State) (n : Nat) (l : Lane) : (s.setLane n l).links = s.links := rfl
@[simp] theorem setLane_blinks (s : State) (n : Nat) (l : Lane) : (s.setLane n l).blinks = s.blinks := rfl
@[simp] theorem setLane_parts (s : State) (n : Nat) (l : Lane) : (s.setLane n l).parts = s.parts := rfl
@[simp] theorem setLane_arr (s : State) (n : Nat) (l : Lane) : (s.setLane n l).arr = s.arr := rfl
@[simp] theorem setLane_fab (s : State) (n : Nat) (l : Lane) : (s.setLane n l).fab = s.fab := rfl
@[simp] theorem setLane_dram (s : State) (n : Nat) (l : Lane) : (s.setLane n l).dram = s.dram := rfl
@[simp] theorem setLane_trans (s : State) (n : Nat) (l : Lane) : (s.setLane n l).trans = s.trans := rfl
@[simp] theorem setLane_dma (s : State) (n : Nat) (l : Lane) : (s.setLane n l).dma = s.dma := rfl
@[simp] theorem setLane_lseq (s : State) (n : Nat) (l : Lane) : (s.setLane n l).lseq = s.lseq := rfl
@[simp] theorem setLane_keys (s : State) (n : Nat) (l : Lane) : (s.setLane n l).keys = s.keys := rfl
@[simp] theorem setLane_noc (s : State) (n : Nat) (l : Lane) : (s.setLane n l).noc = s.noc := rfl
@[simp] theorem setLane_pend (s : State) (n : Nat) (l : Lane) : (s.setLane n l).pend = s.pend := rfl
@[simp] theorem setLane_maint (s : State) (n : Nat) (l : Lane) : (s.setLane n l).maint = s.maint := rfl
@[simp] theorem setLane_logs (s : State) (n : Nat) (l : Lane) : (s.setLane n l).logs = s.logs := rfl
@[simp] theorem setLane_trust (s : State) (n : Nat) (l : Lane) : (s.setLane n l).trust = s.trust := rfl
@[simp] theorem setLane_fw (s : State) (n : Nat) (l : Lane) : (s.setLane n l).fw = s.fw := rfl
@[simp] theorem setLane_health (s : State) (n : Nat) (l : Lane) : (s.setLane n l).health = s.health := rfl
@[simp] theorem setLane_out (s : State) (n : Nat) (l : Lane) : (s.setLane n l).out = s.out := rfl
@[simp] theorem setLane_queued (s : State) (n : Nat) (l : Lane) : (s.setLane n l).queued = s.queued := rfl
@[simp] theorem setLane_free (s : State) (n : Nat) (l : Lane) : (s.setLane n l).free = s.free := rfl
@[simp] theorem setLane_pending (s : State) (n : Nat) (l : Lane) : (s.setLane n l).pending = s.pending := rfl

@[simp] theorem setBlink_ident (s : State) (n : Nat) (l : BlockLink) : (s.setBlink n l).ident = s.ident := rfl
@[simp] theorem setBlink_pwr (s : State) (n : Nat) (l : BlockLink) : (s.setBlink n l).pwr = s.pwr := rfl
@[simp] theorem setBlink_clk (s : State) (n : Nat) (l : BlockLink) : (s.setBlink n l).clk = s.clk := rfl
@[simp] theorem setBlink_plinth (s : State) (n : Nat) (l : BlockLink) : (s.setBlink n l).plinth = s.plinth := rfl
@[simp] theorem setBlink_fns (s : State) (n : Nat) (l : BlockLink) : (s.setBlink n l).fns = s.fns := rfl
@[simp] theorem setBlink_dbg (s : State) (n : Nat) (l : BlockLink) : (s.setBlink n l).dbg = s.dbg := rfl
@[simp] theorem setBlink_arm (s : State) (n : Nat) (l : BlockLink) : (s.setBlink n l).arm = s.arm := rfl
@[simp] theorem setBlink_links (s : State) (n : Nat) (l : BlockLink) : (s.setBlink n l).links = s.links := rfl
@[simp] theorem setBlink_lanes (s : State) (n : Nat) (l : BlockLink) : (s.setBlink n l).lanes = s.lanes := rfl
@[simp] theorem setBlink_parts (s : State) (n : Nat) (l : BlockLink) : (s.setBlink n l).parts = s.parts := rfl
@[simp] theorem setBlink_arr (s : State) (n : Nat) (l : BlockLink) : (s.setBlink n l).arr = s.arr := rfl
@[simp] theorem setBlink_fab (s : State) (n : Nat) (l : BlockLink) : (s.setBlink n l).fab = s.fab := rfl
@[simp] theorem setBlink_dram (s : State) (n : Nat) (l : BlockLink) : (s.setBlink n l).dram = s.dram := rfl
@[simp] theorem setBlink_trans (s : State) (n : Nat) (l : BlockLink) : (s.setBlink n l).trans = s.trans := rfl
@[simp] theorem setBlink_dma (s : State) (n : Nat) (l : BlockLink) : (s.setBlink n l).dma = s.dma := rfl
@[simp] theorem setBlink_lseq (s : State) (n : Nat) (l : BlockLink) : (s.setBlink n l).lseq = s.lseq := rfl
@[simp] theorem setBlink_keys (s : State) (n : Nat) (l : BlockLink) : (s.setBlink n l).keys = s.keys := rfl
@[simp] theorem setBlink_noc (s : State) (n : Nat) (l : BlockLink) : (s.setBlink n l).noc = s.noc := rfl
@[simp] theorem setBlink_pend (s : State) (n : Nat) (l : BlockLink) : (s.setBlink n l).pend = s.pend := rfl
@[simp] theorem setBlink_maint (s : State) (n : Nat) (l : BlockLink) : (s.setBlink n l).maint = s.maint := rfl
@[simp] theorem setBlink_logs (s : State) (n : Nat) (l : BlockLink) : (s.setBlink n l).logs = s.logs := rfl
@[simp] theorem setBlink_trust (s : State) (n : Nat) (l : BlockLink) : (s.setBlink n l).trust = s.trust := rfl
@[simp] theorem setBlink_fw (s : State) (n : Nat) (l : BlockLink) : (s.setBlink n l).fw = s.fw := rfl
@[simp] theorem setBlink_health (s : State) (n : Nat) (l : BlockLink) : (s.setBlink n l).health = s.health := rfl
@[simp] theorem setBlink_out (s : State) (n : Nat) (l : BlockLink) : (s.setBlink n l).out = s.out := rfl
@[simp] theorem setBlink_queued (s : State) (n : Nat) (l : BlockLink) : (s.setBlink n l).queued = s.queued := rfl
@[simp] theorem setBlink_free (s : State) (n : Nat) (l : BlockLink) : (s.setBlink n l).free = s.free := rfl
@[simp] theorem setBlink_pending (s : State) (n : Nat) (l : BlockLink) : (s.setBlink n l).pending = s.pending := rfl

@[simp] theorem setPart_ident (s : State) (p : Nat) (x : Partition) : (s.setPart p x).ident = s.ident := rfl
@[simp] theorem setPart_pwr (s : State) (p : Nat) (x : Partition) : (s.setPart p x).pwr = s.pwr := rfl
@[simp] theorem setPart_clk (s : State) (p : Nat) (x : Partition) : (s.setPart p x).clk = s.clk := rfl
@[simp] theorem setPart_plinth (s : State) (p : Nat) (x : Partition) : (s.setPart p x).plinth = s.plinth := rfl
@[simp] theorem setPart_fns (s : State) (p : Nat) (x : Partition) : (s.setPart p x).fns = s.fns := rfl
@[simp] theorem setPart_dbg (s : State) (p : Nat) (x : Partition) : (s.setPart p x).dbg = s.dbg := rfl
@[simp] theorem setPart_arm (s : State) (p : Nat) (x : Partition) : (s.setPart p x).arm = s.arm := rfl
@[simp] theorem setPart_links (s : State) (p : Nat) (x : Partition) : (s.setPart p x).links = s.links := rfl
@[simp] theorem setPart_lanes (s : State) (p : Nat) (x : Partition) : (s.setPart p x).lanes = s.lanes := rfl
@[simp] theorem setPart_blinks (s : State) (p : Nat) (x : Partition) : (s.setPart p x).blinks = s.blinks := rfl
@[simp] theorem setPart_arr (s : State) (p : Nat) (x : Partition) : (s.setPart p x).arr = s.arr := rfl
@[simp] theorem setPart_fab (s : State) (p : Nat) (x : Partition) : (s.setPart p x).fab = s.fab := rfl
@[simp] theorem setPart_dram (s : State) (p : Nat) (x : Partition) : (s.setPart p x).dram = s.dram := rfl
@[simp] theorem setPart_trans (s : State) (p : Nat) (x : Partition) : (s.setPart p x).trans = s.trans := rfl
@[simp] theorem setPart_dma (s : State) (p : Nat) (x : Partition) : (s.setPart p x).dma = s.dma := rfl
@[simp] theorem setPart_lseq (s : State) (p : Nat) (x : Partition) : (s.setPart p x).lseq = s.lseq := rfl
@[simp] theorem setPart_keys (s : State) (p : Nat) (x : Partition) : (s.setPart p x).keys = s.keys := rfl
@[simp] theorem setPart_noc (s : State) (p : Nat) (x : Partition) : (s.setPart p x).noc = s.noc := rfl
@[simp] theorem setPart_pend (s : State) (p : Nat) (x : Partition) : (s.setPart p x).pend = s.pend := rfl
@[simp] theorem setPart_maint (s : State) (p : Nat) (x : Partition) : (s.setPart p x).maint = s.maint := rfl
@[simp] theorem setPart_logs (s : State) (p : Nat) (x : Partition) : (s.setPart p x).logs = s.logs := rfl
@[simp] theorem setPart_trust (s : State) (p : Nat) (x : Partition) : (s.setPart p x).trust = s.trust := rfl
@[simp] theorem setPart_fw (s : State) (p : Nat) (x : Partition) : (s.setPart p x).fw = s.fw := rfl
@[simp] theorem setPart_health (s : State) (p : Nat) (x : Partition) : (s.setPart p x).health = s.health := rfl
@[simp] theorem setPart_out (s : State) (p : Nat) (x : Partition) : (s.setPart p x).out = s.out := rfl
@[simp] theorem setPart_queued (s : State) (p : Nat) (x : Partition) : (s.setPart p x).queued = s.queued := rfl
@[simp] theorem setPart_free (s : State) (p : Nat) (x : Partition) : (s.setPart p x).free = s.free := rfl
@[simp] theorem setPart_pending (s : State) (p : Nat) (x : Partition) : (s.setPart p x).pending = s.pending := rfl

@[simp] theorem setFn_ident (s : State) (n : Nat) (f : Func) : (s.setFn n f).ident = s.ident := rfl
@[simp] theorem setFn_pwr (s : State) (n : Nat) (f : Func) : (s.setFn n f).pwr = s.pwr := rfl
@[simp] theorem setFn_clk (s : State) (n : Nat) (f : Func) : (s.setFn n f).clk = s.clk := rfl
@[simp] theorem setFn_plinth (s : State) (n : Nat) (f : Func) : (s.setFn n f).plinth = s.plinth := rfl
@[simp] theorem setFn_dbg (s : State) (n : Nat) (f : Func) : (s.setFn n f).dbg = s.dbg := rfl
@[simp] theorem setFn_arm (s : State) (n : Nat) (f : Func) : (s.setFn n f).arm = s.arm := rfl
@[simp] theorem setFn_links (s : State) (n : Nat) (f : Func) : (s.setFn n f).links = s.links := rfl
@[simp] theorem setFn_lanes (s : State) (n : Nat) (f : Func) : (s.setFn n f).lanes = s.lanes := rfl
@[simp] theorem setFn_blinks (s : State) (n : Nat) (f : Func) : (s.setFn n f).blinks = s.blinks := rfl
@[simp] theorem setFn_parts (s : State) (n : Nat) (f : Func) : (s.setFn n f).parts = s.parts := rfl
@[simp] theorem setFn_arr (s : State) (n : Nat) (f : Func) : (s.setFn n f).arr = s.arr := rfl
@[simp] theorem setFn_fab (s : State) (n : Nat) (f : Func) : (s.setFn n f).fab = s.fab := rfl
@[simp] theorem setFn_dram (s : State) (n : Nat) (f : Func) : (s.setFn n f).dram = s.dram := rfl
@[simp] theorem setFn_trans (s : State) (n : Nat) (f : Func) : (s.setFn n f).trans = s.trans := rfl
@[simp] theorem setFn_dma (s : State) (n : Nat) (f : Func) : (s.setFn n f).dma = s.dma := rfl
@[simp] theorem setFn_lseq (s : State) (n : Nat) (f : Func) : (s.setFn n f).lseq = s.lseq := rfl
@[simp] theorem setFn_keys (s : State) (n : Nat) (f : Func) : (s.setFn n f).keys = s.keys := rfl
@[simp] theorem setFn_noc (s : State) (n : Nat) (f : Func) : (s.setFn n f).noc = s.noc := rfl
@[simp] theorem setFn_pend (s : State) (n : Nat) (f : Func) : (s.setFn n f).pend = s.pend := rfl
@[simp] theorem setFn_maint (s : State) (n : Nat) (f : Func) : (s.setFn n f).maint = s.maint := rfl
@[simp] theorem setFn_logs (s : State) (n : Nat) (f : Func) : (s.setFn n f).logs = s.logs := rfl
@[simp] theorem setFn_trust (s : State) (n : Nat) (f : Func) : (s.setFn n f).trust = s.trust := rfl
@[simp] theorem setFn_fw (s : State) (n : Nat) (f : Func) : (s.setFn n f).fw = s.fw := rfl
@[simp] theorem setFn_health (s : State) (n : Nat) (f : Func) : (s.setFn n f).health = s.health := rfl
@[simp] theorem setFn_out (s : State) (n : Nat) (f : Func) : (s.setFn n f).out = s.out := rfl
@[simp] theorem setFn_queued (s : State) (n : Nat) (f : Func) : (s.setFn n f).queued = s.queued := rfl
@[simp] theorem setFn_free (s : State) (n : Nat) (f : Func) : (s.setFn n f).free = s.free := rfl
@[simp] theorem setFn_pending (s : State) (n : Nat) (f : Func) : (s.setFn n f).pending = s.pending := rfl

@[simp] theorem emit_ident (s : State) (o : Output) : (s.emit o).ident = s.ident := rfl
@[simp] theorem emit_pwr (s : State) (o : Output) : (s.emit o).pwr = s.pwr := rfl
@[simp] theorem emit_clk (s : State) (o : Output) : (s.emit o).clk = s.clk := rfl
@[simp] theorem emit_plinth (s : State) (o : Output) : (s.emit o).plinth = s.plinth := rfl
@[simp] theorem emit_fns (s : State) (o : Output) : (s.emit o).fns = s.fns := rfl
@[simp] theorem emit_dbg (s : State) (o : Output) : (s.emit o).dbg = s.dbg := rfl
@[simp] theorem emit_arm (s : State) (o : Output) : (s.emit o).arm = s.arm := rfl
@[simp] theorem emit_links (s : State) (o : Output) : (s.emit o).links = s.links := rfl
@[simp] theorem emit_lanes (s : State) (o : Output) : (s.emit o).lanes = s.lanes := rfl
@[simp] theorem emit_blinks (s : State) (o : Output) : (s.emit o).blinks = s.blinks := rfl
@[simp] theorem emit_parts (s : State) (o : Output) : (s.emit o).parts = s.parts := rfl
@[simp] theorem emit_arr (s : State) (o : Output) : (s.emit o).arr = s.arr := rfl
@[simp] theorem emit_fab (s : State) (o : Output) : (s.emit o).fab = s.fab := rfl
@[simp] theorem emit_dram (s : State) (o : Output) : (s.emit o).dram = s.dram := rfl
@[simp] theorem emit_trans (s : State) (o : Output) : (s.emit o).trans = s.trans := rfl
@[simp] theorem emit_dma (s : State) (o : Output) : (s.emit o).dma = s.dma := rfl
@[simp] theorem emit_lseq (s : State) (o : Output) : (s.emit o).lseq = s.lseq := rfl
@[simp] theorem emit_keys (s : State) (o : Output) : (s.emit o).keys = s.keys := rfl
@[simp] theorem emit_noc (s : State) (o : Output) : (s.emit o).noc = s.noc := rfl
@[simp] theorem emit_pend (s : State) (o : Output) : (s.emit o).pend = s.pend := rfl
@[simp] theorem emit_maint (s : State) (o : Output) : (s.emit o).maint = s.maint := rfl
@[simp] theorem emit_logs (s : State) (o : Output) : (s.emit o).logs = s.logs := rfl
@[simp] theorem emit_trust (s : State) (o : Output) : (s.emit o).trust = s.trust := rfl
@[simp] theorem emit_fw (s : State) (o : Output) : (s.emit o).fw = s.fw := rfl
@[simp] theorem emit_health (s : State) (o : Output) : (s.emit o).health = s.health := rfl
@[simp] theorem emit_queued (s : State) (o : Output) : (s.emit o).queued = s.queued := rfl
@[simp] theorem emit_free (s : State) (o : Output) : (s.emit o).free = s.free := rfl
@[simp] theorem emit_pending (s : State) (o : Output) : (s.emit o).pending = s.pending := rfl

@[simp] theorem takeAccepted_ident (s : State) (c : CmdCtx) : (takeAccepted c s).ident = s.ident := rfl
@[simp] theorem takeAccepted_pwr (s : State) (c : CmdCtx) : (takeAccepted c s).pwr = s.pwr := rfl
@[simp] theorem takeAccepted_clk (s : State) (c : CmdCtx) : (takeAccepted c s).clk = s.clk := rfl
@[simp] theorem takeAccepted_fns (s : State) (c : CmdCtx) : (takeAccepted c s).fns = s.fns := rfl
@[simp] theorem takeAccepted_dbg (s : State) (c : CmdCtx) : (takeAccepted c s).dbg = s.dbg := rfl
@[simp] theorem takeAccepted_arm (s : State) (c : CmdCtx) : (takeAccepted c s).arm = s.arm := rfl
@[simp] theorem takeAccepted_links (s : State) (c : CmdCtx) : (takeAccepted c s).links = s.links := rfl
@[simp] theorem takeAccepted_lanes (s : State) (c : CmdCtx) : (takeAccepted c s).lanes = s.lanes := rfl
@[simp] theorem takeAccepted_blinks (s : State) (c : CmdCtx) : (takeAccepted c s).blinks = s.blinks := rfl
@[simp] theorem takeAccepted_parts (s : State) (c : CmdCtx) : (takeAccepted c s).parts = s.parts := rfl
@[simp] theorem takeAccepted_arr (s : State) (c : CmdCtx) : (takeAccepted c s).arr = s.arr := rfl
@[simp] theorem takeAccepted_fab (s : State) (c : CmdCtx) : (takeAccepted c s).fab = s.fab := rfl
@[simp] theorem takeAccepted_dram (s : State) (c : CmdCtx) : (takeAccepted c s).dram = s.dram := rfl
@[simp] theorem takeAccepted_trans (s : State) (c : CmdCtx) : (takeAccepted c s).trans = s.trans := rfl
@[simp] theorem takeAccepted_dma (s : State) (c : CmdCtx) : (takeAccepted c s).dma = s.dma := rfl
@[simp] theorem takeAccepted_lseq (s : State) (c : CmdCtx) : (takeAccepted c s).lseq = s.lseq := rfl
@[simp] theorem takeAccepted_keys (s : State) (c : CmdCtx) : (takeAccepted c s).keys = s.keys := rfl
@[simp] theorem takeAccepted_noc (s : State) (c : CmdCtx) : (takeAccepted c s).noc = s.noc := rfl
@[simp] theorem takeAccepted_pend (s : State) (c : CmdCtx) : (takeAccepted c s).pend = s.pend := rfl
@[simp] theorem takeAccepted_maint (s : State) (c : CmdCtx) : (takeAccepted c s).maint = s.maint := rfl
@[simp] theorem takeAccepted_logs (s : State) (c : CmdCtx) : (takeAccepted c s).logs = s.logs := rfl
@[simp] theorem takeAccepted_trust (s : State) (c : CmdCtx) : (takeAccepted c s).trust = s.trust := rfl
@[simp] theorem takeAccepted_fw (s : State) (c : CmdCtx) : (takeAccepted c s).fw = s.fw := rfl
@[simp] theorem takeAccepted_health (s : State) (c : CmdCtx) : (takeAccepted c s).health = s.health := rfl
@[simp] theorem takeAccepted_out (s : State) (c : CmdCtx) : (takeAccepted c s).out = s.out := rfl
@[simp] theorem takeAccepted_queued (s : State) (c : CmdCtx) : (takeAccepted c s).queued = s.queued := rfl
@[simp] theorem takeAccepted_free (s : State) (c : CmdCtx) : (takeAccepted c s).free = s.free := rfl
@[simp] theorem takeAccepted_pending (s : State) (c : CmdCtx) : (takeAccepted c s).pending = s.pending := rfl

@[simp] theorem holdDeferred_ident (s : State) (c : CmdCtx) (op : Nat) : (holdDeferred c op s).ident = s.ident := rfl
@[simp] theorem holdDeferred_pwr (s : State) (c : CmdCtx) (op : Nat) : (holdDeferred c op s).pwr = s.pwr := rfl
@[simp] theorem holdDeferred_clk (s : State) (c : CmdCtx) (op : Nat) : (holdDeferred c op s).clk = s.clk := rfl
@[simp] theorem holdDeferred_fns (s : State) (c : CmdCtx) (op : Nat) : (holdDeferred c op s).fns = s.fns := rfl
@[simp] theorem holdDeferred_dbg (s : State) (c : CmdCtx) (op : Nat) : (holdDeferred c op s).dbg = s.dbg := rfl
@[simp] theorem holdDeferred_arm (s : State) (c : CmdCtx) (op : Nat) : (holdDeferred c op s).arm = s.arm := rfl
@[simp] theorem holdDeferred_links (s : State) (c : CmdCtx) (op : Nat) : (holdDeferred c op s).links = s.links := rfl
@[simp] theorem holdDeferred_lanes (s : State) (c : CmdCtx) (op : Nat) : (holdDeferred c op s).lanes = s.lanes := rfl
@[simp] theorem holdDeferred_blinks (s : State) (c : CmdCtx) (op : Nat) : (holdDeferred c op s).blinks = s.blinks := rfl
@[simp] theorem holdDeferred_parts (s : State) (c : CmdCtx) (op : Nat) : (holdDeferred c op s).parts = s.parts := rfl
@[simp] theorem holdDeferred_arr (s : State) (c : CmdCtx) (op : Nat) : (holdDeferred c op s).arr = s.arr := rfl
@[simp] theorem holdDeferred_fab (s : State) (c : CmdCtx) (op : Nat) : (holdDeferred c op s).fab = s.fab := rfl
@[simp] theorem holdDeferred_dram (s : State) (c : CmdCtx) (op : Nat) : (holdDeferred c op s).dram = s.dram := rfl
@[simp] theorem holdDeferred_trans (s : State) (c : CmdCtx) (op : Nat) : (holdDeferred c op s).trans = s.trans := rfl
@[simp] theorem holdDeferred_dma (s : State) (c : CmdCtx) (op : Nat) : (holdDeferred c op s).dma = s.dma := rfl
@[simp] theorem holdDeferred_lseq (s : State) (c : CmdCtx) (op : Nat) : (holdDeferred c op s).lseq = s.lseq := rfl
@[simp] theorem holdDeferred_keys (s : State) (c : CmdCtx) (op : Nat) : (holdDeferred c op s).keys = s.keys := rfl
@[simp] theorem holdDeferred_noc (s : State) (c : CmdCtx) (op : Nat) : (holdDeferred c op s).noc = s.noc := rfl
@[simp] theorem holdDeferred_pend (s : State) (c : CmdCtx) (op : Nat) : (holdDeferred c op s).pend = s.pend := rfl
@[simp] theorem holdDeferred_maint (s : State) (c : CmdCtx) (op : Nat) : (holdDeferred c op s).maint = s.maint := rfl
@[simp] theorem holdDeferred_logs (s : State) (c : CmdCtx) (op : Nat) : (holdDeferred c op s).logs = s.logs := rfl
@[simp] theorem holdDeferred_trust (s : State) (c : CmdCtx) (op : Nat) : (holdDeferred c op s).trust = s.trust := rfl
@[simp] theorem holdDeferred_fw (s : State) (c : CmdCtx) (op : Nat) : (holdDeferred c op s).fw = s.fw := rfl
@[simp] theorem holdDeferred_health (s : State) (c : CmdCtx) (op : Nat) : (holdDeferred c op s).health = s.health := rfl
@[simp] theorem holdDeferred_out (s : State) (c : CmdCtx) (op : Nat) : (holdDeferred c op s).out = s.out := rfl
@[simp] theorem holdDeferred_queued (s : State) (c : CmdCtx) (op : Nat) : (holdDeferred c op s).queued = s.queued := rfl
@[simp] theorem holdDeferred_free (s : State) (c : CmdCtx) (op : Nat) : (holdDeferred c op s).free = s.free := rfl
@[simp] theorem holdDeferred_pending (s : State) (c : CmdCtx) (op : Nat) : (holdDeferred c op s).pending = s.pending := rfl

@[simp] theorem startAct_ident (s : State) (a o : Nat) (c : Option CmdCtx) : (startAct a o c s).ident = s.ident := rfl
@[simp] theorem startAct_pwr (s : State) (a o : Nat) (c : Option CmdCtx) : (startAct a o c s).pwr = s.pwr := rfl
@[simp] theorem startAct_clk (s : State) (a o : Nat) (c : Option CmdCtx) : (startAct a o c s).clk = s.clk := rfl
@[simp] theorem startAct_plinth (s : State) (a o : Nat) (c : Option CmdCtx) : (startAct a o c s).plinth = s.plinth := rfl
@[simp] theorem startAct_fns (s : State) (a o : Nat) (c : Option CmdCtx) : (startAct a o c s).fns = s.fns := rfl
@[simp] theorem startAct_dbg (s : State) (a o : Nat) (c : Option CmdCtx) : (startAct a o c s).dbg = s.dbg := rfl
@[simp] theorem startAct_arm (s : State) (a o : Nat) (c : Option CmdCtx) : (startAct a o c s).arm = s.arm := rfl
@[simp] theorem startAct_links (s : State) (a o : Nat) (c : Option CmdCtx) : (startAct a o c s).links = s.links := rfl
@[simp] theorem startAct_lanes (s : State) (a o : Nat) (c : Option CmdCtx) : (startAct a o c s).lanes = s.lanes := rfl
@[simp] theorem startAct_blinks (s : State) (a o : Nat) (c : Option CmdCtx) : (startAct a o c s).blinks = s.blinks := rfl
@[simp] theorem startAct_parts (s : State) (a o : Nat) (c : Option CmdCtx) : (startAct a o c s).parts = s.parts := rfl
@[simp] theorem startAct_arr (s : State) (a o : Nat) (c : Option CmdCtx) : (startAct a o c s).arr = s.arr := rfl
@[simp] theorem startAct_fab (s : State) (a o : Nat) (c : Option CmdCtx) : (startAct a o c s).fab = s.fab := rfl
@[simp] theorem startAct_dram (s : State) (a o : Nat) (c : Option CmdCtx) : (startAct a o c s).dram = s.dram := rfl
@[simp] theorem startAct_trans (s : State) (a o : Nat) (c : Option CmdCtx) : (startAct a o c s).trans = s.trans := rfl
@[simp] theorem startAct_dma (s : State) (a o : Nat) (c : Option CmdCtx) : (startAct a o c s).dma = s.dma := rfl
@[simp] theorem startAct_lseq (s : State) (a o : Nat) (c : Option CmdCtx) : (startAct a o c s).lseq = s.lseq := rfl
@[simp] theorem startAct_keys (s : State) (a o : Nat) (c : Option CmdCtx) : (startAct a o c s).keys = s.keys := rfl
@[simp] theorem startAct_noc (s : State) (a o : Nat) (c : Option CmdCtx) : (startAct a o c s).noc = s.noc := rfl
@[simp] theorem startAct_pend (s : State) (a o : Nat) (c : Option CmdCtx) : (startAct a o c s).pend = s.pend := rfl
@[simp] theorem startAct_logs (s : State) (a o : Nat) (c : Option CmdCtx) : (startAct a o c s).logs = s.logs := rfl
@[simp] theorem startAct_trust (s : State) (a o : Nat) (c : Option CmdCtx) : (startAct a o c s).trust = s.trust := rfl
@[simp] theorem startAct_fw (s : State) (a o : Nat) (c : Option CmdCtx) : (startAct a o c s).fw = s.fw := rfl
@[simp] theorem startAct_health (s : State) (a o : Nat) (c : Option CmdCtx) : (startAct a o c s).health = s.health := rfl
@[simp] theorem startAct_out (s : State) (a o : Nat) (c : Option CmdCtx) : (startAct a o c s).out = s.out := rfl
@[simp] theorem startAct_queued (s : State) (a o : Nat) (c : Option CmdCtx) : (startAct a o c s).queued = s.queued := rfl
@[simp] theorem startAct_free (s : State) (a o : Nat) (c : Option CmdCtx) : (startAct a o c s).free = s.free := rfl
@[simp] theorem startAct_pending (s : State) (a o : Nat) (c : Option CmdCtx) : (startAct a o c s).pending = s.pending := rfl

@[simp] theorem endAct_ident (s : State) (a o : Nat) : (endAct a o s).ident = s.ident := rfl
@[simp] theorem endAct_pwr (s : State) (a o : Nat) : (endAct a o s).pwr = s.pwr := rfl
@[simp] theorem endAct_clk (s : State) (a o : Nat) : (endAct a o s).clk = s.clk := rfl
@[simp] theorem endAct_plinth (s : State) (a o : Nat) : (endAct a o s).plinth = s.plinth := rfl
@[simp] theorem endAct_fns (s : State) (a o : Nat) : (endAct a o s).fns = s.fns := rfl
@[simp] theorem endAct_dbg (s : State) (a o : Nat) : (endAct a o s).dbg = s.dbg := rfl
@[simp] theorem endAct_arm (s : State) (a o : Nat) : (endAct a o s).arm = s.arm := rfl
@[simp] theorem endAct_links (s : State) (a o : Nat) : (endAct a o s).links = s.links := rfl
@[simp] theorem endAct_lanes (s : State) (a o : Nat) : (endAct a o s).lanes = s.lanes := rfl
@[simp] theorem endAct_blinks (s : State) (a o : Nat) : (endAct a o s).blinks = s.blinks := rfl
@[simp] theorem endAct_parts (s : State) (a o : Nat) : (endAct a o s).parts = s.parts := rfl
@[simp] theorem endAct_arr (s : State) (a o : Nat) : (endAct a o s).arr = s.arr := rfl
@[simp] theorem endAct_fab (s : State) (a o : Nat) : (endAct a o s).fab = s.fab := rfl
@[simp] theorem endAct_dram (s : State) (a o : Nat) : (endAct a o s).dram = s.dram := rfl
@[simp] theorem endAct_trans (s : State) (a o : Nat) : (endAct a o s).trans = s.trans := rfl
@[simp] theorem endAct_dma (s : State) (a o : Nat) : (endAct a o s).dma = s.dma := rfl
@[simp] theorem endAct_lseq (s : State) (a o : Nat) : (endAct a o s).lseq = s.lseq := rfl
@[simp] theorem endAct_keys (s : State) (a o : Nat) : (endAct a o s).keys = s.keys := rfl
@[simp] theorem endAct_noc (s : State) (a o : Nat) : (endAct a o s).noc = s.noc := rfl
@[simp] theorem endAct_pend (s : State) (a o : Nat) : (endAct a o s).pend = s.pend := rfl
@[simp] theorem endAct_logs (s : State) (a o : Nat) : (endAct a o s).logs = s.logs := rfl
@[simp] theorem endAct_trust (s : State) (a o : Nat) : (endAct a o s).trust = s.trust := rfl
@[simp] theorem endAct_fw (s : State) (a o : Nat) : (endAct a o s).fw = s.fw := rfl
@[simp] theorem endAct_health (s : State) (a o : Nat) : (endAct a o s).health = s.health := rfl
@[simp] theorem endAct_out (s : State) (a o : Nat) : (endAct a o s).out = s.out := rfl
@[simp] theorem endAct_queued (s : State) (a o : Nat) : (endAct a o s).queued = s.queued := rfl
@[simp] theorem endAct_free (s : State) (a o : Nat) : (endAct a o s).free = s.free := rfl
@[simp] theorem endAct_pending (s : State) (a o : Nat) : (endAct a o s).pending = s.pending := rfl

@[simp] theorem setProgress_ident (s : State) (a o v : Nat) : (setProgress a o v s).ident = s.ident := rfl
@[simp] theorem setProgress_pwr (s : State) (a o v : Nat) : (setProgress a o v s).pwr = s.pwr := rfl
@[simp] theorem setProgress_clk (s : State) (a o v : Nat) : (setProgress a o v s).clk = s.clk := rfl
@[simp] theorem setProgress_plinth (s : State) (a o v : Nat) : (setProgress a o v s).plinth = s.plinth := rfl
@[simp] theorem setProgress_fns (s : State) (a o v : Nat) : (setProgress a o v s).fns = s.fns := rfl
@[simp] theorem setProgress_dbg (s : State) (a o v : Nat) : (setProgress a o v s).dbg = s.dbg := rfl
@[simp] theorem setProgress_arm (s : State) (a o v : Nat) : (setProgress a o v s).arm = s.arm := rfl
@[simp] theorem setProgress_links (s : State) (a o v : Nat) : (setProgress a o v s).links = s.links := rfl
@[simp] theorem setProgress_lanes (s : State) (a o v : Nat) : (setProgress a o v s).lanes = s.lanes := rfl
@[simp] theorem setProgress_blinks (s : State) (a o v : Nat) : (setProgress a o v s).blinks = s.blinks := rfl
@[simp] theorem setProgress_parts (s : State) (a o v : Nat) : (setProgress a o v s).parts = s.parts := rfl
@[simp] theorem setProgress_arr (s : State) (a o v : Nat) : (setProgress a o v s).arr = s.arr := rfl
@[simp] theorem setProgress_fab (s : State) (a o v : Nat) : (setProgress a o v s).fab = s.fab := rfl
@[simp] theorem setProgress_dram (s : State) (a o v : Nat) : (setProgress a o v s).dram = s.dram := rfl
@[simp] theorem setProgress_trans (s : State) (a o v : Nat) : (setProgress a o v s).trans = s.trans := rfl
@[simp] theorem setProgress_dma (s : State) (a o v : Nat) : (setProgress a o v s).dma = s.dma := rfl
@[simp] theorem setProgress_lseq (s : State) (a o v : Nat) : (setProgress a o v s).lseq = s.lseq := rfl
@[simp] theorem setProgress_keys (s : State) (a o v : Nat) : (setProgress a o v s).keys = s.keys := rfl
@[simp] theorem setProgress_noc (s : State) (a o v : Nat) : (setProgress a o v s).noc = s.noc := rfl
@[simp] theorem setProgress_pend (s : State) (a o v : Nat) : (setProgress a o v s).pend = s.pend := rfl
@[simp] theorem setProgress_logs (s : State) (a o v : Nat) : (setProgress a o v s).logs = s.logs := rfl
@[simp] theorem setProgress_trust (s : State) (a o v : Nat) : (setProgress a o v s).trust = s.trust := rfl
@[simp] theorem setProgress_fw (s : State) (a o v : Nat) : (setProgress a o v s).fw = s.fw := rfl
@[simp] theorem setProgress_health (s : State) (a o v : Nat) : (setProgress a o v s).health = s.health := rfl
@[simp] theorem setProgress_out (s : State) (a o v : Nat) : (setProgress a o v s).out = s.out := rfl
@[simp] theorem setProgress_queued (s : State) (a o v : Nat) : (setProgress a o v s).queued = s.queued := rfl
@[simp] theorem setProgress_free (s : State) (a o v : Nat) : (setProgress a o v s).free = s.free := rfl
@[simp] theorem setProgress_pending (s : State) (a o v : Nat) : (setProgress a o v s).pending = s.pending := rfl

@[simp] theorem bumpBy_ident (s : State) (k a u i : Nat) : (bumpBy k a u i s).ident = s.ident := rfl
@[simp] theorem bumpBy_pwr (s : State) (k a u i : Nat) : (bumpBy k a u i s).pwr = s.pwr := rfl
@[simp] theorem bumpBy_clk (s : State) (k a u i : Nat) : (bumpBy k a u i s).clk = s.clk := rfl
@[simp] theorem bumpBy_plinth (s : State) (k a u i : Nat) : (bumpBy k a u i s).plinth = s.plinth := rfl
@[simp] theorem bumpBy_fns (s : State) (k a u i : Nat) : (bumpBy k a u i s).fns = s.fns := rfl
@[simp] theorem bumpBy_dbg (s : State) (k a u i : Nat) : (bumpBy k a u i s).dbg = s.dbg := rfl
@[simp] theorem bumpBy_arm (s : State) (k a u i : Nat) : (bumpBy k a u i s).arm = s.arm := rfl
@[simp] theorem bumpBy_links (s : State) (k a u i : Nat) : (bumpBy k a u i s).links = s.links := rfl
@[simp] theorem bumpBy_lanes (s : State) (k a u i : Nat) : (bumpBy k a u i s).lanes = s.lanes := rfl
@[simp] theorem bumpBy_blinks (s : State) (k a u i : Nat) : (bumpBy k a u i s).blinks = s.blinks := rfl
@[simp] theorem bumpBy_parts (s : State) (k a u i : Nat) : (bumpBy k a u i s).parts = s.parts := rfl
@[simp] theorem bumpBy_arr (s : State) (k a u i : Nat) : (bumpBy k a u i s).arr = s.arr := rfl
@[simp] theorem bumpBy_fab (s : State) (k a u i : Nat) : (bumpBy k a u i s).fab = s.fab := rfl
@[simp] theorem bumpBy_dram (s : State) (k a u i : Nat) : (bumpBy k a u i s).dram = s.dram := rfl
@[simp] theorem bumpBy_trans (s : State) (k a u i : Nat) : (bumpBy k a u i s).trans = s.trans := rfl
@[simp] theorem bumpBy_dma (s : State) (k a u i : Nat) : (bumpBy k a u i s).dma = s.dma := rfl
@[simp] theorem bumpBy_lseq (s : State) (k a u i : Nat) : (bumpBy k a u i s).lseq = s.lseq := rfl
@[simp] theorem bumpBy_keys (s : State) (k a u i : Nat) : (bumpBy k a u i s).keys = s.keys := rfl
@[simp] theorem bumpBy_noc (s : State) (k a u i : Nat) : (bumpBy k a u i s).noc = s.noc := rfl
@[simp] theorem bumpBy_pend (s : State) (k a u i : Nat) : (bumpBy k a u i s).pend = s.pend := rfl
@[simp] theorem bumpBy_maint (s : State) (k a u i : Nat) : (bumpBy k a u i s).maint = s.maint := rfl
@[simp] theorem bumpBy_trust (s : State) (k a u i : Nat) : (bumpBy k a u i s).trust = s.trust := rfl
@[simp] theorem bumpBy_fw (s : State) (k a u i : Nat) : (bumpBy k a u i s).fw = s.fw := rfl
@[simp] theorem bumpBy_health (s : State) (k a u i : Nat) : (bumpBy k a u i s).health = s.health := rfl
@[simp] theorem bumpBy_out (s : State) (k a u i : Nat) : (bumpBy k a u i s).out = s.out := rfl
@[simp] theorem bumpBy_queued (s : State) (k a u i : Nat) : (bumpBy k a u i s).queued = s.queued := rfl
@[simp] theorem bumpBy_free (s : State) (k a u i : Nat) : (bumpBy k a u i s).free = s.free := rfl
@[simp] theorem bumpBy_pending (s : State) (k a u i : Nat) : (bumpBy k a u i s).pending = s.pending := rfl

@[simp] theorem armPause_ident (s : State) (p : Nat) (q : Pause) : (armPause p q s).ident = s.ident := rfl
@[simp] theorem armPause_pwr (s : State) (p : Nat) (q : Pause) : (armPause p q s).pwr = s.pwr := rfl
@[simp] theorem armPause_clk (s : State) (p : Nat) (q : Pause) : (armPause p q s).clk = s.clk := rfl
@[simp] theorem armPause_plinth (s : State) (p : Nat) (q : Pause) : (armPause p q s).plinth = s.plinth := rfl
@[simp] theorem armPause_fns (s : State) (p : Nat) (q : Pause) : (armPause p q s).fns = s.fns := rfl
@[simp] theorem armPause_dbg (s : State) (p : Nat) (q : Pause) : (armPause p q s).dbg = s.dbg := rfl
@[simp] theorem armPause_arm (s : State) (p : Nat) (q : Pause) : (armPause p q s).arm = s.arm := rfl
@[simp] theorem armPause_links (s : State) (p : Nat) (q : Pause) : (armPause p q s).links = s.links := rfl
@[simp] theorem armPause_lanes (s : State) (p : Nat) (q : Pause) : (armPause p q s).lanes = s.lanes := rfl
@[simp] theorem armPause_blinks (s : State) (p : Nat) (q : Pause) : (armPause p q s).blinks = s.blinks := rfl
@[simp] theorem armPause_arr (s : State) (p : Nat) (q : Pause) : (armPause p q s).arr = s.arr := rfl
@[simp] theorem armPause_fab (s : State) (p : Nat) (q : Pause) : (armPause p q s).fab = s.fab := rfl
@[simp] theorem armPause_dram (s : State) (p : Nat) (q : Pause) : (armPause p q s).dram = s.dram := rfl
@[simp] theorem armPause_trans (s : State) (p : Nat) (q : Pause) : (armPause p q s).trans = s.trans := rfl
@[simp] theorem armPause_dma (s : State) (p : Nat) (q : Pause) : (armPause p q s).dma = s.dma := rfl
@[simp] theorem armPause_lseq (s : State) (p : Nat) (q : Pause) : (armPause p q s).lseq = s.lseq := rfl
@[simp] theorem armPause_keys (s : State) (p : Nat) (q : Pause) : (armPause p q s).keys = s.keys := rfl
@[simp] theorem armPause_noc (s : State) (p : Nat) (q : Pause) : (armPause p q s).noc = s.noc := rfl
@[simp] theorem armPause_pend (s : State) (p : Nat) (q : Pause) : (armPause p q s).pend = s.pend := rfl
@[simp] theorem armPause_maint (s : State) (p : Nat) (q : Pause) : (armPause p q s).maint = s.maint := rfl
@[simp] theorem armPause_logs (s : State) (p : Nat) (q : Pause) : (armPause p q s).logs = s.logs := rfl
@[simp] theorem armPause_trust (s : State) (p : Nat) (q : Pause) : (armPause p q s).trust = s.trust := rfl
@[simp] theorem armPause_fw (s : State) (p : Nat) (q : Pause) : (armPause p q s).fw = s.fw := rfl
@[simp] theorem armPause_health (s : State) (p : Nat) (q : Pause) : (armPause p q s).health = s.health := rfl
@[simp] theorem armPause_out (s : State) (p : Nat) (q : Pause) : (armPause p q s).out = s.out := rfl
@[simp] theorem armPause_queued (s : State) (p : Nat) (q : Pause) : (armPause p q s).queued = s.queued := rfl
@[simp] theorem armPause_free (s : State) (p : Nat) (q : Pause) : (armPause p q s).free = s.free := rfl
@[simp] theorem armPause_pending (s : State) (p : Nat) (q : Pause) : (armPause p q s).pending = s.pending := rfl

@[simp] theorem addChange_ident (s : State) (p : Nat) (c : ModeChange) : (addChange p c s).ident = s.ident := rfl
@[simp] theorem addChange_pwr (s : State) (p : Nat) (c : ModeChange) : (addChange p c s).pwr = s.pwr := rfl
@[simp] theorem addChange_clk (s : State) (p : Nat) (c : ModeChange) : (addChange p c s).clk = s.clk := rfl
@[simp] theorem addChange_plinth (s : State) (p : Nat) (c : ModeChange) : (addChange p c s).plinth = s.plinth := rfl
@[simp] theorem addChange_fns (s : State) (p : Nat) (c : ModeChange) : (addChange p c s).fns = s.fns := rfl
@[simp] theorem addChange_dbg (s : State) (p : Nat) (c : ModeChange) : (addChange p c s).dbg = s.dbg := rfl
@[simp] theorem addChange_arm (s : State) (p : Nat) (c : ModeChange) : (addChange p c s).arm = s.arm := rfl
@[simp] theorem addChange_links (s : State) (p : Nat) (c : ModeChange) : (addChange p c s).links = s.links := rfl
@[simp] theorem addChange_lanes (s : State) (p : Nat) (c : ModeChange) : (addChange p c s).lanes = s.lanes := rfl
@[simp] theorem addChange_blinks (s : State) (p : Nat) (c : ModeChange) : (addChange p c s).blinks = s.blinks := rfl
@[simp] theorem addChange_arr (s : State) (p : Nat) (c : ModeChange) : (addChange p c s).arr = s.arr := rfl
@[simp] theorem addChange_fab (s : State) (p : Nat) (c : ModeChange) : (addChange p c s).fab = s.fab := rfl
@[simp] theorem addChange_dram (s : State) (p : Nat) (c : ModeChange) : (addChange p c s).dram = s.dram := rfl
@[simp] theorem addChange_trans (s : State) (p : Nat) (c : ModeChange) : (addChange p c s).trans = s.trans := rfl
@[simp] theorem addChange_dma (s : State) (p : Nat) (c : ModeChange) : (addChange p c s).dma = s.dma := rfl
@[simp] theorem addChange_lseq (s : State) (p : Nat) (c : ModeChange) : (addChange p c s).lseq = s.lseq := rfl
@[simp] theorem addChange_keys (s : State) (p : Nat) (c : ModeChange) : (addChange p c s).keys = s.keys := rfl
@[simp] theorem addChange_noc (s : State) (p : Nat) (c : ModeChange) : (addChange p c s).noc = s.noc := rfl
@[simp] theorem addChange_pend (s : State) (p : Nat) (c : ModeChange) : (addChange p c s).pend = s.pend := rfl
@[simp] theorem addChange_maint (s : State) (p : Nat) (c : ModeChange) : (addChange p c s).maint = s.maint := rfl
@[simp] theorem addChange_logs (s : State) (p : Nat) (c : ModeChange) : (addChange p c s).logs = s.logs := rfl
@[simp] theorem addChange_trust (s : State) (p : Nat) (c : ModeChange) : (addChange p c s).trust = s.trust := rfl
@[simp] theorem addChange_fw (s : State) (p : Nat) (c : ModeChange) : (addChange p c s).fw = s.fw := rfl
@[simp] theorem addChange_health (s : State) (p : Nat) (c : ModeChange) : (addChange p c s).health = s.health := rfl
@[simp] theorem addChange_out (s : State) (p : Nat) (c : ModeChange) : (addChange p c s).out = s.out := rfl
@[simp] theorem addChange_queued (s : State) (p : Nat) (c : ModeChange) : (addChange p c s).queued = s.queued := rfl
@[simp] theorem addChange_free (s : State) (p : Nat) (c : ModeChange) : (addChange p c s).free = s.free := rfl
@[simp] theorem addChange_pending (s : State) (p : Nat) (c : ModeChange) : (addChange p c s).pending = s.pending := rfl

@[simp] theorem draw_ident (s : State) (w : Nat) : (s.draw w).2.ident = s.ident := rfl
@[simp] theorem draw_pwr (s : State) (w : Nat) : (s.draw w).2.pwr = s.pwr := rfl
@[simp] theorem draw_clk (s : State) (w : Nat) : (s.draw w).2.clk = s.clk := rfl
@[simp] theorem draw_plinth (s : State) (w : Nat) : (s.draw w).2.plinth = s.plinth := rfl
@[simp] theorem draw_fns (s : State) (w : Nat) : (s.draw w).2.fns = s.fns := rfl
@[simp] theorem draw_dbg (s : State) (w : Nat) : (s.draw w).2.dbg = s.dbg := rfl
@[simp] theorem draw_arm (s : State) (w : Nat) : (s.draw w).2.arm = s.arm := rfl
@[simp] theorem draw_links (s : State) (w : Nat) : (s.draw w).2.links = s.links := rfl
@[simp] theorem draw_lanes (s : State) (w : Nat) : (s.draw w).2.lanes = s.lanes := rfl
@[simp] theorem draw_blinks (s : State) (w : Nat) : (s.draw w).2.blinks = s.blinks := rfl
@[simp] theorem draw_parts (s : State) (w : Nat) : (s.draw w).2.parts = s.parts := rfl
@[simp] theorem draw_arr (s : State) (w : Nat) : (s.draw w).2.arr = s.arr := rfl
@[simp] theorem draw_fab (s : State) (w : Nat) : (s.draw w).2.fab = s.fab := rfl
@[simp] theorem draw_dram (s : State) (w : Nat) : (s.draw w).2.dram = s.dram := rfl
@[simp] theorem draw_trans (s : State) (w : Nat) : (s.draw w).2.trans = s.trans := rfl
@[simp] theorem draw_dma (s : State) (w : Nat) : (s.draw w).2.dma = s.dma := rfl
@[simp] theorem draw_lseq (s : State) (w : Nat) : (s.draw w).2.lseq = s.lseq := rfl
@[simp] theorem draw_keys (s : State) (w : Nat) : (s.draw w).2.keys = s.keys := rfl
@[simp] theorem draw_noc (s : State) (w : Nat) : (s.draw w).2.noc = s.noc := rfl
@[simp] theorem draw_pend (s : State) (w : Nat) : (s.draw w).2.pend = s.pend := rfl
@[simp] theorem draw_maint (s : State) (w : Nat) : (s.draw w).2.maint = s.maint := rfl
@[simp] theorem draw_logs (s : State) (w : Nat) : (s.draw w).2.logs = s.logs := rfl
@[simp] theorem draw_trust (s : State) (w : Nat) : (s.draw w).2.trust = s.trust := rfl
@[simp] theorem draw_fw (s : State) (w : Nat) : (s.draw w).2.fw = s.fw := rfl
@[simp] theorem draw_health (s : State) (w : Nat) : (s.draw w).2.health = s.health := rfl
@[simp] theorem draw_out (s : State) (w : Nat) : (s.draw w).2.out = s.out := rfl
@[simp] theorem draw_queued (s : State) (w : Nat) : (s.draw w).2.queued = s.queued := rfl
@[simp] theorem draw_pending (s : State) (w : Nat) : (s.draw w).2.pending = s.pending := rfl

@[simp] theorem draw_fst (s : State) (w : Nat) : (s.draw w).1 = Config.freeValue w s.free := rfl
@[simp] theorem draw_free (s : State) (w : Nat) : (s.draw w).2.free = s.free + 1 := rfl
@[simp] theorem emit_out (s : State) (o : Output) : (s.emit o).out = s.out ++ [o] := rfl

end Sys2Proof.Machine
end

