-- ==== Sys2Proof/Laws/Operands.lean ====
section
/-!
SUPPORT. Operands.lean: what the shapes of an opcode row do when the row is served, and when it is refused.
-/
namespace Sys2Proof.Machine

@[simp] theorem gate_takeAccepted (cls : SrcClass) (op : Nat) (c d : CmdCtx) (s : State) : gate cls op c (takeAccepted d s) = gate cls op c s := rfl

/-- A served immediate row has its effect. -/
theorem immediate_served {cls : SrcClass} {op : Nat} {c : CmdCtx} {body : State → State} {s : State} (h : s.serves cls op c = true) :
    immediate cls op c body s = body (takeAccepted c s) := by
  simp only [State.serves, Bool.and_eq_true, Option.isNone_iff_eq_none] at h
  simp [immediate, h.1, h.2]

/-- A served deferred row has its effect. -/
theorem deferredOp_served {cls : SrcClass} {op : Nat} {c : CmdCtx} {body : State → State} {s : State} (h : s.servesLate cls op c = true) :
    deferredOp cls op c body s = body (takeAccepted c s) := by
  simp only [State.servesLate, Bool.and_eq_true, decide_eq_true_eq] at h
  have h2 : ¬ 32 ≤ (takeAccepted c s).deferredOf c.src := Nat.not_le.mpr h.2
  simp [deferredOp, immediate_served h.1, h2]

/-- A row of a partition that its command may name, with good arguments and in a legal state, has its effect. -/
theorem onPart_legal {c : CmdCtx} {op p : Nat} {argsOk : Bool} {legal : Partition → Bool} {body : State → State} {s : State}
    (ha : argsOk = true) (hn : s.mayName c p = true) (hl : legal (s.part p) = true) : onPart c op p argsOk legal body s = body s := by
  simp only [State.mayName, Bool.and_eq_true, decide_eq_true_eq, Bool.not_eq_true'] at hn
  have h4 : ¬ 4 ≤ p := Nat.not_le.mpr hn.1
  simp [onPart, ha, h4, hn.2, hl]

/-- A row that the gate refuses is answered with that status and has no effect. -/
theorem immediate_refused {cls : SrcClass} {op st : Nat} {c : CmdCtx} {body : State → State} {s : State} (hx : s.runs op = true)
    (h : gate cls op c s = some st) : immediate cls op c body s = reply c op st [] (takeAccepted c s) := by
  simp [immediate, hx, h]

@[simp] theorem mayName_takeAccepted (c d : CmdCtx) (p : Nat) (s : State) : (takeAccepted d s).mayName c p = s.mayName c p := rfl
@[simp] theorem part_takeAccepted (d : CmdCtx) (p : Nat) (s : State) : (takeAccepted d s).part p = s.part p := rfl
@[simp] theorem isRoot_takeAccepted (d : CmdCtx) (p : Nat) (s : State) : (takeAccepted d s).isRoot p = s.isRoot p := rfl
@[simp] theorem cnt_takeAccepted (d : CmdCtx) (s : State) : (takeAccepted d s).cnt = s.cnt := rfl

/-! ### Waits (R338) -/

/-- No command accepted before c waits for what q asks, where none asks for more. -/
theorem acceptedBefore_mono {s : State} {c : CmdCtx} {q r : Instr → Bool} (h : ∀ i, q i = true → r i = true) (hr : s.acceptedBefore c r = false) :
    s.acceptedBefore c q = false := by
  simp only [State.acceptedBefore, List.any_eq_false, Bool.and_eq_true, not_and] at hr ⊢
  exact fun i hi hq => hr i hi (h i hq)

theorem pagesMeet_symm (a b : Nat × Nat × Nat) : pagesMeet a b = pagesMeet b a := by
  simp only [pagesMeet, eq_comm (a := a.1)]
  simp only [Bool.and_assoc, Bool.and_comm, Bool.and_left_comm]

/-- A command whose pages are free goes on. -/
theorem pageWait_free {c : CmdCtx} {jsid lo n : Nat} {go : State → State} {s : State} (h : s.pagesFree c jsid lo n = true) :
    pageWait c jsid lo n go s = go s := by
  simp only [State.pagesFree, Bool.and_eq_true, Bool.not_eq_true'] at h
  simp [pageWait, h.1, h.2]

/-- A list of which every range is free goes on. -/
theorem listWait_free {c : CmdCtx} {jsid : Nat} {l : List DmaElem} {go : State → State} {s : State}
    (h : (l.flatMap (elemRanges jsid)).all (fun r => s.pagesFree c r.1 r.2.1 r.2.2) = true) : listWait c jsid l go s = go s := by
  simp only [List.all_eq_true, State.pagesFree, Bool.and_eq_true, Bool.not_eq_true'] at h
  unfold listWait
  dsimp only
  rw [if_neg]
  simp only [not_or, Bool.not_eq_true, List.any_eq_false, State.acceptedBefore, Bool.and_eq_true, not_and]
  refine ⟨fun r hr => (h r hr).1, fun i hi hq => ?_⟩
  simp only [List.any_eq_true] at hq
  obtain ⟨a, ha, r, hr, hm⟩ := hq
  have k := (h r hr).2
  simp only [State.acceptedBefore, List.any_eq_false, Bool.and_eq_true, not_and, Bool.not_eq_true] at k
  exact k i hi (List.any_eq_true.mpr ⟨a, ha, by rw [pagesMeet_symm]; exact hm⟩)

/-- A command on a link that no deferred one holds goes on. -/
theorem linkWait_free {k : Nat} {go : State → State} {s : State} (h : s.linkHeld k = false) : linkWait k go s = go s := by
  simp [linkWait, h]

theorem changeWait_free {k : Nat} {go : State → State} {s : State} (h : s.linkHeld k = false) : changeWait k go s = go s := by
  simp [changeWait, h]

/-- A command on the pair state goes on while no PENDANT.PAIR is in execution. -/
theorem pairWait_free {go : State → State} {s : State} (h : s.pend.pair = none) : pairWait go s = go s := by simp [pairWait, h]

theorem smGet_all {α : Type} {d : α} {p : α → Bool} (hd : p d = true) : ∀ (m : SMap α) (k : Nat), m.all (fun e => p e.2) = true → p (smGet d m k) = true
  | [], _, _ => hd
  | (j, v) :: m, k, h => by
    simp only [List.all_cons, Bool.and_eq_true] at h
    have := smGet_all hd m k h.2
    unfold smGet
    (repeat' split) <;> simp_all

theorem linksFree_held {s : State} (h : s.linksFree = true) (k : Nat) : s.linkHeld k = false := by
  simp only [State.linksFree, Bool.and_eq_true, Option.isNone_iff_eq_none] at h
  have hb := smGet_all (p := fun l : BlockLink => l.req.all (·.ctx.isNone)) (d := {}) rfl s.blinks k h.1.1
  have hl := smGet_all (p := fun l : CtlLink => l.retrain.isNone) (d := {}) rfl s.links (k - 17) h.1.2
  simp only [State.linkHeld, State.blink, State.link, h.2]
  cases hq : (smGet { } s.blinks k : BlockLink).req <;> simp_all

/-- What no block means, part by part. -/
theorem unblocked_iff {s : State} {c : CmdCtx} (h : s.unblocked c = true) :
    s.trans.waits = [] ∧ s.fw.verify = none ∧ s.arm.upCtx = none ∧ (∀ k, s.linkHeld k = false) ∧ s.pend.pair = none ∧
      (∀ q, s.acceptedBefore c q = false) := by
  simp only [State.unblocked, Bool.and_eq_true, List.isEmpty_iff, Option.isNone_iff_eq_none, Bool.not_eq_true'] at h
  obtain ⟨⟨⟨⟨h1, h2⟩, h3⟩, h4⟩, h5⟩ := h
  refine ⟨h1, h2, h3, linksFree_held h4, ?_, fun q => acceptedBefore_mono (fun _ _ => rfl) h5⟩
  simp only [State.linksFree, Bool.and_eq_true, Option.isNone_iff_eq_none] at h4
  exact h4.2

/-- An unblocked command has its pages free. -/
theorem unblocked_pages {s : State} {c : CmdCtx} (h : s.unblocked c = true) (jsid lo n : Nat) : s.pagesFree c jsid lo n = true := by
  obtain ⟨h1, _, _, _, _, h6⟩ := unblocked_iff h
  simp [State.pagesFree, State.pagesHeld, h1, h6]

end Sys2Proof.Machine
end

