-- ==== Sys2Proof/Laws/Accepted.lean ====
section
/-!
SUPPORT. Accepted.lean: what the machine reads of a state does not depend on the queue of accepted commands: one lemma per function of
the state, for the state after a command has left that queue.
-/
namespace Sys2Proof.Machine

@[simp] theorem fn_takeAccepted (d9 : CmdCtx) (s : State) (n : Nat) : State.fn (takeAccepted d9 s) n = State.fn s n := rfl
@[simp] theorem fnExists_takeAccepted (d9 : CmdCtx) (s : State) (n : Nat) : State.fnExists (takeAccepted d9 s) n = State.fnExists s n := rfl
@[simp] theorem faultPin_takeAccepted (d9 : CmdCtx) (s : State) : State.faultPin (takeAccepted d9 s) = State.faultPin s := rfl
@[simp] theorem alertPin_takeAccepted (d9 : CmdCtx) (s : State) : State.alertPin (takeAccepted d9 s) = State.alertPin s := rfl
@[simp] theorem devBits_takeAccepted (d9 : CmdCtx) (s : State) : State.devBits (takeAccepted d9 s) = State.devBits s := rfl
@[simp] theorem link_takeAccepted (d9 : CmdCtx) (s : State) (n : Nat) : State.link (takeAccepted d9 s) n = State.link s n := rfl
@[simp] theorem lane_takeAccepted (d9 : CmdCtx) (s : State) (n : Nat) : State.lane (takeAccepted d9 s) n = State.lane s n := rfl
@[simp] theorem blink_takeAccepted (d9 : CmdCtx) (s : State) (n : Nat) : State.blink (takeAccepted d9 s) n = State.blink s n := rfl
@[simp] theorem frameOf_takeAccepted (d9 : CmdCtx) (s : State) (p : Nat) : State.frameOf (takeAccepted d9 s) p = State.frameOf s p := rfl
@[simp] theorem counter_takeAccepted (d9 : CmdCtx) (s : State) (sub unit id : Nat) : State.counter (takeAccepted d9 s) sub unit id = State.counter s sub unit id := rfl
@[simp] theorem nocRuns_takeAccepted (d9 : CmdCtx) (s : State) : State.nocRuns (takeAccepted d9 s) = State.nocRuns s := rfl
@[simp] theorem upLink_takeAccepted (d9 : CmdCtx) (s : State) : State.upLink (takeAccepted d9 s) = State.upLink s := rfl
@[simp] theorem dead_takeAccepted (d9 : CmdCtx) (s : State) (c : CmdCtx) : State.dead (takeAccepted d9 s) c = State.dead s c := rfl
@[simp] theorem asking_takeAccepted (d9 : CmdCtx) (s : State) : State.asking (takeAccepted d9 s) = State.asking s := rfl
@[simp] theorem waitsTurn_takeAccepted (d9 : CmdCtx) (s : State) (c : CmdCtx) : State.waitsTurn (takeAccepted d9 s) c = State.waitsTurn s c := rfl
@[simp] theorem jsOf_takeAccepted (d9 : CmdCtx) (s : State) (p : Nat) : State.jsOf (takeAccepted d9 s) p = State.jsOf s p := rfl
@[simp] theorem marksOf_takeAccepted (d9 : CmdCtx) (s : State) (kind unit window : Nat) : State.marksOf (takeAccepted d9 s) kind unit window = State.marksOf s kind unit window := rfl
@[simp] theorem stepping_takeAccepted (d9 : CmdCtx) (s : State) : State.stepping (takeAccepted d9 s) = State.stepping s := rfl
@[simp] theorem movesPaused_takeAccepted (d9 : CmdCtx) (s : State) : State.movesPaused (takeAccepted d9 s) = State.movesPaused s := rfl
@[simp] theorem isSingle_takeAccepted (d9 : CmdCtx) (s : State) (p : Nat) : State.isSingle (takeAccepted d9 s) p = State.isSingle s p := rfl
@[simp] theorem childLinks_takeAccepted (d9 : CmdCtx) (s : State) : State.childLinks (takeAccepted d9 s) = State.childLinks s := rfl
@[simp] theorem leftScope_takeAccepted (d9 : CmdCtx) (s : State) (p : Nat) : State.leftScope (takeAccepted d9 s) p = State.leftScope s p := rfl
@[simp] theorem executes_takeAccepted (d9 : CmdCtx) (s : State) : State.executes (takeAccepted d9 s) = State.executes s := rfl
@[simp] theorem runs_takeAccepted (d9 : CmdCtx) (s : State) (op : Nat) : State.runs (takeAccepted d9 s) op = State.runs s op := rfl
@[simp] theorem dbgFull_takeAccepted (d9 : CmdCtx) (s : State) : State.dbgFull (takeAccepted d9 s) = State.dbgFull s := rfl
@[simp] theorem classRefusal_takeAccepted (d9 : CmdCtx) (cls : SrcClass) (op src : Nat) (s : State) : classRefusal cls op src (takeAccepted d9 s) = classRefusal cls op src s := rfl
@[simp] theorem isStandby_takeAccepted (d9 : CmdCtx) (s : State) : State.isStandby (takeAccepted d9 s) = State.isStandby s := rfl
@[simp] theorem linkHeld_takeAccepted (d9 : CmdCtx) (s : State) (k : Nat) : State.linkHeld (takeAccepted d9 s) k = State.linkHeld s k := rfl
@[simp] theorem deferredOf_takeAccepted (d9 : CmdCtx) (s : State) (src : BitVec 8) : State.deferredOf (takeAccepted d9 s) src = State.deferredOf s src := rfl
@[simp] theorem foreignPart_takeAccepted (d9 : CmdCtx) (c : CmdCtx) (p : Nat) (s : State) : foreignPart c p (takeAccepted d9 s) = foreignPart c p s := rfl
@[simp] theorem joining_takeAccepted (d9 : CmdCtx) (s : State) : State.joining (takeAccepted d9 s) = State.joining s := rfl
@[simp] theorem blocker_takeAccepted (d9 : CmdCtx) (s : State) (act obj : Nat) : State.blocker (takeAccepted d9 s) act obj = State.blocker s act obj := rfl
@[simp] theorem bpLoc_takeAccepted (d9 : CmdCtx) (s : State) (pcl grp col index bank : Nat) : State.bpLoc (takeAccepted d9 s) pcl grp col index bank = State.bpLoc s pcl grp col index bank := rfl
@[simp] theorem sparesLeft_takeAccepted (d9 : CmdCtx) (s : State) (array unit : Nat) (col : Bool) : State.sparesLeft (takeAccepted d9 s) array unit col = State.sparesLeft s array unit col := rfl
@[simp] theorem groupSpares_takeAccepted (d9 : CmdCtx) (s : State) (array pcl : Nat) (col : Bool) : State.groupSpares (takeAccepted d9 s) array pcl col = State.groupSpares s array pcl col := rfl
@[simp] theorem keyLoc_takeAccepted (d9 : CmdCtx) (s : State) (code key : Nat) : State.keyLoc (takeAccepted d9 s) code key = State.keyLoc s code key := rfl
@[simp] theorem errAt_takeAccepted (d9 : CmdCtx) (s : State) (st : Store) (key : Nat) : State.errAt (takeAccepted d9 s) st key = State.errAt s st key := rfl
@[simp] theorem nmRow_takeAccepted (d9 : CmdCtx) (s : State) (pcl grp bank row : Nat) : State.nmRow (takeAccepted d9 s) pcl grp bank row = State.nmRow s pcl grp bank row := rfl
@[simp] theorem portRow_takeAccepted (d9 : CmdCtx) (s : State) (pcl grp row : Nat) : State.portRow (takeAccepted d9 s) pcl grp row = State.portRow s pcl grp row := rfl
@[simp] theorem readRow_takeAccepted (d9 : CmdCtx) (s : State) (x : Partition) (pcl grp : Nat) (fs : Bool) (row k : Nat) : readRow (takeAccepted d9 s) x pcl grp fs row k = readRow s x pcl grp fs row k := rfl
@[simp] theorem readParity_takeAccepted (d9 : CmdCtx) (s : State) (x : Partition) (pcl grp : Nat) (fs : Bool) (row : Nat) : readParity (takeAccepted d9 s) x pcl grp fs row = readParity s x pcl grp fs row := rfl
@[simp] theorem readBit_takeAccepted (d9 : CmdCtx) (s : State) (x : Partition) (pcl grp k : Nat) (o : BitVec 18) : readBit (takeAccepted d9 s) x pcl grp k o = readBit s x pcl grp k o := rfl
@[simp] theorem wordResult_takeAccepted (d9 : CmdCtx) (s : State) (x : Partition) (pcl grp k : Nat) (w : BitVec 96) : wordResult (takeAccepted d9 s) x pcl grp k w = wordResult s x pcl grp k w := rfl
@[simp] theorem wordsAt_takeAccepted (d9 : CmdCtx) (s : State) (pcl grp k : Nat) : State.wordsAt (takeAccepted d9 s) pcl grp k = State.wordsAt s pcl grp k := rfl
@[simp] theorem resultBit_takeAccepted (d9 : CmdCtx) (s : State) (pcl k i : Nat) : State.resultBit (takeAccepted d9 s) pcl k i = State.resultBit s pcl k i := rfl
@[simp] theorem entriesIn_takeAccepted (d9 : CmdCtx) {α : Type} (s : State) (st : Store) (m : SMap α) (d : α) (lo n : Nat) : State.entriesIn (takeAccepted d9 s) st m d lo n = State.entriesIn s st m d lo n := rfl
@[simp] theorem irAt_takeAccepted (d9 : CmdCtx) (s : State) (key step : Nat) : State.irAt (takeAccepted d9 s) key step = State.irAt s key step := rfl
@[simp] theorem liveFabIn_takeAccepted (d9 : CmdCtx) (s : State) (port t : Nat) : State.liveFabIn (takeAccepted d9 s) port t = State.liveFabIn s port t := rfl
@[simp] theorem exportBit_takeAccepted (d9 : CmdCtx) (s : State) (pcl k slot : Nat) : State.exportBit (takeAccepted d9 s) pcl k slot = State.exportBit s pcl k slot := rfl
@[simp] theorem dxArrival_takeAccepted (d9 : CmdCtx) (s : State) (pcl bit t : Nat) : State.dxArrival (takeAccepted d9 s) pcl bit t = State.dxArrival s pcl bit t := rfl
@[simp] theorem sxArrival_takeAccepted (d9 : CmdCtx) (s : State) (lcl pcl bit t : Nat) : State.sxArrival (takeAccepted d9 s) lcl pcl bit t = State.sxArrival s lcl pcl bit t := rfl
@[simp] theorem importBit_takeAccepted (d9 : CmdCtx) (lcl pcl t : Nat) (fab : U64) (w : BitVec 16) (s : State) : importBit lcl pcl t fab w (takeAccepted d9 s) = importBit lcl pcl t fab w s := rfl
@[simp] theorem cfgByte_takeAccepted (d9 : CmdCtx) (s : State) (region frame byte : Nat) : State.cfgByte (takeAccepted d9 s) region frame byte = State.cfgByte s region frame byte := rfl
@[simp] theorem cfgField_takeAccepted (d9 : CmdCtx) (s : State) (region frame byte n : Nat) : State.cfgField (takeAccepted d9 s) region frame byte n = State.cfgField s region frame byte n := rfl
@[simp] theorem cellWord_takeAccepted (d9 : CmdCtx) (s : State) (region cell : Nat) : State.cellWord (takeAccepted d9 s) region cell = State.cellWord s region cell := rfl
@[simp] theorem cellsOf_takeAccepted (d9 : CmdCtx) (s : State) (region : Nat) : State.cellsOf (takeAccepted d9 s) region = State.cellsOf s region := rfl
@[simp] theorem regionLive_takeAccepted (d9 : CmdCtx) (s : State) (r : Nat) : State.regionLive (takeAccepted d9 s) r = State.regionLive s r := rfl
@[simp] theorem routing_takeAccepted (d9 : CmdCtx) (s : State) (die : Nat) : State.routing (takeAccepted d9 s) die = State.routing s die := rfl
@[simp] theorem edgeNow_takeAccepted (d9 : CmdCtx) (s : State) : State.edgeNow (takeAccepted d9 s) = State.edgeNow s := rfl
@[simp] theorem ffNow_takeAccepted (d9 : CmdCtx) (s : State) : State.ffNow (takeAccepted d9 s) = State.ffNow s := rfl
@[simp] theorem boutNow_takeAccepted (d9 : CmdCtx) (s : State) : State.boutNow (takeAccepted d9 s) = State.boutNow s := rfl
@[simp] theorem bmemNow_takeAccepted (d9 : CmdCtx) (s : State) : State.bmemNow (takeAccepted d9 s) = State.bmemNow s := rfl
@[simp] theorem bmErrNow_takeAccepted (d9 : CmdCtx) (s : State) : State.bmErrNow (takeAccepted d9 s) = State.bmErrNow s := rfl
@[simp] theorem ioWord_takeAccepted (d9 : CmdCtx) (s : State) (pin : Nat) : State.ioWord (takeAccepted d9 s) pin = State.ioWord s pin := rfl
@[simp] theorem pinIn_takeAccepted (d9 : CmdCtx) (s : State) (pins : IoPins) (die pin : Nat) : State.pinIn (takeAccepted d9 s) pins die pin = State.pinIn s pins die pin := rfl
@[simp] theorem sliceOut_takeAccepted (d9 : CmdCtx) (s : State) (n : Nat) : State.sliceOut (takeAccepted d9 s) n = State.sliceOut s n := rfl
@[simp] theorem clockSel_takeAccepted (d9 : CmdCtx) (s : State) (die : Nat) (x : Clocked) : State.clockSel (takeAccepted d9 s) die x = State.clockSel s die x := rfl
@[simp] theorem slice_takeAccepted (d9 : CmdCtx) (s : State) (n : Nat) : State.slice (takeAccepted d9 s) n = State.slice s n := rfl
@[simp] theorem uop_takeAccepted (d9 : CmdCtx) (s : State) (n j : Nat) : State.uop (takeAccepted d9 s) n j = State.uop s n j := rfl
@[simp] theorem scheduled_takeAccepted (d9 : CmdCtx) (s : State) (n : Nat) : State.scheduled (takeAccepted d9 s) n = State.scheduled s n := rfl
@[simp] theorem hardDetail_takeAccepted (d9 : CmdCtx) (block row : Nat) (s : State) : hardDetail block row (takeAccepted d9 s) = hardDetail block row s := rfl
@[simp] theorem scheduledSlices_takeAccepted (d9 : CmdCtx) (s : State) (x : Partition) : State.scheduledSlices (takeAccepted d9 s) x = State.scheduledSlices s x := rfl
@[simp] theorem bmRow_takeAccepted (d9 : CmdCtx) (s : State) (b r : Nat) : State.bmRow (takeAccepted d9 s) b r = State.bmRow s b r := rfl
@[simp] theorem partOfDie_takeAccepted (d9 : CmdCtx) (s : State) (die : Nat) : State.partOfDie (takeAccepted d9 s) die = State.partOfDie s die := rfl
@[simp] theorem risesNow_takeAccepted (d9 : CmdCtx) (s : State) (x : Partition) (w : U64) : State.risesNow (takeAccepted d9 s) x w = State.risesNow s x w := rfl
@[simp] theorem carries_takeAccepted (d9 : CmdCtx) (s : State) : State.carries (takeAccepted d9 s) = State.carries s := rfl
@[simp] theorem paired_takeAccepted (d9 : CmdCtx) (s : State) : State.paired (takeAccepted d9 s) = State.paired s := rfl
@[simp] theorem pendantOn_takeAccepted (d9 : CmdCtx) (s : State) : State.pendantOn (takeAccepted d9 s) = State.pendantOn s := rfl
@[simp] theorem authOn_takeAccepted (d9 : CmdCtx) (s : State) (step : Nat) : State.authOn (takeAccepted d9 s) step = State.authOn s step := rfl
@[simp] theorem dataRanks_takeAccepted (d9 : CmdCtx) (s : State) : State.dataRanks (takeAccepted d9 s) = State.dataRanks s := rfl
@[simp] theorem dataLines_takeAccepted (d9 : CmdCtx) (s : State) : State.dataLines (takeAccepted d9 s) = State.dataLines s := rfl
@[simp] theorem lineRank_takeAccepted (d9 : CmdCtx) (s : State) (line : Nat) : State.lineRank (takeAccepted d9 s) line = State.lineRank s line := rfl
@[simp] theorem servedBy_takeAccepted (d9 : CmdCtx) (s : State) (line : Nat) : State.servedBy (takeAccepted d9 s) line = State.servedBy s line := rfl
@[simp] theorem lineLoc_takeAccepted (d9 : CmdCtx) (s : State) (line : Nat) : State.lineLoc (takeAccepted d9 s) line = State.lineLoc s line := rfl
@[simp] theorem buffered_takeAccepted (d9 : CmdCtx) (s : State) (line : Nat) : State.buffered (takeAccepted d9 s) line = State.buffered s line := rfl
@[simp] theorem meta_takeAccepted (d9 : CmdCtx) (s : State) (line : Nat) : State.meta (takeAccepted d9 s) line = State.meta s line := rfl
@[simp] theorem ctrBase_takeAccepted (d9 : CmdCtx) (s : State) : State.ctrBase (takeAccepted d9 s) = State.ctrBase s := rfl
@[simp] theorem tagBase_takeAccepted (d9 : CmdCtx) (s : State) : State.tagBase (takeAccepted d9 s) = State.tagBase s := rfl
@[simp] theorem arrayLines_takeAccepted (d9 : CmdCtx) (s : State) (line : Nat) : State.arrayLines (takeAccepted d9 s) line = State.arrayLines s line := rfl
@[simp] theorem byteAt_takeAccepted (d9 : CmdCtx) (s : State) (a : Nat) : State.byteAt (takeAccepted d9 s) a = State.byteAt s a := rfl
@[simp] theorem bytesAtPhys_takeAccepted (d9 : CmdCtx) (s : State) (a n : Nat) : State.bytesAtPhys (takeAccepted d9 s) a n = State.bytesAtPhys s a n := rfl
@[simp] theorem slot_takeAccepted (d9 : CmdCtx) (s : State) (kix : Nat) : State.slot (takeAccepted d9 s) kix = State.slot s kix := rfl
@[simp] theorem binding_takeAccepted (d9 : CmdCtx) (s : State) (jsid : Nat) : State.binding (takeAccepted d9 s) jsid = State.binding s jsid := rfl
@[simp] theorem takeKix_takeAccepted (d9 : CmdCtx) (s : State) (jsid : Nat) : State.takeKix (takeAccepted d9 s) jsid = State.takeKix s jsid := rfl
@[simp] theorem access_takeAccepted (d9 : CmdCtx) (s : State) (jsid master : Nat) : State.access (takeAccepted d9 s) jsid master = State.access s jsid master := rfl
@[simp] theorem rotation_takeAccepted (d9 : CmdCtx) (s : State) (jsid : Nat) : State.rotation (takeAccepted d9 s) jsid = State.rotation s jsid := rfl
@[simp] theorem storeKix_takeAccepted (d9 : CmdCtx) (s : State) (jsid k : Nat) : State.storeKix (takeAccepted d9 s) jsid k = State.storeKix s jsid k := rfl
@[simp] theorem checkKixs_takeAccepted (d9 : CmdCtx) (s : State) (jsid k jaddr : Nat) : State.checkKixs (takeAccepted d9 s) jsid k jaddr = State.checkKixs s jsid k jaddr := rfl
@[simp] theorem readKeys_takeAccepted (d9 : CmdCtx) (s : State) (jsid k jaddr : Nat) : State.readKeys (takeAccepted d9 s) jsid k jaddr = State.readKeys s jsid k jaddr := rfl
@[simp] theorem readLine_takeAccepted (d9 : CmdCtx) (s : State) (w : Access) (line jaddr : Nat) : State.readLine (takeAccepted d9 s) w line jaddr = State.readLine s w line jaddr := rfl
@[simp] theorem spareFree_takeAccepted (d9 : CmdCtx) (s : State) (ch : Nat) : State.spareFree (takeAccepted d9 s) ch = State.spareFree s ch := rfl
@[simp] theorem nextOfRank_takeAccepted (d9 : CmdCtx) (s : State) (ch rank i : Nat) : State.nextOfRank (takeAccepted d9 s) ch rank i = State.nextOfRank s ch rank i := rfl
@[simp] theorem emptySlot_takeAccepted (d9 : CmdCtx) (s : State) : State.emptySlot (takeAccepted d9 s) = State.emptySlot s := rfl
@[simp] theorem nextCounter_takeAccepted (d9 : CmdCtx) (s : State) (jsid : Nat) (m : LineMeta) : nextCounter (takeAccepted d9 s) jsid m = nextCounter s jsid m := rfl
@[simp] theorem mirrors_takeAccepted (d9 : CmdCtx) (s : State) (addr : Nat) : State.mirrors (takeAccepted d9 s) addr = State.mirrors s addr := rfl
@[simp] theorem mergeCount_takeAccepted (d9 : CmdCtx) (s : State) (ch : Nat) : State.mergeCount (takeAccepted d9 s) ch = State.mergeCount s ch := rfl
@[simp] theorem pte_takeAccepted (d9 : CmdCtx) (s : State) (a : Nat) : State.pte (takeAccepted d9 s) a = State.pte s a := rfl
@[simp] theorem tableBad_takeAccepted (d9 : CmdCtx) (s : State) (a : Nat) : State.tableBad (takeAccepted d9 s) a = State.tableBad s a := rfl
@[simp] theorem tableWalk_takeAccepted (d9 : CmdCtx) (s : State) (jsid addr : Nat) : tableWalk (takeAccepted d9 s) jsid addr = tableWalk s jsid addr := rfl
@[simp] theorem walk_takeAccepted (d9 : CmdCtx) (s : State) (w : Access) (addr : Nat) : walk (takeAccepted d9 s) w addr = walk s w addr := rfl
@[simp] theorem translate_takeAccepted (d9 : CmdCtx) (s : State) (w : Access) (addr : Nat) (wr port : Bool) : translate (takeAccepted d9 s) w addr wr port = translate s w addr wr port := rfl
@[simp] theorem faultsOf_takeAccepted (d9 : CmdCtx) (s : State) (jsid : Nat) : State.faultsOf (takeAccepted d9 s) jsid = State.faultsOf s jsid := rfl
@[simp] theorem memGone_takeAccepted (d9 : CmdCtx) (s : State) : State.memGone (takeAccepted d9 s) = State.memGone s := rfl
@[simp] theorem forwarded_takeAccepted (d9 : CmdCtx) (s : State) (line : Nat) (d : List Byte) : State.forwarded (takeAccepted d9 s) line d = State.forwarded s line d := rfl
@[simp] theorem bufferBytes_takeAccepted (d9 : CmdCtx) (s : State) (line off n : Nat) : State.bufferBytes (takeAccepted d9 s) line off n = State.bufferBytes s line off n := rfl
@[simp] theorem pagesHeld_takeAccepted (d9 : CmdCtx) (s : State) (jsid lo n : Nat) : State.pagesHeld (takeAccepted d9 s) jsid lo n = State.pagesHeld s jsid lo n := rfl
@[simp] theorem freePage_takeAccepted (d9 : CmdCtx) (s : State) : State.freePage (takeAccepted d9 s) = State.freePage s := rfl
@[simp] theorem pageAt_takeAccepted (d9 : CmdCtx) (s : State) (jsid leafLevel addr : Nat) : pageAt (takeAccepted d9 s) jsid leafLevel addr = pageAt s jsid leafLevel addr := rfl
@[simp] theorem tableEmpty_takeAccepted (d9 : CmdCtx) (s : State) (t : Nat) : State.tableEmpty (takeAccepted d9 s) t = State.tableEmpty s t := rfl
@[simp] theorem hasLeaf_takeAccepted (d9 : CmdCtx) (s : State) (jsid : Nat) : State.hasLeaf (takeAccepted d9 s) jsid = State.hasLeaf s jsid := rfl
@[simp] theorem commitIn_takeAccepted (d9 : CmdCtx) (s : State) (jsid gen lo n : Nat) : State.commitIn (takeAccepted d9 s) jsid gen lo n = State.commitIn s jsid gen lo n := rfl
@[simp] theorem usableBytes_takeAccepted (d9 : CmdCtx) (s : State) : State.usableBytes (takeAccepted d9 s) = State.usableBytes s := rfl
@[simp] theorem physBad_takeAccepted (d9 : CmdCtx) (s : State) (a n : Nat) : State.physBad (takeAccepted d9 s) a n = State.physBad s a n := rfl
@[simp] theorem faultsResolved_takeAccepted (d9 : CmdCtx) (p : Nat) (k : FrameNo) (s : State) : faultsResolved p k (takeAccepted d9 s) = faultsResolved p k s := rfl
@[simp] theorem emptySlots_takeAccepted (d9 : CmdCtx) (s : State) : State.emptySlots (takeAccepted d9 s) = State.emptySlots s := rfl
@[simp] theorem boundNotRotating_takeAccepted (d9 : CmdCtx) (s : State) : State.boundNotRotating (takeAccepted d9 s) = State.boundNotRotating s := rfl
@[simp] theorem slotBound_takeAccepted (d9 : CmdCtx) (s : State) (kix : Nat) : State.slotBound (takeAccepted d9 s) kix = State.slotBound s kix := rfl
@[simp] theorem leafEntries_takeAccepted (d9 : CmdCtx) (s : State) (jsid : Nat) : State.leafEntries (takeAccepted d9 s) jsid = State.leafEntries s jsid := rfl
@[simp] theorem leaves_takeAccepted (d9 : CmdCtx) (s : State) (jsid : Nat) : State.leaves (takeAccepted d9 s) jsid = State.leaves s jsid := rfl
@[simp] theorem nextSweep_takeAccepted (d9 : CmdCtx) (s : State) (jsid mark : Nat) : State.nextSweep (takeAccepted d9 s) jsid mark = State.nextSweep s jsid mark := rfl
@[simp] theorem retirable_takeAccepted (d9 : CmdCtx) (s : State) (kix : Nat) : State.retirable (takeAccepted d9 s) kix = State.retirable s kix := rfl
@[simp] theorem slotInUse_takeAccepted (d9 : CmdCtx) (s : State) (kix : Nat) : State.slotInUse (takeAccepted d9 s) kix = State.slotInUse s kix := rfl
@[simp] theorem keyData_takeAccepted (d9 : CmdCtx) (s : State) : keyData (takeAccepted d9 s) = keyData s := rfl
@[simp] theorem lists_takeAccepted (d9 : CmdCtx) (s : State) (eng : Nat) : State.lists (takeAccepted d9 s) eng = State.lists s eng := rfl
@[simp] theorem pickEngine_takeAccepted (d9 : CmdCtx) (s : State) : State.pickEngine (takeAccepted d9 s) = State.pickEngine s := rfl
@[simp] theorem engineOf_takeAccepted (d9 : CmdCtx) (s : State) (kind : DmaKind) : State.engineOf (takeAccepted d9 s) kind = State.engineOf s kind := rfl
@[simp] theorem listAccess_takeAccepted (d9 : CmdCtx) (s : State) (l : DmaList) : State.listAccess (takeAccepted d9 s) l = State.listAccess s l := rfl
@[simp] theorem joinedLines_takeAccepted (d9 : CmdCtx) (s : State) (w : Access) (e : DmaElem) : State.joinedLines (takeAccepted d9 s) w e = State.joinedLines s w e := rfl
@[simp] theorem pendingWord_takeAccepted (d9 : CmdCtx) (s : State) (p : Nat) (f : FrameNo) (key paddr : Nat) : State.pendingWord (takeAccepted d9 s) p f key paddr = State.pendingWord s p f key paddr := rfl
@[simp] theorem holdsTag_takeAccepted (d9 : CmdCtx) (s : State) (q : Request) : State.holdsTag (takeAccepted d9 s) q = State.holdsTag s q := rfl
@[simp] theorem partOf_takeAccepted (d9 : CmdCtx) (s : State) (pcl : Nat) : State.partOf (takeAccepted d9 s) pcl = State.partOf s pcl := rfl
@[simp] theorem hostIn_takeAccepted (d9 : CmdCtx) (s : State) (p lcl : Nat) (m : FrameNo) : State.hostIn (takeAccepted d9 s) p lcl m = State.hostIn s p lcl m := rfl
@[simp] theorem bicOk_takeAccepted (d9 : CmdCtx) (s : State) (b : U16) : State.bicOk (takeAccepted d9 s) b = State.bicOk s b := rfl
@[simp] theorem checkHead_takeAccepted (d9 : CmdCtx) (s : State) (b : List Byte) (kind len : Nat) (override : Bool) : checkHead (takeAccepted d9 s) b kind len override = checkHead s b kind len override := rfl
@[simp] theorem placeDie_takeAccepted (d9 : CmdCtx) (s : State) (im : Image) (ld pd : Nat) : placeDie (takeAccepted d9 s) im ld pd = placeDie s im ld pd := rfl
@[simp] theorem targetsRetired_takeAccepted (d9 : CmdCtx) (s : State) (m : List (Nat × Nat)) (x : Section) : targetsRetired (takeAccepted d9 s) m x = targetsRetired s m x := rfl
@[simp] theorem checkSx_takeAccepted (d9 : CmdCtx) (s : State) (p : Nat) (im : Image) : checkSx (takeAccepted d9 s) p im = checkSx s p im := rfl
@[simp] theorem otherRuns_takeAccepted (d9 : CmdCtx) (c : LoadCtx) (port : Nat) (s : State) : otherRuns c port (takeAccepted d9 s) = otherRuns c port s := rfl
@[simp] theorem selOk_takeAccepted (d9 : CmdCtx) (s : State) (c : LoadCtx) (k sel : Nat) : selOk (takeAccepted d9 s) c k sel = selOk s c k sel := rfl
@[simp] theorem cfgFrameOk_takeAccepted (d9 : CmdCtx) (s : State) (c : LoadCtx) (k frame : Nat) (d : List Byte) : cfgFrameOk (takeAccepted d9 s) c k frame d = cfgFrameOk s c k frame d := rfl
@[simp] theorem checkPorts_takeAccepted (d9 : CmdCtx) (c : LoadCtx) (s : State) : checkPorts c (takeAccepted d9 s) = checkPorts c s := rfl
@[simp] theorem settled_takeAccepted (d9 : CmdCtx) (s : State) (p : Nat) : State.settled (takeAccepted d9 s) p = State.settled s p := rfl
@[simp] theorem savesShadow_takeAccepted (d9 : CmdCtx) (s : State) (p : Nat) : State.savesShadow (takeAccepted d9 s) p = State.savesShadow s p := rfl
@[simp] theorem channelLines_takeAccepted (d9 : CmdCtx) (s : State) : State.channelLines (takeAccepted d9 s) = State.channelLines s := rfl
@[simp] theorem migratingRank_takeAccepted (d9 : CmdCtx) (s : State) (ch : Nat) : State.migratingRank (takeAccepted d9 s) ch = State.migratingRank s ch := rfl
@[simp] theorem migration_takeAccepted (d9 : CmdCtx) (s : State) (die : Nat) : State.migration (takeAccepted d9 s) die = State.migration s die := rfl
@[simp] theorem side_takeAccepted (d9 : CmdCtx) (s : State) : State.side (takeAccepted d9 s) = State.side s := rfl
@[simp] theorem regionsOfPart_takeAccepted (d9 : CmdCtx) (s : State) (x : Partition) : State.regionsOfPart (takeAccepted d9 s) x = State.regionsOfPart s x := rfl
@[simp] theorem relStep_takeAccepted (d9 : CmdCtx) (s : State) (p : Nat) : State.relStep (takeAccepted d9 s) p = State.relStep s p := rfl
@[simp] theorem frameRuns_takeAccepted (d9 : CmdCtx) (s : State) (p : Nat) : State.frameRuns (takeAccepted d9 s) p = State.frameRuns s p := rfl
@[simp] theorem readableRows_takeAccepted (d9 : CmdCtx) (s : State) (p : Nat) : State.readableRows (takeAccepted d9 s) p = State.readableRows s p := rfl
@[simp] theorem fwMeasure_takeAccepted (d9 : CmdCtx) (s : State) : State.fwMeasure (takeAccepted d9 s) = State.fwMeasure s := rfl
@[simp] theorem digestPart_takeAccepted (d9 : CmdCtx) (s : State) (p : Nat) : digestPart (takeAccepted d9 s) p = digestPart s p := rfl
@[simp] theorem configDigest_takeAccepted (d9 : CmdCtx) (s : State) : configDigest (takeAccepted d9 s) = configDigest s := rfl
@[simp] theorem inStage_takeAccepted (d9 : CmdCtx) (s : State) (p lo hi : Nat) (from_ : Nat → Bool) : State.inStage (takeAccepted d9 s) p lo hi from_ = State.inStage s p lo hi from_ := rfl
@[simp] theorem retiringSide_takeAccepted (d9 : CmdCtx) (s : State) (x : Partition) : retiringSide (takeAccepted d9 s) x = retiringSide s x := rfl
@[simp] theorem stageCluster_takeAccepted (d9 : CmdCtx) (p : Nat) (m : FrameNo) (s : State) (lcl pcl : Nat) : stageCluster p m (takeAccepted d9 s) lcl pcl = stageCluster p m s lcl pcl := rfl
@[simp] theorem sysTime_takeAccepted (d9 : CmdCtx) (s : State) : State.sysTime (takeAccepted d9 s) = State.sysTime s := rfl
@[simp] theorem syncOf_takeAccepted (d9 : CmdCtx) (s : State) (link : Nat) : State.syncOf (takeAccepted d9 s) link = State.syncOf s link := rfl
@[simp] theorem altLink_takeAccepted (d9 : CmdCtx) (s : State) : State.altLink (takeAccepted d9 s) = State.altLink s := rfl
@[simp] theorem altReady_takeAccepted (d9 : CmdCtx) (s : State) : State.altReady (takeAccepted d9 s) = State.altReady s := rfl
@[simp] theorem timeData_takeAccepted (d9 : CmdCtx) (s : State) : timeData (takeAccepted d9 s) = timeData s := rfl
@[simp] theorem tbData_takeAccepted (d9 : CmdCtx) (s : State) : tbData (takeAccepted d9 s) = tbData s := rfl
@[simp] theorem memberOf_takeAccepted (d9 : CmdCtx) (s : State) (sc : Nat) : State.memberOf (takeAccepted d9 s) sc = State.memberOf s sc := rfl
@[simp] theorem runner_takeAccepted (d9 : CmdCtx) (s : State) (sc : Nat) : State.runner (takeAccepted d9 s) sc = State.runner s sc := rfl
@[simp] theorem relay_takeAccepted (d9 : CmdCtx) (s : State) (sc : Nat) : State.relay (takeAccepted d9 s) sc = State.relay s sc := rfl
@[simp] theorem scopeSt_takeAccepted (d9 : CmdCtx) (s : State) (sc : Nat) : State.scopeSt (takeAccepted d9 s) sc = State.scopeSt s sc := rfl
@[simp] theorem takesDown_takeAccepted (d9 : CmdCtx) (s : State) (link : Nat) : State.takesDown (takeAccepted d9 s) link = State.takesDown s link := rfl
@[simp] theorem repeats_takeAccepted (d9 : CmdCtx) (s : State) (link type : Nat) (m : Marker) : State.repeats (takeAccepted d9 s) link type m = State.repeats s link type m := rfl
@[simp] theorem startSeq_takeAccepted (d9 : CmdCtx) (s : State) (sc : Nat) : State.startSeq (takeAccepted d9 s) sc = State.startSeq s sc := rfl
@[simp] theorem rootOf_takeAccepted (d9 : CmdCtx) (s : State) (sc : Nat) : State.rootOf (takeAccepted d9 s) sc = State.rootOf s sc := rfl
@[simp] theorem descUses_takeAccepted (d9 : CmdCtx) (x : Partition) (s : State) : descUses x (takeAccepted d9 s) = descUses x s := rfl
@[simp] theorem tableUses_takeAccepted (d9 : CmdCtx) (x : Partition) (s : State) : tableUses x (takeAccepted d9 s) = tableUses x s := rfl
@[simp] theorem sliceUses_takeAccepted (d9 : CmdCtx) (x : Partition) (s : State) : sliceUses x (takeAccepted d9 s) = sliceUses x s := rfl
@[simp] theorem highestUse_takeAccepted (d9 : CmdCtx) (x : Partition) (s : State) : highestUse x (takeAccepted d9 s) = highestUse x s := rfl
@[simp] theorem checkGeometry_takeAccepted (d9 : CmdCtx) (x : Partition) (s : State) : checkGeometry x (takeAccepted d9 s) = checkGeometry x s := rfl
@[simp] theorem checkAddr_takeAccepted (d9 : CmdCtx) (x : Partition) (s : State) : checkAddr x (takeAccepted d9 s) = checkAddr x s := rfl
@[simp] theorem channelLoad_takeAccepted (d9 : CmdCtx) (x : Partition) (s : State) (ch : Nat) : channelLoad x (takeAccepted d9 s) ch = channelLoad x s ch := rfl
@[simp] theorem channelUse_takeAccepted (d9 : CmdCtx) (others : List Partition) (s : State) (ch : Nat) : channelUse others (takeAccepted d9 s) ch = channelUse others s ch := rfl
@[simp] theorem channelsOf_takeAccepted (d9 : CmdCtx) (x : Partition) (s : State) : channelsOf x (takeAccepted d9 s) = channelsOf x s := rfl
@[simp] theorem channelTerm_takeAccepted (d9 : CmdCtx) (x : Partition) (others : List Partition) (s : State) (c : Nat) : channelTerm x others (takeAccepted d9 s) c = channelTerm x others s c := rfl
@[simp] theorem fullChannel_takeAccepted (d9 : CmdCtx) (x : Partition) (others : List Partition) (s : State) : fullChannel x others (takeAccepted d9 s) = fullChannel x others s := rfl
@[simp] theorem memMin_takeAccepted (d9 : CmdCtx) (x : Partition) (others : List Partition) (s : State) : memMin x others (takeAccepted d9 s) = memMin x others s := rfl
@[simp] theorem minTerms_takeAccepted (d9 : CmdCtx) (x : Partition) (others : List Partition) (v : Nat) (s : State) : minTerms x others v (takeAccepted d9 s) = minTerms x others v s := rfl
@[simp] theorem frameMin_takeAccepted (d9 : CmdCtx) (x : Partition) (others : List Partition) (v : Nat) (s : State) : frameMin x others v (takeAccepted d9 s) = frameMin x others v s := rfl
@[simp] theorem useOf_takeAccepted (d9 : CmdCtx) (others : List Partition) (s : State) (c : Nat) : useOf others (takeAccepted d9 s) c = useOf others s c := rfl
@[simp] theorem admitExtra_takeAccepted (d9 : CmdCtx) (q c : Nat) (others : List Partition) (s : State) : admitExtra q c others (takeAccepted d9 s) = admitExtra q c others s := rfl
@[simp] theorem othersOf_takeAccepted (d9 : CmdCtx) (s : State) (p : Nat) : State.othersOf (takeAccepted d9 s) p = State.othersOf s p := rfl
@[simp] theorem raisesOther_takeAccepted (d9 : CmdCtx) (p : Nat) (s : State) : raisesOther p (takeAccepted d9 s) = raisesOther p s := rfl
@[simp] theorem checkAdmit_takeAccepted (d9 : CmdCtx) (p : Nat) (v : Nat) (s : State) : checkAdmit p v (takeAccepted d9 s) = checkAdmit p v s := rfl
@[simp] theorem lanesServe_takeAccepted (d9 : CmdCtx) (s : State) (x : Partition) : State.lanesServe (takeAccepted d9 s) x = State.lanesServe s x := rfl
@[simp] theorem laneOwner_takeAccepted (d9 : CmdCtx) (s : State) (n : Nat) : State.laneOwner (takeAccepted d9 s) n = State.laneOwner s n := rfl
@[simp] theorem lanesFrozen_takeAccepted (d9 : CmdCtx) (s : State) (p : Nat) : State.lanesFrozen (takeAccepted d9 s) p = State.lanesFrozen s p := rfl
@[simp] theorem mapsName_takeAccepted (d9 : CmdCtx) (s : State) (n : Nat) : State.mapsName (takeAccepted d9 s) n = State.mapsName s n := rfl
@[simp] theorem bothBanks_takeAccepted (d9 : CmdCtx) (s : State) (n : Nat) : State.bothBanks (takeAccepted d9 s) n = State.bothBanks s n := rfl
@[simp] theorem toggling_takeAccepted (d9 : CmdCtx) (s : State) (x : Partition) : State.toggling (takeAccepted d9 s) x = State.toggling s x := rfl
@[simp] theorem memberReady_takeAccepted (d9 : CmdCtx) (s : State) (p : Nat) (q : StartSeq) : State.memberReady (takeAccepted d9 s) p q = State.memberReady s p q := rfl
@[simp] theorem measureLinks_takeAccepted (d9 : CmdCtx) (s : State) (sc : Nat) : State.measureLinks (takeAccepted d9 s) sc = State.measureLinks s sc := rfl
@[simp] theorem ownChecks_takeAccepted (d9 : CmdCtx) (p : Nat) (s : State) : ownChecks p (takeAccepted d9 s) = ownChecks p s := rfl
@[simp] theorem mappedActive_takeAccepted (d9 : CmdCtx) (s : State) (p : Nat) : State.mappedActive (takeAccepted d9 s) p = State.mappedActive s p := rfl
@[simp] theorem usableLanes_takeAccepted (d9 : CmdCtx) (s : State) (k : Nat) : State.usableLanes (takeAccepted d9 s) k = State.usableLanes s k := rfl
@[simp] theorem healthy_takeAccepted (d9 : CmdCtx) (s : State) (k : Nat) : State.healthy (takeAccepted d9 s) k = State.healthy s k := rfl
@[simp] theorem lanesInUse_takeAccepted (d9 : CmdCtx) (s : State) (k : Nat) : State.lanesInUse (takeAccepted d9 s) k = State.lanesInUse s k := rfl
@[simp] theorem leads_takeAccepted (d9 : CmdCtx) (s : State) (k : Nat) : State.leads (takeAccepted d9 s) k = State.leads s k := rfl
@[simp] theorem requestLanes_takeAccepted (d9 : CmdCtx) (s : State) (k : Nat) : State.requestLanes (takeAccepted d9 s) k = State.requestLanes s k := rfl
@[simp] theorem widthFor_takeAccepted (d9 : CmdCtx) (s : State) (k code : Nat) : State.widthFor (takeAccepted d9 s) k code = State.widthFor s k code := rfl
@[simp] theorem linkBusy_takeAccepted (d9 : CmdCtx) (s : State) (k : Nat) : State.linkBusy (takeAccepted d9 s) k = State.linkBusy s k := rfl
@[simp] theorem mayRecover_takeAccepted (d9 : CmdCtx) (s : State) (n : Nat) : State.mayRecover (takeAccepted d9 s) n = State.mayRecover s n := rfl
@[simp] theorem calibrating_takeAccepted (d9 : CmdCtx) (s : State) (n : Nat) : State.calibrating (takeAccepted d9 s) n = State.calibrating s n := rfl
@[simp] theorem slowest_takeAccepted (d9 : CmdCtx) (s : State) (n : Nat) (l : List Nat) : State.slowest (takeAccepted d9 s) n l = State.slowest s n l := rfl
@[simp] theorem toTrain_takeAccepted (d9 : CmdCtx) (s : State) (n : Nat) : State.toTrain (takeAccepted d9 s) n = State.toTrain s n := rfl
@[simp] theorem eqData_takeAccepted (d9 : CmdCtx) (n : Nat) (s : State) : eqData n (takeAccepted d9 s) = eqData n s := rfl
@[simp] theorem widthMask_takeAccepted (d9 : CmdCtx) (k code : Nat) (s : State) : widthMask k code (takeAccepted d9 s) = widthMask k code s := rfl
@[simp] theorem measureFits_takeAccepted (d9 : CmdCtx) (s : State) (n : Nat) : State.measureFits (takeAccepted d9 s) n = State.measureFits s n := rfl
@[simp] theorem pendantSent_takeAccepted (d9 : CmdCtx) (s : State) : State.pendantSent (takeAccepted d9 s) = State.pendantSent s := rfl
@[simp] theorem pendantCrypt_takeAccepted (d9 : CmdCtx) (step lane side : Nat) (payload : BitVec 72) (s : State) : pendantCrypt step lane side payload (takeAccepted d9 s) = pendantCrypt step lane side payload s := rfl
@[simp] theorem sigTarget_takeAccepted (d9 : CmdCtx) (s : State) (q : Partition → Bool) : State.sigTarget (takeAccepted d9 s) q = State.sigTarget s q := rfl
@[simp] theorem inFlight_takeAccepted (d9 : CmdCtx) (s : State) (l : Lane) : State.inFlight (takeAccepted d9 s) l = State.inFlight s l := rfl
@[simp] theorem straps_takeAccepted (d9 : CmdCtx) (s : State) : State.straps (takeAccepted d9 s) = State.straps s := rfl
@[simp] theorem identData_takeAccepted (d9 : CmdCtx) (s : State) : identData (takeAccepted d9 s) = identData s := rfl
@[simp] theorem equivData_takeAccepted (d9 : CmdCtx) (s : State) : equivData (takeAccepted d9 s) = equivData s := rfl
@[simp] theorem quoteBody_takeAccepted (d9 : CmdCtx) (nonce : BitVec 256) (mask : Byte) (s : State) : quoteBody nonce mask (takeAccepted d9 s) = quoteBody nonce mask s := rfl
@[simp] theorem quoteData_takeAccepted (d9 : CmdCtx) (nonce : BitVec 256) (mask : Byte) (s : State) : quoteData nonce mask (takeAccepted d9 s) = quoteData nonce mask s := rfl
@[simp] theorem foreignUpdate_takeAccepted (d9 : CmdCtx) (c : CmdCtx) (s : State) : foreignUpdate c (takeAccepted d9 s) = foreignUpdate c s := rfl
@[simp] theorem verifyStatus_takeAccepted (d9 : CmdCtx) (s : State) (total : Nat) (i : SlotImage) (ok : Bool) : verifyStatus (takeAccepted d9 s) total i ok = verifyStatus s total i ok := rfl
@[simp] theorem fwData_takeAccepted (d9 : CmdCtx) (s : State) : fwData (takeAccepted d9 s) = fwData s := rfl
@[simp] theorem genLevel_takeAccepted (d9 : CmdCtx) (s : State) (x : Partition) (w : U64) : State.genLevel (takeAccepted d9 s) x w = State.genLevel s x w := rfl
@[simp] theorem regionLevels_takeAccepted (d9 : CmdCtx) (s : State) (x : Partition) (region : Nat) : State.regionLevels (takeAccepted d9 s) x region = State.regionLevels s x region := rfl
@[simp] theorem headAt_takeAccepted (d9 : CmdCtx) (kind p : Nat) (x : Partition) (frame : FrameNo) (s : State) : headAt kind p x frame (takeAccepted d9 s) = headAt kind p x frame s := rfl
@[simp] theorem nmAt_takeAccepted (d9 : CmdCtx) (base i pcl bank : Nat) (s : State) : nmAt base i pcl bank (takeAccepted d9 s) = nmAt base i pcl bank s := rfl
@[simp] theorem portPlaces_takeAccepted (d9 : CmdCtx) (pcl : Nat) (s : State) : portPlaces pcl (takeAccepted d9 s) = portPlaces pcl s := rfl
@[simp] theorem portsAt_takeAccepted (d9 : CmdCtx) (base i pcl : Nat) (s : State) : portsAt base i pcl (takeAccepted d9 s) = portsAt base i pcl s := rfl
@[simp] theorem regionAt_takeAccepted (d9 : CmdCtx) (base i region : Nat) (x : Partition) (s : State) : regionAt base i region x (takeAccepted d9 s) = regionAt base i region x s := rfl
@[simp] theorem bmemsAt_takeAccepted (d9 : CmdCtx) (base pd : Nat) (s : State) : bmemsAt base pd (takeAccepted d9 s) = bmemsAt base pd s := rfl
@[simp] theorem slicesAt_takeAccepted (d9 : CmdCtx) (base pd kind : Nat) (s : State) : slicesAt base pd kind (takeAccepted d9 s) = slicesAt base pd kind s := rfl
@[simp] theorem dieAt_takeAccepted (d9 : CmdCtx) (kind base ld pd : Nat) (x : Partition) (bank : Nat) (s : State) : dieAt kind base ld pd x bank (takeAccepted d9 s) = dieAt kind base ld pd x bank s := rfl
@[simp] theorem castBytes_takeAccepted (d9 : CmdCtx) (kind p : Nat) (m : FrameNo) (s : State) : castBytes kind p m (takeAccepted d9 s) = castBytes kind p m s := rfl
@[simp] theorem captureRec_takeAccepted (d9 : CmdCtx) (kind p : Nat) (m : FrameNo) (s : State) : captureRec kind p m (takeAccepted d9 s) = captureRec kind p m s := rfl
@[simp] theorem shadowRead_takeAccepted (d9 : CmdCtx) (s : State) (off n : Nat) : State.shadowRead (takeAccepted d9 s) off n = State.shadowRead s off n := rfl
@[simp] theorem anyShadow_takeAccepted (d9 : CmdCtx) (s : State) : State.anyShadow (takeAccepted d9 s) = State.anyShadow s := rfl
@[simp] theorem castMismatch_takeAccepted (d9 : CmdCtx) (b : List Byte) (x : Partition) (s : State) : castMismatch b x (takeAccepted d9 s) = castMismatch b x s := rfl
@[simp] theorem lateSlices_takeAccepted (d9 : CmdCtx) (s : State) (x : Partition) : State.lateSlices (takeAccepted d9 s) x = State.lateSlices s x := rfl
@[simp] theorem pairRefusal_takeAccepted (d9 : CmdCtx) (p : Nat) (s : State) : pairRefusal p (takeAccepted d9 s) = pairRefusal p s := rfl
@[simp] theorem keyReady_takeAccepted (d9 : CmdCtx) (s : State) (jsid : Nat) : State.keyReady (takeAccepted d9 s) jsid = State.keyReady s jsid := rfl
@[simp] theorem binSecs_takeAccepted (d9 : CmdCtx) (s : State) (i : Nat) : State.binSecs (takeAccepted d9 s) i = State.binSecs s i := rfl
@[simp] theorem lifeUsed_takeAccepted (d9 : CmdCtx) (s : State) : State.lifeUsed (takeAccepted d9 s) = State.lifeUsed s := rfl
@[simp] theorem plainCounters_takeAccepted (d9 : CmdCtx) (s : State) (sub unit : Nat) (ids : List Nat) : plainCounters (takeAccepted d9 s) sub unit ids = plainCounters s sub unit ids := rfl
@[simp] theorem directory_takeAccepted (d9 : CmdCtx) (s : State) (sub unit : Nat) : directory (takeAccepted d9 s) sub unit = directory s sub unit := rfl
@[simp] theorem checkAt_takeAccepted (d9 : CmdCtx) (s : State) (code key : Nat) : State.checkAt (takeAccepted d9 s) code key = State.checkAt s code key := rfl
@[simp] theorem ownerOf_takeAccepted (d9 : CmdCtx) (s : State) (code key : Nat) : State.ownerOf (takeAccepted d9 s) code key = State.ownerOf s code key := rfl
@[simp] theorem badIn_takeAccepted (d9 : CmdCtx) (s : State) (code lo n : Nat) : State.badIn (takeAccepted d9 s) code lo n = State.badIn s code lo n := rfl
@[simp] theorem freeFor_takeAccepted (d9 : CmdCtx) (s : State) (p : Option Nat) (n : Partition → Nat) : State.freeFor (takeAccepted d9 s) p n = State.freeFor s p n := rfl
@[simp] theorem raspOn_takeAccepted (d9 : CmdCtx) (s : State) : State.raspOn (takeAccepted d9 s) = State.raspOn s := rfl
@[simp] theorem nextRecovery_takeAccepted (d9 : CmdCtx) (s : State) (p : Nat) : State.nextRecovery (takeAccepted d9 s) p = State.nextRecovery s p := rfl
@[simp] theorem freeStore_takeAccepted (d9 : CmdCtx) (s : State) (p code key : Nat) : State.freeStore (takeAccepted d9 s) p code key = State.freeStore s p code key := rfl
@[simp] theorem relocTarget_takeAccepted (d9 : CmdCtx) (p die : Nat) (s : State) : relocTarget p die (takeAccepted d9 s) = relocTarget p die s := rfl
@[simp] theorem raspEngines_takeAccepted (d9 : CmdCtx) (s : State) : State.raspEngines (takeAccepted d9 s) = State.raspEngines s := rfl
@[simp] theorem maintData_takeAccepted (d9 : CmdCtx) (s : State) : maintData (takeAccepted d9 s) = maintData s := rfl
@[simp] theorem haltBarred_takeAccepted (d9 : CmdCtx) (s : State) : haltBarred (takeAccepted d9 s) = haltBarred s := rfl
@[simp] theorem eccUnit_takeAccepted (d9 : CmdCtx) (s : State) (st : Store) (key size v loc : Nat) : eccUnit (takeAccepted d9 s) st key size v loc = eccUnit s st key size v loc := rfl
@[simp] theorem wordPlace_takeAccepted (d9 : CmdCtx) (s : State) (a : Nat) : wordPlace (takeAccepted d9 s) a = wordPlace s a := rfl
@[simp] theorem rowUnit_takeAccepted (d9 : CmdCtx) (s : State) (pcl grp bank row : Nat) : rowUnit (takeAccepted d9 s) pcl grp bank row = rowUnit s pcl grp bank row := rfl
@[simp] theorem rowPlace_takeAccepted (d9 : CmdCtx) (s : State) (a : Nat) : rowPlace (takeAccepted d9 s) a = rowPlace s a := rfl
@[simp] theorem entryPlace_takeAccepted (d9 : CmdCtx) (s : State) (st : Store) (base e0 count size mask loc : Nat) (get : Nat → Nat) (put : Nat → Nat → State → State) (owner : State → Option Nat) : entryPlace (takeAccepted d9 s) st base e0 count size mask loc get put owner = entryPlace s st base e0 count size mask loc get put owner := rfl
@[simp] theorem portOfPcl_takeAccepted (d9 : CmdCtx) (s : State) (pcl : Nat) : portOfPcl (takeAccepted d9 s) pcl = portOfPcl s pcl := rfl
@[simp] theorem partOfPort_takeAccepted (d9 : CmdCtx) (s : State) (port : Nat) : State.partOfPort (takeAccepted d9 s) port = State.partOfPort s port := rfl
@[simp] theorem partOfSlice_takeAccepted (d9 : CmdCtx) (s : State) (n : Nat) : State.partOfSlice (takeAccepted d9 s) n = State.partOfSlice s n := rfl
@[simp] theorem uopPlace_takeAccepted (d9 : CmdCtx) (s : State) (n j0 loc : Nat) : uopPlace (takeAccepted d9 s) n j0 loc = uopPlace s n j0 loc := rfl
@[simp] theorem entryAt_takeAccepted (d9 : CmdCtx) (s : State) (a : Nat) : entryAt (takeAccepted d9 s) a = entryAt s a := rfl
@[simp] theorem dbgPlace_takeAccepted (d9 : CmdCtx) (s : State) (space a : Nat) : dbgPlace (takeAccepted d9 s) space a = dbgPlace s space a := rfl
@[simp] theorem lineIv_takeAccepted (d9 : CmdCtx) (s : State) (line : Nat) : State.lineIv (takeAccepted d9 s) line = State.lineIv s line := rfl
@[simp] theorem contentOpen_takeAccepted (d9 : CmdCtx) (s : State) (line : Nat) : State.contentOpen (takeAccepted d9 s) line = State.contentOpen s line := rfl
@[simp] theorem storedLine_takeAccepted (d9 : CmdCtx) (s : State) (line : Nat) : State.storedLine (takeAccepted d9 s) line = State.storedLine s line := rfl
@[simp] theorem storedTag_takeAccepted (d9 : CmdCtx) (s : State) (line : Nat) : State.storedTag (takeAccepted d9 s) line = State.storedTag s line := rfl
@[simp] theorem storedByte_takeAccepted (d9 : CmdCtx) (s : State) (a : Nat) : State.storedByte (takeAccepted d9 s) a = State.storedByte s a := rfl
@[simp] theorem firstFault_takeAccepted (d9 : CmdCtx) (s : State) (jsid a n : Nat) (wr : Bool) : firstFault (takeAccepted d9 s) jsid a n wr = firstFault s jsid a n wr := rfl
@[simp] theorem pwrRefusal_takeAccepted (d9 : CmdCtx) (target : PwrState) (s : State) : pwrRefusal target (takeAccepted d9 s) = pwrRefusal target s := rfl
@[simp] theorem domCond_takeAccepted (d9 : CmdCtx) (d : Domain) (s : State) : domCond d (takeAccepted d9 s) = domCond d s := rfl
@[simp] theorem domBits_takeAccepted (d9 : CmdCtx) (s : State) : domBits (takeAccepted d9 s) = domBits s := rfl
@[simp] theorem regionBits_takeAccepted (d9 : CmdCtx) (s : State) : regionBits (takeAccepted d9 s) = regionBits s := rfl
@[simp] theorem imageSum_takeAccepted (d9 : CmdCtx) (s : State) : State.imageSum (takeAccepted d9 s) = State.imageSum s := rfl
@[simp] theorem imageOk_takeAccepted (d9 : CmdCtx) (s : State) (i : SlotImage) : State.imageOk (takeAccepted d9 s) i = State.imageOk s i := rfl
@[simp] theorem quiet_takeAccepted (d9 : CmdCtx) (s : State) (target : PwrState) : State.quiet (takeAccepted d9 s) target = State.quiet s target := rfl
@[simp] theorem stepDone_takeAccepted (d9 : CmdCtx) (s : State) (t : Transition) (k : TStep) : State.stepDone (takeAccepted d9 s) t k = State.stepDone s t k := rfl
@[simp] theorem watchHeartbeat_takeAccepted (d9 : CmdCtx) (blocks : List Block) (s : State) : watchHeartbeat blocks (takeAccepted d9 s) = watchHeartbeat blocks s := rfl
@[simp] theorem watchItem_takeAccepted (d9 : CmdCtx) (readings : List (Option U16)) (coolantOk : Bool) (blocks : List Block) (s : State) : watchItem readings coolantOk blocks (takeAccepted d9 s) = watchItem readings coolantOk blocks s := rfl
@[simp] theorem watchPeriods_takeAccepted (d9 : CmdCtx) (s : State) : State.watchPeriods (takeAccepted d9 s) = State.watchPeriods s := rfl
@[simp] theorem pllOn_takeAccepted (d9 : CmdCtx) (s : State) : State.pllOn (takeAccepted d9 s) = State.pllOn s := rfl
@[simp] theorem routeTo_takeAccepted (d9 : CmdCtx) (s : State) (addr : Nat) : State.routeTo (takeAccepted d9 s) addr = State.routeTo s addr := rfl
@[simp] theorem childBits_takeAccepted (d9 : CmdCtx) (s : State) : State.childBits (takeAccepted d9 s) = State.childBits s := rfl
@[simp] theorem childRecord_takeAccepted (d9 : CmdCtx) (s : State) : State.childRecord (takeAccepted d9 s) = State.childRecord s := rfl
@[simp] theorem bicMatches_takeAccepted (d9 : CmdCtx) (s : State) (k : Nat) : State.bicMatches (takeAccepted d9 s) k = State.bicMatches s k := rfl
@[simp] theorem divergent_takeAccepted (d9 : CmdCtx) (s : State) (k : ConsensusKid) : State.divergent (takeAccepted d9 s) k = State.divergent s k := rfl
@[simp] theorem captureQuery_takeAccepted (d9 : CmdCtx) (s : State) (q : ConsensusQ) : captureQuery (takeAccepted d9 s) q = captureQuery s q := rfl
@[simp] theorem awaits_takeAccepted (d9 : CmdCtx) (s : State) (link tag : Nat) : State.awaits (takeAccepted d9 s) link tag = State.awaits s link tag := rfl
@[simp] theorem frameFieldBad_takeAccepted (d9 : CmdCtx) (op : Nat) (m : FrameNo) (p : List Byte) (s : State) : frameFieldBad op m p (takeAccepted d9 s) = frameFieldBad op m p s := rfl
@[simp] theorem packetRefusal_takeAccepted (d9 : CmdCtx) (b : List Byte) (pathOk : Bool) (s : State) : packetRefusal b pathOk (takeAccepted d9 s) = packetRefusal b pathOk s := rfl
@[simp] theorem linkOffset_takeAccepted (d9 : CmdCtx) (s : State) (src : Nat) : State.linkOffset (takeAccepted d9 s) src = State.linkOffset s src := rfl
@[simp] theorem pathOwn_takeAccepted (d9 : CmdCtx) (s : State) (b : List Byte) : State.pathOwn (takeAccepted d9 s) b = State.pathOwn s b := rfl
@[simp] theorem dbgOn_takeAccepted (d9 : CmdCtx) (s : State) : State.dbgOn (takeAccepted d9 s) = State.dbgOn s := rfl
@[simp] theorem observes_takeAccepted (d9 : CmdCtx) (s : State) : State.observes (takeAccepted d9 s) = State.observes s := rfl
@[simp] theorem dapStatus_takeAccepted (d9 : CmdCtx) (s : State) : dapStatus (takeAccepted d9 s) = dapStatus s := rfl
@[simp] theorem chalWord_takeAccepted (d9 : CmdCtx) (k : Nat) (s : State) : chalWord k (takeAccepted d9 s) = chalWord k s := rfl
@[simp] theorem plainRead_takeAccepted (d9 : CmdCtx) (reg : Nat) (s : State) : plainRead reg (takeAccepted d9 s) = plainRead reg s := rfl
@[simp] theorem extestOk_takeAccepted (d9 : CmdCtx) (s : State) : State.extestOk (takeAccepted d9 s) = State.extestOk s := rfl
@[simp] theorem suspendedList_takeAccepted (d9 : CmdCtx) (c : CmdCtx) (eng : Byte) (rsvd : BitVec 24) (lseq : U32) (s : State) : suspendedList c eng rsvd lseq (takeAccepted d9 s) = suspendedList c eng rsvd lseq s := rfl
@[simp] theorem dmaStatusData_takeAccepted (d9 : CmdCtx) (c : CmdCtx) (eng : Nat) (s : State) : dmaStatusData c eng (takeAccepted d9 s) = dmaStatusData c eng s := rfl
@[simp] theorem readLen_takeAccepted (d9 : CmdCtx) (l : DmaList) (s : State) : readLen l (takeAccepted d9 s) = readLen l s := rfl
@[simp] theorem saveRuns_takeAccepted (d9 : CmdCtx) (s : State) (p : Nat) (l : DmaList) (r : CastRec) : State.saveRuns (takeAccepted d9 s) p l r = State.saveRuns s p l r := rfl
@[simp] theorem forwardLink_takeAccepted (d9 : CmdCtx) (s : State) (b : List Byte) : State.forwardLink (takeAccepted d9 s) b = State.forwardLink s b := rfl
@[simp] theorem linkBlocked_takeAccepted (d9 : CmdCtx) (s : State) (b : List Byte) : State.linkBlocked (takeAccepted d9 s) b = State.linkBlocked s b := rfl
@[simp] theorem linkReady_takeAccepted (d9 : CmdCtx) (s : State) (k : Nat) : State.linkReady (takeAccepted d9 s) k = State.linkReady s k := rfl
@[simp] theorem seesFrame_takeAccepted (d9 : CmdCtx) (s : State) (n p : Nat) : State.seesFrame (takeAccepted d9 s) n p = State.seesFrame s n p := rfl
@[simp] theorem tstatOf_takeAccepted (d9 : CmdCtx) (s : State) : tstatOf (takeAccepted d9 s) = tstatOf s := rfl
@[simp] theorem used_takeAccepted (d9 : CmdCtx) (s : State) (r port vc : Nat) : State.used (takeAccepted d9 s) r port vc = State.used s r port vc := rfl
@[simp] theorem hasSlots_takeAccepted (d9 : CmdCtx) (s : State) (r port : Nat) (h : NocHeader) : State.hasSlots (takeAccepted d9 s) r port h = State.hasSlots s r port h := rfl
@[simp] theorem outPort_takeAccepted (d9 : CmdCtx) (s : State) (r : Nat) (h : NocHeader) : outPort (takeAccepted d9 s) r h = outPort s r h := rfl
@[simp] theorem ageNow_takeAccepted (d9 : CmdCtx) (s : State) (e : NocPacket) : State.ageNow (takeAccepted d9 s) e = State.ageNow s e := rfl
@[simp] theorem waiting_takeAccepted (d9 : CmdCtx) (s : State) (r port vc : Nat) : State.waiting (takeAccepted d9 s) r port vc = State.waiting s r port vc := rfl
@[simp] theorem goesBefore_takeAccepted (d9 : CmdCtx) (s : State) (last : Nat) (a b : NocPacket) : State.goesBefore (takeAccepted d9 s) last a b = State.goesBefore s last a b := rfl
@[simp] theorem grantee_takeAccepted (d9 : CmdCtx) (s : State) (r port vc : Nat) : State.grantee (takeAccepted d9 s) r port vc = State.grantee s r port vc := rfl
@[simp] theorem granted_takeAccepted (d9 : CmdCtx) (s : State) (r port : Nat) (h : NocHeader) : State.granted (takeAccepted d9 s) r port h = State.granted s r port h := rfl
@[simp] theorem upstream_takeAccepted (d9 : CmdCtx) (s : State) (r port : Nat) (h : NocHeader) : State.upstream (takeAccepted d9 s) r port h = State.upstream s r port h := rfl
@[simp] theorem nocCtr_takeAccepted (d9 : CmdCtx) (s : State) (i : Nat) : State.nocCtr (takeAccepted d9 s) i = State.nocCtr s i := rfl
@[simp] theorem creditsHeld_takeAccepted (d9 : CmdCtx) (s : State) (h : NocHeader) : State.creditsHeld (takeAccepted d9 s) h = State.creditsHeld s h := rfl
@[simp] theorem hasCredit_takeAccepted (d9 : CmdCtx) (s : State) (h : NocHeader) : State.hasCredit (takeAccepted d9 s) h = State.hasCredit s h := rfl
@[simp] theorem mayForward_takeAccepted (d9 : CmdCtx) (s : State) (r : Nat) (h : NocHeader) (cycles : Nat) : State.mayForward (takeAccepted d9 s) r h cycles = State.mayForward s r h cycles := rfl
@[simp] theorem maySend_takeAccepted (d9 : CmdCtx) (s : State) (r port : Nat) (h : NocHeader) : State.maySend (takeAccepted d9 s) r port h = State.maySend s r port h := rfl
@[simp] theorem partMask_takeAccepted (d9 : CmdCtx) (s : State) (q : Partition → Bool) : State.partMask (takeAccepted d9 s) q = State.partMask s q := rfl
@[simp] theorem runningParts_takeAccepted (d9 : CmdCtx) (s : State) : State.runningParts (takeAccepted d9 s) = State.runningParts s := rfl
@[simp] theorem executing_takeAccepted (d9 : CmdCtx) (s : State) : State.executing (takeAccepted d9 s) = State.executing s := rfl
@[simp] theorem ownReport_takeAccepted (d9 : CmdCtx) (s : State) : State.ownReport (takeAccepted d9 s) = State.ownReport s := rfl
@[simp] theorem idigest_takeAccepted (d9 : CmdCtx) (s : State) (p : Nat) : State.idigest (takeAccepted d9 s) p = State.idigest s p := rfl
@[simp] theorem lineOwner_takeAccepted (d9 : CmdCtx) (s : State) (line : Nat) : State.lineOwner (takeAccepted d9 s) line = State.lineOwner s line := rfl
@[simp] theorem lineAddr_takeAccepted (d9 : CmdCtx) (s : State) (jsid line : Nat) : State.lineAddr (takeAccepted d9 s) jsid line = State.lineAddr s jsid line := rfl
@[simp] theorem nextCopy_takeAccepted (d9 : CmdCtx) (s : State) : State.nextCopy (takeAccepted d9 s) = State.nextCopy s := rfl
@[simp] theorem messagesOut_takeAccepted (d9 : CmdCtx) (s : State) : State.messagesOut (takeAccepted d9 s) = State.messagesOut s := rfl
@[simp] theorem received_takeAccepted (d9 : CmdCtx) (s : State) (p : Nat) : State.received (takeAccepted d9 s) p = State.received s p := rfl
@[simp] theorem receivedHistory_takeAccepted (d9 : CmdCtx) (s : State) (p b lin : Nat) : State.receivedHistory (takeAccepted d9 s) p b lin = State.receivedHistory s p b lin := rfl
@[simp] theorem recordEpochs_takeAccepted (d9 : CmdCtx) (s : State) (p : Nat) : State.recordEpochs (takeAccepted d9 s) p = State.recordEpochs s p := rfl
@[simp] theorem pairStepNo_takeAccepted (d9 : CmdCtx) (s : State) : State.pairStepNo (takeAccepted d9 s) = State.pairStepNo s := rfl
@[simp] theorem ownHello_takeAccepted (d9 : CmdCtx) (s : State) : State.ownHello (takeAccepted d9 s) = State.ownHello s := rfl
@[simp] theorem resyncCond_takeAccepted (d9 : CmdCtx) (empty : Bool) (s : State) : resyncCond empty (takeAccepted d9 s) = resyncCond empty s := rfl
@[simp] theorem joinCond_takeAccepted (d9 : CmdCtx) (op : Nat) (s : State) : joinCond op (takeAccepted d9 s) = joinCond op s := rfl
@[simp] theorem pairChanging_takeAccepted (d9 : CmdCtx) (s : State) (op : Nat) : State.pairChanging (takeAccepted d9 s) op = State.pairChanging s op := rfl
@[simp] theorem mayDissolve_takeAccepted (d9 : CmdCtx) (s : State) : State.mayDissolve (takeAccepted d9 s) = State.mayDissolve s := rfl
@[simp] theorem pendantData_takeAccepted (d9 : CmdCtx) (s : State) : pendantData (takeAccepted d9 s) = pendantData s := rfl
@[simp] theorem allPaused_takeAccepted (d9 : CmdCtx) (s : State) : State.allPaused (takeAccepted d9 s) = State.allPaused s := rfl
@[simp] theorem castFree_takeAccepted (d9 : CmdCtx) (s : State) : State.castFree (takeAccepted d9 s) = State.castFree s := rfl
@[simp] theorem verified_takeAccepted (d9 : CmdCtx) (s : State) : State.verified (takeAccepted d9 s) = State.verified s := rfl
@[simp] theorem engineBad_takeAccepted (d9 : CmdCtx) (s : State) (pcl : Nat) : State.engineBad (takeAccepted d9 s) pcl = State.engineBad s pcl := rfl
@[simp] theorem handedOver_takeAccepted (d9 : CmdCtx) (s : State) (pcl : Nat) : State.handedOver (takeAccepted d9 s) pcl = State.handedOver s pcl := rfl
@[simp] theorem pairReady_takeAccepted (d9 : CmdCtx) (s : State) (pair : Nat) : State.pairReady (takeAccepted d9 s) pair = State.pairReady s pair := rfl
@[simp] theorem oldestRequest_takeAccepted (d9 : CmdCtx) (p : Nat) (q : Nat → Bool) (s : State) : oldestRequest p q (takeAccepted d9 s) = oldestRequest p q s := rfl
@[simp] theorem sendsIdle_takeAccepted (d9 : CmdCtx) (s : State) (x : Partition) : State.sendsIdle (takeAccepted d9 s) x = State.sendsIdle s x := rfl
@[simp] theorem txBit_takeAccepted (d9 : CmdCtx) (s : State) (pos : Nat) : State.txBit (takeAccepted d9 s) pos = State.txBit s pos := rfl
@[simp] theorem dataPayload_takeAccepted (d9 : CmdCtx) (s : State) (x : Partition) (n : Nat) : State.dataPayload (takeAccepted d9 s) x n = State.dataPayload s x n := rfl
@[simp] theorem trainPayload_takeAccepted (d9 : CmdCtx) (s : State) (n : Nat) : State.trainPayload (takeAccepted d9 s) n = State.trainPayload s n := rfl
@[simp] theorem calPayload_takeAccepted (d9 : CmdCtx) (s : State) (p n : Nat) : State.calPayload (takeAccepted d9 s) p n = State.calPayload s p n := rfl
@[simp] theorem laneContent_takeAccepted (d9 : CmdCtx) (s : State) (n : Nat) : State.laneContent (takeAccepted d9 s) n = State.laneContent s n := rfl
@[simp] theorem blockContent_takeAccepted (d9 : CmdCtx) (ptype : Nat) (v : U64) (s : State) : blockContent ptype v (takeAccepted d9 s) = blockContent ptype v s := rfl
@[simp] theorem copyNow_takeAccepted (d9 : CmdCtx) (s : State) (c : LaneCopy) : State.copyNow (takeAccepted d9 s) c = State.copyNow s c := rfl
@[simp] theorem nocCycle_takeAccepted (d9 : CmdCtx) (s : State) : State.nocCycle (takeAccepted d9 s) = State.nocCycle s := rfl

end Sys2Proof.Machine
end

