-- ==== Sys2Proof/Laws/Host.lean ====
section
/-!
SUPPORT. Host.lean (laws): a register access that reaches its function has its effect, and waking a domain changes nothing but the
power state's list of woken domains.
-/
namespace Sys2Proof.Machine

/-- An access that reaches its function has its effect, in the state where its domain is awake. -/
theorem hostAccess_reaches {n : Nat} {body : State → State} {s : State} (h : s.reaches n = true) :
    hostAccess n body s = body (touchDomain .base s) := by
  simp only [State.reaches, Bool.and_eq_true, Bool.not_eq_true', decide_eq_true_eq] at h
  simp [hostAccess, h.1.1, h.1.2, h.2]

@[simp] theorem touchDomain_ident (d : Domain) (s : State) : (touchDomain d s).ident = s.ident := by unfold touchDomain; dsimp only; (repeat' split) <;> rfl
@[simp] theorem touchDomain_clk (d : Domain) (s : State) : (touchDomain d s).clk = s.clk := by unfold touchDomain; dsimp only; (repeat' split) <;> rfl
@[simp] theorem touchDomain_plinth (d : Domain) (s : State) : (touchDomain d s).plinth = s.plinth := by unfold touchDomain; dsimp only; (repeat' split) <;> rfl
@[simp] theorem touchDomain_fns (d : Domain) (s : State) : (touchDomain d s).fns = s.fns := by unfold touchDomain; dsimp only; (repeat' split) <;> rfl
@[simp] theorem touchDomain_dbg (d : Domain) (s : State) : (touchDomain d s).dbg = s.dbg := by unfold touchDomain; dsimp only; (repeat' split) <;> rfl
@[simp] theorem touchDomain_arm (d : Domain) (s : State) : (touchDomain d s).arm = s.arm := by unfold touchDomain; dsimp only; (repeat' split) <;> rfl
@[simp] theorem touchDomain_links (d : Domain) (s : State) : (touchDomain d s).links = s.links := by unfold touchDomain; dsimp only; (repeat' split) <;> rfl
@[simp] theorem touchDomain_lanes (d : Domain) (s : State) : (touchDomain d s).lanes = s.lanes := by unfold touchDomain; dsimp only; (repeat' split) <;> rfl
@[simp] theorem touchDomain_blinks (d : Domain) (s : State) : (touchDomain d s).blinks = s.blinks := by unfold touchDomain; dsimp only; (repeat' split) <;> rfl
@[simp] theorem touchDomain_parts (d : Domain) (s : State) : (touchDomain d s).parts = s.parts := by unfold touchDomain; dsimp only; (repeat' split) <;> rfl
@[simp] theorem touchDomain_arr (d : Domain) (s : State) : (touchDomain d s).arr = s.arr := by unfold touchDomain; dsimp only; (repeat' split) <;> rfl
@[simp] theorem touchDomain_fab (d : Domain) (s : State) : (touchDomain d s).fab = s.fab := by unfold touchDomain; dsimp only; (repeat' split) <;> rfl
@[simp] theorem touchDomain_dram (d : Domain) (s : State) : (touchDomain d s).dram = s.dram := by unfold touchDomain; dsimp only; (repeat' split) <;> rfl
@[simp] theorem touchDomain_trans (d : Domain) (s : State) : (touchDomain d s).trans = s.trans := by unfold touchDomain; dsimp only; (repeat' split) <;> rfl
@[simp] theorem touchDomain_dma (d : Domain) (s : State) : (touchDomain d s).dma = s.dma := by unfold touchDomain; dsimp only; (repeat' split) <;> rfl
@[simp] theorem touchDomain_lseq (d : Domain) (s : State) : (touchDomain d s).lseq = s.lseq := by unfold touchDomain; dsimp only; (repeat' split) <;> rfl
@[simp] theorem touchDomain_keys (d : Domain) (s : State) : (touchDomain d s).keys = s.keys := by unfold touchDomain; dsimp only; (repeat' split) <;> rfl
@[simp] theorem touchDomain_noc (d : Domain) (s : State) : (touchDomain d s).noc = s.noc := by unfold touchDomain; dsimp only; (repeat' split) <;> rfl
@[simp] theorem touchDomain_pend (d : Domain) (s : State) : (touchDomain d s).pend = s.pend := by unfold touchDomain; dsimp only; (repeat' split) <;> rfl
@[simp] theorem touchDomain_maint (d : Domain) (s : State) : (touchDomain d s).maint = s.maint := by unfold touchDomain; dsimp only; (repeat' split) <;> rfl
@[simp] theorem touchDomain_logs (d : Domain) (s : State) : (touchDomain d s).logs = s.logs := by unfold touchDomain; dsimp only; (repeat' split) <;> rfl
@[simp] theorem touchDomain_trust (d : Domain) (s : State) : (touchDomain d s).trust = s.trust := by unfold touchDomain; dsimp only; (repeat' split) <;> rfl
@[simp] theorem touchDomain_fw (d : Domain) (s : State) : (touchDomain d s).fw = s.fw := by unfold touchDomain; dsimp only; (repeat' split) <;> rfl
@[simp] theorem touchDomain_health (d : Domain) (s : State) : (touchDomain d s).health = s.health := by unfold touchDomain; dsimp only; (repeat' split) <;> rfl
@[simp] theorem touchDomain_out (d : Domain) (s : State) : (touchDomain d s).out = s.out := by unfold touchDomain; dsimp only; (repeat' split) <;> rfl
@[simp] theorem touchDomain_free (d : Domain) (s : State) : (touchDomain d s).free = s.free := by unfold touchDomain; dsimp only; (repeat' split) <;> rfl
@[simp] theorem touchDomain_pending (d : Domain) (s : State) : (touchDomain d s).pending = s.pending := by unfold touchDomain; dsimp only; (repeat' split) <;> rfl
@[simp] theorem touchDomain_fn (d : Domain) (s : State) (n : Nat) : (touchDomain d s).fn n = s.fn n := by simp [State.fn]
@[simp] theorem touchDomain_part (d : Domain) (s : State) (p : Nat) : (touchDomain d s).part p = s.part p := by simp [State.part]

end Sys2Proof.Machine
end

