-- ==== Sys2Proof/Laws/Maps.lean ====
section
/-!
SUPPORT. Maps.lean: laws of the sparse stores: a read after a write, and that every write keeps the canonical form.
-/
namespace Sys2Proof.Machine

theorem smWfFrom_mono {α : Type} [DecidableEq α] {d : α} {lo hi : Nat} {m : SMap α} (h : hi ≤ lo) (w : smWfFrom d lo m = true) :
    smWfFrom d hi m = true := by
  cases m with
  | nil => rfl
  | cons e r =>
    obtain ⟨j, v⟩ := e
    simp only [smWfFrom, Bool.and_eq_true, decide_eq_true_eq] at w ⊢
    exact ⟨⟨by omega, w.1.2⟩, w.2⟩

theorem smWfFrom_smSet {α : Type} [DecidableEq α] {d : α} {lo : Nat} {m : SMap α} {k : Nat} {v : α} (hk : lo ≤ k)
    (w : smWfFrom d lo m = true) : smWfFrom d lo (smSet d m k v) = true := by
  induction m generalizing lo with
  | nil =>
    unfold smSet
    split
    · rfl
    · rename_i hv
      simp [smWfFrom, hk, hv]
  | cons e r ih =>
    obtain ⟨j, x⟩ := e
    simp only [smWfFrom, Bool.and_eq_true, decide_eq_true_eq] at w
    unfold smSet
    split
    · split
      · simp [smWfFrom, w.1.1, w.1.2, w.2]
      · rename_i hlt hv
        simp only [smWfFrom, Bool.and_eq_true, decide_eq_true_eq]
        exact ⟨⟨hk, hv⟩, ⟨by omega, w.1.2⟩, w.2⟩
    · split
      · split
        · exact smWfFrom_mono (by omega) w.2
        · rename_i hj hv
          subst hj
          simp only [smWfFrom, Bool.and_eq_true, decide_eq_true_eq]
          exact ⟨⟨hk, hv⟩, w.2⟩
      · simp only [smWfFrom, Bool.and_eq_true, decide_eq_true_eq]
        exact ⟨w.1, ih (by omega) w.2⟩

theorem smWf_smSet {α : Type} [DecidableEq α] {d : α} {m : SMap α} {k : Nat} {v : α} (w : smWf d m = true) : smWf d (smSet d m k v) = true :=
  smWfFrom_smSet (Nat.zero_le k) w

theorem smWf_smPutAll {α : Type} [DecidableEq α] {d : α} {m : SMap α} {l : List (Nat × α)} (w : smWf d m = true) :
    smWf d (smPutAll d m l) = true := by
  unfold smPutAll
  induction l generalizing m with
  | nil => exact w
  | cons e r ih => exact ih (smWf_smSet w)

/-- A write leaves every other key alone. -/
theorem smGet_smSet_ne {α : Type} [DecidableEq α] {d : α} {m : SMap α} {k j : Nat} {v : α} (h : k ≠ j) :
    smGet d (smSet d m k v) j = smGet d m j := by
  induction m with
  | nil => unfold smSet; split <;> simp [smGet, h]
  | cons e r ih =>
    obtain ⟨i, x⟩ := e
    unfold smSet
    split
    · split <;> simp [smGet, h]
    · split
      · rename_i hi; subst hi; split <;> simp [smGet, h]
      · simp only [smGet, ih]

/-- No entry stands below the bound of a canonical store. -/
theorem smGet_below {α : Type} [DecidableEq α] {d : α} {lo k : Nat} {m : SMap α} (w : smWfFrom d lo m = true) (h : k < lo) :
    smGet d m k = d := by
  induction m generalizing lo with
  | nil => rfl
  | cons e r ih =>
    obtain ⟨i, x⟩ := e
    simp only [smWfFrom, Bool.and_eq_true, decide_eq_true_eq] at w
    have hi : i ≠ k := by omega
    simp only [smGet, if_neg hi]
    exact ih w.2 (by omega)

/-- Writes to other keys leave a key's value. -/
theorem smGet_smPutAll_ne {α : Type} [DecidableEq α] {d : α} {m : SMap α} {l : List (Nat × α)} {j : Nat} (h : ∀ e ∈ l, e.1 ≠ j) :
    smGet d (smPutAll d m l) j = smGet d m j := by
  unfold smPutAll
  induction l generalizing m with
  | nil => rfl
  | cons e l ih =>
    exact (ih (m := smSet d m e.1 e.2) fun x hx => h x (List.mem_cons_of_mem _ hx)).trans (smGet_smSet_ne (h e List.mem_cons_self))

/-- A read after a write to the same key gives the value written. -/
theorem smGet_smSet_self {α : Type} [DecidableEq α] {d : α} {lo k : Nat} {m : SMap α} {v : α} (w : smWfFrom d lo m = true) :
    smGet d (smSet d m k v) k = v := by
  induction m generalizing lo with
  | nil => unfold smSet; split <;> simp_all [smGet]
  | cons e r ih =>
    obtain ⟨i, x⟩ := e
    simp only [smWfFrom, Bool.and_eq_true, decide_eq_true_eq] at w
    unfold smSet
    split
    · rename_i hlt
      split
      · rename_i hv
        simp only [smGet, if_neg (show ¬ i = k by omega), hv]
        exact smGet_below w.2 (by omega)
      · simp [smGet]
    · split
      · rename_i hi; subst hi
        split
        · rename_i hv; rw [hv]; exact smGet_below w.2 (by omega)
        · simp [smGet]
      · rename_i hi
        simp only [smGet, if_neg hi]
        exact ih w.2

end Sys2Proof.Machine
end

