-- ==== Sys2Proof/Laws/Keeps.lean ====
section
/-!
SUPPORT. Keeps.lean: the relation that every operation of the machine keeps between the state before and after it: the queue and the
BIC are the same, and the bounds of State.Bounded still hold; with the lemmas that carry it through folds and choices.
-/
namespace Sys2Proof.Machine

/-- State t keeps what the block promises of every effect since s: the queue, the BIC (R2) and the bounds; and every DRAM byte whose
address satisfies P is the same. -/
def Keeps (P : Nat → Prop) (s t : State) : Prop :=
  (t.pending = s.pending ∧ ∀ a, P a → smGet 0#8 t.dram.mem a = smGet 0#8 s.dram.mem a) ∧ t.ident.bic = s.ident.bic ∧ (s.Bounded → t.Bounded)

/-- No address: the P of an operation that stores, of which Keeps then says nothing about memory. -/
def noByte (_ : Nat) : Prop := False

theorem Keeps.refl {P : Nat → Prop} (s : State) : Keeps P s s := ⟨⟨rfl, fun _ _ => rfl⟩, rfl, id⟩

theorem Keeps.mk {P : Nat → Prop} {s t : State}
    (h1 : t.pending = s.pending ∧ ∀ a, P a → smGet 0#8 t.dram.mem a = smGet 0#8 s.dram.mem a) (h2 : t.ident.bic = s.ident.bic) (h3 : s.Bounded →
    Memory.wf t.dram.mem = true ∧ t.logs.recs.length ≤ 8192 ∧ t.logs.sec.length ≤ 256 ∧ t.trust.log.length ≤ 65536) : Keeps P s t := ⟨h1, h2, h3⟩

theorem Keeps.trans {P : Nat → Prop} {a b c : State} (h : Keeps P a b) (k : Keeps P b c) : Keeps P a c :=
  ⟨⟨k.1.1.trans h.1.1, fun x px => (k.1.2 x px).trans (h.1.2 x px)⟩, k.2.1.trans h.2.1, fun x => k.2.2 (h.2.2 x)⟩

theorem Keeps.pend {P : Nat → Prop} {s t : State} (h : Keeps P s t) :
    t.pending = s.pending ∧ ∀ a, P a → smGet 0#8 t.dram.mem a = smGet 0#8 s.dram.mem a := h.1

/-- The queue stands, whatever an operation that stores does to memory. -/
theorem Keeps.queue {s t : State} {v w : SMap Byte} (h : Keeps noByte s t) :
    t.pending = s.pending ∧ ∀ a, noByte a → smGet 0#8 v a = smGet 0#8 w a := ⟨h.1.1, fun _ f => f.elim⟩

/-- A lemma about any memory forgets it. -/
theorem Keeps.forget {P : Nat → Prop} {s t : State} (h : Keeps P s t) : Keeps noByte s t := ⟨⟨h.1.1, fun _ f => f.elim⟩, h.2⟩

theorem Keeps.bic {P : Nat → Prop} {s t : State} (h : Keeps P s t) : t.ident.bic = s.ident.bic := h.2.1

theorem Keeps.bound {P : Nat → Prop} {s t : State} (h : Keeps P s t) : s.Bounded →
    Memory.wf t.dram.mem = true ∧ t.logs.recs.length ≤ 8192 ∧ t.logs.sec.length ≤ 256 ∧ t.trust.log.length ≤ 65536 := h.2.2

theorem foldl_keeps {P : Nat → Prop} {α : Type} {s0 s : State} {f : State → α → State} {l : List α}
    (hf : ∀ a k, Keeps P s0 a → Keeps P s0 (f a k)) (h : Keeps P s0 s) : Keeps P s0 (l.foldl f s) := by
  induction l generalizing s with
  | nil => exact h
  | cons x l ih => exact ih (hf s x h)

theorem foldl_prop {α β : Type} {P : β → Prop} {f : β → α → β} {l : List α} {b : β}
    (hf : ∀ a k, P a → P (f a k)) (h : P b) : P (l.foldl f b) := by
  induction l generalizing b with
  | nil => exact h
  | cons x l ih => exact ih (hf b x h)

theorem foldl_keeps2 {P : Nat → Prop} {α β : Type} {s0 : State} {f : β × State → α → β × State} {l : List α} {b : β × State}
    (hf : ∀ a k, Keeps P s0 a.2 → Keeps P s0 (f a k).2) (h : Keeps P s0 b.2) : Keeps P s0 (l.foldl f b).2 :=
  foldl_prop (P := fun r : β × State => Keeps P s0 r.2) hf h

theorem foldl_keeps3 {P : Nat → Prop} {α β γ : Type} {s0 : State} {f : β × γ × State → α → β × γ × State} {l : List α} {b : β × γ × State}
    (hf : ∀ a k, Keeps P s0 a.2.2 → Keeps P s0 (f a k).2.2) (h : Keeps P s0 b.2.2) : Keeps P s0 (l.foldl f b).2.2 :=
  foldl_prop (P := fun r : β × γ × State => Keeps P s0 r.2.2) hf h

theorem ite_keeps {P : Nat → Prop} {s0 : State} {c : Prop} [Decidable c] {a b : State} (ha : Keeps P s0 a) (hb : Keeps P s0 b) : Keeps P s0 (if c then a else b) := by
  split
  · exact ha
  · exact hb

theorem getD_keeps {P : Nat → Prop} {s0 s : State} {o : Option State} (h : ∀ t, o = some t → Keeps P s0 t) (h0 : Keeps P s0 s) : Keeps P s0 (o.getD s) := by
  cases o with
  | none => exact h0
  | some t => exact h t rfl

end Sys2Proof.Machine
end

