-- ==== Sys2Proof/Laws/KeepsFlags.lean ====
section
/-!
SUPPORT. KeepsFlags.lean: every operation and meaning of Machine/Flags.lean keeps the queue, the BIC and the bounds of
State.Bounded, and, where it stores nothing, every byte of DRAM; one lemma each, stated from any earlier state s0 so that lemmas chain.
-/
namespace Sys2Proof.Machine

theorem setFn_keeps {P : Nat → Prop} {s0 : State} {s : State} {n : Nat} {f : Func} (h0 : Keeps P s0 s) : Keeps P s0 (State.setFn s n f) := by
  unfold State.setFn; try dsimp only
  repeat' with_reducible
    (first | assumption | (refine Keeps.mk ?_ ?_ ?_ <;> (try dsimp only) <;> first | apply Keeps.pend | apply Keeps.bic (P := P) | apply Keeps.bound (P := P)))

theorem emit_keeps {P : Nat → Prop} {s0 : State} {s : State} {o : Output} (h0 : Keeps P s0 s) : Keeps P s0 (State.emit s o) := by
  unfold State.emit; try dsimp only
  repeat' with_reducible
    (first | assumption | (refine Keeps.mk ?_ ?_ ?_ <;> (try dsimp only) <;> first | apply Keeps.pend | apply Keeps.bic (P := P) | apply Keeps.bound (P := P)))

theorem sendVector_keeps {P : Nat → Prop} {s0 : State} {n v : Nat} {s : State} (h0 : Keeps P s0 s) : Keeps P s0 (sendVector n v s) := by
  unfold sendVector; try dsimp only
  repeat' with_reducible
    (first | assumption | apply setFn_keeps | apply emit_keeps | (split)
           | (refine Keeps.mk ?_ ?_ ?_ <;> (try dsimp only) <;> first | apply Keeps.pend | apply Keeps.bic (P := P) | apply Keeps.bound (P := P)))

theorem armVector_keeps {P : Nat → Prop} {s0 : State} {n v : Nat} {s : State} (h0 : Keeps P s0 s) : Keeps P s0 (armVector n v s) := by
  unfold armVector; try dsimp only
  repeat' with_reducible
    (first | assumption | apply setFn_keeps | apply sendVector_keeps | (split)
           | (refine Keeps.mk ?_ ?_ ?_ <;> (try dsimp only) <;> first | apply Keeps.pend | apply Keeps.bic (P := P) | apply Keeps.bound (P := P)))

theorem raiseInt_keeps {P : Nat → Prop} {s0 : State} {n b : Nat} {s : State} (h0 : Keeps P s0 s) : Keeps P s0 (raiseInt n b s) := by
  unfold raiseInt; try dsimp only
  repeat' with_reducible
    (first | assumption | apply setFn_keeps | apply armVector_keeps | (split)
           | (refine Keeps.mk ?_ ?_ ?_ <;> (try dsimp only) <;> first | apply Keeps.pend | apply Keeps.bic (P := P) | apply Keeps.bound (P := P)))

theorem noteDev_keeps {P : Nat → Prop} {s0 : State} {before : BitVec 4} {s : State} (h0 : Keeps P s0 s) : Keeps P s0 (noteDev before s) := by
  unfold noteDev; try dsimp only
  repeat' with_reducible
    (first | assumption | apply raiseInt_keeps | (apply foldl_keeps <;> (try intro _ _ _)) | intro _)

theorem assertFault_keeps {P : Nat → Prop} {s0 : State} {c : Nat} {s : State} (h0 : Keeps P s0 s) : Keeps P s0 (assertFault c s) := by
  unfold assertFault; try dsimp only
  repeat' with_reducible
    (first | assumption | apply noteDev_keeps | (split)
           | (refine Keeps.mk ?_ ?_ ?_ <;> (try dsimp only) <;> first | apply Keeps.pend | apply Keeps.bic (P := P) | apply Keeps.bound (P := P)))

theorem releaseFault_keeps {P : Nat → Prop} {s0 : State} {c : Nat} {s : State} (h0 : Keeps P s0 s) : Keeps P s0 (releaseFault c s) := by
  unfold releaseFault; try dsimp only
  repeat' with_reducible
    (first | assumption | apply noteDev_keeps
           | (refine Keeps.mk ?_ ?_ ?_ <;> (try dsimp only) <;> first | apply Keeps.pend | apply Keeps.bic (P := P) | apply Keeps.bound (P := P)))

theorem setAlertWatch_keeps {P : Nat → Prop} {s0 : State} {b : Bool} {s : State} (h0 : Keeps P s0 s) : Keeps P s0 (setAlertWatch b s) := by
  unfold setAlertWatch; try dsimp only
  repeat' with_reducible
    (first | assumption | apply noteDev_keeps
           | (refine Keeps.mk ?_ ?_ ?_ <;> (try dsimp only) <;> first | apply Keeps.pend | apply Keeps.bic (P := P) | apply Keeps.bound (P := P)))

theorem setAlertHold_keeps {P : Nat → Prop} {s0 : State} {b : Bool} {s : State} (h0 : Keeps P s0 s) : Keeps P s0 (setAlertHold b s) := by
  unfold setAlertHold; try dsimp only
  repeat' with_reducible
    (first | assumption | apply noteDev_keeps
           | (refine Keeps.mk ?_ ?_ ?_ <;> (try dsimp only) <;> first | apply Keeps.pend | apply Keeps.bic (P := P) | apply Keeps.bound (P := P)))

theorem setAlertRail_keeps {P : Nat → Prop} {s0 : State} {b : Bool} {s : State} (h0 : Keeps P s0 s) : Keeps P s0 (setAlertRail b s) := by
  unfold setAlertRail; try dsimp only
  repeat' with_reducible
    (first | assumption | apply noteDev_keeps
           | (refine Keeps.mk ?_ ?_ ?_ <;> (try dsimp only) <;> first | apply Keeps.pend | apply Keeps.bic (P := P) | apply Keeps.bound (P := P)))

theorem setAlertThermal_keeps {P : Nat → Prop} {s0 : State} {b : Bool} {s : State} (h0 : Keeps P s0 s) : Keeps P s0 (setAlertThermal b s) := by
  unfold setAlertThermal; try dsimp only
  repeat' with_reducible
    (first | assumption | apply noteDev_keeps
           | (refine Keeps.mk ?_ ?_ ?_ <;> (try dsimp only) <;> first | apply Keeps.pend | apply Keeps.bic (P := P) | apply Keeps.bound (P := P)))

theorem raiseSecAlarm_keeps {P : Nat → Prop} {s0 : State} {s : State} (h0 : Keeps P s0 s) : Keeps P s0 (raiseSecAlarm s) := by
  unfold raiseSecAlarm; try dsimp only
  repeat' with_reducible
    (first | assumption | apply noteDev_keeps
           | (refine Keeps.mk ?_ ?_ ?_ <;> (try dsimp only) <;> first | apply Keeps.pend | apply Keeps.bic (P := P) | apply Keeps.bound (P := P)))

theorem setCoast_keeps {P : Nat → Prop} {s0 : State} {b : Bool} {s : State} (h0 : Keeps P s0 s) : Keeps P s0 (setCoast b s) := by
  unfold setCoast; try dsimp only
  repeat' with_reducible
    (first | assumption | apply noteDev_keeps
           | (refine Keeps.mk ?_ ?_ ?_ <;> (try dsimp only) <;> first | apply Keeps.pend | apply Keeps.bic (P := P) | apply Keeps.bound (P := P)))

theorem setServo_keeps {P : Nat → Prop} {s0 : State} {v : Servo} {s : State} (h0 : Keeps P s0 s) : Keeps P s0 (setServo v s) := by
  unfold setServo; try dsimp only
  repeat' with_reducible
    (first | assumption | apply raiseInt_keeps | (apply foldl_keeps <;> (try intro _ _ _)) | (split)
           | (refine Keeps.mk ?_ ?_ ?_ <;> (try dsimp only) <;> first | apply Keeps.pend | apply Keeps.bic (P := P) | apply Keeps.bound (P := P)) | intro _)

end Sys2Proof.Machine
end

