-- ==== Sys2Proof/Laws/KeepsOps.lean ====
section
/-!
SUPPORT. KeepsOps.lean: every operation and meaning of Machine/Ops.lean keeps the queue, the BIC and the bounds of
State.Bounded, and, where it stores nothing, every byte of DRAM; one lemma each, stated from any earlier state s0 so that lemmas chain.
-/
namespace Sys2Proof.Machine

theorem setLink_keeps {P : Nat → Prop} {s0 : State} {s : State} {n : Nat} {l : CtlLink} (h0 : Keeps P s0 s) : Keeps P s0 (State.setLink s n l) := by
  unfold State.setLink; try dsimp only
  repeat' with_reducible
    (first | assumption | (refine Keeps.mk ?_ ?_ ?_ <;> (try dsimp only) <;> first | apply Keeps.pend | apply Keeps.bic (P := P) | apply Keeps.bound (P := P)))

theorem setLane_keeps {P : Nat → Prop} {s0 : State} {s : State} {n : Nat} {l : Lane} (h0 : Keeps P s0 s) : Keeps P s0 (State.setLane s n l) := by
  unfold State.setLane; try dsimp only
  repeat' with_reducible
    (first | assumption | (refine Keeps.mk ?_ ?_ ?_ <;> (try dsimp only) <;> first | apply Keeps.pend | apply Keeps.bic (P := P) | apply Keeps.bound (P := P)))

theorem setBlink_keeps {P : Nat → Prop} {s0 : State} {s : State} {n : Nat} {l : BlockLink} (h0 : Keeps P s0 s) : Keeps P s0 (State.setBlink s n l) := by
  unfold State.setBlink; try dsimp only
  repeat' with_reducible
    (first | assumption | (refine Keeps.mk ?_ ?_ ?_ <;> (try dsimp only) <;> first | apply Keeps.pend | apply Keeps.bic (P := P) | apply Keeps.bound (P := P)))

theorem setPart_keeps {P : Nat → Prop} {s0 : State} {s : State} {p : Nat} {x : Partition} (h0 : Keeps P s0 s) : Keeps P s0 (State.setPart s p x) := by
  unfold State.setPart; try dsimp only
  repeat' with_reducible
    (first | assumption | (refine Keeps.mk ?_ ?_ ?_ <;> (try dsimp only) <;> first | apply Keeps.pend | apply Keeps.bic (P := P) | apply Keeps.bound (P := P))
           | intro _)

theorem draw_keeps {P : Nat → Prop} {s0 : State} {s : State} {w : Nat} (h0 : Keeps P s0 s) : Keeps P s0 (State.draw s w).2 := by
  unfold State.draw; try dsimp only
  repeat' with_reducible
    (first | assumption | (refine Keeps.mk ?_ ?_ ?_ <;> (try dsimp only) <;> first | apply Keeps.pend | apply Keeps.bic (P := P) | apply Keeps.bound (P := P)))

theorem draw_keeps_eq {P : Nat → Prop} {s0 u9 : State} {s : State} {w : Nat}  {r0} (h9 : State.draw s w = (r0, u9)) (h0 : Keeps P s0 s) : Keeps P s0 u9 := by
  have h : Keeps P s0 (State.draw s w).2 := draw_keeps  h0
  rw [h9] at h; exact h

theorem bumpBy_keeps {P : Nat → Prop} {s0 : State} {n sub unit id : Nat} {s : State} (h0 : Keeps P s0 s) : Keeps P s0 (bumpBy n sub unit id s) := by
  unfold bumpBy; try dsimp only
  repeat' with_reducible
    (first | assumption | (refine Keeps.mk ?_ ?_ ?_ <;> (try dsimp only) <;> first | apply Keeps.pend | apply Keeps.bic (P := P) | apply Keeps.bound (P := P)))

theorem bump_keeps {P : Nat → Prop} {s0 : State} {sub unit id : Nat} {s : State} (h0 : Keeps P s0 s) : Keeps P s0 (bump sub unit id s) := by
  unfold bump; try dsimp only
  repeat' with_reducible
    (first | assumption | apply bumpBy_keeps)

theorem length_dropOldest0 {l : List LogRec} (h : l.all (fun r => r.sev ≠ 0) = false) : (dropOldest0 l).length + 1 = l.length := by
  induction l with
  | nil => simp at h
  | cons r l ih =>
    unfold dropOldest0
    split
    · rfl
    · rename_i hr
      simp [hr] at h
      simp [ih (by simpa using h)]

theorem logRec_keeps {P : Nat → Prop} {s0 : State} {a : LogArg} {s : State} (h0 : Keeps P s0 s) : Keeps P s0 (logRec a s) := by
  have hl : s0.Bounded → s.logs.recs.length ≤ 8192 := fun h => (h0.bound h).2.1
  refine Keeps.mk ?_ ?_ fun h => ?_
  · unfold logRec; dsimp only; (repeat' split) <;> first | exact h0.pend | exact (bump_keeps (sub := 0xB) (unit := 0) (id := 2) h0).pend
  · unfold logRec; dsimp only; (repeat' split) <;> first | exact h0.bic | exact (bump_keeps h0).bic
  · have k := h0.bound h
    refine ⟨?_, ?_, ?_, ?_⟩
    · unfold logRec; dsimp only; (repeat' split) <;> exact k.1
    · unfold logRec; dsimp only
      split
      · simpa using k.2.1
      · split
        · exact k.2.1
        · rename_i hc
          dsimp only
          split
          · rename_i he
            have := length_dropOldest0 (l := s.logs.recs) (by simpa [he] using hc)
            simp; omega
          · have := k.2.1
            simp; omega
    · unfold logRec; dsimp only; (repeat' split) <;> exact k.2.2.1
    · unfold logRec; dsimp only; (repeat' split) <;> exact k.2.2.2

theorem writeRing_keeps {P : Nat → Prop} {s0 : State} {n : Nat} {ev : Bool} {b : List Byte} {s : State} (h0 : Keeps P s0 s)
    : Keeps P s0 (writeRing n ev b s) := by
  unfold writeRing; try dsimp only
  repeat' with_reducible
    (first | assumption | apply raiseInt_keeps | apply setFn_keeps | apply emit_keeps
           | (refine Keeps.mk ?_ ?_ ?_ <;> (try dsimp only) <;> first | apply Keeps.pend | apply Keeps.bic (P := P) | apply Keeps.bound (P := P)))

theorem spool_keeps {P : Nat → Prop} {s0 : State} {n : Nat} {ev : Bool} {b : List Byte} {s : State} (h0 : Keeps P s0 s) : Keeps P s0 (spool n ev b s) := by
  unfold spool; try dsimp only
  repeat' with_reducible
    (first | assumption | apply setFn_keeps | (split)
           | (refine Keeps.mk ?_ ?_ ?_ <;> (try dsimp only) <;> first | apply Keeps.pend | apply Keeps.bic (P := P) | apply Keeps.bound (P := P)))

theorem placePacket_keeps {P : Nat → Prop} {s0 : State} {n : Nat} {ev : Bool} {b : List Byte} {s : State} (h0 : Keeps P s0 s)
    : Keeps P s0 (placePacket n ev b s) := by
  unfold placePacket; try dsimp only
  repeat' with_reducible
    (first | assumption | apply writeRing_keeps | apply spool_keeps | (split))

theorem putFnEvent_keeps {P : Nat → Prop} {s0 : State} {n op tag code : Nat} {data : List Byte} {s : State} (h0 : Keeps P s0 s)
    : Keeps P s0 (putFnEvent n op tag code data s) := by
  unfold putFnEvent; try dsimp only
  repeat' with_reducible
    (first | assumption | apply setFn_keeps | apply writeRing_keeps | apply spool_keeps | apply bump_keeps | (split)
           | (refine Keeps.mk ?_ ?_ ?_ <;> (try dsimp only) <;> first | apply Keeps.pend | apply Keeps.bic (P := P) | apply Keeps.bound (P := P)))

theorem putLostMarker_keeps {P : Nat → Prop} {s0 : State} {n : Nat} {s : State} (h0 : Keeps P s0 s) : Keeps P s0 (putLostMarker n s) := by
  unfold putLostMarker; try dsimp only
  repeat' with_reducible
    (first | assumption | apply putFnEvent_keeps | apply setFn_keeps | (split)
           | (refine Keeps.mk ?_ ?_ ?_ <;> (try dsimp only) <;> first | apply Keeps.pend | apply Keeps.bic (P := P) | apply Keeps.bound (P := P)))

theorem fnEvent_keeps {P : Nat → Prop} {s0 : State} {n op tag code : Nat} {data : List Byte} {s : State} (h0 : Keeps P s0 s)
    : Keeps P s0 (fnEvent n op tag code data s) := by
  unfold fnEvent; try dsimp only
  repeat' with_reducible
    (first | assumption | apply putFnEvent_keeps | apply putLostMarker_keeps | (split))

theorem linkEvent_keeps {P : Nat → Prop} {s0 : State} {l op tag code : Nat} {data : List Byte} {s : State} (h0 : Keeps P s0 s)
    : Keeps P s0 (linkEvent l op tag code data s) := by
  unfold linkEvent; try dsimp only
  repeat' with_reducible
    (first | assumption | apply setLink_keeps | apply emit_keeps
           | (refine Keeps.mk ?_ ?_ ?_ <;> (try dsimp only) <;> first | apply Keeps.pend | apply Keeps.bic (P := P) | apply Keeps.bound (P := P)))

theorem dbgEvent_keeps {P : Nat → Prop} {s0 : State} {op tag code : Nat} {data : List Byte} {s : State} (h0 : Keeps P s0 s)
    : Keeps P s0 (dbgEvent op tag code data s) := by
  unfold dbgEvent; try dsimp only
  repeat' with_reducible
    (first | assumption | (refine Keeps.mk ?_ ?_ ?_ <;> (try dsimp only) <;> first | apply Keeps.pend | apply Keeps.bic (P := P) | apply Keeps.bound (P := P)))

theorem putReply_keeps {P : Nat → Prop} {s0 : State} {c : CmdCtx} {op status : Nat} {data : List Byte} {s : State} (h0 : Keeps P s0 s)
    : Keeps P s0 (putReply c op status data s) := by
  unfold putReply; try dsimp only
  repeat' with_reducible
    (first | assumption | apply emit_keeps | apply placePacket_keeps | (split)
           | (refine Keeps.mk ?_ ?_ ?_ <;> (try dsimp only) <;> first | apply Keeps.pend | apply Keeps.bic (P := P) | apply Keeps.bound (P := P)) | intro _)

theorem holdReply_keeps {P : Nat → Prop} {s0 : State} {h : HeldReply} {s : State} (h0 : Keeps P s0 s) : Keeps P s0 (holdReply h s) := by
  unfold holdReply; try dsimp only
  repeat' with_reducible
    (first | assumption | (refine Keeps.mk ?_ ?_ ?_ <;> (try dsimp only) <;> first | apply Keeps.pend | apply Keeps.bic (P := P) | apply Keeps.bound (P := P)))

theorem sendReply_keeps {P : Nat → Prop} {s0 : State} {c : CmdCtx} {op status : Nat} {data : List Byte} {s : State} (h0 : Keeps P s0 s)
    : Keeps P s0 (sendReply c op status data s) := by
  unfold sendReply; try dsimp only
  repeat' with_reducible
    (first | assumption | apply holdReply_keeps | apply putReply_keeps | (split))

theorem putCompletion_keeps {P : Nat → Prop} {s0 : State} {c : CmdCtx} {op code : Nat} {data : List Byte} {s : State} (h0 : Keeps P s0 s)
    : Keeps P s0 (putCompletion c op code data s) := by
  unfold putCompletion; try dsimp only
  repeat' with_reducible
    (first | assumption | apply linkEvent_keeps | apply fnEvent_keeps | apply dbgEvent_keeps | (split)
           | (refine Keeps.mk ?_ ?_ ?_ <;> (try dsimp only) <;> first | apply Keeps.pend | apply Keeps.bic (P := P) | apply Keeps.bound (P := P)) | intro _)

theorem sendCompletion_keeps {P : Nat → Prop} {s0 : State} {c : CmdCtx} {op code : Nat} {data : List Byte} {s : State} (h0 : Keeps P s0 s)
    : Keeps P s0 (sendCompletion c op code data s) := by
  unfold sendCompletion; try dsimp only
  repeat' with_reducible
    (first | assumption | apply holdReply_keeps | apply putCompletion_keeps | (split) | intro _)

theorem putHeld_keeps {P : Nat → Prop} {s0 : State} {s : State} {h : HeldReply} (h0 : Keeps P s0 s) : Keeps P s0 (putHeld s h) := by
  unfold putHeld; try dsimp only
  repeat' with_reducible
    (first | assumption | apply putCompletion_keeps | apply putReply_keeps | (split))

theorem releaseReplies_keeps {P : Nat → Prop} {s0 : State} {s : State} (h0 : Keeps P s0 s) : Keeps P s0 (releaseReplies s) := by
  unfold releaseReplies; try dsimp only
  repeat' with_reducible
    (first | assumption | apply putHeld_keeps | (apply foldl_keeps <;> (try intro _ _ _))
           | (refine Keeps.mk ?_ ?_ ?_ <;> (try dsimp only) <;> first | apply Keeps.pend | apply Keeps.bic (P := P) | apply Keeps.bound (P := P)) | intro _)

theorem takeAccepted_keeps {P : Nat → Prop} {s0 : State} {c : CmdCtx} {s : State} (h0 : Keeps P s0 s) : Keeps P s0 (takeAccepted c s) := by
  unfold takeAccepted; try dsimp only
  repeat' with_reducible
    (first | assumption | (refine Keeps.mk ?_ ?_ ?_ <;> (try dsimp only) <;> first | apply Keeps.pend | apply Keeps.bic (P := P) | apply Keeps.bound (P := P))
           | intro _)

theorem reply_keeps {P : Nat → Prop} {s0 : State} {c : CmdCtx} {op status : Nat} {data : List Byte} {s : State} (h0 : Keeps P s0 s)
    : Keeps P s0 (reply c op status data s) := by
  unfold reply; try dsimp only
  repeat' with_reducible
    (first | assumption | apply sendReply_keeps | (split)
           | (refine Keeps.mk ?_ ?_ ?_ <;> (try dsimp only) <;> first | apply Keeps.pend | apply Keeps.bic (P := P) | apply Keeps.bound (P := P)) | intro _)

theorem complete_keeps {P : Nat → Prop} {s0 : State} {c : CmdCtx} {code : Nat} {data : List Byte} {s : State} (h0 : Keeps P s0 s)
    : Keeps P s0 (complete c code data s) := by
  unfold complete; try dsimp only
  repeat' with_reducible
    (first | assumption | apply sendCompletion_keeps | (split)
           | (refine Keeps.mk ?_ ?_ ?_ <;> (try dsimp only) <;> first | apply Keeps.pend | apply Keeps.bic (P := P) | apply Keeps.bound (P := P)) | intro _)

theorem completeOpt_keeps {P : Nat → Prop} {s0 : State} {c : Option CmdCtx} {code : Nat} {data : List Byte} {s : State} (h0 : Keeps P s0 s)
    : Keeps P s0 (completeOpt c code data s) := by
  unfold completeOpt; try dsimp only
  repeat' with_reducible
    (first | assumption | apply complete_keeps | (split)
           | (refine Keeps.mk ?_ ?_ ?_ <;> (try dsimp only) <;> first | apply Keeps.pend | apply Keeps.bic (P := P) | apply Keeps.bound (P := P)) | intro _)

theorem postEvent_keeps {P : Nat → Prop} {s0 : State} {code sub part : Nat} {js : Option Nat} {data : List Byte} {s : State} (h0 : Keeps P s0 s)
    : Keeps P s0 (postEvent code sub part js data s) := by
  unfold postEvent; try dsimp only
  repeat' with_reducible
    (first | assumption | apply fnEvent_keeps | apply linkEvent_keeps | (split)
           | (refine Keeps.mk ?_ ?_ ?_ <;> (try dsimp only) <;> first | apply Keeps.pend | apply Keeps.bic (P := P) | apply Keeps.bound (P := P)) | intro _)

theorem partEvent_keeps {P : Nat → Prop} {s0 : State} {code sub p : Nat} {data : List Byte} {s : State} (h0 : Keeps P s0 s)
    : Keeps P s0 (partEvent code sub p data s) := by
  unfold partEvent; try dsimp only
  repeat' with_reducible
    (first | assumption | apply postEvent_keeps)

theorem logEvent_keeps {P : Nat → Prop} {s0 : State} {a : LogArg} {js : Option Nat} {data : List Byte} {s : State} (h0 : Keeps P s0 s)
    : Keeps P s0 (logEvent a js data s) := by
  unfold logEvent; try dsimp only
  repeat' with_reducible
    (first | assumption | apply postEvent_keeps | apply logRec_keeps
           | (refine Keeps.mk ?_ ?_ ?_ <;> (try dsimp only) <;> first | apply Keeps.pend | apply Keeps.bic (P := P) | apply Keeps.bound (P := P)))

theorem sendMarker_keeps {P : Nat → Prop} {s0 : State} {link type scope frame arg : Nat} {s : State} (h0 : Keeps P s0 s)
    : Keeps P s0 (sendMarker link type scope frame arg s) := by
  unfold sendMarker; try dsimp only
  repeat' with_reducible
    (first | assumption | apply emit_keeps)

end Sys2Proof.Machine
end

