-- ==== Sys2Proof/Laws/KeepsHealth.lean ====
section
/-!
SUPPORT. KeepsHealth.lean: every operation and meaning of Machine/Health.lean keeps the queue, the BIC and the bounds of
State.Bounded, and, where it stores nothing, every byte of DRAM; one lemma each, stated from any earlier state s0 so that lemmas chain.
-/
namespace Sys2Proof.Machine

theorem writeHealth_keeps {P : Nat → Prop} {s0 : State} {s : State} (h0 : Keeps P s0 s) : Keeps P s0 (writeHealth s) := by
  unfold writeHealth; try dsimp only
  repeat' with_reducible
    (first | assumption | (split)
           | (refine Keeps.mk ?_ ?_ ?_ <;> (try dsimp only) <;> first | apply Keeps.pend | apply Keeps.bic (P := P) | apply Keeps.bound (P := P)))

theorem noteMark_keeps {P : Nat → Prop} {s0 : State} {kind unit detail : Nat} {s : State} (h0 : Keeps P s0 s) : Keeps P s0 (noteMark kind unit detail s) := by
  unfold noteMark; try dsimp only
  repeat' with_reducible
    (first | assumption | (refine Keeps.mk ?_ ?_ ?_ <;> (try dsimp only) <;> first | apply Keeps.pend | apply Keeps.bic (P := P) | apply Keeps.bound (P := P)))

theorem candidateCluster_keeps {P : Nat → Prop} {s0 : State} {pcl : Nat} {s : State} (h0 : Keeps P s0 s) : Keeps P s0 (candidateCluster pcl s) := by
  unfold candidateCluster; try dsimp only
  repeat' with_reducible
    (first | assumption | apply writeHealth_keeps | apply logRec_keeps | (split)
           | (refine Keeps.mk ?_ ?_ ?_ <;> (try dsimp only) <;> first | apply Keeps.pend | apply Keeps.bic (P := P) | apply Keeps.bound (P := P)))

theorem candidateFabric_keeps {P : Nat → Prop} {s0 : State} {unit : Nat} {s : State} (h0 : Keeps P s0 s) : Keeps P s0 (candidateFabric unit s) := by
  unfold candidateFabric; try dsimp only
  repeat' with_reducible
    (first | assumption | apply writeHealth_keeps | apply logRec_keeps | (split)
           | (refine Keeps.mk ?_ ?_ ?_ <;> (try dsimp only) <;> first | apply Keeps.pend | apply Keeps.bic (P := P) | apply Keeps.bound (P := P)))

theorem noteEngine_keeps {P : Nat → Prop} {s0 : State} {pcl : Nat} {s : State} (h0 : Keeps P s0 s) : Keeps P s0 (noteEngine pcl s) := by
  unfold noteEngine; try dsimp only
  repeat' with_reducible
    (first | assumption | apply noteMark_keeps | apply candidateCluster_keeps | (split))

theorem noteLost_keeps {P : Nat → Prop} {s0 : State} {region : Nat} {s : State} (h0 : Keeps P s0 s) : Keeps P s0 (noteLost region s) := by
  unfold noteLost; try dsimp only
  repeat' with_reducible
    (first | assumption | apply noteMark_keeps | apply candidateFabric_keeps | (split))

theorem noteFix_keeps {P : Nat → Prop} {s0 : State} {region frame : Nat} {s : State} (h0 : Keeps P s0 s) : Keeps P s0 (noteFix region frame s) := by
  unfold noteFix; try dsimp only
  repeat' with_reducible
    (first | assumption | apply noteMark_keeps | apply candidateFabric_keeps | (split) | intro _)

theorem noteHard_keeps {P : Nat → Prop} {s0 : State} {unit : Nat} {s : State} (h0 : Keeps P s0 s) : Keeps P s0 (noteHard unit s) := by
  unfold noteHard; try dsimp only
  repeat' with_reducible
    (first | assumption | apply noteMark_keeps | apply candidateFabric_keeps | (split))

end Sys2Proof.Machine
end

