-- ==== Sys2Proof/Laws/KeepsScope.lean ====
section
/-!
SUPPORT. KeepsScope.lean: every operation and meaning of Machine/Scope.lean keeps the queue, the BIC and the bounds of
State.Bounded, and, where it stores nothing, every byte of DRAM; one lemma each, stated from any earlier state s0 so that lemmas chain.
-/
namespace Sys2Proof.Machine

theorem sendTwice_keeps {P : Nat → Prop} {s0 : State} {link type scope frame arg : Nat} {s : State} (h0 : Keeps P s0 s)
    : Keeps P s0 (sendTwice link type scope frame arg s) := by
  unfold sendTwice; try dsimp only
  repeat' with_reducible
    (first | assumption | apply sendMarker_keeps)

theorem markerDown_keeps {P : Nat → Prop} {s0 : State} {type scope frame arg : Nat} {s : State} (h0 : Keeps P s0 s)
    : Keeps P s0 (markerDown type scope frame arg s) := by
  unfold markerDown; try dsimp only
  repeat' with_reducible
    (first | assumption | apply sendTwice_keeps | (apply foldl_keeps <;> (try intro _ _ _)) | intro _)

theorem markerUp_keeps {P : Nat → Prop} {s0 : State} {type scope frame arg : Nat} {s : State} (h0 : Keeps P s0 s)
    : Keeps P s0 (markerUp type scope frame arg s) := by
  unfold markerUp; try dsimp only
  repeat' with_reducible
    (first | assumption | apply sendTwice_keeps)

theorem markDown_keeps {P : Nat → Prop} {s0 : State} {p frame step : Nat} {s : State} (h0 : Keeps P s0 s) : Keeps P s0 (markDown p frame step s) := by
  unfold markDown; try dsimp only
  repeat' with_reducible
    (first | assumption | apply emit_keeps | (apply foldl_keeps <;> (try intro _ _ _)) | intro _)

theorem countBad_keeps {P : Nat → Prop} {s0 : State} {link : Nat} {s : State} (h0 : Keeps P s0 s) : Keeps P s0 (countBad link s) := by
  unfold countBad; try dsimp only
  repeat' with_reducible
    (first | assumption | apply bump_keeps
           | (refine Keeps.mk ?_ ?_ ?_ <;> (try dsimp only) <;> first | apply Keeps.pend | apply Keeps.bic (P := P) | apply Keeps.bound (P := P)))

theorem armPause_keeps {P : Nat → Prop} {s0 : State} {p : Nat} {q : Pause} {s : State} (h0 : Keeps P s0 s) : Keeps P s0 (armPause p q s) := by
  unfold armPause; try dsimp only
  repeat' with_reducible
    (first | assumption | apply setPart_keeps
           | (refine Keeps.mk ?_ ?_ ?_ <;> (try dsimp only) <;> first | apply Keeps.pend | apply Keeps.bic (P := P) | apply Keeps.bound (P := P)) | intro _)

theorem rootPause_keeps {P : Nat → Prop} {s0 : State} {p : Nat} {m : FrameNo} {d : Nat} {owner : PauseOwner} {s : State} (h0 : Keeps P s0 s)
    : Keeps P s0 (rootPause p m d owner s).2 := by
  unfold rootPause; try dsimp only
  repeat' with_reducible
    (first | assumption | apply markerDown_keeps | apply armPause_keeps)

theorem rootPause_keeps_eq {P : Nat → Prop} {s0 u9 : State} {p : Nat} {m : FrameNo} {d : Nat} {owner : PauseOwner} {s : State}  {r0}
    (h9 : rootPause p m d owner s = (r0, u9)) (h0 : Keeps P s0 s) : Keeps P s0 u9 := by
  have h : Keeps P s0 (rootPause p m d owner s).2 := rootPause_keeps  h0
  rw [h9] at h; exact h

theorem selfPause_keeps {P : Nat → Prop} {s0 : State} {p : Nat} {owner : PauseOwner} {s : State} (h0 : Keeps P s0 s) : Keeps P s0 (selfPause p owner s) := by
  unfold selfPause; try dsimp only
  repeat' with_reducible
    (first | assumption | apply rootPause_keeps | refine rootPause_keeps_eq (by assumption) ?_ | apply markerUp_keeps | apply setPart_keeps
           | (split) | (refine Keeps.mk ?_ ?_ ?_ <;> (try dsimp only) <;> first | apply Keeps.pend | apply Keeps.bic (P := P) | apply Keeps.bound (P := P))
           | intro _)

theorem rootVeto_keeps {P : Nat → Prop} {s0 : State} {p : Nat} {k : FrameNo} {hold : Bool} {s : State} (h0 : Keeps P s0 s)
    : Keeps P s0 (rootVeto p k hold s) := by
  unfold rootVeto; try dsimp only
  repeat' with_reducible
    (first | assumption | apply setPart_keeps | (split)
           | (refine Keeps.mk ?_ ?_ ?_ <;> (try dsimp only) <;> first | apply Keeps.pend | apply Keeps.bic (P := P) | apply Keeps.bound (P := P)) | intro _)

theorem offerVeto_keeps {P : Nat → Prop} {s0 : State} {p : Nat} {k : FrameNo} {hold brk veto : Bool} {s : State} (h0 : Keeps P s0 s)
    : Keeps P s0 (offerVeto p k hold brk veto s) := by
  unfold offerVeto; try dsimp only
  repeat' with_reducible
    (first | assumption | apply rootVeto_keeps | apply rootPause_keeps | refine rootPause_keeps_eq (by assumption) ?_ | apply setPart_keeps
           | apply markerUp_keeps | (split)
           | (refine Keeps.mk ?_ ?_ ?_ <;> (try dsimp only) <;> first | apply Keeps.pend | apply Keeps.bic (P := P) | apply Keeps.bound (P := P)) | intro _)

theorem raiseVeto_keeps {P : Nat → Prop} {s0 : State} {p : Nat} {hold : Bool} {s : State} (h0 : Keeps P s0 s) : Keeps P s0 (raiseVeto p hold s) := by
  unfold raiseVeto; try dsimp only
  repeat' with_reducible
    (first | assumption | apply setPart_keeps | apply offerVeto_keeps | (split)
           | (refine Keeps.mk ?_ ?_ ?_ <;> (try dsimp only) <;> first | apply Keeps.pend | apply Keeps.bic (P := P) | apply Keeps.bound (P := P)) | intro _)

theorem releaseHold_keeps {P : Nat → Prop} {s0 : State} {p : Nat} {s : State} (h0 : Keeps P s0 s) : Keeps P s0 (releaseHold p s) := by
  unfold releaseHold; try dsimp only
  repeat' with_reducible
    (first | assumption | apply markerDown_keeps | apply setPart_keeps | (apply foldl_keeps <;> (try intro _ _ _))
           | (apply foldl_keeps2 <;> (try intro _ _ _) <;> (try dsimp only)) | (apply foldl_keeps3 <;> (try intro _ _ _) <;> (try dsimp only))
           | (split) | (refine Keeps.mk ?_ ?_ ?_ <;> (try dsimp only) <;> first | apply Keeps.pend | apply Keeps.bic (P := P) | apply Keeps.bound (P := P))
           | intro _)

theorem tryClear_keeps {P : Nat → Prop} {s0 : State} {p : Nat} {s : State} (h0 : Keeps P s0 s) : Keeps P s0 (tryClear p s) := by
  unfold tryClear; try dsimp only
  repeat' with_reducible
    (first | assumption | apply releaseHold_keeps | apply markerUp_keeps | apply setPart_keeps | (split)
           | (refine Keeps.mk ?_ ?_ ?_ <;> (try dsimp only) <;> first | apply Keeps.pend | apply Keeps.bic (P := P) | apply Keeps.bound (P := P)) | intro _)

theorem raiseHold_keeps {P : Nat → Prop} {s0 : State} {p code unit : Nat} {s : State} (h0 : Keeps P s0 s) : Keeps P s0 (raiseHold p code unit s) := by
  unfold raiseHold; try dsimp only
  repeat' with_reducible
    (first | assumption | apply raiseVeto_keeps | apply setPart_keeps | (split)
           | (refine Keeps.mk ?_ ?_ ?_ <;> (try dsimp only) <;> first | apply Keeps.pend | apply Keeps.bic (P := P) | apply Keeps.bound (P := P)) | intro _)

theorem resolveHolds_keeps {P : Nat → Prop} {s0 : State} {p : Nat} {q : HoldCause → Bool} {s : State} (h0 : Keeps P s0 s)
    : Keeps P s0 (resolveHolds p q s) := by
  unfold resolveHolds; try dsimp only
  repeat' with_reducible
    (first | assumption | apply tryClear_keeps | apply setPart_keeps | (split)
           | (refine Keeps.mk ?_ ?_ ?_ <;> (try dsimp only) <;> first | apply Keeps.pend | apply Keeps.bic (P := P) | apply Keeps.bound (P := P)) | intro _)

theorem resolveHold_keeps {P : Nat → Prop} {s0 : State} {p code unit : Nat} {s : State} (h0 : Keeps P s0 s) : Keeps P s0 (resolveHold p code unit s) := by
  unfold resolveHold; try dsimp only
  repeat' with_reducible
    (first | assumption | apply resolveHolds_keeps | intro _)

theorem eachPart_keeps {P : Nat → Prop} {s0 : State} {g : Nat → State → State} {s : State} (h_g : ∀ x0 x1, Keeps P s0 x1 → Keeps P s0 (g x0 x1)) (h0
    : Keeps P s0 s) : Keeps P s0 (eachPart g s) := by
  unfold eachPart; try dsimp only
  repeat' with_reducible
    (first | assumption | apply h_g | (apply foldl_keeps <;> (try intro _ _ _)) | intro _)

theorem holdAll_keeps {P : Nat → Prop} {s0 : State} {code unit : Nat} {s : State} (h0 : Keeps P s0 s) : Keeps P s0 (holdAll code unit s) := by
  unfold holdAll; try dsimp only
  repeat' with_reducible
    (first | assumption | apply eachPart_keeps | apply raiseHold_keeps | intro _)

theorem resolveAll_keeps {P : Nat → Prop} {s0 : State} {code unit : Nat} {s : State} (h0 : Keeps P s0 s) : Keeps P s0 (resolveAll code unit s) := by
  unfold resolveAll; try dsimp only
  repeat' with_reducible
    (first | assumption | apply eachPart_keeps | apply resolveHold_keeps | intro _)

theorem addChange_keeps {P : Nat → Prop} {s0 : State} {p : Nat} {c : ModeChange} {s : State} (h0 : Keeps P s0 s) : Keeps P s0 (addChange p c s) := by
  unfold addChange; try dsimp only
  repeat' with_reducible
    (first | assumption | apply setPart_keeps
           | (refine Keeps.mk ?_ ?_ ?_ <;> (try dsimp only) <;> first | apply Keeps.pend | apply Keeps.bic (P := P) | apply Keeps.bound (P := P)) | intro _)

theorem resolveLate_keeps {P : Nat → Prop} {s0 : State} {p opcode : Nat} {m : FrameNo} {s : State} (h0 : Keeps P s0 s)
    : Keeps P s0 (resolveLate p opcode m s) := by
  unfold resolveLate; try dsimp only
  repeat' with_reducible
    (first | assumption | apply resolveHolds_keeps | (split) | intro _)

theorem changeReady_keeps {P : Nat → Prop} {s0 : State} {p opcode arg : Nat} {s : State} (h0 : Keeps P s0 s) : Keeps P s0 (changeReady p opcode arg s) := by
  unfold changeReady; try dsimp only
  repeat' with_reducible
    (first | assumption | apply resolveLate_keeps | apply setPart_keeps | (apply foldl_keeps <;> (try intro _ _ _)) | (split)
           | (refine Keeps.mk ?_ ?_ ?_ <;> (try dsimp only) <;> first | apply Keeps.pend | apply Keeps.bic (P := P) | apply Keeps.bound (P := P)) | intro _)

end Sys2Proof.Machine
end

