-- ==== Sys2Proof/Laws/KeepsOperands.lean ====
section
/-!
SUPPORT. KeepsOperands.lean: every operation and meaning of Machine/Operands.lean keeps the queue, the BIC and the bounds of
State.Bounded, and, where it stores nothing, every byte of DRAM; one lemma each, stated from any earlier state s0 so that lemmas chain.
-/
namespace Sys2Proof.Machine

theorem immediate_keeps {P : Nat → Prop} {s0 : State} {cls : SrcClass} {op : Nat} {c : CmdCtx} {body : State → State} {s : State}
    (h_body : ∀ x0, Keeps P s0 x0 → Keeps P s0 (body x0)) (h0 : Keeps P s0 s) : Keeps P s0 (immediate cls op c body s) := by
  unfold immediate; try dsimp only
  repeat' with_reducible
    (first | assumption | apply h_body | apply takeAccepted_keeps | apply reply_keeps | (split)
           | (refine Keeps.mk ?_ ?_ ?_ <;> (try dsimp only) <;> first | apply Keeps.pend | apply Keeps.bic (P := P) | apply Keeps.bound (P := P)) | intro _)

theorem linkWait_keeps {P : Nat → Prop} {s0 : State} {k : Nat} {go : State → State} {s : State} (h_go : ∀ x0, Keeps P s0 x0 → Keeps P s0 (go x0)) (h0
    : Keeps P s0 s) : Keeps P s0 (linkWait k go s) := by
  unfold linkWait; try dsimp only
  repeat' with_reducible
    (first | assumption | apply h_go | (split))

theorem changeWait_keeps {P : Nat → Prop} {s0 : State} {k : Nat} {go : State → State} {s : State} (h_go : ∀ x0, Keeps P s0 x0 → Keeps P s0 (go x0)) (h0
    : Keeps P s0 s) : Keeps P s0 (changeWait k go s) := by
  unfold changeWait; try dsimp only
  repeat' with_reducible
    (first | assumption | apply h_go | (split))

theorem pairWait_keeps {P : Nat → Prop} {s0 : State} {go : State → State} {s : State} (h_go : ∀ x0, Keeps P s0 x0 → Keeps P s0 (go x0)) (h0 : Keeps P s0 s)
    : Keeps P s0 (pairWait go s) := by
  unfold pairWait; try dsimp only
  repeat' with_reducible
    (first | assumption | apply h_go | (split))

theorem deferredOp_keeps {P : Nat → Prop} {s0 : State} {cls : SrcClass} {op : Nat} {c : CmdCtx} {body : State → State} {s : State}
    (h_body : ∀ x0, Keeps P s0 x0 → Keeps P s0 (body x0)) (h0 : Keeps P s0 s) : Keeps P s0 (deferredOp cls op c body s) := by
  unfold deferredOp; try dsimp only
  repeat' with_reducible
    (first | assumption | apply h_body | apply immediate_keeps | apply reply_keeps | (split) | intro _)

theorem holdDeferred_keeps {P : Nat → Prop} {s0 : State} {c : CmdCtx} {op : Nat} {s : State} (h0 : Keeps P s0 s) : Keeps P s0 (holdDeferred c op s) := by
  unfold holdDeferred; try dsimp only
  repeat' with_reducible
    (first | assumption | (refine Keeps.mk ?_ ?_ ?_ <;> (try dsimp only) <;> first | apply Keeps.pend | apply Keeps.bic (P := P) | apply Keeps.bound (P := P)))

theorem onPart_keeps {P : Nat → Prop} {s0 : State} {c : CmdCtx} {op p : Nat} {argsOk : Bool} {legal : Partition → Bool} {body : State → State} {s : State}
    (h_body : ∀ x0, Keeps P s0 x0 → Keeps P s0 (body x0)) (h0 : Keeps P s0 s) : Keeps P s0 (onPart c op p argsOk legal body s) := by
  unfold onPart; try dsimp only
  repeat' with_reducible
    (first | assumption | apply h_body | apply reply_keeps | (split))

theorem busyReply_keeps {P : Nat → Prop} {s0 : State} {c : CmdCtx} {op : Nat} {h : Holder} {s : State} (h0 : Keeps P s0 s)
    : Keeps P s0 (busyReply c op h s) := by
  unfold busyReply; try dsimp only
  repeat' with_reducible
    (first | assumption | apply reply_keeps)

theorem startAct_keeps {P : Nat → Prop} {s0 : State} {act obj : Nat} {c : Option CmdCtx} {s : State} (h0 : Keeps P s0 s)
    : Keeps P s0 (startAct act obj c s) := by
  unfold startAct; try dsimp only
  repeat' with_reducible
    (first | assumption | (split)
           | (refine Keeps.mk ?_ ?_ ?_ <;> (try dsimp only) <;> first | apply Keeps.pend | apply Keeps.bic (P := P) | apply Keeps.bound (P := P)))

theorem endAct_keeps {P : Nat → Prop} {s0 : State} {act obj : Nat} {s : State} (h0 : Keeps P s0 s) : Keeps P s0 (endAct act obj s) := by
  unfold endAct; try dsimp only
  repeat' with_reducible
    (first | assumption | (refine Keeps.mk ?_ ?_ ?_ <;> (try dsimp only) <;> first | apply Keeps.pend | apply Keeps.bic (P := P) | apply Keeps.bound (P := P))
           | intro _)

theorem setProgress_keeps {P : Nat → Prop} {s0 : State} {act obj v : Nat} {s : State} (h0 : Keeps P s0 s) : Keeps P s0 (setProgress act obj v s) := by
  unfold setProgress; try dsimp only
  repeat' with_reducible
    (first | assumption | (split)
           | (refine Keeps.mk ?_ ?_ ?_ <;> (try dsimp only) <;> first | apply Keeps.pend | apply Keeps.bic (P := P) | apply Keeps.bound (P := P)) | intro _)

end Sys2Proof.Machine
end

