-- ==== Sys2Proof/Laws/KeepsFrameCmds.lean ====
section
/-!
SUPPORT. KeepsFrameCmds.lean: every operation and meaning of Machine/FrameCmds.lean keeps the queue, the BIC and the bounds of
State.Bounded, and, where it stores nothing, every byte of DRAM; one lemma each, stated from any earlier state s0 so that lemmas chain.
-/
namespace Sys2Proof.Machine

theorem loseCast_keeps {P : Nat → Prop} {s0 : State} {p : Nat} {s : State} (h0 : Keeps P s0 s) : Keeps P s0 (loseCast p s) := by
  unfold loseCast; try dsimp only
  repeat' with_reducible
    (first | assumption | apply endAct_keeps | apply completeOpt_keeps | apply setPart_keeps | (split)
           | (refine Keeps.mk ?_ ?_ ?_ <;> (try dsimp only) <;> first | apply Keeps.pend | apply Keeps.bic (P := P) | apply Keeps.bound (P := P)) | intro _)

theorem supersedeCast_keeps {P : Nat → Prop} {s0 : State} {p : Nat} {s : State} (h0 : Keeps P s0 s) : Keeps P s0 (supersedeCast p s) := by
  unfold supersedeCast; try dsimp only
  repeat' with_reducible
    (first | assumption | apply endAct_keeps | apply completeOpt_keeps | apply setPart_keeps | (split)
           | (refine Keeps.mk ?_ ?_ ?_ <;> (try dsimp only) <;> first | apply Keeps.pend | apply Keeps.bic (P := P) | apply Keeps.bound (P := P)) | intro _)

theorem cancelOwner_keeps {P : Nat → Prop} {s0 : State} {p : Nat} {o : PauseOwner} {s : State} (h0 : Keeps P s0 s) : Keeps P s0 (cancelOwner p o s) := by
  unfold cancelOwner; try dsimp only
  repeat' with_reducible
    (first | assumption | apply complete_keeps | apply endAct_keeps | apply setPart_keeps | (split)
           | (refine Keeps.mk ?_ ?_ ?_ <;> (try dsimp only) <;> first | apply Keeps.pend | apply Keeps.bic (P := P) | apply Keeps.bound (P := P)) | intro _)

theorem cancelPauses_keeps {P : Nat → Prop} {s0 : State} {p : Nat} {m : FrameNo} {s : State} (h0 : Keeps P s0 s) : Keeps P s0 (cancelPauses p m s) := by
  unfold cancelPauses; try dsimp only
  repeat' with_reducible
    (first | assumption | apply cancelOwner_keeps | apply setPart_keeps | (apply foldl_keeps <;> (try intro _ _ _))
           | (refine Keeps.mk ?_ ?_ ?_ <;> (try dsimp only) <;> first | apply Keeps.pend | apply Keeps.bic (P := P) | apply Keeps.bound (P := P)) | intro _)

theorem rootRestart_keeps {P : Nat → Prop} {s0 : State} {p : Nat} {s : State} (h0 : Keeps P s0 s) : Keeps P s0 (rootRestart p s) := by
  unfold rootRestart; try dsimp only
  repeat' with_reducible
    (first | assumption | apply leadIn_keeps | apply markerDown_keeps | apply setPart_keeps | (split)
           | (refine Keeps.mk ?_ ?_ ?_ <;> (try dsimp only) <;> first | apply Keeps.pend | apply Keeps.bic (P := P) | apply Keeps.bound (P := P)) | intro _)

theorem setRemaining_keeps {P : Nat → Prop} {s0 : State} {p d : Nat} {s : State} (h0 : Keeps P s0 s) : Keeps P s0 (setRemaining p d s) := by
  unfold setRemaining; try dsimp only
  repeat' with_reducible
    (first | assumption | apply leadIn_keeps | apply setPart_keeps | (split)
           | (refine Keeps.mk ?_ ?_ ?_ <;> (try dsimp only) <;> first | apply Keeps.pend | apply Keeps.bic (P := P) | apply Keeps.bound (P := P)) | intro _)

theorem askRoot_keeps {P : Nat → Prop} {s0 : State} {p : Nat} {a : Asked} {s : State} (h0 : Keeps P s0 s) : Keeps P s0 (askRoot p a s) := by
  unfold askRoot; try dsimp only
  repeat' with_reducible
    (first | assumption | apply setPart_keeps
           | (refine Keeps.mk ?_ ?_ ?_ <;> (try dsimp only) <;> first | apply Keeps.pend | apply Keeps.bic (P := P) | apply Keeps.bound (P := P)) | intro _)

theorem execFramePause_keeps {P : Nat → Prop} {s0 u9 : State} {c : CmdCtx} {part : Byte} {rsvd : BitVec 24} {dur : U32} {s : State}
    (h9 : execFramePause c part rsvd dur s = .next u9) (h0 : Keeps P s0 s) : Keeps P s0 u9 := by
  unfold execFramePause at h9; try dsimp only at h9
  cases h9
  repeat' with_reducible
    (first | assumption | apply immediate_keeps | apply onPart_keeps | apply markerDown_keeps | apply setRemaining_keeps | apply markerUp_keeps
           | apply reply_keeps | apply rootPause_keeps | refine rootPause_keeps_eq (by assumption) ?_ | apply askRoot_keeps | (split)
           | (refine Keeps.mk ?_ ?_ ?_ <;> (try dsimp only) <;> first | apply Keeps.pend | apply Keeps.bic (P := P) | apply Keeps.bound (P := P)) | intro _)

theorem notJoining_keeps {P : Nat → Prop} {s0 : State} {c : CmdCtx} {op : Nat} {body : State → State} {s : State}
    (h_body : ∀ x0, Keeps P s0 x0 → Keeps P s0 (body x0)) (h0 : Keeps P s0 s) : Keeps P s0 (notJoining c op body s) := by
  unfold notJoining; try dsimp only
  repeat' with_reducible
    (first | assumption | apply h_body | apply reply_keeps | (split))

theorem releaseLimit_keeps {P : Nat → Prop} {s0 : State} {p : Nat} {s : State} (h0 : Keeps P s0 s) : Keeps P s0 (releaseLimit p s) := by
  unfold releaseLimit; try dsimp only
  repeat' with_reducible
    (first | assumption | apply releaseHold_keeps | apply tryClear_keeps | (split))

theorem resumePause_keeps {P : Nat → Prop} {s0 : State} {c : CmdCtx} {p : Nat} {m : FrameNo} {s : State} (h0 : Keeps P s0 s)
    : Keeps P s0 (resumePause c p m s) := by
  unfold resumePause; try dsimp only
  repeat' with_reducible
    (first | assumption | apply reply_keeps | apply setPart_keeps | apply rootRestart_keeps | apply markerUp_keeps | (split)
           | (refine Keeps.mk ?_ ?_ ?_ <;> (try dsimp only) <;> first | apply Keeps.pend | apply Keeps.bic (P := P) | apply Keeps.bound (P := P)) | intro _)

theorem rootUnpause_keeps {P : Nat → Prop} {s0 : State} {p : Nat} {m : FrameNo} {s : State} (h0 : Keeps P s0 s) : Keeps P s0 (rootUnpause p m s) := by
  unfold rootUnpause; try dsimp only
  repeat' with_reducible
    (first | assumption | apply cancelPauses_keeps | apply markerDown_keeps)

theorem execFrameResume_keeps {P : Nat → Prop} {s0 u9 : State} {c : CmdCtx} {part : Byte} {rsvd : BitVec 24} {s : State}
    (h9 : execFrameResume c part rsvd s = .next u9) (h0 : Keeps P s0 s) : Keeps P s0 u9 := by
  unfold execFrameResume at h9; try dsimp only at h9
  cases h9
  repeat' with_reducible
    (first | assumption | apply immediate_keeps | apply onPart_keeps | apply notJoining_keeps | apply setPart_keeps | apply reply_keeps
           | apply releaseLimit_keeps | apply resumePause_keeps | apply markerUp_keeps | apply rootUnpause_keeps | (split)
           | (refine Keeps.mk ?_ ?_ ?_ <;> (try dsimp only) <;> first | apply Keeps.pend | apply Keeps.bic (P := P) | apply Keeps.bound (P := P)) | intro _)

theorem execFrameStep_keeps {P : Nat → Prop} {s0 u9 : State} {c : CmdCtx} {part rsvd : Byte} {count : U16} {s : State}
    (h9 : execFrameStep c part rsvd count s = .next u9) (h0 : Keeps P s0 s) : Keeps P s0 u9 := by
  unfold execFrameStep at h9; try dsimp only at h9
  cases h9
  repeat' with_reducible
    (first | assumption | apply immediate_keeps | apply onPart_keeps | apply notJoining_keeps | apply reply_keeps | apply rootRestart_keeps
           | apply markerDown_keeps | apply armPause_keeps | apply markerUp_keeps | apply askRoot_keeps | (split)
           | (refine Keeps.mk ?_ ?_ ?_ <;> (try dsimp only) <;> first | apply Keeps.pend | apply Keeps.bic (P := P) | apply Keeps.bound (P := P)) | intro _)

theorem execFrameMailbox_keeps {P : Nat → Prop} {s0 u9 : State} {c : CmdCtx} {part lcl grp row : Byte} {value : U64} {s : State}
    (h9 : execFrameMailbox c part lcl grp row value s = .next u9) (h0 : Keeps P s0 s) : Keeps P s0 u9 := by
  unfold execFrameMailbox at h9; try dsimp only at h9
  cases h9
  repeat' with_reducible
    (first | assumption | apply immediate_keeps | apply onPart_keeps | apply reply_keeps | apply setPart_keeps | (split)
           | (refine Keeps.mk ?_ ?_ ?_ <;> (try dsimp only) <;> first | apply Keeps.pend | apply Keeps.bic (P := P) | apply Keeps.bound (P := P)) | intro _)

theorem execFrameStatus_keeps {P : Nat → Prop} {s0 u9 : State} {c : CmdCtx} {part : Byte} {rsvd : BitVec 24} {s : State}
    (h9 : execFrameStatus c part rsvd s = .next u9) (h0 : Keeps P s0 s) : Keeps P s0 u9 := by
  unfold execFrameStatus at h9; try dsimp only at h9
  cases h9
  repeat' with_reducible
    (first | assumption | apply immediate_keeps | apply onPart_keeps | apply reply_keeps | intro _)

end Sys2Proof.Machine
end

