-- ==== Sys2Proof/Laws/KeepsSpares.lean ====
section
/-!
SUPPORT. KeepsSpares.lean: every operation and meaning of Machine/Spares.lean keeps the queue, the BIC and the bounds of
State.Bounded, and, where it stores nothing, every byte of DRAM; one lemma each, stated from any earlier state s0 so that lemmas chain.
-/
namespace Sys2Proof.Machine

theorem useSpare_keeps {P : Nat → Prop} {s0 : State} {array unit : Nat} {col : Bool} {s : State} (h0 : Keeps P s0 s)
    : Keeps P s0 (useSpare array unit col s) := by
  unfold useSpare; try dsimp only
  repeat' with_reducible
    (first | assumption | (refine Keeps.mk ?_ ?_ ?_ <;> (try dsimp only) <;> first | apply Keeps.pend | apply Keeps.bic (P := P) | apply Keeps.bound (P := P)))

theorem softRepair_keeps {P : Nat → Prop} {s0 : State} {code key : Nat} {col : Bool} {s : State} (h0 : Keeps P s0 s)
    : Keeps P s0 (softRepair code key col s) := by
  unfold softRepair; try dsimp only
  repeat' with_reducible
    (first | assumption | apply candidateCluster_keeps | apply writeHealth_keeps | apply logRec_keeps | apply useSpare_keeps | (split)
           | (refine Keeps.mk ?_ ?_ ?_ <;> (try dsimp only) <;> first | apply Keeps.pend | apply Keeps.bic (P := P) | apply Keeps.bound (P := P)) | intro _)

theorem noteCorrect_keeps {P : Nat → Prop} {s0 : State} {code key : Nat} {rasp : Bool} {s : State} (h0 : Keeps P s0 s)
    : Keeps P s0 (noteCorrect code key rasp s) := by
  unfold noteCorrect; try dsimp only
  repeat' with_reducible
    (first | assumption | apply draw_keeps | refine draw_keeps_eq (by assumption) ?_ | apply noteMark_keeps | apply forget_keeps
           | apply softRepair_keeps | (split)
           | (refine Keeps.mk ?_ ?_ ?_ <;> (try dsimp only) <;> first | apply Keeps.pend | apply Keeps.bic (P := P) | apply Keeps.bound (P := P)) | intro _)

end Sys2Proof.Machine
end

