-- ==== Sys2Proof/Laws/KeepsWords.lean ====
section
/-!
SUPPORT. KeepsWords.lean: every operation and meaning of Machine/Words.lean keeps the queue, the BIC and the bounds of
State.Bounded, and, where it stores nothing, every byte of DRAM; one lemma each, stated from any earlier state s0 so that lemmas chain.
-/
namespace Sys2Proof.Machine

theorem setErr_keeps {P : Nat → Prop} {s0 : State} {s : State} {st : Store} {key v : Nat} (h0 : Keeps P s0 s) : Keeps P s0 (State.setErr s st key v) := by
  unfold State.setErr; try dsimp only
  repeat' with_reducible
    (first | assumption | (refine Keeps.mk ?_ ?_ ?_ <;> (try dsimp only) <;> first | apply Keeps.pend | apply Keeps.bic (P := P) | apply Keeps.bound (P := P)))

theorem setNm_keeps {P : Nat → Prop} {s0 : State} {s : State} {pcl grp bank row : Nat} {v : BitVec 64} (h0 : Keeps P s0 s)
    : Keeps P s0 (State.setNm s pcl grp bank row v) := by
  unfold State.setNm; try dsimp only
  repeat' with_reducible
    (first | assumption | (refine Keeps.mk ?_ ?_ ?_ <;> (try dsimp only) <;> first | apply Keeps.pend | apply Keeps.bic (P := P) | apply Keeps.bound (P := P)))

theorem replayVeto_keeps {P : Nat → Prop} {s0 : State} {p : Nat} {s : State} (h0 : Keeps P s0 s) : Keeps P s0 (replayVeto p s) := by
  unfold replayVeto; try dsimp only
  repeat' with_reducible
    (first | assumption | apply raiseVeto_keeps)

theorem checkRow_keeps {P : Nat → Prop} {s0 : State} {p : Nat} {x : Partition} {pcl grp col : Nat} {fs : Bool} {row : Nat} {s : State} (h0 : Keeps P s0 s)
    : Keeps P s0 (checkRow p x pcl grp col fs row s) := by
  unfold checkRow; try dsimp only
  repeat' with_reducible
    (first | assumption | apply replayVeto_keeps | apply bump_keeps | apply logRec_keeps | apply setPart_keeps | (split)
           | (refine Keeps.mk ?_ ?_ ?_ <;> (try dsimp only) <;> first | apply Keeps.pend | apply Keeps.bic (P := P) | apply Keeps.bound (P := P)) | intro _)

theorem wordParity_keeps {P : Nat → Prop} {s0 : State} {p : Nat} {x : Partition} {pcl grp col : Nat} {w : BitVec 96} {s : State} (h0 : Keeps P s0 s)
    : Keeps P s0 (wordParity p x pcl grp col w s) := by
  unfold wordParity; try dsimp only
  repeat' with_reducible
    (first | assumption | apply checkRow_keeps | (apply foldl_keeps <;> (try intro _ _ _)) | intro _)

theorem fetchWord_keeps {P : Nat → Prop} {s0 : State} {p pcl grp k col : Nat} {w : BitVec 96} {s : State} (h0 : Keeps P s0 s)
    : Keeps P s0 (fetchWord p pcl grp k col w s).2 := by
  unfold fetchWord; try dsimp only
  repeat' with_reducible
    (first | assumption | apply raiseHold_keeps | apply bump_keeps | apply logRec_keeps | apply noteCorrect_keeps | (split))

theorem fetchWord_keeps_eq {P : Nat → Prop} {s0 u9 : State} {p pcl grp k col : Nat} {w : BitVec 96} {s : State}  {r0}
    (h9 : fetchWord p pcl grp k col w s = (r0, u9)) (h0 : Keeps P s0 s) : Keeps P s0 u9 := by
  have h : Keeps P s0 (fetchWord p pcl grp k col w s).2 := fetchWord_keeps  h0
  rw [h9] at h; exact h

theorem groupWord_keeps {P : Nat → Prop} {s0 : State} {p : Nat} {x : Partition} {pcl grp k : Nat} {r : GroupStep × State} {col : Nat} {w : BitVec 96}
 (h0 : Keeps P s0 r.2) : Keeps P s0 (groupWord p x pcl grp k r col w).2 := by
  have h1 : Keeps P s0 (fetchWord p pcl grp k col w r.2).2 := fetchWord_keeps h0
  unfold groupWord; dsimp only
  split
  · exact wordParity_keeps h1
  · exact h1

theorem groupStep_keeps {P : Nat → Prop} {s0 : State} {p : Nat} {x : Partition} {pcl grp k : Nat} {crc : U64} {s : State}
 (h0 : Keeps P s0 s) : Keeps P s0 (groupStep p x pcl grp k crc s).2 :=
  foldl_prop (P := fun r : GroupStep × State => Keeps P s0 r.2) (fun _ _ h => groupWord_keeps h) h0

theorem groupStep_keeps_eq {P : Nat → Prop} {s0 t : State} {p : Nat} {x : Partition} {pcl grp k : Nat} {crc : U64} {s : State} {r0}
    (e : groupStep p x pcl grp k crc s = (r0, t)) (h0 : Keeps P s0 s) : Keeps P s0 t := by
  have h := groupStep_keeps (p := p) (x := x) (pcl := pcl) (grp := grp) (k := k) (crc := crc) h0
  rw [e] at h; exact h

theorem putResult_keeps {P : Nat → Prop} {s0 : State} {x : Partition} {pcl grp k : Nat} {row : BitVec 64} {s : State} (h0 : Keeps P s0 s)
    : Keeps P s0 (putResult x pcl grp k row s) := by
  unfold putResult; try dsimp only
  repeat' with_reducible
    (first | assumption | apply setNm_keeps
           | (refine Keeps.mk ?_ ?_ ?_ <;> (try dsimp only) <;> first | apply Keeps.pend | apply Keeps.bic (P := P) | apply Keeps.bound (P := P)))

theorem stepGroup_keeps {P : Nat → Prop} {s0 : State} {p : Nat} {x : Partition} {pcl k : Nat} {s : State} {grp : Nat} (h0 : Keeps P s0 s)
    : Keeps P s0 (stepGroup p x pcl k s grp) := by
  unfold stepGroup; try dsimp only
  repeat' with_reducible
    (first | assumption | apply groupStep_keeps | refine groupStep_keeps_eq (by assumption) ?_ | apply putResult_keeps | apply setPart_keeps
           | (refine Keeps.mk ?_ ?_ ?_ <;> (try dsimp only) <;> first | apply Keeps.pend | apply Keeps.bic (P := P) | apply Keeps.bound (P := P)) | intro _)

theorem stepCluster_keeps {P : Nat → Prop} {s0 : State} {p : Nat} {x : Partition} {k : Nat} {s : State} {pcl : Nat} (h0 : Keeps P s0 s)
    : Keeps P s0 (stepCluster p x k s pcl) := by
  unfold stepCluster; try dsimp only
  repeat' with_reducible
    (first | assumption | apply stepGroup_keeps | (apply foldl_keeps <;> (try intro _ _ _))
           | (refine Keeps.mk ?_ ?_ ?_ <;> (try dsimp only) <;> first | apply Keeps.pend | apply Keeps.bic (P := P) | apply Keeps.bound (P := P)) | intro _)

end Sys2Proof.Machine
end

