-- ==== Sys2Proof/Laws/KeepsExchange.lean ====
section
/-!
SUPPORT. KeepsExchange.lean: every operation and meaning of Machine/Exchange.lean keeps the queue, the BIC and the bounds of
State.Bounded, and, where it stores nothing, every byte of DRAM; one lemma each, stated from any earlier state s0 so that lemmas chain.
-/
namespace Sys2Proof.Machine

theorem fetchEntry_keeps {P : Nat → Prop} {s0 : State} {α : Type} {p : Nat} {st : Store} {key loc : Nat} {idle v : α} {s : State} (h0 : Keeps P s0 s)
    : Keeps P s0 (fetchEntry p st key loc idle v s).2 := by
  unfold fetchEntry; try dsimp only
  repeat' with_reducible
    (first | assumption | apply raiseHold_keeps | apply logRec_keeps | apply noteCorrect_keeps | (split))

theorem fetchEntry_keeps_eq {P : Nat → Prop} {s0 u9 : State} {α : Type} {p : Nat} {st : Store} {key loc : Nat} {idle v : α} {s : State}  {r0}
    (h9 : fetchEntry p st key loc idle v s = (r0, u9)) (h0 : Keeps P s0 s) : Keeps P s0 u9 := by
  have h : Keeps P s0 (fetchEntry p st key loc idle v s).2 := fetchEntry_keeps  h0
  rw [h9] at h; exact h

theorem fabIn_keeps {P : Nat → Prop} {s0 : State} {p lcl pcl t : Nat} {s : State} (h0 : Keeps P s0 s) : Keeps P s0 (fabIn p lcl pcl t s).2 := by
  unfold fabIn; try dsimp only
  repeat' with_reducible
    (first | assumption | apply setPart_keeps | (split)
           | (refine Keeps.mk ?_ ?_ ?_ <;> (try dsimp only) <;> first | apply Keeps.pend | apply Keeps.bic (P := P) | apply Keeps.bound (P := P)) | intro _)

theorem fabIn_keeps_eq {P : Nat → Prop} {s0 u9 : State} {p lcl pcl t : Nat} {s : State}  {r0} (h9 : fabIn p lcl pcl t s = (r0, u9)) (h0 : Keeps P s0 s)
    : Keeps P s0 u9 := by
  have h : Keeps P s0 (fabIn p lcl pcl t s).2 := fabIn_keeps  h0
  rw [h9] at h; exact h

theorem fabReach_keeps {P : Nat → Prop} {s0 : State} {p t : Nat} {s : State} (h0 : Keeps P s0 s) : Keeps P s0 (fabReach p t s) := by
  unfold fabReach; try dsimp only
  repeat' with_reducible
    (first | assumption | apply setPart_keeps | (split)
           | (refine Keeps.mk ?_ ?_ ?_ <;> (try dsimp only) <;> first | apply Keeps.pend | apply Keeps.bic (P := P) | apply Keeps.bound (P := P)) | intro _)

theorem fportCapture_keeps {P : Nat → Prop} {s0 : State} {p k : Nat} {s : State} {lcl pcl : Nat} (h0 : Keeps P s0 s)
    : Keeps P s0 (fportCapture p k s lcl pcl) := by
  unfold fportCapture; try dsimp only
  repeat' with_reducible
    (first | assumption | (split)
           | (refine Keeps.mk ?_ ?_ ?_ <;> (try dsimp only) <;> first | apply Keeps.pend | apply Keeps.bic (P := P) | apply Keeps.bound (P := P)))

theorem applyOr_keeps {P : Nat → Prop} {s0 : State} {s : State} (h0 : Keeps P s0 s) : Keeps P s0 (applyOr s) := by
  unfold applyOr; try dsimp only
  repeat' with_reducible
    (first | assumption | (apply foldl_keeps <;> (try intro _ _ _)) | (apply foldl_keeps2 <;> (try intro _ _ _) <;> (try dsimp only))
           | (apply foldl_keeps3 <;> (try intro _ _ _) <;> (try dsimp only))
           | (refine Keeps.mk ?_ ?_ ?_ <;> (try dsimp only) <;> first | apply Keeps.pend | apply Keeps.bic (P := P) | apply Keeps.bound (P := P)) | intro _)

theorem sxExports_keeps {P : Nat → Prop} {s0 : State} {p k : Nat} {s : State} {pcl : Nat} (h0 : Keeps P s0 s) : Keeps P s0 (sxExports p k s pcl) := by
  unfold sxExports; try dsimp only
  repeat' with_reducible
    (first | assumption | apply fetchEntry_keeps | refine fetchEntry_keeps_eq (by assumption) ?_ | apply setPart_keeps
           | (apply foldl_keeps <;> (try intro _ _ _)) | (apply foldl_keeps2 <;> (try intro _ _ _) <;> (try dsimp only))
           | (apply foldl_keeps3 <;> (try intro _ _ _) <;> (try dsimp only)) | (split)
           | (refine Keeps.mk ?_ ?_ ?_ <;> (try dsimp only) <;> first | apply Keeps.pend | apply Keeps.bic (P := P) | apply Keeps.bound (P := P)) | intro _)

theorem inject_keeps {P : Nat → Prop} {s0 : State} {p k : Nat} {s : State} (h0 : Keeps P s0 s) : Keeps P s0 (inject p k s) := by
  unfold inject; try dsimp only
  repeat' with_reducible
    (first | assumption | apply fetchEntry_keeps | refine fetchEntry_keeps_eq (by assumption) ?_ | apply setPart_keeps
           | (apply foldl_keeps <;> (try intro _ _ _)) | (apply foldl_keeps2 <;> (try intro _ _ _) <;> (try dsimp only))
           | (apply foldl_keeps3 <;> (try intro _ _ _) <;> (try dsimp only)) | (split)
           | (refine Keeps.mk ?_ ?_ ?_ <;> (try dsimp only) <;> first | apply Keeps.pend | apply Keeps.bic (P := P) | apply Keeps.bound (P := P)) | intro _)

theorem dxExports_keeps {P : Nat → Prop} {s0 : State} {p k : Nat} {s : State} {lcl pcl : Nat} (h0 : Keeps P s0 s) : Keeps P s0 (dxExports p k s lcl pcl) := by
  unfold dxExports; try dsimp only
  repeat' with_reducible
    (first | assumption | apply fetchEntry_keeps | refine fetchEntry_keeps_eq (by assumption) ?_ | apply setPart_keeps
           | (apply foldl_keeps <;> (try intro _ _ _)) | (apply foldl_keeps2 <;> (try intro _ _ _) <;> (try dsimp only))
           | (apply foldl_keeps3 <;> (try intro _ _ _) <;> (try dsimp only)) | (split)
           | (refine Keeps.mk ?_ ?_ ?_ <;> (try dsimp only) <;> first | apply Keeps.pend | apply Keeps.bic (P := P) | apply Keeps.bound (P := P)) | intro _)

theorem ejFetch_keeps {P : Nat → Prop} {s0 : State} {p t : Nat} {s : State} {lcl pcl : Nat} (h0 : Keeps P s0 s) : Keeps P s0 (ejFetch p t s lcl pcl) := by
  unfold ejFetch; dsimp only
  exact foldl_keeps (fun a e h => fetchEntry_keeps h) h0

theorem dxConflicts_keeps {P : Nat → Prop} {s0 : State} {p t : Nat} {s : State} {pcl : Nat} (h0 : Keeps P s0 s) : Keeps P s0 (dxConflicts p t s pcl) := by
  unfold dxConflicts; try dsimp only
  repeat' with_reducible
    (first | assumption | apply bump_keeps | apply logRec_keeps | apply setPart_keeps | (apply foldl_keeps <;> (try intro _ _ _))
           | (apply foldl_keeps2 <;> (try intro _ _ _) <;> (try dsimp only)) | (apply foldl_keeps3 <;> (try intro _ _ _) <;> (try dsimp only))
           | (split) | (refine Keeps.mk ?_ ?_ ?_ <;> (try dsimp only) <;> first | apply Keeps.pend | apply Keeps.bic (P := P) | apply Keeps.bound (P := P))
           | intro _)

theorem importStep_keeps {P : Nat → Prop} {s0 : State} {p t : Nat} {s : State} {lcl pcl : Nat} (h0 : Keeps P s0 s) : Keeps P s0 (importStep p t s lcl pcl) := by
  unfold importStep; try dsimp only
  repeat' with_reducible
    (first | assumption | apply fabIn_keeps | refine fabIn_keeps_eq (by assumption) ?_ | apply ejFetch_keeps | apply fetchEntry_keeps
           | refine fetchEntry_keeps_eq (by assumption) ?_ | apply setNm_keeps | (apply foldl_keeps <;> (try intro _ _ _))
           | (apply foldl_keeps2 <;> (try intro _ _ _) <;> (try dsimp only)) | (apply foldl_keeps3 <;> (try intro _ _ _) <;> (try dsimp only))
           | (split) | intro _)

end Sys2Proof.Machine
end

