-- ==== Sys2Proof/Laws/KeepsPairLink.lean ====
section
/-!
SUPPORT. KeepsPairLink.lean: every operation and meaning of Machine/PairLink.lean keeps the queue, the BIC and the bounds of
State.Bounded, and, where it stores nothing, every byte of DRAM; one lemma each, stated from any earlier state s0 so that lemmas chain.
-/
namespace Sys2Proof.Machine

theorem sendPendant_keeps {P : Nat → Prop} {s0 : State} {ptype : Nat} {content : BitVec 64} {s : State} (h0 : Keeps P s0 s)
    : Keeps P s0 (sendPendant ptype content s) := by
  unfold sendPendant; try dsimp only
  repeat' with_reducible
    (first | assumption | (split)
           | (refine Keeps.mk ?_ ?_ ?_ <;> (try dsimp only) <;> first | apply Keeps.pend | apply Keeps.bic (P := P) | apply Keeps.bound (P := P)) | intro _)

theorem sendMessage_keeps {P : Nat → Prop} {s0 : State} {type : Nat} {words : List Nat} {s : State} (h0 : Keeps P s0 s)
    : Keeps P s0 (sendMessage type words s) := by
  unfold sendMessage; try dsimp only
  repeat' with_reducible
    (first | assumption | apply sendPendant_keeps | (apply foldl_keeps <;> (try intro _ _ _)) | intro _)

theorem sendTag_keeps {P : Nat → Prop} {s0 : State} {s : State} (h0 : Keeps P s0 s) : Keeps P s0 (sendTag s) := by
  unfold sendTag; try dsimp only
  repeat' with_reducible
    (first | assumption | apply sendPendant_keeps)

theorem sendUnits_keeps {P : Nat → Prop} {s0 : State} {addr : U64} {data : List U64} {s : State} (h0 : Keeps P s0 s) : Keeps P s0 (sendUnits addr data s) := by
  unfold sendUnits; try dsimp only
  repeat' with_reducible
    (first | assumption | (refine Keeps.mk ?_ ?_ ?_ <;> (try dsimp only) <;> first | apply Keeps.pend | apply Keeps.bic (P := P) | apply Keeps.bound (P := P))
           | intro _)

theorem forwardPages_keeps {P : Nat → Prop} {s0 : State} {type jsid level flags count jaddr paddr : Nat} {s : State} (h0 : Keeps P s0 s)
    : Keeps P s0 (forwardPages type jsid level flags count jaddr paddr s) := by
  unfold forwardPages; try dsimp only
  repeat' with_reducible
    (first | assumption | apply sendMessage_keeps | (split))

end Sys2Proof.Machine
end

