-- ==== Sys2Proof/Laws/KeepsMem.lean ====
section
/-!
SUPPORT. KeepsMem.lean: every operation and meaning of Machine/Mem.lean keeps the queue, the BIC and the bounds of
State.Bounded, and, where it stores nothing, every byte of DRAM; one lemma each, stated from any earlier state s0 so that lemmas chain.
-/
namespace Sys2Proof.Machine

theorem touchRank_keeps {P : Nat → Prop} {s0 : State} {line rank : Nat} {s : State} (h0 : Keeps P s0 s) : Keeps P s0 (touchRank line rank s) := by
  unfold touchRank; try dsimp only
  repeat' with_reducible
    (first | assumption | (split)
           | (refine Keeps.mk ?_ ?_ ?_ <;> (try dsimp only) <;> first | apply Keeps.pend | apply Keeps.bic (P := P) | apply Keeps.bound (P := P)))

theorem touchBank_keeps {P : Nat → Prop} {s0 : State} {line : Nat} {s : State} (h0 : Keeps P s0 s) : Keeps P s0 (touchBank line s) := by
  unfold touchBank; try dsimp only
  repeat' with_reducible
    (first | assumption | apply touchRank_keeps)

theorem setMeta_keeps {P : Nat → Prop} {s0 : State} {s : State} {line : Nat} {m : LineMeta} (h0 : Keeps P s0 s) : Keeps P s0 (State.setMeta s line m) := by
  unfold State.setMeta; try dsimp only
  repeat' with_reducible
    (first | assumption | (refine Keeps.mk ?_ ?_ ?_ <;> (try dsimp only) <;> first | apply Keeps.pend | apply Keeps.bic (P := P) | apply Keeps.bound (P := P)))

/-- Bytes outside those put are the same. -/
theorem putBytes_keeps_off {P : Nat → Prop} {s0 : State} {s : State} {a : Nat} {l : List Byte} (hp : ∀ x, P x → x < a ∨ a + l.length ≤ x)
    (h0 : Keeps P s0 s) : Keeps P s0 (s.putBytes a l) := by
  refine Keeps.mk ⟨h0.1.1, fun x px => ?_⟩ h0.bic fun h => ⟨smWf_smPutAll (h0.bound h).1, (h0.bound h).2⟩
  refine Eq.trans (smGet_smPutAll_ne ?_) (h0.1.2 x px)
  intro e he
  simp only [List.mem_map] at he
  obtain ⟨⟨i, b⟩, hi, rfl⟩ := he
  have h1 := List.mem_range.1 (List.of_mem_zip hi).1
  rcases hp x px with h | h <;> dsimp only <;> omega

theorem putBytes_keeps {s0 : State} {s : State} {a : Nat} {l : List Byte} (h0 : Keeps noByte s0 s) : Keeps noByte s0 (s.putBytes a l) :=
  putBytes_keeps_off (fun _ f => f.elim) h0

theorem setSlot_keeps {P : Nat → Prop} {s0 : State} {s : State} {kix : Nat} {k : KeySlot} (h0 : Keeps P s0 s) : Keeps P s0 (State.setSlot s kix k) := by
  unfold State.setSlot; try dsimp only
  repeat' with_reducible
    (first | assumption | (refine Keeps.mk ?_ ?_ ?_ <;> (try dsimp only) <;> first | apply Keeps.pend | apply Keeps.bic (P := P) | apply Keeps.bound (P := P)))

theorem setBinding_keeps {P : Nat → Prop} {s0 : State} {s : State} {jsid : Nat} {b : Option Binding} (h0 : Keeps P s0 s)
    : Keeps P s0 (State.setBinding s jsid b) := by
  unfold State.setBinding; try dsimp only
  repeat' with_reducible
    (first | assumption | (refine Keeps.mk ?_ ?_ ?_ <;> (try dsimp only) <;> first | apply Keeps.pend | apply Keeps.bic (P := P) | apply Keeps.bound (P := P)))

theorem secEvent_keeps {P : Nat → Prop} {s0 : State} {cause kix jsid master paddr jaddr : Nat} {s : State} (h0 : Keeps P s0 s) :
    Keeps P s0 (secEvent cause kix jsid master paddr jaddr s) := by
  unfold secEvent; dsimp only
  apply raiseSecAlarm_keeps
  split
  · rename_i hl
    refine Keeps.mk h0.pend h0.bic fun h => ?_
    have k := h0.bound h
    exact ⟨k.1, k.2.1, by simp; omega, k.2.2.2⟩
  · exact bump_keeps h0

theorem tagFailure_keeps {P : Nat → Prop} {s0 : State} {w : Access} {line jaddr : Nat} {s : State} (h0 : Keeps P s0 s)
    : Keeps P s0 (tagFailure w line jaddr s) := by
  unfold tagFailure; try dsimp only
  repeat' with_reducible
    (first | assumption | apply postEvent_keeps | apply secEvent_keeps | (split))

theorem startMigration_keeps {P : Nat → Prop} {s0 : State} {ch rank : Nat} {s : State} (h0 : Keeps P s0 s) : Keeps P s0 (startMigration ch rank s) := by
  unfold startMigration; try dsimp only
  repeat' with_reducible
    (first | assumption | apply bump_keeps | apply startAct_keeps | (split)
           | (refine Keeps.mk ?_ ?_ ?_ <;> (try dsimp only) <;> first | apply Keeps.pend | apply Keeps.bic (P := P) | apply Keeps.bound (P := P)))

theorem dramEvent_keeps {P : Nat → Prop} {s0 : State} {cause loc : Nat} {s : State} (h0 : Keeps P s0 s) : Keeps P s0 (dramEvent cause loc s) := by
  unfold dramEvent; try dsimp only
  repeat' with_reducible
    (first | assumption | apply logEvent_keeps)

theorem retireRank_keeps {P : Nat → Prop} {s0 : State} {line : Nat} {s : State} (h0 : Keeps P s0 s) : Keeps P s0 (retireRank line s) := by
  unfold retireRank; try dsimp only
  repeat' with_reducible
    (first | assumption | apply startMigration_keeps | apply dramEvent_keeps | (split))

theorem spareFails_keeps {P : Nat → Prop} {s0 : State} {ch loc : Nat} {m : RankMigr} {s : State} (h0 : Keeps P s0 s) : Keeps P s0 (spareFails ch loc m s) := by
  unfold spareFails; try dsimp only
  repeat' with_reducible
    (first | assumption | apply dramEvent_keeps | apply endAct_keeps | (apply foldl_keeps <;> (try intro _ _ _))
           | (apply foldl_keeps2 <;> (try intro _ _ _) <;> (try dsimp only)) | (apply foldl_keeps3 <;> (try intro _ _ _) <;> (try dsimp only))
           | (refine Keeps.mk ?_ ?_ ?_ <;> (try dsimp only) <;> first | apply Keeps.pend | apply Keeps.bic (P := P) | apply Keeps.bound (P := P)) | intro _)

theorem dramUncorr_keeps {P : Nat → Prop} {s0 : State} {line : Nat} {s : State} (h0 : Keeps P s0 s) : Keeps P s0 (dramUncorr line s) := by
  unfold dramUncorr; try dsimp only
  repeat' with_reducible
    (first | assumption | apply touchBank_keeps | apply setMeta_keeps | apply spareFails_keeps | apply dramEvent_keeps | apply retireRank_keeps
           | (split) | (refine Keeps.mk ?_ ?_ ?_ <;> (try dsimp only) <;> first | apply Keeps.pend | apply Keeps.bic (P := P) | apply Keeps.bound (P := P))
           | intro _)

theorem dramFixed_keeps {P : Nat → Prop} {s0 : State} {line : Nat} {s : State} (h0 : Keeps P s0 s) : Keeps P s0 (dramFixed line s) := by
  unfold dramFixed; try dsimp only
  repeat' with_reducible
    (first | assumption | apply bump_keeps | apply logRec_keeps | apply touchBank_keeps | apply setMeta_keeps | apply noteMark_keeps
           | apply retireRank_keeps | (split)
           | (refine Keeps.mk ?_ ?_ ?_ <;> (try dsimp only) <;> first | apply Keeps.pend | apply Keeps.bic (P := P) | apply Keeps.bound (P := P)) | intro _)

theorem eccRead_keeps {P : Nat → Prop} {s0 : State} {s : State} {line : Nat} (h0 : Keeps P s0 s) : Keeps P s0 (eccRead s line) := by
  unfold eccRead; try dsimp only
  repeat' with_reducible
    (first | assumption | apply touchBank_keeps | apply dramFixed_keeps | (split))

theorem eccLost_keeps {P : Nat → Prop} {s0 : State} {s : State} {line : Nat} (h0 : Keeps P s0 s) : Keeps P s0 (eccLost s line) := by
  unfold eccLost; try dsimp only
  repeat' with_reducible
    (first | assumption | apply dramUncorr_keeps | (split))

theorem accessLine_keeps {P : Nat → Prop} {s0 : State} {w : Access} {line jaddr : Nat} {s : State} (h0 : Keeps P s0 s)
    : Keeps P s0 (accessLine w line jaddr s).2 := by
  unfold accessLine; try dsimp only
  repeat' with_reducible
    (first | assumption | apply eccRead_keeps | apply eccLost_keeps | apply tagFailure_keeps | (apply foldl_keeps <;> (try intro _ _ _))
           | (apply foldl_keeps2 <;> (try intro _ _ _) <;> (try dsimp only)) | (apply foldl_keeps3 <;> (try intro _ _ _) <;> (try dsimp only))
           | (split) | (refine Keeps.mk ?_ ?_ ?_ <;> (try dsimp only) <;> first | apply Keeps.pend | apply Keeps.bic (P := P) | apply Keeps.bound (P := P))
           | intro _)

theorem accessLine_keeps_eq {P : Nat → Prop} {s0 u9 : State} {w : Access} {line jaddr : Nat} {s : State}  {r0} (h9 : accessLine w line jaddr s = (r0, u9))
 (h0 : Keeps P s0 s) : Keeps P s0 u9 := by
  have h : Keeps P s0 (accessLine w line jaddr s).2 := accessLine_keeps  h0
  rw [h9] at h; exact h

theorem startRotation_keeps {P : Nat → Prop} {s0 : State} {jsid kix : Nat} {ctx : Option CmdCtx} {s : State} (h0 : Keeps P s0 s)
    : Keeps P s0 (startRotation jsid kix ctx s) := by
  unfold startRotation; try dsimp only
  repeat' with_reducible
    (first | assumption | apply startAct_keeps | apply setBinding_keeps | (split)
           | (refine Keeps.mk ?_ ?_ ?_ <;> (try dsimp only) <;> first | apply Keeps.pend | apply Keeps.bic (P := P) | apply Keeps.bound (P := P)) | intro _)

theorem rotateAuto_keeps {P : Nat → Prop} {s0 : State} {jsid : Nat} {s : State} (h0 : Keeps P s0 s) : Keeps P s0 (rotateAuto jsid s) := by
  unfold rotateAuto; try dsimp only
  repeat' with_reducible
    (first | assumption | apply draw_keeps | refine draw_keeps_eq (by assumption) ?_ | apply postEvent_keeps | apply startRotation_keeps
           | apply setSlot_keeps | (split)
           | (refine Keeps.mk ?_ ?_ ?_ <;> (try dsimp only) <;> first | apply Keeps.pend | apply Keeps.bic (P := P) | apply Keeps.bound (P := P)) | intro _)

theorem stampLine_keeps {P : Nat → Prop} {s0 : State} {jsid k line : Nat} {s : State} (h0 : Keeps P s0 s) : Keeps P s0 (stampLine jsid k line s) := by
  unfold stampLine; try dsimp only
  repeat' with_reducible
    (first | assumption | apply touchBank_keeps | apply setMeta_keeps | apply rotateAuto_keeps | (split))

theorem storeLine_keeps {s0 : State} {jsid k line : Nat} {data : List Byte} {s : State} (h0 : Keeps noByte s0 s) :
    Keeps noByte s0 (storeLine jsid k line data s) := stampLine_keeps (putBytes_keeps h0)

theorem storeLine_keeps_off {P : Nat → Prop} {s0 : State} {jsid k line : Nat} {data : List Byte} {s : State}
    (hp : ∀ x, P x → x < line * 64 ∨ line * 64 + data.length ≤ x) (h0 : Keeps P s0 s) : Keeps P s0 (storeLine jsid k line data s) :=
  stampLine_keeps (putBytes_keeps_off hp h0)

theorem mirrorPush_keeps {P : Nat → Prop} {s0 : State} {jsid addr : Nat} {bytes : List Byte} {s : State} (h0 : Keeps P s0 s)
    : Keeps P s0 (mirrorPush jsid addr bytes s) := by
  unfold mirrorPush; try dsimp only
  repeat' with_reducible
    (first | assumption | apply sendMessage_keeps | apply logRec_keeps | (split)
           | (refine Keeps.mk ?_ ?_ ?_ <;> (try dsimp only) <;> first | apply Keeps.pend | apply Keeps.bic (P := P) | apply Keeps.bound (P := P)) | intro _)

theorem writeLine_keeps {s0 : State} {w : Access} {line : Nat} {data : List Byte} {s : State} (h0 : Keeps noByte s0 s)
    : Keeps noByte s0 (writeLine w line data s) := by
  unfold writeLine; try dsimp only
  repeat' with_reducible
    (first | assumption | apply mirrorPush_keeps | apply storeLine_keeps | (split))

theorem poisonLine_keeps {P : Nat → Prop} {s0 : State} {jsid k line : Nat} {s : State} (h0 : Keeps P s0 s) : Keeps P s0 (poisonLine jsid k line s) := by
  unfold poisonLine; try dsimp only
  repeat' with_reducible
    (first | assumption | apply stampLine_keeps | apply mirrorPush_keeps | apply setMeta_keeps
           | (refine Keeps.mk ?_ ?_ ?_ <;> (try dsimp only) <;> first | apply Keeps.pend | apply Keeps.bic (P := P) | apply Keeps.bound (P := P)))

theorem joinMerge_keeps {P : Nat → Prop} {s0 : State} {line : Nat} {bytes : List (Nat × Byte)} {s : State} (h0 : Keeps P s0 s)
    : Keeps P s0 (joinMerge line bytes s) := by
  unfold joinMerge; try dsimp only
  repeat' with_reducible
    (first | assumption | (split)
           | (refine Keeps.mk ?_ ?_ ?_ <;> (try dsimp only) <;> first | apply Keeps.pend | apply Keeps.bic (P := P) | apply Keeps.bound (P := P)) | intro _)

theorem putLine_keeps {s0 : State} {w : Access} {line : Nat} {data : List Byte} {s : State} (h0 : Keeps noByte s0 s) : Keeps noByte s0 (putLine w line data s) := by
  unfold putLine
  exact ite_keeps (joinMerge_keeps h0) (writeLine_keeps h0)

theorem mergeWrite_keeps {s0 : State} {w : Access} {line jaddr : Nat} {bytes : List (Nat × Byte)} {s : State} (h0 : Keeps noByte s0 s)
    : Keeps noByte s0 (mergeWrite w line jaddr bytes s) := by
  unfold mergeWrite; try dsimp only
  repeat' with_reducible
    (first | assumption | apply joinMerge_keeps | apply accessLine_keeps | refine accessLine_keeps_eq (by assumption) ?_ | apply writeLine_keeps
           | apply logRec_keeps | apply poisonLine_keeps | (split)
           | (refine Keeps.mk ?_ ?_ ?_ <;> (try dsimp only) <;> first | apply Keeps.queue | apply Keeps.bic (P := noByte) | apply Keeps.bound (P := noByte)) | intro _)

theorem enterMerge_keeps {P : Nat → Prop} {s0 : State} {c : Commit} {s : State} (h0 : Keeps P s0 s) : Keeps P s0 (enterMerge c s) := by
  unfold enterMerge; try dsimp only
  repeat' with_reducible
    (first | assumption | (split)
           | (refine Keeps.mk ?_ ?_ ?_ <;> (try dsimp only) <;> first | apply Keeps.pend | apply Keeps.bic (P := P) | apply Keeps.bound (P := P)) | intro _)

theorem fillMergeList_keeps {P : Nat → Prop} {s0 : State} {l : List Commit} {s : State} (h0 : Keeps P s0 s) : Keeps P s0 (fillMergeList l s) := by
  induction l generalizing s with
  | nil => exact h0
  | cons c l ih =>
    unfold fillMergeList; dsimp only
    split
    · exact ih (enterMerge_keeps (Keeps.mk h0.pend h0.bic h0.bound))
    · exact h0

theorem fillMerge_keeps {P : Nat → Prop} {s0 : State} {s : State} (h0 : Keeps P s0 s) : Keeps P s0 (fillMerge s) := fillMergeList_keeps h0

theorem walkRead_keeps {P : Nat → Prop} {s0 : State} {jsid master addr : Nat} {s : State} (h0 : Keeps P s0 s) : Keeps P s0 (walkRead jsid master addr s) := by
  unfold walkRead
  split
  · exact h0
  · exact foldl_keeps (fun a e h => accessLine_keeps h) h0

theorem postFault_keeps {P : Nat → Prop} {s0 : State} {r : FaultRec} {s : State} (h0 : Keeps P s0 s) : Keeps P s0 (postFault r s) := by
  unfold postFault; try dsimp only
  repeat' with_reducible
    (first | assumption | apply bump_keeps | apply postEvent_keeps | (split)
           | (refine Keeps.mk ?_ ?_ ?_ <;> (try dsimp only) <;> first | apply Keeps.pend | apply Keeps.bic (P := P) | apply Keeps.bound (P := P)))

theorem clearFaults_keeps {P : Nat → Prop} {s0 : State} {q : FaultRec → Bool} {s : State} (h0 : Keeps P s0 s) : Keeps P s0 (clearFaults q s) := by
  unfold clearFaults; try dsimp only
  repeat' with_reducible
    (first | assumption | (refine Keeps.mk ?_ ?_ ?_ <;> (try dsimp only) <;> first | apply Keeps.pend | apply Keeps.bic (P := P) | apply Keeps.bound (P := P))
           | intro _)

theorem readBytes_keeps {P : Nat → Prop} {s0 : State} {w : Access} {line jaddr off n : Nat} {s : State} (h0 : Keeps P s0 s)
    : Keeps P s0 (readBytes w line jaddr off n s).2 := by
  unfold readBytes; try dsimp only
  repeat' with_reducible
    (first | assumption | apply accessLine_keeps | refine accessLine_keeps_eq (by assumption) ?_ | (split)
           | (refine Keeps.mk ?_ ?_ ?_ <;> (try dsimp only) <;> first | apply Keeps.pend | apply Keeps.bic (P := P) | apply Keeps.bound (P := P)) | intro _)

theorem readBytes_keeps_eq {P : Nat → Prop} {s0 u9 : State} {w : Access} {line jaddr off n : Nat} {s : State} {r0}
    (h9 : readBytes w line jaddr off n s = (r0, u9)) (h0 : Keeps P s0 s) : Keeps P s0 u9 := by
  have h : Keeps P s0 (readBytes w line jaddr off n s).2 := readBytes_keeps h0
  rw [h9] at h; exact h

theorem readLines_keeps {P : Nat → Prop} {s0 : State} {w : Access} {fuel addr n done : Nat} {acc : List Byte} {s : State} (h0 : Keeps P s0 s) :
    Keeps P s0 (readLines w fuel addr n done acc s).2.2 := by
  induction fuel generalizing addr n done acc s with
  | zero => exact h0
  | succ f ih =>
    unfold readLines; dsimp only
    have hw := walkRead_keeps (jsid := w.jsid) (master := w.master) (addr := addr) h0
    split
    · exact h0
    · split
      · exact hw
      · split
        · exact ih (readBytes_keeps_eq ‹_› hw)
        · exact readBytes_keeps_eq ‹_› hw

theorem readJob_keeps {P : Nat → Prop} {s0 : State} {w : Access} {addr n : Nat} {s : State} (h0 : Keeps P s0 s) : Keeps P s0 (readJob w addr n s).2.2 :=
  readLines_keeps h0

theorem readJob_keeps_eq {P : Nat → Prop} {s0 u9 : State} {w : Access} {addr n : Nat} {s : State}  {r0 r1} (h9 : readJob w addr n s = (r0, r1, u9)) (h0
    : Keeps P s0 s) : Keeps P s0 u9 := by
  have h : Keeps P s0 (readJob w addr n s).2.2 := readJob_keeps  h0
  rw [h9] at h; exact h

theorem writeLines_keeps {s0 : State} {w : Access} {fuel addr : Nat} {b : List Byte} {done : Nat} {s : State} (h0 : Keeps noByte s0 s) :
    Keeps noByte s0 (writeLines w fuel addr b done s).2 := by
  induction fuel generalizing addr b done s with
  | zero => exact h0
  | succ f ih =>
    unfold writeLines; dsimp only
    have hw := walkRead_keeps (jsid := w.jsid) (master := w.master) (addr := addr) h0
    split
    · exact h0
    · split
      · exact hw
      · apply ih
        split
        · exact putLine_keeps hw
        · exact mergeWrite_keeps hw

theorem writeJob_keeps {s0 : State} {w : Access} {addr : Nat} {b : List Byte} {s : State} (h0 : Keeps noByte s0 s)
    : Keeps noByte s0 (writeJob w addr b s).2 := writeLines_keeps h0

theorem writeJob_keeps_eq {s0 u9 : State} {w : Access} {addr : Nat} {b : List Byte} {s : State}  {r0}
    (h9 : writeJob w addr b s = (r0, u9)) (h0 : Keeps noByte s0 s) : Keeps noByte s0 u9 := by
  have h : Keeps noByte s0 (writeJob w addr b s).2 := writeJob_keeps  h0
  rw [h9] at h; exact h

end Sys2Proof.Machine
end

