-- ==== Sys2Proof/Laws/KeepsTranslation.lean ====
section
/-!
SUPPORT. KeepsTranslation.lean: every operation and meaning of Machine/Translation.lean keeps the queue, the BIC and the bounds of
State.Bounded, and, where it stores nothing, every byte of DRAM; one lemma each, stated from any earlier state s0 so that lemmas chain.
-/
namespace Sys2Proof.Machine

theorem pageWait_keeps {P : Nat → Prop} {s0 : State} {c : CmdCtx} {jsid lo n : Nat} {go : State → State} {s : State}
    (h_go : ∀ x0, Keeps P s0 x0 → Keeps P s0 (go x0)) (h0 : Keeps P s0 s) : Keeps P s0 (pageWait c jsid lo n go s) := by
  unfold pageWait; try dsimp only
  repeat' with_reducible
    (first | assumption | apply h_go | (split) | intro _)

theorem setPte_keeps {s0 : State} {s : State} {a : Nat} {e : U64} (h0 : Keeps noByte s0 s) : Keeps noByte s0 (State.setPte s a e) := storeLine_keeps h0

theorem clearLine_keeps {s0 : State} {s : State} {line : Nat} (h0 : Keeps noByte s0 s) : Keeps noByte s0 (clearLine s line) :=
  ite_keeps h0 (storeLine_keeps h0)

theorem takePage_keeps {s0 : State} {s : State} {r : Nat × State} (e : takePage s = some r) (h0 : Keeps noByte s0 s) : Keeps noByte s0 r.2 := by
  unfold takePage at e
  cases hf : s.freePage with
  | none => simp [hf] at e
  | some a =>
    simp only [hf, Option.map_some, Option.some.injEq] at e
    rw [← e]
    dsimp only
    generalize (List.range 64).map (a / 64 + ·) = l
    refine foldl_keeps (fun b i h => clearLine_keeps h) ?_
    exact Keeps.mk h0.queue h0.bic h0.bound

theorem ensureL4_keeps {s0 : State} {jsid : Nat} {s : State} {r : Nat × State} (e : ensureL4 jsid s = some r) (h0 : Keeps noByte s0 s)
    : Keeps noByte s0 r.2 := by
  unfold ensureL4 at e
  split at e
  · cases e; exact h0
  · cases hf : takePage s with
    | none => simp [hf] at e
    | some q =>
      have k := takePage_keeps hf h0
      simp only [hf, Option.map_some, Option.some.injEq] at e
      subst e
      exact Keeps.mk k.pend k.bic k.bound

theorem mapDown_keeps {s0 : State} {leaf addr level table : Nat} {e : U64} {s u9 : State} (h : mapDown leaf addr e level table s = some u9)
 (h0 : Keeps noByte s0 s) : Keeps noByte s0 u9 := by
  induction level generalizing table s with
  | zero => simp [mapDown] at h
  | succ l ih =>
    unfold mapDown at h; dsimp only at h
    split at h
    · cases h; exact setPte_keeps h0
    · split at h
      · exact ih h h0
      · split at h
        · cases h
        · rename_i q t s1 hq
          exact ih h (setPte_keeps (takePage_keeps hq h0))

theorem mapPage_keeps {s0 : State} {jsid level addr : Nat} {e : U64} {s u9 : State} (h : mapPage jsid level addr e s = some u9)
 (h0 : Keeps noByte s0 s) : Keeps noByte s0 u9 := by
  unfold mapPage at h
  cases hf : ensureL4 jsid s with
  | none => simp [hf] at h
  | some r => exact mapDown_keeps (by simpa [hf] using h) (ensureL4_keeps hf h0)

theorem unmapDown_keeps {s0 : State} {leaf addr level table : Nat} {s : State} (h0 : Keeps noByte s0 s)
    : Keeps noByte s0 (unmapDown leaf addr level table s).2 := by
  induction level generalizing table s with
  | zero => exact h0
  | succ l ih =>
    unfold unmapDown; dsimp only
    split
    · exact setPte_keeps h0
    · have k := ih (table := entryPa (s.pte (entryAddr table (l + 1) addr))) h0
      split
      · have q := setPte_keeps (a := entryAddr table (l + 1) addr) (e := 0) k
        exact Keeps.mk q.queue q.bic q.bound
      · exact k

theorem unmapPage_keeps {s0 : State} {jsid level addr : Nat} {s : State} (h0 : Keeps noByte s0 s) : Keeps noByte s0 (unmapPage jsid level addr s) := by
  unfold unmapPage
  split
  · exact h0
  · rename_i t _
    have k : Keeps noByte s0 (unmapDown level addr 4 t s).2 := unmapDown_keeps h0
    dsimp only
    split
    · exact Keeps.mk k.pend k.bic k.bound
    · exact k

theorem finishWaits_keeps {P : Nat → Prop} {s0 : State} {s : State} (h0 : Keeps P s0 s) : Keeps P s0 (finishWaits s) := by
  unfold finishWaits; try dsimp only
  repeat' with_reducible
    (first | assumption | apply reply_keeps | (apply foldl_keeps <;> (try intro _ _ _))
           | (apply foldl_keeps2 <;> (try intro _ _ _) <;> (try dsimp only)) | (apply foldl_keeps3 <;> (try intro _ _ _) <;> (try dsimp only))
           | (refine Keeps.mk ?_ ?_ ?_ <;> (try dsimp only) <;> first | apply Keeps.pend | apply Keeps.bic (P := P) | apply Keeps.bound (P := P)) | intro _)

theorem replyOrWait_keeps {P : Nat → Prop} {s0 : State} {c : CmdCtx} {op jsid lo n : Nat} {olds : List (Nat × Nat)} {s : State} (h0 : Keeps P s0 s)
    : Keeps P s0 (replyOrWait c op jsid lo n olds s) := by
  unfold replyOrWait; try dsimp only
  repeat' with_reducible
    (first | assumption | apply holdDeferred_keeps | apply reply_keeps | (split)
           | (refine Keeps.mk ?_ ?_ ?_ <;> (try dsimp only) <;> first | apply Keeps.pend | apply Keeps.bic (P := P) | apply Keeps.bound (P := P)) | intro _)

theorem execTransPool_keeps {P : Nat → Prop} {s0 u9 : State} {c : CmdCtx} {base len : U64} {s : State}  (h9 : execTransPool c base len s = .next u9) (h0
    : Keeps P s0 s) : Keeps P s0 u9 := by
  unfold execTransPool at h9; try dsimp only at h9
  cases h9
  repeat' with_reducible
    (first | assumption | apply immediate_keeps | apply reply_keeps | (split)
           | (refine Keeps.mk ?_ ?_ ?_ <;> (try dsimp only) <;> first | apply Keeps.pend | apply Keeps.bic (P := P) | apply Keeps.bound (P := P)) | intro _)

theorem execTransMap_keeps {s0 u9 : State} {c : CmdCtx} {jsid size flags rsvd : Byte} {count rsvd2 : U16} {jaddr paddr : U64} {s : State}
    (e : execTransMap c jsid size flags rsvd count rsvd2 jaddr paddr s = .next u9) (h0 : Keeps noByte s0 s) : Keeps noByte s0 u9 := by
  unfold execTransMap at e; dsimp only at e
  cases e
  apply pageWait_keeps _ h0
  intro _ h1
  apply deferredOp_keeps _ h1
  intro x h2
  repeat' with_reducible (first | assumption | apply reply_keeps | split)
  rename_i hf
  apply replyOrWait_keeps
  apply forwardPages_keeps
  refine foldl_prop (P := fun r : Option State => ∀ t, r = some t → Keeps noByte s0 t) ?_ ?_ _ hf
  · intro r k hr t ht
    cases r with
    | none => simp at ht
    | some q => exact mapPage_keeps (by simpa using ht) (hr q rfl)
  · intro t ht; cases ht; exact h2

theorem execTransUnmap_keeps {s0 u9 : State} {c : CmdCtx} {jsid size : Byte} {rsvd : U16} {count rsvd2 : U16} {jaddr : U64} {s : State}
    (h9 : execTransUnmap c jsid size rsvd count rsvd2 jaddr s = .next u9) (h0 : Keeps noByte s0 s) : Keeps noByte s0 u9 := by
  unfold execTransUnmap at h9; try dsimp only at h9
  cases h9
  repeat' with_reducible
    (first | assumption | apply pageWait_keeps | apply deferredOp_keeps | apply reply_keeps | apply unmapPage_keeps | apply replyOrWait_keeps
           | apply forwardPages_keeps | (apply foldl_keeps <;> (try intro _ _ _))
           | (apply foldl_keeps2 <;> (try intro _ _ _) <;> (try dsimp only)) | (apply foldl_keeps3 <;> (try intro _ _ _) <;> (try dsimp only))
           | (split) | (refine Keeps.mk ?_ ?_ ?_ <;> (try dsimp only) <;> first | apply Keeps.queue | apply Keeps.bic (P := noByte) | apply Keeps.bound (P := noByte))
           | intro _)

theorem retestFaultHold_keeps {P : Nat → Prop} {s0 : State} {p : Nat} {s : State} (h0 : Keeps P s0 s) : Keeps P s0 (retestFaultHold p s) := by
  unfold retestFaultHold; try dsimp only
  repeat' with_reducible
    (first | assumption | apply resolveHolds_keeps | (split) | intro _)

theorem forceError_keeps {P : Nat → Prop} {s0 : State} {r : FaultRec} {s : State} (h0 : Keeps P s0 s) : Keeps P s0 (forceError r s) := by
  unfold forceError; try dsimp only
  repeat' with_reducible
    (first | assumption | apply setPart_keeps
           | (refine Keeps.mk ?_ ?_ ?_ <;> (try dsimp only) <;> first | apply Keeps.pend | apply Keeps.bic (P := P) | apply Keeps.bound (P := P)) | intro _)

theorem freeFaults_keeps {P : Nat → Prop} {s0 : State} {q : FaultRec → Bool} {s : State} (h0 : Keeps P s0 s) : Keeps P s0 (freeFaults q s) := by
  unfold freeFaults; try dsimp only
  repeat' with_reducible
    (first | assumption | apply eachPart_keeps | apply retestFaultHold_keeps | apply clearFaults_keeps | intro _)

theorem execTransResolve_keeps {P : Nat → Prop} {s0 u9 : State} {c : CmdCtx} {jsid action sel n : Byte} {frame : FrameNo} {rsvd : U16} {seqs : List U32}
    {s : State}  (h9 : execTransResolve c jsid action sel n frame rsvd seqs s = .next u9) (h0 : Keeps P s0 s) : Keeps P s0 u9 := by
  unfold execTransResolve at h9; try dsimp only at h9
  cases h9
  repeat' with_reducible
    (first | assumption | apply immediate_keeps | apply reply_keeps | apply forceError_keeps | apply eachPart_keeps | apply retestFaultHold_keeps
           | apply clearFaults_keeps | (apply foldl_keeps <;> (try intro _ _ _)) | (split) | intro _)

theorem execTransFaults_keeps {P : Nat → Prop} {s0 u9 : State} {c : CmdCtx} {jsid : Byte} {rsvd : BitVec 24} {s : State}
    (h9 : execTransFaults c jsid rsvd s = .next u9) (h0 : Keeps P s0 s) : Keeps P s0 u9 := by
  unfold execTransFaults at h9; try dsimp only at h9
  cases h9
  repeat' with_reducible
    (first | assumption | apply immediate_keeps | apply reply_keeps | (split) | intro _)

theorem execTransWalk_keeps {P : Nat → Prop} {s0 u9 : State} {c : CmdCtx} {jsid : Byte} {rsvd : BitVec 56} {jaddr : U64} {s : State}
    (h9 : execTransWalk c jsid rsvd jaddr s = .next u9) (h0 : Keeps P s0 s) : Keeps P s0 u9 := by
  unfold execTransWalk at h9; try dsimp only at h9
  cases h9
  repeat' with_reducible
    (first | assumption | apply pageWait_keeps | apply immediate_keeps | apply reply_keeps | apply walkRead_keeps | (split)
           | (refine Keeps.mk ?_ ?_ ?_ <;> (try dsimp only) <;> first | apply Keeps.pend | apply Keeps.bic (P := P) | apply Keeps.bound (P := P)) | intro _)

end Sys2Proof.Machine
end

