-- ==== Sys2Proof/Laws/KeepsKeys.lean ====
section
/-!
SUPPORT. KeepsKeys.lean: every operation and meaning of Machine/Keys.lean keeps the queue, the BIC and the bounds of
State.Bounded, and, where it stores nothing, every byte of DRAM; one lemma each, stated from any earlier state s0 so that lemmas chain.
-/
namespace Sys2Proof.Machine

theorem startMigr_keeps {P : Nat → Prop} {s0 : State} {s : State} {ch : Nat} (h0 : Keeps P s0 s) : Keeps P s0 (startMigr s ch) := by
  unfold startMigr; try dsimp only
  repeat' with_reducible
    (first | assumption | apply startAct_keeps | (split)
           | (refine Keeps.mk ?_ ?_ ?_ <;> (try dsimp only) <;> first | apply Keeps.pend | apply Keeps.bic (P := P) | apply Keeps.bound (P := P)) | intro _)

theorem startRot_keeps {P : Nat → Prop} {s0 : State} {s : State} {jsid : Nat} (h0 : Keeps P s0 s) : Keeps P s0 (startRot s jsid) := by
  unfold startRot; try dsimp only
  repeat' with_reducible
    (first | assumption | apply rotateAuto_keeps | (split)
           | (refine Keeps.mk ?_ ?_ ?_ <;> (try dsimp only) <;> first | apply Keeps.pend | apply Keeps.bic (P := P) | apply Keeps.bound (P := P)))

theorem startWaiting_keeps {P : Nat → Prop} {s0 : State} {s : State} (h0 : Keeps P s0 s) : Keeps P s0 (startWaiting s) := by
  unfold startWaiting; try dsimp only
  repeat' with_reducible
    (first | assumption | apply startRot_keeps | apply startMigr_keeps | (apply foldl_keeps <;> (try intro _ _ _)))

theorem finishAct_keeps {P : Nat → Prop} {s0 : State} {act obj : Nat} {s : State} (h0 : Keeps P s0 s) : Keeps P s0 (finishAct act obj s) := by
  unfold finishAct; try dsimp only
  repeat' with_reducible
    (first | assumption | apply startWaiting_keeps | apply endAct_keeps)

theorem execKeyLoad_keeps {P : Nat → Prop} {s0 u9 : State} {c : CmdCtx} {kix form : Byte} {rsvd : U16} {pub : List Byte} {rsvd2 : BitVec 24} {wkey : List Byte}
    {s : State}  (h9 : execKeyLoad c kix form rsvd pub rsvd2 wkey s = .next u9) (h0 : Keeps P s0 s) : Keeps P s0 u9 := by
  unfold execKeyLoad at h9; try dsimp only at h9
  cases h9
  repeat' with_reducible
    (first | assumption | apply immediate_keeps | apply reply_keeps | apply draw_keeps | refine draw_keeps_eq (by assumption) ?_
           | apply setSlot_keeps | apply secEvent_keeps | (split)
           | (refine Keeps.mk ?_ ?_ ?_ <;> (try dsimp only) <;> first | apply Keeps.pend | apply Keeps.bic (P := P) | apply Keeps.bound (P := P)) | intro _)

theorem execKeyLoadCommit_keeps {P : Nat → Prop} {s0 u9 : State} {kix : Fin 64} {s : State}  (h9 : execKeyLoadCommit kix s = .next u9) (h0 : Keeps P s0 s)
    : Keeps P s0 u9 := by
  unfold execKeyLoadCommit at h9; try dsimp only at h9
  cases h9
  repeat' with_reducible
    (first | assumption | apply setSlot_keeps | (split)
           | (refine Keeps.mk ?_ ?_ ?_ <;> (try dsimp only) <;> first | apply Keeps.pend | apply Keeps.bic (P := P) | apply Keeps.bound (P := P)) | intro _)

theorem execKeyBind_keeps {P : Nat → Prop} {s0 u9 : State} {c : CmdCtx} {jsid kix flags rsvd : Byte} {s : State}
    (h9 : execKeyBind c jsid kix flags rsvd s = .next u9) (h0 : Keeps P s0 s) : Keeps P s0 u9 := by
  unfold execKeyBind at h9; try dsimp only at h9
  cases h9
  repeat' with_reducible
    (first | assumption | apply immediate_keeps | apply reply_keeps | apply setBinding_keeps | (split) | intro _)

theorem finishRotation_keeps {P : Nat → Prop} {s0 : State} {jsid : Nat} {s : State} (h0 : Keeps P s0 s) : Keeps P s0 (finishRotation jsid s) := by
  unfold finishRotation; try dsimp only
  repeat' with_reducible
    (first | assumption | apply setBinding_keeps | apply setSlot_keeps | apply completeOpt_keeps | apply postEvent_keeps | apply finishAct_keeps
           | (split) | (refine Keeps.mk ?_ ?_ ?_ <;> (try dsimp only) <;> first | apply Keeps.pend | apply Keeps.bic (P := P) | apply Keeps.bound (P := P))
           | intro _)

theorem execKeyUnbind_keeps {P : Nat → Prop} {s0 u9 : State} {c : CmdCtx} {jsid : Byte} {rsvd : BitVec 24} {s : State}
    (h9 : execKeyUnbind c jsid rsvd s = .next u9) (h0 : Keeps P s0 s) : Keeps P s0 u9 := by
  unfold execKeyUnbind at h9; try dsimp only at h9
  cases h9
  repeat' with_reducible
    (first | assumption | apply immediate_keeps | apply reply_keeps | apply finishRotation_keeps | apply setBinding_keeps | (split) | intro _)

theorem execKeyRetire_keeps {P : Nat → Prop} {s0 u9 : State} {c : CmdCtx} {kix : Byte} {rsvd : BitVec 24} {s : State}
    (h9 : execKeyRetire c kix rsvd s = .next u9) (h0 : Keeps P s0 s) : Keeps P s0 u9 := by
  unfold execKeyRetire at h9; try dsimp only at h9
  cases h9
  repeat' with_reducible
    (first | assumption | apply immediate_keeps | apply reply_keeps | apply setSlot_keeps | (split)
           | (refine Keeps.mk ?_ ?_ ?_ <;> (try dsimp only) <;> first | apply Keeps.pend | apply Keeps.bic (P := P) | apply Keeps.bound (P := P)) | intro _)

theorem execKeyFlushComplete_keeps {P : Nat → Prop} {s0 u9 : State} {kix : Fin 64} {s : State}  (h9 : execKeyFlushComplete kix s = .next u9) (h0
    : Keeps P s0 s) : Keeps P s0 u9 := by
  unfold execKeyFlushComplete at h9; try dsimp only at h9
  cases h9
  repeat' with_reducible
    (first | assumption | apply setBinding_keeps | apply setSlot_keeps | apply completeOpt_keeps | apply postEvent_keeps
           | (apply foldl_keeps <;> (try intro _ _ _)) | (apply foldl_keeps2 <;> (try intro _ _ _) <;> (try dsimp only))
           | (apply foldl_keeps3 <;> (try intro _ _ _) <;> (try dsimp only)) | (split)
           | (refine Keeps.mk ?_ ?_ ?_ <;> (try dsimp only) <;> first | apply Keeps.pend | apply Keeps.bic (P := P) | apply Keeps.bound (P := P)) | intro _)

theorem execKeyRotate_keeps {P : Nat → Prop} {s0 u9 : State} {c : CmdCtx} {jsid kix : Byte} {rsvd : U16} {s : State}
    (h9 : execKeyRotate c jsid kix rsvd s = .next u9) (h0 : Keeps P s0 s) : Keeps P s0 u9 := by
  unfold execKeyRotate at h9; try dsimp only at h9
  cases h9
  repeat' with_reducible
    (first | assumption | apply immediate_keeps | apply reply_keeps | apply busyReply_keeps | apply startRotation_keeps | (split)
           | (refine Keeps.mk ?_ ?_ ?_ <;> (try dsimp only) <;> first | apply Keeps.pend | apply Keeps.bic (P := P) | apply Keeps.bound (P := P)) | intro _)

theorem execKeyStatus_keeps {P : Nat → Prop} {s0 u9 : State} {c : CmdCtx} {s : State}  (h9 : execKeyStatus c s = .next u9) (h0 : Keeps P s0 s)
    : Keeps P s0 u9 := by
  unfold execKeyStatus at h9; try dsimp only at h9
  cases h9
  repeat' with_reducible
    (first | assumption | apply immediate_keeps | apply reply_keeps | intro _)

theorem sweepLine_keeps {P : Nat → Prop} {s0 : State} {jsid line jaddr o i : Nat} {s : State} (h0 : Keeps P s0 s)
    : Keeps P s0 (sweepLine jsid line jaddr o i s) := by
  unfold sweepLine; try dsimp only
  repeat' with_reducible
    (first | assumption | apply accessLine_keeps | refine accessLine_keeps_eq (by assumption) ?_ | apply poisonLine_keeps
           | apply mirrorPush_keeps | apply stampLine_keeps | (split)
           | (refine Keeps.mk ?_ ?_ ?_ <;> (try dsimp only) <;> first | apply Keeps.pend | apply Keeps.bic (P := P) | apply Keeps.bound (P := P)) | intro _)

theorem execSweepLineVisit_keeps {P : Nat → Prop} {s0 u9 : State} {jsid : Fin 16} {s : State}  (h9 : execSweepLineVisit jsid s = .next u9) (h0
    : Keeps P s0 s) : Keeps P s0 u9 := by
  unfold execSweepLineVisit at h9; try dsimp only at h9
  cases h9
  repeat' with_reducible
    (first | assumption | apply sweepLine_keeps | apply setProgress_keeps | apply setBinding_keeps | (split)
           | (refine Keeps.mk ?_ ?_ ?_ <;> (try dsimp only) <;> first | apply Keeps.pend | apply Keeps.bic (P := P) | apply Keeps.bound (P := P)) | intro _)

theorem execRotateDone_keeps {P : Nat → Prop} {s0 u9 : State} {jsid : Fin 16} {s : State}  (h9 : execRotateDone jsid s = .next u9) (h0 : Keeps P s0 s)
    : Keeps P s0 u9 := by
  unfold execRotateDone at h9; try dsimp only at h9
  cases h9
  repeat' with_reducible
    (first | assumption | apply finishRotation_keeps | (split)
           | (refine Keeps.mk ?_ ?_ ?_ <;> (try dsimp only) <;> first | apply Keeps.pend | apply Keeps.bic (P := P) | apply Keeps.bound (P := P)) | intro _)

end Sys2Proof.Machine
end

