-- ==== Sys2Proof/Laws/KeepsXfer.lean ====
section
/-!
SUPPORT. KeepsXfer.lean: every operation and meaning of Machine/Xfer.lean keeps the queue, the BIC and the bounds of
State.Bounded, and, where it stores nothing, every byte of DRAM; one lemma each, stated from any earlier state s0 so that lemmas chain.
-/
namespace Sys2Proof.Machine

theorem setLists_keeps {P : Nat → Prop} {s0 : State} {s : State} {eng : Nat} {l : List DmaList} (h0 : Keeps P s0 s) : Keeps P s0 (State.setLists s eng l) := by
  unfold State.setLists; try dsimp only
  repeat' with_reducible
    (first | assumption | (refine Keeps.mk ?_ ?_ ?_ <;> (try dsimp only) <;> first | apply Keeps.pend | apply Keeps.bic (P := P) | apply Keeps.bound (P := P)))

theorem enqueue_keeps {P : Nat → Prop} {s0 : State} {eng : Nat} {kind : DmaKind} {ctx : Option CmdCtx} {jsid : Nat} {utag : U32} {elems : List DmaElem}
    {s : State} (h0 : Keeps P s0 s) : Keeps P s0 (enqueue eng kind ctx jsid utag elems s) := by
  unfold enqueue; try dsimp only
  repeat' with_reducible
    (first | assumption | apply setLists_keeps
           | (refine Keeps.mk ?_ ?_ ?_ <;> (try dsimp only) <;> first | apply Keeps.pend | apply Keeps.bic (P := P) | apply Keeps.bound (P := P)))

theorem setHead_keeps {P : Nat → Prop} {s0 : State} {eng : Nat} {l : DmaList} {s : State} (h0 : Keeps P s0 s) : Keeps P s0 (setHead eng l s) := by
  unfold setHead; try dsimp only
  repeat' with_reducible
    (first | assumption | apply setLists_keeps)

theorem dropHead_keeps {P : Nat → Prop} {s0 : State} {eng : Nat} {s : State} (h0 : Keeps P s0 s) : Keeps P s0 (dropHead eng s) := by
  unfold dropHead; try dsimp only
  repeat' with_reducible
    (first | assumption | apply setLists_keeps)

theorem dropKind_keeps {P : Nat → Prop} {s0 : State} {kind : DmaKind} {s : State} (h0 : Keeps P s0 s) : Keeps P s0 (dropKind kind s) := by
  unfold dropKind; try dsimp only
  repeat' with_reducible
    (first | assumption | apply setLists_keeps | (apply foldl_keeps <;> (try intro _ _ _)) | intro _)

theorem dropCtx_keeps {P : Nat → Prop} {s0 : State} {c : CmdCtx} {s : State} (h0 : Keeps P s0 s) : Keeps P s0 (dropCtx c s) := by
  unfold dropCtx; try dsimp only
  repeat' with_reducible
    (first | assumption | apply setLists_keeps | (apply foldl_keeps <;> (try intro _ _ _)) | intro _)

theorem sourceLine_keeps {P : Nat → Prop} {s0 : State} {w : Access} {dir src off k : Nat} {host : List Byte} {s : State} (h0 : Keeps P s0 s)
    : Keeps P s0 (sourceLine w dir src off k host s).2.2 := by
  unfold sourceLine; try dsimp only
  repeat' with_reducible
    (first | assumption | apply readJob_keeps | refine readJob_keeps_eq (by assumption) ?_ | (split)
           | (refine Keeps.mk ?_ ?_ ?_ <;> (try dsimp only) <;> first | apply Keeps.pend | apply Keeps.bic (P := P) | apply Keeps.bound (P := P)) | intro _)

theorem sourceLine_keeps_eq {P : Nat → Prop} {s0 u9 : State} {w : Access} {dir src off k : Nat} {host : List Byte} {s : State}  {r0 r1}
    (h9 : sourceLine w dir src off k host s = (r0, r1, u9)) (h0 : Keeps P s0 s) : Keeps P s0 u9 := by
  have h : Keeps P s0 (sourceLine w dir src off k host s).2.2 := sourceLine_keeps  h0
  rw [h9] at h; exact h

theorem destLine_keeps {s0 : State} {w : Access} {dir dst off : Nat} {b : List Byte} {s : State} (h0 : Keeps noByte s0 s)
    : Keeps noByte s0 (destLine w dir dst off b s).2 := by
  unfold destLine; try dsimp only
  repeat' with_reducible
    (first | assumption | apply emit_keeps | apply writeJob_keeps | refine writeJob_keeps_eq (by assumption) ?_ | (split)
           | (refine Keeps.mk ?_ ?_ ?_ <;> (try dsimp only) <;> first | apply Keeps.queue | apply Keeps.bic (P := noByte) | apply Keeps.bound (P := noByte)) | intro _)

theorem destLine_keeps_eq {s0 u9 : State} {w : Access} {dir dst off : Nat} {b : List Byte} {s : State}  {r0}
    (h9 : destLine w dir dst off b s = (r0, u9)) (h0 : Keeps noByte s0 s) : Keeps noByte s0 u9 := by
  have h : Keeps noByte s0 (destLine w dir dst off b s).2 := destLine_keeps  h0
  rw [h9] at h; exact h

theorem moveLines_keeps {s0 : State} {w : Access} {dir src dst len : Nat} {host : List Byte} {fuel off : Nat} {s : State} (h0 : Keeps noByte s0 s) :
    Keeps noByte s0 (moveLines w dir src dst len host fuel off s).2 := by
  induction fuel generalizing off s with
  | zero => exact h0
  | succ f ih =>
    unfold moveLines; dsimp only
    split
    · exact h0
    · split
      · exact sourceLine_keeps_eq ‹_› h0
      · rename_i hs
        have h1 := sourceLine_keeps_eq hs h0
        split
        · exact destLine_keeps_eq ‹_› h1
        · exact ih (destLine_keeps_eq ‹_› h1)

theorem moveElem_keeps {s0 : State} {w : Access} {e : DmaElem} {host : List Byte} {s : State} (h0 : Keeps noByte s0 s)
    : Keeps noByte s0 (moveElem w e host s).2 :=
  moveLines_keeps h0

theorem moveElem_keeps_eq {s0 u9 : State} {w : Access} {e : DmaElem} {host : List Byte} {s : State}  {r0}
    (h9 : moveElem w e host s = (r0, u9)) (h0 : Keeps noByte s0 s) : Keeps noByte s0 u9 := by
  have h : Keeps noByte s0 (moveElem w e host s).2 := moveElem_keeps  h0
  rw [h9] at h; exact h

theorem finishElement_keeps {P : Nat → Prop} {s0 : State} {eng : Nat} {l : DmaList} {s : State} (h0 : Keeps P s0 s) : Keeps P s0 (finishElement eng l s) := by
  unfold finishElement; try dsimp only
  repeat' with_reducible
    (first | assumption | apply setHead_keeps | apply completeOpt_keeps | apply dropHead_keeps | (split)
           | (refine Keeps.mk ?_ ?_ ?_ <;> (try dsimp only) <;> first | apply Keeps.pend | apply Keeps.bic (P := P) | apply Keeps.bound (P := P)))

theorem lineVisible_keeps {P : Nat → Prop} {s0 : State} {line : Nat} {s : State} (h0 : Keeps P s0 s) : Keeps P s0 (lineVisible line s) := by
  unfold lineVisible; try dsimp only
  repeat' with_reducible
    (first | assumption | apply finishElement_keeps | apply setHead_keeps | (apply foldl_keeps <;> (try intro _ _ _)) | (split)
           | (refine Keeps.mk ?_ ?_ ?_ <;> (try dsimp only) <;> first | apply Keeps.pend | apply Keeps.bic (P := P) | apply Keeps.bound (P := P)) | intro _)

theorem recordFault_keeps {P : Nat → Prop} {s0 : State} {eng : Nat} {l : DmaList} {elem : Nat} {x : ElemFault} {s : State} (h0 : Keeps P s0 s)
    : Keeps P s0 (recordFault eng l elem x s) := by
  unfold recordFault; try dsimp only
  repeat' with_reducible
    (first | assumption | apply postFault_keeps)

theorem suspendList_keeps {P : Nat → Prop} {s0 : State} {eng : Nat} {l : DmaList} {elem : Nat} {x : ElemFault} {s : State} (h0 : Keeps P s0 s)
    : Keeps P s0 (suspendList eng l elem x s) := by
  unfold suspendList; try dsimp only
  repeat' with_reducible
    (first | assumption | apply recordFault_keeps | apply setHead_keeps
           | (refine Keeps.mk ?_ ?_ ?_ <;> (try dsimp only) <;> first | apply Keeps.pend | apply Keeps.bic (P := P) | apply Keeps.bound (P := P)))

theorem clearEngine_keeps {P : Nat → Prop} {s0 : State} {eng : Nat} {s : State} (h0 : Keeps P s0 s) : Keeps P s0 (clearEngine eng s) := by
  unfold clearEngine; try dsimp only
  repeat' with_reducible
    (first | assumption | apply freeFaults_keeps | intro _)

end Sys2Proof.Machine
end

