-- ==== Sys2Proof/Laws/KeepsPorts.lean ====
section
/-!
SUPPORT. KeepsPorts.lean: every operation and meaning of Machine/Ports.lean keeps the queue, the BIC and the bounds of
State.Bounded, and, where it stores nothing, every byte of DRAM; one lemma each, stated from any earlier state s0 so that lemmas chain.
-/
namespace Sys2Proof.Machine

theorem pushCommit_keeps {P : Nat → Prop} {s0 : State} {p jsid : Nat} {q : Request} {d : BitVec 72} {s : State} (h0 : Keeps P s0 s)
    : Keeps P s0 (pushCommit p jsid q d s) := by
  unfold pushCommit; try dsimp only
  repeat' with_reducible
    (first | assumption | (split)
           | (refine Keeps.mk ?_ ?_ ?_ <;> (try dsimp only) <;> first | apply Keeps.pend | apply Keeps.bic (P := P) | apply Keeps.bound (P := P)))

theorem portFault_keeps {P : Nat → Prop} {s0 : State} {p : Nat} {q : Request} {jaddr cause level : Nat} {wr : Bool} {s : State} (h0 : Keeps P s0 s)
    : Keeps P s0 (portFault p q jaddr cause level wr s) := by
  unfold portFault; try dsimp only
  repeat' with_reducible
    (first | assumption | apply postFault_keeps | apply setPart_keeps | apply raiseHold_keeps | (split)
           | (refine Keeps.mk ?_ ?_ ?_ <;> (try dsimp only) <;> first | apply Keeps.pend | apply Keeps.bic (P := P) | apply Keeps.bound (P := P)) | intro _)

theorem addRequest_keeps {P : Nat → Prop} {s0 : State} {p : Nat} {q : Request} {s : State} (h0 : Keeps P s0 s) : Keeps P s0 (addRequest p q s) := by
  unfold addRequest; try dsimp only
  repeat' with_reducible
    (first | assumption | apply setPart_keeps
           | (refine Keeps.mk ?_ ?_ ?_ <;> (try dsimp only) <;> first | apply Keeps.pend | apply Keeps.bic (P := P) | apply Keeps.bound (P := P)) | intro _)

theorem chanMiss_keeps {P : Nat → Prop} {s0 : State} {p pcl lcl port : Nat} {s : State} (h0 : Keeps P s0 s) : Keeps P s0 (chanMiss p pcl lcl port s) := by
  unfold chanMiss; try dsimp only
  repeat' with_reducible
    (first | assumption | apply bump_keeps | apply logRec_keeps | apply setPart_keeps | (split)
           | (refine Keeps.mk ?_ ?_ ?_ <;> (try dsimp only) <;> first | apply Keeps.pend | apply Keeps.bic (P := P) | apply Keeps.bound (P := P)) | intro _)

theorem performRequest_keeps {P : Nat → Prop} {s0 : State} {p lcl pcl port r : Nat} {d : Desc} {op : BitVec 2} {addr : Nat} {data : BitVec 72} {s : State}
 (h0 : Keeps P s0 s) : Keeps P s0 (performRequest p lcl pcl port r d op addr data s) := by
  unfold performRequest; try dsimp only
  repeat' with_reducible
    (first | assumption | apply chanMiss_keeps | apply addRequest_keeps | apply walkRead_keeps | apply portFault_keeps | apply pushCommit_keeps
           | (split) | (refine Keeps.mk ?_ ?_ ?_ <;> (try dsimp only) <;> first | apply Keeps.pend | apply Keeps.bic (P := P) | apply Keeps.bound (P := P))
           | intro _)

theorem rowParity_keeps {P : Nat → Prop} {s0 : State} {p pcl grp : Nat} {fs : Bool} {row : Nat} {s : State} (h0 : Keeps P s0 s)
    : Keeps P s0 (rowParity p pcl grp fs row s) := by
  unfold rowParity; try dsimp only
  repeat' with_reducible
    (first | assumption | apply checkRow_keeps)

theorem issueDesc_keeps {P : Nat → Prop} {s0 : State} {p lcl pcl port r : Nat} {d : Desc} {s : State} (h0 : Keeps P s0 s)
    : Keeps P s0 (issueDesc p lcl pcl port r d s) := by
  unfold issueDesc; try dsimp only
  repeat' with_reducible
    (first | assumption | apply rowParity_keeps | apply setPart_keeps | apply performRequest_keeps | (split)
           | (refine Keeps.mk ?_ ?_ ?_ <;> (try dsimp only) <;> first | apply Keeps.pend | apply Keeps.bic (P := P) | apply Keeps.bound (P := P)) | intro _)

theorem issueRequests_keeps {P : Nat → Prop} {s0 : State} {p t : Nat} {s : State} (h0 : Keeps P s0 s) : Keeps P s0 (issueRequests p t s) := by
  unfold issueRequests; try dsimp only
  repeat' with_reducible
    (first | assumption | apply issueDesc_keeps | (apply foldl_keeps <;> (try intro _ _ _))
           | (apply foldl_keeps2 <;> (try intro _ _ _) <;> (try dsimp only)) | (apply foldl_keeps3 <;> (try intro _ _ _) <;> (try dsimp only))
           | (split) | intro _)

theorem requestWord_keeps {P : Nat → Prop} {s0 : State} {p : Nat} {q : Request} {s : State} (h0 : Keeps P s0 s) : Keeps P s0 (requestWord p q s).2 := by
  unfold requestWord; try dsimp only
  repeat' with_reducible
    (first | assumption | apply readBytes_keeps | refine readBytes_keeps_eq (by assumption) ?_ | (split)
           | (refine Keeps.mk ?_ ?_ ?_ <;> (try dsimp only) <;> first | apply Keeps.pend | apply Keeps.bic (P := P) | apply Keeps.bound (P := P)) | intro _)

theorem requestWord_keeps_eq {P : Nat → Prop} {s0 u9 : State} {p : Nat} {q : Request} {s : State}  {r0} (h9 : requestWord p q s = (r0, u9)) (h0
    : Keeps P s0 s) : Keeps P s0 u9 := by
  have h : Keeps P s0 (requestWord p q s).2 := requestWord_keeps  h0
  rw [h9] at h; exact h

theorem answerRequest_keeps {P : Nat → Prop} {s0 : State} {p : Nat} {q : Request} {s : State} (h0 : Keeps P s0 s) : Keeps P s0 (answerRequest p q s) := by
  unfold answerRequest; try dsimp only
  repeat' with_reducible
    (first | assumption | apply requestWord_keeps | refine requestWord_keeps_eq (by assumption) ?_ | apply pushCommit_keeps | apply setPart_keeps
           | (split) | (refine Keeps.mk ?_ ?_ ?_ <;> (try dsimp only) <;> first | apply Keeps.pend | apply Keeps.bic (P := P) | apply Keeps.bound (P := P))
           | intro _)

theorem answerLine_keeps {P : Nat → Prop} {s0 : State} {p line : Nat} {s : State} (h0 : Keeps P s0 s) : Keeps P s0 (answerLine p line s) := by
  unfold answerLine; try dsimp only
  repeat' with_reducible
    (first | assumption | apply answerRequest_keeps | (apply foldl_keeps <;> (try intro _ _ _)) | intro _)

theorem staleDrop_keeps {P : Nat → Prop} {s0 : State} {p pcl : Nat} {q : Request} {s : State} (h0 : Keeps P s0 s) : Keeps P s0 (staleDrop p pcl q s) := by
  unfold staleDrop; try dsimp only
  repeat' with_reducible
    (first | assumption | apply logRec_keeps | apply bump_keeps)

theorem takeResponse_keeps {P : Nat → Prop} {s0 : State} {p pcl : Nat} {q : Request} {s : State} (h0 : Keeps P s0 s) : Keeps P s0 (takeResponse p pcl q s) := by
  unfold takeResponse; try dsimp only
  repeat' with_reducible
    (first | assumption | apply setPart_keeps | apply staleDrop_keeps | (split)
           | (refine Keeps.mk ?_ ?_ ?_ <;> (try dsimp only) <;> first | apply Keeps.pend | apply Keeps.bic (P := P) | apply Keeps.bound (P := P)) | intro _)

theorem execMemoryResponse_keeps {P : Nat → Prop} {s0 u9 : State} {pcl : Fin 96} {port : Fin 4} {r : Fin 16} {s : State}
    (h9 : execMemoryResponse pcl port r s = .next u9) (h0 : Keeps P s0 s) : Keeps P s0 u9 := by
  unfold execMemoryResponse at h9; try dsimp only at h9
  cases h9
  repeat' with_reducible
    (first | assumption | apply answerLine_keeps | apply takeResponse_keeps | (split)
           | (refine Keeps.mk ?_ ?_ ?_ <;> (try dsimp only) <;> first | apply Keeps.pend | apply Keeps.bic (P := P) | apply Keeps.bound (P := P)) | intro _)

theorem execDramReadComplete_keeps {P : Nat → Prop} {s0 u9 : State} {line : Nat} {requester : Byte} {s : State}
    (h9 : execDramReadComplete line requester s = .next u9) (h0 : Keeps P s0 s) : Keeps P s0 u9 := by
  unfold execDramReadComplete at h9
  split at h9
  · injection h9 with h; exact h ▸ h0
  · split at h9
    · cases h9
    · split at h9
      · injection h9 with h
        exact h ▸ eachPart_keeps (fun _ _ k => answerLine_keeps k) h0
      · injection h9 with h
        exact h ▸ eccLost_keeps (eccRead_keeps h0)

end Sys2Proof.Machine
end

