-- ==== Sys2Proof/Laws/KeepsDdr.lean ====
section
/-!
SUPPORT. KeepsDdr.lean: every operation and meaning of Machine/Ddr.lean keeps the queue, the BIC and the bounds of
State.Bounded, and, where it stores nothing, every byte of DRAM; one lemma each, stated from any earlier state s0 so that lemmas chain.
-/
namespace Sys2Proof.Machine

theorem endCast_keeps {P : Nat → Prop} {s0 : State} {p : Nat} {s : State} (h0 : Keeps P s0 s) : Keeps P s0 (endCast p s) := by
  unfold endCast; try dsimp only
  repeat' with_reducible
    (first | assumption | apply finishAct_keeps | (split))

theorem discardRows_keeps {P : Nat → Prop} {s0 : State} {cls : List Nat} {s : State} (h0 : Keeps P s0 s) : Keeps P s0 (discardRows cls s) := by
  unfold discardRows; try dsimp only
  repeat' with_reducible
    (first | assumption | (refine Keeps.mk ?_ ?_ ?_ <;> (try dsimp only) <;> first | apply Keeps.pend | apply Keeps.bic (P := P) | apply Keeps.bound (P := P))
           | intro _)

theorem quietDies_keeps {P : Nat → Prop} {s0 : State} {p : Nat} {s : State} (h0 : Keeps P s0 s) : Keeps P s0 (quietDies p s) := by
  unfold quietDies; try dsimp only
  repeat' with_reducible
    (first | assumption | apply setLane_keeps | (apply foldl_keeps <;> (try intro _ _ _))
           | (apply foldl_keeps2 <;> (try intro _ _ _) <;> (try dsimp only)) | (apply foldl_keeps3 <;> (try intro _ _ _) <;> (try dsimp only))
           | (split) | (refine Keeps.mk ?_ ?_ ?_ <;> (try dsimp only) <;> first | apply Keeps.pend | apply Keeps.bic (P := P) | apply Keeps.bound (P := P))
           | intro _)

theorem emptyPart_keeps {P : Nat → Prop} {s0 : State} {p : Nat} {s : State} (h0 : Keeps P s0 s) : Keeps P s0 (emptyPart p s) := by
  unfold emptyPart; try dsimp only
  repeat' with_reducible
    (first | assumption | apply quietDies_keeps | apply discardRows_keeps | apply loseCast_keeps | apply completeOpt_keeps | apply setPart_keeps
           | (split) | (refine Keeps.mk ?_ ?_ ?_ <;> (try dsimp only) <;> first | apply Keeps.pend | apply Keeps.bic (P := P) | apply Keeps.bound (P := P))
           | intro _)

theorem finishUnload_keeps {P : Nat → Prop} {s0 : State} {p : Nat} {s : State} (h0 : Keeps P s0 s) : Keeps P s0 (finishUnload p s) := by
  unfold finishUnload; try dsimp only
  repeat' with_reducible
    (first | assumption | apply emptyPart_keeps | (split))

theorem updMerge_keeps {P : Nat → Prop} {s0 : State} {line : Nat} {f : MergeLine → MergeLine} {s : State} (h0 : Keeps P s0 s)
    : Keeps P s0 (updMerge line f s) := by
  unfold updMerge; try dsimp only
  repeat' with_reducible
    (first | assumption | (split)
           | (refine Keeps.mk ?_ ?_ ?_ <;> (try dsimp only) <;> first | apply Keeps.pend | apply Keeps.bic (P := P) | apply Keeps.bound (P := P)) | intro _)

theorem leaveMerge_keeps {P : Nat → Prop} {s0 : State} {line : Nat} {s : State} (h0 : Keeps P s0 s) : Keeps P s0 (leaveMerge line s) := by
  unfold leaveMerge; try dsimp only
  repeat' with_reducible
    (first | assumption | apply eachPart_keeps | apply finishUnload_keeps | apply finishWaits_keeps | apply fillMerge_keeps
           | apply lineVisible_keeps
           | (refine Keeps.mk ?_ ?_ ?_ <;> (try dsimp only) <;> first | apply Keeps.pend | apply Keeps.bic (P := P) | apply Keeps.bound (P := P)) | intro _)

theorem execMergeFetchComplete_keeps {P : Nat → Prop} {s0 u9 : State} {line : Nat} {s : State} (h9 : execMergeFetchComplete line s = .next u9)
    (h0 : Keeps P s0 s) : Keeps P s0 u9 := by
  unfold execMergeFetchComplete at h9
  split at h9
  · injection h9 with h; exact h ▸ h0
  · split at h9
    · cases h9
    · injection h9 with h
      rw [← h]
      split
      · exact h0
      · split <;> rename_i hq
        · exact updMerge_keeps (accessLine_keeps_eq hq h0)
        · exact leaveMerge_keeps (logRec_keeps (accessLine_keeps_eq hq h0))
        · exact updMerge_keeps (accessLine_keeps_eq hq h0)

theorem mirrorWords_keeps {P : Nat → Prop} {s0 : State} {jsid line : Nat} {l : List (Nat × Byte)} {n : Nat} {s : State} (h0 : Keeps P s0 s) :
    Keeps P s0 (mirrorWords jsid line l n s) := by
  induction n generalizing l s with
  | zero => exact h0
  | succ n ih =>
    unfold mirrorWords
    split
    · exact h0
    · exact ih (mirrorPush_keeps h0)

theorem execCommitComplete_keeps {s0 u9 : State} {s : State}  (h9 : execCommitComplete s = .next u9) (h0 : Keeps noByte s0 s) : Keeps noByte s0 u9 := by
  unfold execCommitComplete at h9; try dsimp only at h9
  cases h9
  repeat' with_reducible
    (first | assumption | apply storeLine_keeps | apply leaveMerge_keeps | apply poisonLine_keeps | apply mirrorPush_keeps
           | apply mirrorWords_keeps | (split)
           | (refine Keeps.mk ?_ ?_ ?_ <;> (try dsimp only) <;> first | apply Keeps.queue | apply Keeps.bic (P := noByte) | apply Keeps.bound (P := noByte)) | intro _)

theorem execRankMigrateLine_keeps {P : Nat → Prop} {s0 u9 : State} {channel : Fin 8} {s : State}  (h9 : execRankMigrateLine channel s = .next u9) (h0
    : Keeps P s0 s) : Keeps P s0 u9 := by
  unfold execRankMigrateLine at h9; try dsimp only at h9
  cases h9
  repeat' with_reducible
    (first | assumption | apply touchRank_keeps | apply eccRead_keeps | apply setMeta_keeps | apply setProgress_keeps | (split)
           | (refine Keeps.mk ?_ ?_ ?_ <;> (try dsimp only) <;> first | apply Keeps.pend | apply Keeps.bic (P := P) | apply Keeps.bound (P := P)) | intro _)

theorem execRankMigrateComplete_keeps {P : Nat → Prop} {s0 u9 : State} {channel : Fin 8} {s : State}  (h9 : execRankMigrateComplete channel s = .next u9)
 (h0 : Keeps P s0 s) : Keeps P s0 u9 := by
  unfold execRankMigrateComplete at h9; try dsimp only at h9
  cases h9
  repeat' with_reducible
    (first | assumption | apply endAct_keeps | apply retireRank_keeps | (apply foldl_keeps <;> (try intro _ _ _)) | (split)
           | (refine Keeps.mk ?_ ?_ ?_ <;> (try dsimp only) <;> first | apply Keeps.pend | apply Keeps.bic (P := P) | apply Keeps.bound (P := P)) | intro _)

theorem execRefreshInterval_keeps {P : Nat → Prop} {s0 u9 : State} {channel : Fin 8} {rank : Fin 4} {bank : Fin 32} {bankBusy : Bool} {s : State}
    (h9 : execRefreshInterval channel rank bank bankBusy s = .next u9) (h0 : Keeps P s0 s) : Keeps P s0 u9 := by
  unfold execRefreshInterval at h9; try dsimp only at h9
  cases h9
  repeat' with_reducible
    (first | assumption | apply emit_keeps | (split)
           | (refine Keeps.mk ?_ ?_ ?_ <;> (try dsimp only) <;> first | apply Keeps.pend | apply Keeps.bic (P := P) | apply Keeps.bound (P := P)))

theorem execDimmTempRead_keeps {P : Nat → Prop} {s0 u9 : State} {channel : Fin 8} {dimm : Fin 2} {celsius : Nat} {s : State}
    (h9 : execDimmTempRead channel dimm celsius s = .next u9) (h0 : Keeps P s0 s) : Keeps P s0 u9 := by
  unfold execDimmTempRead at h9; try dsimp only at h9
  cases h9
  repeat' with_reducible
    (first | assumption | (split)
           | (refine Keeps.mk ?_ ?_ ?_ <;> (try dsimp only) <;> first | apply Keeps.pend | apply Keeps.bic (P := P) | apply Keeps.bound (P := P)))

theorem patrolRead_keeps {P : Nat → Prop} {s0 : State} {line : Nat} {s : State} (h0 : Keeps P s0 s) : Keeps P s0 (patrolRead line s) := by
  unfold patrolRead; try dsimp only
  repeat' with_reducible
    (first | assumption | apply eccLost_keeps | apply eccRead_keeps)

theorem patrolEnd_keeps {P : Nat → Prop} {s0 : State} {ch : Nat} {s : State} (h0 : Keeps P s0 s) : Keeps P s0 (patrolEnd ch s) := by
  unfold patrolEnd; try dsimp only
  repeat' with_reducible
    (first | assumption | apply endAct_keeps | apply completeOpt_keeps | (split)
           | (refine Keeps.mk ?_ ?_ ?_ <;> (try dsimp only) <;> first | apply Keeps.pend | apply Keeps.bic (P := P) | apply Keeps.bound (P := P)) | intro _)

theorem execDramPatrolLine_keeps {P : Nat → Prop} {s0 u9 : State} {channel : Fin 8} {s : State}  (h9 : execDramPatrolLine channel s = .next u9) (h0
    : Keeps P s0 s) : Keeps P s0 u9 := by
  unfold execDramPatrolLine at h9; try dsimp only at h9
  cases h9
  repeat' with_reducible
    (first | assumption | apply patrolRead_keeps | apply patrolEnd_keeps | apply setProgress_keeps | (split)
           | (refine Keeps.mk ?_ ?_ ?_ <;> (try dsimp only) <;> first | apply Keeps.pend | apply Keeps.bic (P := P) | apply Keeps.bound (P := P)))

end Sys2Proof.Machine
end

