-- ==== Sys2Proof/Laws/KeepsHard.lean ====
section
/-!
SUPPORT. KeepsHard.lean: every operation and meaning of Machine/Hard.lean keeps the queue, the BIC and the bounds of
State.Bounded, and, where it stores nothing, every byte of DRAM; one lemma each, stated from any earlier state s0 so that lemmas chain.
-/
namespace Sys2Proof.Machine

theorem setSlice_keeps {P : Nat → Prop} {s0 : State} {s : State} {n : Nat} {x : Slice} (h0 : Keeps P s0 s) : Keeps P s0 (State.setSlice s n x) := by
  unfold State.setSlice; try dsimp only
  repeat' with_reducible
    (first | assumption | (refine Keeps.mk ?_ ?_ ?_ <;> (try dsimp only) <;> first | apply Keeps.pend | apply Keeps.bic (P := P) | apply Keeps.bound (P := P)))

theorem hardEvent_keeps {P : Nat → Prop} {s0 : State} {p cause loc detail unit : Nat} {s : State} (h0 : Keeps P s0 s) : Keeps P s0
    (hardEvent p cause loc detail unit s) := by
  unfold hardEvent; try dsimp only
  repeat' with_reducible
    (first | assumption | apply selfPause_keeps | apply noteHard_keeps | apply logEvent_keeps)

theorem hardFix_keeps {P : Nat → Prop} {s0 : State} {p loc detail unit : Nat} {s : State} (h0 : Keeps P s0 s) : Keeps P s0 (hardFix p loc detail unit s) := by
  unfold hardFix; try dsimp only
  repeat' with_reducible
    (first | assumption | apply logRec_keeps | apply bump_keeps)

theorem writeBack_keeps {P : Nat → Prop} {s0 : State} {buffer : Bool} {key : Nat} {s : State} (h0 : Keeps P s0 s) : Keeps P s0 (writeBack buffer key s) := by
  unfold writeBack; try dsimp only
  repeat' with_reducible
    (first | assumption | (refine Keeps.mk ?_ ?_ ?_ <;> (try dsimp only) <;> first | apply Keeps.pend | apply Keeps.bic (P := P) | apply Keeps.bound (P := P)))

theorem applyFixes_keeps {P : Nat → Prop} {s0 : State} {s : State} (h0 : Keeps P s0 s) : Keeps P s0 (applyFixes s) := by
  unfold applyFixes; try dsimp only
  repeat' with_reducible
    (first | assumption | (apply foldl_keeps <;> (try intro _ _ _)) | (apply foldl_keeps2 <;> (try intro _ _ _) <;> (try dsimp only))
           | (apply foldl_keeps3 <;> (try intro _ _ _) <;> (try dsimp only)) | (split)
           | (refine Keeps.mk ?_ ?_ ?_ <;> (try dsimp only) <;> first | apply Keeps.pend | apply Keeps.bic (P := P) | apply Keeps.bound (P := P)) | intro _)

theorem bufferCheck_keeps {P : Nat → Prop} {s0 : State} {p n : Nat} {addr : Nat} {s : State} (h0 : Keeps P s0 s) : Keeps P s0 (bufferCheck p n addr s) := by
  unfold bufferCheck; try dsimp only
  repeat' with_reducible
    (first | assumption | apply hardFix_keeps | apply noteCorrect_keeps | apply writeBack_keeps | apply hardEvent_keeps | (split))

theorem fetchUop_keeps {P : Nat → Prop} {s0 : State} {p n j : Nat} {s : State} (h0 : Keeps P s0 s) : Keeps P s0 (fetchUop p n j s).2 := by
  unfold fetchUop; try dsimp only
  repeat' with_reducible
    (first | assumption | apply hardEvent_keeps | apply hardFix_keeps | apply noteCorrect_keeps | (split))

theorem fetchUop_keeps_eq {P : Nat → Prop} {s0 u9 : State} {p n j : Nat} {s : State}  {r0} (h9 : fetchUop p n j s = (r0, u9)) (h0 : Keeps P s0 s)
    : Keeps P s0 u9 := by
  have h : Keeps P s0 (fetchUop p n j s).2 := fetchUop_keeps  h0
  rw [h9] at h; exact h

theorem issueWord_keeps {P : Nat → Prop} {s0 : State} {p n : Nat} {w : U64} {pins : IoPins} {s : State} (h0 : Keeps P s0 s)
    : Keeps P s0 (issueWord p n w pins s) := by
  unfold issueWord; try dsimp only
  repeat' with_reducible
    (first | assumption | apply bufferCheck_keeps | apply setSlice_keeps | (split)
           | (refine Keeps.mk ?_ ?_ ?_ <;> (try dsimp only) <;> first | apply Keeps.pend | apply Keeps.bic (P := P) | apply Keeps.bound (P := P)))

theorem issueSlices_keeps {P : Nat → Prop} {s0 : State} {p j : Nat} {s : State} (h0 : Keeps P s0 s) : Keeps P s0 (issueSlices p j s) := by
  unfold issueSlices; try dsimp only
  repeat' with_reducible
    (first | assumption | apply fetchUop_keeps | refine fetchUop_keeps_eq (by assumption) ?_ | apply draw_keeps
           | refine draw_keeps_eq (by assumption) ?_ | apply issueWord_keeps | (apply foldl_keeps <;> (try intro _ _ _)) | (split) | intro _)

theorem issueStatic_keeps {P : Nat → Prop} {s0 : State} {p n : Nat} {w : U64} {pins : IoPins} {s : State} (h0 : Keeps P s0 s)
    : Keeps P s0 (issueStatic p n w pins s) := by
  unfold issueStatic; try dsimp only
  repeat' with_reducible
    (first | assumption | apply issueWord_keeps | apply bump_keeps | apply setSlice_keeps | apply logRec_keeps | (split)
           | (refine Keeps.mk ?_ ?_ ?_ <;> (try dsimp only) <;> first | apply Keeps.pend | apply Keeps.bic (P := P) | apply Keeps.bound (P := P)))

theorem bmStore_keeps {P : Nat → Prop} {s0 : State} {b port : Nat} {i : PortIn} {s : State} (h0 : Keeps P s0 s) : Keeps P s0 (bmStore b port i s) := by
  unfold bmStore; try dsimp only
  repeat' with_reducible
    (first | assumption | apply bump_keeps | (split)
           | (refine Keeps.mk ?_ ?_ ?_ <;> (try dsimp only) <;> first | apply Keeps.pend | apply Keeps.bic (P := P) | apply Keeps.bound (P := P)) | intro _)

theorem bmCheck_keeps {P : Nat → Prop} {s0 : State} {p b r : Nat} {s : State} (h0 : Keeps P s0 s) : Keeps P s0 (bmCheck p b r s) := by
  unfold bmCheck; try dsimp only
  repeat' with_reducible
    (first | assumption | apply hardFix_keeps | apply noteCorrect_keeps | apply writeBack_keeps | apply hardEvent_keeps | (split))

theorem bmOut_keeps {P : Nat → Prop} {s0 : State} {b port : Nat} {v : BitVec 36} {s : State} (h0 : Keeps P s0 s) : Keeps P s0 (bmOut b port v s) := by
  unfold bmOut; try dsimp only
  repeat' with_reducible
    (first | assumption | (refine Keeps.mk ?_ ?_ ?_ <;> (try dsimp only) <;> first | apply Keeps.pend | apply Keeps.bic (P := P) | apply Keeps.bound (P := P)))

theorem bmAct_keeps {P : Nat → Prop} {s0 : State} {p b port : Nat} {i : PortIn} {s : State} (h0 : Keeps P s0 s) : Keeps P s0 (bmAct p b port i s) := by
  have h1 := bmOut_keeps (b := b) (port := port) (v := bmRead (s.bmRow b (i.lo / 72)) i) (bmCheck_keeps (p := p) (b := b) (r := i.lo / 72) h0)
  unfold bmAct; dsimp only
  exact ite_keeps (bmStore_keeps h1) h1

end Sys2Proof.Machine
end

