-- ==== Sys2Proof/Laws/KeepsFabric.lean ====
section
/-!
SUPPORT. KeepsFabric.lean: every operation and meaning of Machine/Fabric.lean keeps the queue, the BIC and the bounds of
State.Bounded, and, where it stores nothing, every byte of DRAM; one lemma each, stated from any earlier state s0 so that lemmas chain.
-/
namespace Sys2Proof.Machine

theorem ffEdge_keeps {P : Nat → Prop} {s0 : State} {pins : IoPins} {region cell : Nat} {s : State} (h0 : Keeps P s0 s)
    : Keeps P s0 (ffEdge pins region cell s) := by
  unfold ffEdge; try dsimp only
  repeat' with_reducible
    (first | assumption | (split)
           | (refine Keeps.mk ?_ ?_ ?_ <;> (try dsimp only) <;> first | apply Keeps.pend | apply Keeps.bic (P := P) | apply Keeps.bound (P := P)) | intro _)

theorem bmemEdges_keeps {P : Nat → Prop} {s0 : State} {p sel : Nat} {pins : IoPins} {region : Nat} {s : State} (h0 : Keeps P s0 s)
    : Keeps P s0 (bmemEdges p sel pins region s) := by
  unfold bmemEdges; try dsimp only
  repeat' with_reducible
    (first | assumption | apply bmAct_keeps | (apply foldl_keeps <;> (try intro _ _ _)) | (split) | intro _)

theorem writePorts_keeps {P : Nat → Prop} {s0 : State} {sel : Nat} {pins : IoPins} {region : Nat} {s : State} (h0 : Keeps P s0 s)
    : Keeps P s0 (writePorts sel pins region s) := by
  unfold writePorts; try dsimp only
  repeat' with_reducible
    (first | assumption | (apply foldl_keeps <;> (try intro _ _ _)) | (apply foldl_keeps2 <;> (try intro _ _ _) <;> (try dsimp only))
           | (apply foldl_keeps3 <;> (try intro _ _ _) <;> (try dsimp only)) | (split)
           | (refine Keeps.mk ?_ ?_ ?_ <;> (try dsimp only) <;> first | apply Keeps.pend | apply Keeps.bic (P := P) | apply Keeps.bound (P := P)) | intro _)

theorem staticEdges_keeps {P : Nat → Prop} {s0 : State} {p sel : Nat} {pins : IoPins} {region : Nat} {s : State} (h0 : Keeps P s0 s)
    : Keeps P s0 (staticEdges p sel pins region s) := by
  unfold staticEdges; try dsimp only
  repeat' with_reducible
    (first | assumption | apply issueStatic_keeps | (apply foldl_keeps <;> (try intro _ _ _)) | (split) | intro _)

theorem regionEdge_keeps {P : Nat → Prop} {s0 : State} {p sel : Nat} {pins : IoPins} {s : State} {region : Nat} (h0 : Keeps P s0 s)
    : Keeps P s0 (regionEdge p sel pins s region) := by
  unfold regionEdge; try dsimp only
  repeat' with_reducible
    (first | assumption | apply staticEdges_keeps | apply writePorts_keeps | apply bmemEdges_keeps | apply ffEdge_keeps | apply beginEdge_keeps
           | (apply foldl_keeps <;> (try intro _ _ _)) | (split) | intro _)

theorem execFabricClockEdge_keeps {P : Nat → Prop} {s0 u9 : State} {gen : Gen} {pins : IoPins} {s : State}
    (h9 : execFabricClockEdge gen pins s = .next u9) (h0 : Keeps P s0 s) : Keeps P s0 u9 := by
  unfold execFabricClockEdge at h9; try dsimp only at h9
  cases h9
  repeat' with_reducible
    (first | assumption | apply regionEdge_keeps | (apply foldl_keeps <;> (try intro _ _ _)) | (split)
           | (refine Keeps.mk ?_ ?_ ?_ <;> (try dsimp only) <;> first | apply Keeps.pend | apply Keeps.bic (P := P) | apply Keeps.bound (P := P)) | intro _)

theorem fabricLost_keeps {P : Nat → Prop} {s0 : State} {region frame : Nat} {s : State} (h0 : Keeps P s0 s) : Keeps P s0 (fabricLost region frame s) := by
  unfold fabricLost; try dsimp only
  repeat' with_reducible
    (first | assumption | apply noteLost_keeps | apply bump_keeps | apply logEvent_keeps | apply selfPause_keeps | (split)
           | (refine Keeps.mk ?_ ?_ ?_ <;> (try dsimp only) <;> first | apply Keeps.pend | apply Keeps.bic (P := P) | apply Keeps.bound (P := P)))

theorem execConfigMonitorRead_keeps {P : Nat → Prop} {s0 u9 : State} {region : Fin 24} {s : State}  (h9 : execConfigMonitorRead region s = .next u9) (h0
    : Keeps P s0 s) : Keeps P s0 u9 := by
  unfold execConfigMonitorRead at h9; try dsimp only at h9
  cases h9
  repeat' with_reducible
    (first | assumption | apply noteFix_keeps | apply logRec_keeps | apply bump_keeps | apply fabricLost_keeps | (split)
           | (refine Keeps.mk ?_ ?_ ?_ <;> (try dsimp only) <;> first | apply Keeps.pend | apply Keeps.bic (P := P) | apply Keeps.bound (P := P)))

end Sys2Proof.Machine
end

