-- ==== Sys2Proof/Laws/KeepsImage.lean ====
section
/-!
SUPPORT. KeepsImage.lean: every operation and meaning of Machine/Image.lean keeps the queue, the BIC and the bounds of
State.Bounded, and, where it stores nothing, every byte of DRAM; one lemma each, stated from any earlier state s0 so that lemmas chain.
-/
namespace Sys2Proof.Machine

theorem writeSeq_keeps {P : Nat → Prop} {s0 : State} {α : Type} {f : α → State → Written} {l : List α} {s : State}
    (h_f : ∀ a x, Keeps P s0 x → Keeps P s0 (f a x).2) (h0 : Keeps P s0 s) : Keeps P s0 (writeSeq f l s).2 := by
  induction l generalizing s with
  | nil => exact h0
  | cons a l ih =>
    have h1 := h_f a s h0
    unfold writeSeq
    split
    · rename_i h; rw [h] at h1; exact h1
    · rename_i h; rw [h] at h1; exact ih h1

theorem writeSeq_keeps_eq {P : Nat → Prop} {s0 u9 : State} {α : Type} {f : α → State → Written} {l : List α} {s : State} {r0}
    (h9 : writeSeq f l s = (r0, u9)) (h_f : ∀ a x, Keeps P s0 x → Keeps P s0 (f a x).2) (h0 : Keeps P s0 s) : Keeps P s0 u9 := by
  have h := writeSeq_keeps (l := l) h_f h0
  rw [h9] at h; exact h

theorem writeInstr_keeps {P : Nat → Prop} {s0 : State} {c : LoadCtx} {i l g k col : Nat} {v : Nat} {s : State} (h0 : Keeps P s0 s)
    : Keeps P s0 (writeInstr c i l g k col v s).2 := by
  unfold writeInstr; try dsimp only
  repeat' with_reducible
    (first | assumption | (split)
           | (refine Keeps.mk ?_ ?_ ?_ <;> (try dsimp only) <;> first | apply Keeps.pend | apply Keeps.bic (P := P) | apply Keeps.bound (P := P)) | intro _)

theorem writeInstr_keeps_eq {P : Nat → Prop} {s0 u9 : State} {c : LoadCtx} {i l g k col : Nat} {v : Nat} {s : State}  {r0}
    (h9 : writeInstr c i l g k col v s = (r0, u9)) (h0 : Keeps P s0 s) : Keeps P s0 u9 := by
  have h : Keeps P s0 (writeInstr c i l g k col v s).2 := writeInstr_keeps  h0
  rw [h9] at h; exact h

theorem writeRoute_keeps {P : Nat → Prop} {s0 : State} {c : LoadCtx} {i l t j v : Nat} {s : State} (h0 : Keeps P s0 s)
    : Keeps P s0 (writeRoute c i l t j v s).2 := by
  unfold writeRoute; try dsimp only
  repeat' with_reducible
    (first | assumption | (split)
           | (refine Keeps.mk ?_ ?_ ?_ <;> (try dsimp only) <;> first | apply Keeps.pend | apply Keeps.bic (P := P) | apply Keeps.bound (P := P)))

theorem writeRoute_keeps_eq {P : Nat → Prop} {s0 u9 : State} {c : LoadCtx} {i l t j v : Nat} {s : State}  {r0} (h9 : writeRoute c i l t j v s = (r0, u9))
 (h0 : Keeps P s0 s) : Keeps P s0 u9 := by
  have h : Keeps P s0 (writeRoute c i l t j v s).2 := writeRoute_keeps  h0
  rw [h9] at h; exact h

theorem writeDx_keeps {P : Nat → Prop} {s0 : State} {c : LoadCtx} {i l t j v : Nat} {s : State} (h0 : Keeps P s0 s) : Keeps P s0 (writeDx c i l t j v s).2 := by
  unfold writeDx; try dsimp only
  repeat' with_reducible
    (first | assumption | (split)
           | (refine Keeps.mk ?_ ?_ ?_ <;> (try dsimp only) <;> first | apply Keeps.pend | apply Keeps.bic (P := P) | apply Keeps.bound (P := P)))

theorem writeDx_keeps_eq {P : Nat → Prop} {s0 u9 : State} {c : LoadCtx} {i l t j v : Nat} {s : State}  {r0} (h9 : writeDx c i l t j v s = (r0, u9)) (h0
    : Keeps P s0 s) : Keeps P s0 u9 := by
  have h : Keeps P s0 (writeDx c i l t j v s).2 := writeDx_keeps  h0
  rw [h9] at h; exact h

theorem writeSx_keeps {P : Nat → Prop} {s0 : State} {c : LoadCtx} {i l t j v : Nat} {s : State} (h0 : Keeps P s0 s) : Keeps P s0 (writeSx c i l t j v s).2 := by
  unfold writeSx; try dsimp only
  repeat' with_reducible
    (first | assumption | (split)
           | (refine Keeps.mk ?_ ?_ ?_ <;> (try dsimp only) <;> first | apply Keeps.pend | apply Keeps.bic (P := P) | apply Keeps.bound (P := P)))

theorem writeSx_keeps_eq {P : Nat → Prop} {s0 u9 : State} {c : LoadCtx} {i l t j v : Nat} {s : State}  {r0} (h9 : writeSx c i l t j v s = (r0, u9)) (h0
    : Keeps P s0 s) : Keeps P s0 u9 := by
  have h : Keeps P s0 (writeSx c i l t j v s).2 := writeSx_keeps  h0
  rw [h9] at h; exact h

theorem writeInj_keeps {P : Nat → Prop} {s0 : State} {c : LoadCtx} {i port t j v : Nat} {s : State} (h0 : Keeps P s0 s)
    : Keeps P s0 (writeInj c i port t j v s).2 := by
  unfold writeInj; try dsimp only
  repeat' with_reducible
    (first | assumption | (split)
           | (refine Keeps.mk ?_ ?_ ?_ <;> (try dsimp only) <;> first | apply Keeps.pend | apply Keeps.bic (P := P) | apply Keeps.bound (P := P)))

theorem writeInj_keeps_eq {P : Nat → Prop} {s0 u9 : State} {c : LoadCtx} {i port t j v : Nat} {s : State}  {r0} (h9 : writeInj c i port t j v s = (r0, u9))
 (h0 : Keeps P s0 s) : Keeps P s0 u9 := by
  have h : Keeps P s0 (writeInj c i port t j v s).2 := writeInj_keeps  h0
  rw [h9] at h; exact h

theorem writeThr_keeps {P : Nat → Prop} {s0 : State} {c : LoadCtx} {i port j v : Nat} {s : State} (h0 : Keeps P s0 s)
    : Keeps P s0 (writeThr c i port j v s).2 := by
  unfold writeThr; try dsimp only
  repeat' with_reducible
    (first | assumption | (split)
           | (refine Keeps.mk ?_ ?_ ?_ <;> (try dsimp only) <;> first | apply Keeps.pend | apply Keeps.bic (P := P) | apply Keeps.bound (P := P)) | intro _)

theorem writeThr_keeps_eq {P : Nat → Prop} {s0 u9 : State} {c : LoadCtx} {i port j v : Nat} {s : State}  {r0} (h9 : writeThr c i port j v s = (r0, u9)) (h0
    : Keeps P s0 s) : Keeps P s0 u9 := by
  have h : Keeps P s0 (writeThr c i port j v s).2 := writeThr_keeps  h0
  rw [h9] at h; exact h

theorem writeEj_keeps {P : Nat → Prop} {s0 : State} {c : LoadCtx} {i l t j v : Nat} {s : State} (h0 : Keeps P s0 s) : Keeps P s0 (writeEj c i l t j v s).2 := by
  unfold writeEj; try dsimp only
  repeat' with_reducible
    (first | assumption | (split)
           | (refine Keeps.mk ?_ ?_ ?_ <;> (try dsimp only) <;> first | apply Keeps.pend | apply Keeps.bic (P := P) | apply Keeps.bound (P := P)))

theorem writeEj_keeps_eq {P : Nat → Prop} {s0 u9 : State} {c : LoadCtx} {i l t j v : Nat} {s : State}  {r0} (h9 : writeEj c i l t j v s = (r0, u9)) (h0
    : Keeps P s0 s) : Keeps P s0 u9 := by
  have h : Keeps P s0 (writeEj c i l t j v s).2 := writeEj_keeps  h0
  rw [h9] at h; exact h

theorem writeInit_keeps {P : Nat → Prop} {s0 : State} {c : LoadCtx} {i : Nat} {d : List Byte} {first r : Nat} {s : State} (h0 : Keeps P s0 s)
    : Keeps P s0 (writeInit c i d first r s).2 := by
  unfold writeInit; try dsimp only
  repeat' with_reducible
    (first | assumption | (split)
           | (refine Keeps.mk ?_ ?_ ?_ <;> (try dsimp only) <;> first | apply Keeps.pend | apply Keeps.bic (P := P) | apply Keeps.bound (P := P)))

theorem writeInit_keeps_eq {P : Nat → Prop} {s0 u9 : State} {c : LoadCtx} {i : Nat} {d : List Byte} {first r : Nat} {s : State}  {r0}
    (h9 : writeInit c i d first r s = (r0, u9)) (h0 : Keeps P s0 s) : Keeps P s0 u9 := by
  have h : Keeps P s0 (writeInit c i d first r s).2 := writeInit_keeps  h0
  rw [h9] at h; exact h

theorem storeFrame_keeps {P : Nat → Prop} {s0 : State} {region frame : Nat} {d : List Byte} {s : State} (h0 : Keeps P s0 s)
    : Keeps P s0 (storeFrame region frame d s) := by
  unfold storeFrame; try dsimp only
  repeat' with_reducible
    (first | assumption | (refine Keeps.mk ?_ ?_ ?_ <;> (try dsimp only) <;> first | apply Keeps.pend | apply Keeps.bic (P := P) | apply Keeps.bound (P := P))
           | intro _)

theorem writeFrame_keeps {P : Nat → Prop} {s0 : State} {c : LoadCtx} {i k frame : Nat} {d : List Byte} {s : State} (h0 : Keeps P s0 s)
    : Keeps P s0 (writeFrame c i k frame d s).2 := by
  unfold writeFrame; try dsimp only
  repeat' with_reducible
    (first | assumption | apply draw_keeps | refine draw_keeps_eq (by assumption) ?_ | apply storeFrame_keeps | (split)
           | (refine Keeps.mk ?_ ?_ ?_ <;> (try dsimp only) <;> first | apply Keeps.pend | apply Keeps.bic (P := P) | apply Keeps.bound (P := P)))

theorem writeFrame_keeps_eq {P : Nat → Prop} {s0 u9 : State} {c : LoadCtx} {i k frame : Nat} {d : List Byte} {s : State}  {r0}
    (h9 : writeFrame c i k frame d s = (r0, u9)) (h0 : Keeps P s0 s) : Keeps P s0 u9 := by
  have h : Keeps P s0 (writeFrame c i k frame d s).2 := writeFrame_keeps  h0
  rw [h9] at h; exact h

theorem writeFport_keeps {P : Nat → Prop} {s0 : State} {c : LoadCtx} {i l t v : Nat} {s : State} (h0 : Keeps P s0 s)
    : Keeps P s0 (writeFport c i l t v s).2 := by
  unfold writeFport; try dsimp only
  repeat' with_reducible
    (first | assumption | (split)
           | (refine Keeps.mk ?_ ?_ ?_ <;> (try dsimp only) <;> first | apply Keeps.pend | apply Keeps.bic (P := P) | apply Keeps.bound (P := P)))

theorem writeFport_keeps_eq {P : Nat → Prop} {s0 u9 : State} {c : LoadCtx} {i l t v : Nat} {s : State}  {r0} (h9 : writeFport c i l t v s = (r0, u9)) (h0
    : Keeps P s0 s) : Keeps P s0 u9 := by
  have h : Keeps P s0 (writeFport c i l t v s).2 := writeFport_keeps  h0
  rw [h9] at h; exact h

theorem writeBmem_keeps {P : Nat → Prop} {s0 : State} {n : Nat} {d : List Byte} {s : State} (h0 : Keeps P s0 s) : Keeps P s0 (writeBmem n d s) := by
  unfold writeBmem; try dsimp only
  repeat' with_reducible
    (first | assumption | (refine Keeps.mk ?_ ?_ ?_ <;> (try dsimp only) <;> first | apply Keeps.pend | apply Keeps.bic (P := P) | apply Keeps.bound (P := P))
           | intro _)

theorem writeUop_keeps {P : Nat → Prop} {s0 : State} {i n j v : Nat} {s : State} (h0 : Keeps P s0 s) : Keeps P s0 (writeUop i n j v s).2 := by
  unfold writeUop; try dsimp only
  repeat' with_reducible
    (first | assumption | (split)
           | (refine Keeps.mk ?_ ?_ ?_ <;> (try dsimp only) <;> first | apply Keeps.pend | apply Keeps.bic (P := P) | apply Keeps.bound (P := P)))

theorem writeUop_keeps_eq {P : Nat → Prop} {s0 u9 : State} {i n j v : Nat} {s : State}  {r0} (h9 : writeUop i n j v s = (r0, u9)) (h0 : Keeps P s0 s)
    : Keeps P s0 u9 := by
  have h : Keeps P s0 (writeUop i n j v s).2 := writeUop_keeps  h0
  rw [h9] at h; exact h

theorem writeMport_keeps {P : Nat → Prop} {s0 : State} {c : LoadCtx} {i l port r v : Nat} {s : State} (h0 : Keeps P s0 s)
    : Keeps P s0 (writeMport c i l port r v s).2 := by
  unfold writeMport; try dsimp only
  repeat' with_reducible
    (first | assumption | (split)
           | (refine Keeps.mk ?_ ?_ ?_ <;> (try dsimp only) <;> first | apply Keeps.pend | apply Keeps.bic (P := P) | apply Keeps.bound (P := P)) | intro _)

theorem writeMport_keeps_eq {P : Nat → Prop} {s0 u9 : State} {c : LoadCtx} {i l port r v : Nat} {s : State}  {r0}
    (h9 : writeMport c i l port r v s = (r0, u9)) (h0 : Keeps P s0 s) : Keeps P s0 u9 := by
  have h : Keeps P s0 (writeMport c i l port r v s).2 := writeMport_keeps  h0
  rw [h9] at h; exact h

theorem writeElement_keeps {P : Nat → Prop} {s0 : State} {c : LoadCtx} {i : Nat} {x : Section} {d : List Byte} {u : Nat} {s : State} (h0 : Keeps P s0 s)
    : Keeps P s0 (writeElement c i x d u s).2 := by
  unfold writeElement; try dsimp only
  repeat' with_reducible
    (first | assumption | apply writeSeq_keeps | refine writeSeq_keeps_eq (by assumption) ?_ | apply writeInstr_keeps
           | refine writeInstr_keeps_eq (by assumption) ?_ | apply writeRoute_keeps | refine writeRoute_keeps_eq (by assumption) ?_
           | apply writeDx_keeps | refine writeDx_keeps_eq (by assumption) ?_ | apply writeSx_keeps | refine writeSx_keeps_eq (by assumption) ?_
           | apply writeInj_keeps | refine writeInj_keeps_eq (by assumption) ?_ | apply writeThr_keeps
           | refine writeThr_keeps_eq (by assumption) ?_ | apply writeEj_keeps | refine writeEj_keeps_eq (by assumption) ?_
           | apply writeInit_keeps | refine writeInit_keeps_eq (by assumption) ?_ | apply writeFrame_keeps
           | refine writeFrame_keeps_eq (by assumption) ?_ | apply writeFport_keeps | refine writeFport_keeps_eq (by assumption) ?_
           | apply writeBmem_keeps | apply writeUop_keeps | refine writeUop_keeps_eq (by assumption) ?_ | apply writeMport_keeps
           | refine writeMport_keeps_eq (by assumption) ?_ | (split)
           | (refine Keeps.mk ?_ ?_ ?_ <;> (try dsimp only) <;> first | apply Keeps.pend | apply Keeps.bic (P := P) | apply Keeps.bound (P := P)) | intro _)

theorem writeElement_keeps_eq {P : Nat → Prop} {s0 u9 : State} {c : LoadCtx} {i : Nat} {x : Section} {d : List Byte} {u : Nat} {s : State}  {r0}
    (h9 : writeElement c i x d u s = (r0, u9)) (h0 : Keeps P s0 s) : Keeps P s0 u9 := by
  have h : Keeps P s0 (writeElement c i x d u s).2 := writeElement_keeps  h0
  rw [h9] at h; exact h

theorem writeSection_keeps {P : Nat → Prop} {s0 : State} {c : LoadCtx} {e : Nat × Section} {s : State} (h0 : Keeps P s0 s)
    : Keeps P s0 (writeSection c e s).2 := by
  unfold writeSection; try dsimp only
  repeat' with_reducible
    (first | assumption | apply writeSeq_keeps | refine writeSeq_keeps_eq (by assumption) ?_ | apply writeElement_keeps
           | refine writeElement_keeps_eq (by assumption) ?_ | (split) | intro _)

theorem writeSection_keeps_eq {P : Nat → Prop} {s0 u9 : State} {c : LoadCtx} {e : Nat × Section} {s : State}  {r0} (h9 : writeSection c e s = (r0, u9)) (h0
    : Keeps P s0 s) : Keeps P s0 u9 := by
  have h : Keeps P s0 (writeSection c e s).2 := writeSection_keeps  h0
  rw [h9] at h; exact h

theorem clearRegions_keeps {P : Nat → Prop} {s0 : State} {regs : List Nat} {s : State} (h0 : Keeps P s0 s) : Keeps P s0 (clearRegions regs s) := by
  unfold clearRegions; try dsimp only
  repeat' with_reducible
    (first | assumption | (refine Keeps.mk ?_ ?_ ?_ <;> (try dsimp only) <;> first | apply Keeps.pend | apply Keeps.bic (P := P) | apply Keeps.bound (P := P)))

theorem clearStores_keeps {P : Nat → Prop} {s0 : State} {c : LoadCtx} {s : State} (h0 : Keeps P s0 s) : Keeps P s0 (clearStores c s) := by
  unfold clearStores; try dsimp only
  repeat' with_reducible
    (first | assumption | apply clearRegions_keeps
           | (refine Keeps.mk ?_ ?_ ?_ <;> (try dsimp only) <;> first | apply Keeps.pend | apply Keeps.bic (P := P) | apply Keeps.bound (P := P)) | intro _)

theorem writeImage_keeps {P : Nat → Prop} {s0 : State} {c : LoadCtx} {s : State} (h0 : Keeps P s0 s) : Keeps P s0 (writeImage c s).2 := by
  unfold writeImage; dsimp only
  have k := writeSeq_keeps (f := writeSection c) (l := c.im.indexed) (fun _ _ h => writeSection_keeps h) (clearStores_keeps (c := c) h0)
  split
  · rename_i h; rw [h] at k; exact k
  · rename_i h; rw [h] at k; exact Keeps.mk k.pend k.bic k.bound

theorem writeImage_keeps_eq {P : Nat → Prop} {s0 u9 : State} {c : LoadCtx} {s : State} {r0} (e : writeImage c s = (r0, u9)) (h0 : Keeps P s0 s)
    : Keeps P s0 u9 := by
  have h : Keeps P s0 (writeImage c s).2 := writeImage_keeps h0
  rw [e] at h; exact h

end Sys2Proof.Machine
end

