-- ==== Sys2Proof/Laws/KeepsChanges.lean ====
section
/-!
SUPPORT. KeepsChanges.lean: every operation and meaning of Machine/Changes.lean keeps the queue, the BIC and the bounds of
State.Bounded, and, where it stores nothing, every byte of DRAM; one lemma each, stated from any earlier state s0 so that lemmas chain.
-/
namespace Sys2Proof.Machine

theorem copyBank_keeps {P : Nat → Prop} {s0 : State} {src dst bank : Nat} {s : State} (h0 : Keeps P s0 s) : Keeps P s0 (copyBank src dst bank s) := by
  unfold copyBank; try dsimp only
  repeat' with_reducible
    (first | assumption | (refine Keeps.mk ?_ ?_ ?_ <;> (try dsimp only) <;> first | apply Keeps.pend | apply Keeps.bic (P := P) | apply Keeps.bound (P := P))
           | intro _)

theorem swapHosts_keeps {P : Nat → Prop} {s0 : State} {p l1 l2 : Nat} {s : State} (h0 : Keeps P s0 s) : Keeps P s0 (swapHosts p l1 l2 s) := by
  unfold swapHosts; try dsimp only
  repeat' with_reducible
    (first | assumption | apply setPart_keeps
           | (refine Keeps.mk ?_ ?_ ?_ <;> (try dsimp only) <;> first | apply Keeps.pend | apply Keeps.bic (P := P) | apply Keeps.bound (P := P)) | intro _)

theorem moveEpoch_keeps {P : Nat → Prop} {s0 : State} {p lcl : Nat} {d : U16} {s : State} (h0 : Keeps P s0 s) : Keeps P s0 (moveEpoch p lcl d s) := by
  unfold moveEpoch; try dsimp only
  repeat' with_reducible
    (first | assumption | apply setPart_keeps
           | (refine Keeps.mk ?_ ?_ ?_ <;> (try dsimp only) <;> first | apply Keeps.pend | apply Keeps.bic (P := P) | apply Keeps.bound (P := P)) | intro _)

theorem setMigration_keeps {P : Nat → Prop} {s0 : State} {s : State} {die : Nat} {g : Option Migration} (h0 : Keeps P s0 s)
    : Keeps P s0 (State.setMigration s die g) := by
  unfold State.setMigration; try dsimp only
  repeat' with_reducible
    (first | assumption | (refine Keeps.mk ?_ ?_ ?_ <;> (try dsimp only) <;> first | apply Keeps.pend | apply Keeps.bic (P := P) | apply Keeps.bound (P := P)))

theorem switchPlacement_keeps {P : Nat → Prop} {s0 : State} {p die : Nat} {s : State} (h0 : Keeps P s0 s) : Keeps P s0 (switchPlacement p die s) := by
  unfold switchPlacement; try dsimp only
  repeat' with_reducible
    (first | assumption | apply moveEpoch_keeps | apply swapHosts_keeps | apply copyBank_keeps | apply setMigration_keeps
           | apply completeOpt_keeps | (split)
           | (refine Keeps.mk ?_ ?_ ?_ <;> (try dsimp only) <;> first | apply Keeps.pend | apply Keeps.bic (P := P) | apply Keeps.bound (P := P)) | intro _)

theorem unswitchPlacement_keeps {P : Nat → Prop} {s0 : State} {p die : Nat} {s : State} (h0 : Keeps P s0 s) : Keeps P s0 (unswitchPlacement p die s) := by
  unfold unswitchPlacement; try dsimp only
  repeat' with_reducible
    (first | assumption | apply moveEpoch_keeps | apply swapHosts_keeps | apply setMigration_keeps | (split)
           | (refine Keeps.mk ?_ ?_ ?_ <;> (try dsimp only) <;> first | apply Keeps.pend | apply Keeps.bic (P := P) | apply Keeps.bound (P := P)) | intro _)

theorem cancelMigration_keeps {P : Nat → Prop} {s0 : State} {p die code : Nat} {s : State} (h0 : Keeps P s0 s) : Keeps P s0 (cancelMigration p die code s) := by
  unfold cancelMigration; try dsimp only
  repeat' with_reducible
    (first | assumption | apply completeOpt_keeps | apply setMigration_keeps | apply partEvent_keeps | (split)
           | (refine Keeps.mk ?_ ?_ ?_ <;> (try dsimp only) <;> first | apply Keeps.pend | apply Keeps.bic (P := P) | apply Keeps.bound (P := P)) | intro _)

theorem resetRegion_keeps {P : Nat → Prop} {s0 : State} {region : Nat} {s : State} (h0 : Keeps P s0 s) : Keeps P s0 (resetRegion region s) := by
  unfold resetRegion; try dsimp only
  repeat' with_reducible
    (first | assumption | (split)
           | (refine Keeps.mk ?_ ?_ ?_ <;> (try dsimp only) <;> first | apply Keeps.pend | apply Keeps.bic (P := P) | apply Keeps.bound (P := P)) | intro _)

theorem rereadImage_keeps {P : Nat → Prop} {s0 : State} {p : Nat} {r : Reconfig} {s : State} (h0 : Keeps P s0 s) : Keeps P s0 (rereadImage p r s) := by
  unfold rereadImage; try dsimp only
  repeat' with_reducible
    (first | assumption | apply enqueue_keeps | apply setPart_keeps | (split)
           | (refine Keeps.mk ?_ ?_ ?_ <;> (try dsimp only) <;> first | apply Keeps.pend | apply Keeps.bic (P := P) | apply Keeps.bound (P := P)) | intro _)

theorem switchRegions_keeps {P : Nat → Prop} {s0 : State} {p mask : Nat} {s : State} (h0 : Keeps P s0 s) : Keeps P s0 (switchRegions p mask s) := by
  unfold switchRegions; try dsimp only
  repeat' with_reducible
    (first | assumption | apply setPart_keeps | apply rereadImage_keeps | (split)
           | (refine Keeps.mk ?_ ?_ ?_ <;> (try dsimp only) <;> first | apply Keeps.pend | apply Keeps.bic (P := P) | apply Keeps.bound (P := P)) | intro _)

theorem setPrbuild_keeps {P : Nat → Prop} {s0 : State} {p : Nat} {ks : List Nat} {v : U64} {s : State} (h0 : Keeps P s0 s)
    : Keeps P s0 (setPrbuild p ks v s) := by
  unfold setPrbuild; try dsimp only
  repeat' with_reducible
    (first | assumption | apply setPart_keeps
           | (refine Keeps.mk ?_ ?_ ?_ <;> (try dsimp only) <;> first | apply Keeps.pend | apply Keeps.bic (P := P) | apply Keeps.bound (P := P)) | intro _)

theorem resumeRegions_keeps {P : Nat → Prop} {s0 : State} {p mask : Nat} {s : State} (h0 : Keeps P s0 s) : Keeps P s0 (resumeRegions p mask s) := by
  unfold resumeRegions; try dsimp only
  repeat' with_reducible
    (first | assumption | apply resetRegion_keeps | apply setPrbuild_keeps | apply complete_keeps | apply setPart_keeps
           | (apply foldl_keeps <;> (try intro _ _ _)) | (split)
           | (refine Keeps.mk ?_ ?_ ?_ <;> (try dsimp only) <;> first | apply Keeps.pend | apply Keeps.bic (P := P) | apply Keeps.bound (P := P)) | intro _)

theorem failReconfig_keeps {P : Nat → Prop} {s0 : State} {p mask cause : Nat} {s : State} (h0 : Keeps P s0 s) : Keeps P s0 (failReconfig p mask cause s) := by
  unfold failReconfig; try dsimp only
  repeat' with_reducible
    (first | assumption | apply setPrbuild_keeps | apply setPart_keeps | apply complete_keeps | apply dropCtx_keeps | apply partEvent_keeps
           | (split) | (refine Keeps.mk ?_ ?_ ?_ <;> (try dsimp only) <;> first | apply Keeps.pend | apply Keeps.bic (P := P) | apply Keeps.bound (P := P))
           | intro _)

theorem drivePins_keeps {P : Nat → Prop} {s0 : State} {p : Nat} {on : Bool} {s : State} (h0 : Keeps P s0 s) : Keeps P s0 (drivePins p on s) := by
  unfold drivePins; try dsimp only
  repeat' with_reducible
    (first | assumption | (split)
           | (refine Keeps.mk ?_ ?_ ?_ <;> (try dsimp only) <;> first | apply Keeps.pend | apply Keeps.bic (P := P) | apply Keeps.bound (P := P)))

theorem stopAt_keeps {P : Nat → Prop} {s0 : State} {p : Nat} {s : State} (h0 : Keeps P s0 s) : Keeps P s0 (stopAt p s) := by
  unfold stopAt; try dsimp only
  repeat' with_reducible
    (first | assumption | apply drivePins_keeps | apply setPart_keeps | (split)
           | (refine Keeps.mk ?_ ?_ ?_ <;> (try dsimp only) <;> first | apply Keeps.pend | apply Keeps.bic (P := P) | apply Keeps.bound (P := P)) | intro _)

theorem stopExecution_keeps {P : Nat → Prop} {s0 : State} {p : Nat} {s : State} (h0 : Keeps P s0 s) : Keeps P s0 (stopExecution p s) := by
  unfold stopExecution; try dsimp only
  repeat' with_reducible
    (first | assumption | apply eachPart_keeps | apply leadIn_keeps | apply stopAt_keeps | apply setPart_keeps | (split)
           | (refine Keeps.mk ?_ ?_ ?_ <;> (try dsimp only) <;> first | apply Keeps.pend | apply Keeps.bic (P := P) | apply Keeps.bound (P := P)) | intro _)

theorem setPair_keeps {P : Nat → Prop} {s0 : State} {st : PairSt} {role : Nat} {s : State} (h0 : Keeps P s0 s) : Keeps P s0 (setPair st role s) := by
  unfold setPair; try dsimp only
  repeat' with_reducible
    (first | assumption | (refine Keeps.mk ?_ ?_ ?_ <;> (try dsimp only) <;> first | apply Keeps.pend | apply Keeps.bic (P := P) | apply Keeps.bound (P := P)))

theorem retireSelf_keeps {P : Nat → Prop} {s0 : State} {s : State} (h0 : Keeps P s0 s) : Keeps P s0 (retireSelf s) := by
  unfold retireSelf; try dsimp only
  repeat' with_reducible
    (first | assumption | apply assertFault_keeps | apply setPair_keeps)

theorem surviveSolo_keeps {P : Nat → Prop} {s0 : State} {part : Nat} {s : State} (h0 : Keeps P s0 s) : Keeps P s0 (surviveSolo part s) := by
  unfold surviveSolo; try dsimp only
  repeat' with_reducible
    (first | assumption | apply logEvent_keeps | apply setPair_keeps)

theorem moveEpochs_keeps {P : Nat → Prop} {s0 : State} {p : Nat} {d : U16} {s : State} (h0 : Keeps P s0 s) : Keeps P s0 (moveEpochs p d s) := by
  unfold moveEpochs; try dsimp only
  repeat' with_reducible
    (first | assumption | apply moveEpoch_keeps | (apply foldl_keeps <;> (try intro _ _ _)) | intro _)

theorem bumpEpochs_keeps {P : Nat → Prop} {s0 : State} {p : Nat} {s : State} (h0 : Keeps P s0 s) : Keeps P s0 (bumpEpochs p s) := by
  unfold bumpEpochs; try dsimp only
  repeat' with_reducible
    (first | assumption | apply moveEpochs_keeps | apply setPart_keeps | (split)
           | (refine Keeps.mk ?_ ?_ ?_ <;> (try dsimp only) <;> first | apply Keeps.pend | apply Keeps.bic (P := P) | apply Keeps.bound (P := P)) | intro _)

theorem unbumpEpochs_keeps {P : Nat → Prop} {s0 : State} {p : Nat} {s : State} (h0 : Keeps P s0 s) : Keeps P s0 (unbumpEpochs p s) := by
  unfold unbumpEpochs; try dsimp only
  repeat' with_reducible
    (first | assumption | apply setPart_keeps | (split)
           | (refine Keeps.mk ?_ ?_ ?_ <;> (try dsimp only) <;> first | apply Keeps.pend | apply Keeps.bic (P := P) | apply Keeps.bound (P := P)) | intro _)

theorem applyRole_keeps {P : Nat → Prop} {s0 : State} {opcode arg part : Nat} {s : State} (h0 : Keeps P s0 s) : Keeps P s0 (applyRole opcode arg part s) := by
  unfold applyRole; try dsimp only
  repeat' with_reducible
    (first | assumption | apply retireSelf_keeps | apply surviveSolo_keeps | apply setPair_keeps | (split))

theorem applyTo_keeps {P : Nat → Prop} {s0 : State} {opcode arg p : Nat} {s : State} (h0 : Keeps P s0 s) : Keeps P s0 (applyTo opcode arg p s) := by
  unfold applyTo; try dsimp only
  repeat' with_reducible
    (first | assumption | apply stopAt_keeps | apply bumpEpochs_keeps | (split))

theorem fenceSelf_keeps {P : Nat → Prop} {s0 : State} {p : Nat} {s : State} (h0 : Keeps P s0 s) : Keeps P s0 (fenceSelf p s) := by
  unfold fenceSelf; try dsimp only
  repeat' with_reducible
    (first | assumption | apply logEvent_keeps | apply stopExecution_keeps | apply setPair_keeps)

theorem losePeer_keeps {P : Nat → Prop} {s0 : State} {p : Nat} {s : State} (h0 : Keeps P s0 s) : Keeps P s0 (losePeer p s) := by
  unfold losePeer; try dsimp only
  repeat' with_reducible
    (first | assumption | apply setPair_keeps | apply fenceSelf_keeps | (split))

theorem completePendant_keeps {P : Nat → Prop} {s0 : State} {code : Nat} {data : List Byte} {s : State} (h0 : Keeps P s0 s)
    : Keeps P s0 (completePendant code data s) := by
  unfold completePendant; try dsimp only
  repeat' with_reducible
    (first | assumption | apply completeOpt_keeps | (split)
           | (refine Keeps.mk ?_ ?_ ?_ <;> (try dsimp only) <;> first | apply Keeps.pend | apply Keeps.bic (P := P) | apply Keeps.bound (P := P)) | intro _)

theorem applyChange_keeps {P : Nat → Prop} {s0 : State} {p : Nat} {s : State} {c : ModeChange} (h0 : Keeps P s0 s) : Keeps P s0 (applyChange p s c) := by
  unfold applyChange; try dsimp only
  repeat' with_reducible
    (first | assumption | apply switchPlacement_keeps | apply switchRegions_keeps | apply resumeRegions_keeps | apply completePendant_keeps
           | apply applyTo_keeps | apply applyRole_keeps | apply stopExecution_keeps | apply losePeer_keeps | (split))

theorem unapplyTo_keeps {P : Nat → Prop} {s0 : State} {opcode arg p : Nat} {s : State} (h0 : Keeps P s0 s) : Keeps P s0 (unapplyTo opcode arg p s) := by
  unfold unapplyTo; try dsimp only
  repeat' with_reducible
    (first | assumption | apply unbumpEpochs_keeps | (split))

theorem unapplyChange_keeps {P : Nat → Prop} {s0 : State} {p : Nat} {s : State} {c : ModeChange} (h0 : Keeps P s0 s) : Keeps P s0 (unapplyChange p s c) := by
  unfold unapplyChange; try dsimp only
  repeat' with_reducible
    (first | assumption | apply unswitchPlacement_keeps | apply unapplyTo_keeps | apply setPair_keeps | apply releaseFault_keeps | (split))

theorem cancelChange_keeps {P : Nat → Prop} {s0 : State} {p code : Nat} {s : State} {c : ModeChange} (h0 : Keeps P s0 s)
    : Keeps P s0 (cancelChange p code s c) := by
  unfold cancelChange; try dsimp only
  repeat' with_reducible
    (first | assumption | apply setPart_keeps | apply cancelMigration_keeps | apply failReconfig_keeps | apply completePendant_keeps
           | apply eachPart_keeps | (split)
           | (refine Keeps.mk ?_ ?_ ?_ <;> (try dsimp only) <;> first | apply Keeps.pend | apply Keeps.bic (P := P) | apply Keeps.bound (P := P)) | intro _)

theorem cancelChanges_keeps {P : Nat → Prop} {s0 : State} {p code : Nat} {s : State} (h0 : Keeps P s0 s) : Keeps P s0 (cancelChanges p code s) := by
  unfold cancelChanges; try dsimp only
  repeat' with_reducible
    (first | assumption | apply cancelChange_keeps | (apply foldl_keeps <;> (try intro _ _ _)))

theorem joinRoles_keeps {P : Nat → Prop} {s0 : State} {s : State} (h0 : Keeps P s0 s) : Keeps P s0 (joinRoles s) := by
  unfold joinRoles; try dsimp only
  repeat' with_reducible
    (first | assumption | apply applyRole_keeps | apply stopExecution_keeps | apply eachPart_keeps | apply bumpEpochs_keeps | apply setPair_keeps
           | (split) | (refine Keeps.mk ?_ ?_ ?_ <;> (try dsimp only) <;> first | apply Keeps.pend | apply Keeps.bic (P := P) | apply Keeps.bound (P := P))
           | intro _)

theorem joinTick_keeps {P : Nat → Prop} {s0 : State} {p : Nat} {k : FrameNo} {s : State} (h0 : Keeps P s0 s) : Keeps P s0 (joinTick p k s) := by
  unfold joinTick; try dsimp only
  repeat' with_reducible
    (first | assumption | apply joinRoles_keeps | apply stopAt_keeps | apply partEvent_keeps | apply finishAct_keeps
           | apply completePendant_keeps | apply completeOpt_keeps | (split)
           | (refine Keeps.mk ?_ ?_ ?_ <;> (try dsimp only) <;> first | apply Keeps.pend | apply Keeps.bic (P := P) | apply Keeps.bound (P := P)) | intro _)

end Sys2Proof.Machine
end

