-- ==== Sys2Proof/Laws/KeepsFrames.lean ====
section
/-!
SUPPORT. KeepsFrames.lean: every operation and meaning of Machine/Frames.lean keeps the queue, the BIC and the bounds of
State.Bounded, and, where it stores nothing, every byte of DRAM; one lemma each, stated from any earlier state s0 so that lemmas chain.
-/
namespace Sys2Proof.Machine

theorem wordsStep_keeps {P : Nat → Prop} {s0 : State} {p t : Nat} {s : State} (h0 : Keeps P s0 s) : Keeps P s0 (wordsStep p t s) := by
  unfold wordsStep; try dsimp only
  repeat' with_reducible
    (first | assumption | apply stepCluster_keeps | (apply foldl_keeps <;> (try intro _ _ _))
           | (apply foldl_keeps2 <;> (try intro _ _ _) <;> (try dsimp only)) | (apply foldl_keeps3 <;> (try intro _ _ _) <;> (try dsimp only))
           | (split) | (refine Keeps.mk ?_ ?_ ?_ <;> (try dsimp only) <;> first | apply Keeps.pend | apply Keeps.bic (P := P) | apply Keeps.bound (P := P))
           | intro _)

theorem exportStep_keeps {P : Nat → Prop} {s0 : State} {p t : Nat} {s : State} (h0 : Keeps P s0 s) : Keeps P s0 (exportStep p t s) := by
  unfold exportStep; try dsimp only
  repeat' with_reducible
    (first | assumption | apply inject_keeps | apply sxExports_keeps | apply dxExports_keeps | (apply foldl_keeps <;> (try intro _ _ _))
           | (apply foldl_keeps2 <;> (try intro _ _ _) <;> (try dsimp only)) | (apply foldl_keeps3 <;> (try intro _ _ _) <;> (try dsimp only))
           | intro _)

theorem importAll_keeps {P : Nat → Prop} {s0 : State} {p t : Nat} {s : State} (h0 : Keeps P s0 s) : Keeps P s0 (importAll p t s) := by
  unfold importAll; try dsimp only
  repeat' with_reducible
    (first | assumption | apply dxConflicts_keeps | apply fabReach_keeps | apply importStep_keeps | (apply foldl_keeps <;> (try intro _ _ _))
           | (apply foldl_keeps2 <;> (try intro _ _ _) <;> (try dsimp only)) | (apply foldl_keeps3 <;> (try intro _ _ _) <;> (try dsimp only))
           | intro _)

theorem sliceStep_keeps {P : Nat → Prop} {s0 : State} {p t : Nat} {s : State} (h0 : Keeps P s0 s) : Keeps P s0 (sliceStep p t s) := by
  unfold sliceStep; try dsimp only
  repeat' with_reducible
    (first | assumption | apply issueSlices_keeps | (split))

theorem frameStep_keeps {P : Nat → Prop} {s0 : State} {p t : Nat} {s : State} (h0 : Keeps P s0 s) : Keeps P s0 (frameStep p t s) := by
  unfold frameStep; try dsimp only
  repeat' with_reducible
    (first | assumption | apply setPart_keeps | apply exportStep_keeps | apply wordsStep_keeps | apply issueRequests_keeps
           | apply fportCapture_keeps | apply importAll_keeps | apply sliceStep_keeps | (apply foldl_keeps <;> (try intro _ _ _))
           | (apply foldl_keeps2 <;> (try intro _ _ _) <;> (try dsimp only)) | (apply foldl_keeps3 <;> (try intro _ _ _) <;> (try dsimp only))
           | (split) | (refine Keeps.mk ?_ ?_ ?_ <;> (try dsimp only) <;> first | apply Keeps.pend | apply Keeps.bic (P := P) | apply Keeps.bound (P := P))
           | intro _)

theorem execFrameRelativeStep_keeps {P : Nat → Prop} {s0 u9 : State} {part : Fin 4} {s : State}  (h9 : execFrameRelativeStep part s = .next u9) (h0
    : Keeps P s0 s) : Keeps P s0 u9 := by
  unfold execFrameRelativeStep at h9; try dsimp only at h9
  cases h9
  repeat' with_reducible
    (first | assumption | apply frameStep_keeps | (split))

theorem execNmParityReread_keeps {P : Nat → Prop} {s0 u9 : State} {part : Fin 4} {s : State}  (h9 : execNmParityReread part s = .next u9) (h0 : Keeps P s0 s)
    : Keeps P s0 u9 := by
  unfold execNmParityReread at h9; try dsimp only at h9
  cases h9
  repeat' with_reducible
    (first | assumption | apply bump_keeps | apply setPart_keeps | apply raiseHold_keeps | apply logEvent_keeps | apply replayVeto_keeps
           | apply logRec_keeps | (split)
           | (refine Keeps.mk ?_ ?_ ?_ <;> (try dsimp only) <;> first | apply Keeps.pend | apply Keeps.bic (P := P) | apply Keeps.bound (P := P)) | intro _)

theorem clearBanks_keeps {P : Nat → Prop} {s0 : State} {p : Nat} {banks : List Nat} {s : State} (h0 : Keeps P s0 s) : Keeps P s0 (clearBanks p banks s) := by
  unfold clearBanks; try dsimp only
  repeat' with_reducible
    (first | assumption | (refine Keeps.mk ?_ ?_ ?_ <;> (try dsimp only) <;> first | apply Keeps.pend | apply Keeps.bic (P := P) | apply Keeps.bound (P := P))
           | intro _)

theorem abandonFaults_keeps {P : Nat → Prop} {s0 : State} {p : Nat} {k : FrameNo} {s : State} (h0 : Keeps P s0 s) : Keeps P s0 (abandonFaults p k s) := by
  unfold abandonFaults; try dsimp only
  repeat' with_reducible
    (first | assumption | (split)
           | (refine Keeps.mk ?_ ?_ ?_ <;> (try dsimp only) <;> first | apply Keeps.pend | apply Keeps.bic (P := P) | apply Keeps.bound (P := P)) | intro _)

theorem abandon_keeps {P : Nat → Prop} {s0 : State} {p : Nat} {k : FrameNo} {tv : Nat} {s : State} (h0 : Keeps P s0 s) : Keeps P s0 (abandon p k tv s) := by
  unfold abandon; try dsimp only
  repeat' with_reducible
    (first | assumption | apply clearBanks_keeps | apply unapplyChange_keeps | apply abandonFaults_keeps | apply setPart_keeps
           | (apply foldl_keeps <;> (try intro _ _ _)) | (apply foldl_keeps2 <;> (try intro _ _ _) <;> (try dsimp only))
           | (apply foldl_keeps3 <;> (try intro _ _ _) <;> (try dsimp only)) | (split)
           | (refine Keeps.mk ?_ ?_ ?_ <;> (try dsimp only) <;> first | apply Keeps.pend | apply Keeps.bic (P := P) | apply Keeps.bound (P := P)) | intro _)

theorem needEngines_keeps {P : Nat → Prop} {s0 : State} {p : Nat} {s : State} (h0 : Keeps P s0 s) : Keeps P s0 (needEngines p s) := by
  unfold needEngines; try dsimp only
  repeat' with_reducible
    (first | assumption | apply raiseHold_keeps | (apply foldl_keeps <;> (try intro _ _ _)) | (split)
           | (refine Keeps.mk ?_ ?_ ?_ <;> (try dsimp only) <;> first | apply Keeps.pend | apply Keeps.bic (P := P) | apply Keeps.bound (P := P)) | intro _)

theorem takeVerdict_keeps {P : Nat → Prop} {s0 : State} {p : Nat} {k : FrameNo} {hold : Bool} {tv g : Nat} {s : State} (h0 : Keeps P s0 s)
    : Keeps P s0 (takeVerdict p k hold tv g s) := by
  unfold takeVerdict; try dsimp only
  repeat' with_reducible
    (first | assumption | apply logRec_keeps | apply setPart_keeps | apply abandon_keeps | apply drivePins_keeps | apply tryClear_keeps
           | apply needEngines_keeps | (split)
           | (refine Keeps.mk ?_ ?_ ?_ <;> (try dsimp only) <;> first | apply Keeps.pend | apply Keeps.bic (P := P) | apply Keeps.bound (P := P)) | intro _)

theorem issueVerdict_keeps {P : Nat → Prop} {s0 : State} {p : Nat} {k : FrameNo} {hold : Bool} {s : State} (h0 : Keeps P s0 s)
    : Keeps P s0 (issueVerdict p k hold s) := by
  unfold issueVerdict; try dsimp only
  repeat' with_reducible
    (first | assumption | apply setPart_keeps | apply partEvent_keeps | apply logRec_keeps | apply takeVerdict_keeps | apply markerDown_keeps
           | (split) | (refine Keeps.mk ?_ ?_ ?_ <;> (try dsimp only) <;> first | apply Keeps.pend | apply Keeps.bic (P := P) | apply Keeps.bound (P := P))
           | intro _)

theorem decideDue_keeps {P : Nat → Prop} {s0 : State} {p : Nat} {s : State} (h0 : Keeps P s0 s) : Keeps P s0 (decideDue p s) := by
  unfold decideDue; try dsimp only
  repeat' with_reducible
    (first | assumption | apply issueVerdict_keeps | (split)
           | (refine Keeps.mk ?_ ?_ ?_ <;> (try dsimp only) <;> first | apply Keeps.pend | apply Keeps.bic (P := P) | apply Keeps.bound (P := P)) | intro _)

theorem showStaged_keeps {P : Nat → Prop} {s0 : State} {p : Nat} {s : State} (h0 : Keeps P s0 s) : Keeps P s0 (showStaged p s) := by
  unfold showStaged; try dsimp only
  repeat' with_reducible
    (first | assumption | (refine Keeps.mk ?_ ?_ ?_ <;> (try dsimp only) <;> first | apply Keeps.pend | apply Keeps.bic (P := P) | apply Keeps.bound (P := P))
           | intro _)

theorem keepCopy_keeps {P : Nat → Prop} {s0 : State} {p : Nat} {k : FrameNo} {flag : Bool} {s : State} (h0 : Keeps P s0 s)
    : Keeps P s0 (keepCopy p k flag s) := by
  unfold keepCopy; try dsimp only
  repeat' with_reducible
    (first | assumption | apply setPart_keeps | (split)
           | (refine Keeps.mk ?_ ?_ ?_ <;> (try dsimp only) <;> first | apply Keeps.pend | apply Keeps.bic (P := P) | apply Keeps.bound (P := P)) | intro _)

theorem markTick_keeps {P : Nat → Prop} {s0 : State} {p : Nat} {k : FrameNo} {special : Bool} {s : State} (h0 : Keeps P s0 s)
    : Keeps P s0 (markTick p k special s) := by
  unfold markTick; try dsimp only
  repeat' with_reducible
    (first | assumption | apply markDown_keeps | (split))

theorem awaitMark_keeps {P : Nat → Prop} {s0 : State} {p : Nat} {k : FrameNo} {special : Bool} {s : State} (h0 : Keeps P s0 s)
    : Keeps P s0 (awaitMark p k special s) := by
  unfold awaitMark; try dsimp only
  repeat' with_reducible
    (first | assumption | apply countBad_keeps | apply setPart_keeps | (apply foldl_keeps <;> (try intro _ _ _)) | (split)
           | (refine Keeps.mk ?_ ?_ ?_ <;> (try dsimp only) <;> first | apply Keeps.pend | apply Keeps.bic (P := P) | apply Keeps.bound (P := P)) | intro _)

theorem applyChanges_keeps {P : Nat → Prop} {s0 : State} {p : Nat} {k : FrameNo} {s : State} (h0 : Keeps P s0 s) : Keeps P s0 (applyChanges p k s) := by
  unfold applyChanges; try dsimp only
  repeat' with_reducible
    (first | assumption | apply setPart_keeps | apply applyChange_keeps | (apply foldl_keeps <;> (try intro _ _ _))
           | (refine Keeps.mk ?_ ?_ ?_ <;> (try dsimp only) <;> first | apply Keeps.pend | apply Keeps.bic (P := P) | apply Keeps.bound (P := P)) | intro _)

theorem endForwarding_keeps {P : Nat → Prop} {s0 : State} {p : Nat} {k : FrameNo} {s : State} (h0 : Keeps P s0 s) : Keeps P s0 (endForwarding p k s) := by
  unfold endForwarding; try dsimp only
  repeat' with_reducible
    (first | assumption | (refine Keeps.mk ?_ ?_ ?_ <;> (try dsimp only) <;> first | apply Keeps.pend | apply Keeps.bic (P := P) | apply Keeps.bound (P := P))
           | intro _)

theorem takeTakeover_keeps {P : Nat → Prop} {s0 : State} {s : State} (h0 : Keeps P s0 s) : Keeps P s0 (takeTakeover s) := by
  unfold takeTakeover; try dsimp only
  repeat' with_reducible
    (first | assumption | apply setPair_keeps | (split)
           | (refine Keeps.mk ?_ ?_ ?_ <;> (try dsimp only) <;> first | apply Keeps.pend | apply Keeps.bic (P := P) | apply Keeps.bound (P := P)))

theorem takePref_keeps {P : Nat → Prop} {s0 : State} {s : State} (h0 : Keeps P s0 s) : Keeps P s0 (takePref s) := by
  unfold takePref; try dsimp only
  repeat' with_reducible
    (first | assumption | (split)
           | (refine Keeps.mk ?_ ?_ ?_ <;> (try dsimp only) <;> first | apply Keeps.pend | apply Keeps.bic (P := P) | apply Keeps.bound (P := P)) | intro _)

theorem beginFrame_keeps {P : Nat → Prop} {s0 : State} {p : Nat} {k : FrameNo} {special : Bool} {s : State} (h0 : Keeps P s0 s)
    : Keeps P s0 (beginFrame p k special s) := by
  unfold beginFrame; try dsimp only
  repeat' with_reducible
    (first | assumption | apply setPart_keeps | apply joinTick_keeps | apply applyChanges_keeps | apply showStaged_keeps | apply takePref_keeps
           | apply takeTakeover_keeps | apply markTick_keeps | apply awaitMark_keeps | apply keepCopy_keeps | apply endForwarding_keeps | (split)
           | (refine Keeps.mk ?_ ?_ ?_ <;> (try dsimp only) <;> first | apply Keeps.pend | apply Keeps.bic (P := P) | apply Keeps.bound (P := P)) | intro _)

theorem completeSteps_keeps {P : Nat → Prop} {s0 : State} {p : Nat} {m : FrameNo} {s : State} (h0 : Keeps P s0 s) : Keeps P s0 (completeSteps p m s) := by
  unfold completeSteps; try dsimp only
  repeat' with_reducible
    (first | assumption | apply complete_keeps | apply setPart_keeps | (apply foldl_keeps <;> (try intro _ _ _)) | (split)
           | (refine Keeps.mk ?_ ?_ ?_ <;> (try dsimp only) <;> first | apply Keeps.pend | apply Keeps.bic (P := P) | apply Keeps.bound (P := P)) | intro _)

theorem pausedOwner_keeps {P : Nat → Prop} {s0 : State} {p : Nat} {m : FrameNo} {s : State} {o : PauseOwner} (h0 : Keeps P s0 s)
    : Keeps P s0 (pausedOwner p m s o) := by
  unfold pausedOwner; try dsimp only
  repeat' with_reducible
    (first | assumption | apply complete_keeps | apply cancelChanges_keeps | (split)
           | (refine Keeps.mk ?_ ?_ ?_ <;> (try dsimp only) <;> first | apply Keeps.pend | apply Keeps.bic (P := P) | apply Keeps.bound (P := P)) | intro _)

theorem noteHostPause_keeps {P : Nat → Prop} {s0 : State} {p : Nat} {here : List Pause} {s : State} (h0 : Keeps P s0 s)
    : Keeps P s0 (noteHostPause p here s) := by
  unfold noteHostPause; try dsimp only
  repeat' with_reducible
    (first | assumption | (split)
           | (refine Keeps.mk ?_ ?_ ?_ <;> (try dsimp only) <;> first | apply Keeps.pend | apply Keeps.bic (P := P) | apply Keeps.bound (P := P)) | intro _)

theorem reachPause_keeps {P : Nat → Prop} {s0 : State} {p : Nat} {m : FrameNo} {s : State} (h0 : Keeps P s0 s) : Keeps P s0 (reachPause p m s) := by
  unfold reachPause; try dsimp only
  repeat' with_reducible
    (first | assumption | apply setPart_keeps | apply pausedOwner_keeps | apply noteHostPause_keeps | apply completeSteps_keeps
           | (apply foldl_keeps <;> (try intro _ _ _)) | (split)
           | (refine Keeps.mk ?_ ?_ ?_ <;> (try dsimp only) <;> first | apply Keeps.pend | apply Keeps.bic (P := P) | apply Keeps.bound (P := P)) | intro _)

theorem stopHere_keeps {P : Nat → Prop} {s0 : State} {p : Nat} {s : State} (h0 : Keeps P s0 s) : Keeps P s0 (stopHere p s) := by
  unfold stopHere; try dsimp only
  repeat' with_reducible
    (first | assumption | apply setLane_keeps | apply loseCast_keeps | apply drivePins_keeps | apply setPart_keeps
           | (apply foldl_keeps <;> (try intro _ _ _)) | (apply foldl_keeps2 <;> (try intro _ _ _) <;> (try dsimp only))
           | (apply foldl_keeps3 <;> (try intro _ _ _) <;> (try dsimp only)) | (split)
           | (refine Keeps.mk ?_ ?_ ?_ <;> (try dsimp only) <;> first | apply Keeps.pend | apply Keeps.bic (P := P) | apply Keeps.bound (P := P)) | intro _)

theorem leaveAt_keeps {P : Nat → Prop} {s0 : State} {p : Nat} {s : State} (h0 : Keeps P s0 s) : Keeps P s0 (leaveAt p s) := by
  unfold leaveAt; try dsimp only
  repeat' with_reducible
    (first | assumption | (refine Keeps.mk ?_ ?_ ?_ <;> (try dsimp only) <;> first | apply Keeps.pend | apply Keeps.bic (P := P) | apply Keeps.bound (P := P)))

theorem boundary_keeps {P : Nat → Prop} {s0 : State} {p : Nat} {s : State} (h0 : Keeps P s0 s) : Keeps P s0 (boundary p s) := by
  unfold boundary; try dsimp only
  repeat' with_reducible
    (first | assumption | apply leaveAt_keeps | apply setPart_keeps | apply stopHere_keeps | apply reachPause_keeps | apply beginFrame_keeps
           | (split) | (refine Keeps.mk ?_ ?_ ?_ <;> (try dsimp only) <;> first | apply Keeps.pend | apply Keeps.bic (P := P) | apply Keeps.bound (P := P))
           | intro _)

theorem refreshDigest_keeps {P : Nat → Prop} {s0 : State} {s : State} (h0 : Keeps P s0 s) : Keeps P s0 (refreshDigest s) := by
  unfold refreshDigest; try dsimp only
  repeat' with_reducible
    (first | assumption | (split)
           | (refine Keeps.mk ?_ ?_ ?_ <;> (try dsimp only) <;> first | apply Keeps.pend | apply Keeps.bic (P := P) | apply Keeps.bound (P := P)))

theorem execAccumulationClose_keeps {P : Nat → Prop} {s0 u9 : State} {part : Fin 4} {s : State}  (h9 : execAccumulationClose part s = .next u9) (h0
    : Keeps P s0 s) : Keeps P s0 u9 := by
  unfold execAccumulationClose at h9; try dsimp only at h9
  cases h9
  repeat' with_reducible
    (first | assumption | apply setPart_keeps | (split)
           | (refine Keeps.mk ?_ ?_ ?_ <;> (try dsimp only) <;> first | apply Keeps.pend | apply Keeps.bic (P := P) | apply Keeps.bound (P := P)) | intro _)

theorem execSignatureSend_keeps {P : Nat → Prop} {s0 u9 : State} {part : Fin 4} {s : State}  (h9 : execSignatureSend part s = .next u9) (h0 : Keeps P s0 s)
    : Keeps P s0 u9 := by
  unfold execSignatureSend at h9; try dsimp only at h9
  cases h9
  repeat' with_reducible
    (first | assumption | apply sendTag_keeps | apply sendPendant_keeps | apply setPart_keeps | (split)
           | (refine Keeps.mk ?_ ?_ ?_ <;> (try dsimp only) <;> first | apply Keeps.pend | apply Keeps.bic (P := P) | apply Keeps.bound (P := P)) | intro _)

theorem persistent_keeps {P : Nat → Prop} {s0 : State} {p : Nat} {s : State} (h0 : Keeps P s0 s) : Keeps P s0 (persistent p s) := by
  unfold persistent; try dsimp only
  repeat' with_reducible
    (first | assumption | apply addChange_keeps | (split))

theorem execSignatureCompare_keeps {P : Nat → Prop} {s0 u9 : State} {part : Fin 4} {s : State}  (h9 : execSignatureCompare part s = .next u9) (h0
    : Keeps P s0 s) : Keeps P s0 u9 := by
  unfold execSignatureCompare at h9; try dsimp only at h9
  cases h9
  repeat' with_reducible
    (first | assumption | apply bump_keeps | apply setPart_keeps | apply replayVeto_keeps | apply logEvent_keeps | apply persistent_keeps
           | (split) | (refine Keeps.mk ?_ ?_ ?_ <;> (try dsimp only) <;> first | apply Keeps.pend | apply Keeps.bic (P := P) | apply Keeps.bound (P := P))
           | intro _)

theorem completeness_keeps {P : Nat → Prop} {s0 : State} {p : Nat} {s : State} (h0 : Keeps P s0 s) : Keeps P s0 (completeness p s) := by
  unfold completeness; try dsimp only
  repeat' with_reducible
    (first | assumption | apply draw_keeps | refine draw_keeps_eq (by assumption) ?_ | apply raiseHold_keeps | apply logRec_keeps | (split)
           | (refine Keeps.mk ?_ ?_ ?_ <;> (try dsimp only) <;> first | apply Keeps.pend | apply Keeps.bic (P := P) | apply Keeps.bound (P := P)) | intro _)

theorem sampleVetoes_keeps {P : Nat → Prop} {s0 : State} {p : Nat} {s : State} (h0 : Keeps P s0 s) : Keeps P s0 (sampleVetoes p s) := by
  unfold sampleVetoes; try dsimp only
  repeat' with_reducible
    (first | assumption | apply setPart_keeps | apply armPause_keeps | apply offerVeto_keeps | (split)
           | (refine Keeps.mk ?_ ?_ ?_ <;> (try dsimp only) <;> first | apply Keeps.pend | apply Keeps.bic (P := P) | apply Keeps.bound (P := P)) | intro _)

theorem execVetoSamplingPoint_keeps {P : Nat → Prop} {s0 u9 : State} {part : Fin 4} {s : State}  (h9 : execVetoSamplingPoint part s = .next u9) (h0
    : Keeps P s0 s) : Keeps P s0 u9 := by
  unfold execVetoSamplingPoint at h9; try dsimp only at h9
  cases h9
  repeat' with_reducible
    (first | assumption | apply sampleVetoes_keeps | apply completeness_keeps | (split) | intro _)

theorem lateChange_keeps {P : Nat → Prop} {s0 : State} {p : Nat} {s : State} {c : ModeChange} (h0 : Keeps P s0 s) : Keeps P s0 (lateChange p s c) := by
  unfold lateChange; try dsimp only
  repeat' with_reducible
    (first | assumption | apply setPart_keeps | apply raiseHold_keeps | apply logRec_keeps | apply changeReady_keeps | (split)
           | (refine Keeps.mk ?_ ?_ ?_ <;> (try dsimp only) <;> first | apply Keeps.pend | apply Keeps.bic (P := P) | apply Keeps.bound (P := P)) | intro _)

theorem execBankClear_keeps {P : Nat → Prop} {s0 u9 : State} {part : Fin 4} {s : State}  (h9 : execBankClear part s = .next u9) (h0 : Keeps P s0 s)
    : Keeps P s0 u9 := by
  unfold execBankClear at h9; try dsimp only at h9
  cases h9
  repeat' with_reducible
    (first | assumption | apply clearBanks_keeps | apply setPart_keeps | apply lateChange_keeps | (apply foldl_keeps <;> (try intro _ _ _))
           | (split) | (refine Keeps.mk ?_ ?_ ?_ <;> (try dsimp only) <;> first | apply Keeps.pend | apply Keeps.bic (P := P) | apply Keeps.bound (P := P))
           | intro _)

theorem stageRows_keeps {P : Nat → Prop} {s0 : State} {p : Nat} {m : FrameNo} {s : State} (h0 : Keeps P s0 s) : Keeps P s0 (stageRows p m s) := by
  unfold stageRows; try dsimp only
  repeat' with_reducible
    (first | assumption | (apply foldl_keeps <;> (try intro _ _ _)) | (apply foldl_keeps2 <;> (try intro _ _ _) <;> (try dsimp only))
           | (apply foldl_keeps3 <;> (try intro _ _ _) <;> (try dsimp only))
           | (refine Keeps.mk ?_ ?_ ?_ <;> (try dsimp only) <;> first | apply Keeps.pend | apply Keeps.bic (P := P) | apply Keeps.bound (P := P)) | intro _)

theorem execRowStaging_keeps {P : Nat → Prop} {s0 u9 : State} {part : Fin 4} {s : State}  (h9 : execRowStaging part s = .next u9) (h0 : Keeps P s0 s)
    : Keeps P s0 u9 := by
  unfold execRowStaging at h9; try dsimp only at h9
  cases h9
  repeat' with_reducible
    (first | assumption | apply stageRows_keeps | apply setPart_keeps | (split)
           | (refine Keeps.mk ?_ ?_ ?_ <;> (try dsimp only) <;> first | apply Keeps.pend | apply Keeps.bic (P := P) | apply Keeps.bound (P := P)) | intro _)

theorem execGoNoGo_keeps {P : Nat → Prop} {s0 u9 : State} {part : Fin 4} {s : State}  (h9 : execGoNoGo part s = .next u9) (h0 : Keeps P s0 s)
    : Keeps P s0 u9 := by
  unfold execGoNoGo at h9; try dsimp only at h9
  cases h9
  repeat' with_reducible
    (first | assumption | apply setPart_keeps | (split)
           | (refine Keeps.mk ?_ ?_ ?_ <;> (try dsimp only) <;> first | apply Keeps.pend | apply Keeps.bic (P := P) | apply Keeps.bound (P := P)) | intro _)

theorem releaseMigrations_keeps {P : Nat → Prop} {s0 : State} {p : Nat} {f : FrameNo} {s : State} (h0 : Keeps P s0 s)
    : Keeps P s0 (releaseMigrations p f s) := by
  unfold releaseMigrations; try dsimp only
  repeat' with_reducible
    (first | assumption | apply setMigration_keeps | (apply foldl_keeps <;> (try intro _ _ _)) | (split)
           | (refine Keeps.mk ?_ ?_ ?_ <;> (try dsimp only) <;> first | apply Keeps.pend | apply Keeps.bic (P := P) | apply Keeps.bound (P := P)) | intro _)

theorem execBeyondReplay_keeps {P : Nat → Prop} {s0 u9 : State} {part : Fin 4} {s : State}  (h9 : execBeyondReplay part s = .next u9) (h0 : Keeps P s0 s)
    : Keeps P s0 u9 := by
  unfold execBeyondReplay at h9; try dsimp only at h9
  cases h9
  repeat' with_reducible
    (first | assumption | apply finishUnload_keeps | apply releaseMigrations_keeps | apply fillMerge_keeps | apply setPart_keeps
           | (apply foldl_keeps <;> (try intro _ _ _)) | (split)
           | (refine Keeps.mk ?_ ?_ ?_ <;> (try dsimp only) <;> first | apply Keeps.pend | apply Keeps.bic (P := P) | apply Keeps.bound (P := P)) | intro _)

theorem reinject_keeps {P : Nat → Prop} {s0 : State} {p base g : Nat} {s : State} (h0 : Keeps P s0 s) : Keeps P s0 (reinject p base g s) := by
  unfold reinject; try dsimp only
  repeat' with_reducible
    (first | assumption | apply setPart_keeps
           | (refine Keeps.mk ?_ ?_ ?_ <;> (try dsimp only) <;> first | apply Keeps.pend | apply Keeps.bic (P := P) | apply Keeps.bound (P := P)) | intro _)

theorem restoreRows_keeps {P : Nat → Prop} {s0 : State} {p : Nat} {k : FrameNo} {s : State} (h0 : Keeps P s0 s) : Keeps P s0 (restoreRows p k s) := by
  unfold restoreRows; try dsimp only
  repeat' with_reducible
    (first | assumption | apply stageRows_keeps | (split)
           | (refine Keeps.mk ?_ ?_ ?_ <;> (try dsimp only) <;> first | apply Keeps.pend | apply Keeps.bic (P := P) | apply Keeps.bound (P := P)) | intro _)

theorem leadIn_keeps {P : Nat → Prop} {s0 : State} {p g : Nat} {k : FrameNo} {isReplay : Bool} {s : State} (h0 : Keeps P s0 s)
    : Keeps P s0 (leadIn p g k isReplay s) := by
  unfold leadIn; try dsimp only
  repeat' with_reducible
    (first | assumption | apply reinject_keeps | apply setPart_keeps | apply restoreRows_keeps | (split)
           | (refine Keeps.mk ?_ ?_ ?_ <;> (try dsimp only) <;> first | apply Keeps.pend | apply Keeps.bic (P := P) | apply Keeps.bound (P := P)) | intro _)

theorem execLeadInStart_keeps {P : Nat → Prop} {s0 u9 : State} {part : Fin 4} {s : State}  (h9 : execLeadInStart part s = .next u9) (h0 : Keeps P s0 s)
    : Keeps P s0 u9 := by
  unfold execLeadInStart at h9; try dsimp only at h9
  cases h9
  repeat' with_reducible
    (first | assumption | apply leadIn_keeps | (split)
           | (refine Keeps.mk ?_ ?_ ?_ <;> (try dsimp only) <;> first | apply Keeps.pend | apply Keeps.bic (P := P) | apply Keeps.bound (P := P)) | intro _)

theorem execPauseExpiry_keeps {P : Nat → Prop} {s0 u9 : State} {part : Fin 4} {s : State}  (h9 : execPauseExpiry part s = .next u9) (h0 : Keeps P s0 s)
    : Keeps P s0 u9 := by
  unfold execPauseExpiry at h9; try dsimp only at h9
  cases h9
  repeat' with_reducible
    (first | assumption | apply leadIn_keeps | (split)
           | (refine Keeps.mk ?_ ?_ ?_ <;> (try dsimp only) <;> first | apply Keeps.pend | apply Keeps.bic (P := P) | apply Keeps.bound (P := P)) | intro _)

theorem completeResumes_keeps {P : Nat → Prop} {s0 : State} {p : Nat} {restart : Bool} {s : State} (h0 : Keeps P s0 s)
    : Keeps P s0 (completeResumes p restart s) := by
  unfold completeResumes; try dsimp only
  repeat' with_reducible
    (first | assumption | apply complete_keeps | apply setPart_keeps | (apply foldl_keeps <;> (try intro _ _ _)) | (split)
           | (refine Keeps.mk ?_ ?_ ?_ <;> (try dsimp only) <;> first | apply Keeps.pend | apply Keeps.bic (P := P) | apply Keeps.bound (P := P)) | intro _)

theorem execReplayTick_keeps {P : Nat → Prop} {s0 u9 : State} {part : Fin 4} {s : State}  (h9 : execReplayTick part s = .next u9) (h0 : Keeps P s0 s)
    : Keeps P s0 u9 := by
  unfold execReplayTick at h9; try dsimp only at h9
  cases h9
  repeat' with_reducible
    (first | assumption | apply leadIn_keeps | apply completeResumes_keeps | apply setPart_keeps | apply refreshDigest_keeps
           | apply beginFrame_keeps | (split)
           | (refine Keeps.mk ?_ ?_ ?_ <;> (try dsimp only) <;> first | apply Keeps.pend | apply Keeps.bic (P := P) | apply Keeps.bound (P := P)) | intro _)

end Sys2Proof.Machine
end

