-- ==== Sys2Proof/Laws/KeepsTime.lean ====
section
/-!
SUPPORT. KeepsTime.lean: every operation and meaning of Machine/Time.lean keeps the queue, the BIC and the bounds of
State.Bounded, and, where it stores nothing, every byte of DRAM; one lemma each, stated from any earlier state s0 so that lemmas chain.
-/
namespace Sys2Proof.Machine

theorem setSync_keeps {P : Nat → Prop} {s0 : State} {s : State} {link : Nat} {x : SyncLink} (h0 : Keeps P s0 s) : Keeps P s0 (State.setSync s link x) := by
  unfold State.setSync; try dsimp only
  repeat' with_reducible
    (first | assumption | (split)
           | (refine Keeps.mk ?_ ?_ ?_ <;> (try dsimp only) <;> first | apply Keeps.pend | apply Keeps.bic (P := P) | apply Keeps.bound (P := P)))

theorem enterServo_keeps {P : Nat → Prop} {s0 : State} {v : Servo} {s : State} (h0 : Keeps P s0 s) : Keeps P s0 (enterServo v s) := by
  unfold enterServo; try dsimp only
  repeat' with_reducible
    (first | assumption | apply setServo_keeps | apply postEvent_keeps | (split))

theorem sendReq_keeps {P : Nat → Prop} {s0 : State} {link : Nat} {s : State} (h0 : Keeps P s0 s) : Keeps P s0 (sendReq link s) := by
  unfold sendReq; try dsimp only
  repeat' with_reducible
    (first | assumption | apply setSync_keeps | apply emit_keeps
           | (refine Keeps.mk ?_ ?_ ?_ <;> (try dsimp only) <;> first | apply Keeps.pend | apply Keeps.bic (P := P) | apply Keeps.bound (P := P)))

theorem assignCounter_keeps {P : Nat → Prop} {s0 : State} {e : Int} {s : State} (h0 : Keeps P s0 s) : Keeps P s0 (assignCounter e s) := by
  unfold assignCounter; try dsimp only
  repeat' with_reducible
    (first | assumption | (refine Keeps.mk ?_ ?_ ?_ <;> (try dsimp only) <;> first | apply Keeps.pend | apply Keeps.bic (P := P) | apply Keeps.bound (P := P)))

theorem movePhase_keeps {P : Nat → Prop} {s0 : State} {e : Int} {s : State} (h0 : Keeps P s0 s) : Keeps P s0 (movePhase e s) := by
  unfold movePhase; try dsimp only
  repeat' with_reducible
    (first | assumption | (split)
           | (refine Keeps.mk ?_ ?_ ?_ <;> (try dsimp only) <;> first | apply Keeps.pend | apply Keeps.bic (P := P) | apply Keeps.bound (P := P)))

theorem outOfStep_keeps {P : Nat → Prop} {s0 : State} {p detail : Nat} {s : State} (h0 : Keeps P s0 s) : Keeps P s0 (outOfStep p detail s) := by
  unfold outOfStep; try dsimp only
  repeat' with_reducible
    (first | assumption | apply assertFault_keeps | apply logRec_keeps | apply setPart_keeps | (split)
           | (refine Keeps.mk ?_ ?_ ?_ <;> (try dsimp only) <;> first | apply Keeps.pend | apply Keeps.bic (P := P) | apply Keeps.bound (P := P)) | intro _)

theorem servoCorrect_keeps {P : Nat → Prop} {s0 : State} {s : State} (h0 : Keeps P s0 s) : Keeps P s0 (servoCorrect s) := by
  unfold servoCorrect; try dsimp only
  repeat' with_reducible
    (first | assumption | apply draw_keeps | refine draw_keeps_eq (by assumption) ?_
           | (refine Keeps.mk ?_ ?_ ?_ <;> (try dsimp only) <;> first | apply Keeps.pend | apply Keeps.bic (P := P) | apply Keeps.bound (P := P)))

theorem servoStep_keeps {P : Nat → Prop} {s0 : State} {err : Int} {parent : Nat} {s : State} (h0 : Keeps P s0 s) : Keeps P s0 (servoStep err parent s) := by
  unfold servoStep; try dsimp only
  repeat' with_reducible
    (first | assumption | apply enterServo_keeps | apply servoCorrect_keeps | (split)
           | (refine Keeps.mk ?_ ?_ ?_ <;> (try dsimp only) <;> first | apply Keeps.pend | apply Keeps.bic (P := P) | apply Keeps.bound (P := P)))

theorem switchUpstream_keeps {P : Nat → Prop} {s0 : State} {link : Nat} {s : State} (h0 : Keeps P s0 s) : Keeps P s0 (switchUpstream link s) := by
  unfold switchUpstream; try dsimp only
  repeat' with_reducible
    (first | assumption | apply enterServo_keeps
           | (refine Keeps.mk ?_ ?_ ?_ <;> (try dsimp only) <;> first | apply Keeps.pend | apply Keeps.bic (P := P) | apply Keeps.bound (P := P)))

theorem countFailed_keeps {P : Nat → Prop} {s0 : State} {link : Nat} {c : SeqCheck} {s : State} (h0 : Keeps P s0 s) : Keeps P s0 (countFailed link c s) := by
  unfold countFailed; try dsimp only
  repeat' with_reducible
    (first | assumption | apply bump_keeps | apply countBad_keeps | (split))

theorem execTimeRead_keeps {P : Nat → Prop} {s0 u9 : State} {c : CmdCtx} {s : State}  (h9 : execTimeRead c s = .next u9) (h0 : Keeps P s0 s)
    : Keeps P s0 u9 := by
  unfold execTimeRead at h9; try dsimp only at h9
  cases h9
  repeat' with_reducible
    (first | assumption | apply immediate_keeps | apply reply_keeps | intro _)

theorem execTimeAdjust_keeps {P : Nat → Prop} {s0 u9 : State} {c : CmdCtx} {offset : U64} {rate rsvd : U32} {s : State}
    (h9 : execTimeAdjust c offset rate rsvd s = .next u9) (h0 : Keeps P s0 s) : Keeps P s0 u9 := by
  unfold execTimeAdjust at h9; try dsimp only at h9
  cases h9
  repeat' with_reducible
    (first | assumption | apply immediate_keeps | apply reply_keeps | (split)
           | (refine Keeps.mk ?_ ?_ ?_ <;> (try dsimp only) <;> first | apply Keeps.pend | apply Keeps.bic (P := P) | apply Keeps.bound (P := P)) | intro _)

theorem execTimeCompat_keeps {P : Nat → Prop} {s0 u9 : State} {c : CmdCtx} {op : Byte} {rsvd : BitVec 24} {tb0 tb1 tb2 tb3 : U64} {s : State}
    (h9 : execTimeCompat c op rsvd tb0 tb1 tb2 tb3 s = .next u9) (h0 : Keeps P s0 s) : Keeps P s0 u9 := by
  unfold execTimeCompat at h9; try dsimp only at h9
  cases h9
  repeat' with_reducible
    (first | assumption | apply immediate_keeps | apply reply_keeps | (split)
           | (refine Keeps.mk ?_ ?_ ?_ <;> (try dsimp only) <;> first | apply Keeps.pend | apply Keeps.bic (P := P) | apply Keeps.bound (P := P)) | intro _)

theorem execTimeSyncSend_keeps {P : Nat → Prop} {s0 u9 : State} {s : State}  (h9 : execTimeSyncSend s = .next u9) (h0 : Keeps P s0 s) : Keeps P s0 u9 := by
  unfold execTimeSyncSend at h9; try dsimp only at h9
  cases h9
  repeat' with_reducible
    (first | assumption | apply sendReq_keeps | (apply foldl_keeps <;> (try intro _ _ _)) | (split) | intro _)

theorem execTimeSyncReq_keeps {P : Nat → Prop} {s0 u9 : State} {link : Fin 8} {seq : SyncSeq} {_t1 : U64} {s : State}
    (h9 : execTimeSyncReq link seq _t1 s = .next u9) (h0 : Keeps P s0 s) : Keeps P s0 u9 := by
  unfold execTimeSyncReq at h9; try dsimp only at h9
  cases h9
  repeat' with_reducible
    (first | assumption | apply countFailed_keeps | apply emit_keeps | (split))

theorem bringUpLanes_keeps {P : Nat → Prop} {s0 : State} {s : State} (h0 : Keeps P s0 s) : Keeps P s0 (bringUpLanes s) := by
  unfold bringUpLanes; try dsimp only
  repeat' with_reducible
    (first | assumption | apply setLane_keeps | (apply foldl_keeps <;> (try intro _ _ _))
           | (apply foldl_keeps2 <;> (try intro _ _ _) <;> (try dsimp only)) | (apply foldl_keeps3 <;> (try intro _ _ _) <;> (try dsimp only))
           | (split) | (refine Keeps.mk ?_ ?_ ?_ <;> (try dsimp only) <;> first | apply Keeps.pend | apply Keeps.bic (P := P) | apply Keeps.bound (P := P))
           | intro _)

theorem takeResp_keeps {P : Nat → Prop} {s0 : State} {link : Nat} {t1 t2 t3 st t4 parent : Nat} {s : State} (h0 : Keeps P s0 s)
    : Keeps P s0 (takeResp link t1 t2 t3 st t4 parent s) := by
  unfold takeResp; try dsimp only
  repeat' with_reducible
    (first | assumption | apply setSync_keeps | apply eachPart_keeps | apply outOfStep_keeps | apply movePhase_keeps | apply assignCounter_keeps
           | apply servoStep_keeps | (split)
           | (refine Keeps.mk ?_ ?_ ?_ <;> (try dsimp only) <;> first | apply Keeps.pend | apply Keeps.bic (P := P) | apply Keeps.bound (P := P)) | intro _)

theorem execTimeSyncResp_keeps {P : Nat → Prop} {s0 u9 : State} {link : Fin 8} {seq : SyncSeq} {t2 t3 st : U64} {parentState : Byte} {t4 : U64}
    {s : State}  (h9 : execTimeSyncResp link seq t2 t3 st parentState t4 s = .next u9) (h0 : Keeps P s0 s) : Keeps P s0 u9 := by
  unfold execTimeSyncResp at h9; try dsimp only at h9
  cases h9
  repeat' with_reducible
    (first | assumption | apply countFailed_keeps | apply takeResp_keeps | (split)
           | (refine Keeps.mk ?_ ?_ ?_ <;> (try dsimp only) <;> first | apply Keeps.pend | apply Keeps.bic (P := P) | apply Keeps.bound (P := P)) | intro _)

theorem execServoHoldover_keeps {P : Nat → Prop} {s0 u9 : State} {s : State}  (h9 : execServoHoldover s = .next u9) (h0 : Keeps P s0 s) : Keeps P s0 u9 := by
  unfold execServoHoldover at h9; try dsimp only at h9
  cases h9
  repeat' with_reducible
    (first | assumption | apply enterServo_keeps | (split))

end Sys2Proof.Machine
end

