-- ==== Sys2Proof/Laws/KeepsMarkers.lean ====
section
/-!
SUPPORT. KeepsMarkers.lean: every operation and meaning of Machine/Markers.lean keeps the queue, the BIC and the bounds of
State.Bounded, and, where it stores nothing, every byte of DRAM; one lemma each, stated from any earlier state s0 so that lemmas chain.
-/
namespace Sys2Proof.Machine

theorem setRelay_keeps {P : Nat → Prop} {s0 : State} {s : State} {sc : Nat} {r : ScopeSt} (h0 : Keeps P s0 s) : Keeps P s0 (State.setRelay s sc r) := by
  unfold State.setRelay; try dsimp only
  repeat' with_reducible
    (first | assumption | (refine Keeps.mk ?_ ?_ ?_ <;> (try dsimp only) <;> first | apply Keeps.pend | apply Keeps.bic (P := P) | apply Keeps.bound (P := P)))

theorem setScopeSt_keeps {P : Nat → Prop} {s0 : State} {s : State} {sc : Nat} {r : ScopeSt} (h0 : Keeps P s0 s) : Keeps P s0 (State.setScopeSt s sc r) := by
  unfold State.setScopeSt; try dsimp only
  repeat' with_reducible
    (first | assumption | apply setPart_keeps | apply setRelay_keeps | (split)
           | (refine Keeps.mk ?_ ?_ ?_ <;> (try dsimp only) <;> first | apply Keeps.pend | apply Keeps.bic (P := P) | apply Keeps.bound (P := P)) | intro _)

theorem loseMarker_keeps {P : Nat → Prop} {s0 : State} {link p : Nat} {s : State} (h0 : Keeps P s0 s) : Keeps P s0 (loseMarker link p s) := by
  unfold loseMarker; try dsimp only
  repeat' with_reducible
    (first | assumption | apply logRec_keeps | apply offerVeto_keeps | apply setPart_keeps | (split)
           | (refine Keeps.mk ?_ ?_ ?_ <;> (try dsimp only) <;> first | apply Keeps.pend | apply Keeps.bic (P := P) | apply Keeps.bound (P := P)) | intro _)

theorem markBad_keeps {P : Nat → Prop} {s0 : State} {link : Nat} {c : SeqCheck} {s : State} (h0 : Keeps P s0 s) : Keeps P s0 (markBad link c s) := by
  unfold markBad; try dsimp only
  repeat' with_reducible
    (first | assumption | apply countFailed_keeps | apply eachPart_keeps | apply loseMarker_keeps | apply setLink_keeps | (split)
           | (refine Keeps.mk ?_ ?_ ?_ <;> (try dsimp only) <;> first | apply Keeps.pend | apply Keeps.bic (P := P) | apply Keeps.bound (P := P)) | intro _)

theorem receive_keeps {P : Nat → Prop} {s0 : State} {down : Bool} {link type : Nat} {m : Marker} {body : State → State} {s : State}
    (h_body : ∀ x0, Keeps P s0 x0 → Keeps P s0 (body x0)) (h0 : Keeps P s0 s) : Keeps P s0 (receive down link type m body s) := by
  unfold receive; try dsimp only
  repeat' with_reducible
    (first | assumption | apply h_body | apply markBad_keeps | apply setLink_keeps | (split)
           | (refine Keeps.mk ?_ ?_ ?_ <;> (try dsimp only) <;> first | apply Keeps.pend | apply Keeps.bic (P := P) | apply Keeps.bound (P := P)))

theorem passDown_keeps {P : Nat → Prop} {s0 : State} {type : Nat} {m : Marker} {s : State} (h0 : Keeps P s0 s) : Keeps P s0 (passDown type m s) := by
  unfold passDown; try dsimp only
  repeat' with_reducible
    (first | assumption | apply markerDown_keeps)

theorem passUp_keeps {P : Nat → Prop} {s0 : State} {type : Nat} {m : Marker} {s : State} (h0 : Keeps P s0 s) : Keeps P s0 (passUp type m s) := by
  unfold passUp; try dsimp only
  repeat' with_reducible
    (first | assumption | apply markerUp_keeps)

theorem relayVeto_keeps {P : Nat → Prop} {s0 : State} {m : Marker} {s : State} (h0 : Keeps P s0 s) : Keeps P s0 (relayVeto m s) := by
  unfold relayVeto; try dsimp only
  repeat' with_reducible
    (first | assumption | apply setRelay_keeps | apply passUp_keeps | (split)
           | (refine Keeps.mk ?_ ?_ ?_ <;> (try dsimp only) <;> first | apply Keeps.pend | apply Keeps.bic (P := P) | apply Keeps.bound (P := P)))

theorem execVetoMarker_keeps {P : Nat → Prop} {s0 u9 : State} {link : Fin 8} {m : Marker} {s : State}  (h9 : execVetoMarker link m s = .next u9) (h0
    : Keeps P s0 s) : Keeps P s0 u9 := by
  unfold execVetoMarker at h9; try dsimp only at h9
  cases h9
  repeat' with_reducible
    (first | assumption | apply receive_keeps | apply offerVeto_keeps | apply relayVeto_keeps | (split)
           | (refine Keeps.mk ?_ ?_ ?_ <;> (try dsimp only) <;> first | apply Keeps.pend | apply Keeps.bic (P := P) | apply Keeps.bound (P := P)) | intro _)

theorem relayVerdict_keeps {P : Nat → Prop} {s0 : State} {m : Marker} {s : State} (h0 : Keeps P s0 s) : Keeps P s0 (relayVerdict m s) := by
  unfold relayVerdict; try dsimp only
  repeat' with_reducible
    (first | assumption | apply setScopeSt_keeps | (split))

theorem takeReplay_keeps {P : Nat → Prop} {s0 : State} {p : Nat} {m : Marker} {s : State} (h0 : Keeps P s0 s) : Keeps P s0 (takeReplay p m s) := by
  unfold takeReplay; try dsimp only
  repeat' with_reducible
    (first | assumption | apply takeVerdict_keeps | apply setPart_keeps | (split)
           | (refine Keeps.mk ?_ ?_ ?_ <;> (try dsimp only) <;> first | apply Keeps.pend | apply Keeps.bic (P := P) | apply Keeps.bound (P := P)) | intro _)

theorem execReplayMarker_keeps {P : Nat → Prop} {s0 u9 : State} {link : Fin 8} {m : Marker} {s : State}  (h9 : execReplayMarker link m s = .next u9) (h0
    : Keeps P s0 s) : Keeps P s0 u9 := by
  unfold execReplayMarker at h9; try dsimp only at h9
  cases h9
  repeat' with_reducible
    (first | assumption | apply receive_keeps | apply relayVerdict_keeps | apply passDown_keeps | apply takeReplay_keeps | (split)
           | (refine Keeps.mk ?_ ?_ ?_ <;> (try dsimp only) <;> first | apply Keeps.pend | apply Keeps.bic (P := P) | apply Keeps.bound (P := P)) | intro _)

theorem execHoldMarker_keeps {P : Nat → Prop} {s0 u9 : State} {link : Fin 8} {m : Marker} {s : State}  (h9 : execHoldMarker link m s = .next u9) (h0
    : Keeps P s0 s) : Keeps P s0 u9 := by
  unfold execHoldMarker at h9; try dsimp only at h9
  cases h9
  repeat' with_reducible
    (first | assumption | apply receive_keeps | apply relayVerdict_keeps | apply passDown_keeps | apply takeVerdict_keeps | (split)
           | (refine Keeps.mk ?_ ?_ ?_ <;> (try dsimp only) <;> first | apply Keeps.pend | apply Keeps.bic (P := P) | apply Keeps.bound (P := P)) | intro _)

theorem relayClear_keeps {P : Nat → Prop} {s0 : State} {link : Nat} {m : Marker} {s : State} (h0 : Keeps P s0 s) : Keeps P s0 (relayClear link m s) := by
  unfold relayClear; try dsimp only
  repeat' with_reducible
    (first | assumption | apply passUp_keeps | apply setScopeSt_keeps | (split)
           | (refine Keeps.mk ?_ ?_ ?_ <;> (try dsimp only) <;> first | apply Keeps.pend | apply Keeps.bic (P := P) | apply Keeps.bound (P := P)))

theorem execClearMarker_keeps {P : Nat → Prop} {s0 u9 : State} {link : Fin 8} {m : Marker} {s : State}  (h9 : execClearMarker link m s = .next u9) (h0
    : Keeps P s0 s) : Keeps P s0 u9 := by
  unfold execClearMarker at h9; try dsimp only at h9
  cases h9
  repeat' with_reducible
    (first | assumption | apply receive_keeps | apply tryClear_keeps | apply setPart_keeps | apply relayClear_keeps | (split)
           | (refine Keeps.mk ?_ ?_ ?_ <;> (try dsimp only) <;> first | apply Keeps.pend | apply Keeps.bic (P := P) | apply Keeps.bound (P := P)) | intro _)

theorem resendRelay_keeps {P : Nat → Prop} {s0 : State} {s : State} {e : Nat × ScopeSt} (h0 : Keeps P s0 s) : Keeps P s0 (resendRelay s e) := by
  unfold resendRelay; try dsimp only
  repeat' with_reducible
    (first | assumption | apply markerUp_keeps | apply setRelay_keeps | (split)
           | (refine Keeps.mk ?_ ?_ ?_ <;> (try dsimp only) <;> first | apply Keeps.pend | apply Keeps.bic (P := P) | apply Keeps.bound (P := P)) | intro _)

theorem resendRelays_keeps {P : Nat → Prop} {s0 : State} {s : State} (h0 : Keeps P s0 s) : Keeps P s0 (resendRelays s) := by
  unfold resendRelays; try dsimp only
  repeat' with_reducible
    (first | assumption | apply resendRelay_keeps | (apply foldl_keeps <;> (try intro _ _ _)))

theorem execClearResendTimeout_keeps {P : Nat → Prop} {s0 u9 : State} {part : Fin 4} {s : State}  (h9 : execClearResendTimeout part s = .next u9) (h0
    : Keeps P s0 s) : Keeps P s0 u9 := by
  unfold execClearResendTimeout at h9; try dsimp only at h9
  cases h9
  repeat' with_reducible
    (first | assumption | apply resendRelays_keeps | apply markerUp_keeps | apply setPart_keeps | (split)
           | (refine Keeps.mk ?_ ?_ ?_ <;> (try dsimp only) <;> first | apply Keeps.pend | apply Keeps.bic (P := P) | apply Keeps.bound (P := P)) | intro _)

theorem pausePlaced_keeps {P : Nat → Prop} {s0 : State} {p : Nat} {o : PauseOwner} {m : FrameNo} {s : State} (h0 : Keeps P s0 s)
    : Keeps P s0 (pausePlaced p o m s) := by
  unfold pausePlaced; try dsimp only
  repeat' with_reducible
    (first | assumption | apply reply_keeps | apply setPart_keeps | (split)
           | (refine Keeps.mk ?_ ?_ ?_ <;> (try dsimp only) <;> first | apply Keeps.pend | apply Keeps.bic (P := P) | apply Keeps.bound (P := P)) | intro _)

theorem answerPause_keeps {P : Nat → Prop} {s0 : State} {p : Nat} {standing : Bool} {o : PauseOwner} {m : FrameNo} {d : Nat} {s : State} (h0 : Keeps P s0 s)
    : Keeps P s0 (answerPause p standing o m d s) := by
  unfold answerPause; try dsimp only
  repeat' with_reducible
    (first | assumption | apply reply_keeps | apply setRemaining_keeps | apply pausePlaced_keeps | apply markerUp_keeps | apply armPause_keeps
           | (split) | (refine Keeps.mk ?_ ?_ ?_ <;> (try dsimp only) <;> first | apply Keeps.pend | apply Keeps.bic (P := P) | apply Keeps.bound (P := P))
           | intro _)

theorem takePause_keeps {P : Nat → Prop} {s0 : State} {p : Nat} {m : FrameNo} {d : Nat} {s : State} (h0 : Keeps P s0 s) : Keeps P s0 (takePause p m d s) := by
  unfold takePause; try dsimp only
  repeat' with_reducible
    (first | assumption | apply setPart_keeps | apply answerPause_keeps | apply setRemaining_keeps | apply armPause_keeps | (split)
           | (refine Keeps.mk ?_ ?_ ?_ <;> (try dsimp only) <;> first | apply Keeps.pend | apply Keeps.bic (P := P) | apply Keeps.bound (P := P)) | intro _)

theorem execPauseMarker_keeps {P : Nat → Prop} {s0 u9 : State} {link : Fin 8} {m : Marker} {s : State} (h9 : execPauseMarker link m s = .next u9)
    (h0 : Keeps P s0 s) : Keeps P s0 u9 := by
  unfold execPauseMarker at h9
  injection h9 with h
  rw [← h]
  refine receive_keeps (fun a ha => ?_) h0
  dsimp only
  split
  · exact takePause_keeps (passDown_keeps ha)
  · exact setScopeSt_keeps (passDown_keeps ha)

theorem execRestartMarker_keeps {P : Nat → Prop} {s0 u9 : State} {link : Fin 8} {m : Marker} {s : State}  (h9 : execRestartMarker link m s = .next u9) (h0
    : Keeps P s0 s) : Keeps P s0 u9 := by
  unfold execRestartMarker at h9; try dsimp only at h9
  cases h9
  repeat' with_reducible
    (first | assumption | apply receive_keeps | apply passDown_keeps | apply setPart_keeps | (split)
           | (refine Keeps.mk ?_ ?_ ?_ <;> (try dsimp only) <;> first | apply Keeps.pend | apply Keeps.bic (P := P) | apply Keeps.bound (P := P)) | intro _)

theorem servePause_keeps {P : Nat → Prop} {s0 : State} {p : Nat} {frame : Nat} {d : Nat} {s : State} (h0 : Keeps P s0 s)
    : Keeps P s0 (servePause p frame d s) := by
  unfold servePause; try dsimp only
  repeat' with_reducible
    (first | assumption | apply markerDown_keeps | apply setRemaining_keeps | apply rootPause_keeps
           | refine rootPause_keeps_eq (by assumption) ?_ | (split)
           | (refine Keeps.mk ?_ ?_ ?_ <;> (try dsimp only) <;> first | apply Keeps.pend | apply Keeps.bic (P := P) | apply Keeps.bound (P := P)) | intro _)

theorem serveResume_keeps {P : Nat → Prop} {s0 : State} {p : Nat} {s : State} (h0 : Keeps P s0 s) : Keeps P s0 (serveResume p s) := by
  unfold serveResume; try dsimp only
  repeat' with_reducible
    (first | assumption | apply releaseLimit_keeps | apply setPart_keeps | apply rootRestart_keeps | apply rootUnpause_keeps | (split)
           | (refine Keeps.mk ?_ ?_ ?_ <;> (try dsimp only) <;> first | apply Keeps.pend | apply Keeps.bic (P := P) | apply Keeps.bound (P := P)) | intro _)

theorem serveStep_keeps {P : Nat → Prop} {s0 : State} {p c : Nat} {s : State} (h0 : Keeps P s0 s) : Keeps P s0 (serveStep p c s) := by
  unfold serveStep; try dsimp only
  repeat' with_reducible
    (first | assumption | apply rootRestart_keeps | apply markerDown_keeps | apply armPause_keeps | (split)
           | (refine Keeps.mk ?_ ?_ ?_ <;> (try dsimp only) <;> first | apply Keeps.pend | apply Keeps.bic (P := P) | apply Keeps.bound (P := P)) | intro _)

theorem serveRequest_keeps {P : Nat → Prop} {s0 : State} {type : Nat} {m : Marker} {serve : Nat → State → State} {s : State}
    (h_serve : ∀ x0 x1, Keeps P s0 x1 → Keeps P s0 (serve x0 x1)) (h0 : Keeps P s0 s) : Keeps P s0 (serveRequest type m serve s) := by
  unfold serveRequest; try dsimp only
  repeat' with_reducible
    (first | assumption | apply h_serve | apply passUp_keeps | (split)
           | (refine Keeps.mk ?_ ?_ ?_ <;> (try dsimp only) <;> first | apply Keeps.pend | apply Keeps.bic (P := P) | apply Keeps.bound (P := P)) | intro _)

theorem execPauseReq_keeps {P : Nat → Prop} {s0 u9 : State} {link : Fin 8} {m : Marker} {s : State}  (h9 : execPauseReq link m s = .next u9) (h0
    : Keeps P s0 s) : Keeps P s0 u9 := by
  unfold execPauseReq at h9; try dsimp only at h9
  cases h9
  repeat' with_reducible
    (first | assumption | apply receive_keeps | apply serveRequest_keeps | apply servePause_keeps | intro _)

theorem execResumeReq_keeps {P : Nat → Prop} {s0 u9 : State} {link : Fin 8} {m : Marker} {s : State}  (h9 : execResumeReq link m s = .next u9) (h0
    : Keeps P s0 s) : Keeps P s0 u9 := by
  unfold execResumeReq at h9; try dsimp only at h9
  cases h9
  repeat' with_reducible
    (first | assumption | apply receive_keeps | apply serveRequest_keeps | apply serveResume_keeps | intro _)

theorem execStepReq_keeps {P : Nat → Prop} {s0 u9 : State} {link : Fin 8} {m : Marker} {s : State}  (h9 : execStepReq link m s = .next u9) (h0
    : Keeps P s0 s) : Keeps P s0 u9 := by
  unfold execStepReq at h9; try dsimp only at h9
  cases h9
  repeat' with_reducible
    (first | assumption | apply receive_keeps | apply serveRequest_keeps | apply serveStep_keeps | intro _)

theorem cancelHere_keeps {P : Nat → Prop} {s0 : State} {p : Nat} {m : FrameNo} {opcode : Nat} {s : State} (h0 : Keeps P s0 s)
    : Keeps P s0 (cancelHere p m opcode s) := by
  unfold cancelHere; try dsimp only
  repeat' with_reducible
    (first | assumption | apply cancelPauses_keeps | apply resolveLate_keeps | apply cancelChange_keeps
           | (apply foldl_keeps <;> (try intro _ _ _)) | (split) | intro _)

theorem rootCancel_keeps {P : Nat → Prop} {s0 : State} {p : Nat} {m : FrameNo} {opcode : Nat} {s : State} (h0 : Keeps P s0 s)
    : Keeps P s0 (rootCancel p m opcode s) := by
  unfold rootCancel; try dsimp only
  repeat' with_reducible
    (first | assumption | apply setPart_keeps | apply cancelHere_keeps | apply markerDown_keeps | (split)
           | (refine Keeps.mk ?_ ?_ ?_ <;> (try dsimp only) <;> first | apply Keeps.pend | apply Keeps.bic (P := P) | apply Keeps.bound (P := P)) | intro _)

theorem execCancelMarker_keeps {P : Nat → Prop} {s0 u9 : State} {link : Fin 8} {m : Marker} {s : State}  (h9 : execCancelMarker link m s = .next u9) (h0
    : Keeps P s0 s) : Keeps P s0 u9 := by
  unfold execCancelMarker at h9; try dsimp only at h9
  cases h9
  repeat' with_reducible
    (first | assumption | apply receive_keeps | apply passDown_keeps | apply cancelHere_keeps | (split)
           | (refine Keeps.mk ?_ ?_ ?_ <;> (try dsimp only) <;> first | apply Keeps.pend | apply Keeps.bic (P := P) | apply Keeps.bound (P := P)) | intro _)

theorem execCancelReq_keeps {P : Nat → Prop} {s0 u9 : State} {link : Fin 8} {m : Marker} {s : State}  (h9 : execCancelReq link m s = .next u9) (h0
    : Keeps P s0 s) : Keeps P s0 u9 := by
  unfold execCancelReq at h9; try dsimp only at h9
  cases h9
  repeat' with_reducible
    (first | assumption | apply receive_keeps | apply serveRequest_keeps | apply rootCancel_keeps | intro _)

theorem execArmTimeout_keeps {P : Nat → Prop} {s0 u9 : State} {part : Fin 4} {s : State}  (h9 : execArmTimeout part s = .next u9) (h0 : Keeps P s0 s)
    : Keeps P s0 u9 := by
  unfold execArmTimeout at h9; try dsimp only at h9
  cases h9
  repeat' with_reducible
    (first | assumption | apply rootCancel_keeps | apply markerUp_keeps | apply setPart_keeps | (split)
           | (refine Keeps.mk ?_ ?_ ?_ <;> (try dsimp only) <;> first | apply Keeps.pend | apply Keeps.bic (P := P) | apply Keeps.bound (P := P)) | intro _)

theorem compareMark_keeps {P : Nat → Prop} {s0 : State} {p frame step : Nat} {s : State} (h0 : Keeps P s0 s) : Keeps P s0 (compareMark p frame step s) := by
  unfold compareMark; try dsimp only
  repeat' with_reducible
    (first | assumption | apply setPart_keeps | apply outOfStep_keeps | (split)
           | (refine Keeps.mk ?_ ?_ ?_ <;> (try dsimp only) <;> first | apply Keeps.pend | apply Keeps.bic (P := P) | apply Keeps.bound (P := P)) | intro _)

theorem markFailed_keeps {P : Nat → Prop} {s0 : State} {sc : Nat} {s : State} (h0 : Keeps P s0 s) : Keeps P s0 (markFailed sc s) := by
  unfold markFailed; try dsimp only
  repeat' with_reducible
    (first | assumption | apply setPart_keeps | (split)
           | (refine Keeps.mk ?_ ?_ ?_ <;> (try dsimp only) <;> first | apply Keeps.pend | apply Keeps.bic (P := P) | apply Keeps.bound (P := P)) | intro _)

theorem execHorizonMark_keeps {P : Nat → Prop} {s0 u9 : State} {link : Fin 8} {scope : U16} {frame : BitVec 24} {step : U32} {crc : Option Byte}
    {s : State}  (h9 : execHorizonMark link scope frame step crc s = .next u9) (h0 : Keeps P s0 s) : Keeps P s0 u9 := by
  unfold execHorizonMark at h9; try dsimp only at h9
  cases h9
  repeat' with_reducible
    (first | assumption | apply markFailed_keeps | apply countBad_keeps | apply countFailed_keeps | apply emit_keeps | apply compareMark_keeps
           | (apply foldl_keeps <;> (try intro _ _ _)) | (split)
           | (refine Keeps.mk ?_ ?_ ?_ <;> (try dsimp only) <;> first | apply Keeps.pend | apply Keeps.bic (P := P) | apply Keeps.bound (P := P)) | intro _)

end Sys2Proof.Machine
end

