-- ==== Sys2Proof/Laws/KeepsStart.lean ====
section
/-!
SUPPORT. KeepsStart.lean: every operation and meaning of Machine/Start.lean keeps the queue, the BIC and the bounds of
State.Bounded, and, where it stores nothing, every byte of DRAM; one lemma each, stated from any earlier state s0 so that lemmas chain.
-/
namespace Sys2Proof.Machine

theorem setStart_keeps {P : Nat → Prop} {s0 : State} {s : State} {sc : Nat} {q : Option StartSeq} (h0 : Keeps P s0 s) : Keeps P s0 (State.setStart s sc q) := by
  unfold State.setStart; try dsimp only
  repeat' with_reducible
    (first | assumption | apply setScopeSt_keeps
           | (refine Keeps.mk ?_ ?_ ?_ <;> (try dsimp only) <;> first | apply Keeps.pend | apply Keeps.bic (P := P) | apply Keeps.bound (P := P)))

theorem compareFmin_keeps {P : Nat → Prop} {s0 : State} {p : Nat} {s : State} (h0 : Keeps P s0 s) : Keeps P s0 (compareFmin p s) := by
  unfold compareFmin; try dsimp only
  repeat' with_reducible
    (first | assumption | apply logRec_keeps | (split)
           | (refine Keeps.mk ?_ ?_ ?_ <;> (try dsimp only) <;> first | apply Keeps.pend | apply Keeps.bic (P := P) | apply Keeps.bound (P := P)) | intro _)

theorem enterCalibrate_keeps {P : Nat → Prop} {s0 : State} {n : Nat} {s : State} (h0 : Keeps P s0 s) : Keeps P s0 (enterCalibrate n s) := by
  unfold enterCalibrate; try dsimp only
  repeat' with_reducible
    (first | assumption | apply setLane_keeps
           | (refine Keeps.mk ?_ ?_ ?_ <;> (try dsimp only) <;> first | apply Keeps.pend | apply Keeps.bic (P := P) | apply Keeps.bound (P := P)))

theorem laneReady_keeps {P : Nat → Prop} {s0 : State} {n : Nat} {s : State} (h0 : Keeps P s0 s) : Keeps P s0 (laneReady n s) := by
  unfold laneReady; try dsimp only
  repeat' with_reducible
    (first | assumption | apply setLane_keeps | apply enterCalibrate_keeps | (split)
           | (refine Keeps.mk ?_ ?_ ?_ <;> (try dsimp only) <;> first | apply Keeps.pend | apply Keeps.bic (P := P) | apply Keeps.bound (P := P)) | intro _)

theorem dropDue_keeps {P : Nat → Prop} {s0 : State} {n : Nat} {s : State} (h0 : Keeps P s0 s) : Keeps P s0 (dropDue n s) := by
  unfold dropDue; try dsimp only
  repeat' with_reducible
    (first | assumption | (refine Keeps.mk ?_ ?_ ?_ <;> (try dsimp only) <;> first | apply Keeps.pend | apply Keeps.bic (P := P) | apply Keeps.bound (P := P))
           | intro _)

theorem outOfService_keeps {P : Nat → Prop} {s0 : State} {n : Nat} {s : State} (h0 : Keeps P s0 s) : Keeps P s0 (outOfService n s) := by
  unfold outOfService; try dsimp only
  repeat' with_reducible
    (first | assumption | apply dropDue_keeps | apply raiseHold_keeps | (split)
           | (refine Keeps.mk ?_ ?_ ?_ <;> (try dsimp only) <;> first | apply Keeps.pend | apply Keeps.bic (P := P) | apply Keeps.bound (P := P)) | intro _)

theorem phaseEvent_keeps {P : Nat → Prop} {s0 : State} {p n : Nat} {s : State} (h0 : Keeps P s0 s) : Keeps P s0 (phaseEvent p n s) := by
  unfold phaseEvent; try dsimp only
  repeat' with_reducible
    (first | assumption | apply partEvent_keeps | (split)
           | (refine Keeps.mk ?_ ?_ ?_ <;> (try dsimp only) <;> first | apply Keeps.pend | apply Keeps.bic (P := P) | apply Keeps.bound (P := P)) | intro _)

theorem finishSwitch_keeps {P : Nat → Prop} {s0 : State} {p : Nat} {s : State} (h0 : Keeps P s0 s) : Keeps P s0 (finishSwitch p s) := by
  unfold finishSwitch; try dsimp only
  repeat' with_reducible
    (first | assumption | apply complete_keeps | apply setPart_keeps | (split)
           | (refine Keeps.mk ?_ ?_ ?_ <;> (try dsimp only) <;> first | apply Keeps.pend | apply Keeps.bic (P := P) | apply Keeps.bound (P := P)) | intro _)

theorem queueSliceSave_keeps {P : Nat → Prop} {s0 : State} {eng p : Nat} {w : Switch} {r : CastRec} {s : State} (h0 : Keeps P s0 s)
    : Keeps P s0 (queueSliceSave eng p w r s) := by
  unfold queueSliceSave; try dsimp only
  repeat' with_reducible
    (first | assumption | apply enqueue_keeps | apply setLists_keeps | (split)
           | (refine Keeps.mk ?_ ?_ ?_ <;> (try dsimp only) <;> first | apply Keeps.pend | apply Keeps.bic (P := P) | apply Keeps.bound (P := P)) | intro _)

theorem failSwitch_keeps {P : Nat → Prop} {s0 : State} {p phase cause : Nat} {s : State} (h0 : Keeps P s0 s) : Keeps P s0 (failSwitch p phase cause s) := by
  unfold failSwitch; try dsimp only
  repeat' with_reducible
    (first | assumption | apply complete_keeps | apply setPart_keeps | apply queueSliceSave_keeps | (split)
           | (refine Keeps.mk ?_ ?_ ?_ <;> (try dsimp only) <;> first | apply Keeps.pend | apply Keeps.bic (P := P) | apply Keeps.bound (P := P)) | intro _)

theorem abortMember_keeps {P : Nat → Prop} {s0 : State} {p status : Nat} {bytes : List Byte} {addr : Nat} {s : State} (h0 : Keeps P s0 s)
    : Keeps P s0 (abortMember p status bytes addr s) := by
  unfold abortMember; try dsimp only
  repeat' with_reducible
    (first | assumption | apply setPart_keeps | apply setLane_keeps | apply failSwitch_keeps | apply completeOpt_keeps
           | (apply foldl_keeps <;> (try intro _ _ _)) | (apply foldl_keeps2 <;> (try intro _ _ _) <;> (try dsimp only))
           | (apply foldl_keeps3 <;> (try intro _ _ _) <;> (try dsimp only)) | (split)
           | (refine Keeps.mk ?_ ?_ ?_ <;> (try dsimp only) <;> first | apply Keeps.pend | apply Keeps.bic (P := P) | apply Keeps.bound (P := P)) | intro _)

theorem abortHere_keeps {P : Nat → Prop} {s0 : State} {sc check addr status : Nat} {s : State} (h0 : Keeps P s0 s)
    : Keeps P s0 (abortHere sc check addr status s) := by
  unfold abortHere; try dsimp only
  repeat' with_reducible
    (first | assumption | apply abortMember_keeps | apply setPart_keeps | apply setStart_keeps | (split)
           | (refine Keeps.mk ?_ ?_ ?_ <;> (try dsimp only) <;> first | apply Keeps.pend | apply Keeps.bic (P := P) | apply Keeps.bound (P := P)) | intro _)

theorem rootAbort_keeps {P : Nat → Prop} {s0 : State} {sc check addr status : Nat} {s : State} (h0 : Keeps P s0 s)
    : Keeps P s0 (rootAbort sc check addr status s) := by
  unfold rootAbort; try dsimp only
  repeat' with_reducible
    (first | assumption | apply abortHere_keeps | apply markerDown_keeps)

theorem failStart_keeps {P : Nat → Prop} {s0 : State} {p : Nat} {r : StartRefusal} {s : State} (h0 : Keeps P s0 s) : Keeps P s0 (failStart p r s) := by
  unfold failStart; try dsimp only
  repeat' with_reducible
    (first | assumption | apply setPart_keeps | apply rootAbort_keeps | apply markerUp_keeps | (split)
           | (refine Keeps.mk ?_ ?_ ?_ <;> (try dsimp only) <;> first | apply Keeps.pend | apply Keeps.bic (P := P) | apply Keeps.bound (P := P)) | intro _)

theorem writeInitial_keeps {P : Nat → Prop} {s0 : State} {p b : Nat} {s : State} (h0 : Keeps P s0 s) : Keeps P s0 (writeInitial p b s) := by
  unfold writeInitial; try dsimp only
  repeat' with_reducible
    (first | assumption | (refine Keeps.mk ?_ ?_ ?_ <;> (try dsimp only) <;> first | apply Keeps.pend | apply Keeps.bic (P := P) | apply Keeps.bound (P := P))
           | intro _)

theorem stageConst_keeps {P : Nat → Prop} {s0 : State} {p : Nat} {k : FrameNo} {s : State} (h0 : Keeps P s0 s) : Keeps P s0 (stageConst p k s) := by
  unfold stageConst; try dsimp only
  repeat' with_reducible
    (first | assumption | (refine Keeps.mk ?_ ?_ ?_ <;> (try dsimp only) <;> first | apply Keeps.pend | apply Keeps.bic (P := P) | apply Keeps.bound (P := P))
           | intro _)

theorem prepareBanks_keeps {P : Nat → Prop} {s0 : State} {p : Nat} {s : State} (h0 : Keeps P s0 s) : Keeps P s0 (prepareBanks p s) := by
  unfold prepareBanks; try dsimp only
  repeat' with_reducible
    (first | assumption | apply clearBanks_keeps | apply writeInitial_keeps | apply fetchEntry_keeps
           | refine fetchEntry_keeps_eq (by assumption) ?_ | apply stageConst_keeps | (apply foldl_keeps <;> (try intro _ _ _))
           | (apply foldl_keeps2 <;> (try intro _ _ _) <;> (try dsimp only)) | (apply foldl_keeps3 <;> (try intro _ _ _) <;> (try dsimp only))
           | (split) | (refine Keeps.mk ?_ ?_ ?_ <;> (try dsimp only) <;> first | apply Keeps.pend | apply Keeps.bic (P := P) | apply Keeps.bound (P := P))
           | intro _)

theorem toggleSlices_keeps {P : Nat → Prop} {s0 : State} {x : Partition} {s : State} (h0 : Keeps P s0 s) : Keeps P s0 (toggleSlices x s) := by
  unfold toggleSlices; try dsimp only
  repeat' with_reducible
    (first | assumption | apply setSlice_keeps | (apply foldl_keeps <;> (try intro _ _ _))
           | (apply foldl_keeps2 <;> (try intro _ _ _) <;> (try dsimp only)) | (apply foldl_keeps3 <;> (try intro _ _ _) <;> (try dsimp only))
           | (refine Keeps.mk ?_ ?_ ?_ <;> (try dsimp only) <;> first | apply Keeps.pend | apply Keeps.bic (P := P) | apply Keeps.bound (P := P)) | intro _)

theorem activateLanes_keeps {P : Nat → Prop} {s0 : State} {x : Partition} {s : State} (h0 : Keeps P s0 s) : Keeps P s0 (activateLanes x s) := by
  unfold activateLanes; try dsimp only
  repeat' with_reducible
    (first | assumption | apply setLane_keeps | (apply foldl_keeps <;> (try intro _ _ _))
           | (apply foldl_keeps2 <;> (try intro _ _ _) <;> (try dsimp only)) | (apply foldl_keeps3 <;> (try intro _ _ _) <;> (try dsimp only))
           | (refine Keeps.mk ?_ ?_ ?_ <;> (try dsimp only) <;> first | apply Keeps.pend | apply Keeps.bic (P := P) | apply Keeps.bound (P := P)) | intro _)

theorem freshBanks_keeps {P : Nat → Prop} {s0 : State} {x : Partition} {b s : State} (h0 : Keeps P s0 s) : Keeps P s0 (freshBanks x b s) := by
  unfold freshBanks
  exact foldl_keeps (fun a n h => setSlice_keeps h) h0

theorem startTick_keeps {P : Nat → Prop} {s0 : State} {p g : Nat} {s : State} (h0 : Keeps P s0 s) : Keeps P s0 (startTick p g s) := by
  unfold startTick
  extract_lets x k ctx regs r1 s1 fresh q1 q2 s2 toggles q3 s3 s4 s5 s6 y
  have k1 : Keeps P s0 s1 := by
    have h1 : Keeps P s0 r1 := foldl_keeps (fun a e h => resetRegion_keeps h) h0
    exact ite_keeps h0 (ite_keeps (freshBanks_keeps h1) h1)
  clear_value s1
  have k3 : Keeps P s0 s3 := activateLanes_keeps (setPart_keeps ⟨k1.pend, k1.bic, k1.bound⟩)
  clear_value s3
  have k4 : Keeps P s0 s4 := ite_keeps (toggleSlices_keeps k3) k3
  clear_value s4
  have k6 : Keeps P s0 s6 :=
    completeOpt_keeps (refreshDigest_keeps (foldl_keeps (fun a e h => ite_keeps h (outOfService_keeps h)) (beginFrame_keeps k4)))
  clear_value s6 y
  split
  · exact finishSwitch_keeps (phaseEvent_keeps (setPart_keeps (ite_keeps (phaseEvent_keeps k6) k6)))
  · exact k6

theorem execHorizonTick_keeps {P : Nat → Prop} {s0 u9 : State} {part : Fin 4} {s : State}  (h9 : execHorizonTick part s = .next u9) (h0 : Keeps P s0 s)
    : Keeps P s0 u9 := by
  unfold execHorizonTick at h9; try dsimp only at h9
  cases h9
  repeat' with_reducible
    (first | assumption | apply startTick_keeps | apply refreshDigest_keeps | apply boundary_keeps | (split))

theorem takeParams_keeps {P : Nat → Prop} {s0 : State} {p v vdown lin : Nat} {s : State} (h0 : Keeps P s0 s) : Keeps P s0 (takeParams p v vdown lin s) := by
  unfold takeParams; try dsimp only
  repeat' with_reducible
    (first | assumption | apply compareFmin_keeps | apply setPart_keeps | apply failStart_keeps | apply prepareBanks_keeps | apply setStart_keeps
           | (split) | (refine Keeps.mk ?_ ?_ ?_ <;> (try dsimp only) <;> first | apply Keeps.pend | apply Keeps.bic (P := P) | apply Keeps.bound (P := P))
           | intro _)

theorem rootStart_keeps {P : Nat → Prop} {s0 : State} {p : Nat} {s : State} (h0 : Keeps P s0 s) : Keeps P s0 (rootStart p s) := by
  unfold rootStart; try dsimp only
  repeat' with_reducible
    (first | assumption | apply markerDown_keeps | apply setPart_keeps
           | (refine Keeps.mk ?_ ?_ ?_ <;> (try dsimp only) <;> first | apply Keeps.pend | apply Keeps.bic (P := P) | apply Keeps.bound (P := P)) | intro _)

theorem advanceReady_keeps {P : Nat → Prop} {s0 : State} {sc : Nat} {s : State} (h0 : Keeps P s0 s) : Keeps P s0 (advanceReady sc s) := by
  unfold advanceReady; try dsimp only
  repeat' with_reducible
    (first | assumption | apply setStart_keeps | apply rootStart_keeps | apply markerUp_keeps | (split)
           | (refine Keeps.mk ?_ ?_ ?_ <;> (try dsimp only) <;> first | apply Keeps.pend | apply Keeps.bic (P := P) | apply Keeps.bound (P := P)) | intro _)

theorem newLatency_keeps {P : Nat → Prop} {s0 : State} {p v vdown : Nat} {s : State} (h0 : Keeps P s0 s) : Keeps P s0 (newLatency p v vdown s) := by
  unfold newLatency; try dsimp only
  repeat' with_reducible
    (first | assumption | apply setPart_keeps | apply partEvent_keeps | apply raiseHold_keeps | apply resolveHold_keeps | (split)
           | (refine Keeps.mk ?_ ?_ ?_ <;> (try dsimp only) <;> first | apply Keeps.pend | apply Keeps.bic (P := P) | apply Keeps.bound (P := P)) | intro _)

theorem rootParams_keeps {P : Nat → Prop} {s0 : State} {p : Nat} {s : State} (h0 : Keeps P s0 s) : Keeps P s0 (rootParams p s) := by
  unfold rootParams; try dsimp only
  repeat' with_reducible
    (first | assumption | apply newLatency_keeps | apply advanceReady_keeps | apply takeParams_keeps | apply markerDown_keeps | (split))

theorem advanceDown_keeps {P : Nat → Prop} {s0 : State} {sc : Nat} {s : State} (h0 : Keeps P s0 s) : Keeps P s0 (advanceDown sc s) := by
  unfold advanceDown; try dsimp only
  repeat' with_reducible
    (first | assumption | apply setStart_keeps | apply rootParams_keeps | apply markerUp_keeps | (split)
           | (refine Keeps.mk ?_ ?_ ?_ <;> (try dsimp only) <;> first | apply Keeps.pend | apply Keeps.bic (P := P) | apply Keeps.bound (P := P)) | intro _)

theorem advanceUp_keeps {P : Nat → Prop} {s0 : State} {sc : Nat} {s : State} (h0 : Keeps P s0 s) : Keeps P s0 (advanceUp sc s) := by
  unfold advanceUp; try dsimp only
  repeat' with_reducible
    (first | assumption | apply setScopeSt_keeps | apply markerUp_keeps | (apply foldl_keeps <;> (try intro _ _ _))
           | (apply foldl_keeps2 <;> (try intro _ _ _) <;> (try dsimp only)) | (apply foldl_keeps3 <;> (try intro _ _ _) <;> (try dsimp only))
           | (split) | (refine Keeps.mk ?_ ?_ ?_ <;> (try dsimp only) <;> first | apply Keeps.pend | apply Keeps.bic (P := P) | apply Keeps.bound (P := P))
           | intro _)

theorem sendMeasure_keeps {P : Nat → Prop} {s0 : State} {sc arg : Nat} {q : StartSeq} {s : State} (h0 : Keeps P s0 s)
    : Keeps P s0 (sendMeasure sc arg q s) := by
  unfold sendMeasure; try dsimp only
  repeat' with_reducible
    (first | assumption | apply sendTwice_keeps | apply setStart_keeps | (apply foldl_keeps <;> (try intro _ _ _))
           | (refine Keeps.mk ?_ ?_ ?_ <;> (try dsimp only) <;> first | apply Keeps.pend | apply Keeps.bic (P := P) | apply Keeps.bound (P := P)) | intro _)

theorem advance_keeps {P : Nat → Prop} {s0 : State} {sc : Nat} {s : State} (h0 : Keeps P s0 s) : Keeps P s0 (advance sc s) := by
  unfold advance; try dsimp only
  repeat' with_reducible
    (first | assumption | apply advanceReady_keeps | apply advanceDown_keeps | apply advanceUp_keeps)

theorem rootMeasure_keeps {P : Nat → Prop} {s0 : State} {p : Nat} {s : State} (h0 : Keeps P s0 s) : Keeps P s0 (rootMeasure p s) := by
  unfold rootMeasure; try dsimp only
  repeat' with_reducible
    (first | assumption | apply advance_keeps | apply sendMeasure_keeps | (split)
           | (refine Keeps.mk ?_ ?_ ?_ <;> (try dsimp only) <;> first | apply Keeps.pend | apply Keeps.bic (P := P) | apply Keeps.bound (P := P)))

theorem remeasure_keeps {P : Nat → Prop} {s0 : State} {p : Nat} {s : State} (h0 : Keeps P s0 s) : Keeps P s0 (remeasure p s) := by
  unfold remeasure; try dsimp only
  repeat' with_reducible
    (first | assumption | apply rootMeasure_keeps | apply setPart_keeps | (split)
           | (refine Keeps.mk ?_ ?_ ?_ <;> (try dsimp only) <;> first | apply Keeps.pend | apply Keeps.bic (P := P) | apply Keeps.bound (P := P)) | intro _)

theorem beginStart_keeps {P : Nat → Prop} {s0 : State} {p : Nat} {ctx : Option CmdCtx} {s : State} (h0 : Keeps P s0 s) : Keeps P s0 (beginStart p ctx s) := by
  unfold beginStart; try dsimp only
  repeat' with_reducible
    (first | assumption | apply setPart_keeps | apply failStart_keeps | apply setStart_keeps | apply enterCalibrate_keeps | apply advance_keeps
           | apply rootMeasure_keeps | apply markerUp_keeps | (apply foldl_keeps <;> (try intro _ _ _))
           | (apply foldl_keeps2 <;> (try intro _ _ _) <;> (try dsimp only)) | (apply foldl_keeps3 <;> (try intro _ _ _) <;> (try dsimp only))
           | (split) | (refine Keeps.mk ?_ ?_ ?_ <;> (try dsimp only) <;> first | apply Keeps.pend | apply Keeps.bic (P := P) | apply Keeps.bound (P := P))
           | intro _)

theorem execMeasureMarker_keeps {P : Nat → Prop} {s0 u9 : State} {link : Fin 8} {m : Marker} {s : State}  (h9 : execMeasureMarker link m s = .next u9) (h0
    : Keeps P s0 s) : Keeps P s0 u9 := by
  unfold execMeasureMarker at h9; try dsimp only at h9
  cases h9
  repeat' with_reducible
    (first | assumption | apply receive_keeps | apply advance_keeps | apply sendMeasure_keeps | (split)
           | (refine Keeps.mk ?_ ?_ ?_ <;> (try dsimp only) <;> first | apply Keeps.pend | apply Keeps.bic (P := P) | apply Keeps.bound (P := P)) | intro _)

theorem execUplatMarker_keeps {P : Nat → Prop} {s0 u9 : State} {link : Fin 8} {m : Marker} {s : State}  (h9 : execUplatMarker link m s = .next u9) (h0
    : Keeps P s0 s) : Keeps P s0 u9 := by
  unfold execUplatMarker at h9; try dsimp only at h9
  cases h9
  repeat' with_reducible
    (first | assumption | apply receive_keeps | apply advance_keeps | apply setStart_keeps | (split)
           | (refine Keeps.mk ?_ ?_ ?_ <;> (try dsimp only) <;> first | apply Keeps.pend | apply Keeps.bic (P := P) | apply Keeps.bound (P := P)) | intro _)

theorem execDownmaxMarker_keeps {P : Nat → Prop} {s0 u9 : State} {link : Fin 8} {m : Marker} {s : State}  (h9 : execDownmaxMarker link m s = .next u9) (h0
    : Keeps P s0 s) : Keeps P s0 u9 := by
  unfold execDownmaxMarker at h9; try dsimp only at h9
  cases h9
  repeat' with_reducible
    (first | assumption | apply receive_keeps | apply advance_keeps | apply setStart_keeps
           | (refine Keeps.mk ?_ ?_ ?_ <;> (try dsimp only) <;> first | apply Keeps.pend | apply Keeps.bic (P := P) | apply Keeps.bound (P := P)) | intro _)

theorem execStartReqMarker_keeps {P : Nat → Prop} {s0 u9 : State} {link : Fin 8} {m : Marker} {s : State}  (h9 : execStartReqMarker link m s = .next u9)
 (h0 : Keeps P s0 s) : Keeps P s0 u9 := by
  unfold execStartReqMarker at h9; try dsimp only at h9
  cases h9
  repeat' with_reducible
    (first | assumption | apply receive_keeps | apply rootMeasure_keeps | apply passUp_keeps | apply setStart_keeps | (split)
           | (refine Keeps.mk ?_ ?_ ?_ <;> (try dsimp only) <;> first | apply Keeps.pend | apply Keeps.bic (P := P) | apply Keeps.bound (P := P)) | intro _)

theorem execParamsMarker_keeps {P : Nat → Prop} {s0 u9 : State} {link : Fin 8} {m : Marker} {s : State}  (h9 : execParamsMarker link m s = .next u9) (h0
    : Keeps P s0 s) : Keeps P s0 u9 := by
  unfold execParamsMarker at h9; try dsimp only at h9
  cases h9
  repeat' with_reducible
    (first | assumption | apply receive_keeps | apply passDown_keeps | apply advance_keeps | apply takeParams_keeps | apply setScopeSt_keeps
           | (split) | (refine Keeps.mk ?_ ?_ ?_ <;> (try dsimp only) <;> first | apply Keeps.pend | apply Keeps.bic (P := P) | apply Keeps.bound (P := P))
           | intro _)

theorem execReadyMarker_keeps {P : Nat → Prop} {s0 u9 : State} {link : Fin 8} {m : Marker} {s : State}  (h9 : execReadyMarker link m s = .next u9) (h0
    : Keeps P s0 s) : Keeps P s0 u9 := by
  unfold execReadyMarker at h9; try dsimp only at h9
  cases h9
  repeat' with_reducible
    (first | assumption | apply receive_keeps | apply advance_keeps | apply setStart_keeps
           | (refine Keeps.mk ?_ ?_ ?_ <;> (try dsimp only) <;> first | apply Keeps.pend | apply Keeps.bic (P := P) | apply Keeps.bound (P := P)) | intro _)

theorem execStartMarker_keeps {P : Nat → Prop} {s0 u9 : State} {link : Fin 8} {m : Marker} {s : State}  (h9 : execStartMarker link m s = .next u9) (h0
    : Keeps P s0 s) : Keeps P s0 u9 := by
  unfold execStartMarker at h9; try dsimp only at h9
  cases h9
  repeat' with_reducible
    (first | assumption | apply receive_keeps | apply passDown_keeps | apply setPart_keeps | apply setStart_keeps | (split)
           | (refine Keeps.mk ?_ ?_ ?_ <;> (try dsimp only) <;> first | apply Keeps.pend | apply Keeps.bic (P := P) | apply Keeps.bound (P := P)) | intro _)

theorem execStartFailMarker_keeps {P : Nat → Prop} {s0 u9 : State} {link : Fin 8} {m : Marker} {s : State}  (h9 : execStartFailMarker link m s = .next u9)
 (h0 : Keeps P s0 s) : Keeps P s0 u9 := by
  unfold execStartFailMarker at h9; try dsimp only at h9
  cases h9
  repeat' with_reducible
    (first | assumption | apply receive_keeps | apply rootAbort_keeps | apply passUp_keeps | (split) | intro _)

theorem execStartAbortMarker_keeps {P : Nat → Prop} {s0 u9 : State} {link : Fin 8} {m : Marker} {s : State}
    (h9 : execStartAbortMarker link m s = .next u9) (h0 : Keeps P s0 s) : Keeps P s0 u9 := by
  unfold execStartAbortMarker at h9; try dsimp only at h9
  cases h9
  repeat' with_reducible
    (first | assumption | apply receive_keeps | apply abortHere_keeps | apply passDown_keeps | intro _)

theorem execStartTimeout_keeps {P : Nat → Prop} {s0 u9 : State} {part : Fin 4} {s : State}  (h9 : execStartTimeout part s = .next u9) (h0 : Keeps P s0 s)
    : Keeps P s0 u9 := by
  unfold execStartTimeout at h9; try dsimp only at h9
  cases h9
  repeat' with_reducible
    (first | assumption | apply rootAbort_keeps | (split)
           | (refine Keeps.mk ?_ ?_ ?_ <;> (try dsimp only) <;> first | apply Keeps.pend | apply Keeps.bic (P := P) | apply Keeps.bound (P := P)) | intro _)

end Sys2Proof.Machine
end

