-- ==== Sys2Proof/Laws/KeepsLanes.lean ====
section
/-!
SUPPORT. KeepsLanes.lean: every operation and meaning of Machine/Lanes.lean keeps the queue, the BIC and the bounds of
State.Bounded, and, where it stores nothing, every byte of DRAM; one lemma each, stated from any earlier state s0 so that lemmas chain.
-/
namespace Sys2Proof.Machine

theorem laneLog_keeps {P : Nat → Prop} {s0 : State} {cause sev n : Nat} {s : State} (h0 : Keeps P s0 s) : Keeps P s0 (laneLog cause sev n s) := by
  unfold laneLog; try dsimp only
  repeat' with_reducible
    (first | assumption | apply logRec_keeps)

theorem moveLane_keeps {P : Nat → Prop} {s0 : State} {n : Nat} {st : LaneSt} {s : State} (h0 : Keeps P s0 s) : Keeps P s0 (moveLane n st s) := by
  unfold moveLane; try dsimp only
  repeat' with_reducible
    (first | assumption | apply setLane_keeps
           | (refine Keeps.mk ?_ ?_ ?_ <;> (try dsimp only) <;> first | apply Keeps.pend | apply Keeps.bic (P := P) | apply Keeps.bound (P := P)))

theorem clearCoast_keeps {P : Nat → Prop} {s0 : State} {p : Nat} {s : State} (h0 : Keeps P s0 s) : Keeps P s0 (clearCoast p s) := by
  unfold clearCoast; try dsimp only
  repeat' with_reducible
    (first | assumption | apply resolveHold_keeps | (split))

theorem inService_keeps {P : Nat → Prop} {s0 : State} {n : Nat} {s : State} (h0 : Keeps P s0 s) : Keeps P s0 (inService n s) := by
  unfold inService; try dsimp only
  repeat' with_reducible
    (first | assumption | apply clearCoast_keeps | apply resolveHold_keeps | (split)
           | (refine Keeps.mk ?_ ?_ ?_ <;> (try dsimp only) <;> first | apply Keeps.pend | apply Keeps.bic (P := P) | apply Keeps.bound (P := P)) | intro _)

theorem narrow_keeps {P : Nat → Prop} {s0 : State} {s : State} (h0 : Keeps P s0 s) : Keeps P s0 (narrow s) := by
  unfold narrow; try dsimp only
  repeat' with_reducible
    (first | assumption | apply setBlink_keeps | (split)
           | (refine Keeps.mk ?_ ?_ ?_ <;> (try dsimp only) <;> first | apply Keeps.pend | apply Keeps.bic (P := P) | apply Keeps.bound (P := P)))

theorem enterTrain_keeps {P : Nat → Prop} {s0 : State} {n : Nat} {s : State} (h0 : Keeps P s0 s) : Keeps P s0 (enterTrain n s) := by
  unfold enterTrain; try dsimp only
  repeat' with_reducible
    (first | assumption | apply setLane_keeps
           | (refine Keeps.mk ?_ ?_ ?_ <;> (try dsimp only) <;> first | apply Keeps.pend | apply Keeps.bic (P := P) | apply Keeps.bound (P := P)))

theorem enterHunt_keeps {P : Nat → Prop} {s0 : State} {n : Nat} {waking : Bool} {s : State} (h0 : Keeps P s0 s) : Keeps P s0 (enterHunt n waking s) := by
  unfold enterHunt; try dsimp only
  repeat' with_reducible
    (first | assumption | apply setLane_keeps
           | (refine Keeps.mk ?_ ?_ ?_ <;> (try dsimp only) <;> first | apply Keeps.pend | apply Keeps.bic (P := P) | apply Keeps.bound (P := P)))

theorem setDown_keeps {P : Nat → Prop} {s0 : State} {n : Nat} {s : State} (h0 : Keeps P s0 s) : Keeps P s0 (setDown n s) := by
  unfold setDown; try dsimp only
  repeat' with_reducible
    (first | assumption | apply setLane_keeps | apply narrow_keeps | apply failStart_keeps | (split)
           | (refine Keeps.mk ?_ ?_ ?_ <;> (try dsimp only) <;> first | apply Keeps.pend | apply Keeps.bic (P := P) | apply Keeps.bound (P := P)) | intro _)

theorem answerRetrain_keeps {P : Nat → Prop} {s0 : State} {k status : Nat} {s : State} (h0 : Keeps P s0 s) : Keeps P s0 (answerRetrain k status s) := by
  unfold answerRetrain; try dsimp only
  repeat' with_reducible
    (first | assumption | apply reply_keeps | apply endAct_keeps | apply setLink_keeps | (split)
           | (refine Keeps.mk ?_ ?_ ?_ <;> (try dsimp only) <;> first | apply Keeps.pend | apply Keeps.bic (P := P) | apply Keeps.bound (P := P)) | intro _)

theorem laneDown_keeps {P : Nat → Prop} {s0 : State} {n : Nat} {s : State} (h0 : Keeps P s0 s) : Keeps P s0 (laneDown n s) := by
  unfold laneDown; try dsimp only
  repeat' with_reducible
    (first | assumption | apply logEvent_keeps | apply setDown_keeps | apply answerRetrain_keeps | (split))

theorem enterRecover_keeps {P : Nat → Prop} {s0 : State} {n : Nat} {s : State} (h0 : Keeps P s0 s) : Keeps P s0 (enterRecover n s) := by
  unfold enterRecover; try dsimp only
  repeat' with_reducible
    (first | assumption | apply laneDown_keeps | apply setLane_keeps | (split)
           | (refine Keeps.mk ?_ ?_ ?_ <;> (try dsimp only) <;> first | apply Keeps.pend | apply Keeps.bic (P := P) | apply Keeps.bound (P := P)))

theorem queueControl_keeps {P : Nat → Prop} {s0 : State} {payload : BitVec 72} {s : State} {n : Nat} (h0 : Keeps P s0 s)
    : Keeps P s0 (queueControl payload s n) := by
  unfold queueControl; try dsimp only
  repeat' with_reducible
    (first | assumption | apply setLane_keeps
           | (refine Keeps.mk ?_ ?_ ?_ <;> (try dsimp only) <;> first | apply Keeps.pend | apply Keeps.bic (P := P) | apply Keeps.bound (P := P)))

theorem leaveActive_keeps {P : Nat → Prop} {s0 : State} {mask : Nat} {s : State} {n : Nat} (h0 : Keeps P s0 s) : Keeps P s0 (leaveActive mask s n) := by
  unfold leaveActive; try dsimp only
  repeat' with_reducible
    (first | assumption | apply moveLane_keeps | apply laneReady_keeps | apply outOfService_keeps | (split))

theorem sendRequest_keeps {P : Nat → Prop} {s0 : State} {k : Nat} {r : LinkReq} {s : State} (h0 : Keeps P s0 s) : Keeps P s0 (sendRequest k r s) := by
  unfold sendRequest; try dsimp only
  repeat' with_reducible
    (first | assumption | apply setBlink_keeps | apply leaveActive_keeps | apply queueControl_keeps | (apply foldl_keeps <;> (try intro _ _ _))
           | (apply foldl_keeps2 <;> (try intro _ _ _) <;> (try dsimp only)) | (apply foldl_keeps3 <;> (try intro _ _ _) <;> (try dsimp only))
           | (refine Keeps.mk ?_ ?_ ?_ <;> (try dsimp only) <;> first | apply Keeps.pend | apply Keeps.bic (P := P) | apply Keeps.bound (P := P)))

theorem applyChangeAt_keeps {P : Nat → Prop} {s0 : State} {k : Nat} {r : LinkReq} {s : State} (h0 : Keeps P s0 s) : Keeps P s0 (applyChangeAt k r s) := by
  unfold applyChangeAt; try dsimp only
  repeat' with_reducible
    (first | assumption | apply setBlink_keeps | apply setLane_keeps | apply outOfService_keeps | apply enterTrain_keeps
           | (apply foldl_keeps <;> (try intro _ _ _)) | (apply foldl_keeps2 <;> (try intro _ _ _) <;> (try dsimp only))
           | (apply foldl_keeps3 <;> (try intro _ _ _) <;> (try dsimp only)) | (split)
           | (refine Keeps.mk ?_ ?_ ?_ <;> (try dsimp only) <;> first | apply Keeps.pend | apply Keeps.bic (P := P) | apply Keeps.bound (P := P)) | intro _)

theorem endRequest_keeps {P : Nat → Prop} {s0 : State} {k : Nat} {status : Nat} {s : State} (h0 : Keeps P s0 s) : Keeps P s0 (endRequest k status s) := by
  unfold endRequest; try dsimp only
  repeat' with_reducible
    (first | assumption | apply endAct_keeps | apply setBlink_keeps | apply reply_keeps | (split)
           | (refine Keeps.mk ?_ ?_ ?_ <;> (try dsimp only) <;> first | apply Keeps.pend | apply Keeps.bic (P := P) | apply Keeps.bound (P := P)) | intro _)

theorem settleLink_keeps {P : Nat → Prop} {s0 : State} {k : Nat} {s : State} (h0 : Keeps P s0 s) : Keeps P s0 (settleLink k s) := by
  unfold settleLink; try dsimp only
  repeat' with_reducible
    (first | assumption | apply endRequest_keeps | apply setBlink_keeps | apply endAct_keeps | (split)
           | (refine Keeps.mk ?_ ?_ ?_ <;> (try dsimp only) <;> first | apply Keeps.pend | apply Keeps.bic (P := P) | apply Keeps.bound (P := P)) | intro _)

theorem settleLane_keeps {P : Nat → Prop} {s0 : State} {n : Nat} {s : State} (h0 : Keeps P s0 s) : Keeps P s0 (settleLane n s) := by
  unfold settleLane; try dsimp only
  repeat' with_reducible
    (first | assumption | apply settleLink_keeps | (split))

theorem openRequest_keeps {P : Nat → Prop} {s0 : State} {k op width mask : Nat} {ctx : Option CmdCtx} {s : State} (h0 : Keeps P s0 s)
    : Keeps P s0 (openRequest k op width mask ctx s) := by
  unfold openRequest; try dsimp only
  repeat' with_reducible
    (first | assumption | apply startAct_keeps | apply settleLink_keeps | apply applyChangeAt_keeps | apply setBlink_keeps
           | apply sendRequest_keeps | (split)
           | (refine Keeps.mk ?_ ?_ ?_ <;> (try dsimp only) <;> first | apply Keeps.pend | apply Keeps.bic (P := P) | apply Keeps.bound (P := P)))

theorem autoRetrain_keeps {P : Nat → Prop} {s0 : State} {n : Nat} {s : State} (h0 : Keeps P s0 s) : Keeps P s0 (autoRetrain n s) := by
  unfold autoRetrain; try dsimp only
  repeat' with_reducible
    (first | assumption | apply openRequest_keeps | (split))

theorem restartLane_keeps {P : Nat → Prop} {s0 : State} {s : State} {n : Nat} (h0 : Keeps P s0 s) : Keeps P s0 (restartLane s n) := by
  unfold restartLane; try dsimp only
  repeat' with_reducible
    (first | assumption | apply enterHunt_keeps | apply enterTrain_keeps | apply startAct_keeps | (split) | intro _)

theorem loseLock_keeps {P : Nat → Prop} {s0 : State} {n : Nat} {s : State} (h0 : Keeps P s0 s) : Keeps P s0 (loseLock n s) := by
  unfold loseLock; try dsimp only
  repeat' with_reducible
    (first | assumption | apply enterHunt_keeps | apply laneLog_keeps | apply bump_keeps | apply autoRetrain_keeps | apply outOfService_keeps
           | (split))

theorem slipLane_keeps {P : Nat → Prop} {s0 : State} {n : Nat} {s : State} (h0 : Keeps P s0 s) : Keeps P s0 (slipLane n s) := by
  unfold slipLane; try dsimp only
  repeat' with_reducible
    (first | assumption | apply autoRetrain_keeps | apply outOfService_keeps | apply enterTrain_keeps | apply laneLog_keeps | apply bump_keeps)

theorem calFail_keeps {P : Nat → Prop} {s0 : State} {n check peer : Nat} {s : State} (h0 : Keeps P s0 s) : Keeps P s0 (calFail n check peer s) := by
  unfold calFail; try dsimp only
  repeat' with_reducible
    (first | assumption | apply failStart_keeps | apply laneDown_keeps | (split)
           | (refine Keeps.mk ?_ ?_ ?_ <;> (try dsimp only) <;> first | apply Keeps.pend | apply Keeps.bic (P := P) | apply Keeps.bound (P := P)) | intro _)

theorem relabelHold_keeps {P : Nat → Prop} {s0 : State} {p unit : Nat} {s : State} (h0 : Keeps P s0 s) : Keeps P s0 (relabelHold p unit s) := by
  unfold relabelHold; try dsimp only
  repeat' with_reducible
    (first | assumption | apply setPart_keeps | (split)
           | (refine Keeps.mk ?_ ?_ ?_ <;> (try dsimp only) <;> first | apply Keeps.pend | apply Keeps.bic (P := P) | apply Keeps.bound (P := P)) | intro _)

theorem classFail_keeps {P : Nat → Prop} {s0 : State} {n v : Nat} {s : State} (h0 : Keeps P s0 s) : Keeps P s0 (classFail n v s) := by
  unfold classFail; try dsimp only
  repeat' with_reducible
    (first | assumption | apply failStart_keeps | apply relabelHold_keeps | apply setDown_keeps | apply logEvent_keeps | (split)
           | (refine Keeps.mk ?_ ?_ ?_ <;> (try dsimp only) <;> first | apply Keeps.pend | apply Keeps.bic (P := P) | apply Keeps.bound (P := P)) | intro _)

theorem peerOverride_keeps {P : Nat → Prop} {s0 : State} {n : Nat} {s : State} (h0 : Keeps P s0 s) : Keeps P s0 (peerOverride n s) := by
  unfold peerOverride; try dsimp only
  repeat' with_reducible
    (first | assumption | apply draw_keeps | refine draw_keeps_eq (by assumption) ?_ | apply setLane_keeps | (split)
           | (refine Keeps.mk ?_ ?_ ?_ <;> (try dsimp only) <;> first | apply Keeps.pend | apply Keeps.bic (P := P) | apply Keeps.bound (P := P)))

theorem calAdvance_keeps {P : Nat → Prop} {s0 : State} {n : Nat} {s : State} (h0 : Keeps P s0 s) : Keeps P s0 (calAdvance n s) := by
  unfold calAdvance; try dsimp only
  repeat' with_reducible
    (first | assumption | apply peerOverride_keeps | apply calFail_keeps | apply advance_keeps | apply setLane_keeps | (split)
           | (refine Keeps.mk ?_ ?_ ?_ <;> (try dsimp only) <;> first | apply Keeps.pend | apply Keeps.bic (P := P) | apply Keeps.bound (P := P)) | intro _)

theorem freezeLane_keeps {P : Nat → Prop} {s0 : State} {p : Nat} {s : State} {n : Nat} (h0 : Keeps P s0 s) : Keeps P s0 (freezeLane p s n) := by
  unfold freezeLane; try dsimp only
  repeat' with_reducible
    (first | assumption | apply calAdvance_keeps | apply setLane_keeps | (split)
           | (refine Keeps.mk ?_ ?_ ?_ <;> (try dsimp only) <;> first | apply Keeps.pend | apply Keeps.bic (P := P) | apply Keeps.bound (P := P)))

theorem finishCal_keeps {P : Nat → Prop} {s0 : State} {n : Nat} {s : State} (h0 : Keeps P s0 s) : Keeps P s0 (finishCal n s) := by
  unfold finishCal; try dsimp only
  repeat' with_reducible
    (first | assumption | apply classFail_keeps | apply setLane_keeps | apply freezeLane_keeps | (apply foldl_keeps <;> (try intro _ _ _))
           | (split) | (refine Keeps.mk ?_ ?_ ?_ <;> (try dsimp only) <;> first | apply Keeps.pend | apply Keeps.bic (P := P) | apply Keeps.bound (P := P))
           | intro _)

theorem execLaneStatus_keeps {P : Nat → Prop} {s0 u9 : State} {c : CmdCtx} {lid : Byte} {rsvd : BitVec 24} {s : State}
    (h9 : execLaneStatus c lid rsvd s = .next u9) (h0 : Keeps P s0 s) : Keeps P s0 u9 := by
  unfold execLaneStatus at h9; try dsimp only at h9
  cases h9
  repeat' with_reducible
    (first | assumption | apply immediate_keeps | apply reply_keeps | apply setLane_keeps | (split)
           | (refine Keeps.mk ?_ ?_ ?_ <;> (try dsimp only) <;> first | apply Keeps.pend | apply Keeps.bic (P := P) | apply Keeps.bound (P := P)) | intro _)

theorem drawTaps_keeps {P : Nat → Prop} {s0 : State} {n : Nat} {s : State} (h0 : Keeps P s0 s) : Keeps P s0 (drawTaps n s) := by
  unfold drawTaps; try dsimp only
  repeat' with_reducible
    (first | assumption | apply draw_keeps | refine draw_keeps_eq (by assumption) ?_ | apply setLane_keeps | (split)
           | (refine Keeps.mk ?_ ?_ ?_ <;> (try dsimp only) <;> first | apply Keeps.pend | apply Keeps.bic (P := P) | apply Keeps.bound (P := P)) | intro _)

theorem execLaneEq_keeps {P : Nat → Prop} {s0 u9 : State} {c : CmdCtx} {lid op : Byte} {rsvd : U16} {s : State}
    (h9 : execLaneEq c lid op rsvd s = .next u9) (h0 : Keeps P s0 s) : Keeps P s0 u9 := by
  unfold execLaneEq at h9; try dsimp only at h9
  cases h9
  repeat' with_reducible
    (first | assumption | apply linkWait_keeps | apply immediate_keeps | apply reply_keeps | apply drawTaps_keeps | apply setLane_keeps | (split)
           | (refine Keeps.mk ?_ ?_ ?_ <;> (try dsimp only) <;> first | apply Keeps.pend | apply Keeps.bic (P := P) | apply Keeps.bound (P := P)) | intro _)

theorem sendOwnPacket_keeps {P : Nat → Prop} {s0 : State} {k : Nat} {b : List Byte} {s : State} (h0 : Keeps P s0 s) : Keeps P s0 (sendOwnPacket k b s) := by
  unfold sendOwnPacket; try dsimp only
  repeat' with_reducible
    (first | assumption | apply setLink_keeps | apply emit_keeps | (split)
           | (refine Keeps.mk ?_ ?_ ?_ <;> (try dsimp only) <;> first | apply Keeps.pend | apply Keeps.bic (P := P) | apply Keeps.bound (P := P)))

theorem drainOwnLink_keeps {P : Nat → Prop} {s0 : State} {s : State} {k : Nat} (h0 : Keeps P s0 s) : Keeps P s0 (drainOwnLink s k) := by
  unfold drainOwnLink; try dsimp only
  repeat' with_reducible
    (first | assumption | apply sendOwnPacket_keeps | apply setLink_keeps | (split)
           | (refine Keeps.mk ?_ ?_ ?_ <;> (try dsimp only) <;> first | apply Keeps.pend | apply Keeps.bic (P := P) | apply Keeps.bound (P := P)) | intro _)

theorem drainOwn_keeps {P : Nat → Prop} {s0 : State} {s : State} (h0 : Keeps P s0 s) : Keeps P s0 (drainOwn s) := by
  unfold drainOwn; try dsimp only
  repeat' with_reducible
    (first | assumption | apply drainOwnLink_keeps | (apply foldl_keeps <;> (try intro _ _ _)))

theorem dropSync_keeps {P : Nat → Prop} {s0 : State} {k : Nat} {s : State} (h0 : Keeps P s0 s) : Keeps P s0 (dropSync k s) := by
  unfold dropSync; try dsimp only
  repeat' with_reducible
    (first | assumption | apply enterHunt_keeps | apply setLink_keeps
           | (refine Keeps.mk ?_ ?_ ?_ <;> (try dsimp only) <;> first | apply Keeps.pend | apply Keeps.bic (P := P) | apply Keeps.bound (P := P)))

theorem retrainControl_keeps {P : Nat → Prop} {s0 : State} {c : CmdCtx} {k : Nat} {s : State} (h0 : Keeps P s0 s) : Keeps P s0 (retrainControl c k s) := by
  unfold retrainControl; try dsimp only
  repeat' with_reducible
    (first | assumption | apply reply_keeps | apply busyReply_keeps | apply startAct_keeps | apply holdDeferred_keeps | apply setLink_keeps
           | apply dropSync_keeps | apply setLane_keeps | apply sendOwnPacket_keeps | (split)
           | (refine Keeps.mk ?_ ?_ ?_ <;> (try dsimp only) <;> first | apply Keeps.pend | apply Keeps.bic (P := P) | apply Keeps.bound (P := P)) | intro _)

theorem execLaneRetrain_keeps {P : Nat → Prop} {s0 u9 : State} {c : CmdCtx} {lid : Byte} {rsvd : BitVec 24} {s : State}
    (h9 : execLaneRetrain c lid rsvd s = .next u9) (h0 : Keeps P s0 s) : Keeps P s0 u9 := by
  unfold execLaneRetrain at h9; try dsimp only at h9
  cases h9
  repeat' with_reducible
    (first | assumption | apply changeWait_keeps | apply deferredOp_keeps | apply reply_keeps | apply retrainControl_keeps
           | apply busyReply_keeps | apply openRequest_keeps | apply holdDeferred_keeps | (split)
           | (refine Keeps.mk ?_ ?_ ?_ <;> (try dsimp only) <;> first | apply Keeps.pend | apply Keeps.bic (P := P) | apply Keeps.bound (P := P)) | intro _)

theorem execLaneWidth_keeps {P : Nat → Prop} {s0 u9 : State} {c : CmdCtx} {link width : Byte} {rsvd : U16} {s : State}
    (h9 : execLaneWidth c link width rsvd s = .next u9) (h0 : Keeps P s0 s) : Keeps P s0 u9 := by
  unfold execLaneWidth at h9; try dsimp only at h9
  cases h9
  repeat' with_reducible
    (first | assumption | apply changeWait_keeps | apply deferredOp_keeps | apply reply_keeps | apply busyReply_keeps | apply openRequest_keeps
           | apply holdDeferred_keeps | (split)
           | (refine Keeps.mk ?_ ?_ ?_ <;> (try dsimp only) <;> first | apply Keeps.pend | apply Keeps.bic (P := P) | apply Keeps.bound (P := P)) | intro _)

theorem setPattern_keeps {P : Nat → Prop} {s0 : State} {n : Nat} {gen chk : Byte} {s : State} (h0 : Keeps P s0 s) : Keeps P s0 (setPattern n gen chk s) := by
  unfold setPattern; try dsimp only
  repeat' with_reducible
    (first | assumption | apply setLane_keeps
           | (refine Keeps.mk ?_ ?_ ?_ <;> (try dsimp only) <;> first | apply Keeps.pend | apply Keeps.bic (P := P) | apply Keeps.bound (P := P)))

theorem execLanePattern_keeps {P : Nat → Prop} {s0 u9 : State} {c : CmdCtx} {lid gen chk rsvd : Byte} {s : State}
    (h9 : execLanePattern c lid gen chk rsvd s = .next u9) (h0 : Keeps P s0 s) : Keeps P s0 u9 := by
  unfold execLanePattern at h9; try dsimp only at h9
  cases h9
  repeat' with_reducible
    (first | assumption | apply linkWait_keeps | apply immediate_keeps | apply reply_keeps | apply endAct_keeps | apply laneReady_keeps
           | apply setLane_keeps | apply setPattern_keeps | apply busyReply_keeps | apply startAct_keeps | (split)
           | (refine Keeps.mk ?_ ?_ ?_ <;> (try dsimp only) <;> first | apply Keeps.pend | apply Keeps.bic (P := P) | apply Keeps.bound (P := P)) | intro _)

theorem execLaneInject_keeps {P : Nat → Prop} {s0 u9 : State} {c : CmdCtx} {lid len pos at_ : Byte} {rsvd : U32} {step : U64} {s : State}
    (h9 : execLaneInject c lid len pos at_ rsvd step s = .next u9) (h0 : Keeps P s0 s) : Keeps P s0 u9 := by
  unfold execLaneInject at h9; try dsimp only at h9
  cases h9
  repeat' with_reducible
    (first | assumption | apply linkWait_keeps | apply immediate_keeps | apply reply_keeps | apply setLane_keeps | apply inject_keeps | (split)
           | (refine Keeps.mk ?_ ?_ ?_ <;> (try dsimp only) <;> first | apply Keeps.pend | apply Keeps.bic (P := P) | apply Keeps.bound (P := P)) | intro _)

theorem sleepTx_keeps {P : Nat → Prop} {s0 : State} {n : Nat} {s : State} (h0 : Keeps P s0 s) : Keeps P s0 (sleepTx n s) := by
  unfold sleepTx; try dsimp only
  repeat' with_reducible
    (first | assumption | apply setLane_keeps | (split)
           | (refine Keeps.mk ?_ ?_ ?_ <;> (try dsimp only) <;> first | apply Keeps.pend | apply Keeps.bic (P := P) | apply Keeps.bound (P := P)))

theorem sleepRx_keeps {P : Nat → Prop} {s0 : State} {n : Nat} {s : State} (h0 : Keeps P s0 s) : Keeps P s0 (sleepRx n s) := by
  unfold sleepRx; try dsimp only
  repeat' with_reducible
    (first | assumption | apply setLane_keeps | (split)
           | (refine Keeps.mk ?_ ?_ ?_ <;> (try dsimp only) <;> first | apply Keeps.pend | apply Keeps.bic (P := P) | apply Keeps.bound (P := P)))

theorem wakeLane_keeps {P : Nat → Prop} {s0 : State} {n : Nat} {tx rx : Bool} {s : State} (h0 : Keeps P s0 s) : Keeps P s0 (wakeLane n tx rx s) := by
  unfold wakeLane; try dsimp only
  repeat' with_reducible
    (first | assumption | apply setLane_keeps | apply moveLane_keeps | apply enterHunt_keeps | (split)
           | (refine Keeps.mk ?_ ?_ ?_ <;> (try dsimp only) <;> first | apply Keeps.pend | apply Keeps.bic (P := P) | apply Keeps.bound (P := P)) | intro _)

theorem execLaneSleep_keeps {P : Nat → Prop} {s0 u9 : State} {c : CmdCtx} {lid set : Byte} {rsvd : U16} {s : State}
    (h9 : execLaneSleep c lid set rsvd s = .next u9) (h0 : Keeps P s0 s) : Keeps P s0 u9 := by
  unfold execLaneSleep at h9; try dsimp only at h9
  cases h9
  repeat' with_reducible
    (first | assumption | apply linkWait_keeps | apply immediate_keeps | apply reply_keeps | apply wakeLane_keeps | apply sleepTx_keeps
           | apply sleepRx_keeps | (split) | intro _)

end Sys2Proof.Machine
end

