-- ==== Sys2Proof/Laws/KeepsMeasure.lean ====
section
/-!
SUPPORT. KeepsMeasure.lean: every operation and meaning of Machine/Measure.lean keeps the queue, the BIC and the bounds of
State.Bounded, and, where it stores nothing, every byte of DRAM; one lemma each, stated from any earlier state s0 so that lemmas chain.
-/
namespace Sys2Proof.Machine

theorem leBytes_length {n v : Nat} : (leBytes n v).length = n := by
  simp [leBytes]

theorem measureEntry_length {reg type : Nat} {digest : BitVec 384} {desc : List Byte} :
    (measureEntry reg type digest desc).length = 52 + desc.length := by
  simp only [measureEntry, List.length_append, leBytes_length]

theorem extendMr_keeps {P : Nat → Prop} {s0 : State} {reg type : Nat} {digest : BitVec 384} {desc : List Byte} {s : State} (h0 : Keeps P s0 s) :
    Keeps P s0 (extendMr reg type digest desc s) := by
  refine Keeps.mk h0.pend h0.bic fun h => ?_
  have k := h0.bound h
  refine ⟨k.1, k.2.1, k.2.2.1, ?_⟩
  unfold extendMr; dsimp only
  split
  · rename_i hf
    have hf := of_decide_eq_true hf
    rw [List.length_append, measureEntry_length]; omega
  · exact k.2.2.2

theorem extendFree_keeps {P : Nat → Prop} {s0 : State} {reg type : Nat} {desc : List Byte} {s : State} (h0 : Keeps P s0 s)
    : Keeps P s0 (extendFree reg type desc s) := by
  unfold extendFree; try dsimp only
  repeat' with_reducible
    (first | assumption | apply draw_keeps | refine draw_keeps_eq (by assumption) ?_ | apply extendMr_keeps)

theorem noteOverride_keeps {P : Nat → Prop} {s0 : State} {part : Nat} {other : Nat} {s : State} (h0 : Keeps P s0 s)
    : Keeps P s0 (noteOverride part other s) := by
  unfold noteOverride; try dsimp only
  repeat' with_reducible
    (first | assumption | apply extendFree_keeps | apply logRec_keeps)

end Sys2Proof.Machine
end

