-- ==== Sys2Proof/Laws/KeepsLaneEvents.lean ====
section
/-!
SUPPORT. KeepsLaneEvents.lean: every operation and meaning of Machine/LaneEvents.lean keeps the queue, the BIC and the bounds of
State.Bounded, and, where it stores nothing, every byte of DRAM; one lemma each, stated from any earlier state s0 so that lemmas chain.
-/
namespace Sys2Proof.Machine

theorem deliver_keeps {P : Nat → Prop} {s0 : State} {lane t : Nat} {payload : BitVec 72} {s : State} (h0 : Keeps P s0 s)
    : Keeps P s0 (deliver lane t payload s) := by
  unfold deliver; try dsimp only
  repeat' with_reducible
    (first | assumption | (refine Keeps.mk ?_ ?_ ?_ <;> (try dsimp only) <;> first | apply Keeps.pend | apply Keeps.bic (P := P) | apply Keeps.bound (P := P))
           | intro _)

theorem noteCopy_keeps {P : Nat → Prop} {s0 : State} {n : Nat} {kind other : CopyKind} {s : State} (h0 : Keeps P s0 s)
    : Keeps P s0 (noteCopy n kind other s) := by
  unfold noteCopy; try dsimp only
  repeat' with_reducible
    (first | assumption | apply setLane_keeps | apply laneLog_keeps | (split)
           | (refine Keeps.mk ?_ ?_ ?_ <;> (try dsimp only) <;> first | apply Keeps.pend | apply Keeps.bic (P := P) | apply Keeps.bound (P := P)))

theorem resolvePair_keeps {P : Nat → Prop} {s0 : State} {p lane t : Nat} {a b : CopyKind × BitVec 72} {s : State} (h0 : Keeps P s0 s)
    : Keeps P s0 (resolvePair p lane t a b s) := by
  unfold resolvePair; try dsimp only
  repeat' with_reducible
    (first | assumption | apply logRec_keeps | apply deliver_keeps | apply raiseVeto_keeps | apply raiseHold_keeps | (split)
           | (refine Keeps.mk ?_ ?_ ?_ <;> (try dsimp only) <;> first | apply Keeps.pend | apply Keeps.bic (P := P) | apply Keeps.bound (P := P)) | intro _)

theorem resolveCopies_keeps {P : Nat → Prop} {s0 : State} {p lane t : Nat} {a b : CopyKind × BitVec 72} {s : State} (h0 : Keeps P s0 s)
    : Keeps P s0 (resolveCopies p lane t a b s) := by
  unfold resolveCopies; try dsimp only
  repeat' with_reducible
    (first | assumption | apply noteCopy_keeps | apply resolveHold_keeps | apply resolvePair_keeps | (split))

theorem takeCopy_keeps {P : Nat → Prop} {s0 : State} {p n t : Nat} {kind : CopyKind} {payload : BitVec 72} {s : State} (h0 : Keeps P s0 s)
    : Keeps P s0 (takeCopy p n t kind payload s) := by
  unfold takeCopy; try dsimp only
  repeat' with_reducible
    (first | assumption | apply resolveCopies_keeps | (split)
           | (refine Keeps.mk ?_ ?_ ?_ <;> (try dsimp only) <;> first | apply Keeps.pend | apply Keeps.bic (P := P) | apply Keeps.bound (P := P)) | intro _)

theorem classify_keeps {P : Nat → Prop} {s0 : State} {p n t : Nat} {ok : Bool} {hdr : Nat} {payload : BitVec 72} {s : State} (h0 : Keeps P s0 s)
    : Keeps P s0 (classify p n t ok hdr payload s) := by
  unfold classify; try dsimp only
  repeat' with_reducible
    (first | assumption | apply setLane_keeps | apply takeCopy_keeps | apply deliver_keeps | apply raiseVeto_keeps | (split)
           | (refine Keeps.mk ?_ ?_ ?_ <;> (try dsimp only) <;> first | apply Keeps.pend | apply Keeps.bic (P := P) | apply Keeps.bound (P := P)))

theorem activeBlock_keeps {P : Nat → Prop} {s0 : State} {n : Nat} {ok : Bool} {hdr : Nat} {payload : BitVec 72} {s : State} (h0 : Keeps P s0 s)
    : Keeps P s0 (activeBlock n ok hdr payload s) := by
  unfold activeBlock; try dsimp only
  repeat' with_reducible
    (first | assumption | apply slipLane_keeps | apply classify_keeps | (split)
           | (refine Keeps.mk ?_ ?_ ?_ <;> (try dsimp only) <;> first | apply Keeps.pend | apply Keeps.bic (P := P) | apply Keeps.bound (P := P)) | intro _)

theorem acquireLock_keeps {P : Nat → Prop} {s0 : State} {n : Nat} {s : State} (h0 : Keeps P s0 s) : Keeps P s0 (acquireLock n s) := by
  unfold acquireLock; try dsimp only
  repeat' with_reducible
    (first | assumption | apply setLane_keeps
           | (refine Keeps.mk ?_ ?_ ?_ <;> (try dsimp only) <;> first | apply Keeps.pend | apply Keeps.bic (P := P) | apply Keeps.bound (P := P)))

theorem huntBlock_keeps {P : Nat → Prop} {s0 : State} {n : Nat} {b : Block} {s : State} (h0 : Keeps P s0 s) : Keeps P s0 (huntBlock n b s) := by
  unfold huntBlock; try dsimp only
  repeat' with_reducible
    (first | assumption | apply setLane_keeps | apply acquireLock_keeps | (split)
           | (refine Keeps.mk ?_ ?_ ?_ <;> (try dsimp only) <;> first | apply Keeps.pend | apply Keeps.bic (P := P) | apply Keeps.bound (P := P)))

theorem takeSig_keeps {P : Nat → Prop} {s0 : State} {ptype : Nat} {v : BitVec 64} {s : State} (h0 : Keeps P s0 s) : Keeps P s0 (takeSig ptype v s) := by
  unfold takeSig; try dsimp only
  repeat' with_reducible
    (first | assumption | apply setPart_keeps | (split)
           | (refine Keeps.mk ?_ ?_ ?_ <;> (try dsimp only) <;> first | apply Keeps.pend | apply Keeps.bic (P := P) | apply Keeps.bound (P := P)) | intro _)

theorem pendantArrives_keeps {P : Nat → Prop} {s0 : State} {n : Nat} {ok : Bool} {hdr : Nat} {payload : BitVec 72} {s : State} (h0 : Keeps P s0 s)
    : Keeps P s0 (pendantArrives n ok hdr payload s) := by
  unfold pendantArrives; try dsimp only
  repeat' with_reducible
    (first | assumption | apply bump_keeps | apply takeSig_keeps | (split)
           | (refine Keeps.mk ?_ ?_ ?_ <;> (try dsimp only) <;> first | apply Keeps.pend | apply Keeps.bic (P := P) | apply Keeps.bound (P := P)))

theorem lockedBlock_keeps {P : Nat → Prop} {s0 : State} {n : Nat} {b : Block} {s : State} (h0 : Keeps P s0 s) : Keeps P s0 (lockedBlock n b s) := by
  unfold lockedBlock; try dsimp only
  repeat' with_reducible
    (first | assumption | apply setLane_keeps | apply loseLock_keeps | apply bump_keeps | apply pendantArrives_keeps | apply activeBlock_keeps
           | (split) | (refine Keeps.mk ?_ ?_ ?_ <;> (try dsimp only) <;> first | apply Keeps.pend | apply Keeps.bic (P := P) | apply Keeps.bound (P := P)))

theorem linkUp_keeps {P : Nat → Prop} {s0 : State} {k : Nat} {s : State} (h0 : Keeps P s0 s) : Keeps P s0 (linkUp k s) := by
  unfold linkUp; try dsimp only
  repeat' with_reducible
    (first | assumption | apply setLink_keeps | apply setLane_keeps | apply answerRetrain_keeps | apply sendReq_keeps | apply setSync_keeps
           | (split) | (refine Keeps.mk ?_ ?_ ?_ <;> (try dsimp only) <;> first | apply Keeps.pend | apply Keeps.bic (P := P) | apply Keeps.bound (P := P)))

theorem seekComma_keeps {P : Nat → Prop} {s0 : State} {k : Nat} {cur : BitVec 10} {s : State} (h0 : Keeps P s0 s) : Keeps P s0 (seekComma k cur s) := by
  unfold seekComma; try dsimp only
  repeat' with_reducible
    (first | assumption | apply setLink_keeps | (split)
           | (refine Keeps.mk ?_ ?_ ?_ <;> (try dsimp only) <;> first | apply Keeps.pend | apply Keeps.bic (P := P) | apply Keeps.bound (P := P)) | intro _)

theorem takeChar_keeps {P : Nat → Prop} {s0 : State} {k : Nat} {cur : BitVec 10} {s : State} (h0 : Keeps P s0 s) : Keeps P s0 (takeChar k cur s) := by
  unfold takeChar; try dsimp only
  repeat' with_reducible
    (first | assumption | apply setLink_keeps | apply bump_keeps | apply dropSync_keeps | apply linkUp_keeps | (split)
           | (refine Keeps.mk ?_ ?_ ?_ <;> (try dsimp only) <;> first | apply Keeps.pend | apply Keeps.bic (P := P) | apply Keeps.bound (P := P)))

theorem controlBits_keeps {P : Nat → Prop} {s0 : State} {n : Nat} {cur : BitVec 10} {s : State} (h0 : Keeps P s0 s) : Keeps P s0 (controlBits n cur s) := by
  unfold controlBits; try dsimp only
  repeat' with_reducible
    (first | assumption | apply setLane_keeps | apply takeChar_keeps | apply seekComma_keeps | (apply foldl_keeps <;> (try intro _ _ _))
           | (split) | (refine Keeps.mk ?_ ?_ ?_ <;> (try dsimp only) <;> first | apply Keeps.pend | apply Keeps.bic (P := P) | apply Keeps.bound (P := P))
           | intro _)

theorem execBlockReceived_keeps {P : Nat → Prop} {s0 u9 : State} {lane : Fin 144} {block : Block} {s : State}
    (h9 : execBlockReceived lane block s = .next u9) (h0 : Keeps P s0 s) : Keeps P s0 u9 := by
  unfold execBlockReceived at h9; try dsimp only at h9
  cases h9
  repeat' with_reducible
    (first | assumption | apply setLane_keeps | apply settleLane_keeps | apply controlBits_keeps | apply lockedBlock_keeps
           | apply huntBlock_keeps | apply enterHunt_keeps | (apply foldl_keeps <;> (try intro _ _ _)) | (split)
           | (refine Keeps.mk ?_ ?_ ?_ <;> (try dsimp only) <;> first | apply Keeps.pend | apply Keeps.bic (P := P) | apply Keeps.bound (P := P)) | intro _)

theorem execEqualiserConverged_keeps {P : Nat → Prop} {s0 u9 : State} {lane : Fin 144} {s : State}  (h9 : execEqualiserConverged lane s = .next u9) (h0
    : Keeps P s0 s) : Keeps P s0 u9 := by
  unfold execEqualiserConverged at h9; try dsimp only at h9
  cases h9
  repeat' with_reducible
    (first | assumption | apply enterHunt_keeps | apply setLane_keeps | (split)
           | (refine Keeps.mk ?_ ?_ ?_ <;> (try dsimp only) <;> first | apply Keeps.pend | apply Keeps.bic (P := P) | apply Keeps.bound (P := P)))

theorem execHuntTimeout_keeps {P : Nat → Prop} {s0 u9 : State} {lane : Fin 144} {s : State}  (h9 : execHuntTimeout lane s = .next u9) (h0 : Keeps P s0 s)
    : Keeps P s0 u9 := by
  unfold execHuntTimeout at h9; try dsimp only at h9
  cases h9
  repeat' with_reducible
    (first | assumption | apply settleLane_keeps | apply autoRetrain_keeps | apply enterRecover_keeps | (split))

theorem execTrainEqTimeout_keeps {P : Nat → Prop} {s0 u9 : State} {lane : Fin 144} {s : State}  (h9 : execTrainEqTimeout lane s = .next u9) (h0
    : Keeps P s0 s) : Keeps P s0 u9 := by
  unfold execTrainEqTimeout at h9; try dsimp only at h9
  cases h9
  repeat' with_reducible
    (first | assumption | apply settleLane_keeps | apply enterRecover_keeps | (split))

theorem execRelockTimeout_keeps {P : Nat → Prop} {s0 u9 : State} {lane : Fin 144} {s : State}  (h9 : execRelockTimeout lane s = .next u9) (h0 : Keeps P s0 s)
    : Keeps P s0 u9 := by
  unfold execRelockTimeout at h9; try dsimp only at h9
  cases h9
  repeat' with_reducible
    (first | assumption | apply settleLane_keeps | apply enterRecover_keeps | (split))

theorem remeasureLane_keeps {P : Nat → Prop} {s0 : State} {n : Nat} {s : State} (h0 : Keeps P s0 s) : Keeps P s0 (remeasureLane n s) := by
  unfold remeasureLane; try dsimp only
  repeat' with_reducible
    (first | assumption | apply draw_keeps | refine draw_keeps_eq (by assumption) ?_ | apply setLane_keeps | apply setDown_keeps | (split)
           | (refine Keeps.mk ?_ ?_ ?_ <;> (try dsimp only) <;> first | apply Keeps.pend | apply Keeps.bic (P := P) | apply Keeps.bound (P := P)))

theorem execTrainBlock_keeps {P : Nat → Prop} {s0 u9 : State} {lane : Fin 144} {payload : U64} {s : State}  (h9 : execTrainBlock lane payload s = .next u9)
 (h0 : Keeps P s0 s) : Keeps P s0 u9 := by
  unfold execTrainBlock at h9; try dsimp only at h9
  cases h9
  repeat' with_reducible
    (first | assumption | apply setLane_keeps | apply settleLane_keeps | apply remeasureLane_keeps | apply laneReady_keeps
           | apply calAdvance_keeps | (split)
           | (refine Keeps.mk ?_ ?_ ?_ <;> (try dsimp only) <;> first | apply Keeps.pend | apply Keeps.bic (P := P) | apply Keeps.bound (P := P)) | intro _)

theorem execCalBlock_keeps {P : Nat → Prop} {s0 u9 : State} {lane : Fin 144} {payload : U64} {s : State}  (h9 : execCalBlock lane payload s = .next u9) (h0
    : Keeps P s0 s) : Keeps P s0 u9 := by
  unfold execCalBlock at h9; try dsimp only at h9
  cases h9
  repeat' with_reducible
    (first | assumption | apply settleLane_keeps | apply calFail_keeps | apply finishCal_keeps | apply setLane_keeps | (split)
           | (refine Keeps.mk ?_ ?_ ?_ <;> (try dsimp only) <;> first | apply Keeps.pend | apply Keeps.bic (P := P) | apply Keeps.bound (P := P)) | intro _)

theorem execCalbBlock_keeps {P : Nat → Prop} {s0 u9 : State} {lane : Fin 144} {payload : U64} {s : State}  (h9 : execCalbBlock lane payload s = .next u9)
 (h0 : Keeps P s0 s) : Keeps P s0 u9 := by
  unfold execCalbBlock at h9; try dsimp only at h9
  cases h9
  repeat' with_reducible
    (first | assumption | apply settleLane_keeps | apply calFail_keeps | apply noteOverride_keeps | apply finishCal_keeps | apply setLane_keeps
           | (split) | (refine Keeps.mk ?_ ?_ ?_ <;> (try dsimp only) <;> first | apply Keeps.pend | apply Keeps.bic (P := P) | apply Keeps.bound (P := P))
           | intro _)

theorem execLaneResume_keeps {P : Nat → Prop} {s0 u9 : State} {lane : Fin 144} {s : State}  (h9 : execLaneResume lane s = .next u9) (h0 : Keeps P s0 s)
    : Keeps P s0 u9 := by
  unfold execLaneResume at h9; try dsimp only at h9
  cases h9
  repeat' with_reducible
    (first | assumption | apply settleLane_keeps | apply inService_keeps | apply setLane_keeps | (split)
           | (refine Keeps.mk ?_ ?_ ?_ <;> (try dsimp only) <;> first | apply Keeps.pend | apply Keeps.bic (P := P) | apply Keeps.bound (P := P)))

theorem followRequest_keeps {P : Nat → Prop} {s0 : State} {k n : Nat} {r : LinkReq} {s : State} (h0 : Keeps P s0 s) : Keeps P s0 (followRequest k n r s) := by
  unfold followRequest; try dsimp only
  repeat' with_reducible
    (first | assumption | apply queueControl_keeps | apply setBlink_keeps
           | (refine Keeps.mk ?_ ?_ ?_ <;> (try dsimp only) <;> first | apply Keeps.pend | apply Keeps.bic (P := P) | apply Keeps.bound (P := P)))

theorem requestError_keeps {P : Nat → Prop} {s0 : State} {n : Nat} {s : State} (h0 : Keeps P s0 s) : Keeps P s0 (requestError n s) := by
  unfold requestError; try dsimp only
  repeat' with_reducible
    (first | assumption | apply raiseVeto_keeps | (split)
           | (refine Keeps.mk ?_ ?_ ?_ <;> (try dsimp only) <;> first | apply Keeps.pend | apply Keeps.bic (P := P) | apply Keeps.bound (P := P)) | intro _)

theorem execLreqBlock_keeps {P : Nat → Prop} {s0 u9 : State} {lane : Fin 144} {payload : U64} {s : State}  (h9 : execLreqBlock lane payload s = .next u9)
 (h0 : Keeps P s0 s) : Keeps P s0 u9 := by
  unfold execLreqBlock at h9; try dsimp only at h9
  (repeat' split at h9) <;> cases h9 <;> repeat' with_reducible
    (first | assumption | apply leaveActive_keeps | apply requestError_keeps | apply bump_keeps | apply followRequest_keeps
           | apply endRequest_keeps | (split)
           | (refine Keeps.mk ?_ ?_ ?_ <;> (try dsimp only) <;> first | apply Keeps.pend | apply Keeps.bic (P := P) | apply Keeps.bound (P := P)) | intro _)

theorem execLackBlock_keeps {P : Nat → Prop} {s0 u9 : State} {lane : Fin 144} {payload : U64} {s : State}  (h9 : execLackBlock lane payload s = .next u9)
 (h0 : Keeps P s0 s) : Keeps P s0 u9 := by
  unfold execLackBlock at h9; try dsimp only at h9
  cases h9
  repeat' with_reducible
    (first | assumption | apply setBlink_keeps | (split)
           | (refine Keeps.mk ?_ ?_ ?_ <;> (try dsimp only) <;> first | apply Keeps.pend | apply Keeps.bic (P := P) | apply Keeps.bound (P := P)) | intro _)

theorem restoreLanes_keeps {P : Nat → Prop} {s0 : State} {k : Nat} {s : State} (h0 : Keeps P s0 s) : Keeps P s0 (restoreLanes k s) := by
  unfold restoreLanes; try dsimp only
  repeat' with_reducible
    (first | assumption | apply laneReady_keeps | (apply foldl_keeps <;> (try intro _ _ _)) | (split) | intro _)

theorem execLackTimeout_keeps {P : Nat → Prop} {s0 u9 : State} {link : Fin 17} {s : State}  (h9 : execLackTimeout link s = .next u9) (h0 : Keeps P s0 s)
    : Keeps P s0 u9 := by
  unfold execLackTimeout at h9; try dsimp only at h9
  cases h9
  repeat' with_reducible
    (first | assumption | apply sendRequest_keeps | apply settleLink_keeps | apply restoreLanes_keeps | apply endRequest_keeps | (split)
           | (refine Keeps.mk ?_ ?_ ?_ <;> (try dsimp only) <;> first | apply Keeps.pend | apply Keeps.bic (P := P) | apply Keeps.bound (P := P)) | intro _)

theorem execLaneChangeStart_keeps {P : Nat → Prop} {s0 u9 : State} {link : Fin 17} {s : State}  (h9 : execLaneChangeStart link s = .next u9) (h0
    : Keeps P s0 s) : Keeps P s0 u9 := by
  unfold execLaneChangeStart at h9; try dsimp only at h9
  (repeat' split at h9) <;> cases h9 <;> repeat' with_reducible
    (first | assumption | apply applyChangeAt_keeps | apply setBlink_keeps | apply settleLink_keeps | (split)
           | (refine Keeps.mk ?_ ?_ ?_ <;> (try dsimp only) <;> first | apply Keeps.pend | apply Keeps.bic (P := P) | apply Keeps.bound (P := P)) | intro _)

theorem execSleepBlock_keeps {P : Nat → Prop} {s0 u9 : State} {lane : Fin 144} {payload : U64} {s : State}  (h9 : execSleepBlock lane payload s = .next u9)
 (h0 : Keeps P s0 s) : Keeps P s0 u9 := by
  unfold execSleepBlock at h9; try dsimp only at h9
  cases h9
  repeat' with_reducible
    (first | assumption | apply setLane_keeps | (split)
           | (refine Keeps.mk ?_ ?_ ?_ <;> (try dsimp only) <;> first | apply Keeps.pend | apply Keeps.bic (P := P) | apply Keeps.bound (P := P)))

theorem execSleepSilentStep_keeps {P : Nat → Prop} {s0 u9 : State} {lane : Fin 144} {s : State}  (h9 : execSleepSilentStep lane s = .next u9) (h0
    : Keeps P s0 s) : Keeps P s0 u9 := by
  unfold execSleepSilentStep at h9; try dsimp only at h9
  (repeat' split at h9) <;> cases h9 <;> repeat' with_reducible
    (first | assumption | apply setLane_keeps | (split)
           | (refine Keeps.mk ?_ ?_ ?_ <;> (try dsimp only) <;> first | apply Keeps.pend | apply Keeps.bic (P := P) | apply Keeps.bound (P := P)))

theorem execInjectionStepReached_keeps {P : Nat → Prop} {s0 u9 : State} {lane : Fin 144} {s : State}  (h9 : execInjectionStepReached lane s = .next u9) (h0
    : Keeps P s0 s) : Keeps P s0 u9 := by
  unfold execInjectionStepReached at h9; try dsimp only at h9
  cases h9
  repeat' with_reducible
    (first | assumption | apply inject_keeps | apply setLane_keeps | (split)
           | (refine Keeps.mk ?_ ?_ ?_ <;> (try dsimp only) <;> first | apply Keeps.pend | apply Keeps.bic (P := P) | apply Keeps.bound (P := P)) | intro _)

end Sys2Proof.Machine
end

