-- ==== Sys2Proof/Laws/KeepsDebug.lean ====
section
/-!
SUPPORT. KeepsDebug.lean: every operation and meaning of Machine/Debug.lean keeps the queue, the BIC and the bounds of
State.Bounded, and, where it stores nothing, every byte of DRAM; one lemma each, stated from any earlier state s0 so that lemmas chain.
-/
namespace Sys2Proof.Machine

theorem haltHold_keeps {P : Nat → Prop} {s0 : State} {p : Nat} {s : State} (h0 : Keeps P s0 s) : Keeps P s0 (haltHold p s) := by
  unfold haltHold; try dsimp only
  repeat' with_reducible
    (first | assumption | apply setPart_keeps | apply logRec_keeps | apply offerVeto_keeps | (split)
           | (refine Keeps.mk ?_ ?_ ?_ <;> (try dsimp only) <;> first | apply Keeps.pend | apply Keeps.bic (P := P) | apply Keeps.bound (P := P)) | intro _)

theorem startHalt_keeps {P : Nat → Prop} {s0 : State} {s : State} (h0 : Keeps P s0 s) : Keeps P s0 (startHalt s) := by
  unfold startHalt; try dsimp only
  repeat' with_reducible
    (first | assumption | apply eachPart_keeps | apply haltHold_keeps
           | (refine Keeps.mk ?_ ?_ ?_ <;> (try dsimp only) <;> first | apply Keeps.pend | apply Keeps.bic (P := P) | apply Keeps.bound (P := P)) | intro _)

theorem missedTick_keeps {P : Nat → Prop} {s0 : State} {p : Nat} {s : State} (h0 : Keeps P s0 s) : Keeps P s0 (missedTick p s) := by
  unfold missedTick; try dsimp only
  repeat' with_reducible
    (first | assumption | apply leadIn_keeps | apply setPart_keeps | apply offerVeto_keeps | apply logRec_keeps | (split)
           | (refine Keeps.mk ?_ ?_ ?_ <;> (try dsimp only) <;> first | apply Keeps.pend | apply Keeps.bic (P := P) | apply Keeps.bound (P := P)) | intro _)

theorem endHalt_keeps {P : Nat → Prop} {s0 : State} {s : State} (h0 : Keeps P s0 s) : Keeps P s0 (endHalt s) := by
  unfold endHalt; try dsimp only
  repeat' with_reducible
    (first | assumption | apply eachPart_keeps | apply missedTick_keeps | apply resolveHold_keeps | (split)
           | (refine Keeps.mk ?_ ?_ ?_ <;> (try dsimp only) <;> first | apply Keeps.pend | apply Keeps.bic (P := P) | apply Keeps.bound (P := P)) | intro _)

theorem execDbgHalt_keeps {P : Nat → Prop} {s0 u9 : State} {c : CmdCtx} {s : State}  (h9 : execDbgHalt c s = .next u9) (h0 : Keeps P s0 s) : Keeps P s0 u9 := by
  unfold execDbgHalt at h9; try dsimp only at h9
  cases h9
  repeat' with_reducible
    (first | assumption | apply immediate_keeps | apply reply_keeps | apply startHalt_keeps | (split)
           | (refine Keeps.mk ?_ ?_ ?_ <;> (try dsimp only) <;> first | apply Keeps.pend | apply Keeps.bic (P := P) | apply Keeps.bound (P := P)) | intro _)

theorem execDbgRun_keeps {P : Nat → Prop} {s0 u9 : State} {c : CmdCtx} {s : State}  (h9 : execDbgRun c s = .next u9) (h0 : Keeps P s0 s) : Keeps P s0 u9 := by
  unfold execDbgRun at h9; try dsimp only at h9
  cases h9
  repeat' with_reducible
    (first | assumption | apply immediate_keeps | apply reply_keeps | apply endHalt_keeps | (split) | intro _)

theorem logUnits_keeps {P : Nat → Prop} {s0 : State} {l : List DbgUnit} {s : State} (h0 : Keeps P s0 s) : Keeps P s0 (logUnits l s) := by
  unfold logUnits; try dsimp only
  repeat' with_reducible
    (first | assumption | apply logRec_keeps | (apply foldl_keeps <;> (try intro _ _ _))
           | (apply foldl_keeps2 <;> (try intro _ _ _) <;> (try dsimp only)) | (apply foldl_keeps3 <;> (try intro _ _ _) <;> (try dsimp only))
           | (split) | intro _)

theorem noteWrite_keeps {P : Nat → Prop} {s0 : State} {space units : Nat} {pl : DbgPlace} {s : State} (h0 : Keeps P s0 s)
    : Keeps P s0 (noteWrite space units pl s) := by
  unfold noteWrite; try dsimp only
  repeat' with_reducible
    (first | assumption | apply logRec_keeps | apply setPart_keeps | (split)
           | (refine Keeps.mk ?_ ?_ ?_ <;> (try dsimp only) <;> first | apply Keeps.pend | apply Keeps.bic (P := P) | apply Keeps.bound (P := P)) | intro _)

/-- A debug place writes within the bounds, and no DRAM. -/
def DbgPlace.Safe (pl : DbgPlace) : Prop := ∀ (P : Nat → Prop) s0 t i v, Keeps P s0 t → Keeps P s0 (pl.write i v t)

theorem wordPlace_safe {s : State} {a : Nat} {pl : DbgPlace} (h : wordPlace s a = some pl) : pl.Safe := by
  unfold wordPlace at h; dsimp only at h
  split at h
  · cases h
  · cases h
    intro P s0 t i v h0
    have k := setErr_keeps (st := .word) (key := wordKey (natBits a 10 7) (natBits a 6 4) (natBits a 17 9 + i) (natBits a 0 6)) (v := 0) h0
    exact ⟨k.pend, k.bic, k.bound⟩

theorem rowPlace_safe {s : State} {a : Nat} {pl : DbgPlace} (h : rowPlace s a = some pl) : pl.Safe := by
  unfold rowPlace at h; dsimp only at h
  split at h
  · cases h
  · cases h
    intro P s0 t i v h0
    dsimp only
    split
    · exact setNm_keeps h0
    · exact ⟨h0.pend, h0.bic, h0.bound⟩

theorem entryPlace_safe {s : State} {st : Store} {base e0 count size mask loc : Nat} {get : Nat → Nat} {put : Nat → Nat → State → State}
    {owner : State → Option Nat} (hp : ∀ (P : Nat → Prop) s0 t i v, Keeps P s0 t → Keeps P s0 (put i v t)) :
    (entryPlace s st base e0 count size mask loc get put owner).Safe :=
  fun P s0 _ _ _ h0 => hp P s0 _ _ _ (setErr_keeps h0)

theorem uopPlace_safe {s : State} {n j0 loc : Nat} : (uopPlace s n j0 loc).Safe :=
  fun _ _ _ _ _ h0 => ⟨h0.pend, h0.bic, h0.bound⟩

theorem entryAt_safe {s : State} {a : Nat} {pl : DbgPlace} (h : entryAt s a = some pl) : pl.Safe := by
  unfold entryAt at h; dsimp only at h
  split at h
  · cases h
  · split at h <;> first | (split at h <;> cases h) | cases h
    all_goals first
      | exact uopPlace_safe
      | exact entryPlace_safe fun _ _ _ _ _ h0 => ⟨h0.pend, h0.bic, h0.bound⟩

theorem dbgPlace_safe {s : State} {space a : Nat} {pl : DbgPlace} (h : dbgPlace s space a = some pl) : pl.Safe := by
  unfold dbgPlace at h
  split at h
  · exact wordPlace_safe h
  · split at h
    · exact rowPlace_safe h
    · exact entryAt_safe h

theorem accessStore_keeps {P : Nat → Prop} {s0 : State} {c : CmdCtx} {wr : Bool} {space a n : Nat} {wdata : List Byte} {s : State} (h0 : Keeps P s0 s) :
    Keeps P s0 (accessStore c wr space a n wdata s) := by
  unfold accessStore
  split
  · exact reply_keeps h0
  · split
    · exact reply_keeps h0
    · rename_i pl hp
      have safe := dbgPlace_safe hp
      dsimp only
      split
      · exact reply_keeps h0
      · split
        · exact reply_keeps (logUnits_keeps h0)
        · split
          · exact reply_keeps h0
          · refine reply_keeps (noteWrite_keeps ?_)
            exact foldl_keeps (fun _ _ h => safe P s0 _ _ _ h) (logUnits_keeps h0)

theorem accessPhys_keeps {P : Nat → Prop} {s0 : State} {c : CmdCtx} {wr : Bool} {a n : Nat} {s : State} (h0 : Keeps P s0 s)
    : Keeps P s0 (accessPhys c wr a n s) := by
  unfold accessPhys; try dsimp only
  repeat' with_reducible
    (first | assumption | apply reply_keeps | apply secEvent_keeps | (split) | intro _)

theorem debugFault_keeps {P : Nat → Prop} {s0 : State} {c : CmdCtx} {jsid addr cause level : Nat} {wr : Bool} {s : State} (h0 : Keeps P s0 s)
    : Keeps P s0 (debugFault c jsid addr cause level wr s) := by
  unfold debugFault; try dsimp only
  repeat' with_reducible
    (first | assumption | apply freeFaults_keeps | apply reply_keeps | apply postFault_keeps | intro _)

theorem accessJob_keeps {s0 : State} {c : CmdCtx} {wr : Bool} {jsid a n : Nat} {wdata : List Byte} {s : State} (h0 : Keeps noByte s0 s)
    : Keeps noByte s0 (accessJob c wr jsid a n wdata s) := by
  unfold accessJob; try dsimp only
  repeat' with_reducible
    (first | assumption | apply reply_keeps | apply secEvent_keeps | apply debugFault_keeps | apply walkRead_keeps | apply writeJob_keeps
           | refine writeJob_keeps_eq (by assumption) ?_ | apply readJob_keeps | refine readJob_keeps_eq (by assumption) ?_ | (split)
           | (refine Keeps.mk ?_ ?_ ?_ <;> (try dsimp only) <;> first | apply Keeps.queue | apply Keeps.bic (P := noByte) | apply Keeps.bound (P := noByte)) | intro _)

theorem execDbgAccess_keeps {s0 u9 : State} {c : CmdCtx} {op space jsid rsvd : Byte} {addr : U64} {n rsvd2 : U32} {wdata : List Byte}
    {s : State}  (h9 : execDbgAccess c op space jsid rsvd addr n rsvd2 wdata s = .next u9) (h0 : Keeps noByte s0 s) : Keeps noByte s0 u9 := by
  unfold execDbgAccess at h9; try dsimp only at h9
  cases h9
  repeat' with_reducible
    (first | assumption | apply pageWait_keeps | apply immediate_keeps | apply reply_keeps | apply accessStore_keeps | apply accessPhys_keeps
           | apply accessJob_keeps | (split) | intro _)

end Sys2Proof.Machine
end

