-- ==== Sys2Proof/Laws/KeepsPower.lean ====
section
/-!
SUPPORT. KeepsPower.lean: every operation and meaning of Machine/Power.lean keeps the queue, the BIC and the bounds of
State.Bounded, and, where it stores nothing, every byte of DRAM; one lemma each, stated from any earlier state s0 so that lemmas chain.
-/
namespace Sys2Proof.Machine

theorem beginTransition_keeps {P : Nat → Prop} {s0 : State} {target : PwrState} {ctx : Option CmdCtx} {s : State} (h0 : Keeps P s0 s)
    : Keeps P s0 (beginTransition target ctx s) := by
  unfold beginTransition; try dsimp only
  repeat' with_reducible
    (first | assumption | apply redirect_keeps | (split)
           | (refine Keeps.mk ?_ ?_ ?_ <;> (try dsimp only) <;> first | apply Keeps.pend | apply Keeps.bic (P := P) | apply Keeps.bound (P := P)))

theorem stopForOff_keeps {P : Nat → Prop} {s0 : State} {s : State} (h0 : Keeps P s0 s) : Keeps P s0 (stopForOff s) := by
  unfold stopForOff; try dsimp only
  repeat' with_reducible
    (first | assumption | apply eachPart_keeps | apply setPart_keeps | (split)
           | (refine Keeps.mk ?_ ?_ ?_ <;> (try dsimp only) <;> first | apply Keeps.pend | apply Keeps.bic (P := P) | apply Keeps.bound (P := P)) | intro _)

theorem execPwrSet_keeps {P : Nat → Prop} {s0 u9 : State} {c : CmdCtx} {target : Byte} {rsvd : BitVec 24} {s : State}
    (h9 : execPwrSet c target rsvd s = .next u9) (h0 : Keeps P s0 s) : Keeps P s0 u9 := by
  unfold execPwrSet at h9; try dsimp only at h9
  cases h9
  repeat' with_reducible
    (first | assumption | apply immediate_keeps | apply reply_keeps | apply setAlertWatch_keeps | apply stopForOff_keeps | apply endHalt_keeps
           | apply redirect_keeps | apply beginTransition_keeps | (split)
           | (refine Keeps.mk ?_ ?_ ?_ <;> (try dsimp only) <;> first | apply Keeps.pend | apply Keeps.bic (P := P) | apply Keeps.bound (P := P)) | intro _)

theorem execPwrStatus_keeps {P : Nat → Prop} {s0 u9 : State} {c : CmdCtx} {s : State}  (h9 : execPwrStatus c s = .next u9) (h0 : Keeps P s0 s)
    : Keeps P s0 u9 := by
  unfold execPwrStatus at h9; try dsimp only at h9
  cases h9
  repeat' with_reducible
    (first | assumption | apply immediate_keeps | apply draw_keeps | refine draw_keeps_eq (by assumption) ?_ | apply reply_keeps | (split)
           | (refine Keeps.mk ?_ ?_ ?_ <;> (try dsimp only) <;> first | apply Keeps.pend | apply Keeps.bic (P := P) | apply Keeps.bound (P := P)) | intro _)

theorem execPwrWatch_keeps {P : Nat → Prop} {s0 u9 : State} {c : CmdCtx} {period : U32} {ns chk : Byte} {rsvd : U16} {sensors : List WatchSensor}
    {s : State}  (h9 : execPwrWatch c period ns chk rsvd sensors s = .next u9) (h0 : Keeps P s0 s) : Keeps P s0 u9 := by
  unfold execPwrWatch at h9; try dsimp only at h9
  cases h9
  repeat' with_reducible
    (first | assumption | apply immediate_keeps | apply reply_keeps | (split)
           | (refine Keeps.mk ?_ ?_ ?_ <;> (try dsimp only) <;> first | apply Keeps.pend | apply Keeps.bic (P := P) | apply Keeps.bound (P := P)) | intro _)

end Sys2Proof.Machine
end

