-- ==== Sys2Proof/Laws/KeepsCast.lean ====
section
/-!
SUPPORT. KeepsCast.lean: every operation and meaning of Machine/Cast.lean keeps the queue, the BIC and the bounds of
State.Bounded, and, where it stores nothing, every byte of DRAM; one lemma each, stated from any earlier state s0 so that lemmas chain.
-/
namespace Sys2Proof.Machine

theorem castReads_keeps {P : Nat → Prop} {s0 : State} {p : Nat} {s : State} (h0 : Keeps P s0 s) : Keeps P s0 (castReads p s) := by
  unfold castReads; try dsimp only
  repeat' with_reducible
    (first | assumption | apply bufferCheck_keeps | apply bmCheck_keeps | (apply foldl_keeps <;> (try intro _ _ _)) | intro _)

theorem markDamaged_keeps {P : Nat → Prop} {s0 : State} {p : Nat} {s : State} (h0 : Keeps P s0 s) : Keeps P s0 (markDamaged p s) := by
  unfold markDamaged; try dsimp only
  repeat' with_reducible
    (first | assumption | apply setPart_keeps
           | (refine Keeps.mk ?_ ?_ ?_ <;> (try dsimp only) <;> first | apply Keeps.pend | apply Keeps.bic (P := P) | apply Keeps.bound (P := P)) | intro _)

theorem armCast_keeps {P : Nat → Prop} {s0 : State} {p : Nat} {a : CastAct} {s : State} (h0 : Keeps P s0 s) : Keeps P s0 (armCast p a s) := by
  unfold armCast; try dsimp only
  repeat' with_reducible
    (first | assumption | apply startAct_keeps | apply setPart_keeps
           | (refine Keeps.mk ?_ ?_ ?_ <;> (try dsimp only) <;> first | apply Keeps.pend | apply Keeps.bic (P := P) | apply Keeps.bound (P := P)) | intro _)

theorem takeAtTick_keeps {P : Nat → Prop} {s0 : State} {p : Nat} {c : CmdCtx} {s : State} (h0 : Keeps P s0 s) : Keeps P s0 (takeAtTick p c s) := by
  unfold takeAtTick; try dsimp only
  repeat' with_reducible
    (first | assumption | apply reply_keeps | apply armCast_keeps | apply rootPause_keeps | refine rootPause_keeps_eq (by assumption) ?_
           | apply markerUp_keeps | apply askRoot_keeps | (split)
           | (refine Keeps.mk ?_ ?_ ?_ <;> (try dsimp only) <;> first | apply Keeps.pend | apply Keeps.bic (P := P) | apply Keeps.bound (P := P)) | intro _)

theorem takeAtEdge_keeps {P : Nat → Prop} {s0 : State} {p clk : Nat} {step : Nat} {c : CmdCtx} {s : State} (h0 : Keeps P s0 s)
    : Keeps P s0 (takeAtEdge p clk step c s) := by
  unfold takeAtEdge; try dsimp only
  repeat' with_reducible
    (first | assumption | apply reply_keeps | apply armCast_keeps)

theorem execCastTake_keeps {P : Nat → Prop} {s0 u9 : State} {c : CmdCtx} {part trig clk rsvd : Byte} {step : U64} {s : State}
    (h9 : execCastTake c part trig clk rsvd step s = .next u9) (h0 : Keeps P s0 s) : Keeps P s0 u9 := by
  unfold execCastTake at h9; try dsimp only at h9
  cases h9
  repeat' with_reducible
    (first | assumption | apply immediate_keeps | apply onPart_keeps | apply busyReply_keeps | apply reply_keeps | apply takeAtTick_keeps
           | apply takeAtEdge_keeps | (split)
           | (refine Keeps.mk ?_ ?_ ?_ <;> (try dsimp only) <;> first | apply Keeps.pend | apply Keeps.bic (P := P) | apply Keeps.bound (P := P)) | intro _)

theorem execCastCaptureBegin_keeps {P : Nat → Prop} {s0 u9 : State} {part : Fin 4} {s : State}  (h9 : execCastCaptureBegin part s = .next u9) (h0
    : Keeps P s0 s) : Keeps P s0 u9 := by
  unfold execCastCaptureBegin at h9; try dsimp only at h9
  cases h9
  repeat' with_reducible
    (first | assumption | apply loseCast_keeps | apply castReads_keeps | apply setPart_keeps | (split)
           | (refine Keeps.mk ?_ ?_ ?_ <;> (try dsimp only) <;> first | apply Keeps.pend | apply Keeps.bic (P := P) | apply Keeps.bound (P := P)) | intro _)

theorem execCastFabricEdge_keeps {P : Nat → Prop} {s0 u9 : State} {part : Fin 4} {s : State}  (h9 : execCastFabricEdge part s = .next u9) (h0 : Keeps P s0 s)
    : Keeps P s0 u9 := by
  unfold execCastFabricEdge at h9; try dsimp only at h9
  cases h9
  repeat' with_reducible
    (first | assumption | apply loseCast_keeps | apply setPart_keeps | (split)
           | (refine Keeps.mk ?_ ?_ ?_ <;> (try dsimp only) <;> first | apply Keeps.pend | apply Keeps.bic (P := P) | apply Keeps.bound (P := P)) | intro _)

theorem execCastCaptureComplete_keeps {P : Nat → Prop} {s0 u9 : State} {part : Fin 4} {s : State}  (h9 : execCastCaptureComplete part s = .next u9) (h0
    : Keeps P s0 s) : Keeps P s0 u9 := by
  unfold execCastCaptureComplete at h9; try dsimp only at h9
  cases h9
  repeat' with_reducible
    (first | assumption | apply setPart_keeps | apply endAct_keeps | apply completeOpt_keeps | apply rootRestart_keeps | (split)
           | (refine Keeps.mk ?_ ?_ ?_ <;> (try dsimp only) <;> first | apply Keeps.pend | apply Keeps.bic (P := P) | apply Keeps.bound (P := P)) | intro _)

theorem execCastSave_keeps {P : Nat → Prop} {s0 u9 : State} {c : CmdCtx} {part : Byte} {rsvd : BitVec 56} {jaddr len : U64} {s : State}
    (h9 : execCastSave c part rsvd jaddr len s = .next u9) (h0 : Keeps P s0 s) : Keeps P s0 u9 := by
  unfold execCastSave at h9; try dsimp only at h9
  cases h9
  repeat' with_reducible
    (first | assumption | apply pageWait_keeps | apply immediate_keeps | apply onPart_keeps | apply reply_keeps | apply busyReply_keeps
           | apply startAct_keeps | apply enqueue_keeps | apply setPart_keeps | (split)
           | (refine Keeps.mk ?_ ?_ ?_ <;> (try dsimp only) <;> first | apply Keeps.pend | apply Keeps.bic (P := P) | apply Keeps.bound (P := P)) | intro _)

theorem execCastRead_keeps {P : Nat → Prop} {s0 u9 : State} {c : CmdCtx} {offset : U64} {n rsvd : U32} {s : State}
    (h9 : execCastRead c offset n rsvd s = .next u9) (h0 : Keeps P s0 s) : Keeps P s0 u9 := by
  unfold execCastRead at h9; try dsimp only at h9
  cases h9
  repeat' with_reducible
    (first | assumption | apply immediate_keeps | apply reply_keeps | apply markDamaged_keeps | (split)
           | (refine Keeps.mk ?_ ?_ ?_ <;> (try dsimp only) <;> first | apply Keeps.pend | apply Keeps.bic (P := P) | apply Keeps.bound (P := P)) | intro _)

theorem execCastRestore_keeps {P : Nat → Prop} {s0 u9 : State} {c : CmdCtx} {part : Byte} {rsvd : BitVec 56} {jaddr len : U64} {s : State}
    (h9 : execCastRestore c part rsvd jaddr len s = .next u9) (h0 : Keeps P s0 s) : Keeps P s0 u9 := by
  unfold execCastRestore at h9; try dsimp only at h9
  cases h9
  repeat' with_reducible
    (first | assumption | apply pageWait_keeps | apply immediate_keeps | apply onPart_keeps | apply reply_keeps | apply busyReply_keeps
           | apply startAct_keeps | apply enqueue_keeps | apply setPart_keeps | (split)
           | (refine Keeps.mk ?_ ?_ ?_ <;> (try dsimp only) <;> first | apply Keeps.pend | apply Keeps.bic (P := P) | apply Keeps.bound (P := P)) | intro _)

theorem restoreCluster_keeps {P : Nat → Prop} {s0 : State} {b : List Byte} {base i pcl bank : Nat} {s : State} (h0 : Keeps P s0 s)
    : Keeps P s0 (restoreCluster b base i pcl bank s) := by
  unfold restoreCluster; try dsimp only
  repeat' with_reducible
    (first | assumption | (refine Keeps.mk ?_ ?_ ?_ <;> (try dsimp only) <;> first | apply Keeps.pend | apply Keeps.bic (P := P) | apply Keeps.bound (P := P))
           | intro _)

theorem restoreRegion_keeps {P : Nat → Prop} {s0 : State} {b : List Byte} {base i region : Nat} {s : State} (h0 : Keeps P s0 s)
    : Keeps P s0 (restoreRegion b base i region s) := by
  unfold restoreRegion; try dsimp only
  repeat' with_reducible
    (first | assumption | apply resetRegion_keeps | (split)
           | (refine Keeps.mk ?_ ?_ ?_ <;> (try dsimp only) <;> first | apply Keeps.pend | apply Keeps.bic (P := P) | apply Keeps.bound (P := P)) | intro _)

theorem restoreBmems_keeps {P : Nat → Prop} {s0 : State} {b : List Byte} {base pd : Nat} {s : State} (h0 : Keeps P s0 s)
    : Keeps P s0 (restoreBmems b base pd s) := by
  unfold restoreBmems; try dsimp only
  repeat' with_reducible
    (first | assumption | (refine Keeps.mk ?_ ?_ ?_ <;> (try dsimp only) <;> first | apply Keeps.pend | apply Keeps.bic (P := P) | apply Keeps.bound (P := P))
           | intro _)

theorem restoreSlice_keeps {P : Nat → Prop} {s0 : State} {b : List Byte} {o n : Nat} {switching : Bool} {s : State} (h0 : Keeps P s0 s)
    : Keeps P s0 (restoreSlice b o n switching s) := by
  unfold restoreSlice; try dsimp only
  repeat' with_reducible
    (first | assumption | apply setSlice_keeps | (split)
           | (refine Keeps.mk ?_ ?_ ?_ <;> (try dsimp only) <;> first | apply Keeps.pend | apply Keeps.bic (P := P) | apply Keeps.bound (P := P)) | intro _)

theorem restoreDie_keeps {P : Nat → Prop} {s0 : State} {b : List Byte} {base ld pd bank : Nat} {switching : Bool} {x : Partition} {s : State} (h0
    : Keeps P s0 s) : Keeps P s0 (restoreDie b base ld pd bank switching x s) := by
  unfold restoreDie; try dsimp only
  repeat' with_reducible
    (first | assumption | apply restoreCluster_keeps | apply restoreRegion_keeps | apply restoreSlice_keeps | apply restoreBmems_keeps
           | (apply foldl_keeps <;> (try intro _ _ _)) | (apply foldl_keeps2 <;> (try intro _ _ _) <;> (try dsimp only))
           | (apply foldl_keeps3 <;> (try intro _ _ _) <;> (try dsimp only)) | intro _)

theorem applyRestore_keeps {P : Nat → Prop} {s0 : State} {p : Nat} {b : List Byte} {s : State} (h0 : Keeps P s0 s) : Keeps P s0 (applyRestore p b s) := by
  unfold applyRestore; try dsimp only
  repeat' with_reducible
    (first | assumption | apply restoreDie_keeps | apply clearBanks_keeps | apply setPart_keeps | (apply foldl_keeps <;> (try intro _ _ _))
           | (apply foldl_keeps2 <;> (try intro _ _ _) <;> (try dsimp only)) | (apply foldl_keeps3 <;> (try intro _ _ _) <;> (try dsimp only))
           | (refine Keeps.mk ?_ ?_ ?_ <;> (try dsimp only) <;> first | apply Keeps.pend | apply Keeps.bic (P := P) | apply Keeps.bound (P := P)) | intro _)

theorem switchStart_keeps {P : Nat → Prop} {s0 : State} {p : Nat} {s : State} (h0 : Keeps P s0 s) : Keeps P s0 (switchStart p s) := by
  unfold switchStart; try dsimp only
  repeat' with_reducible
    (first | assumption | apply failSwitch_keeps | apply beginStart_keeps | (split)
           | (refine Keeps.mk ?_ ?_ ?_ <;> (try dsimp only) <;> first | apply Keeps.pend | apply Keeps.bic (P := P) | apply Keeps.bound (P := P)) | intro _)

theorem endRestore_keeps {P : Nat → Prop} {s0 : State} {p outcome : Nat} {s : State} (h0 : Keeps P s0 s) : Keeps P s0 (endRestore p outcome s) := by
  unfold endRestore; try dsimp only
  repeat' with_reducible
    (first | assumption | apply endCast_keeps | apply setPart_keeps | apply complete_keeps | apply phaseEvent_keeps | apply switchStart_keeps
           | apply failSwitch_keeps | (split)
           | (refine Keeps.mk ?_ ?_ ?_ <;> (try dsimp only) <;> first | apply Keeps.pend | apply Keeps.bic (P := P) | apply Keeps.bound (P := P)) | intro _)

theorem execRestoreComplete_keeps {P : Nat → Prop} {s0 u9 : State} {part : Fin 4} {s : State}  (h9 : execRestoreComplete part s = .next u9) (h0
    : Keeps P s0 s) : Keeps P s0 u9 := by
  unfold execRestoreComplete at h9; try dsimp only at h9
  cases h9
  repeat' with_reducible
    (first | assumption | apply readJob_keeps | refine readJob_keeps_eq (by assumption) ?_ | apply endRestore_keeps | apply dropHead_keeps
           | apply recordFault_keeps | apply suspendList_keeps | apply applyRestore_keeps | (split)
           | (refine Keeps.mk ?_ ?_ ?_ <;> (try dsimp only) <;> first | apply Keeps.pend | apply Keeps.bic (P := P) | apply Keeps.bound (P := P)) | intro _)

end Sys2Proof.Machine
end

