-- ==== Sys2Proof/Laws/KeepsMaquettes.lean ====
section
/-!
SUPPORT. KeepsMaquettes.lean: every operation and meaning of Machine/Maquettes.lean keeps the queue, the BIC and the bounds of
State.Bounded, and, where it stores nothing, every byte of DRAM; one lemma each, stated from any earlier state s0 so that lemmas chain.
-/
namespace Sys2Proof.Machine

theorem endOwner_keeps {P : Nat → Prop} {s0 : State} {p : Nat} {o : PauseOwner} {s : State} (h0 : Keeps P s0 s) : Keeps P s0 (endOwner p o s) := by
  unfold endOwner; try dsimp only
  repeat' with_reducible
    (first | assumption | apply complete_keeps | apply supersedeCast_keeps | (split)
           | (refine Keeps.mk ?_ ?_ ?_ <;> (try dsimp only) <;> first | apply Keeps.pend | apply Keeps.bic (P := P) | apply Keeps.bound (P := P)) | intro _)

theorem endAsked_keeps {P : Nat → Prop} {s0 : State} {p : Nat} {o : PauseOwner} {s : State} (h0 : Keeps P s0 s) : Keeps P s0 (endAsked p o s) := by
  unfold endAsked; try dsimp only
  repeat' with_reducible
    (first | assumption | apply reply_keeps | apply complete_keeps | apply endAct_keeps | apply setPart_keeps | (split)
           | (refine Keeps.mk ?_ ?_ ?_ <;> (try dsimp only) <;> first | apply Keeps.pend | apply Keeps.bic (P := P) | apply Keeps.bound (P := P)) | intro _)

theorem supersede_keeps {P : Nat → Prop} {s0 : State} {p : Nat} {s : State} (h0 : Keeps P s0 s) : Keeps P s0 (supersede p s) := by
  unfold supersede; try dsimp only
  repeat' with_reducible
    (first | assumption | apply cancelChanges_keeps | apply endOwner_keeps | apply endAsked_keeps | apply complete_keeps | apply setPart_keeps
           | (apply foldl_keeps <;> (try intro _ _ _))
           | (refine Keeps.mk ?_ ?_ ?_ <;> (try dsimp only) <;> first | apply Keeps.pend | apply Keeps.bic (P := P) | apply Keeps.bound (P := P)) | intro _)

theorem enterLoading_keeps {P : Nat → Prop} {s0 : State} {p : Nat} {ctx : Option CmdCtx} {dies : BitVec 4} {jsid : Nat} {override : Bool} {addr len : Nat}
    {s : State} (h0 : Keeps P s0 s) : Keeps P s0 (enterLoading p ctx dies jsid override addr len s) := by
  unfold enterLoading; try dsimp only
  repeat' with_reducible
    (first | assumption | apply quietDies_keeps | apply setPart_keeps | (split)
           | (refine Keeps.mk ?_ ?_ ?_ <;> (try dsimp only) <;> first | apply Keeps.pend | apply Keeps.bic (P := P) | apply Keeps.bound (P := P)) | intro _)

theorem execMaquetteLoad_keeps {P : Nat → Prop} {s0 u9 : State} {c : CmdCtx} {part dies jsid flags : Byte} {addr len : U64} {s : State}
    (h9 : execMaquetteLoad c part dies jsid flags addr len s = .next u9) (h0 : Keeps P s0 s) : Keeps P s0 u9 := by
  unfold execMaquetteLoad at h9; try dsimp only at h9
  cases h9
  repeat' with_reducible
    (first | assumption | apply pageWait_keeps | apply immediate_keeps | apply reply_keeps | apply enterLoading_keeps | apply supersedeCast_keeps
           | apply supersede_keeps | apply enqueue_keeps | (split)
           | (refine Keeps.mk ?_ ?_ ?_ <;> (try dsimp only) <;> first | apply Keeps.pend | apply Keeps.bic (P := P) | apply Keeps.bound (P := P)) | intro _)

theorem failLoad_keeps {P : Nat → Prop} {s0 : State} {p code : Nat} {data : List Byte} {s : State} (h0 : Keeps P s0 s)
    : Keeps P s0 (failLoad p code data s) := by
  unfold failLoad; try dsimp only
  repeat' with_reducible
    (first | assumption | apply completeOpt_keeps | apply emptyPart_keeps | apply failSwitch_keeps)

theorem finishLoad_keeps {P : Nat → Prop} {s0 : State} {p : Nat} {im : Image} {pm : SMap Nat} {s : State} (h0 : Keeps P s0 s)
    : Keeps P s0 (finishLoad p im pm s) := by
  unfold finishLoad; try dsimp only
  repeat' with_reducible
    (first | assumption | apply setPart_keeps | apply noteOverride_keeps | apply completeOpt_keeps | apply refreshDigest_keeps | (split)
           | (refine Keeps.mk ?_ ?_ ?_ <;> (try dsimp only) <;> first | apply Keeps.pend | apply Keeps.bic (P := P) | apply Keeps.bound (P := P)) | intro _)

theorem reloadLane_keeps {P : Nat → Prop} {s0 : State} {s : State} {n : Nat} (h0 : Keeps P s0 s) : Keeps P s0 (reloadLane s n) := by
  unfold reloadLane; try dsimp only
  repeat' with_reducible
    (first | assumption | apply setLane_keeps | (split)
           | (refine Keeps.mk ?_ ?_ ?_ <;> (try dsimp only) <;> first | apply Keeps.pend | apply Keeps.bic (P := P) | apply Keeps.bound (P := P)))

theorem reviveEngines_keeps {P : Nat → Prop} {s0 : State} {cls : List Nat} {s : State} (h0 : Keeps P s0 s) : Keeps P s0 (reviveEngines cls s) := by
  unfold reviveEngines; try dsimp only
  repeat' with_reducible
    (first | assumption | (refine Keeps.mk ?_ ?_ ?_ <;> (try dsimp only) <;> first | apply Keeps.pend | apply Keeps.bic (P := P) | apply Keeps.bound (P := P))
           | intro _)

theorem loadImage_keeps {P : Nat → Prop} {s0 : State} {p : Nat} {b : List Byte} {s : State} (h0 : Keeps P s0 s) : Keeps P s0 (loadImage p b s) := by
  unfold loadImage; try dsimp only
  repeat' with_reducible
    (first | assumption | apply failLoad_keeps | apply reviveEngines_keeps | apply discardRows_keeps | apply writeImage_keeps
           | refine writeImage_keeps_eq (by assumption) ?_ | apply finishLoad_keeps | apply reloadLane_keeps | apply laneReady_keeps
           | (apply foldl_keeps <;> (try intro _ _ _)) | (apply foldl_keeps2 <;> (try intro _ _ _) <;> (try dsimp only))
           | (apply foldl_keeps3 <;> (try intro _ _ _) <;> (try dsimp only)) | (split)
           | (refine Keeps.mk ?_ ?_ ?_ <;> (try dsimp only) <;> first | apply Keeps.pend | apply Keeps.bic (P := P) | apply Keeps.bound (P := P)) | intro _)

theorem switchLoaded_keeps {P : Nat → Prop} {s0 : State} {p : Nat} {s : State} (h0 : Keeps P s0 s) : Keeps P s0 (switchLoaded p s) := by
  unfold switchLoaded; try dsimp only
  repeat' with_reducible
    (first | assumption | apply phaseEvent_keeps | apply setPart_keeps | apply switchStart_keeps | (split)
           | (refine Keeps.mk ?_ ?_ ?_ <;> (try dsimp only) <;> first | apply Keeps.pend | apply Keeps.bic (P := P) | apply Keeps.bound (P := P)) | intro _)

theorem execLoadComplete_keeps {P : Nat → Prop} {s0 u9 : State} {part : Fin 4} {s : State}  (h9 : execLoadComplete part s = .next u9) (h0 : Keeps P s0 s)
    : Keeps P s0 u9 := by
  unfold execLoadComplete at h9; try dsimp only at h9
  cases h9
  repeat' with_reducible
    (first | assumption | apply readJob_keeps | refine readJob_keeps_eq (by assumption) ?_ | apply failLoad_keeps | apply dropHead_keeps
           | apply recordFault_keeps | apply suspendList_keeps | apply loadImage_keeps | apply switchLoaded_keeps | (split)
           | (refine Keeps.mk ?_ ?_ ?_ <;> (try dsimp only) <;> first | apply Keeps.pend | apply Keeps.bic (P := P) | apply Keeps.bound (P := P)) | intro _)

theorem execMaquetteStart_keeps {P : Nat → Prop} {s0 u9 : State} {c : CmdCtx} {part : Byte} {rsvd : BitVec 24} {s : State}
    (h9 : execMaquetteStart c part rsvd s = .next u9) (h0 : Keeps P s0 s) : Keeps P s0 u9 := by
  unfold execMaquetteStart at h9; try dsimp only at h9
  cases h9
  repeat' with_reducible
    (first | assumption | apply immediate_keeps | apply onPart_keeps | apply reply_keeps | apply beginStart_keeps | (split)
           | (refine Keeps.mk ?_ ?_ ?_ <;> (try dsimp only) <;> first | apply Keeps.pend | apply Keeps.bic (P := P) | apply Keeps.bound (P := P)) | intro _)

theorem abandonLoad_keeps {P : Nat → Prop} {s0 : State} {p : Nat} {s : State} (h0 : Keeps P s0 s) : Keeps P s0 (abandonLoad p s) := by
  unfold abandonLoad; try dsimp only
  repeat' with_reducible
    (first | assumption | apply completeOpt_keeps | apply failSwitch_keeps | apply dropKind_keeps | apply setPart_keeps
           | (refine Keeps.mk ?_ ?_ ?_ <;> (try dsimp only) <;> first | apply Keeps.pend | apply Keeps.bic (P := P) | apply Keeps.bound (P := P)) | intro _)

theorem abandonRestore_keeps {P : Nat → Prop} {s0 : State} {p : Nat} {s : State} (h0 : Keeps P s0 s) : Keeps P s0 (abandonRestore p s) := by
  unfold abandonRestore; try dsimp only
  repeat' with_reducible
    (first | assumption | apply dropKind_keeps | apply setPart_keeps | apply completeOpt_keeps | apply endCast_keeps | apply failSwitch_keeps
           | (split) | (refine Keeps.mk ?_ ?_ ?_ <;> (try dsimp only) <;> first | apply Keeps.pend | apply Keeps.bic (P := P) | apply Keeps.bound (P := P))
           | intro _)

theorem abandonStart_keeps {P : Nat → Prop} {s0 : State} {p : Nat} {s : State} (h0 : Keeps P s0 s) : Keeps P s0 (abandonStart p s) := by
  unfold abandonStart; try dsimp only
  repeat' with_reducible
    (first | assumption | apply abortMember_keeps | apply failStart_keeps)

theorem execMaquetteUnload_keeps {P : Nat → Prop} {s0 u9 : State} {c : CmdCtx} {part : Byte} {rsvd : BitVec 24} {s : State}
    (h9 : execMaquetteUnload c part rsvd s = .next u9) (h0 : Keeps P s0 s) : Keeps P s0 u9 := by
  unfold execMaquetteUnload at h9; try dsimp only at h9
  cases h9
  repeat' with_reducible
    (first | assumption | apply immediate_keeps | apply onPart_keeps | apply reply_keeps | apply setPart_keeps | apply emptyPart_keeps
           | apply abandonLoad_keeps | apply abandonStart_keeps | apply supersedeCast_keeps | apply supersede_keeps | apply finishUnload_keeps
           | apply endCast_keeps | apply failSwitch_keeps | apply abandonRestore_keeps | (split)
           | (refine Keeps.mk ?_ ?_ ?_ <;> (try dsimp only) <;> first | apply Keeps.pend | apply Keeps.bic (P := P) | apply Keeps.bound (P := P)) | intro _)

theorem execMaquetteMigrate_keeps {P : Nat → Prop} {s0 u9 : State} {c : CmdCtx} {part lcl tgt rsvd : Byte} {s : State}
    (h9 : execMaquetteMigrate c part lcl tgt rsvd s = .next u9) (h0 : Keeps P s0 s) : Keeps P s0 u9 := by
  unfold execMaquetteMigrate at h9; try dsimp only at h9
  cases h9
  repeat' with_reducible
    (first | assumption | apply immediate_keeps | apply onPart_keeps | apply reply_keeps | apply draw_keeps
           | refine draw_keeps_eq (by assumption) ?_ | apply addChange_keeps | apply setMigration_keeps | (split)
           | (refine Keeps.mk ?_ ?_ ?_ <;> (try dsimp only) <;> first | apply Keeps.pend | apply Keeps.bic (P := P) | apply Keeps.bound (P := P)) | intro _)

theorem clearTarget_keeps {P : Nat → Prop} {s0 : State} {t : Nat} {s : State} (h0 : Keeps P s0 s) : Keeps P s0 (clearTarget t s) := by
  unfold clearTarget; try dsimp only
  repeat' with_reducible
    (first | assumption | (split)
           | (refine Keeps.mk ?_ ?_ ?_ <;> (try dsimp only) <;> first | apply Keeps.pend | apply Keeps.bic (P := P) | apply Keeps.bound (P := P)) | intro _)

theorem copyFromImage_keeps {P : Nat → Prop} {s0 : State} {p : Nat} {g : Migration} {s : State} (h0 : Keeps P s0 s) : Keeps P s0 (copyFromImage p g s) := by
  unfold copyFromImage; try dsimp only
  repeat' with_reducible
    (first | assumption | apply writeSeq_keeps | refine writeSeq_keeps_eq (by assumption) ?_ | apply writeSection_keeps
           | refine writeSection_keeps_eq (by assumption) ?_ | apply clearTarget_keeps | (split)
           | (refine Keeps.mk ?_ ?_ ?_ <;> (try dsimp only) <;> first | apply Keeps.pend | apply Keeps.bic (P := P) | apply Keeps.bound (P := P)) | intro _)

theorem execMigrateCopyComplete_keeps {P : Nat → Prop} {s0 u9 : State} {die : Fin 4} {readBackOk : Bool} {s : State}
    (h9 : execMigrateCopyComplete die readBackOk s = .next u9) (h0 : Keeps P s0 s) : Keeps P s0 u9 := by
  unfold execMigrateCopyComplete at h9; try dsimp only at h9
  cases h9
  repeat' with_reducible
    (first | assumption | apply changeReady_keeps | apply copyFromImage_keeps | apply setMigration_keeps | apply logRec_keeps
           | apply cancelChange_keeps | apply cancelMigration_keeps | (split)
           | (refine Keeps.mk ?_ ?_ ?_ <;> (try dsimp only) <;> first | apply Keeps.pend | apply Keeps.bic (P := P) | apply Keeps.bound (P := P)) | intro _)

theorem execMaquetteRegion_keeps {P : Nat → Prop} {s0 u9 : State} {c : CmdCtx} {part : Byte} {mask : BitVec 24} {addr len : U64} {s : State}
    (h9 : execMaquetteRegion c part mask addr len s = .next u9) (h0 : Keeps P s0 s) : Keeps P s0 u9 := by
  unfold execMaquetteRegion at h9; try dsimp only at h9
  cases h9
  repeat' with_reducible
    (first | assumption | apply pageWait_keeps | apply immediate_keeps | apply onPart_keeps | apply reply_keeps | apply draw_keeps
           | refine draw_keeps_eq (by assumption) ?_ | apply addChange_keeps | apply setPart_keeps | apply enqueue_keeps | (split)
           | (refine Keeps.mk ?_ ?_ ?_ <;> (try dsimp only) <;> first | apply Keeps.pend | apply Keeps.bic (P := P) | apply Keeps.bound (P := P)) | intro _)

theorem takeReread_keeps {P : Nat → Prop} {s0 : State} {p : Nat} {r : Reconfig} {b : List Byte} {s : State} (h0 : Keeps P s0 s)
    : Keeps P s0 (takeReread p r b s) := by
  unfold takeReread; try dsimp only
  repeat' with_reducible
    (first | assumption | apply failReconfig_keeps | apply setPart_keeps | (split)
           | (refine Keeps.mk ?_ ?_ ?_ <;> (try dsimp only) <;> first | apply Keeps.pend | apply Keeps.bic (P := P) | apply Keeps.bound (P := P)) | intro _)

theorem takePartial_keeps {P : Nat → Prop} {s0 : State} {p : Nat} {c : CmdCtx} {b : List Byte} {s : State} (h0 : Keeps P s0 s)
    : Keeps P s0 (takePartial p c b s) := by
  unfold takePartial; try dsimp only
  repeat' with_reducible
    (first | assumption | apply takeReread_keeps | apply complete_keeps | apply setPart_keeps | apply changeReady_keeps | (split)
           | (refine Keeps.mk ?_ ?_ ?_ <;> (try dsimp only) <;> first | apply Keeps.pend | apply Keeps.bic (P := P) | apply Keeps.bound (P := P)) | intro _)

theorem rewriteRegion_keeps {P : Nat → Prop} {s0 : State} {p region : Nat} {im : Image} {s : State} (h0 : Keeps P s0 s)
    : Keeps P s0 (rewriteRegion p region im s) := by
  unfold rewriteRegion; try dsimp only
  repeat' with_reducible
    (first | assumption | apply writeSeq_keeps | refine writeSeq_keeps_eq (by assumption) ?_ | apply writeSection_keeps
           | refine writeSection_keeps_eq (by assumption) ?_ | apply clearRegions_keeps | (split)
           | (refine Keeps.mk ?_ ?_ ?_ <;> (try dsimp only) <;> first | apply Keeps.pend | apply Keeps.bic (P := P) | apply Keeps.bound (P := P)) | intro _)

theorem execRegionRewriteComplete_keeps {P : Nat → Prop} {s0 u9 : State} {part : Fin 4} {region : Fin 24} {readBackOk : Bool} {s : State}
    (h9 : execRegionRewriteComplete part region readBackOk s = .next u9) (h0 : Keeps P s0 s) : Keeps P s0 u9 := by
  unfold execRegionRewriteComplete at h9; try dsimp only at h9
  cases h9
  repeat' with_reducible
    (first | assumption | apply rereadImage_keeps | apply failReconfig_keeps | apply rewriteRegion_keeps | apply setPart_keeps
           | apply changeReady_keeps | (split)
           | (refine Keeps.mk ?_ ?_ ?_ <;> (try dsimp only) <;> first | apply Keeps.pend | apply Keeps.bic (P := P) | apply Keeps.bound (P := P)) | intro _)

theorem beginSwitch_keeps {P : Nat → Prop} {s0 : State} {p : Nat} {c : CmdCtx} {w : Switch} {s : State} (h0 : Keeps P s0 s)
    : Keeps P s0 (beginSwitch p c w s) := by
  unfold beginSwitch; try dsimp only
  repeat' with_reducible
    (first | assumption | apply setPart_keeps | apply setRemaining_keeps | apply reply_keeps | apply markerDown_keeps | apply markerUp_keeps
           | apply rootPause_keeps | refine rootPause_keeps_eq (by assumption) ?_ | apply askRoot_keeps | (split)
           | (refine Keeps.mk ?_ ?_ ?_ <;> (try dsimp only) <;> first | apply Keeps.pend | apply Keeps.bic (P := P) | apply Keeps.bound (P := P)) | intro _)

theorem execMaquetteSwitch_keeps {P : Nat → Prop} {s0 u9 : State} {c : CmdCtx} {part flags njsid rsvd : Byte} {saddr slen iaddr ilen caddr : U64}
    {s : State}  (h9 : execMaquetteSwitch c part flags njsid rsvd saddr slen iaddr ilen caddr s = .next u9) (h0 : Keeps P s0 s)
    : Keeps P s0 u9 := by
  unfold execMaquetteSwitch at h9; try dsimp only at h9
  cases h9
  repeat' with_reducible
    (first | assumption | apply pageWait_keeps | apply immediate_keeps | apply onPart_keeps | apply reply_keeps | apply busyReply_keeps
           | apply beginSwitch_keeps | (split)
           | (refine Keeps.mk ?_ ?_ ?_ <;> (try dsimp only) <;> first | apply Keeps.pend | apply Keeps.bic (P := P) | apply Keeps.bound (P := P)) | intro _)

theorem setPhase_keeps {P : Nat → Prop} {s0 : State} {p n : Nat} {s : State} (h0 : Keeps P s0 s) : Keeps P s0 (setPhase p n s) := by
  unfold setPhase; try dsimp only
  repeat' with_reducible
    (first | assumption | apply setPart_keeps
           | (refine Keeps.mk ?_ ?_ ?_ <;> (try dsimp only) <;> first | apply Keeps.pend | apply Keeps.bic (P := P) | apply Keeps.bound (P := P)) | intro _)

theorem switchCapture_keeps {P : Nat → Prop} {s0 : State} {p : Nat} {w : Switch} {s : State} (h0 : Keeps P s0 s) : Keeps P s0 (switchCapture p w s) := by
  unfold switchCapture; try dsimp only
  repeat' with_reducible
    (first | assumption | apply enqueue_keeps | apply castReads_keeps | apply setPart_keeps | apply setPhase_keeps | apply phaseEvent_keeps
           | apply enterLoading_keeps | apply supersede_keeps | (split)
           | (refine Keeps.mk ?_ ?_ ?_ <;> (try dsimp only) <;> first | apply Keeps.pend | apply Keeps.bic (P := P) | apply Keeps.bound (P := P)) | intro _)

theorem switchRestore_keeps {P : Nat → Prop} {s0 : State} {p : Nat} {w : Switch} {s : State} (h0 : Keeps P s0 s) : Keeps P s0 (switchRestore p w s) := by
  unfold switchRestore; try dsimp only
  repeat' with_reducible
    (first | assumption | apply setPhase_keeps | apply startAct_keeps | apply enqueue_keeps | apply endAct_keeps | (split)
           | (refine Keeps.mk ?_ ?_ ?_ <;> (try dsimp only) <;> first | apply Keeps.pend | apply Keeps.bic (P := P) | apply Keeps.bound (P := P)) | intro _)

theorem sliceSave_keeps {P : Nat → Prop} {s0 : State} {p : Nat} {w : Switch} {s : State} (h0 : Keeps P s0 s) : Keeps P s0 (sliceSave p w s) := by
  unfold sliceSave; try dsimp only
  repeat' with_reducible
    (first | assumption | apply queueSliceSave_keeps | apply setPart_keeps | (split)
           | (refine Keeps.mk ?_ ?_ ?_ <;> (try dsimp only) <;> first | apply Keeps.pend | apply Keeps.bic (P := P) | apply Keeps.bound (P := P)) | intro _)

theorem execSwitchPhaseComplete_keeps {P : Nat → Prop} {s0 u9 : State} {part : Fin 4} {s : State}  (h9 : execSwitchPhaseComplete part s = .next u9) (h0
    : Keeps P s0 s) : Keeps P s0 u9 := by
  unfold execSwitchPhaseComplete at h9; try dsimp only at h9
  cases h9
  repeat' with_reducible
    (first | assumption | apply setPhase_keeps | apply phaseEvent_keeps | apply cancelChanges_keeps | apply startAct_keeps
           | apply switchCapture_keeps | apply switchRestore_keeps | apply sliceSave_keeps | apply endCast_keeps | apply finishSwitch_keeps
           | apply setPart_keeps | (split)
           | (refine Keeps.mk ?_ ?_ ?_ <;> (try dsimp only) <;> first | apply Keeps.pend | apply Keeps.bic (P := P) | apply Keeps.bound (P := P)) | intro _)

end Sys2Proof.Machine
end

