-- ==== Sys2Proof/Laws/KeepsStats.lean ====
section
/-!
SUPPORT. KeepsStats.lean: every operation and meaning of Machine/Stats.lean keeps the queue, the BIC and the bounds of
State.Bounded, and, where it stores nothing, every byte of DRAM; one lemma each, stated from any earlier state s0 so that lemmas chain.
-/
namespace Sys2Proof.Machine

theorem execStatsRead_keeps {P : Nat → Prop} {s0 u9 : State} {c : CmdCtx} {sub rsvd : Byte} {unit : U16} {s : State}
    (h9 : execStatsRead c sub rsvd unit s = .next u9) (h0 : Keeps P s0 s) : Keeps P s0 u9 := by
  unfold execStatsRead at h9; try dsimp only at h9
  cases h9
  repeat' with_reducible
    (first | assumption | apply immediate_keeps | apply reply_keeps | (split)
           | (refine Keeps.mk ?_ ?_ ?_ <;> (try dsimp only) <;> first | apply Keeps.pend | apply Keeps.bic (P := P) | apply Keeps.bound (P := P)) | intro _)

theorem execStatsNoc_keeps {P : Nat → Prop} {s0 u9 : State} {c : CmdCtx} {first n flags rsvd : Byte} {s : State}
    (h9 : execStatsNoc c first n flags rsvd s = .next u9) (h0 : Keeps P s0 s) : Keeps P s0 u9 := by
  unfold execStatsNoc at h9; try dsimp only at h9
  cases h9
  repeat' with_reducible
    (first | assumption | apply immediate_keeps | apply reply_keeps | (split)
           | (refine Keeps.mk ?_ ?_ ?_ <;> (try dsimp only) <;> first | apply Keeps.pend | apply Keeps.bic (P := P) | apply Keeps.bound (P := P)) | intro _)

theorem execLogRead_keeps {P : Nat → Prop} {s0 u9 : State} {c : CmdCtx} {from_ : U32} {n : Byte} {rsvd : BitVec 24} {s : State}
    (h9 : execLogRead c from_ n rsvd s = .next u9) (h0 : Keeps P s0 s) : Keeps P s0 u9 := by
  unfold execLogRead at h9; try dsimp only at h9
  cases h9
  repeat' with_reducible
    (first | assumption | apply immediate_keeps | apply reply_keeps | (split)
           | (refine Keeps.mk ?_ ?_ ?_ <;> (try dsimp only) <;> first | apply Keeps.pend | apply Keeps.bic (P := P) | apply Keeps.bound (P := P)) | intro _)

theorem execLogSecurity_keeps {P : Nat → Prop} {s0 u9 : State} {c : CmdCtx} {from_ : U32} {n : Byte} {rsvd : BitVec 24} {s : State}
    (h9 : execLogSecurity c from_ n rsvd s = .next u9) (h0 : Keeps P s0 s) : Keeps P s0 u9 := by
  unfold execLogSecurity at h9; try dsimp only at h9
  cases h9
  repeat' with_reducible
    (first | assumption | apply immediate_keeps | apply reply_keeps | (split) | intro _)

end Sys2Proof.Machine
end

