-- ==== Sys2Proof/Laws/KeepsRely.lean ====
section
/-!
SUPPORT. KeepsRely.lean: every operation and meaning of Machine/Rely.lean keeps the queue, the BIC and the bounds of
State.Bounded, and, where it stores nothing, every byte of DRAM; one lemma each, stated from any earlier state s0 so that lemmas chain.
-/
namespace Sys2Proof.Machine

theorem setCheck_keeps {P : Nat → Prop} {s0 : State} {s : State} {code key v : Nat} (h0 : Keeps P s0 s) : Keeps P s0 (State.setCheck s code key v) := by
  unfold State.setCheck; try dsimp only
  repeat' with_reducible
    (first | assumption | (split)
           | (refine Keeps.mk ?_ ?_ ?_ <;> (try dsimp only) <;> first | apply Keeps.pend | apply Keeps.bic (P := P) | apply Keeps.bound (P := P)))

theorem raspEntry_keeps {P : Nat → Prop} {s0 : State} {code key : Nat} {s : State} (h0 : Keeps P s0 s) : Keeps P s0 (raspEntry code key s) := by
  unfold raspEntry; try dsimp only
  repeat' with_reducible
    (first | assumption | apply logRec_keeps | apply setCheck_keeps | apply noteCorrect_keeps | apply bump_keeps | (split)
           | (refine Keeps.mk ?_ ?_ ?_ <;> (try dsimp only) <;> first | apply Keeps.pend | apply Keeps.bic (P := P) | apply Keeps.bound (P := P)) | intro _)

theorem raspRange_keeps {P : Nat → Prop} {s0 : State} {code lo n : Nat} {s : State} (h0 : Keeps P s0 s) : Keeps P s0 (raspRange code lo n s) := by
  unfold raspRange; try dsimp only
  repeat' with_reducible
    (first | assumption | apply raspEntry_keeps | (apply foldl_keeps <;> (try intro _ _ _)) | intro _)

theorem raspNext_keeps {P : Nat → Prop} {s0 : State} {engine size : Nat} {s : State} (h0 : Keeps P s0 s) : Keeps P s0 (raspNext engine size s) := by
  unfold raspNext; try dsimp only
  repeat' with_reducible
    (first | assumption | apply bump_keeps | (split)
           | (refine Keeps.mk ?_ ?_ ?_ <;> (try dsimp only) <;> first | apply Keeps.pend | apply Keeps.bic (P := P) | apply Keeps.bound (P := P)))

theorem raspEnded_keeps {P : Nat → Prop} {s0 : State} {engine : Nat} {s : State} (h0 : Keeps P s0 s) : Keeps P s0 (raspEnded engine s) := by
  unfold raspEnded; try dsimp only
  repeat' with_reducible
    (first | assumption | apply finishAct_keeps | apply completeOpt_keeps | apply setProgress_keeps | (split)
           | (refine Keeps.mk ?_ ?_ ?_ <;> (try dsimp only) <;> first | apply Keeps.pend | apply Keeps.bic (P := P) | apply Keeps.bound (P := P)) | intro _)

theorem raspGone_keeps {P : Nat → Prop} {s0 : State} {engine : Nat} {s : State} (h0 : Keeps P s0 s) : Keeps P s0 (raspGone engine s) := by
  unfold raspGone; try dsimp only
  repeat' with_reducible
    (first | assumption | apply raspEnded_keeps | (split)
           | (refine Keeps.mk ?_ ?_ ?_ <;> (try dsimp only) <;> first | apply Keeps.pend | apply Keeps.bic (P := P) | apply Keeps.bound (P := P)) | intro _)

theorem raspTurn_keeps {P : Nat → Prop} {s0 : State} {engine size : Nat} {read : Nat → State → State} {s : State}
    (h_read : ∀ x0 x1, Keeps P s0 x1 → Keeps P s0 (read x0 x1)) (h0 : Keeps P s0 s) : Keeps P s0 (raspTurn engine size read s) := by
  unfold raspTurn; try dsimp only
  repeat' with_reducible
    (first | assumption | apply h_read | apply raspNext_keeps | apply raspEnded_keeps | (split))

theorem raspWords_keeps {P : Nat → Prop} {s0 : State} {pcl grp k : Nat} {s : State} (h0 : Keeps P s0 s) : Keeps P s0 (raspWords pcl grp k s) := by
  unfold raspWords; try dsimp only
  repeat' with_reducible
    (first | assumption | apply raspRange_keeps)

theorem raspTables_keeps {P : Nat → Prop} {s0 : State} {pcl t : Nat} {s : State} (h0 : Keeps P s0 s) : Keeps P s0 (raspTables pcl t s) := by
  unfold raspTables; try dsimp only
  repeat' with_reducible
    (first | assumption | apply raspRange_keeps)

theorem raspThrough_keeps {P : Nat → Prop} {s0 : State} {s : State} (h0 : Keeps P s0 s) : Keeps P s0 (raspThrough s) := by
  unfold raspThrough; try dsimp only
  repeat' with_reducible
    (first | assumption | apply logRec_keeps | apply raiseHold_keeps | (split)
           | (refine Keeps.mk ?_ ?_ ?_ <;> (try dsimp only) <;> first | apply Keeps.pend | apply Keeps.bic (P := P) | apply Keeps.bound (P := P)) | intro _)

theorem raspMaps_keeps {P : Nat → Prop} {s0 : State} {t : Nat} {s : State} (h0 : Keeps P s0 s) : Keeps P s0 (raspMaps t s) := by
  unfold raspMaps; try dsimp only
  repeat' with_reducible
    (first | assumption | apply raspRange_keeps | apply raspThrough_keeps | (split))

theorem raspMapSlot_keeps {P : Nat → Prop} {s0 s t : State} (h0 : Keeps P s0 t) : Keeps P s0 (raspMapSlot s t) := by
  unfold raspMapSlot
  repeat' with_reducible (first | assumption | apply raspGone_keeps | apply raspTurn_keeps | apply raspMaps_keeps | (split) | intro _)

theorem execRaspSlot_keeps {P : Nat → Prop} {s0 u9 : State} {pcl : Fin 96} {grp : Fin 16} {s : State}  (h9 : execRaspSlot pcl grp s = .next u9) (h0
    : Keeps P s0 s) : Keeps P s0 u9 := by
  unfold execRaspSlot at h9; try dsimp only at h9
  cases h9
  repeat' with_reducible
    (first | assumption | apply raspMapSlot_keeps | apply raspTurn_keeps | apply raspWords_keeps | apply raspGone_keeps | apply raspTables_keeps | apply raspMaps_keeps
           | apply raspRange_keeps | (split)
           | (refine Keeps.mk ?_ ?_ ?_ <;> (try dsimp only) <;> first | apply Keeps.pend | apply Keeps.bic (P := P) | apply Keeps.bound (P := P)) | intro _)

theorem setRecovery_keeps {P : Nat → Prop} {s0 : State} {p code key stage : Nat} {s : State} (h0 : Keeps P s0 s)
    : Keeps P s0 (setRecovery p code key stage s) := by
  unfold setRecovery; try dsimp only
  repeat' with_reducible
    (first | assumption | (refine Keeps.mk ?_ ?_ ?_ <;> (try dsimp only) <;> first | apply Keeps.pend | apply Keeps.bic (P := P) | apply Keeps.bound (P := P))
           | intro _)

theorem endRecovery_keeps {P : Nat → Prop} {s0 : State} {p code key : Nat} {s : State} (h0 : Keeps P s0 s) : Keeps P s0 (endRecovery p code key s) := by
  unfold endRecovery; try dsimp only
  repeat' with_reducible
    (first | assumption | apply resolveHold_keeps
           | (refine Keeps.mk ?_ ?_ ?_ <;> (try dsimp only) <;> first | apply Keeps.pend | apply Keeps.bic (P := P) | apply Keeps.bound (P := P)) | intro _)

theorem takeRange_keeps {P : Nat → Prop} {s0 : State} {code lo n : Nat} {t s : State} (h0 : Keeps P s0 s) : Keeps P s0 (takeRange code lo n t s) := by
  unfold takeRange; dsimp only
  apply foldl_keeps
  · intro a k h; exact setCheck_keeps h
  · split <;> exact ⟨h0.pend, h0.bic, h0.bound⟩

theorem takeUops_keeps {P : Nat → Prop} {s0 : State} {lo n : Nat} {t s : State} (h0 : Keeps P s0 s) : Keeps P s0 (takeUops lo n t s) := by
  unfold takeUops; dsimp only
  apply foldl_keeps
  · intro a k h; exact setCheck_keeps ⟨h.pend, h.bic, h.bound⟩
  · exact h0

theorem rewriteFrom_keeps {P : Nat → Prop} {s0 : State} {p : Nat} {b : List Byte} {code lo n : Nat} {s : State} (h0 : Keeps P s0 s) :
    Keeps P s0 (rewriteFrom p b code lo n s) := by
  unfold rewriteFrom
  generalize (writeImage { p := p, im := imageOf b, dies := dieMap (imageOf b) (s.part p).dies, pmap := (s.part p).pmap } s).2 = t
  dsimp only
  split
  · exact takeUops_keeps h0
  · exact takeRange_keeps h0

theorem retireCluster_keeps {P : Nat → Prop} {s0 : State} {pcl : Nat} {s : State} (h0 : Keeps P s0 s) : Keeps P s0 (retireCluster pcl s) := by
  unfold retireCluster; try dsimp only
  repeat' with_reducible
    (first | assumption | apply writeHealth_keeps | apply logRec_keeps
           | (refine Keeps.mk ?_ ?_ ?_ <;> (try dsimp only) <;> first | apply Keeps.pend | apply Keeps.bic (P := P) | apply Keeps.bound (P := P)))

theorem giveUp_keeps {P : Nat → Prop} {s0 : State} {p code key : Nat} {s : State} (h0 : Keeps P s0 s) : Keeps P s0 (giveUp p code key s) := by
  unfold giveUp; try dsimp only
  repeat' with_reducible
    (first | assumption | apply setRecovery_keeps | apply retireCluster_keeps | apply candidateFabric_keeps | (split)
           | (refine Keeps.mk ?_ ?_ ?_ <;> (try dsimp only) <;> first | apply Keeps.pend | apply Keeps.bic (P := P) | apply Keeps.bound (P := P)) | intro _)

theorem escalate_keeps {P : Nat → Prop} {s0 : State} {p code key stage : Nat} {s : State} (h0 : Keeps P s0 s) : Keeps P s0 (escalate p code key stage s) := by
  unfold escalate; try dsimp only
  repeat' with_reducible
    (first | assumption | apply setRecovery_keeps | apply softRepair_keeps | apply giveUp_keeps | (split)
           | (refine Keeps.mk ?_ ?_ ?_ <;> (try dsimp only) <;> first | apply Keeps.pend | apply Keeps.bic (P := P) | apply Keeps.bound (P := P)) | intro _)

theorem reloadThrough_keeps {P : Nat → Prop} {s0 : State} {x : Partition} {s : State} (h0 : Keeps P s0 s) : Keeps P s0 (reloadThrough x s) := by
  unfold reloadThrough; try dsimp only
  repeat' with_reducible
    (first | assumption | (refine Keeps.mk ?_ ?_ ?_ <;> (try dsimp only) <;> first | apply Keeps.pend | apply Keeps.bic (P := P) | apply Keeps.bound (P := P))
           | intro _)

theorem execRecoveryReadback_keeps {P : Nat → Prop} {s0 u9 : State} {part : Fin 4} {ok : Bool} {s : State}
    (h9 : execRecoveryReadback part ok s = .next u9) (h0 : Keeps P s0 s) : Keeps P s0 u9 := by
  unfold execRecoveryReadback at h9; try dsimp only at h9
  cases h9
  repeat' with_reducible
    (first | assumption | apply reloadThrough_keeps | apply endRecovery_keeps | apply readJob_keeps | refine readJob_keeps_eq (by assumption) ?_
           | apply partEvent_keeps | apply setRecovery_keeps | apply postFault_keeps | apply rewriteFrom_keeps | apply escalate_keeps | (split)
           | (refine Keeps.mk ?_ ?_ ?_ <;> (try dsimp only) <;> first | apply Keeps.pend | apply Keeps.bic (P := P) | apply Keeps.bound (P := P)) | intro _)

theorem relocate_keeps {P : Nat → Prop} {s0 : State} {p src l t u : Nat} {k : FrameNo} {s : State} (h0 : Keeps P s0 s)
    : Keeps P s0 (relocate p src l t u k s) := by
  unfold relocate; try dsimp only
  repeat' with_reducible
    (first | assumption | apply copyBank_keeps | apply copyFromImage_keeps | apply moveEpoch_keeps | apply swapHosts_keeps
           | apply resolveHolds_keeps | (apply foldl_keeps <;> (try intro _ _ _))
           | (apply foldl_keeps2 <;> (try intro _ _ _) <;> (try dsimp only)) | (apply foldl_keeps3 <;> (try intro _ _ _) <;> (try dsimp only))
           | (refine Keeps.mk ?_ ?_ ?_ <;> (try dsimp only) <;> first | apply Keeps.pend | apply Keeps.bic (P := P) | apply Keeps.bound (P := P)) | intro _)

theorem execRecoveryRelocation_keeps {P : Nat → Prop} {s0 u9 : State} {part : Fin 4} {s : State}  (h9 : execRecoveryRelocation part s = .next u9) (h0
    : Keeps P s0 s) : Keeps P s0 u9 := by
  unfold execRecoveryRelocation at h9; try dsimp only at h9
  cases h9
  repeat' with_reducible
    (first | assumption | apply setRecovery_keeps | apply relocate_keeps | apply partEvent_keeps | (split)
           | (refine Keeps.mk ?_ ?_ ?_ <;> (try dsimp only) <;> first | apply Keeps.pend | apply Keeps.bic (P := P) | apply Keeps.bound (P := P)) | intro _)

theorem execLifeBinSample_keeps {P : Nat → Prop} {s0 u9 : State} {reading : Nat} {s : State}  (h9 : execLifeBinSample reading s = .next u9) (h0
    : Keeps P s0 s) : Keeps P s0 u9 := by
  unfold execLifeBinSample at h9; try dsimp only at h9
  cases h9
  repeat' with_reducible
    (first | assumption | apply logRec_keeps | (split)
           | (refine Keeps.mk ?_ ?_ ?_ <;> (try dsimp only) <;> first | apply Keeps.pend | apply Keeps.bic (P := P) | apply Keeps.bound (P := P)) | intro _)

theorem execHealthRecordWrite_keeps {P : Nat → Prop} {s0 u9 : State} {s : State}  (h9 : execHealthRecordWrite s = .next u9) (h0 : Keeps P s0 s)
    : Keeps P s0 u9 := by
  unfold execHealthRecordWrite at h9; try dsimp only at h9
  cases h9
  repeat' with_reducible
    (first | assumption | apply writeHealth_keeps)

theorem startScrub_keeps {P : Nat → Prop} {s0 : State} {c : CmdCtx} {s : State} (h0 : Keeps P s0 s) : Keeps P s0 (startScrub c s) := by
  unfold startScrub; try dsimp only
  repeat' with_reducible
    (first | assumption | apply reply_keeps | apply complete_keeps | apply startAct_keeps | (split)
           | (refine Keeps.mk ?_ ?_ ?_ <;> (try dsimp only) <;> first | apply Keeps.pend | apply Keeps.bic (P := P) | apply Keeps.bound (P := P)) | intro _)

theorem startPatrol_keeps {P : Nat → Prop} {s0 : State} {c : CmdCtx} {mask : Nat} {s : State} (h0 : Keeps P s0 s) : Keeps P s0 (startPatrol c mask s) := by
  unfold startPatrol; try dsimp only
  repeat' with_reducible
    (first | assumption | apply startAct_keeps | apply reply_keeps | (apply foldl_keeps <;> (try intro _ _ _))
           | (refine Keeps.mk ?_ ?_ ?_ <;> (try dsimp only) <;> first | apply Keeps.pend | apply Keeps.bic (P := P) | apply Keeps.bound (P := P)) | intro _)

theorem startRecal_keeps {P : Nat → Prop} {s0 : State} {c : CmdCtx} {s : State} (h0 : Keeps P s0 s) : Keeps P s0 (startRecal c s) := by
  unfold startRecal; try dsimp only
  repeat' with_reducible
    (first | assumption | apply startAct_keeps | apply reply_keeps)

theorem withdraw_keeps {P : Nat → Prop} {s0 : State} {c : Option CmdCtx} {s : State} (h0 : Keeps P s0 s) : Keeps P s0 (withdraw c s) := by
  unfold withdraw; try dsimp only
  repeat' with_reducible
    (first | assumption | (refine Keeps.mk ?_ ?_ ?_ <;> (try dsimp only) <;> first | apply Keeps.pend | apply Keeps.bic (P := P) | apply Keeps.bound (P := P))
           | intro _)

theorem execMaintStart_keeps {P : Nat → Prop} {s0 u9 : State} {c : CmdCtx} {act : Byte} {rsvd : BitVec 24} {param : U64} {s : State}
    (h9 : execMaintStart c act rsvd param s = .next u9) (h0 : Keeps P s0 s) : Keeps P s0 u9 := by
  unfold execMaintStart at h9; try dsimp only at h9
  cases h9
  repeat' with_reducible
    (first | assumption | apply immediate_keeps | apply reply_keeps | apply busyReply_keeps | apply startScrub_keeps | apply startPatrol_keeps
           | apply startRecal_keeps | (split)
           | (refine Keeps.mk ?_ ?_ ?_ <;> (try dsimp only) <;> first | apply Keeps.pend | apply Keeps.bic (P := P) | apply Keeps.bound (P := P)) | intro _)

theorem execMaintStop_keeps {P : Nat → Prop} {s0 u9 : State} {c : CmdCtx} {act : Byte} {rsvd : BitVec 24} {s : State}
    (h9 : execMaintStop c act rsvd s = .next u9) (h0 : Keeps P s0 s) : Keeps P s0 u9 := by
  unfold execMaintStop at h9; try dsimp only at h9
  cases h9
  repeat' with_reducible
    (first | assumption | apply immediate_keeps | apply reply_keeps | apply finishAct_keeps | apply withdraw_keeps | apply completeOpt_keeps
           | (apply foldl_keeps <;> (try intro _ _ _)) | (split)
           | (refine Keeps.mk ?_ ?_ ?_ <;> (try dsimp only) <;> first | apply Keeps.pend | apply Keeps.bic (P := P) | apply Keeps.bound (P := P)) | intro _)

theorem execMaintStatus_keeps {P : Nat → Prop} {s0 u9 : State} {c : CmdCtx} {s : State}  (h9 : execMaintStatus c s = .next u9) (h0 : Keeps P s0 s)
    : Keeps P s0 u9 := by
  unfold execMaintStatus at h9; try dsimp only at h9
  cases h9
  repeat' with_reducible
    (first | assumption | apply immediate_keeps | apply reply_keeps | intro _)

end Sys2Proof.Machine
end

