-- ==== Sys2Proof/Laws/KeepsIdentity.lean ====
section
/-!
SUPPORT. KeepsIdentity.lean: every operation and meaning of Machine/Identity.lean keeps the queue, the BIC and the bounds of
State.Bounded, and, where it stores nothing, every byte of DRAM; one lemma each, stated from any earlier state s0 so that lemmas chain.
-/
namespace Sys2Proof.Machine

theorem execIdentQuery_keeps {P : Nat → Prop} {s0 u9 : State} {c : CmdCtx} {s : State}  (h9 : execIdentQuery c s = .next u9) (h0 : Keeps P s0 s)
    : Keeps P s0 u9 := by
  unfold execIdentQuery at h9; try dsimp only at h9
  cases h9
  repeat' with_reducible
    (first | assumption | apply immediate_keeps | apply reply_keeps | intro _)

theorem execIdentEquiv_keeps {P : Nat → Prop} {s0 u9 : State} {c : CmdCtx} {s : State}  (h9 : execIdentEquiv c s = .next u9) (h0 : Keeps P s0 s)
    : Keeps P s0 u9 := by
  unfold execIdentEquiv at h9; try dsimp only at h9
  cases h9
  repeat' with_reducible
    (first | assumption | apply immediate_keeps | apply reply_keeps | intro _)

theorem execIdentCert_keeps {P : Nat → Prop} {s0 u9 : State} {c : CmdCtx} {offset : U32} {s : State}  (h9 : execIdentCert c offset s = .next u9) (h0
    : Keeps P s0 s) : Keeps P s0 u9 := by
  unfold execIdentCert at h9; try dsimp only at h9
  cases h9
  repeat' with_reducible
    (first | assumption | apply immediate_keeps | apply reply_keeps | (split) | intro _)

end Sys2Proof.Machine
end

