-- ==== Sys2Proof/Laws/KeepsTrust.lean ====
section
/-!
SUPPORT. KeepsTrust.lean: every operation and meaning of Machine/Trust.lean keeps the queue, the BIC and the bounds of
State.Bounded, and, where it stores nothing, every byte of DRAM; one lemma each, stated from any earlier state s0 so that lemmas chain.
-/
namespace Sys2Proof.Machine

theorem execTrustQuote_keeps {P : Nat → Prop} {s0 u9 : State} {c : CmdCtx} {nonce : BitVec 256} {mask : Byte} {rsvd : BitVec 24} {s : State}
    (h9 : execTrustQuote c nonce mask rsvd s = .next u9) (h0 : Keeps P s0 s) : Keeps P s0 u9 := by
  unfold execTrustQuote at h9; try dsimp only at h9
  cases h9
  repeat' with_reducible
    (first | assumption | apply immediate_keeps | apply reply_keeps | (split) | intro _)

theorem execTrustLog_keeps {P : Nat → Prop} {s0 u9 : State} {c : CmdCtx} {offset : U32} {s : State}  (h9 : execTrustLog c offset s = .next u9) (h0
    : Keeps P s0 s) : Keeps P s0 u9 := by
  unfold execTrustLog at h9; try dsimp only at h9
  cases h9
  repeat' with_reducible
    (first | assumption | apply immediate_keeps | apply reply_keeps | (split) | intro _)

theorem fwWrite_keeps {P : Nat → Prop} {s0 : State} {c : CmdCtx} {op : Nat} {body : State → State} {s : State}
    (h_body : ∀ x0, Keeps P s0 x0 → Keeps P s0 (body x0)) (h0 : Keeps P s0 s) : Keeps P s0 (fwWrite c op body s) := by
  unfold fwWrite; try dsimp only
  repeat' with_reducible
    (first | assumption | apply h_body | apply busyReply_keeps | (split)
           | (refine Keeps.mk ?_ ?_ ?_ <;> (try dsimp only) <;> first | apply Keeps.pend | apply Keeps.bic (P := P) | apply Keeps.bound (P := P)) | intro _)

theorem appendStage_keeps {P : Nat → Prop} {s0 : State} {bytes : List Byte} {s : State} (h0 : Keeps P s0 s) : Keeps P s0 (appendStage bytes s) := by
  unfold appendStage; try dsimp only
  repeat' with_reducible
    (first | assumption | (refine Keeps.mk ?_ ?_ ?_ <;> (try dsimp only) <;> first | apply Keeps.pend | apply Keeps.bic (P := P) | apply Keeps.bound (P := P)))

theorem beginStage_keeps {P : Nat → Prop} {s0 : State} {c : CmdCtx} {s : State} (h0 : Keeps P s0 s) : Keeps P s0 (beginStage c s) := by
  unfold beginStage; try dsimp only
  repeat' with_reducible
    (first | assumption | apply startAct_keeps | (split)
           | (refine Keeps.mk ?_ ?_ ?_ <;> (try dsimp only) <;> first | apply Keeps.pend | apply Keeps.bic (P := P) | apply Keeps.bound (P := P)) | intro _)

theorem execFwDownload_keeps {P : Nat → Prop} {s0 u9 : State} {c : CmdCtx} {offset n : U32} {bytes : List Byte} {s : State}
    (h9 : execFwDownload c offset n bytes s = .next u9) (h0 : Keeps P s0 s) : Keeps P s0 u9 := by
  unfold execFwDownload at h9; try dsimp only at h9
  cases h9
  repeat' with_reducible
    (first | assumption | apply immediate_keeps | apply reply_keeps | apply fwWrite_keeps | apply appendStage_keeps | apply beginStage_keeps
           | (split) | intro _)

theorem execFwVerify_keeps {P : Nat → Prop} {s0 u9 : State} {c : CmdCtx} {total : U32} {s : State}  (h9 : execFwVerify c total s = .next u9) (h0
    : Keeps P s0 s) : Keeps P s0 u9 := by
  unfold execFwVerify at h9; try dsimp only at h9
  cases h9
  repeat' with_reducible
    (first | assumption | apply deferredOp_keeps | apply fwWrite_keeps | apply reply_keeps | apply holdDeferred_keeps | (split)
           | (refine Keeps.mk ?_ ?_ ?_ <;> (try dsimp only) <;> first | apply Keeps.pend | apply Keeps.bic (P := P) | apply Keeps.bound (P := P)) | intro _)

theorem execFwVerifyComplete_keeps {P : Nat → Prop} {s0 u9 : State} {image : SlotImage} {readBackOk : Bool} {s : State}
    (h9 : execFwVerifyComplete image readBackOk s = .next u9) (h0 : Keeps P s0 s) : Keeps P s0 u9 := by
  unfold execFwVerifyComplete at h9; try dsimp only at h9
  cases h9
  repeat' with_reducible
    (first | assumption | apply reply_keeps | (split)
           | (refine Keeps.mk ?_ ?_ ?_ <;> (try dsimp only) <;> first | apply Keeps.pend | apply Keeps.bic (P := P) | apply Keeps.bound (P := P)) | intro _)

theorem execFwActivate_keeps {P : Nat → Prop} {s0 u9 : State} {c : CmdCtx} {s : State}  (h9 : execFwActivate c s = .next u9) (h0 : Keeps P s0 s)
    : Keeps P s0 u9 := by
  unfold execFwActivate at h9; try dsimp only at h9
  cases h9
  repeat' with_reducible
    (first | assumption | apply immediate_keeps | apply fwWrite_keeps | apply reply_keeps | (split)
           | (refine Keeps.mk ?_ ?_ ?_ <;> (try dsimp only) <;> first | apply Keeps.pend | apply Keeps.bic (P := P) | apply Keeps.bound (P := P)) | intro _)

theorem execFwConfirm_keeps {P : Nat → Prop} {s0 u9 : State} {c : CmdCtx} {s : State}  (h9 : execFwConfirm c s = .next u9) (h0 : Keeps P s0 s)
    : Keeps P s0 u9 := by
  unfold execFwConfirm at h9; try dsimp only at h9
  cases h9
  repeat' with_reducible
    (first | assumption | apply immediate_keeps | apply fwWrite_keeps | apply reply_keeps | apply endAct_keeps | (split)
           | (refine Keeps.mk ?_ ?_ ?_ <;> (try dsimp only) <;> first | apply Keeps.pend | apply Keeps.bic (P := P) | apply Keeps.bound (P := P)) | intro _)

theorem execFwStatus_keeps {P : Nat → Prop} {s0 u9 : State} {c : CmdCtx} {s : State}  (h9 : execFwStatus c s = .next u9) (h0 : Keeps P s0 s)
    : Keeps P s0 u9 := by
  unfold execFwStatus at h9; try dsimp only at h9
  cases h9
  repeat' with_reducible
    (first | assumption | apply immediate_keeps | apply reply_keeps | intro _)

end Sys2Proof.Machine
end

