-- ==== Sys2Proof/Laws/KeepsReset.lean ====
section
/-!
SUPPORT. KeepsReset.lean: every operation and meaning of Machine/Reset.lean keeps the queue, the BIC and the bounds of
State.Bounded, and, where it stores nothing, every byte of DRAM; one lemma each, stated from any earlier state s0 so that lemmas chain.
-/
namespace Sys2Proof.Machine

theorem cold_keeps {s0 : State} {cause : Nat} {pcie : Bool} {s : State} (h0 : Keeps noByte s0 s) : Keeps noByte s0 (cold cause pcie s) :=
  Keeps.mk h0.queue h0.bic fun _ => ⟨rfl, Nat.zero_le _, Nat.zero_le _, Nat.zero_le _⟩

theorem lostRails_keeps {s0 : State} {s : State} (h0 : Keeps noByte s0 s) : Keeps noByte s0 (lostRails s) := by
  unfold lostRails; try dsimp only
  repeat' with_reducible
    (first | assumption | apply cold_keeps
           | (refine Keeps.mk ?_ ?_ ?_ <;> (try dsimp only) <;> first | apply Keeps.queue | apply Keeps.bic (P := noByte) | apply Keeps.bound (P := noByte)))

theorem railsOff_keeps {P : Nat → Prop} {s0 : State} {mask : Nat} {s : State} (h0 : Keeps P s0 s) : Keeps P s0 (railsOff mask s) := by
  unfold railsOff; try dsimp only
  repeat' with_reducible
    (first | assumption | apply emit_keeps | (apply foldl_keeps <;> (try intro _ _ _)) | intro _)

theorem dropRails_keeps {s0 : State} {s : State} (h0 : Keeps noByte s0 s) : Keeps noByte s0 (dropRails s) := by
  unfold dropRails; try dsimp only
  repeat' with_reducible
    (first | assumption | apply lostRails_keeps | apply railsOff_keeps)

theorem enterDeep_keeps {P : Nat → Prop} {s0 : State} {target : PwrState} {s : State} (h0 : Keeps P s0 s) : Keeps P s0 (enterDeep target s) :=
  Keeps.mk h0.pend h0.bic fun h => ⟨(h0.bound h).1, Nat.zero_le _, (h0.bound h).2.2⟩

theorem drawCode_keeps {P : Nat → Prop} {s0 : State} {s : State} (h0 : Keeps P s0 s) : Keeps P s0 (State.drawCode s).2 := by
  unfold State.drawCode; try dsimp only
  repeat' with_reducible
    (first | assumption | apply draw_keeps | refine draw_keeps_eq (by assumption) ?_)

theorem drawCode_keeps_eq {P : Nat → Prop} {s0 u9 : State} {s : State}  {r0} (h9 : State.drawCode s = (r0, u9)) (h0 : Keeps P s0 s) : Keeps P s0 u9 := by
  have h : Keeps P s0 (State.drawCode s).2 := drawCode_keeps  h0
  rw [h9] at h; exact h

theorem fallback_keeps {P : Nat → Prop} {s0 : State} {s : State} (h0 : Keeps P s0 s) : Keeps P s0 (fallback s) := by
  unfold fallback; try dsimp only
  repeat' with_reducible
    (first | assumption | apply drawCode_keeps | refine drawCode_keeps_eq (by assumption) ?_ | apply logEvent_keeps | apply endAct_keeps
           | (refine Keeps.mk ?_ ?_ ?_ <;> (try dsimp only) <;> first | apply Keeps.pend | apply Keeps.bic (P := P) | apply Keeps.bound (P := P)))

theorem discardSlot_keeps {P : Nat → Prop} {s0 : State} {slot : Bool} {i : SlotImage} {s : State} (h0 : Keeps P s0 s) : Keeps P s0 (discardSlot slot i s) := by
  unfold discardSlot; try dsimp only
  repeat' with_reducible
    (first | assumption | apply endAct_keeps | (split)
           | (refine Keeps.mk ?_ ?_ ?_ <;> (try dsimp only) <;> first | apply Keeps.pend | apply Keeps.bic (P := P) | apply Keeps.bound (P := P)))

theorem selectSlot_keeps {P : Nat → Prop} {s0 : State} {a b : SlotImage} {s : State} (h0 : Keeps P s0 s) : Keeps P s0 (selectSlot a b s).2 := by
  unfold selectSlot
  extract_lets img conf slot confirmed s1
  have hc : ∀ t, Keeps P s0 t → Keeps P s0 (confirmed t).2 := by
    intro t ht
    simp only [confirmed]
    split
    · exact discardSlot_keeps ht
    · split
      · exact logEvent_keeps (drawCode_keeps ht)
      · exact ht
  clear_value confirmed
  have h1 : Keeps P s0 s1 := ⟨h0.pend, h0.bic, h0.bound⟩
  split
  · split
    · exact h1
    · exact hc _ (fallback_keeps h1)
  · apply hc
    split
    · exact fallback_keeps h0
    · exact h0

theorem selectSlot_keeps_eq {P : Nat → Prop} {s0 u9 : State} {a b : SlotImage} {s : State} {r0} (e : selectSlot a b s = (r0, u9)) (h0 : Keeps P s0 s)
    : Keeps P s0 u9 := by
  have h : Keeps P s0 (selectSlot a b s).2 := selectSlot_keeps h0
  rw [e] at h; exact h

theorem measureComp_keeps {P : Nat → Prop} {s0 : State} {reg k : Nat} {ver : U32} {d : BitVec 384} {s : State} (h0 : Keeps P s0 s)
    : Keeps P s0 (measureComp reg k ver d s) := by
  unfold measureComp; try dsimp only
  repeat' with_reducible
    (first | assumption | apply draw_keeps | refine draw_keeps_eq (by assumption) ?_ | apply extendMr_keeps
           | (refine Keeps.mk ?_ ?_ ?_ <;> (try dsimp only) <;> first | apply Keeps.pend | apply Keeps.bic (P := P) | apply Keeps.bound (P := P)))

theorem clearTrust_keeps {P : Nat → Prop} {s0 s : State} (h0 : Keeps P s0 s) : Keeps P s0 { s with trust := {} } :=
  Keeps.mk h0.pend h0.bic fun h => ⟨(h0.bound h).1, (h0.bound h).2.1, (h0.bound h).2.2.1, Nat.zero_le _⟩

theorem measureBoot_keeps {P : Nat → Prop} {s0 : State} {i : SlotImage} {s : State} (h0 : Keeps P s0 s) : Keeps P s0 (measureBoot i s) := by
  unfold measureBoot; dsimp only
  repeat' with_reducible (first | assumption | apply measureComp_keeps | apply extendFree_keeps | apply clearTrust_keeps)

theorem freshDigest_keeps {P : Nat → Prop} {s0 : State} {s : State} (h0 : Keeps P s0 s) : Keeps P s0 (freshDigest s) := by
  unfold freshDigest; try dsimp only
  repeat' with_reducible
    (first | assumption | (refine Keeps.mk ?_ ?_ ?_ <;> (try dsimp only) <;> first | apply Keeps.pend | apply Keeps.bic (P := P) | apply Keeps.bound (P := P)))

theorem runSlot_keeps {P : Nat → Prop} {s0 : State} {slot trial : Bool} {i : SlotImage} {s : State} (h0 : Keeps P s0 s)
    : Keeps P s0 (runSlot slot trial i s) := by
  unfold runSlot; try dsimp only
  repeat' with_reducible
    (first | assumption | apply freshDigest_keeps | apply measureBoot_keeps
           | (refine Keeps.mk ?_ ?_ ?_ <;> (try dsimp only) <;> first | apply Keeps.pend | apply Keeps.bic (P := P) | apply Keeps.bound (P := P)))

theorem enterRecovery_keeps {P : Nat → Prop} {s0 : State} {s : State} (h0 : Keeps P s0 s) : Keeps P s0 (enterRecovery s) := by
  unfold enterRecovery; dsimp only
  apply assertFault_keeps
  have k : Keeps P s0 (extendFree 0 1 [] { s with trust := {} }) := extendFree_keeps (clearTrust_keeps h0)
  exact ⟨k.pend, k.bic, k.bound⟩

theorem applyEq_keeps {P : Nat → Prop} {s0 : State} {n : Nat} {e : U32} {s : State} (h0 : Keeps P s0 s) : Keeps P s0 (applyEq n e s) := by
  unfold applyEq; try dsimp only
  repeat' with_reducible
    (first | assumption | apply setLane_keeps | (split)
           | (refine Keeps.mk ?_ ?_ ?_ <;> (try dsimp only) <;> first | apply Keeps.pend | apply Keeps.bic (P := P) | apply Keeps.bound (P := P)))

theorem enableLane_keeps {P : Nat → Prop} {s0 : State} {s : State} {n : Nat} (h0 : Keeps P s0 s) : Keeps P s0 (enableLane s n) := by
  unfold enableLane; try dsimp only
  repeat' with_reducible
    (first | assumption | apply setLane_keeps | (split)
           | (refine Keeps.mk ?_ ?_ ?_ <;> (try dsimp only) <;> first | apply Keeps.pend | apply Keeps.bic (P := P) | apply Keeps.bound (P := P)))

theorem applyTable_keeps {P : Nat → Prop} {s0 : State} {t : Option (List U32 × U32)} {s : State} (h0 : Keeps P s0 s) : Keeps P s0 (applyTable t s) := by
  unfold applyTable; try dsimp only
  repeat' with_reducible
    (first | assumption | apply applyEq_keeps | apply logRec_keeps | apply enableLane_keeps | (apply foldl_keeps <;> (try intro _ _ _))
           | (apply foldl_keeps2 <;> (try intro _ _ _) <;> (try dsimp only)) | (apply foldl_keeps3 <;> (try intro _ _ _) <;> (try dsimp only))
           | (split) | (refine Keeps.mk ?_ ?_ ?_ <;> (try dsimp only) <;> first | apply Keeps.pend | apply Keeps.bic (P := P) | apply Keeps.bound (P := P))
           | intro _)

theorem clearDram_keeps {s0 s : State} {d : Dram} (hd : d.mem = []) (h0 : Keeps noByte s0 s) : Keeps noByte s0 { s with dram := d } :=
  Keeps.mk h0.queue h0.bic fun h => ⟨by rw [hd]; rfl, (h0.bound h).2⟩

theorem bootDram_keeps {s0 : State} {b : BoardBoot} {s : State} (h0 : Keeps noByte s0 s) : Keeps noByte s0 (bootDram b s) := by
  unfold bootDram; dsimp only
  split
  · exact logEvent_keeps (clearDram_keeps rfl h0)
  · exact setSlot_keeps (clearDram_keeps rfl (draw_keeps h0))

theorem retireCandidates_keeps {P : Nat → Prop} {s0 : State} {m : SMap Nat} {unit : Nat} {s : State} (h0 : Keeps P s0 s)
    : Keeps P s0 (retireCandidates m unit s) := by
  unfold retireCandidates; try dsimp only
  repeat' with_reducible
    (first | assumption | apply writeHealth_keeps | apply logRec_keeps | (apply foldl_keeps <;> (try intro _ _ _))
           | (apply foldl_keeps2 <;> (try intro _ _ _) <;> (try dsimp only)) | (apply foldl_keeps3 <;> (try intro _ _ _) <;> (try dsimp only))
           | intro _)

theorem bootHealth_keeps {P : Nat → Prop} {s0 : State} {serial : Option (BitVec 128)} {s : State} (h0 : Keeps P s0 s) : Keeps P s0 (bootHealth serial s) := by
  unfold bootHealth; try dsimp only
  repeat' with_reducible
    (first | assumption | apply retireCandidates_keeps | apply logRec_keeps | (split)
           | (refine Keeps.mk ?_ ?_ ?_ <;> (try dsimp only) <;> first | apply Keeps.pend | apply Keeps.bic (P := P) | apply Keeps.bound (P := P)) | intro _)

theorem bootFlags_keeps {P : Nat → Prop} {s0 : State} {s : State} (h0 : Keeps P s0 s) : Keeps P s0 (bootFlags s) := by
  unfold bootFlags; try dsimp only
  repeat' with_reducible
    (first | assumption | apply logRec_keeps | (split)
           | (refine Keeps.mk ?_ ?_ ?_ <;> (try dsimp only) <;> first | apply Keeps.pend | apply Keeps.bic (P := P) | apply Keeps.bound (P := P)))

theorem bootSelect_keeps {s0 : State} {a b : SlotImage} {board : BoardBoot} {s : State} (h0 : Keeps noByte s0 s)
    : Keeps noByte s0 (bootSelect a b board s) := by
  unfold bootSelect; try dsimp only
  repeat' with_reducible
    (first | assumption | apply bootFlags_keeps | apply bootDram_keeps | apply bootHealth_keeps | apply applyTable_keeps | apply selectSlot_keeps
           | refine selectSlot_keeps_eq (by assumption) ?_ | apply runSlot_keeps | apply enterRecovery_keeps | (split)
           | (refine Keeps.mk ?_ ?_ ?_ <;> (try dsimp only) <;> first | apply Keeps.queue | apply Keeps.bic (P := noByte) | apply Keeps.bound (P := noByte)) | intro _)

theorem bootWake_keeps {s0 : State} {a b : SlotImage} {board : BoardBoot} {s : State} (h0 : Keeps noByte s0 s)
    : Keeps noByte s0 (bootWake a b board s) := by
  unfold bootWake; try dsimp only
  repeat' with_reducible
    (first | assumption | apply freshDigest_keeps | apply measureBoot_keeps | apply bootFlags_keeps | apply applyTable_keeps | apply cold_keeps
           | apply bootSelect_keeps | (split)
           | (refine Keeps.mk ?_ ?_ ?_ <;> (try dsimp only) <;> first | apply Keeps.queue | apply Keeps.bic (P := noByte) | apply Keeps.bound (P := noByte)))

theorem execBoot_keeps {s0 u9 : State} {slotA slotB : SlotImage} {board : BoardBoot} {s : State}
    (h9 : execBoot slotA slotB board s = .next u9) (h0 : Keeps noByte s0 s) : Keeps noByte s0 u9 := by
  unfold execBoot at h9; try dsimp only at h9
  cases h9
  repeat' with_reducible
    (first | assumption | apply bootWake_keeps | apply bootSelect_keeps | (split)
           | (refine Keeps.mk ?_ ?_ ?_ <;> (try dsimp only) <;> first | apply Keeps.queue | apply Keeps.bic (P := noByte) | apply Keeps.bound (P := noByte)))

theorem execSelfTestDone_keeps {P : Nat → Prop} {s0 u9 : State} {s : State}  (h9 : execSelfTestDone s = .next u9) (h0 : Keeps P s0 s) : Keeps P s0 u9 := by
  unfold execSelfTestDone at h9; try dsimp only at h9
  cases h9
  repeat' with_reducible
    (first | assumption | (split)
           | (refine Keeps.mk ?_ ?_ ?_ <;> (try dsimp only) <;> first | apply Keeps.pend | apply Keeps.bic (P := P) | apply Keeps.bound (P := P)))

theorem failTrial_keeps {P : Nat → Prop} {s0 : State} {s : State} (h0 : Keeps P s0 s) : Keeps P s0 (failTrial s) := by
  unfold failTrial; try dsimp only
  repeat' with_reducible
    (first | assumption | apply fallback_keeps
           | (refine Keeps.mk ?_ ?_ ?_ <;> (try dsimp only) <;> first | apply Keeps.pend | apply Keeps.bic (P := P) | apply Keeps.bound (P := P)))

theorem execTrialSelfTestTimeout_keeps {P : Nat → Prop} {s0 u9 : State} {s : State}  (h9 : execTrialSelfTestTimeout s = .next u9) (h0 : Keeps P s0 s)
    : Keeps P s0 u9 := by
  unfold execTrialSelfTestTimeout at h9; try dsimp only at h9
  cases h9
  repeat' with_reducible
    (first | assumption | apply failTrial_keeps | (split))

theorem execRstN_keeps {s0 u9 : State} {pendSide : Bool} {s : State}  (h9 : execRstN pendSide s = .next u9) (h0 : Keeps noByte s0 s)
    : Keeps noByte s0 u9 := by
  unfold execRstN at h9; try dsimp only at h9
  cases h9
  repeat' with_reducible
    (first | assumption | apply cold_keeps | apply dropRails_keeps | (split)
           | (refine Keeps.mk ?_ ?_ ?_ <;> (try dsimp only) <;> first | apply Keeps.queue | apply Keeps.bic (P := noByte) | apply Keeps.bound (P := noByte)))

theorem execPwrOkRise_keeps {P : Nat → Prop} {s0 u9 : State} {oscDly : BitVec 3} {s : State}  (h9 : execPwrOkRise oscDly s = .next u9) (h0 : Keeps P s0 s)
    : Keeps P s0 u9 := by
  unfold execPwrOkRise at h9; try dsimp only at h9
  cases h9
  repeat' with_reducible
    (first | assumption | (split)
           | (refine Keeps.mk ?_ ?_ ?_ <;> (try dsimp only) <;> first | apply Keeps.pend | apply Keeps.bic (P := P) | apply Keeps.bound (P := P)))

theorem execOscDlyExpiry_keeps {s0 u9 : State} {s : State}  (h9 : execOscDlyExpiry s = .next u9) (h0 : Keeps noByte s0 s) : Keeps noByte s0 u9 := by
  unfold execOscDlyExpiry at h9; try dsimp only at h9
  cases h9
  repeat' with_reducible
    (first | assumption | apply cold_keeps | (split)
           | (refine Keeps.mk ?_ ?_ ?_ <;> (try dsimp only) <;> first | apply Keeps.queue | apply Keeps.bic (P := noByte) | apply Keeps.bound (P := noByte)))

theorem execPwrOkFall_keeps {s0 u9 : State} {s : State}  (h9 : execPwrOkFall s = .next u9) (h0 : Keeps noByte s0 s) : Keeps noByte s0 u9 := by
  unfold execPwrOkFall at h9; try dsimp only at h9
  cases h9
  repeat' with_reducible
    (first | assumption | apply lostRails_keeps | (split)
           | (refine Keeps.mk ?_ ?_ ?_ <;> (try dsimp only) <;> first | apply Keeps.queue | apply Keeps.bic (P := noByte) | apply Keeps.bound (P := noByte)) | intro _)

end Sys2Proof.Machine
end

