-- ==== Sys2Proof/Laws/KeepsPowerEvents.lean ====
section
/-!
SUPPORT. KeepsPowerEvents.lean: every operation and meaning of Machine/PowerEvents.lean keeps the queue, the BIC and the bounds of
State.Bounded, and, where it stores nothing, every byte of DRAM; one lemma each, stated from any earlier state s0 so that lemmas chain.
-/
namespace Sys2Proof.Machine

theorem nextRail_keeps {P : Nat → Prop} {s0 : State} {s : State} (h0 : Keeps P s0 s) : Keeps P s0 (nextRail s) := by
  unfold nextRail; try dsimp only
  repeat' with_reducible
    (first | assumption | apply emit_keeps | (split)
           | (refine Keeps.mk ?_ ?_ ?_ <;> (try dsimp only) <;> first | apply Keeps.pend | apply Keeps.bic (P := P) | apply Keeps.bound (P := P)) | intro _)

theorem startWake_keeps {P : Nat → Prop} {s0 : State} {s : State} (h0 : Keeps P s0 s) : Keeps P s0 (startWake s) := by
  unfold startWake; try dsimp only
  repeat' with_reducible
    (first | assumption | apply redirect_keeps | apply nextRail_keeps
           | (refine Keeps.mk ?_ ?_ ?_ <;> (try dsimp only) <;> first | apply Keeps.pend | apply Keeps.bic (P := P) | apply Keeps.bound (P := P)))

theorem execRailSequenceStep_keeps {P : Nat → Prop} {s0 u9 : State} {railsInTolerance : Bool} {s : State}
    (h9 : execRailSequenceStep railsInTolerance s = .next u9) (h0 : Keeps P s0 s) : Keeps P s0 u9 := by
  unfold execRailSequenceStep at h9; try dsimp only at h9
  cases h9
  repeat' with_reducible
    (first | assumption | apply nextRail_keeps | (split))

theorem execRailPowerGoodTimeout_keeps {s0 u9 : State} {s : State}  (h9 : execRailPowerGoodTimeout s = .next u9) (h0 : Keeps noByte s0 s)
    : Keeps noByte s0 u9 := by
  unfold execRailPowerGoodTimeout at h9; try dsimp only at h9
  cases h9
  repeat' with_reducible
    (first | assumption | apply assertFault_keeps | apply dropRails_keeps | (split)
           | (refine Keeps.mk ?_ ?_ ?_ <;> (try dsimp only) <;> first | apply Keeps.queue | apply Keeps.bic (P := noByte) | apply Keeps.bound (P := noByte)))

theorem serOff_keeps {P : Nat → Prop} {s0 : State} {s : State} (h0 : Keeps P s0 s) : Keeps P s0 (serOff s) := by
  unfold serOff; try dsimp only
  repeat' with_reducible
    (first | assumption | apply moveLane_keeps | (apply foldl_keeps <;> (try intro _ _ _)) | (split) | intro _)

theorem dropShadows_keeps {P : Nat → Prop} {s0 : State} {s : State} (h0 : Keeps P s0 s) : Keeps P s0 (dropShadows s) := by
  unfold dropShadows; try dsimp only
  repeat' with_reducible
    (first | assumption | apply eachPart_keeps | apply setPart_keeps
           | (refine Keeps.mk ?_ ?_ ?_ <;> (try dsimp only) <;> first | apply Keeps.pend | apply Keeps.bic (P := P) | apply Keeps.bound (P := P)) | intro _)

theorem dropKeyLoads_keeps {P : Nat → Prop} {s0 : State} {s : State} (h0 : Keeps P s0 s) : Keeps P s0 (dropKeyLoads s) := by
  unfold dropKeyLoads; try dsimp only
  repeat' with_reducible
    (first | assumption | (refine Keeps.mk ?_ ?_ ?_ <;> (try dsimp only) <;> first | apply Keeps.pend | apply Keeps.bic (P := P) | apply Keeps.bound (P := P))
           | intro _)

theorem enterRails_keeps {s0 : State} {target : PwrState} {s : State} (h0 : Keeps noByte s0 s) : Keeps noByte s0 (enterRails target s) := by
  unfold enterRails; try dsimp only
  repeat' with_reducible
    (first | assumption | apply railsOff_keeps | apply lostRails_keeps | apply enterDeep_keeps | (split)
           | (refine Keeps.mk ?_ ?_ ?_ <;> (try dsimp only) <;> first | apply Keeps.queue | apply Keeps.bic (P := noByte) | apply Keeps.bound (P := noByte)) | intro _)

theorem entryEffect_keeps {s0 : State} {target : PwrState} {k : TStep} {s : State} (h0 : Keeps noByte s0 s)
    : Keeps noByte s0 (entryEffect target k s) := by
  unfold entryEffect; try dsimp only
  repeat' with_reducible
    (first | assumption | apply serOff_keeps | apply dropKeyLoads_keeps | apply dropShadows_keeps | apply enterRails_keeps | (split)
           | (refine Keeps.mk ?_ ?_ ?_ <;> (try dsimp only) <;> first | apply Keeps.queue | apply Keeps.bic (P := noByte) | apply Keeps.bound (P := noByte)) | intro _)

theorem resetHistories_keeps {P : Nat → Prop} {s0 : State} {s : State} (h0 : Keeps P s0 s) : Keeps P s0 (resetHistories s) := by
  unfold resetHistories; try dsimp only
  repeat' with_reducible
    (first | assumption | (refine Keeps.mk ?_ ?_ ?_ <;> (try dsimp only) <;> first | apply Keeps.pend | apply Keeps.bic (P := P) | apply Keeps.bound (P := P))
           | intro _)

theorem exitEffect_keeps {s0 : State} {target : PwrState} {k : TStep} {s : State} (h0 : Keeps noByte s0 s)
    : Keeps noByte s0 (exitEffect target k s) := by
  unfold exitEffect; try dsimp only
  repeat' with_reducible
    (first | assumption | apply cold_keeps | apply bringUpLanes_keeps | apply resetHistories_keeps | (split)
           | (refine Keeps.mk ?_ ?_ ?_ <;> (try dsimp only) <;> first | apply Keeps.queue | apply Keeps.bic (P := noByte) | apply Keeps.bound (P := noByte)) | intro _)

theorem setTrans_keeps {P : Nat → Prop} {s0 : State} {t : Option Transition} {s : State} (h0 : Keeps P s0 s) : Keeps P s0 (setTrans t s) := by
  unfold setTrans; try dsimp only
  repeat' with_reducible
    (first | assumption | (refine Keeps.mk ?_ ?_ ?_ <;> (try dsimp only) <;> first | apply Keeps.pend | apply Keeps.bic (P := P) | apply Keeps.bound (P := P)))

theorem reachState_keeps {P : Nat → Prop} {s0 : State} {t : Transition} {s : State} (h0 : Keeps P s0 s) : Keeps P s0 (reachState t s) := by
  unfold reachState; try dsimp only
  repeat' with_reducible
    (first | assumption | apply completeOpt_keeps | apply setTrans_keeps | apply startWake_keeps | (split)
           | (refine Keeps.mk ?_ ?_ ?_ <;> (try dsimp only) <;> first | apply Keeps.pend | apply Keeps.bic (P := P) | apply Keeps.bound (P := P)))

theorem redirect_keeps {P : Nat → Prop} {s0 : State} {t : Transition} {target : PwrState} {c : Option CmdCtx} {s : State} (h0 : Keeps P s0 s)
    : Keeps P s0 (redirect t target c s) := by
  unfold redirect; try dsimp only
  repeat' with_reducible
    (first | assumption | apply completeOpt_keeps | apply reachState_keeps | apply nextRail_keeps | apply setTrans_keeps | (split))

theorem afterStep_keeps {P : Nat → Prop} {s0 : State} {t : Transition} {rest : List TStep} {s : State} (h0 : Keeps P s0 s)
    : Keeps P s0 (afterStep t rest s) := by
  unfold afterStep; try dsimp only
  repeat' with_reducible
    (first | assumption | apply redirect_keeps | apply reachState_keeps | apply setTrans_keeps | (split)
           | (refine Keeps.mk ?_ ?_ ?_ <;> (try dsimp only) <;> first | apply Keeps.pend | apply Keeps.bic (P := P) | apply Keeps.bound (P := P)) | intro _)

theorem execTransitionStepEnd_keeps {s0 u9 : State} {s : State}  (h9 : execTransitionStepEnd s = .next u9) (h0 : Keeps noByte s0 s)
    : Keeps noByte s0 u9 := by
  unfold execTransitionStepEnd at h9; try dsimp only at h9
  cases h9
  repeat' with_reducible
    (first | assumption | apply reachState_keeps | apply completeOpt_keeps | apply entryEffect_keeps | apply exitEffect_keeps
           | apply afterStep_keeps | (split)
           | (refine Keeps.mk ?_ ?_ ?_ <;> (try dsimp only) <;> first | apply Keeps.queue | apply Keeps.bic (P := noByte) | apply Keeps.bound (P := noByte)) | intro _)

theorem execWakeN_keeps {P : Nat → Prop} {s0 u9 : State} {s : State}  (h9 : execWakeN s = .next u9) (h0 : Keeps P s0 s) : Keeps P s0 u9 := by
  unfold execWakeN at h9; try dsimp only at h9
  cases h9
  repeat' with_reducible
    (first | assumption | apply setTrans_keeps | apply startWake_keeps | (split)
           | (refine Keeps.mk ?_ ?_ ?_ <;> (try dsimp only) <;> first | apply Keeps.pend | apply Keeps.bic (P := P) | apply Keeps.bound (P := P)) | intro _)

theorem touchDomain_keeps {P : Nat → Prop} {s0 : State} {d : Domain} {s : State} (h0 : Keeps P s0 s) : Keeps P s0 (touchDomain d s) := by
  unfold touchDomain; try dsimp only
  repeat' with_reducible
    (first | assumption | (split)
           | (refine Keeps.mk ?_ ?_ ?_ <;> (try dsimp only) <;> first | apply Keeps.pend | apply Keeps.bic (P := P) | apply Keeps.bound (P := P)) | intro _)

theorem execDomainWakeOnDemand_keeps {P : Nat → Prop} {s0 u9 : State} {dom : Domain} {s : State}  (h9 : execDomainWakeOnDemand dom s = .next u9) (h0
    : Keeps P s0 s) : Keeps P s0 u9 := by
  unfold execDomainWakeOnDemand at h9; try dsimp only at h9
  cases h9
  repeat' with_reducible
    (first | assumption | apply touchDomain_keeps)

theorem execDomainIdleExpiry_keeps {P : Nat → Prop} {s0 u9 : State} {dom : Domain} {s : State}  (h9 : execDomainIdleExpiry dom s = .next u9) (h0
    : Keeps P s0 s) : Keeps P s0 u9 := by
  unfold execDomainIdleExpiry at h9; try dsimp only at h9
  (repeat' split at h9) <;> cases h9 <;> repeat' with_reducible
    (first | assumption | (refine Keeps.mk ?_ ?_ ?_ <;> (try dsimp only) <;> first | apply Keeps.pend | apply Keeps.bic (P := P) | apply Keeps.bound (P := P))
           | intro _)

theorem setWatchCtr_keeps {P : Nat → Prop} {s0 : State} {id v : Nat} {s : State} (h0 : Keeps P s0 s) : Keeps P s0 (setWatchCtr id v s) := by
  unfold setWatchCtr; try dsimp only
  repeat' with_reducible
    (first | assumption | (refine Keeps.mk ?_ ?_ ?_ <;> (try dsimp only) <;> first | apply Keeps.pend | apply Keeps.bic (P := P) | apply Keeps.bound (P := P)))

theorem watchViolation_keeps {P : Nat → Prop} {s0 : State} {item : Nat} {v : Option U16} {s : State} (h0 : Keeps P s0 s)
    : Keeps P s0 (watchViolation item v s) := by
  unfold watchViolation; try dsimp only
  repeat' with_reducible
    (first | assumption | apply draw_keeps | refine draw_keeps_eq (by assumption) ?_ | apply setWatchCtr_keeps | apply bump_keeps
           | apply startWake_keeps | apply setAlertWatch_keeps | (split))

theorem execWatchSample_keeps {P : Nat → Prop} {s0 u9 : State} {readings : List (Option U16)} {coolantOk : Bool} {blocks : List Block} {s : State}
    (h9 : execWatchSample readings coolantOk blocks s = .next u9) (h0 : Keeps P s0 s) : Keeps P s0 u9 := by
  unfold execWatchSample at h9; try dsimp only at h9
  cases h9
  repeat' with_reducible
    (first | assumption | apply setAlertHold_keeps | apply watchViolation_keeps | (split)
           | (refine Keeps.mk ?_ ?_ ?_ <;> (try dsimp only) <;> first | apply Keeps.pend | apply Keeps.bic (P := P) | apply Keeps.bound (P := P)) | intro _)

theorem execCoolantOkLow_keeps {P : Nat → Prop} {s0 u9 : State} {s : State}  (h9 : execCoolantOkLow s = .next u9) (h0 : Keeps P s0 s) : Keeps P s0 u9 := by
  unfold execCoolantOkLow at h9; try dsimp only at h9
  cases h9
  repeat' with_reducible
    (first | assumption | apply setAlertHold_keeps | (split))

theorem pauseAll_keeps {P : Nat → Prop} {s0 : State} {s : State} (h0 : Keeps P s0 s) : Keeps P s0 (pauseAll s) := by
  unfold pauseAll; try dsimp only
  repeat' with_reducible
    (first | assumption | apply eachPart_keeps | apply selfPause_keeps | intro _)

theorem execRailTelemetryRead_keeps {P : Nat → Prop} {s0 u9 : State} {outOfTolerance : BitVec 8} {s : State}
    (h9 : execRailTelemetryRead outOfTolerance s = .next u9) (h0 : Keeps P s0 s) : Keeps P s0 u9 := by
  unfold execRailTelemetryRead at h9; try dsimp only at h9
  cases h9
  repeat' with_reducible
    (first | assumption | apply pauseAll_keeps | apply setAlertRail_keeps | apply logRec_keeps | (split)
           | (refine Keeps.mk ?_ ?_ ?_ <;> (try dsimp only) <;> first | apply Keeps.pend | apply Keeps.bic (P := P) | apply Keeps.bound (P := P)) | intro _)

theorem execThermalHigh_keeps {P : Nat → Prop} {s0 u9 : State} {reading : Nat} {s : State}  (h9 : execThermalHigh reading s = .next u9) (h0 : Keeps P s0 s)
    : Keeps P s0 u9 := by
  unfold execThermalHigh at h9; try dsimp only at h9
  cases h9
  repeat' with_reducible
    (first | assumption | apply pauseAll_keeps | apply setAlertThermal_keeps | apply logRec_keeps | (split))

theorem execThermalTrip_keeps {s0 u9 : State} {reading : Nat} {s : State}  (h9 : execThermalTrip reading s = .next u9) (h0 : Keeps noByte s0 s)
    : Keeps noByte s0 u9 := by
  unfold execThermalTrip at h9; try dsimp only at h9
  cases h9
  repeat' with_reducible
    (first | assumption | apply assertFault_keeps | apply dropRails_keeps | (split)
           | (refine Keeps.mk ?_ ?_ ?_ <;> (try dsimp only) <;> first | apply Keeps.queue | apply Keeps.bic (P := noByte) | apply Keeps.bound (P := noByte)))

theorem execThermalAlertRelease_keeps {P : Nat → Prop} {s0 u9 : State} {reading : Nat} {s : State}  (h9 : execThermalAlertRelease reading s = .next u9) (h0
    : Keeps P s0 s) : Keeps P s0 u9 := by
  unfold execThermalAlertRelease at h9; try dsimp only at h9
  cases h9
  repeat' with_reducible
    (first | assumption | apply setAlertThermal_keeps | (split))

end Sys2Proof.Machine
end

