-- ==== Sys2Proof/Laws/KeepsClockEvents.lean ====
section
/-!
SUPPORT. KeepsClockEvents.lean: every operation and meaning of Machine/ClockEvents.lean keeps the queue, the BIC and the bounds of
State.Bounded, and, where it stores nothing, every byte of DRAM; one lemma each, stated from any earlier state s0 so that lemmas chain.
-/
namespace Sys2Proof.Machine

theorem execPllLock_keeps {P : Nat → Prop} {s0 u9 : State} {s : State}  (h9 : execPllLock s = .next u9) (h0 : Keeps P s0 s) : Keeps P s0 u9 := by
  unfold execPllLock at h9; try dsimp only at h9
  cases h9
  repeat' with_reducible
    (first | assumption | (split)
           | (refine Keeps.mk ?_ ?_ ?_ <;> (try dsimp only) <;> first | apply Keeps.pend | apply Keeps.bic (P := P) | apply Keeps.bound (P := P)))

theorem recheckLane_keeps {P : Nat → Prop} {s0 : State} {s : State} {n : Nat} (h0 : Keeps P s0 s) : Keeps P s0 (recheckLane s n) := by
  unfold recheckLane; try dsimp only
  repeat' with_reducible
    (first | assumption | apply draw_keeps | refine draw_keeps_eq (by assumption) ?_ | apply setLane_keeps | apply slipLane_keeps | (split)
           | (refine Keeps.mk ?_ ?_ ?_ <;> (try dsimp only) <;> first | apply Keeps.pend | apply Keeps.bic (P := P) | apply Keeps.bound (P := P)) | intro _)

theorem endCalibrate_keeps {P : Nat → Prop} {s0 : State} {s : State} (h0 : Keeps P s0 s) : Keeps P s0 (endCalibrate s) := by
  unfold endCalibrate; try dsimp only
  repeat' with_reducible
    (first | assumption | apply completeOpt_keeps | apply finishAct_keeps | apply recheckLane_keeps | (apply foldl_keeps <;> (try intro _ _ _))
           | (split) | (refine Keeps.mk ?_ ?_ ?_ <;> (try dsimp only) <;> first | apply Keeps.pend | apply Keeps.bic (P := P) | apply Keeps.bound (P := P))
           | intro _)

theorem execOscTrim_keeps {P : Nat → Prop} {s0 u9 : State} {cycles markCycles : Nat} {s : State}  (h9 : execOscTrim cycles markCycles s = .next u9) (h0
    : Keeps P s0 s) : Keeps P s0 u9 := by
  unfold execOscTrim at h9; try dsimp only at h9
  cases h9
  repeat' with_reducible
    (first | assumption | apply logRec_keeps | apply draw_keeps | refine draw_keeps_eq (by assumption) ?_ | apply endCalibrate_keeps | (split)
           | (refine Keeps.mk ?_ ?_ ?_ <;> (try dsimp only) <;> first | apply Keeps.pend | apply Keeps.bic (P := P) | apply Keeps.bound (P := P)) | intro _)

theorem execControlLinkUp_keeps {P : Nat → Prop} {s0 u9 : State} {link : Fin 8} {s : State}  (h9 : execControlLinkUp link s = .next u9) (h0 : Keeps P s0 s)
    : Keeps P s0 u9 := by
  unfold execControlLinkUp at h9; try dsimp only at h9
  cases h9
  repeat' with_reducible
    (first | assumption | apply linkUp_keeps | (split))

theorem execControlLinkSyncLoss_keeps {P : Nat → Prop} {s0 u9 : State} {link : Fin 8} {s : State}  (h9 : execControlLinkSyncLoss link s = .next u9) (h0
    : Keeps P s0 s) : Keeps P s0 u9 := by
  unfold execControlLinkSyncLoss at h9; try dsimp only at h9
  cases h9
  repeat' with_reducible
    (first | assumption | apply dropSync_keeps | apply bumpBy_keeps | (split))

theorem coastHold_keeps {P : Nat → Prop} {s0 : State} {p : Nat} {s : State} (h0 : Keeps P s0 s) : Keeps P s0 (coastHold p s) := by
  unfold coastHold; try dsimp only
  repeat' with_reducible
    (first | assumption | apply logRec_keeps | apply setPart_keeps | apply offerVeto_keeps | (split)
           | (refine Keeps.mk ?_ ?_ ?_ <;> (try dsimp only) <;> first | apply Keeps.pend | apply Keeps.bic (P := P) | apply Keeps.bound (P := P)) | intro _)

theorem startCoast_keeps {P : Nat → Prop} {s0 : State} {s : State} (h0 : Keeps P s0 s) : Keeps P s0 (startCoast s) := by
  unfold startCoast; try dsimp only
  repeat' with_reducible
    (first | assumption | apply enterServo_keeps | apply setCoast_keeps | apply eachPart_keeps | apply coastHold_keeps
           | (refine Keeps.mk ?_ ?_ ?_ <;> (try dsimp only) <;> first | apply Keeps.pend | apply Keeps.bic (P := P) | apply Keeps.bound (P := P)) | intro _)

theorem treeChanged_keeps {P : Nat → Prop} {s0 : State} {s : State} (h0 : Keeps P s0 s) : Keeps P s0 (treeChanged s) := by
  unfold treeChanged; try dsimp only
  repeat' with_reducible
    (first | assumption | apply eachPart_keeps | apply remeasure_keeps | intro _)

theorem execTimeUpstream_keeps {P : Nat → Prop} {s0 u9 : State} {c : CmdCtx} {link : Byte} {rsvd : BitVec 24} {s : State}
    (h9 : execTimeUpstream c link rsvd s = .next u9) (h0 : Keeps P s0 s) : Keeps P s0 u9 := by
  unfold execTimeUpstream at h9; try dsimp only at h9
  cases h9
  repeat' with_reducible
    (first | assumption | apply deferredOp_keeps | apply reply_keeps | apply holdDeferred_keeps | apply treeChanged_keeps
           | apply switchUpstream_keeps | (split)
           | (refine Keeps.mk ?_ ?_ ?_ <;> (try dsimp only) <;> first | apply Keeps.pend | apply Keeps.bic (P := P) | apply Keeps.bound (P := P)) | intro _)

theorem execUpstreamLoss_keeps {P : Nat → Prop} {s0 u9 : State} {s : State}  (h9 : execUpstreamLoss s = .next u9) (h0 : Keeps P s0 s) : Keeps P s0 u9 := by
  unfold execUpstreamLoss at h9; try dsimp only at h9
  cases h9
  repeat' with_reducible
    (first | assumption | apply dropSync_keeps | apply treeChanged_keeps | apply switchUpstream_keeps | apply startCoast_keeps | (split)
           | (refine Keeps.mk ?_ ?_ ?_ <;> (try dsimp only) <;> first | apply Keeps.pend | apply Keeps.bic (P := P) | apply Keeps.bound (P := P)))

theorem retrainAfter_keeps {P : Nat → Prop} {s0 : State} {s : State} {n : Nat} (h0 : Keeps P s0 s) : Keeps P s0 (retrainAfter s n) := by
  unfold retrainAfter; try dsimp only
  repeat' with_reducible
    (first | assumption | apply enterTrain_keeps | apply dropDue_keeps | (split)
           | (refine Keeps.mk ?_ ?_ ?_ <;> (try dsimp only) <;> first | apply Keeps.pend | apply Keeps.bic (P := P) | apply Keeps.bound (P := P)) | intro _)

theorem execUpstreamRegain_keeps {P : Nat → Prop} {s0 u9 : State} {link : Fin 8} {t1 t2 t3 t4 : U64} {s : State}
    (h9 : execUpstreamRegain link t1 t2 t3 t4 s = .next u9) (h0 : Keeps P s0 s) : Keeps P s0 u9 := by
  unfold execUpstreamRegain at h9; try dsimp only at h9
  cases h9
  repeat' with_reducible
    (first | assumption | apply setLink_keeps | apply setLane_keeps | apply setSync_keeps | apply assignCounter_keeps | apply enterServo_keeps
           | apply setCoast_keeps | apply eachPart_keeps | apply clearCoast_keeps | apply retrainAfter_keeps | apply treeChanged_keeps
           | (apply foldl_keeps <;> (try intro _ _ _)) | (apply foldl_keeps2 <;> (try intro _ _ _) <;> (try dsimp only))
           | (apply foldl_keeps3 <;> (try intro _ _ _) <;> (try dsimp only)) | (split)
           | (refine Keeps.mk ?_ ?_ ?_ <;> (try dsimp only) <;> first | apply Keeps.pend | apply Keeps.bic (P := P) | apply Keeps.bound (P := P)) | intro _)

end Sys2Proof.Machine
end

