-- ==== Sys2Proof/Laws/KeepsArmature.lean ====
section
/-!
SUPPORT. KeepsArmature.lean: every operation and meaning of Machine/Armature.lean keeps the queue, the BIC and the bounds of
State.Bounded, and, where it stores nothing, every byte of DRAM; one lemma each, stated from any earlier state s0 so that lemmas chain.
-/
namespace Sys2Proof.Machine

theorem sendOwn_keeps {P : Nat → Prop} {s0 : State} {k op tag path eframe : Nat} {payload : List Byte} {s : State} (h0 : Keeps P s0 s)
    : Keeps P s0 (sendOwn k op tag path eframe payload s) := by
  unfold sendOwn; try dsimp only
  repeat' with_reducible
    (first | assumption | apply sendOwnPacket_keeps)

theorem takeTag_keeps {P : Nat → Prop} {s0 : State} {s : State} (h0 : Keeps P s0 s) : Keeps P s0 (takeTag s).2 := by
  unfold takeTag; try dsimp only
  repeat' with_reducible
    (first | assumption | (split)
           | (refine Keeps.mk ?_ ?_ ?_ <;> (try dsimp only) <;> first | apply Keeps.pend | apply Keeps.bic (P := P) | apply Keeps.bound (P := P)))

theorem takeTag_keeps_eq {P : Nat → Prop} {s0 u9 : State} {s : State}  {r0} (h9 : takeTag s = (r0, u9)) (h0 : Keeps P s0 s) : Keeps P s0 u9 := by
  have h : Keeps P s0 (takeTag s).2 := takeTag_keeps  h0
  rw [h9] at h; exact h

theorem dropChild_keeps {P : Nat → Prop} {s0 : State} {k : Nat} {s : State} (h0 : Keeps P s0 s) : Keeps P s0 (dropChild k s) := by
  unfold dropChild; try dsimp only
  repeat' with_reducible
    (first | assumption | apply setLink_keeps
           | (refine Keeps.mk ?_ ?_ ?_ <;> (try dsimp only) <;> first | apply Keeps.pend | apply Keeps.bic (P := P) | apply Keeps.bound (P := P)))

theorem recordChild_keeps {P : Nat → Prop} {s0 : State} {k : Nat} {addr : U16} {adopted : Bool} {bic : U16} {serial : BitVec 128} {equiv : List U16}
    {s : State} (h0 : Keeps P s0 s) : Keeps P s0 (recordChild k addr adopted bic serial equiv s) := by
  unfold recordChild; try dsimp only
  repeat' with_reducible
    (first | assumption | apply setLink_keeps | apply takeTag_keeps | refine takeTag_keeps_eq (by assumption) ?_ | apply sendOwn_keeps | (split)
           | (refine Keeps.mk ?_ ?_ ?_ <;> (try dsimp only) <;> first | apply Keeps.pend | apply Keeps.bic (P := P) | apply Keeps.bound (P := P)))

theorem probeChild_keeps {P : Nat → Prop} {s0 : State} {k : Nat} {a : ProbeAnswer} {equiv : List U16} {s : State} (h0 : Keeps P s0 s)
    : Keeps P s0 (probeChild k a equiv s) := by
  unfold probeChild; try dsimp only
  repeat' with_reducible
    (first | assumption | apply dropChild_keeps | apply takeTag_keeps | refine takeTag_keeps_eq (by assumption) ?_ | apply emit_keeps
           | apply recordChild_keeps | apply sendOwn_keeps | apply setLink_keeps | (split)
           | (refine Keeps.mk ?_ ?_ ?_ <;> (try dsimp only) <;> first | apply Keeps.pend | apply Keeps.bic (P := P) | apply Keeps.bound (P := P)) | intro _)

theorem execChildProbe_keeps {P : Nat → Prop} {s0 u9 : State} {answers : List ProbeAnswer} {equivs : List (List U16)} {s : State}
    (h9 : execChildProbe answers equivs s = .next u9) (h0 : Keeps P s0 s) : Keeps P s0 u9 := by
  unfold execChildProbe at h9; try dsimp only at h9
  cases h9
  repeat' with_reducible
    (first | assumption | apply probeChild_keeps | apply treeChanged_keeps | (apply foldl_keeps <;> (try intro _ _ _)) | (split) | intro _)

theorem execArmProbe_keeps {P : Nat → Prop} {s0 u9 : State} {c : CmdCtx} {s : State}  (h9 : execArmProbe c s = .next u9) (h0 : Keeps P s0 s)
    : Keeps P s0 u9 := by
  unfold execArmProbe at h9; try dsimp only at h9
  cases h9
  repeat' with_reducible
    (first | assumption | apply immediate_keeps | apply reply_keeps | (split)
           | (refine Keeps.mk ?_ ?_ ?_ <;> (try dsimp only) <;> first | apply Keeps.pend | apply Keeps.bic (P := P) | apply Keeps.bound (P := P)) | intro _)

theorem execArmAssign_keeps {P : Nat → Prop} {s0 u9 : State} {c : CmdCtx} {addr : U16} {level rsvd : Byte} {t1 t2 t3 t4 : U64} {s : State}
    (h9 : execArmAssign c addr level rsvd t1 t2 t3 t4 s = .next u9) (h0 : Keeps P s0 s) : Keeps P s0 u9 := by
  unfold execArmAssign at h9; try dsimp only at h9
  cases h9
  repeat' with_reducible
    (first | assumption | apply immediate_keeps | apply reply_keeps | apply assignCounter_keeps | apply bringUpLanes_keeps | (split)
           | (refine Keeps.mk ?_ ?_ ?_ <;> (try dsimp only) <;> first | apply Keeps.pend | apply Keeps.bic (P := P) | apply Keeps.bound (P := P)) | intro _)

theorem execArmScope_keeps {P : Nat → Prop} {s0 u9 : State} {c : CmdCtx} {part flags : Byte} {root : U16} {scope : U32} {s : State}
    (h9 : execArmScope c part flags root scope s = .next u9) (h0 : Keeps P s0 s) : Keeps P s0 u9 := by
  unfold execArmScope at h9; try dsimp only at h9
  cases h9
  repeat' with_reducible
    (first | assumption | apply immediate_keeps | apply onPart_keeps | apply reply_keeps | apply setPart_keeps
           | (refine Keeps.mk ?_ ?_ ?_ <;> (try dsimp only) <;> first | apply Keeps.pend | apply Keeps.bic (P := P) | apply Keeps.bound (P := P)) | intro _)

theorem execArmStatus_keeps {P : Nat → Prop} {s0 u9 : State} {c : CmdCtx} {s : State}  (h9 : execArmStatus c s = .next u9) (h0 : Keeps P s0 s)
    : Keeps P s0 u9 := by
  unfold execArmStatus at h9; try dsimp only at h9
  cases h9
  repeat' with_reducible
    (first | assumption | apply immediate_keeps | apply reply_keeps | intro _)

theorem execConsensusOverride_keeps {P : Nat → Prop} {s0 u9 : State} {c : CmdCtx} {flags : Byte} {rsvd : BitVec 24} {s : State}
    (h9 : execConsensusOverride c flags rsvd s = .next u9) (h0 : Keeps P s0 s) : Keeps P s0 u9 := by
  unfold execConsensusOverride at h9; try dsimp only at h9
  cases h9
  repeat' with_reducible
    (first | assumption | apply immediate_keeps | apply reply_keeps | apply logRec_keeps | (split)
           | (refine Keeps.mk ?_ ?_ ?_ <;> (try dsimp only) <;> first | apply Keeps.pend | apply Keeps.bic (P := P) | apply Keeps.bound (P := P)) | intro _)

theorem noteAccepted_keeps {P : Nat → Prop} {s0 : State} {s : State} {k : ConsensusKid} (h0 : Keeps P s0 s) : Keeps P s0 (noteAccepted s k) := by
  unfold noteAccepted; try dsimp only
  repeat' with_reducible
    (first | assumption | apply extendFree_keeps | apply logRec_keeps | (split))

theorem judgeKids_keeps {P : Nat → Prop} {s0 : State} {l : List ConsensusKid} {s : State} (h0 : Keeps P s0 s) : Keeps P s0 (judgeKids l s).2 := by
  induction l generalizing s with
  | nil => exact h0
  | cons k r ih => exact ih (noteAccepted_keeps h0)
-- before divergentFields_keeps

theorem kidBytes_keeps {P : Nat → Prop} {s0 : State} {l : List ConsensusKid} {s : State} (h0 : Keeps P s0 s) : Keeps P s0 (kidBytes l s).2 := by
  induction l generalizing s with
  | nil => exact h0
  | cons k r ih =>
    unfold kidBytes
    split
    · exact ih h0
    · exact ih (draw_keeps h0)

theorem kidBytes_keeps_eq {P : Nat → Prop} {s0 u9 : State} {l : List ConsensusKid} {s : State} {r0} (e : kidBytes l s = (r0, u9)) (h0 : Keeps P s0 s)
    : Keeps P s0 u9 := by
  have h : Keeps P s0 (kidBytes l s).2 := kidBytes_keeps h0
  rw [e] at h; exact h

theorem divergentFields_keeps {P : Nat → Prop} {s0 : State} {div : Option (List Byte × U16)} {s : State} (h0 : Keeps P s0 s)
    : Keeps P s0 (divergentFields div s).2 := by
  unfold divergentFields; try dsimp only
  repeat' with_reducible
    (first | assumption | apply draw_keeps | refine draw_keeps_eq (by assumption) ?_ | (split)
           | (refine Keeps.mk ?_ ?_ ?_ <;> (try dsimp only) <;> first | apply Keeps.pend | apply Keeps.bic (P := P) | apply Keeps.bound (P := P)) | intro _)

theorem divergentFields_keeps_eq {P : Nat → Prop} {s0 u9 : State} {div : Option (List Byte × U16)} {s : State}  {r0}
    (h9 : divergentFields div s = (r0, u9)) (h0 : Keeps P s0 s) : Keeps P s0 u9 := by
  have h : Keeps P s0 (divergentFields div s).2 := divergentFields_keeps  h0
  rw [h9] at h; exact h

theorem finishQuery_keeps {P : Nat → Prop} {s0 : State} {q : ConsensusQ} {s : State} (h0 : Keeps P s0 s) : Keeps P s0 (finishQuery q s) := by
  unfold finishQuery; dsimp only
  split
  · exact h0
  · split
    · exact h0
    · apply reply_keeps
      apply divergentFields_keeps
      apply judgeKids_keeps
      apply kidBytes_keeps
      exact ⟨h0.pend, h0.bic, h0.bound⟩

theorem advanceQueries_keeps {P : Nat → Prop} {s0 : State} {s : State} (h0 : Keeps P s0 s) : Keeps P s0 (advanceQueries s) := by
  unfold advanceQueries; try dsimp only
  repeat' with_reducible
    (first | assumption | apply finishQuery_keeps | (apply foldl_keeps <;> (try intro _ _ _)) | (split)
           | (refine Keeps.mk ?_ ?_ ?_ <;> (try dsimp only) <;> first | apply Keeps.pend | apply Keeps.bic (P := P) | apply Keeps.bound (P := P)) | intro _)

theorem execConsensusQuery_keeps {P : Nat → Prop} {s0 u9 : State} {c : CmdCtx} {part : Byte} {rsvd : BitVec 24} {s : State}
    (h9 : execConsensusQuery c part rsvd s = .next u9) (h0 : Keeps P s0 s) : Keeps P s0 u9 := by
  unfold execConsensusQuery at h9; try dsimp only at h9
  cases h9
  repeat' with_reducible
    (first | assumption | apply deferredOp_keeps | apply reply_keeps | apply takeTag_keeps | refine takeTag_keeps_eq (by assumption) ?_
           | apply sendOwn_keeps | apply holdDeferred_keeps | apply advanceQueries_keeps | (apply foldl_keeps <;> (try intro _ _ _))
           | (apply foldl_keeps2 <;> (try intro _ _ _) <;> (try dsimp only)) | (apply foldl_keeps3 <;> (try intro _ _ _) <;> (try dsimp only))
           | (split) | (refine Keeps.mk ?_ ?_ ?_ <;> (try dsimp only) <;> first | apply Keeps.pend | apply Keeps.bic (P := P) | apply Keeps.bound (P := P))
           | intro _)

theorem updateKid_keeps {P : Nat → Prop} {s0 : State} {link : Nat} {want : ConsensusQ → Bool} {f : ConsensusKid → ConsensusKid} {s : State} (h0
    : Keeps P s0 s) : Keeps P s0 (updateKid link want f s) := by
  unfold updateKid; try dsimp only
  repeat' with_reducible
    (first | assumption | apply advanceQueries_keeps | (split)
           | (refine Keeps.mk ?_ ?_ ?_ <;> (try dsimp only) <;> first | apply Keeps.pend | apply Keeps.bic (P := P) | apply Keeps.bound (P := P)) | intro _)

theorem execConsensusReplyTimeout_keeps {P : Nat → Prop} {s0 u9 : State} {link : Fin 8} {s : State}  (h9 : execConsensusReplyTimeout link s = .next u9) (h0
    : Keeps P s0 s) : Keeps P s0 u9 := by
  unfold execConsensusReplyTimeout at h9; try dsimp only at h9
  cases h9
  repeat' with_reducible
    (first | assumption | apply updateKid_keeps | (split)
           | (refine Keeps.mk ?_ ?_ ?_ <;> (try dsimp only) <;> first | apply Keeps.pend | apply Keeps.bic (P := P) | apply Keeps.bound (P := P)) | intro _)

theorem takeAnswer_keeps {P : Nat → Prop} {s0 : State} {link op status : Nat} {tag : Nat} {data : List Byte} {s : State} (h0 : Keeps P s0 s)
    : Keeps P s0 (takeAnswer link op status tag data s) := by
  unfold takeAnswer; try dsimp only
  repeat' with_reducible
    (first | assumption | apply updateKid_keeps | (split)
           | (refine Keeps.mk ?_ ?_ ?_ <;> (try dsimp only) <;> first | apply Keeps.pend | apply Keeps.bic (P := P) | apply Keeps.bound (P := P)) | intro _)

theorem refusedChild_keeps {P : Nat → Prop} {s0 : State} {link : Nat} {s : State} (h0 : Keeps P s0 s) : Keeps P s0 (refusedChild link s) := by
  unfold refusedChild; try dsimp only
  repeat' with_reducible
    (first | assumption | apply draw_keeps | refine draw_keeps_eq (by assumption) ?_ | apply dropChild_keeps | apply logRec_keeps)

theorem noteAnswer_keeps {P : Nat → Prop} {s0 : State} {k : Nat} {bytes : List Byte} {s : State} (h0 : Keeps P s0 s) : Keeps P s0 (noteAnswer k bytes s) := by
  unfold noteAnswer; try dsimp only
  repeat' with_reducible
    (first | assumption | apply setLink_keeps | (split)
           | (refine Keeps.mk ?_ ?_ ?_ <;> (try dsimp only) <;> first | apply Keeps.pend | apply Keeps.bic (P := P) | apply Keeps.bound (P := P)))

theorem forwardUp_keeps {P : Nat → Prop} {s0 : State} {bytes : List Byte} {s : State} (h0 : Keeps P s0 s) : Keeps P s0 (forwardUp bytes s) := by
  unfold forwardUp; try dsimp only
  repeat' with_reducible
    (first | assumption | apply emit_keeps)

theorem childPacket_keeps {P : Nat → Prop} {s0 : State} {k : Nat} {bytes : List Byte} {s : State} (h0 : Keeps P s0 s) : Keeps P s0 (childPacket k bytes s) := by
  unfold childPacket; try dsimp only
  repeat' with_reducible
    (first | assumption | apply noteAnswer_keeps | apply refusedChild_keeps | apply setLink_keeps | apply takeAnswer_keeps | apply reply_keeps
           | apply endAct_keeps | apply forwardUp_keeps | (split)
           | (refine Keeps.mk ?_ ?_ ?_ <;> (try dsimp only) <;> first | apply Keeps.pend | apply Keeps.bic (P := P) | apply Keeps.bound (P := P)) | intro _)

theorem execChildReplyForward_keeps {P : Nat → Prop} {s0 u9 : State} {link : Fin 8} {bytes : List Byte} {s : State}
    (h9 : execChildReplyForward link bytes s = .next u9) (h0 : Keeps P s0 s) : Keeps P s0 u9 := by
  unfold execChildReplyForward at h9; try dsimp only at h9
  cases h9
  repeat' with_reducible
    (first | assumption | apply childPacket_keeps)

end Sys2Proof.Machine
end

