-- ==== Sys2Proof/Laws/KeepsPacket.lean ====
section
/-!
SUPPORT. KeepsPacket.lean: every operation and meaning of Machine/Packet.lean keeps the queue, the BIC and the bounds of
State.Bounded, and, where it stores nothing, every byte of DRAM; one lemma each, stated from any earlier state s0 so that lemmas chain.
-/
namespace Sys2Proof.Machine

theorem takeSeq_keeps {P : Nat → Prop} {s0 : State} {src : Nat} {b : List Byte} {s : State} (h0 : Keeps P s0 s) : Keeps P s0 (takeSeq src b s).2 := by
  unfold takeSeq; try dsimp only
  repeat' with_reducible
    (first | assumption | (refine Keeps.mk ?_ ?_ ?_ <;> (try dsimp only) <;> first | apply Keeps.pend | apply Keeps.bic (P := P) | apply Keeps.bound (P := P)))

theorem takeSeq_keeps_eq {P : Nat → Prop} {s0 u9 : State} {src : Nat} {b : List Byte} {s : State}  {r0} (h9 : takeSeq src b s = (r0, u9)) (h0 : Keeps P s0 s)
    : Keeps P s0 u9 := by
  have h : Keeps P s0 (takeSeq src b s).2 := takeSeq_keeps  h0
  rw [h9] at h; exact h

theorem refusePacket_keeps {P : Nat → Prop} {s0 : State} {src st : Nat} {data : List Byte} {b : List Byte} {s : State} (h0 : Keeps P s0 s)
    : Keeps P s0 (refusePacket src st data b s) := by
  unfold refusePacket; try dsimp only
  repeat' with_reducible
    (first | assumption | apply takeSeq_keeps | refine takeSeq_keeps_eq (by assumption) ?_ | apply sendReply_keeps)

theorem takePacket_keeps {P : Nat → Prop} {s0 : State} {src : Nat} {pathOk : Bool} {b : List Byte} {s : State} (h0 : Keeps P s0 s)
    : Keeps P s0 (takePacket src pathOk b s) := by
  unfold takePacket; try dsimp only
  repeat' with_reducible
    (first | assumption | apply refusePacket_keeps | apply takeSeq_keeps | refine takeSeq_keeps_eq (by assumption) ?_ | apply sendReply_keeps
           | (split) | (refine Keeps.mk ?_ ?_ ?_ <;> (try dsimp only) <;> first | apply Keeps.pend | apply Keeps.bic (P := P) | apply Keeps.bound (P := P))
           | intro _)

end Sys2Proof.Machine
end

