-- ==== Sys2Proof/Laws/KeepsDebugPort.lean ====
section
/-!
SUPPORT. KeepsDebugPort.lean: every operation and meaning of Machine/DebugPort.lean keeps the queue, the BIC and the bounds of
State.Bounded, and, where it stores nothing, every byte of DRAM; one lemma each, stated from any earlier state s0 so that lemmas chain.
-/
namespace Sys2Proof.Machine

theorem modDbg_keeps {P : Nat → Prop} {s0 : State} {f : DebugPort → DebugPort} {s : State} (h0 : Keeps P s0 s) : Keeps P s0 (modDbg f s) := by
  unfold modDbg; try dsimp only
  repeat' with_reducible
    (first | assumption | (refine Keeps.mk ?_ ?_ ?_ <;> (try dsimp only) <;> first | apply Keeps.pend | apply Keeps.bic (P := P) | apply Keeps.bound (P := P)))

theorem dapErr_keeps {P : Nat → Prop} {s0 : State} {s : State} (h0 : Keeps P s0 s) : Keeps P s0 (dapErr s) := by
  unfold dapErr; try dsimp only
  repeat' with_reducible
    (first | assumption | apply modDbg_keeps
           | (refine Keeps.mk ?_ ?_ ?_ <;> (try dsimp only) <;> first | apply Keeps.pend | apply Keeps.bic (P := P) | apply Keeps.bound (P := P)) | intro _)

theorem dapAccess_keeps {P : Nat → Prop} {s0 : State} {body : State → State} {s : State} (h_body : ∀ x0, Keeps P s0 x0 → Keeps P s0 (body x0)) (h0
    : Keeps P s0 s) : Keeps P s0 (dapAccess body s) := by
  unfold dapAccess; try dsimp only
  repeat' with_reducible
    (first | assumption | apply h_body | apply dapErr_keeps | apply draw_keeps | refine draw_keeps_eq (by assumption) ?_ | apply modDbg_keeps
           | (split) | (refine Keeps.mk ?_ ?_ ?_ <;> (try dsimp only) <;> first | apply Keeps.pend | apply Keeps.bic (P := P) | apply Keeps.bound (P := P))
           | intro _)

theorem dapData_keeps {P : Nat → Prop} {s0 : State} {v : Nat} {s : State} (h0 : Keeps P s0 s) : Keeps P s0 (dapData v s) := by
  unfold dapData; try dsimp only
  repeat' with_reducible
    (first | assumption | apply modDbg_keeps | apply emit_keeps
           | (refine Keeps.mk ?_ ?_ ?_ <;> (try dsimp only) <;> first | apply Keeps.pend | apply Keeps.bic (P := P) | apply Keeps.bound (P := P)) | intro _)

theorem setLevel_keeps {P : Nat → Prop} {s0 : State} {l : BitVec 2} {s : State} (h0 : Keeps P s0 s) : Keeps P s0 (setLevel l s) := by
  unfold setLevel; try dsimp only
  repeat' with_reducible
    (first | assumption | apply modDbg_keeps | apply endHalt_keeps | (split)
           | (refine Keeps.mk ?_ ?_ ?_ <;> (try dsimp only) <;> first | apply Keeps.pend | apply Keeps.bic (P := P) | apply Keeps.bound (P := P)) | intro _)

theorem drawChallenge_keeps {P : Nat → Prop} {s0 : State} {l : BitVec 2} {s : State} (h0 : Keeps P s0 s) : Keeps P s0 (drawChallenge l s) := by
  unfold drawChallenge; try dsimp only
  repeat' with_reducible
    (first | assumption | apply dapErr_keeps | apply draw_keeps | refine draw_keeps_eq (by assumption) ?_ | apply modDbg_keeps | (split)
           | (refine Keeps.mk ?_ ?_ ?_ <;> (try dsimp only) <;> first | apply Keeps.pend | apply Keeps.bic (P := P) | apply Keeps.bound (P := P)) | intro _)

theorem failResponse_keeps {P : Nat → Prop} {s0 : State} {s : State} (h0 : Keeps P s0 s) : Keeps P s0 (failResponse s) := by
  unfold failResponse; try dsimp only
  repeat' with_reducible
    (first | assumption | apply secEvent_keeps | apply modDbg_keeps | (split)
           | (refine Keeps.mk ?_ ?_ ?_ <;> (try dsimp only) <;> first | apply Keeps.pend | apply Keeps.bic (P := P) | apply Keeps.bound (P := P)) | intro _)

theorem grantFull_keeps {P : Nat → Prop} {s0 : State} {chid : BitVec 64} {s : State} (h0 : Keeps P s0 s) : Keeps P s0 (grantFull chid s) := by
  unfold grantFull; try dsimp only
  repeat' with_reducible
    (first | assumption | apply setLevel_keeps | apply modDbg_keeps | apply extendFree_keeps | apply dapErr_keeps | (split)
           | (refine Keeps.mk ?_ ?_ ?_ <;> (try dsimp only) <;> first | apply Keeps.pend | apply Keeps.bic (P := P) | apply Keeps.bound (P := P)) | intro _)

theorem judgeResponse_keeps {P : Nat → Prop} {s0 : State} {nonce : BitVec 256} {chid : BitVec 64} {l : BitVec 2} {s : State} (h0 : Keeps P s0 s)
    : Keeps P s0 (judgeResponse nonce chid l s) := by
  unfold judgeResponse; try dsimp only
  repeat' with_reducible
    (first | assumption | apply modDbg_keeps | apply grantFull_keeps | apply setLevel_keeps | apply failResponse_keeps | (split)
           | (refine Keeps.mk ?_ ?_ ?_ <;> (try dsimp only) <;> first | apply Keeps.pend | apply Keeps.bic (P := P) | apply Keeps.bound (P := P)) | intro _)

theorem submitResponse_keeps {P : Nat → Prop} {s0 : State} {s : State} (h0 : Keeps P s0 s) : Keeps P s0 (submitResponse s) := by
  unfold submitResponse; try dsimp only
  repeat' with_reducible
    (first | assumption | apply dapErr_keeps | apply modDbg_keeps | apply judgeResponse_keeps | (split)
           | (refine Keeps.mk ?_ ?_ ?_ <;> (try dsimp only) <;> first | apply Keeps.pend | apply Keeps.bic (P := P) | apply Keeps.bound (P := P)) | intro _)

theorem writeAuth_keeps {P : Nat → Prop} {s0 : State} {cmd : Nat} {s : State} (h0 : Keeps P s0 s) : Keeps P s0 (writeAuth cmd s) := by
  unfold writeAuth; try dsimp only
  repeat' with_reducible
    (first | assumption | apply setLevel_keeps | apply dapErr_keeps | apply drawChallenge_keeps | apply submitResponse_keeps | (split))

theorem execAuthObserve_keeps {P : Nat → Prop} {s0 u9 : State} {s : State}  (h9 : execAuthObserve s = .next u9) (h0 : Keeps P s0 s) : Keeps P s0 u9 := by
  unfold execAuthObserve at h9; try dsimp only at h9
  cases h9
  repeat' with_reducible
    (first | assumption | apply dapAccess_keeps | apply writeAuth_keeps | intro _)

theorem execAuthChallengeObserve_keeps {P : Nat → Prop} {s0 u9 : State} {s : State}  (h9 : execAuthChallengeObserve s = .next u9) (h0 : Keeps P s0 s)
    : Keeps P s0 u9 := by
  unfold execAuthChallengeObserve at h9; try dsimp only at h9
  cases h9
  repeat' with_reducible
    (first | assumption | apply dapAccess_keeps | apply writeAuth_keeps | intro _)

theorem execAuthChallengeFull_keeps {P : Nat → Prop} {s0 u9 : State} {s : State}  (h9 : execAuthChallengeFull s = .next u9) (h0 : Keeps P s0 s)
    : Keeps P s0 u9 := by
  unfold execAuthChallengeFull at h9; try dsimp only at h9
  cases h9
  repeat' with_reducible
    (first | assumption | apply dapAccess_keeps | apply writeAuth_keeps | intro _)

theorem execAuthSubmitResponse_keeps {P : Nat → Prop} {s0 u9 : State} {s : State}  (h9 : execAuthSubmitResponse s = .next u9) (h0 : Keeps P s0 s)
    : Keeps P s0 u9 := by
  unfold execAuthSubmitResponse at h9; try dsimp only at h9
  cases h9
  repeat' with_reducible
    (first | assumption | apply dapAccess_keeps | apply writeAuth_keeps | intro _)

theorem execAuthDrop_keeps {P : Nat → Prop} {s0 u9 : State} {s : State}  (h9 : execAuthDrop s = .next u9) (h0 : Keeps P s0 s) : Keeps P s0 u9 := by
  unfold execAuthDrop at h9; try dsimp only at h9
  cases h9
  repeat' with_reducible
    (first | assumption | apply dapAccess_keeps | apply writeAuth_keeps | intro _)

theorem execLockoutExpiry_keeps {P : Nat → Prop} {s0 u9 : State} {s : State}  (h9 : execLockoutExpiry s = .next u9) (h0 : Keeps P s0 s) : Keeps P s0 u9 := by
  unfold execLockoutExpiry at h9; try dsimp only at h9
  cases h9
  repeat' with_reducible
    (first | assumption | apply modDbg_keeps | (split)
           | (refine Keeps.mk ?_ ?_ ?_ <;> (try dsimp only) <;> first | apply Keeps.pend | apply Keeps.bic (P := P) | apply Keeps.bound (P := P)) | intro _)

theorem clearBuffer_keeps {P : Nat → Prop} {s0 : State} {s : State} (h0 : Keeps P s0 s) : Keeps P s0 (clearBuffer s) := by
  unfold clearBuffer; try dsimp only
  repeat' with_reducible
    (first | assumption | apply modDbg_keeps
           | (refine Keeps.mk ?_ ?_ ?_ <;> (try dsimp only) <;> first | apply Keeps.pend | apply Keeps.bic (P := P) | apply Keeps.bound (P := P)) | intro _)

theorem takeDebug_keeps {P : Nat → Prop} {s0 : State} {s : State} (h0 : Keeps P s0 s) : Keeps P s0 (takeDebug s) := by
  unfold takeDebug; try dsimp only
  repeat' with_reducible
    (first | assumption | apply clearBuffer_keeps | apply refusePacket_keeps | apply takePacket_keeps | (split))

theorem bufferGo_keeps {P : Nat → Prop} {s0 : State} {s : State} (h0 : Keeps P s0 s) : Keeps P s0 (bufferGo s) := by
  unfold bufferGo; try dsimp only
  repeat' with_reducible
    (first | assumption | apply modDbg_keeps | apply judgeResponse_keeps | apply drainDebug_keeps | (split)
           | (refine Keeps.mk ?_ ?_ ?_ <;> (try dsimp only) <;> first | apply Keeps.pend | apply Keeps.bic (P := P) | apply Keeps.bound (P := P)) | intro _)

theorem bufferPut_keeps {P : Nat → Prop} {s0 : State} {v : U32} {s : State} (h0 : Keeps P s0 s) : Keeps P s0 (bufferPut v s) := by
  unfold bufferPut; try dsimp only
  repeat' with_reducible
    (first | assumption | apply dapErr_keeps | apply modDbg_keeps | (split)
           | (refine Keeps.mk ?_ ?_ ?_ <;> (try dsimp only) <;> first | apply Keeps.pend | apply Keeps.bic (P := P) | apply Keeps.bound (P := P)) | intro _)

theorem bufferGet_keeps {P : Nat → Prop} {s0 : State} {s : State} (h0 : Keeps P s0 s) : Keeps P s0 (bufferGet s) := by
  unfold bufferGet; try dsimp only
  repeat' with_reducible
    (first | assumption | apply dapData_keeps | apply modDbg_keeps | (split)
           | (refine Keeps.mk ?_ ?_ ?_ <;> (try dsimp only) <;> first | apply Keeps.pend | apply Keeps.bic (P := P) | apply Keeps.bound (P := P)) | intro _)

theorem execPktCtrlGo_keeps {P : Nat → Prop} {s0 u9 : State} {s : State}  (h9 : execPktCtrlGo s = .next u9) (h0 : Keeps P s0 s) : Keeps P s0 u9 := by
  unfold execPktCtrlGo at h9; try dsimp only at h9
  cases h9
  repeat' with_reducible
    (first | assumption | apply dapAccess_keeps | apply bufferGo_keeps | intro _)

theorem execPktCtrlClr_keeps {P : Nat → Prop} {s0 u9 : State} {s : State}  (h9 : execPktCtrlClr s = .next u9) (h0 : Keeps P s0 s) : Keeps P s0 u9 := by
  unfold execPktCtrlClr at h9; try dsimp only at h9
  cases h9
  repeat' with_reducible
    (first | assumption | apply dapAccess_keeps | apply clearBuffer_keeps | intro _)

theorem execPktDataWrite_keeps {P : Nat → Prop} {s0 u9 : State} {value : U32} {s : State}  (h9 : execPktDataWrite value s = .next u9) (h0 : Keeps P s0 s)
    : Keeps P s0 u9 := by
  unfold execPktDataWrite at h9; try dsimp only at h9
  cases h9
  repeat' with_reducible
    (first | assumption | apply dapAccess_keeps | apply bufferPut_keeps | intro _)

theorem execPktDataRead_keeps {P : Nat → Prop} {s0 u9 : State} {s : State}  (h9 : execPktDataRead s = .next u9) (h0 : Keeps P s0 s) : Keeps P s0 u9 := by
  unfold execPktDataRead at h9; try dsimp only at h9
  cases h9
  repeat' with_reducible
    (first | assumption | apply dapAccess_keeps | apply bufferGet_keeps | intro _)

theorem vtPut_keeps {P : Nat → Prop} {s0 : State} {b : Byte} {s : State} (h0 : Keeps P s0 s) : Keeps P s0 (vtPut b s) := by
  unfold vtPut; try dsimp only
  repeat' with_reducible
    (first | assumption | apply modDbg_keeps | (split)
           | (refine Keeps.mk ?_ ?_ ?_ <;> (try dsimp only) <;> first | apply Keeps.pend | apply Keeps.bic (P := P) | apply Keeps.bound (P := P)) | intro _)

theorem vtWrite_keeps {P : Nat → Prop} {s0 : State} {v : U32} {s : State} (h0 : Keeps P s0 s) : Keeps P s0 (vtWrite v s) := by
  unfold vtWrite; try dsimp only
  repeat' with_reducible
    (first | assumption | apply vtPut_keeps | (split))

theorem vtRead_keeps {P : Nat → Prop} {s0 : State} {s : State} (h0 : Keeps P s0 s) : Keeps P s0 (vtRead s) := by
  unfold vtRead; try dsimp only
  repeat' with_reducible
    (first | assumption | apply dapData_keeps | apply modDbg_keeps | (split)
           | (refine Keeps.mk ?_ ?_ ?_ <;> (try dsimp only) <;> first | apply Keeps.pend | apply Keeps.bic (P := P) | apply Keeps.bound (P := P)) | intro _)

theorem execVtDataWrite_keeps {P : Nat → Prop} {s0 u9 : State} {value : U32} {s : State}  (h9 : execVtDataWrite value s = .next u9) (h0 : Keeps P s0 s)
    : Keeps P s0 u9 := by
  unfold execVtDataWrite at h9; try dsimp only at h9
  cases h9
  repeat' with_reducible
    (first | assumption | apply dapAccess_keeps | apply vtWrite_keeps | intro _)

theorem execVtDataRead_keeps {P : Nat → Prop} {s0 u9 : State} {s : State}  (h9 : execVtDataRead s = .next u9) (h0 : Keeps P s0 s) : Keeps P s0 u9 := by
  unfold execVtDataRead at h9; try dsimp only at h9
  cases h9
  repeat' with_reducible
    (first | assumption | apply dapAccess_keeps | apply vtRead_keeps | intro _)

theorem execVtSerialByte_keeps {P : Nat → Prop} {s0 u9 : State} {byte : Byte} {s : State}  (h9 : execVtSerialByte byte s = .next u9) (h0 : Keeps P s0 s)
    : Keeps P s0 u9 := by
  unfold execVtSerialByte at h9; try dsimp only at h9
  cases h9
  repeat' with_reducible
    (first | assumption | apply vtPut_keeps | (split))

theorem shadowGet_keeps {P : Nat → Prop} {s0 : State} {s : State} (h0 : Keeps P s0 s) : Keeps P s0 (shadowGet s) := by
  unfold shadowGet; try dsimp only
  repeat' with_reducible
    (first | assumption | apply dapData_keeps | apply modDbg_keeps | apply dapErr_keeps | apply markDamaged_keeps | (split)
           | (refine Keeps.mk ?_ ?_ ?_ <;> (try dsimp only) <;> first | apply Keeps.pend | apply Keeps.bic (P := P) | apply Keeps.bound (P := P)) | intro _)

theorem execShDataRead_keeps {P : Nat → Prop} {s0 u9 : State} {s : State}  (h9 : execShDataRead s = .next u9) (h0 : Keeps P s0 s) : Keeps P s0 u9 := by
  unfold execShDataRead at h9; try dsimp only at h9
  cases h9
  repeat' with_reducible
    (first | assumption | apply dapAccess_keeps | apply shadowGet_keeps | intro _)

theorem dapRead_keeps {P : Nat → Prop} {s0 : State} {reg : Nat} {s : State} (h0 : Keeps P s0 s) : Keeps P s0 (dapRead reg s) := by
  unfold dapRead; try dsimp only
  repeat' with_reducible
    (first | assumption | apply bufferGet_keeps | apply vtRead_keeps | apply shadowGet_keeps | apply dapData_keeps | (split))

theorem dapWrite_keeps {P : Nat → Prop} {s0 : State} {reg : Nat} {v : U32} {s : State} (h0 : Keeps P s0 s) : Keeps P s0 (dapWrite reg v s) := by
  unfold dapWrite; try dsimp only
  repeat' with_reducible
    (first | assumption | apply writeAuth_keeps | apply bufferGo_keeps | apply clearBuffer_keeps | apply bufferPut_keeps | apply modDbg_keeps
           | apply vtWrite_keeps | (split)
           | (refine Keeps.mk ?_ ?_ ?_ <;> (try dsimp only) <;> first | apply Keeps.pend | apply Keeps.bic (P := P) | apply Keeps.bound (P := P)) | intro _)

theorem execDapaccUpdate_keeps {P : Nat → Prop} {s0 u9 : State} {wr : Bool} {reg : Byte} {data : U32} {s : State}
    (h9 : execDapaccUpdate wr reg data s = .next u9) (h0 : Keeps P s0 s) : Keeps P s0 u9 := by
  unfold execDapaccUpdate at h9; try dsimp only at h9
  cases h9
  repeat' with_reducible
    (first | assumption | apply dapAccess_keeps | apply dapWrite_keeps | apply dapRead_keeps | (split) | intro _)

theorem execDbgRstN_keeps {P : Nat → Prop} {s0 u9 : State} {high : Bool} {s : State}  (h9 : execDbgRstN high s = .next u9) (h0 : Keeps P s0 s)
    : Keeps P s0 u9 := by
  unfold execDbgRstN at h9; try dsimp only at h9
  cases h9
  repeat' with_reducible
    (first | assumption | apply modDbg_keeps | apply setLevel_keeps | (split)
           | (refine Keeps.mk ?_ ?_ ?_ <;> (try dsimp only) <;> first | apply Keeps.pend | apply Keeps.bic (P := P) | apply Keeps.bound (P := P)) | intro _)

theorem execTapInstructionUpdate_keeps {P : Nat → Prop} {s0 u9 : State} {ir : Option Byte} {s : State}  (h9 : execTapInstructionUpdate ir s = .next u9) (h0
    : Keeps P s0 s) : Keeps P s0 u9 := by
  unfold execTapInstructionUpdate at h9; try dsimp only at h9
  cases h9
  repeat' with_reducible
    (first | assumption | apply modDbg_keeps | (split)
           | (refine Keeps.mk ?_ ?_ ?_ <;> (try dsimp only) <;> first | apply Keeps.pend | apply Keeps.bic (P := P) | apply Keeps.bound (P := P)) | intro _)

end Sys2Proof.Machine
end

