-- ==== Sys2Proof/Laws/KeepsPairState.lean ====
section
/-!
SUPPORT. KeepsPairState.lean: every operation and meaning of Machine/PairState.lean keeps the queue, the BIC and the bounds of
State.Bounded, and, where it stores nothing, every byte of DRAM; one lemma each, stated from any earlier state s0 so that lemmas chain.
-/
namespace Sys2Proof.Machine

theorem sendReport_keeps {P : Nat → Prop} {s0 : State} {s : State} (h0 : Keeps P s0 s) : Keeps P s0 (sendReport s) := by
  unfold sendReport; try dsimp only
  repeat' with_reducible
    (first | assumption | apply sendMessage_keeps | (split)
           | (refine Keeps.mk ?_ ?_ ?_ <;> (try dsimp only) <;> first | apply Keeps.pend | apply Keeps.bic (P := P) | apply Keeps.bound (P := P)))

theorem sendIdigest_keeps {P : Nat → Prop} {s0 : State} {p : Nat} {s : State} (h0 : Keeps P s0 s) : Keeps P s0 (sendIdigest p s) := by
  unfold sendIdigest; try dsimp only
  repeat' with_reducible
    (first | assumption | apply sendMessage_keeps | (split)
           | (refine Keeps.mk ?_ ?_ ?_ <;> (try dsimp only) <;> first | apply Keeps.pend | apply Keeps.bic (P := P) | apply Keeps.bound (P := P)))

theorem sendLeaves_keeps {P : Nat → Prop} {s0 : State} {s : State} (h0 : Keeps P s0 s) : Keeps P s0 (sendLeaves s) := by
  unfold sendLeaves; try dsimp only
  repeat' with_reducible
    (first | assumption | apply sendMessage_keeps | (apply foldl_keeps <;> (try intro _ _ _))
           | (apply foldl_keeps2 <;> (try intro _ _ _) <;> (try dsimp only)) | (apply foldl_keeps3 <;> (try intro _ _ _) <;> (try dsimp only))
           | intro _)

theorem sendLoads_keeps {P : Nat → Prop} {s0 : State} {s : State} (h0 : Keeps P s0 s) : Keeps P s0 (sendLoads s) := by
  unfold sendLoads; try dsimp only
  repeat' with_reducible
    (first | assumption | apply sendMessage_keeps | (apply foldl_keeps <;> (try intro _ _ _)) | (split) | intro _)

theorem copyNext_keeps {P : Nat → Prop} {s0 : State} {s : State} (h0 : Keeps P s0 s) : Keeps P s0 (copyNext s) := by
  unfold copyNext; try dsimp only
  repeat' with_reducible
    (first | assumption | apply accessLine_keeps | refine accessLine_keeps_eq (by assumption) ?_ | apply sendUnits_keeps
           | apply setProgress_keeps | apply sendLoads_keeps | (split)
           | (refine Keeps.mk ?_ ?_ ?_ <;> (try dsimp only) <;> first | apply Keeps.pend | apply Keeps.bic (P := P) | apply Keeps.bound (P := P)) | intro _)

theorem joinPause_keeps {P : Nat → Prop} {s0 : State} {p : Nat} {m : FrameNo} {s : State} (h0 : Keeps P s0 s) : Keeps P s0 (joinPause p m s) := by
  unfold joinPause; try dsimp only
  repeat' with_reducible
    (first | assumption | apply rootPause_keeps | refine rootPause_keeps_eq (by assumption) ?_ | apply markerUp_keeps | apply askRoot_keeps
           | (split) | (refine Keeps.mk ?_ ?_ ?_ <;> (try dsimp only) <;> first | apply Keeps.pend | apply Keeps.bic (P := P) | apply Keeps.bound (P := P)))

theorem joinAtOnce_keeps {P : Nat → Prop} {s0 : State} {ref : Nat} {s : State} (h0 : Keeps P s0 s) : Keeps P s0 (joinAtOnce ref s) := by
  unfold joinAtOnce; try dsimp only
  repeat' with_reducible
    (first | assumption | apply joinRoles_keeps | apply sendMessage_keeps | apply partEvent_keeps | apply finishAct_keeps
           | apply completePendant_keeps | apply completeOpt_keeps
           | (refine Keeps.mk ?_ ?_ ?_ <;> (try dsimp only) <;> first | apply Keeps.pend | apply Keeps.bic (P := P) | apply Keeps.bound (P := P)) | intro _)

theorem beginJoin_keeps {P : Nat → Prop} {s0 : State} {ref : Nat} {m : FrameNo} {s : State} (h0 : Keeps P s0 s) : Keeps P s0 (beginJoin ref m s) := by
  unfold beginJoin; try dsimp only
  repeat' with_reducible
    (first | assumption | apply joinAtOnce_keeps | apply joinPause_keeps | (apply foldl_keeps <;> (try intro _ _ _))
           | (apply foldl_keeps2 <;> (try intro _ _ _) <;> (try dsimp only)) | (apply foldl_keeps3 <;> (try intro _ _ _) <;> (try dsimp only))
           | (split) | (refine Keeps.mk ?_ ?_ ?_ <;> (try dsimp only) <;> first | apply Keeps.pend | apply Keeps.bic (P := P) | apply Keeps.bound (P := P))
           | intro _)

theorem sendEpochs_keeps {P : Nat → Prop} {s0 : State} {p : Nat} {s : State} (h0 : Keeps P s0 s) : Keeps P s0 (sendEpochs p s) := by
  unfold sendEpochs; try dsimp only
  repeat' with_reducible
    (first | assumption | apply sendMessage_keeps | (apply foldl_keeps <;> (try intro _ _ _)) | intro _)

theorem sendRun_keeps {P : Nat → Prop} {s0 : State} {space jsid unit : Nat} {words : List U64} {s : State} (h0 : Keeps P s0 s)
    : Keeps P s0 (sendRun space jsid unit words s) := by
  unfold sendRun; try dsimp only
  repeat' with_reducible
    (first | assumption | apply sendUnits_keeps | (apply foldl_keeps <;> (try intro _ _ _)) | intro _)

theorem sendJoin_keeps {P : Nat → Prop} {s0 : State} {p : Nat} {s : State} (h0 : Keeps P s0 s) : Keeps P s0 (sendJoin p s) := by
  unfold sendJoin; try dsimp only
  repeat' with_reducible
    (first | assumption | apply sendMessage_keeps | apply sendRun_keeps | (split)
           | (refine Keeps.mk ?_ ?_ ?_ <;> (try dsimp only) <;> first | apply Keeps.pend | apply Keeps.bic (P := P) | apply Keeps.bound (P := P)) | intro _)

theorem restoreJoin_keeps {P : Nat → Prop} {s0 : State} {i : JoinInfo} {s : State} (h0 : Keeps P s0 s) : Keeps P s0 (restoreJoin i s) := by
  unfold restoreJoin; try dsimp only
  repeat' with_reducible
    (first | assumption | apply applyRestore_keeps | apply prepareBanks_keeps | apply setPart_keeps
           | (refine Keeps.mk ?_ ?_ ?_ <;> (try dsimp only) <;> first | apply Keeps.pend | apply Keeps.bic (P := P) | apply Keeps.bound (P := P)) | intro _)

theorem verifyNewcomer_keeps {P : Nat → Prop} {s0 : State} {s : State} (h0 : Keeps P s0 s) : Keeps P s0 (verifyNewcomer s) := by
  unfold verifyNewcomer; try dsimp only
  repeat' with_reducible
    (first | assumption | apply restoreJoin_keeps | (apply foldl_keeps <;> (try intro _ _ _)) | (split)
           | (refine Keeps.mk ?_ ?_ ?_ <;> (try dsimp only) <;> first | apply Keeps.pend | apply Keeps.bic (P := P) | apply Keeps.bound (P := P)) | intro _)

theorem undoJoin_keeps {P : Nat → Prop} {s0 : State} {s : State} (h0 : Keeps P s0 s) : Keeps P s0 (undoJoin s) := by
  unfold undoJoin; try dsimp only
  repeat' with_reducible
    (first | assumption | apply eachPart_keeps | apply drivePins_keeps | apply setPart_keeps | (split)
           | (refine Keeps.mk ?_ ?_ ?_ <;> (try dsimp only) <;> first | apply Keeps.pend | apply Keeps.bic (P := P) | apply Keeps.bound (P := P)) | intro _)

theorem failResync_keeps {P : Nat → Prop} {s0 : State} {phase : Nat} {st : PairSt} {s : State} (h0 : Keeps P s0 s) : Keeps P s0 (failResync phase st s) := by
  unfold failResync; try dsimp only
  repeat' with_reducible
    (first | assumption | apply endAct_keeps | apply finishAct_keeps | apply setPart_keeps | apply rootRestart_keeps | apply markerUp_keeps
           | apply completePendant_keeps | apply completeOpt_keeps | (apply foldl_keeps <;> (try intro _ _ _))
           | (apply foldl_keeps2 <;> (try intro _ _ _) <;> (try dsimp only)) | (apply foldl_keeps3 <;> (try intro _ _ _) <;> (try dsimp only))
           | (split) | (refine Keeps.mk ?_ ?_ ?_ <;> (try dsimp only) <;> first | apply Keeps.pend | apply Keeps.bic (P := P) | apply Keeps.bound (P := P))
           | intro _)

theorem dissolvePair_keeps {P : Nat → Prop} {s0 : State} {s : State} (h0 : Keeps P s0 s) : Keeps P s0 (dissolvePair s) := by
  unfold dissolvePair; try dsimp only
  repeat' with_reducible
    (first | assumption | apply failResync_keeps | apply releaseFault_keeps | apply completePendant_keeps | apply completeOpt_keeps | (split)
           | (refine Keeps.mk ?_ ?_ ?_ <;> (try dsimp only) <;> first | apply Keeps.pend | apply Keeps.bic (P := P) | apply Keeps.bound (P := P)) | intro _)

theorem dissolveDue_keeps {P : Nat → Prop} {s0 : State} {s : State} (h0 : Keeps P s0 s) : Keeps P s0 (dissolveDue s) := by
  unfold dissolveDue; try dsimp only
  repeat' with_reducible
    (first | assumption | apply dissolvePair_keeps | (split) | intro _)

theorem pairStep_keeps {P : Nat → Prop} {s0 : State} {s : State} (h0 : Keeps P s0 s) : Keeps P s0 (pairStep s) := by
  unfold pairStep; try dsimp only
  repeat' with_reducible
    (first | assumption | apply dissolveDue_keeps | apply copyNext_keeps)

end Sys2Proof.Machine
end

