-- ==== Sys2Proof/Laws/KeepsPendant.lean ====
section
/-!
SUPPORT. KeepsPendant.lean: every operation and meaning of Machine/Pendant.lean keeps the queue, the BIC and the bounds of
State.Bounded, and, where it stores nothing, every byte of DRAM; one lemma each, stated from any earlier state s0 so that lemmas chain.
-/
namespace Sys2Proof.Machine

theorem endPairing_keeps {P : Nat → Prop} {s0 : State} {status : Nat} {s : State} (h0 : Keeps P s0 s) : Keeps P s0 (endPairing status s) := by
  unfold endPairing; try dsimp only
  repeat' with_reducible
    (first | assumption | apply reply_keeps | (split)
           | (refine Keeps.mk ?_ ?_ ?_ <;> (try dsimp only) <;> first | apply Keeps.pend | apply Keeps.bic (P := P) | apply Keeps.bound (P := P)) | intro _)

theorem failPair_keeps {P : Nat → Prop} {s0 : State} {status : Nat} {s : State} (h0 : Keeps P s0 s) : Keeps P s0 (failPair status s) := by
  unfold failPair; try dsimp only
  repeat' with_reducible
    (first | assumption | apply endPairing_keeps | apply sendMessage_keeps)

theorem setPairStep_keeps {P : Nat → Prop} {s0 : State} {n : Nat} {s : State} (h0 : Keeps P s0 s) : Keeps P s0 (setPairStep n s) := by
  unfold setPairStep; try dsimp only
  repeat' with_reducible
    (first | assumption | (refine Keeps.mk ?_ ?_ ?_ <;> (try dsimp only) <;> first | apply Keeps.pend | apply Keeps.bic (P := P) | apply Keeps.bound (P := P))
           | intro _)

theorem raiseLink_keeps {P : Nat → Prop} {s0 : State} {s : State} (h0 : Keeps P s0 s) : Keeps P s0 (raiseLink s) := by
  unfold raiseLink; try dsimp only
  repeat' with_reducible
    (first | assumption | apply enterTrain_keeps | apply wakeLane_keeps | (apply foldl_keeps <;> (try intro _ _ _)) | (split)
           | (refine Keeps.mk ?_ ?_ ?_ <;> (try dsimp only) <;> first | apply Keeps.pend | apply Keeps.bic (P := P) | apply Keeps.bound (P := P)) | intro _)

theorem tryPair_keeps {P : Nat → Prop} {s0 : State} {s : State} (h0 : Keeps P s0 s) : Keeps P s0 (tryPair s) := by
  unfold tryPair; try dsimp only
  repeat' with_reducible
    (first | assumption | apply failPair_keeps | apply raiseLink_keeps | (split)
           | (refine Keeps.mk ?_ ?_ ?_ <;> (try dsimp only) <;> first | apply Keeps.pend | apply Keeps.bic (P := P) | apply Keeps.bound (P := P)) | intro _)

theorem linkRaised_keeps {P : Nat → Prop} {s0 : State} {s : State} (h0 : Keeps P s0 s) : Keeps P s0 (linkRaised s) := by
  unfold linkRaised; try dsimp only
  repeat' with_reducible
    (first | assumption | apply failPair_keeps | apply draw_keeps | refine draw_keeps_eq (by assumption) ?_ | apply setBlink_keeps
           | apply setPairStep_keeps | (split)
           | (refine Keeps.mk ?_ ?_ ?_ <;> (try dsimp only) <;> first | apply Keeps.pend | apply Keeps.bic (P := P) | apply Keeps.bound (P := P)) | intro _)

theorem sendHello_keeps {P : Nat → Prop} {s0 : State} {s : State} (h0 : Keeps P s0 s) : Keeps P s0 (sendHello s) := by
  unfold sendHello; try dsimp only
  repeat' with_reducible
    (first | assumption | apply emit_keeps | (split))

theorem sendKeychk_keeps {P : Nat → Prop} {s0 : State} {s : State} (h0 : Keeps P s0 s) : Keeps P s0 (sendKeychk s) := by
  unfold sendKeychk; try dsimp only
  repeat' with_reducible
    (first | assumption | apply setPairStep_keeps | apply sendMessage_keeps)

theorem goOnPairing_keeps {P : Nat → Prop} {s0 : State} {s : State} (h0 : Keeps P s0 s) : Keeps P s0 (goOnPairing s) := by
  unfold goOnPairing; try dsimp only
  repeat' with_reducible
    (first | assumption | apply sendHello_keeps | apply sendKeychk_keeps | (split))

theorem formPair_keeps {P : Nat → Prop} {s0 : State} {s : State} (h0 : Keeps P s0 s) : Keeps P s0 (formPair s) := by
  unfold formPair; try dsimp only
  repeat' with_reducible
    (first | assumption | apply reply_keeps | (split)
           | (refine Keeps.mk ?_ ?_ ?_ <;> (try dsimp only) <;> first | apply Keeps.pend | apply Keeps.bic (P := P) | apply Keeps.bound (P := P)) | intro _)

theorem execPendantPair_keeps {P : Nat → Prop} {s0 u9 : State} {c : CmdCtx} {mode flags : Byte} {rsvd : U16} {s : State}
    (h9 : execPendantPair c mode flags rsvd s = .next u9) (h0 : Keeps P s0 s) : Keeps P s0 u9 := by
  unfold execPendantPair at h9; try dsimp only at h9
  cases h9
  repeat' with_reducible
    (first | assumption | apply linkWait_keeps | apply deferredOp_keeps | apply reply_keeps | apply holdDeferred_keeps | apply tryPair_keeps
           | apply sendMessage_keeps | (split)
           | (refine Keeps.mk ?_ ?_ ?_ <;> (try dsimp only) <;> first | apply Keeps.pend | apply Keeps.bic (P := P) | apply Keeps.bound (P := P)) | intro _)

theorem registerChange_keeps {P : Nat → Prop} {s0 : State} {op side ref : Nat} {m : FrameNo} {armed : Bool} {s : State} (h0 : Keeps P s0 s)
    : Keeps P s0 (registerChange op side ref m armed s) := by
  unfold registerChange; try dsimp only
  repeat' with_reducible
    (first | assumption | apply addChange_keeps | (apply foldl_keeps <;> (try intro _ _ _))
           | (apply foldl_keeps2 <;> (try intro _ _ _) <;> (try dsimp only)) | (apply foldl_keeps3 <;> (try intro _ _ _) <;> (try dsimp only))
           | intro _)

theorem changeNow_keeps {P : Nat → Prop} {s0 : State} {op side ref : Nat} {s : State} (h0 : Keeps P s0 s) : Keeps P s0 (changeNow op side ref s) := by
  unfold changeNow; try dsimp only
  repeat' with_reducible
    (first | assumption | apply applyRole_keeps | apply completePendant_keeps | apply addChange_keeps | (apply foldl_keeps <;> (try intro _ _ _))
           | (apply foldl_keeps2 <;> (try intro _ _ _) <;> (try dsimp only)) | (apply foldl_keeps3 <;> (try intro _ _ _) <;> (try dsimp only))
           | intro _)

theorem tellChange_keeps {P : Nat → Prop} {s0 : State} {op side ref : Nat} {m : Option FrameNo} {s : State} (h0 : Keeps P s0 s)
    : Keeps P s0 (tellChange op side ref m s) := by
  unfold tellChange; try dsimp only
  repeat' with_reducible
    (first | assumption | apply sendEpochs_keeps | apply sendMessage_keeps | (apply foldl_keeps <;> (try intro _ _ _)) | (split) | intro _)

theorem takeChange_keeps {P : Nat → Prop} {s0 : State} {c : CmdCtx} {op side ref : Nat} {s : State} (h0 : Keeps P s0 s)
    : Keeps P s0 (takeChange c op side ref s) := by
  unfold takeChange; try dsimp only
  repeat' with_reducible
    (first | assumption | apply reply_keeps | apply changeNow_keeps | apply tellChange_keeps | apply registerChange_keeps | (split)
           | (refine Keeps.mk ?_ ?_ ?_ <;> (try dsimp only) <;> first | apply Keeps.pend | apply Keeps.bic (P := P) | apply Keeps.bound (P := P)) | intro _)

theorem takeJoin_keeps {P : Nat → Prop} {s0 : State} {c : CmdCtx} {op side ref : Nat} {s : State} (h0 : Keeps P s0 s)
    : Keeps P s0 (takeJoin c op side ref s) := by
  unfold takeJoin; try dsimp only
  repeat' with_reducible
    (first | assumption | apply reply_keeps | apply busyReply_keeps | apply beginJoin_keeps | (split)
           | (refine Keeps.mk ?_ ?_ ?_ <;> (try dsimp only) <;> first | apply Keeps.pend | apply Keeps.bic (P := P) | apply Keeps.bound (P := P)) | intro _)

theorem pairChange_keeps {P : Nat → Prop} {s0 : State} {c : CmdCtx} {op : Nat} {argsOk : Bool} {body : State → State} {s : State}
    (h_body : ∀ x0, Keeps P s0 x0 → Keeps P s0 (body x0)) (h0 : Keeps P s0 s) : Keeps P s0 (pairChange c op argsOk body s) := by
  unfold pairChange; try dsimp only
  repeat' with_reducible
    (first | assumption | apply h_body | apply reply_keeps | (split))

theorem execPendantMode_keeps {P : Nat → Prop} {s0 u9 : State} {c : CmdCtx} {mode sb part rsvd : Byte} {s : State}
    (h9 : execPendantMode c mode sb part rsvd s = .next u9) (h0 : Keeps P s0 s) : Keeps P s0 u9 := by
  unfold execPendantMode at h9; try dsimp only at h9
  cases h9
  repeat' with_reducible
    (first | assumption | apply pairWait_keeps | apply immediate_keeps | apply pairChange_keeps | apply takeChange_keeps | apply takeJoin_keeps
           | apply reply_keeps | (split) | intro _)

theorem execPendantRetire_keeps {P : Nat → Prop} {s0 u9 : State} {c : CmdCtx} {side part : Byte} {rsvd : U16} {s : State}
    (h9 : execPendantRetire c side part rsvd s = .next u9) (h0 : Keeps P s0 s) : Keeps P s0 u9 := by
  unfold execPendantRetire at h9; try dsimp only at h9
  cases h9
  repeat' with_reducible
    (first | assumption | apply pairWait_keeps | apply immediate_keeps | apply pairChange_keeps | apply takeJoin_keeps | apply takeChange_keeps
           | (split) | intro _)

theorem execPendantHandover_keeps {P : Nat → Prop} {s0 u9 : State} {c : CmdCtx} {part : Byte} {rsvd : BitVec 24} {s : State}
    (h9 : execPendantHandover c part rsvd s = .next u9) (h0 : Keeps P s0 s) : Keeps P s0 u9 := by
  unfold execPendantHandover at h9; try dsimp only at h9
  cases h9
  repeat' with_reducible
    (first | assumption | apply pairWait_keeps | apply immediate_keeps | apply pairChange_keeps | apply takeChange_keeps | apply takeJoin_keeps
           | (split) | intro _)

theorem execPendantPrefer_keeps {P : Nat → Prop} {s0 u9 : State} {c : CmdCtx} {pref : Byte} {rsvd : BitVec 24} {s : State}
    (h9 : execPendantPrefer c pref rsvd s = .next u9) (h0 : Keeps P s0 s) : Keeps P s0 u9 := by
  unfold execPendantPrefer at h9; try dsimp only at h9
  cases h9
  repeat' with_reducible
    (first | assumption | apply pairWait_keeps | apply immediate_keeps | apply reply_keeps | apply takePref_keeps | (split)
           | (refine Keeps.mk ?_ ?_ ?_ <;> (try dsimp only) <;> first | apply Keeps.pend | apply Keeps.bic (P := P) | apply Keeps.bound (P := P)) | intro _)

theorem rejoinScope_keeps {P : Nat → Prop} {s0 : State} {p : Nat} {s : State} (h0 : Keeps P s0 s) : Keeps P s0 (rejoinScope p s) := by
  unfold rejoinScope; try dsimp only
  repeat' with_reducible
    (first | assumption | apply tryClear_keeps | apply drivePins_keeps | apply setPart_keeps | (split)
           | (refine Keeps.mk ?_ ?_ ?_ <;> (try dsimp only) <;> first | apply Keeps.pend | apply Keeps.bic (P := P) | apply Keeps.bound (P := P)) | intro _)

theorem execPendantTakeover_keeps {P : Nat → Prop} {s0 u9 : State} {c : CmdCtx} {s : State}  (h9 : execPendantTakeover c s = .next u9) (h0 : Keeps P s0 s)
    : Keeps P s0 u9 := by
  unfold execPendantTakeover at h9; try dsimp only at h9
  cases h9
  repeat' with_reducible
    (first | assumption | apply pairWait_keeps | apply immediate_keeps | apply reply_keeps | apply complete_keeps | apply setPair_keeps
           | apply eachPart_keeps | apply rejoinScope_keeps | apply setPart_keeps | (split)
           | (refine Keeps.mk ?_ ?_ ?_ <;> (try dsimp only) <;> first | apply Keeps.pend | apply Keeps.bic (P := P) | apply Keeps.bound (P := P)) | intro _)

theorem execPendantResync_keeps {P : Nat → Prop} {s0 u9 : State} {c : CmdCtx} {part : Byte} {rsvd : BitVec 24} {s : State}
    (h9 : execPendantResync c part rsvd s = .next u9) (h0 : Keeps P s0 s) : Keeps P s0 u9 := by
  unfold execPendantResync at h9; try dsimp only at h9
  cases h9
  repeat' with_reducible
    (first | assumption | apply pairWait_keeps | apply immediate_keeps | apply reply_keeps | apply busyReply_keeps | apply startAct_keeps
           | apply sendMessage_keeps | apply sendLeaves_keeps | (split)
           | (refine Keeps.mk ?_ ?_ ?_ <;> (try dsimp only) <;> first | apply Keeps.pend | apply Keeps.bic (P := P) | apply Keeps.bound (P := P)) | intro _)

theorem beginDissolve_keeps {P : Nat → Prop} {s0 : State} {c : Option CmdCtx} {s : State} (h0 : Keeps P s0 s) : Keeps P s0 (beginDissolve c s) := by
  unfold beginDissolve; try dsimp only
  repeat' with_reducible
    (first | assumption | (refine Keeps.mk ?_ ?_ ?_ <;> (try dsimp only) <;> first | apply Keeps.pend | apply Keeps.bic (P := P) | apply Keeps.bound (P := P)))

theorem execPendantDissolve_keeps {P : Nat → Prop} {s0 u9 : State} {c : CmdCtx} {s : State}  (h9 : execPendantDissolve c s = .next u9) (h0 : Keeps P s0 s)
    : Keeps P s0 u9 := by
  unfold execPendantDissolve at h9; try dsimp only at h9
  cases h9
  repeat' with_reducible
    (first | assumption | apply pairWait_keeps | apply immediate_keeps | apply reply_keeps | apply sendMessage_keeps | apply beginDissolve_keeps
           | (split) | (refine Keeps.mk ?_ ?_ ?_ <;> (try dsimp only) <;> first | apply Keeps.pend | apply Keeps.bic (P := P) | apply Keeps.bound (P := P))
           | intro _)

theorem execPendantStatus_keeps {P : Nat → Prop} {s0 u9 : State} {c : CmdCtx} {s : State}  (h9 : execPendantStatus c s = .next u9) (h0 : Keeps P s0 s)
    : Keeps P s0 u9 := by
  unfold execPendantStatus at h9; try dsimp only at h9
  cases h9
  repeat' with_reducible
    (first | assumption | apply immediate_keeps | apply reply_keeps | intro _)

end Sys2Proof.Machine
end

