-- ==== Sys2Proof/Laws/KeepsTransports.lean ====
section
/-!
SUPPORT. KeepsTransports.lean: every operation and meaning of Machine/Transports.lean keeps the queue, the BIC and the bounds of
State.Bounded, and, where it stores nothing, every byte of DRAM; one lemma each, stated from any earlier state s0 so that lemmas chain.
-/
namespace Sys2Proof.Machine

theorem advanceHead_keeps {P : Nat → Prop} {s0 : State} {n k : Nat} {s : State} (h0 : Keeps P s0 s) : Keeps P s0 (advanceHead n k s) := by
  unfold advanceHead; try dsimp only
  repeat' with_reducible
    (first | assumption | apply setFn_keeps
           | (refine Keeps.mk ?_ ?_ ?_ <;> (try dsimp only) <;> first | apply Keeps.pend | apply Keeps.bic (P := P) | apply Keeps.bound (P := P)))

theorem fetchPacket_keeps {P : Nat → Prop} {s0 : State} {n : Nat} {slots : List Byte} {s : State} (h0 : Keeps P s0 s) : Keeps P s0 (fetchPacket n slots s) := by
  unfold fetchPacket; try dsimp only
  repeat' with_reducible
    (first | assumption | apply refusePacket_keeps | apply advanceHead_keeps | apply setFn_keeps | apply takePacket_keeps | (split)
           | (refine Keeps.mk ?_ ?_ ?_ <;> (try dsimp only) <;> first | apply Keeps.pend | apply Keeps.bic (P := P) | apply Keeps.bound (P := P)))

theorem armCount_keeps {P : Nat → Prop} {s0 : State} {k id : Nat} {s : State} (h0 : Keeps P s0 s) : Keeps P s0 (armCount k id s) := by
  unfold armCount; try dsimp only
  repeat' with_reducible
    (first | assumption | apply bump_keeps)

theorem takeLink_keeps {P : Nat → Prop} {s0 : State} {k : Nat} {b : List Byte} {s : State} (h0 : Keeps P s0 s) : Keeps P s0 (takeLink k b s) := by
  unfold takeLink; try dsimp only
  repeat' with_reducible
    (first | assumption | apply refusePacket_keeps | apply setLink_keeps | apply emit_keeps | apply takePacket_keeps | (split)
           | (refine Keeps.mk ?_ ?_ ?_ <;> (try dsimp only) <;> first | apply Keeps.pend | apply Keeps.bic (P := P) | apply Keeps.bound (P := P)) | intro _)

theorem drainLink_keeps {P : Nat → Prop} {s0 : State} {k : Nat} {s : State} (h0 : Keeps P s0 s) : Keeps P s0 (drainLink k s) := by
  unfold drainLink; try dsimp only
  repeat' with_reducible
    (first | assumption | apply takeLink_keeps | apply setLink_keeps | (split)
           | (refine Keeps.mk ?_ ?_ ?_ <;> (try dsimp only) <;> first | apply Keeps.pend | apply Keeps.bic (P := P) | apply Keeps.bound (P := P)) | intro _)

theorem drainTurns_keeps {P : Nat → Prop} {s0 : State} {n : Nat} {s : State} (h0 : Keeps P s0 s) : Keeps P s0 (drainTurns n s) := by
  induction n generalizing s with
  | zero => exact h0
  | succ n ih =>
    unfold drainTurns
    split
    · exact ih (drainLink_keeps h0)
    · exact ih (drainLink_keeps h0)
    · exact ih (takeDebug_keeps h0)
    · exact h0

theorem drainSources_keeps {P : Nat → Prop} {s0 : State} {s : State} (h0 : Keeps P s0 s) : Keeps P s0 (drainSources s) := drainTurns_keeps h0

theorem execCommandRingFetch_keeps {P : Nat → Prop} {s0 u9 : State} {fn : Fin 16} {slots : List Byte} {s : State}
    (h9 : execCommandRingFetch fn slots s = .next u9) (h0 : Keeps P s0 s) : Keeps P s0 u9 := by
  unfold execCommandRingFetch at h9; try dsimp only at h9
  cases h9
  repeat' with_reducible
    (first | assumption | apply drainSources_keeps | apply fetchPacket_keeps | apply touchDomain_keeps | (split))

theorem crossControl_keeps {P : Nat → Prop} {s0 u9 : State} {k : Nat} {b : List Byte} {s : State} (h9 : crossControl k b s = some u9) (h0 : Keeps P s0 s) :
    Keeps P s0 u9 := by
  unfold crossControl at h9; dsimp only at h9
  (repeat' split at h9) <;> cases h9
  · exact bump_keeps h0
  · exact dropSync_keeps (emit_keeps (answerRetrain_keeps h0))
-- before commandOnLink_keeps

theorem commandOnLink_keeps {P : Nat → Prop} {s0 : State} {k : Nat} {b : List Byte} {s : State} (h0 : Keeps P s0 s) : Keeps P s0 (commandOnLink k b s) := by
  unfold commandOnLink; dsimp only
  split
  · exact getD_keeps (fun t h => crossControl_keeps h h0) (emit_keeps h0)
  · split
    · exact armCount_keeps h0
    · exact drainSources_keeps (setLink_keeps h0)

theorem spoiltPacket_keeps {P : Nat → Prop} {s0 : State} {k : Nat} {l : List LinkChar} {s : State} (h0 : Keeps P s0 s) : Keeps P s0 (spoiltPacket k l s) := by
  unfold spoiltPacket; try dsimp only
  repeat' with_reducible
    (first | assumption | apply emit_keeps | apply bump_keeps | (split)
           | (refine Keeps.mk ?_ ?_ ?_ <;> (try dsimp only) <;> first | apply Keeps.pend | apply Keeps.bic (P := P) | apply Keeps.bound (P := P)) | intro _)

theorem framedBytes_keeps {P : Nat → Prop} {s0 : State} {k : Nat} {b : List Byte} {s : State} (h0 : Keeps P s0 s) : Keeps P s0 (framedBytes k b s) := by
  unfold framedBytes; try dsimp only
  repeat' with_reducible
    (first | assumption | apply armCount_keeps | apply childPacket_keeps | apply commandOnLink_keeps | (split))

theorem execControlLinkPacket_keeps {P : Nat → Prop} {s0 u9 : State} {link : Fin 8} {frame : LinkFrame} {s : State}
    (h9 : execControlLinkPacket link frame s = .next u9) (h0 : Keeps P s0 s) : Keeps P s0 u9 := by
  unfold execControlLinkPacket at h9; try dsimp only at h9
  cases h9
  repeat' with_reducible
    (first | assumption | apply setLink_keeps | apply spoiltPacket_keeps | apply framedBytes_keeps | apply armCount_keeps | (split)
           | (refine Keeps.mk ?_ ?_ ?_ <;> (try dsimp only) <;> first | apply Keeps.pend | apply Keeps.bic (P := P) | apply Keeps.bound (P := P)) | intro _)

theorem drainRing_keeps {P : Nat → Prop} {s0 : State} {n : Nat} {ev : Bool} {k : Nat} {s : State} (h0 : Keeps P s0 s) : Keeps P s0 (drainRing n ev k s) := by
  induction k generalizing s with
  | zero => exact h0
  | succ k ih =>
    unfold drainRing; dsimp only
    split
    · exact h0
    · split
      · exact ih (writeRing_keeps (setFn_keeps h0))
      · exact h0

theorem settleBacklog_keeps {P : Nat → Prop} {s0 : State} {n rpl evt : Nat} {s : State} (h0 : Keeps P s0 s) : Keeps P s0 (settleBacklog n rpl evt s) := by
  unfold settleBacklog; try dsimp only
  repeat' with_reducible
    (first | assumption | apply setFn_keeps
           | (refine Keeps.mk ?_ ?_ ?_ <;> (try dsimp only) <;> first | apply Keeps.pend | apply Keeps.bic (P := P) | apply Keeps.bound (P := P)))

theorem execBacklogDrain_keeps {P : Nat → Prop} {s0 u9 : State} {fn : Fin 16} {s : State}  (h9 : execBacklogDrain fn s = .next u9) (h0 : Keeps P s0 s)
    : Keeps P s0 u9 := by
  unfold execBacklogDrain at h9; try dsimp only at h9
  cases h9
  repeat' with_reducible
    (first | assumption | apply drainRing_keeps | apply touchDomain_keeps | apply putLostMarker_keeps | apply settleBacklog_keeps | (split))

theorem takeBack_keeps {P : Nat → Prop} {s0 : State} {n : Nat} {ev : Bool} {s : State} (h0 : Keeps P s0 s) : Keeps P s0 (takeBack n ev s) := by
  unfold takeBack; try dsimp only
  repeat' with_reducible
    (first | assumption | apply setFn_keeps | (split)
           | (refine Keeps.mk ?_ ?_ ?_ <;> (try dsimp only) <;> first | apply Keeps.pend | apply Keeps.bic (P := P) | apply Keeps.bound (P := P)) | intro _)

theorem execRingAccessError_keeps {P : Nat → Prop} {s0 u9 : State} {fn : Fin 16} {ring : Ring} {s : State}  (h9 : execRingAccessError fn ring s = .next u9)
 (h0 : Keeps P s0 s) : Keeps P s0 u9 := by
  unfold execRingAccessError at h9; try dsimp only at h9
  cases h9
  repeat' with_reducible
    (first | assumption | apply takeBack_keeps | apply setFn_keeps | (split)
           | (refine Keeps.mk ?_ ?_ ?_ <;> (try dsimp only) <;> first | apply Keeps.pend | apply Keeps.bic (P := P) | apply Keeps.bound (P := P)) | intro _)

end Sys2Proof.Machine
end

