-- ==== Sys2Proof/Laws/KeepsClocktick.lean ====
section
/-!
SUPPORT. KeepsClocktick.lean: every operation and meaning of Machine/Clocktick.lean keeps the queue, the BIC and the bounds of
State.Bounded, and, where it stores nothing, every byte of DRAM; one lemma each, stated from any earlier state s0 so that lemmas chain.
-/
namespace Sys2Proof.Machine

theorem injectInto_keeps {P : Nat → Prop} {s0 : State} {n w v : Nat} {s : State} (h0 : Keeps P s0 s) : Keeps P s0 (injectInto n w v s).2 := by
  unfold injectInto; try dsimp only
  repeat' with_reducible
    (first | assumption | apply setLane_keeps | apply inject_keeps | (split)
           | (refine Keeps.mk ?_ ?_ ?_ <;> (try dsimp only) <;> first | apply Keeps.pend | apply Keeps.bic (P := P) | apply Keeps.bound (P := P)) | intro _)

theorem injectInto_keeps_eq {P : Nat → Prop} {s0 u9 : State} {n w v : Nat} {s : State}  {r0} (h9 : injectInto n w v s = (r0, u9)) (h0 : Keeps P s0 s)
    : Keeps P s0 u9 := by
  have h : Keeps P s0 (injectInto n w v s).2 := injectInto_keeps  h0
  rw [h9] at h; exact h

theorem putBlock_keeps {P : Nat → Prop} {s0 : State} {n : Nat} {b : Block} {s : State} (h0 : Keeps P s0 s) : Keeps P s0 (putBlock n b s) := by
  unfold putBlock; try dsimp only
  repeat' with_reducible
    (first | assumption | apply injectInto_keeps | refine injectInto_keeps_eq (by assumption) ?_ | apply emit_keeps)

theorem sendBlock_keeps {P : Nat → Prop} {s0 : State} {n hdr : Nat} {payload : BitVec 72} {s : State} (h0 : Keeps P s0 s)
    : Keeps P s0 (sendBlock n hdr payload s) := by
  unfold sendBlock; try dsimp only
  repeat' with_reducible
    (first | assumption | apply putBlock_keeps | apply setLane_keeps
           | (refine Keeps.mk ?_ ?_ ?_ <;> (try dsimp only) <;> first | apply Keeps.pend | apply Keeps.bic (P := P) | apply Keeps.bound (P := P)))

theorem sendPattern_keeps {P : Nat → Prop} {s0 : State} {n : Nat} {s : State} (h0 : Keeps P s0 s) : Keeps P s0 (sendPattern n s) := by
  unfold sendPattern; try dsimp only
  repeat' with_reducible
    (first | assumption | apply putBlock_keeps | apply setLane_keeps
           | (refine Keeps.mk ?_ ?_ ?_ <;> (try dsimp only) <;> first | apply Keeps.pend | apply Keeps.bic (P := P) | apply Keeps.bound (P := P)))

theorem logSent_keeps {P : Nat → Prop} {s0 : State} {wire : BitVec 72} {s : State} (h0 : Keeps P s0 s) : Keeps P s0 (logSent wire s) := by
  unfold logSent; try dsimp only
  repeat' with_reducible
    (first | assumption | (split)
           | (refine Keeps.mk ?_ ?_ ?_ <;> (try dsimp only) <;> first | apply Keeps.pend | apply Keeps.bic (P := P) | apply Keeps.bound (P := P)))

theorem sendPendantData_keeps {P : Nat → Prop} {s0 : State} {n ptype : Nat} {content : U64} {s : State} (h0 : Keeps P s0 s)
    : Keeps P s0 (sendPendantData n ptype content s) := by
  unfold sendPendantData; try dsimp only
  repeat' with_reducible
    (first | assumption | apply sendBlock_keeps | apply logSent_keeps | (split)
           | (refine Keeps.mk ?_ ?_ ?_ <;> (try dsimp only) <;> first | apply Keeps.pend | apply Keeps.bic (P := P) | apply Keeps.bound (P := P)))

theorem sendBulk_keeps {P : Nat → Prop} {s0 : State} {n : Nat} {s : State} (h0 : Keeps P s0 s) : Keeps P s0 (sendBulk n s) := by
  unfold sendBulk; try dsimp only
  repeat' with_reducible
    (first | assumption | apply sendPendantData_keeps | (split)
           | (refine Keeps.mk ?_ ?_ ?_ <;> (try dsimp only) <;> first | apply Keeps.pend | apply Keeps.bic (P := P) | apply Keeps.bound (P := P)) | intro _)

theorem sendStamp_keeps {P : Nat → Prop} {s0 : State} {n : Nat} {s : State} (h0 : Keeps P s0 s) : Keeps P s0 (sendStamp n s) := by
  unfold sendStamp; try dsimp only
  repeat' with_reducible
    (first | assumption | apply sendBlock_keeps | apply logSent_keeps
           | (refine Keeps.mk ?_ ?_ ?_ <;> (try dsimp only) <;> first | apply Keeps.pend | apply Keeps.bic (P := P) | apply Keeps.bound (P := P)))

theorem closeInterval_keeps {P : Nat → Prop} {s0 : State} {s : State} (h0 : Keeps P s0 s) : Keeps P s0 (closeInterval s) := by
  unfold closeInterval; try dsimp only
  repeat' with_reducible
    (first | assumption | (refine Keeps.mk ?_ ?_ ?_ <;> (try dsimp only) <;> first | apply Keeps.pend | apply Keeps.bic (P := P) | apply Keeps.bound (P := P))
           | intro _)

theorem sendLowest_keeps {P : Nat → Prop} {s0 : State} {n : Nat} {s : State} (h0 : Keeps P s0 s) : Keeps P s0 (sendLowest n s) := by
  unfold sendLowest; try dsimp only
  repeat' with_reducible
    (first | assumption | apply sendStamp_keeps | apply sendBulk_keeps | apply sendPendantData_keeps | apply closeInterval_keeps | (split)
           | (refine Keeps.mk ?_ ?_ ?_ <;> (try dsimp only) <;> first | apply Keeps.pend | apply Keeps.bic (P := P) | apply Keeps.bound (P := P)) | intro _)

theorem sendPair_keeps {P : Nat → Prop} {s0 : State} {n : Nat} {s : State} (h0 : Keeps P s0 s) : Keeps P s0 (sendPair n s) := by
  unfold sendPair; try dsimp only
  repeat' with_reducible
    (first | assumption | apply sendLowest_keeps | apply sendBulk_keeps | apply sendPendantData_keeps | (split))

theorem queuePacket_keeps {P : Nat → Prop} {s0 : State} {k : Nat} {l : List LinkChar} {s : State} (h0 : Keeps P s0 s) : Keeps P s0 (queuePacket k l s) := by
  unfold queuePacket; try dsimp only
  repeat' with_reducible
    (first | assumption | apply setLink_keeps
           | (refine Keeps.mk ?_ ?_ ?_ <;> (try dsimp only) <;> first | apply Keeps.pend | apply Keeps.bic (P := P) | apply Keeps.bound (P := P)))

theorem queueSequence_keeps {P : Nat → Prop} {s0 : State} {k : Nat} {l : List LinkChar} {s : State} (h0 : Keeps P s0 s) : Keeps P s0 (queueSequence k l s) := by
  unfold queueSequence; try dsimp only
  repeat' with_reducible
    (first | assumption | apply setLink_keeps
           | (refine Keeps.mk ?_ ?_ ?_ <;> (try dsimp only) <;> first | apply Keeps.pend | apply Keeps.bic (P := P) | apply Keeps.bound (P := P)))

theorem queueOutput_keeps {P : Nat → Prop} {s0 : State} {s : State} {o : Output} (h0 : Keeps P s0 s) : Keeps P s0 (queueOutput s o) := by
  unfold queueOutput; try dsimp only
  repeat' with_reducible
    (first | assumption | apply queuePacket_keeps | apply spoiltPacket_keeps | apply queueSequence_keeps | (split)
           | (refine Keeps.mk ?_ ?_ ?_ <;> (try dsimp only) <;> first | apply Keeps.pend | apply Keeps.bic (P := P) | apply Keeps.bound (P := P)) | intro _)

theorem queueOutputs_keeps {P : Nat → Prop} {s0 : State} {s : State} (h0 : Keeps P s0 s) : Keeps P s0 (queueOutputs s) := by
  unfold queueOutputs; try dsimp only
  repeat' with_reducible
    (first | assumption | apply queueOutput_keeps | (apply foldl_keeps <;> (try intro _ _ _))
           | (refine Keeps.mk ?_ ?_ ?_ <;> (try dsimp only) <;> first | apply Keeps.pend | apply Keeps.bic (P := P) | apply Keeps.bound (P := P)))

theorem sendChar_keeps {P : Nat → Prop} {s0 : State} {k : Nat} {s : State} (h0 : Keeps P s0 s) : Keeps P s0 (sendChar k s) := by
  unfold sendChar; try dsimp only
  repeat' with_reducible
    (first | assumption | apply injectInto_keeps | refine injectInto_keeps_eq (by assumption) ?_ | apply emit_keeps | apply setLane_keeps
           | apply setLink_keeps | (split)
           | (refine Keeps.mk ?_ ?_ ?_ <;> (try dsimp only) <;> first | apply Keeps.pend | apply Keeps.bic (P := P) | apply Keeps.bound (P := P)) | intro _)

theorem sendControl_keeps {P : Nat → Prop} {s0 : State} {s : State} {k : Nat} (h0 : Keeps P s0 s) : Keeps P s0 (sendControl s k) := by
  unfold sendControl; try dsimp only
  repeat' with_reducible
    (first | assumption | apply sendChar_keeps | (split))

theorem sendControls_keeps {P : Nat → Prop} {s0 : State} {s : State} (h0 : Keeps P s0 s) : Keeps P s0 (sendControls s) := by
  unfold sendControls; try dsimp only
  repeat' with_reducible
    (first | assumption | apply sendControl_keeps | (apply foldl_keeps <;> (try intro _ _ _)) | (split))

theorem sendLane_keeps {P : Nat → Prop} {s0 : State} {s : State} {n : Nat} (h0 : Keeps P s0 s) : Keeps P s0 (sendLane s n) := by
  unfold sendLane; try dsimp only
  repeat' with_reducible
    (first | assumption | apply setLane_keeps | apply inject_keeps | apply emit_keeps | apply sendBlock_keeps | apply sendPattern_keeps
           | apply sendPair_keeps | (split)
           | (refine Keeps.mk ?_ ?_ ?_ <;> (try dsimp only) <;> first | apply Keeps.pend | apply Keeps.bic (P := P) | apply Keeps.bound (P := P)) | intro _)

theorem sendAll_keeps {P : Nat → Prop} {s0 : State} {s : State} (h0 : Keeps P s0 s) : Keeps P s0 (sendAll s) := by
  unfold sendAll; try dsimp only
  repeat' with_reducible
    (first | assumption | apply sendLane_keeps | (apply foldl_keeps <;> (try intro _ _ _)) | (split))

theorem dueCopies_keeps {P : Nat → Prop} {s0 : State} {s : State} (h0 : Keeps P s0 s) : Keeps P s0 (dueCopies s) := by
  unfold dueCopies; try dsimp only
  repeat' with_reducible
    (first | assumption | apply resolveCopies_keeps | (apply foldl_keeps <;> (try intro _ _ _)) | (split)
           | (refine Keeps.mk ?_ ?_ ?_ <;> (try dsimp only) <;> first | apply Keeps.pend | apply Keeps.bic (P := P) | apply Keeps.bound (P := P)) | intro _)

theorem pruneExchange_keeps {P : Nat → Prop} {s0 : State} {s : State} (h0 : Keeps P s0 s) : Keeps P s0 (pruneExchange s) := by
  unfold pruneExchange; try dsimp only
  repeat' with_reducible
    (first | assumption | (refine Keeps.mk ?_ ?_ ?_ <;> (try dsimp only) <;> first | apply Keeps.pend | apply Keeps.bic (P := P) | apply Keeps.bound (P := P))
           | intro _)

theorem passStep_keeps {P : Nat → Prop} {s0 : State} {s : State} (h0 : Keeps P s0 s) : Keeps P s0 (passStep s) := by
  unfold passStep; try dsimp only
  repeat' with_reducible
    (first | assumption | apply startWaiting_keeps | apply finishWaits_keeps | apply pairStep_keeps | apply linkRaised_keeps
           | apply pruneExchange_keeps | apply sendAll_keeps | apply dueCopies_keeps | apply applyOr_keeps | apply eachPart_keeps
           | apply retestFaultHold_keeps | apply decideDue_keeps | apply applyFixes_keeps | apply sendControls_keeps | apply queueOutputs_keeps
           | apply drainOwn_keeps | apply drainSources_keeps | apply releaseReplies_keeps | apply advanceQueries_keeps | apply restartLane_keeps
           | (apply foldl_keeps <;> (try intro _ _ _)) | (split)
           | (refine Keeps.mk ?_ ?_ ?_ <;> (try dsimp only) <;> first | apply Keeps.pend | apply Keeps.bic (P := P) | apply Keeps.bound (P := P)) | intro _)

end Sys2Proof.Machine
end

