-- ==== Sys2Proof/Laws/KeepsDma.lean ====
section
/-!
SUPPORT. KeepsDma.lean: every operation and meaning of Machine/Dma.lean keeps the queue, the BIC and the bounds of
State.Bounded, and, where it stores nothing, every byte of DRAM; one lemma each, stated from any earlier state s0 so that lemmas chain.
-/
namespace Sys2Proof.Machine

theorem listWait_keeps {P : Nat → Prop} {s0 : State} {c : CmdCtx} {jsid : Nat} {l : List DmaElem} {go : State → State} {s : State}
    (h_go : ∀ x0, Keeps P s0 x0 → Keeps P s0 (go x0)) (h0 : Keeps P s0 s) : Keeps P s0 (listWait c jsid l go s) := by
  unfold listWait; try dsimp only
  repeat' with_reducible
    (first | assumption | apply h_go | (split) | intro _)

theorem execDmaSubmit_keeps {P : Nat → Prop} {s0 u9 : State} {c : CmdCtx} {count jsid : Byte} {rsvd : U16} {utag : U32} {elems : List DmaElem} {extra : Nat}
    {s : State}  (h9 : execDmaSubmit c count jsid rsvd utag elems extra s = .next u9) (h0 : Keeps P s0 s) : Keeps P s0 u9 := by
  unfold execDmaSubmit at h9; try dsimp only at h9
  cases h9
  repeat' with_reducible
    (first | assumption | apply listWait_keeps | apply immediate_keeps | apply reply_keeps | apply enqueue_keeps | (split)
           | (refine Keeps.mk ?_ ?_ ?_ <;> (try dsimp only) <;> first | apply Keeps.pend | apply Keeps.bic (P := P) | apply Keeps.bound (P := P)) | intro _)

theorem execDmaResume_keeps {P : Nat → Prop} {s0 u9 : State} {c : CmdCtx} {eng : Byte} {rsvd : BitVec 24} {lseq : U32} {s : State}
    (h9 : execDmaResume c eng rsvd lseq s = .next u9) (h0 : Keeps P s0 s) : Keeps P s0 u9 := by
  unfold execDmaResume at h9; try dsimp only at h9
  cases h9
  repeat' with_reducible
    (first | assumption | apply immediate_keeps | apply reply_keeps | apply setHead_keeps | apply clearEngine_keeps | (split)
           | (refine Keeps.mk ?_ ?_ ?_ <;> (try dsimp only) <;> first | apply Keeps.pend | apply Keeps.bic (P := P) | apply Keeps.bound (P := P)) | intro _)

theorem endSave_keeps {P : Nat → Prop} {s0 : State} {p code : Nat} {s : State} (h0 : Keeps P s0 s) : Keeps P s0 (endSave p code s) := by
  unfold endSave; try dsimp only
  repeat' with_reducible
    (first | assumption | apply setPart_keeps | apply completeOpt_keeps | apply endCast_keeps | (split)
           | (refine Keeps.mk ?_ ?_ ?_ <;> (try dsimp only) <;> first | apply Keeps.pend | apply Keeps.bic (P := P) | apply Keeps.bound (P := P)) | intro _)

theorem endSwitchSave_keeps {P : Nat → Prop} {s0 : State} {p : Nat} {lost : Bool} {s : State} (h0 : Keeps P s0 s) : Keeps P s0 (endSwitchSave p lost s) := by
  unfold endSwitchSave; try dsimp only
  repeat' with_reducible
    (first | assumption | apply partEvent_keeps | apply phaseEvent_keeps | apply endCast_keeps | apply setPart_keeps | (split)
           | (refine Keeps.mk ?_ ?_ ?_ <;> (try dsimp only) <;> first | apply Keeps.pend | apply Keeps.bic (P := P) | apply Keeps.bound (P := P)) | intro _)

theorem voidShadow_keeps {P : Nat → Prop} {s0 : State} {p : Nat} {s : State} (h0 : Keeps P s0 s) : Keeps P s0 (voidShadow p s) := by
  unfold voidShadow; try dsimp only
  repeat' with_reducible
    (first | assumption | apply setPart_keeps
           | (refine Keeps.mk ?_ ?_ ?_ <;> (try dsimp only) <;> first | apply Keeps.pend | apply Keeps.bic (P := P) | apply Keeps.bound (P := P)) | intro _)

theorem abortKind_keeps {P : Nat → Prop} {s0 : State} {l : DmaList} {s : State} (h0 : Keeps P s0 s) : Keeps P s0 (abortKind l s) := by
  unfold abortKind; try dsimp only
  repeat' with_reducible
    (first | assumption | apply completeOpt_keeps | apply failLoad_keeps | apply failReconfig_keeps | apply endSave_keeps
           | apply voidShadow_keeps | apply endSwitchSave_keeps | apply endRestore_keeps | (split)
           | (refine Keeps.mk ?_ ?_ ?_ <;> (try dsimp only) <;> first | apply Keeps.pend | apply Keeps.bic (P := P) | apply Keeps.bound (P := P)) | intro _)

theorem execDmaAbort_keeps {P : Nat → Prop} {s0 u9 : State} {c : CmdCtx} {eng : Byte} {rsvd : BitVec 24} {lseq : U32} {s : State}
    (h9 : execDmaAbort c eng rsvd lseq s = .next u9) (h0 : Keeps P s0 s) : Keeps P s0 u9 := by
  unfold execDmaAbort at h9; try dsimp only at h9
  cases h9
  repeat' with_reducible
    (first | assumption | apply immediate_keeps | apply reply_keeps | apply abortKind_keeps | apply dropHead_keeps | apply clearEngine_keeps
           | (split) | (refine Keeps.mk ?_ ?_ ?_ <;> (try dsimp only) <;> first | apply Keeps.pend | apply Keeps.bic (P := P) | apply Keeps.bound (P := P))
           | intro _)

theorem execDmaStatus_keeps {P : Nat → Prop} {s0 u9 : State} {c : CmdCtx} {eng : Byte} {rsvd : BitVec 24} {s : State}
    (h9 : execDmaStatus c eng rsvd s = .next u9) (h0 : Keeps P s0 s) : Keeps P s0 u9 := by
  unfold execDmaStatus at h9; try dsimp only at h9
  cases h9
  repeat' with_reducible
    (first | assumption | apply immediate_keeps | apply reply_keeps | (split) | intro _)

theorem runElement_keeps {s0 : State} {eng : Nat} {l : DmaList} {host : List Byte} {s : State} (h0 : Keeps noByte s0 s)
    : Keeps noByte s0 (runElement eng l host s) := by
  unfold runElement; try dsimp only
  repeat' with_reducible
    (first | assumption | apply completeOpt_keeps | apply dropHead_keeps | apply moveElem_keeps | refine moveElem_keeps_eq (by assumption) ?_
           | apply suspendList_keeps | apply finishElement_keeps | apply setHead_keeps | (split)
           | (refine Keeps.mk ?_ ?_ ?_ <;> (try dsimp only) <;> first | apply Keeps.queue | apply Keeps.bic (P := noByte) | apply Keeps.bound (P := noByte)) | intro _)

theorem readImage_keeps {P : Nat → Prop} {s0 : State} {l : DmaList} {s : State} (h0 : Keeps P s0 s) : Keeps P s0 (readImage l s).2.2 := by
  unfold readImage; try dsimp only
  repeat' with_reducible
    (first | assumption | apply readJob_keeps | refine readJob_keeps_eq (by assumption) ?_)

theorem readImage_keeps_eq {P : Nat → Prop} {s0 u9 : State} {l : DmaList} {s : State}  {r0 r1} (h9 : readImage l s = (r0, r1, u9)) (h0 : Keeps P s0 s)
    : Keeps P s0 u9 := by
  have h : Keeps P s0 (readImage l s).2.2 := readImage_keeps  h0
  rw [h9] at h; exact h

theorem loadElement_keeps {P : Nat → Prop} {s0 : State} {eng : Nat} {l : DmaList} {s : State} (h0 : Keeps P s0 s) : Keeps P s0 (loadElement eng l s) := by
  unfold loadElement; try dsimp only
  repeat' with_reducible
    (first | assumption | apply readImage_keeps | refine readImage_keeps_eq (by assumption) ?_ | apply setHead_keeps | (split)
           | (refine Keeps.mk ?_ ?_ ?_ <;> (try dsimp only) <;> first | apply Keeps.pend | apply Keeps.bic (P := P) | apply Keeps.bound (P := P)) | intro _)

theorem imageReadFault_keeps {P : Nat → Prop} {s0 : State} {eng : Nat} {l : DmaList} {f : XferFault} {s : State} (h0 : Keeps P s0 s)
    : Keeps P s0 (imageReadFault eng l f s) := by
  unfold imageReadFault; try dsimp only
  repeat' with_reducible
    (first | assumption | apply abortKind_keeps | apply dropHead_keeps | apply recordFault_keeps | apply suspendList_keeps | (split)
           | (refine Keeps.mk ?_ ?_ ?_ <;> (try dsimp only) <;> first | apply Keeps.pend | apply Keeps.bic (P := P) | apply Keeps.bound (P := P)) | intro _)

theorem regionElement_keeps {P : Nat → Prop} {s0 : State} {eng p : Nat} {l : DmaList} {s : State} (h0 : Keeps P s0 s)
    : Keeps P s0 (regionElement eng p l s) := by
  unfold regionElement; try dsimp only
  repeat' with_reducible
    (first | assumption | apply readImage_keeps | refine readImage_keeps_eq (by assumption) ?_ | apply imageReadFault_keeps
           | apply takePartial_keeps | apply dropHead_keeps | (split)
           | (refine Keeps.mk ?_ ?_ ?_ <;> (try dsimp only) <;> first | apply Keeps.pend | apply Keeps.bic (P := P) | apply Keeps.bound (P := P)) | intro _)

theorem poisonWords_keeps {P : Nat → Prop} {s0 : State} {v : Access} {dst : Nat} {bad : List Nat} {s : State} (h0 : Keeps P s0 s)
    : Keeps P s0 (poisonWords v dst bad s) := by
  unfold poisonWords; try dsimp only
  repeat' with_reducible
    (first | assumption | apply poisonLine_keeps | (apply foldl_keeps <;> (try intro _ _ _)) | (split)
           | (refine Keeps.mk ?_ ?_ ?_ <;> (try dsimp only) <;> first | apply Keeps.pend | apply Keeps.bic (P := P) | apply Keeps.bound (P := P)) | intro _)

theorem endRuns_keeps {P : Nat → Prop} {s0 : State} {eng p : Nat} {l : DmaList} {r : CastRec} {runs : List (Nat × Nat)} {s : State} (h0 : Keeps P s0 s)
    : Keeps P s0 (endRuns eng p l r runs s) := by
  unfold endRuns; try dsimp only
  repeat' with_reducible
    (first | assumption | apply dropHead_keeps | apply poisonWords_keeps | apply setPart_keeps | apply endSwitchSave_keeps | apply endSave_keeps
           | (split) | (refine Keeps.mk ?_ ?_ ?_ <;> (try dsimp only) <;> first | apply Keeps.pend | apply Keeps.bic (P := P) | apply Keeps.bound (P := P))
           | intro _)

theorem writeRuns_keeps {s0 : State} {w : Access} {dst : Nat} {r : CastRec} {l : List (Nat × Nat)} {s : State} (h0 : Keeps noByte s0 s) :
    Keeps noByte s0 (writeRuns w dst r l s).2 := by
  induction l generalizing s with
  | nil => exact h0
  | cons e l ih =>
    unfold writeRuns
    split
    · exact writeJob_keeps_eq ‹_› h0
    · exact ih (writeJob_keeps_eq ‹_› h0)

theorem writeRuns_keeps_eq {s0 u9 : State} {w : Access} {dst : Nat} {r : CastRec} {l : List (Nat × Nat)} {s : State} {r0}
    (h9 : writeRuns w dst r l s = (r0, u9)) (h0 : Keeps noByte s0 s) : Keeps noByte s0 u9 := by
  have h : Keeps noByte s0 (writeRuns w dst r l s).2 := writeRuns_keeps h0
  rw [h9] at h; exact h

theorem saveElement_keeps {s0 : State} {eng p : Nat} {l : DmaList} {s : State} (h0 : Keeps noByte s0 s) : Keeps noByte s0 (saveElement eng p l s) := by
  unfold saveElement
  split
  · exact dropHead_keeps h0
  · split <;> rename_i hq
    · exact suspendList_keeps (writeRuns_keeps_eq hq h0)
    · exact endRuns_keeps (writeRuns_keeps_eq hq h0)

theorem elementDone_keeps {s0 : State} {eng : Nat} {l : DmaList} {host : List Byte} {s : State} (h0 : Keeps noByte s0 s)
    : Keeps noByte s0 (elementDone eng l host s) := by
  unfold elementDone; try dsimp only
  repeat' with_reducible
    (first | assumption | apply runElement_keeps | apply loadElement_keeps | apply regionElement_keeps | apply saveElement_keeps | (split)
           | (refine Keeps.mk ?_ ?_ ?_ <;> (try dsimp only) <;> first | apply Keeps.queue | apply Keeps.bic (P := noByte) | apply Keeps.bound (P := noByte)) | intro _)

theorem execDmaElementComplete_keeps {s0 u9 : State} {eng : Fin 16} {hostData : List Byte} {s : State}
    (h9 : execDmaElementComplete eng hostData s = .next u9) (h0 : Keeps noByte s0 s) : Keeps noByte s0 u9 := by
  unfold execDmaElementComplete at h9; try dsimp only at h9
  cases h9
  repeat' with_reducible
    (first | assumption | apply elementDone_keeps | (split)
           | (refine Keeps.mk ?_ ?_ ?_ <;> (try dsimp only) <;> first | apply Keeps.queue | apply Keeps.bic (P := noByte) | apply Keeps.bound (P := noByte)) | intro _)

theorem faultElement_keeps {s0 : State} {eng : Nat} {l : DmaList} {host : List Byte} {hostError : Bool} {s : State} (h0 : Keeps noByte s0 s)
    : Keeps noByte s0 (faultElement eng l host hostError s) := by
  unfold faultElement; try dsimp only
  repeat' with_reducible
    (first | assumption | apply moveElem_keeps | refine moveElem_keeps_eq (by assumption) ?_ | apply suspendList_keeps | (split)
           | (refine Keeps.mk ?_ ?_ ?_ <;> (try dsimp only) <;> first | apply Keeps.queue | apply Keeps.bic (P := noByte) | apply Keeps.bound (P := noByte)) | intro _)

theorem elementFault_keeps {s0 : State} {eng : Nat} {l : DmaList} {host : List Byte} {hostError : Bool} {s : State} (h0 : Keeps noByte s0 s)
    : Keeps noByte s0 (elementFault eng l host hostError s) := by
  unfold elementFault
  split
  · exact faultElement_keeps h0
  · split
    · exact imageReadFault_keeps (readImage_keeps_eq ‹_› h0)
    · exact h0
  · split
    · exact imageReadFault_keeps (readImage_keeps_eq ‹_› h0)
    · exact h0
  · split
    · exact imageReadFault_keeps (readImage_keeps_eq ‹_› h0)
    · exact h0
  · split
    · exact h0
    · split
      · exact suspendList_keeps (writeRuns_keeps_eq ‹_› h0)
      · exact h0
  · split
    · exact h0
    · split
      · exact suspendList_keeps (writeRuns_keeps_eq ‹_› h0)
      · exact h0

theorem execDmaElementFault_keeps {s0 u9 : State} {eng : Fin 16} {hostData : List Byte} {hostError : Bool} {s : State}
    (h9 : execDmaElementFault eng hostData hostError s = .next u9) (h0 : Keeps noByte s0 s) : Keeps noByte s0 u9 := by
  unfold execDmaElementFault at h9; try dsimp only at h9
  cases h9
  repeat' with_reducible
    (first | assumption | apply elementFault_keeps | (split)
           | (refine Keeps.mk ?_ ?_ ?_ <;> (try dsimp only) <;> first | apply Keeps.queue | apply Keeps.bic (P := noByte) | apply Keeps.bound (P := noByte)) | intro _)

theorem execPcieCompletionTimeout_keeps {s0 u9 : State} {eng : Fin 16} {s : State}  (h9 : execPcieCompletionTimeout eng s = .next u9) (h0
    : Keeps noByte s0 s) : Keeps noByte s0 u9 := by
  unfold execPcieCompletionTimeout at h9; try dsimp only at h9
  cases h9
  repeat' with_reducible
    (first | assumption | apply faultElement_keeps | (split)
           | (refine Keeps.mk ?_ ?_ ?_ <;> (try dsimp only) <;> first | apply Keeps.queue | apply Keeps.bic (P := noByte) | apply Keeps.bound (P := noByte)) | intro _)

end Sys2Proof.Machine
end

