-- ==== Sys2Proof/Laws/KeepsHost.lean ====
section
/-!
SUPPORT. KeepsHost.lean: every operation and meaning of Machine/Host.lean keeps the queue, the BIC and the bounds of
State.Bounded, and, where it stores nothing, every byte of DRAM; one lemma each, stated from any earlier state s0 so that lemmas chain.
-/
namespace Sys2Proof.Machine

theorem hostAccess_keeps {P : Nat → Prop} {s0 : State} {n : Nat} {body : State → State} {s : State} (h_body : ∀ x0, Keeps P s0 x0 → Keeps P s0 (body x0)) (h0
    : Keeps P s0 s) : Keeps P s0 (hostAccess n body s) := by
  unfold hostAccess; try dsimp only
  repeat' with_reducible
    (first | assumption | apply h_body | apply touchDomain_keeps | (split))

theorem badDoorbell_keeps {P : Nat → Prop} {s0 : State} {n reg : Nat} {value : U32} {s : State} (h0 : Keeps P s0 s)
    : Keeps P s0 (badDoorbell n reg value s) := by
  unfold badDoorbell; try dsimp only
  repeat' with_reducible
    (first | assumption | apply postEvent_keeps)

theorem writeCmdDb_keeps {P : Nat → Prop} {s0 : State} {n : Nat} {value : U32} {s : State} (h0 : Keeps P s0 s) : Keeps P s0 (writeCmdDb n value s) := by
  unfold writeCmdDb; try dsimp only
  repeat' with_reducible
    (first | assumption | apply badDoorbell_keeps | apply setFn_keeps | (split)
           | (refine Keeps.mk ?_ ?_ ?_ <;> (try dsimp only) <;> first | apply Keeps.pend | apply Keeps.bic (P := P) | apply Keeps.bound (P := P)))

theorem writeHead_keeps {P : Nat → Prop} {s0 : State} {n : Nat} {ev : Bool} {value : U32} {s : State} (h0 : Keeps P s0 s)
    : Keeps P s0 (writeHead n ev value s) := by
  unfold writeHead; try dsimp only
  repeat' with_reducible
    (first | assumption | apply setFn_keeps | apply badDoorbell_keeps | (split)
           | (refine Keeps.mk ?_ ?_ ?_ <;> (try dsimp only) <;> first | apply Keeps.pend | apply Keeps.bic (P := P) | apply Keeps.bound (P := P)))

theorem writeEnable_keeps {P : Nat → Prop} {s0 : State} {n : Nat} {enable : Bool} {s : State} (h0 : Keeps P s0 s) : Keeps P s0 (writeEnable n enable s) := by
  unfold writeEnable; try dsimp only
  repeat' with_reducible
    (first | assumption | apply setFn_keeps | (split)
           | (refine Keeps.mk ?_ ?_ ?_ <;> (try dsimp only) <;> first | apply Keeps.pend | apply Keeps.bic (P := P) | apply Keeps.bound (P := P)))

theorem writeQreset_keeps {P : Nat → Prop} {s0 : State} {n : Nat} {s : State} (h0 : Keeps P s0 s) : Keeps P s0 (writeQreset n s) := by
  unfold writeQreset; try dsimp only
  repeat' with_reducible
    (first | assumption | apply setFn_keeps | (split)
           | (refine Keeps.mk ?_ ?_ ?_ <;> (try dsimp only) <;> first | apply Keeps.pend | apply Keeps.bic (P := P) | apply Keeps.bound (P := P)))

theorem execCmdDbWrite_keeps {P : Nat → Prop} {s0 u9 : State} {fn : Fin 16} {value : U32} {s : State}  (h9 : execCmdDbWrite fn value s = .next u9) (h0
    : Keeps P s0 s) : Keeps P s0 u9 := by
  unfold execCmdDbWrite at h9; try dsimp only at h9
  cases h9
  repeat' with_reducible
    (first | assumption | apply hostAccess_keeps | apply writeCmdDb_keeps | intro _)

theorem execRplHeadWrite_keeps {P : Nat → Prop} {s0 u9 : State} {fn : Fin 16} {value : U32} {s : State}  (h9 : execRplHeadWrite fn value s = .next u9) (h0
    : Keeps P s0 s) : Keeps P s0 u9 := by
  unfold execRplHeadWrite at h9; try dsimp only at h9
  cases h9
  repeat' with_reducible
    (first | assumption | apply hostAccess_keeps | apply writeHead_keeps | intro _)

theorem execEvtHeadWrite_keeps {P : Nat → Prop} {s0 u9 : State} {fn : Fin 16} {value : U32} {s : State}  (h9 : execEvtHeadWrite fn value s = .next u9) (h0
    : Keeps P s0 s) : Keeps P s0 u9 := by
  unfold execEvtHeadWrite at h9; try dsimp only at h9
  cases h9
  repeat' with_reducible
    (first | assumption | apply hostAccess_keeps | apply writeHead_keeps | intro _)

theorem execCtrlEnableWrite_keeps {P : Nat → Prop} {s0 u9 : State} {fn : Fin 16} {enable : Bool} {s : State}
    (h9 : execCtrlEnableWrite fn enable s = .next u9) (h0 : Keeps P s0 s) : Keeps P s0 u9 := by
  unfold execCtrlEnableWrite at h9; try dsimp only at h9
  cases h9
  repeat' with_reducible
    (first | assumption | apply hostAccess_keeps | apply writeEnable_keeps | intro _)

theorem execCtrlQreset_keeps {P : Nat → Prop} {s0 u9 : State} {fn : Fin 16} {s : State}  (h9 : execCtrlQreset fn s = .next u9) (h0 : Keeps P s0 s)
    : Keeps P s0 u9 := by
  unfold execCtrlQreset at h9; try dsimp only at h9
  cases h9
  repeat' with_reducible
    (first | assumption | apply hostAccess_keeps | apply writeQreset_keeps | intro _)

theorem writeIntStatus_keeps {P : Nat → Prop} {s0 : State} {n : Nat} {value : U32} {s : State} (h0 : Keeps P s0 s) : Keeps P s0 (writeIntStatus n value s) := by
  unfold writeIntStatus; try dsimp only
  repeat' with_reducible
    (first | assumption | apply setFn_keeps
           | (refine Keeps.mk ?_ ?_ ?_ <;> (try dsimp only) <;> first | apply Keeps.pend | apply Keeps.bic (P := P) | apply Keeps.bound (P := P)))

theorem writeIntMask_keeps {P : Nat → Prop} {s0 : State} {n : Nat} {value : U32} {s : State} (h0 : Keeps P s0 s) : Keeps P s0 (writeIntMask n value s) := by
  unfold writeIntMask; try dsimp only
  repeat' with_reducible
    (first | assumption | apply armVector_keeps | apply setFn_keeps | (apply foldl_keeps <;> (try intro _ _ _))
           | (refine Keeps.mk ?_ ?_ ?_ <;> (try dsimp only) <;> first | apply Keeps.pend | apply Keeps.bic (P := P) | apply Keeps.bound (P := P)) | intro _)

theorem execIntStatusClear_keeps {P : Nat → Prop} {s0 u9 : State} {fn : Fin 16} {value : U32} {s : State}  (h9 : execIntStatusClear fn value s = .next u9)
 (h0 : Keeps P s0 s) : Keeps P s0 u9 := by
  unfold execIntStatusClear at h9; try dsimp only at h9
  cases h9
  repeat' with_reducible
    (first | assumption | apply hostAccess_keeps | apply writeIntStatus_keeps | intro _)

theorem execIntMaskWrite_keeps {P : Nat → Prop} {s0 u9 : State} {fn : Fin 16} {value : U32} {s : State}  (h9 : execIntMaskWrite fn value s = .next u9) (h0
    : Keeps P s0 s) : Keeps P s0 u9 := by
  unfold execIntMaskWrite at h9; try dsimp only at h9
  cases h9
  repeat' with_reducible
    (first | assumption | apply hostAccess_keeps | apply writeIntMask_keeps | intro _)

theorem execIntModDelayExpiry_keeps {P : Nat → Prop} {s0 u9 : State} {fn : Fin 16} {vector : Fin 4} {s : State}
    (h9 : execIntModDelayExpiry fn vector s = .next u9) (h0 : Keeps P s0 s) : Keeps P s0 u9 := by
  unfold execIntModDelayExpiry at h9; try dsimp only at h9
  cases h9
  repeat' with_reducible
    (first | assumption | apply sendVector_keeps | (split))

theorem sendPending_keeps {P : Nat → Prop} {s0 : State} {n v : Nat} {s : State} (h0 : Keeps P s0 s) : Keeps P s0 (sendPending n v s) := by
  unfold sendPending; try dsimp only
  repeat' with_reducible
    (first | assumption | apply setFn_keeps | apply emit_keeps | (split)
           | (refine Keeps.mk ?_ ?_ ?_ <;> (try dsimp only) <;> first | apply Keeps.pend | apply Keeps.bic (P := P) | apply Keeps.bound (P := P)))

theorem execMsixVectorUnmask_keeps {P : Nat → Prop} {s0 u9 : State} {fn : Fin 16} {vector : Fin 4} {s : State}
    (h9 : execMsixVectorUnmask fn vector s = .next u9) (h0 : Keeps P s0 s) : Keeps P s0 u9 := by
  unfold execMsixVectorUnmask at h9; try dsimp only at h9
  cases h9
  repeat' with_reducible
    (first | assumption | apply hostAccess_keeps | apply sendPending_keeps | apply setFn_keeps | (split)
           | (refine Keeps.mk ?_ ?_ ?_ <;> (try dsimp only) <;> first | apply Keeps.pend | apply Keeps.bic (P := P) | apply Keeps.bound (P := P)) | intro _)

theorem execFrameLoRead_keeps {P : Nat → Prop} {s0 u9 : State} {fn : Fin 16} {s : State}  (h9 : execFrameLoRead fn s = .next u9) (h0 : Keeps P s0 s)
    : Keeps P s0 u9 := by
  unfold execFrameLoRead at h9; try dsimp only at h9
  cases h9
  repeat' with_reducible
    (first | assumption | apply hostAccess_keeps | apply setFn_keeps | apply emit_keeps | (split)
           | (refine Keeps.mk ?_ ?_ ?_ <;> (try dsimp only) <;> first | apply Keeps.pend | apply Keeps.bic (P := P) | apply Keeps.bound (P := P)) | intro _)

theorem execCountLoRead_keeps {P : Nat → Prop} {s0 u9 : State} {fn : Fin 16} {s : State}  (h9 : execCountLoRead fn s = .next u9) (h0 : Keeps P s0 s)
    : Keeps P s0 u9 := by
  unfold execCountLoRead at h9; try dsimp only at h9
  cases h9
  repeat' with_reducible
    (first | assumption | apply hostAccess_keeps | apply setFn_keeps | apply emit_keeps
           | (refine Keeps.mk ?_ ?_ ?_ <;> (try dsimp only) <;> first | apply Keeps.pend | apply Keeps.bic (P := P) | apply Keeps.bound (P := P)) | intro _)

theorem writeDevStatus_keeps {P : Nat → Prop} {s0 : State} {value : U32} {s : State} (h0 : Keeps P s0 s) : Keeps P s0 (writeDevStatus value s) := by
  unfold writeDevStatus; try dsimp only
  repeat' with_reducible
    (first | assumption | apply noteDev_keeps | (split)
           | (refine Keeps.mk ?_ ?_ ?_ <;> (try dsimp only) <;> first | apply Keeps.pend | apply Keeps.bic (P := P) | apply Keeps.bound (P := P)))

theorem writeDbgPolicy_keeps {P : Nat → Prop} {s0 : State} {value : U32} {s : State} (h0 : Keeps P s0 s) : Keeps P s0 (writeDbgPolicy value s) := by
  unfold writeDbgPolicy; try dsimp only
  repeat' with_reducible
    (first | assumption | (split)
           | (refine Keeps.mk ?_ ?_ ?_ <;> (try dsimp only) <;> first | apply Keeps.pend | apply Keeps.bic (P := P) | apply Keeps.bound (P := P)))

theorem execSecalarmClear_keeps {P : Nat → Prop} {s0 u9 : State} {value : U32} {s : State}  (h9 : execSecalarmClear value s = .next u9) (h0 : Keeps P s0 s)
    : Keeps P s0 u9 := by
  unfold execSecalarmClear at h9; try dsimp only at h9
  cases h9
  repeat' with_reducible
    (first | assumption | apply hostAccess_keeps | apply writeDevStatus_keeps | intro _)

theorem execDbgPolicyWrite_keeps {P : Nat → Prop} {s0 u9 : State} {value : U32} {s : State}  (h9 : execDbgPolicyWrite value s = .next u9) (h0 : Keeps P s0 s)
    : Keeps P s0 u9 := by
  unfold execDbgPolicyWrite at h9; try dsimp only at h9
  cases h9
  repeat' with_reducible
    (first | assumption | apply hostAccess_keeps | apply writeDbgPolicy_keeps | intro _)

theorem writeDevice_keeps {P : Nat → Prop} {s0 : State} {offset : Nat} {value : U32} {s : State} (h0 : Keeps P s0 s)
    : Keeps P s0 (writeDevice offset value s) := by
  unfold writeDevice; try dsimp only
  repeat' with_reducible
    (first | assumption | apply writeDevStatus_keeps | apply writeDbgPolicy_keeps | (split)
           | (refine Keeps.mk ?_ ?_ ?_ <;> (try dsimp only) <;> first | apply Keeps.pend | apply Keeps.bic (P := P) | apply Keeps.bound (P := P)))

theorem writeCtrl_keeps {P : Nat → Prop} {s0 : State} {n : Nat} {v : U32} {s : State} (h0 : Keeps P s0 s) : Keeps P s0 (writeCtrl n v s) := by
  unfold writeCtrl; try dsimp only
  repeat' with_reducible
    (first | assumption | apply writeEnable_keeps | apply writeQreset_keeps | (split))

theorem writeFunction_keeps {P : Nat → Prop} {s0 : State} {n offset : Nat} {v : U32} {s : State} (h0 : Keeps P s0 s)
    : Keeps P s0 (writeFunction n offset v s) := by
  unfold writeFunction; try dsimp only
  repeat' with_reducible
    (first | assumption | apply writeCtrl_keeps | apply writeCmdDb_keeps | apply writeHead_keeps | apply writeIntStatus_keeps
           | apply writeIntMask_keeps | apply setFn_keeps | (split))

theorem execRegisterWrite_keeps {P : Nat → Prop} {s0 u9 : State} {fn : Fin 16} {devicePage : Bool} {offset : U16} {value : U32} {byteEnables : BitVec 4}
    {s : State}  (h9 : execRegisterWrite fn devicePage offset value byteEnables s = .next u9) (h0 : Keeps P s0 s) : Keeps P s0 u9 := by
  unfold execRegisterWrite at h9; try dsimp only at h9
  cases h9
  repeat' with_reducible
    (first | assumption | apply hostAccess_keeps | apply writeDevice_keeps | apply writeFunction_keeps | (split) | intro _)

theorem abortHostLists_keeps {P : Nat → Prop} {s0 : State} {js : Nat} {s : State} (h0 : Keeps P s0 s) : Keeps P s0 (abortHostLists js s) := by
  unfold abortHostLists; try dsimp only
  repeat' with_reducible
    (first | assumption | apply clearFaults_keeps | apply abortKind_keeps | apply setLists_keeps | (apply foldl_keeps <;> (try intro _ _ _))
           | (split) | intro _)

theorem resetFn_keeps {P : Nat → Prop} {s0 : State} {n : Nat} {s : State} (h0 : Keeps P s0 s) : Keeps P s0 (resetFn n s) := by
  unfold resetFn; try dsimp only
  repeat' with_reducible
    (first | assumption | apply abortHostLists_keeps | apply setFn_keeps
           | (refine Keeps.mk ?_ ?_ ?_ <;> (try dsimp only) <;> first | apply Keeps.pend | apply Keeps.bic (P := P) | apply Keeps.bound (P := P)))

theorem execFlrVf_keeps {P : Nat → Prop} {s0 u9 : State} {fn : Fin 16} {s : State}  (h9 : execFlrVf fn s = .next u9) (h0 : Keeps P s0 s) : Keeps P s0 u9 := by
  unfold execFlrVf at h9; try dsimp only at h9
  cases h9
  repeat' with_reducible
    (first | assumption | apply resetFn_keeps | (split))

theorem resetVfs_keeps {P : Nat → Prop} {s0 : State} {s : State} (h0 : Keeps P s0 s) : Keeps P s0 (resetVfs s) := by
  unfold resetVfs; try dsimp only
  repeat' with_reducible
    (first | assumption | apply resetFn_keeps | (apply foldl_keeps <;> (try intro _ _ _)) | intro _)

theorem resetPf_keeps {P : Nat → Prop} {s0 : State} {s : State} (h0 : Keeps P s0 s) : Keeps P s0 (resetPf s) := by
  unfold resetPf; try dsimp only
  repeat' with_reducible
    (first | assumption | apply resetFn_keeps | apply resetVfs_keeps
           | (refine Keeps.mk ?_ ?_ ?_ <;> (try dsimp only) <;> first | apply Keeps.pend | apply Keeps.bic (P := P) | apply Keeps.bound (P := P)))

theorem execFlrPf_keeps {P : Nat → Prop} {s0 u9 : State} {s : State}  (h9 : execFlrPf s = .next u9) (h0 : Keeps P s0 s) : Keeps P s0 u9 := by
  unfold execFlrPf at h9; try dsimp only at h9
  cases h9
  repeat' with_reducible
    (first | assumption | apply resetPf_keeps | (split))

theorem execPcieConventionalReset_keeps {P : Nat → Prop} {s0 u9 : State} {s : State}  (h9 : execPcieConventionalReset s = .next u9) (h0 : Keeps P s0 s)
    : Keeps P s0 u9 := by
  unfold execPcieConventionalReset at h9; try dsimp only at h9
  cases h9
  repeat' with_reducible
    (first | assumption | apply resetPf_keeps | (split))

theorem execD3hotEntry_keeps {P : Nat → Prop} {s0 u9 : State} {fn : Fin 16} {s : State}  (h9 : execD3hotEntry fn s = .next u9) (h0 : Keeps P s0 s)
    : Keeps P s0 u9 := by
  unfold execD3hotEntry at h9; try dsimp only at h9
  cases h9
  repeat' with_reducible
    (first | assumption | apply setFn_keeps | (split)
           | (refine Keeps.mk ?_ ?_ ?_ <;> (try dsimp only) <;> first | apply Keeps.pend | apply Keeps.bic (P := P) | apply Keeps.bound (P := P)))

theorem execD3hotExit_keeps {P : Nat → Prop} {s0 u9 : State} {fn : Fin 16} {s : State}  (h9 : execD3hotExit fn s = .next u9) (h0 : Keeps P s0 s)
    : Keeps P s0 u9 := by
  unfold execD3hotExit at h9; try dsimp only at h9
  cases h9
  repeat' with_reducible
    (first | assumption | apply sendPending_keeps | apply setFn_keeps | (apply foldl_keeps <;> (try intro _ _ _)) | (split)
           | (refine Keeps.mk ?_ ?_ ?_ <;> (try dsimp only) <;> first | apply Keeps.pend | apply Keeps.bic (P := P) | apply Keeps.bound (P := P)) | intro _)

theorem execVfEnableWrite_keeps {P : Nat → Prop} {s0 u9 : State} {enable : Bool} {numVfs : BitVec 8} {s : State}
    (h9 : execVfEnableWrite enable numVfs s = .next u9) (h0 : Keeps P s0 s) : Keeps P s0 u9 := by
  unfold execVfEnableWrite at h9; try dsimp only at h9
  cases h9
  repeat' with_reducible
    (first | assumption | apply resetFn_keeps | (apply foldl_keeps <;> (try intro _ _ _)) | (split)
           | (refine Keeps.mk ?_ ?_ ?_ <;> (try dsimp only) <;> first | apply Keeps.pend | apply Keeps.bic (P := P) | apply Keeps.bound (P := P)) | intro _)

end Sys2Proof.Machine
end

