-- ==== Sys2Proof/Laws/KeepsNoc.lean ====
section
/-!
SUPPORT. KeepsNoc.lean: every operation and meaning of Machine/Noc.lean keeps the queue, the BIC and the bounds of
State.Bounded, and, where it stores nothing, every byte of DRAM; one lemma each, stated from any earlier state s0 so that lemmas chain.
-/
namespace Sys2Proof.Machine

theorem setUsed_keeps {P : Nat → Prop} {s0 : State} {r port vc n : Nat} {s : State} (h0 : Keeps P s0 s) : Keeps P s0 (setUsed r port vc n s) := by
  unfold setUsed; try dsimp only
  repeat' with_reducible
    (first | assumption | (refine Keeps.mk ?_ ?_ ?_ <;> (try dsimp only) <;> first | apply Keeps.pend | apply Keeps.bic (P := P) | apply Keeps.bound (P := P)))

theorem leaveBuffer_keeps {P : Nat → Prop} {s0 : State} {r port : Nat} {h : NocHeader} {s : State} (h0 : Keeps P s0 s)
    : Keeps P s0 (leaveBuffer r port h s) := by
  unfold leaveBuffer; try dsimp only
  repeat' with_reducible
    (first | assumption | apply setUsed_keeps | (split)
           | (refine Keeps.mk ?_ ?_ ?_ <;> (try dsimp only) <;> first | apply Keeps.pend | apply Keeps.bic (P := P) | apply Keeps.bound (P := P)) | intro _)

theorem enterBuffer_keeps {P : Nat → Prop} {s0 : State} {r input port : Nat} {h : NocHeader} {s : State} (h0 : Keeps P s0 s)
    : Keeps P s0 (enterBuffer r input port h s) := by
  unfold enterBuffer; try dsimp only
  repeat' with_reducible
    (first | assumption | apply setUsed_keeps | apply emit_keeps
           | (refine Keeps.mk ?_ ?_ ?_ <;> (try dsimp only) <;> first | apply Keeps.pend | apply Keeps.bic (P := P) | apply Keeps.bound (P := P)))

theorem modCtr_keeps {P : Nat → Prop} {s0 : State} {i : Nat} {f : NocCtr → NocCtr} {s : State} (h0 : Keeps P s0 s) : Keeps P s0 (modCtr i f s) := by
  unfold modCtr; try dsimp only
  repeat' with_reducible
    (first | assumption | (refine Keeps.mk ?_ ?_ ?_ <;> (try dsimp only) <;> first | apply Keeps.pend | apply Keeps.bic (P := P) | apply Keeps.bound (P := P)))

theorem countOut_keeps {P : Nat → Prop} {s0 : State} {i : Option Nat} {h : NocHeader} {s : State} (h0 : Keeps P s0 s) : Keeps P s0 (countOut i h s) := by
  unfold countOut; try dsimp only
  repeat' with_reducible
    (first | assumption | apply modCtr_keeps | (split)
           | (refine Keeps.mk ?_ ?_ ?_ <;> (try dsimp only) <;> first | apply Keeps.pend | apply Keeps.bic (P := P) | apply Keeps.bound (P := P)) | intro _)

theorem countIn_keeps {P : Nat → Prop} {s0 : State} {i : Option Nat} {h : NocHeader} {s : State} (h0 : Keeps P s0 s) : Keeps P s0 (countIn i h s) := by
  unfold countIn; try dsimp only
  repeat' with_reducible
    (first | assumption | apply modCtr_keeps | (split)
           | (refine Keeps.mk ?_ ?_ ?_ <;> (try dsimp only) <;> first | apply Keeps.pend | apply Keeps.bic (P := P) | apply Keeps.bound (P := P)) | intro _)

theorem takeCredit_keeps {P : Nat → Prop} {s0 : State} {h : NocHeader} {s : State} (h0 : Keeps P s0 s) : Keeps P s0 (takeCredit h s) := by
  unfold takeCredit; try dsimp only
  repeat' with_reducible
    (first | assumption | (split)
           | (refine Keeps.mk ?_ ?_ ?_ <;> (try dsimp only) <;> first | apply Keeps.pend | apply Keeps.bic (P := P) | apply Keeps.bound (P := P)))

theorem returnCredit_keeps {P : Nat → Prop} {s0 : State} {h : NocHeader} {s : State} (h0 : Keeps P s0 s) : Keeps P s0 (returnCredit h s) := by
  unfold returnCredit; try dsimp only
  repeat' with_reducible
    (first | assumption | (refine Keeps.mk ?_ ?_ ?_ <;> (try dsimp only) <;> first | apply Keeps.pend | apply Keeps.bic (P := P) | apply Keeps.bound (P := P))
           | intro _)

theorem bindRequest_keeps {P : Nat → Prop} {s0 : State} {h : NocHeader} {s : State} (h0 : Keeps P s0 s) : Keeps P s0 (bindRequest h s) := by
  unfold bindRequest; try dsimp only
  repeat' with_reducible
    (first | assumption | apply eachPart_keeps | apply setPart_keeps | (apply foldl_keeps <;> (try intro _ _ _)) | (split)
           | (refine Keeps.mk ?_ ?_ ?_ <;> (try dsimp only) <;> first | apply Keeps.pend | apply Keeps.bic (P := P) | apply Keeps.bound (P := P)) | intro _)

theorem injectPacket_keeps {P : Nat → Prop} {s0 : State} {h : NocHeader} {s : State} (h0 : Keeps P s0 s) : Keeps P s0 (injectPacket h s) := by
  unfold injectPacket; try dsimp only
  repeat' with_reducible
    (first | assumption | apply countOut_keeps
           | (refine Keeps.mk ?_ ?_ ?_ <;> (try dsimp only) <;> first | apply Keeps.pend | apply Keeps.bic (P := P) | apply Keeps.bound (P := P)))

theorem settleOrphan_keeps {P : Nat → Prop} {s0 : State} {k : Nat} {s : State} (h0 : Keeps P s0 s) : Keeps P s0 (settleOrphan k s) := by
  unfold settleOrphan; try dsimp only
  repeat' with_reducible
    (first | assumption | apply resolveHolds_keeps | (split)
           | (refine Keeps.mk ?_ ?_ ?_ <;> (try dsimp only) <;> first | apply Keeps.pend | apply Keeps.bic (P := P) | apply Keeps.bound (P := P)) | intro _)

theorem unbindTag_keeps {P : Nat → Prop} {s0 : State} {k : Nat} {s : State} (h0 : Keeps P s0 s) : Keeps P s0 (unbindTag k s) := by
  unfold unbindTag; try dsimp only
  repeat' with_reducible
    (first | assumption | apply eachPart_keeps | apply setPart_keeps | (split)
           | (refine Keeps.mk ?_ ?_ ?_ <;> (try dsimp only) <;> first | apply Keeps.pend | apply Keeps.bic (P := P) | apply Keeps.bound (P := P)) | intro _)

theorem freeTag_keeps {P : Nat → Prop} {s0 : State} {k : Nat} {s : State} (h0 : Keeps P s0 s) : Keeps P s0 (freeTag k s) := by
  unfold freeTag; try dsimp only
  repeat' with_reducible
    (first | assumption | apply settleOrphan_keeps | apply unbindTag_keeps
           | (refine Keeps.mk ?_ ?_ ?_ <;> (try dsimp only) <;> first | apply Keeps.pend | apply Keeps.bic (P := P) | apply Keeps.bound (P := P)))

theorem endTransaction_keeps {P : Nat → Prop} {s0 : State} {h : NocHeader} {s : State} (h0 : Keeps P s0 s) : Keeps P s0 (endTransaction h s) := by
  unfold endTransaction; try dsimp only
  repeat' with_reducible
    (first | assumption | apply modCtr_keeps | apply freeTag_keeps | (split)
           | (refine Keeps.mk ?_ ?_ ?_ <;> (try dsimp only) <;> first | apply Keeps.pend | apply Keeps.bic (P := P) | apply Keeps.bound (P := P)) | intro _)

theorem nocAnswer_keeps {P : Nat → Prop} {s0 : State} {h : NocHeader} {s : State} (h0 : Keeps P s0 s) : Keeps P s0 (nocAnswer h s) := by
  unfold nocAnswer; try dsimp only
  repeat' with_reducible
    (first | assumption | apply returnCredit_keeps | apply freeTag_keeps | apply endTransaction_keeps | (split))

theorem dropHeader_keeps {P : Nat → Prop} {s0 : State} {r port : Nat} {h : NocHeader} {s : State} (h0 : Keeps P s0 s) : Keeps P s0 (dropHeader r port h s) := by
  unfold dropHeader; try dsimp only
  repeat' with_reducible
    (first | assumption | apply bump_keeps | apply logRec_keeps | (split))

theorem forwardHeader_keeps {P : Nat → Prop} {s0 : State} {r input : Nat} {h : NocHeader} {cycles : Nat} {s : State} (h0 : Keeps P s0 s)
    : Keeps P s0 (forwardHeader r input h cycles s) := by
  unfold forwardHeader; try dsimp only
  repeat' with_reducible
    (first | assumption | apply modCtr_keeps | apply enterBuffer_keeps | (split)
           | (refine Keeps.mk ?_ ?_ ?_ <;> (try dsimp only) <;> first | apply Keeps.pend | apply Keeps.bic (P := P) | apply Keeps.bound (P := P)) | intro _)

theorem sendPacket_keeps {P : Nat → Prop} {s0 : State} {r : Nat} {h : NocHeader} {s : State} (h0 : Keeps P s0 s) : Keeps P s0 (sendPacket r h s) := by
  unfold sendPacket; try dsimp only
  repeat' with_reducible
    (first | assumption | apply takeCredit_keeps | apply bindRequest_keeps | apply injectPacket_keeps | apply countOut_keeps | (split)
           | (refine Keeps.mk ?_ ?_ ?_ <;> (try dsimp only) <;> first | apply Keeps.pend | apply Keeps.bic (P := P) | apply Keeps.bound (P := P)) | intro _)

theorem execNocHeaderArrival_keeps {P : Nat → Prop} {s0 u9 : State} {router : Fin 36} {input : Fin 11} {header : NocHeader} {cycles : Nat} {s : State}
    (h9 : execNocHeaderArrival router input header cycles s = .next u9) (h0 : Keeps P s0 s) : Keeps P s0 u9 := by
  unfold execNocHeaderArrival at h9; try dsimp only at h9
  cases h9
  repeat' with_reducible
    (first | assumption | apply leaveBuffer_keeps | apply dropHeader_keeps | apply forwardHeader_keeps | apply sendPacket_keeps | (split))

theorem payloadRecord_keeps {P : Nat → Prop} {s0 : State} {cause sev r port : Nat} {h : NocHeader} {s : State} {word : Nat} (h0 : Keeps P s0 s)
    : Keeps P s0 (payloadRecord cause sev r port h s word) := by
  unfold payloadRecord; try dsimp only
  repeat' with_reducible
    (first | assumption | apply logRec_keeps)

theorem checkPayload_keeps {P : Nat → Prop} {s0 : State} {r port : Nat} {h : NocHeader} {words : List (BitVec 72 × CheckOutcome)} {s : State} (h0
    : Keeps P s0 s) : Keeps P s0 (checkPayload r port h words s) := by
  unfold checkPayload; try dsimp only
  repeat' with_reducible
    (first | assumption | apply payloadRecord_keeps | (apply foldl_keeps <;> (try intro _ _ _))
           | (apply foldl_keeps2 <;> (try intro _ _ _) <;> (try dsimp only)) | (apply foldl_keeps3 <;> (try intro _ _ _) <;> (try dsimp only)))

theorem deliverPayload_keeps {P : Nat → Prop} {s0 : State} {r port : Nat} {h : NocHeader} {words : List (BitVec 72)} {s : State} (h0 : Keeps P s0 s)
    : Keeps P s0 (deliverPayload r port h words s) := by
  unfold deliverPayload; try dsimp only
  repeat' with_reducible
    (first | assumption | apply emit_keeps | (split)
           | (refine Keeps.mk ?_ ?_ ?_ <;> (try dsimp only) <;> first | apply Keeps.pend | apply Keeps.bic (P := P) | apply Keeps.bound (P := P)) | intro _)

theorem execNocPacketConsumed_keeps {P : Nat → Prop} {s0 u9 : State} {router : Fin 36} {port : Fin 7} {header : NocHeader} {words : List (BitVec 72 × CheckOutcome)}
    {s : State}  (h9 : execNocPacketConsumed router port header words s = .next u9) (h0 : Keeps P s0 s) : Keeps P s0 u9 := by
  unfold execNocPacketConsumed at h9; try dsimp only at h9
  cases h9
  repeat' with_reducible
    (first | assumption | apply leaveBuffer_keeps | apply dropHeader_keeps | apply checkPayload_keeps | apply deliverPayload_keeps
           | apply countIn_keeps | apply nocAnswer_keeps | (split))

end Sys2Proof.Machine
end

