-- ==== Sys2Proof/Laws/KeepsPairEvents.lean ====
section
/-!
SUPPORT. KeepsPairEvents.lean: every operation and meaning of Machine/PairEvents.lean keeps the queue, the BIC and the bounds of
State.Bounded, and, where it stores nothing, every byte of DRAM; one lemma each, stated from any earlier state s0 so that lemmas chain.
-/
namespace Sys2Proof.Machine

theorem takePeerPair_keeps {P : Nat → Prop} {s0 : State} {w : Nat} {s : State} (h0 : Keeps P s0 s) : Keeps P s0 (takePeerPair w s) := by
  unfold takePeerPair; try dsimp only
  repeat' with_reducible
    (first | assumption | apply sendMessage_keeps | apply tryPair_keeps | (split)
           | (refine Keeps.mk ?_ ?_ ?_ <;> (try dsimp only) <;> first | apply Keeps.pend | apply Keeps.bic (P := P) | apply Keeps.bound (P := P)))

theorem takePages_keeps {s0 : State} {type : Nat} {l : List U64} {s : State} (h0 : Keeps noByte s0 s) : Keeps noByte s0 (takePages type l s) := by
  unfold takePages; dsimp only
  refine foldl_keeps (fun a k h => ?_) h0
  refine ite_keeps (getD_keeps (fun t ht => mapPage_keeps ht h) h) ?_
  split
  · exact unmapPage_keeps h
  · exact h

theorem takeLeaf_keeps {s0 : State} {l : List U64} {s : State} (h0 : Keeps noByte s0 s) : Keeps noByte s0 (takeLeaf l s) :=
  getD_keeps (fun _ ht => mapPage_keeps ht h0) h0

theorem takeLoad_keeps {P : Nat → Prop} {s0 : State} {l : List U64} {s : State} (h0 : Keeps P s0 s) : Keeps P s0 (takeLoad l s) := by
  unfold takeLoad; try dsimp only
  repeat' with_reducible
    (first | assumption | apply enterLoading_keeps | apply enqueue_keeps | (split))

theorem takeEpochs_keeps {P : Nat → Prop} {s0 : State} {l : List U64} {s : State} (h0 : Keeps P s0 s) : Keeps P s0 (takeEpochs l s) := by
  unfold takeEpochs; try dsimp only
  repeat' with_reducible
    (first | assumption | (apply foldl_keeps <;> (try intro _ _ _))
           | (refine Keeps.mk ?_ ?_ ?_ <;> (try dsimp only) <;> first | apply Keeps.pend | apply Keeps.bic (P := P) | apply Keeps.bound (P := P)) | intro _)

theorem takePeerChange_keeps {P : Nat → Prop} {s0 : State} {l : List U64} {s : State} (h0 : Keeps P s0 s) : Keeps P s0 (takePeerChange l s) := by
  unfold takePeerChange; try dsimp only
  repeat' with_reducible
    (first | assumption | apply registerChange_keeps | apply changeNow_keeps | (split)
           | (refine Keeps.mk ?_ ?_ ?_ <;> (try dsimp only) <;> first | apply Keeps.pend | apply Keeps.bic (P := P) | apply Keeps.bound (P := P)) | intro _)

theorem takeJoinInfo_keeps {P : Nat → Prop} {s0 : State} {l : List U64} {s : State} (h0 : Keeps P s0 s) : Keeps P s0 (takeJoinInfo l s) := by
  unfold takeJoinInfo; try dsimp only
  repeat' with_reducible
    (first | assumption | apply completePendant_keeps | apply joinRoles_keeps | (split)
           | (refine Keeps.mk ?_ ?_ ?_ <;> (try dsimp only) <;> first | apply Keeps.pend | apply Keeps.bic (P := P) | apply Keeps.bound (P := P)) | intro _)

theorem takeVerify_keeps {P : Nat → Prop} {s0 : State} {l : List U64} {s : State} (h0 : Keeps P s0 s) : Keeps P s0 (takeVerify l s) := by
  unfold takeVerify; try dsimp only
  repeat' with_reducible
    (first | assumption | apply verifyNewcomer_keeps | apply sendMessage_keeps | (split)
           | (refine Keeps.mk ?_ ?_ ?_ <;> (try dsimp only) <;> first | apply Keeps.pend | apply Keeps.bic (P := P) | apply Keeps.bound (P := P)))

theorem takeReport_keeps {P : Nat → Prop} {s0 : State} {l : List U64} {s : State} (h0 : Keeps P s0 s) : Keeps P s0 (takeReport l s) := by
  unfold takeReport; try dsimp only
  repeat' with_reducible
    (first | assumption | (refine Keeps.mk ?_ ?_ ?_ <;> (try dsimp only) <;> first | apply Keeps.pend | apply Keeps.bic (P := P) | apply Keeps.bound (P := P)))

theorem takePhase_keeps {P : Nat → Prop} {s0 : State} {type : Nat} {s : State} (h0 : Keeps P s0 s) : Keeps P s0 (takePhase type s) := by
  unfold takePhase; try dsimp only
  repeat' with_reducible
    (first | assumption | apply setPair_keeps | apply completePendant_keeps | apply undoJoin_keeps | (split))

theorem takeKeychk_keeps {P : Nat → Prop} {s0 : State} {v : U64} {s : State} (h0 : Keeps P s0 s) : Keeps P s0 (takeKeychk v s) := by
  unfold takeKeychk; try dsimp only
  repeat' with_reducible
    (first | assumption | apply formPair_keeps | apply failPair_keeps | (split))

theorem takeDissolve_keeps {P : Nat → Prop} {s0 : State} {s : State} (h0 : Keeps P s0 s) : Keeps P s0 (takeDissolve s) := by
  unfold takeDissolve; try dsimp only
  repeat' with_reducible
    (first | assumption | apply beginDissolve_keeps | (split))

theorem takeMessage_keeps {s0 : State} {l : List U64} {s : State} (h0 : Keeps noByte s0 s) : Keeps noByte s0 (takeMessage l s) := by
  unfold takeMessage; dsimp only
  repeat' with_reducible (first | exact h0 | apply ite_keeps | apply takePeerPair_keeps | apply endPairing_keeps | apply takeKeychk_keeps | apply takePages_keeps | apply takeLeaf_keeps | apply takeLoad_keeps | apply takeVerify_keeps | apply takeDissolve_keeps | apply takePeerChange_keeps | apply takeJoinInfo_keeps | apply takeReport_keeps | apply takeEpochs_keeps | apply takePhase_keeps | (refine Keeps.mk ?_ ?_ ?_ <;> (try dsimp only) <;> first | apply Keeps.queue | apply Keeps.bic (P := noByte) | apply Keeps.bound (P := noByte)))

theorem takeLine_keeps {s0 : State} {jsid line : Nat} {poisoned : Bool} {words : List U64} {s : State} (h0 : Keeps noByte s0 s)
    : Keeps noByte s0 (takeLine jsid line poisoned words s) := by
  unfold takeLine; try dsimp only
  repeat' with_reducible
    (first | assumption | apply poisonLine_keeps | apply storeLine_keeps | (split) | intro _)

theorem takeWord_keeps {s0 : State} {jsid addr : Nat} {words : List U64} {s : State} (h0 : Keeps noByte s0 s)
    : Keeps noByte s0 (takeWord jsid addr words s) := by
  unfold takeWord; try dsimp only
  repeat' with_reducible
    (first | assumption | apply storeLine_keeps | intro _)

theorem takeUnits_keeps {s0 : State} {addr : U64} {data : List U64} {s : State} (h0 : Keeps noByte s0 s) : Keeps noByte s0 (takeUnits addr data s) := by
  unfold takeUnits; try dsimp only
  repeat' with_reducible
    (first | assumption | apply takeLine_keeps | apply takeWord_keeps | (apply foldl_keeps <;> (try intro _ _ _))
           | (apply foldl_keeps2 <;> (try intro _ _ _) <;> (try dsimp only)) | (apply foldl_keeps3 <;> (try intro _ _ _) <;> (try dsimp only))
           | (split) | (refine Keeps.mk ?_ ?_ ?_ <;> (try dsimp only) <;> first | apply Keeps.queue | apply Keeps.bic (P := noByte) | apply Keeps.bound (P := noByte))
           | intro _)

theorem resend_keeps {P : Nat → Prop} {s0 : State} {sent : Nat} {s : State} (h0 : Keeps P s0 s) : Keeps P s0 (resend sent s) := by
  unfold resend; try dsimp only
  repeat' with_reducible
    (first | assumption | (split)
           | (refine Keeps.mk ?_ ?_ ?_ <;> (try dsimp only) <;> first | apply Keeps.pend | apply Keeps.bic (P := P) | apply Keeps.bound (P := P)) | intro _)

theorem forget_keeps {P : Nat → Prop} {s0 : State} {sent : Nat} {s : State} (h0 : Keeps P s0 s) : Keeps P s0 (forget sent s) := by
  unfold forget; try dsimp only
  repeat' with_reducible
    (first | assumption | (refine Keeps.mk ?_ ?_ ?_ <;> (try dsimp only) <;> first | apply Keeps.pend | apply Keeps.bic (P := P) | apply Keeps.bound (P := P))
           | intro _)

theorem dropSlowLane_keeps {P : Nat → Prop} {s0 : State} {s : State} (h0 : Keeps P s0 s) : Keeps P s0 (dropSlowLane s) := by
  unfold dropSlowLane; try dsimp only
  repeat' with_reducible
    (first | assumption | apply settleLane_keeps | apply setDown_keeps | (split)
           | (refine Keeps.mk ?_ ?_ ?_ <;> (try dsimp only) <;> first | apply Keeps.pend | apply Keeps.bic (P := P) | apply Keeps.bound (P := P)) | intro _)

theorem pairingHb_keeps {P : Nat → Prop} {s0 : State} {lat : Nat} {s : State} (h0 : Keeps P s0 s) : Keeps P s0 (pairingHb lat s) := by
  unfold pairingHb; try dsimp only
  repeat' with_reducible
    (first | assumption | apply failPair_keeps | apply goOnPairing_keeps | apply setPairStep_keeps | (split)
           | (refine Keeps.mk ?_ ?_ ?_ <;> (try dsimp only) <;> first | apply Keeps.pend | apply Keeps.bic (P := P) | apply Keeps.bound (P := P)))

theorem execPendantHb_keeps {P : Nat → Prop} {s0 u9 : State} {payload : U64} {s : State}  (h9 : execPendantHb payload s = .next u9) (h0 : Keeps P s0 s)
    : Keeps P s0 u9 := by
  unfold execPendantHb at h9; try dsimp only at h9
  cases h9
  repeat' with_reducible
    (first | assumption | apply pairingHb_keeps | apply dropSlowLane_keeps | apply forget_keeps | apply resend_keeps | (split)
           | (refine Keeps.mk ?_ ?_ ?_ <;> (try dsimp only) <;> first | apply Keeps.pend | apply Keeps.bic (P := P) | apply Keeps.bound (P := P)))

theorem tagFails_keeps {P : Nat → Prop} {s0 : State} {s : State} (h0 : Keeps P s0 s) : Keeps P s0 (tagFails s) := by
  unfold tagFails; try dsimp only
  repeat' with_reducible
    (first | assumption | apply secEvent_keeps | apply eachPart_keeps | apply setPart_keeps | (split)
           | (refine Keeps.mk ?_ ?_ ?_ <;> (try dsimp only) <;> first | apply Keeps.pend | apply Keeps.bic (P := P) | apply Keeps.bound (P := P)) | intro _)

theorem tagPasses_keeps {s0 : State} {items : List (Nat × List U64)} {s : State} (h0 : Keeps noByte s0 s) : Keeps noByte s0 (tagPasses items s) := by
  unfold tagPasses; try dsimp only
  repeat' with_reducible
    (first | assumption | apply eachPart_keeps | apply setPart_keeps | apply takeMessage_keeps | apply takeUnits_keeps
           | (apply foldl_keeps <;> (try intro _ _ _)) | (apply foldl_keeps2 <;> (try intro _ _ _) <;> (try dsimp only))
           | (apply foldl_keeps3 <;> (try intro _ _ _) <;> (try dsimp only)) | (split)
           | (refine Keeps.mk ?_ ?_ ?_ <;> (try dsimp only) <;> first | apply Keeps.queue | apply Keeps.bic (P := noByte) | apply Keeps.bound (P := noByte)) | intro _)

theorem execPendantTag_keeps {s0 u9 : State} {tag : U64} {s : State}  (h9 : execPendantTag tag s = .next u9) (h0 : Keeps noByte s0 s)
    : Keeps noByte s0 u9 := by
  unfold execPendantTag at h9; try dsimp only at h9
  cases h9
  repeat' with_reducible
    (first | assumption | apply tagPasses_keeps | apply tagFails_keeps | (split)
           | (refine Keeps.mk ?_ ?_ ?_ <;> (try dsimp only) <;> first | apply Keeps.queue | apply Keeps.bic (P := noByte) | apply Keeps.bound (P := noByte)))

theorem execPendantMsg_keeps {s0 u9 : State} {words : List U64} {s : State}  (h9 : execPendantMsg words s = .next u9) (h0 : Keeps noByte s0 s)
    : Keeps noByte s0 u9 := by
  unfold execPendantMsg at h9; try dsimp only at h9
  cases h9
  repeat' with_reducible
    (first | assumption | apply takeMessage_keeps | (split)
           | (refine Keeps.mk ?_ ?_ ?_ <;> (try dsimp only) <;> first | apply Keeps.queue | apply Keeps.bic (P := noByte) | apply Keeps.bound (P := noByte)))

theorem execXaddrXdata_keeps {P : Nat → Prop} {s0 u9 : State} {addr : U64} {data : List U64} {s : State}  (h9 : execXaddrXdata addr data s = .next u9) (h0
    : Keeps P s0 s) : Keeps P s0 u9 := by
  unfold execXaddrXdata at h9; try dsimp only at h9
  cases h9
  repeat' with_reducible
    (first | assumption | (split)
           | (refine Keeps.mk ?_ ?_ ?_ <;> (try dsimp only) <;> first | apply Keeps.pend | apply Keeps.bic (P := P) | apply Keeps.bound (P := P)))

theorem execStampBlock_keeps {P : Nat → Prop} {s0 u9 : State} {_payload : U64} {s : State}  (h9 : execStampBlock _payload s = .next u9) (h0 : Keeps P s0 s)
    : Keeps P s0 u9 := by
  unfold execStampBlock at h9; try dsimp only at h9
  (repeat' split at h9) <;> cases h9 <;> repeat' with_reducible
    (first | exact h0)

theorem derivePair_keeps {P : Nat → Prop} {s0 : State} {side : Bool} {nonce : BitVec 256} {pub : List Byte} {s : State} (h0 : Keeps P s0 s)
    : Keeps P s0 (derivePair side nonce pub s) := by
  unfold derivePair; try dsimp only
  repeat' with_reducible
    (first | assumption | (split)
           | (refine Keeps.mk ?_ ?_ ?_ <;> (try dsimp only) <;> first | apply Keeps.pend | apply Keeps.bic (P := P) | apply Keeps.bound (P := P)) | intro _)

theorem execPairHello_keeps {P : Nat → Prop} {s0 u9 : State} {side : Bool} {bic : U16} {equiv : List U16} {chain : List Byte} {nonce : BitVec 256} {pubKey : List Byte} {signature : BitVec 768}
    {s : State}  (h9 : execPairHello side bic equiv chain nonce pubKey signature s = .next u9) (h0 : Keeps P s0 s) : Keeps P s0 u9 := by
  unfold execPairHello at h9; try dsimp only at h9
  cases h9
  repeat' with_reducible
    (first | assumption | apply failPair_keeps | apply secEvent_keeps | apply noteOverride_keeps | apply derivePair_keeps
           | apply sendKeychk_keeps | apply sendHello_keeps | (split)
           | (refine Keeps.mk ?_ ?_ ?_ <;> (try dsimp only) <;> first | apply Keeps.pend | apply Keeps.bic (P := P) | apply Keeps.bound (P := P)) | intro _)

theorem execPairKeychk_keeps {P : Nat → Prop} {s0 u9 : State} {value : U64} {s : State}  (h9 : execPairKeychk value s = .next u9) (h0 : Keeps P s0 s)
    : Keeps P s0 u9 := by
  unfold execPairKeychk at h9; try dsimp only at h9
  cases h9
  repeat' with_reducible
    (first | assumption | apply takeKeychk_keeps)

theorem execPairPeerTimeout_keeps {P : Nat → Prop} {s0 u9 : State} {s : State}  (h9 : execPairPeerTimeout s = .next u9) (h0 : Keeps P s0 s) : Keeps P s0 u9 := by
  unfold execPairPeerTimeout at h9; try dsimp only at h9
  cases h9
  repeat' with_reducible
    (first | assumption | apply failPair_keeps | (split)
           | (refine Keeps.mk ?_ ?_ ?_ <;> (try dsimp only) <;> first | apply Keeps.pend | apply Keeps.bic (P := P) | apply Keeps.bound (P := P)) | intro _)

theorem loseStandby_keeps {P : Nat → Prop} {s0 : State} {s : State} (h0 : Keeps P s0 s) : Keeps P s0 (loseStandby s) := by
  unfold loseStandby; try dsimp only
  repeat' with_reducible
    (first | assumption | apply failResync_keeps | apply postEvent_keeps | apply completePendant_keeps | apply setPair_keeps | (split)
           | (refine Keeps.mk ?_ ?_ ?_ <;> (try dsimp only) <;> first | apply Keeps.pend | apply Keeps.bic (P := P) | apply Keeps.bound (P := P)) | intro _)

theorem execPeerLost_keeps {P : Nat → Prop} {s0 u9 : State} {s : State}  (h9 : execPeerLost s = .next u9) (h0 : Keeps P s0 s) : Keeps P s0 u9 := by
  unfold execPeerLost at h9; try dsimp only at h9
  cases h9
  repeat' with_reducible
    (first | assumption | apply loseStandby_keeps | apply fenceSelf_keeps | apply undoJoin_keeps | apply losePeer_keeps | (split)
           | (refine Keeps.mk ?_ ?_ ?_ <;> (try dsimp only) <;> first | apply Keeps.pend | apply Keeps.bic (P := P) | apply Keeps.bound (P := P)) | intro _)

theorem execMirrorSend_keeps {P : Nat → Prop} {s0 u9 : State} {s : State}  (h9 : execMirrorSend s = .next u9) (h0 : Keeps P s0 s) : Keeps P s0 u9 := by
  unfold execMirrorSend at h9; try dsimp only at h9
  cases h9
  repeat' with_reducible
    (first | assumption | apply sendUnits_keeps | (split)
           | (refine Keeps.mk ?_ ?_ ?_ <;> (try dsimp only) <;> first | apply Keeps.pend | apply Keeps.bic (P := P) | apply Keeps.bound (P := P)) | intro _)

theorem execCopyComplete_keeps {P : Nat → Prop} {s0 u9 : State} {s : State}  (h9 : execCopyComplete s = .next u9) (h0 : Keeps P s0 s) : Keeps P s0 u9 := by
  unfold execCopyComplete at h9; try dsimp only at h9
  cases h9
  repeat' with_reducible
    (first | assumption | apply sendMessage_keeps | apply setPair_keeps | apply postEvent_keeps | apply beginJoin_keeps | (split)
           | (refine Keeps.mk ?_ ?_ ?_ <;> (try dsimp only) <;> first | apply Keeps.pend | apply Keeps.bic (P := P) | apply Keeps.bound (P := P)) | intro _)

theorem joinPhase_keeps {P : Nat → Prop} {s0 : State} {n : Nat} {s : State} (h0 : Keeps P s0 s) : Keeps P s0 (joinPhase n s) := by
  unfold joinPhase; try dsimp only
  repeat' with_reducible
    (first | assumption | (refine Keeps.mk ?_ ?_ ?_ <;> (try dsimp only) <;> first | apply Keeps.pend | apply Keeps.bic (P := P) | apply Keeps.bound (P := P))
           | intro _)

theorem captureAll_keeps {P : Nat → Prop} {s0 : State} {s : State} (h0 : Keeps P s0 s) : Keeps P s0 (captureAll s) := by
  unfold captureAll; try dsimp only
  repeat' with_reducible
    (first | assumption | apply startAct_keeps | apply castReads_keeps | apply setPart_keeps | (apply foldl_keeps <;> (try intro _ _ _))
           | (refine Keeps.mk ?_ ?_ ?_ <;> (try dsimp only) <;> first | apply Keeps.pend | apply Keeps.bic (P := P) | apply Keeps.bound (P := P)) | intro _)

theorem finishAll_keeps {P : Nat → Prop} {s0 : State} {s : State} (h0 : Keeps P s0 s) : Keeps P s0 (finishAll s) := by
  unfold finishAll; try dsimp only
  repeat' with_reducible
    (first | assumption | apply setPart_keeps | (apply foldl_keeps <;> (try intro _ _ _))
           | (refine Keeps.mk ?_ ?_ ?_ <;> (try dsimp only) <;> first | apply Keeps.pend | apply Keeps.bic (P := P) | apply Keeps.bound (P := P)) | intro _)

theorem sendDigests_keeps {P : Nat → Prop} {s0 : State} {s : State} (h0 : Keeps P s0 s) : Keeps P s0 (sendDigests s) := by
  unfold sendDigests; try dsimp only
  repeat' with_reducible
    (first | assumption | apply sendMessage_keeps | (apply foldl_keeps <;> (try intro _ _ _)) | (split)
           | (refine Keeps.mk ?_ ?_ ?_ <;> (try dsimp only) <;> first | apply Keeps.pend | apply Keeps.bic (P := P) | apply Keeps.bound (P := P)) | intro _)

theorem resumeJoin_keeps {P : Nat → Prop} {s0 : State} {s : State} (h0 : Keeps P s0 s) : Keeps P s0 (resumeJoin s) := by
  unfold resumeJoin; try dsimp only
  repeat' with_reducible
    (first | assumption | apply endAct_keeps | apply joinPhase_keeps | apply rootRestart_keeps | apply markerUp_keeps
           | (apply foldl_keeps <;> (try intro _ _ _)) | (split) | intro _)

theorem execJoinPhaseComplete_keeps {P : Nat → Prop} {s0 u9 : State} {ok : Bool} {s : State}  (h9 : execJoinPhaseComplete ok s = .next u9) (h0
    : Keeps P s0 s) : Keeps P s0 u9 := by
  unfold execJoinPhaseComplete at h9; try dsimp only at h9
  cases h9
  repeat' with_reducible
    (first | assumption | apply failResync_keeps | apply sendMessage_keeps | apply captureAll_keeps | apply joinPhase_keeps
           | apply finishAll_keeps | apply sendJoin_keeps | apply sendDigests_keeps | apply resumeJoin_keeps
           | (apply foldl_keeps <;> (try intro _ _ _)) | (split)
           | (refine Keeps.mk ?_ ?_ ?_ <;> (try dsimp only) <;> first | apply Keeps.pend | apply Keeps.bic (P := P) | apply Keeps.bound (P := P)) | intro _)

theorem execPendantHeartbeatSend_keeps {P : Nat → Prop} {s0 u9 : State} {s : State}  (h9 : execPendantHeartbeatSend s = .next u9) (h0 : Keeps P s0 s)
    : Keeps P s0 u9 := by
  unfold execPendantHeartbeatSend at h9; try dsimp only at h9
  cases h9
  repeat' with_reducible
    (first | assumption | apply sendPendant_keeps | apply sendTag_keeps | apply eachPart_keeps | apply sendIdigest_keeps | apply sendReport_keeps
           | (split) | (refine Keeps.mk ?_ ?_ ?_ <;> (try dsimp only) <;> first | apply Keeps.pend | apply Keeps.bic (P := P) | apply Keeps.bound (P := P))
           | intro _)

end Sys2Proof.Machine
end

