-- ==== Sys2Proof/Laws/KeepsProgress.lean ====
section
/-!
SUPPORT. KeepsProgress.lean: every operation and meaning of Machine/Progress.lean keeps the queue, the BIC and the bounds of
State.Bounded, and, where it stores nothing, every byte of DRAM; one lemma each, stated from any earlier state s0 so that lemmas chain.
-/
namespace Sys2Proof.Machine

theorem setEngine_keeps {P : Nat → Prop} {s0 : State} {pcl n : Nat} {s : State} (h0 : Keeps P s0 s) : Keeps P s0 (setEngine pcl n s) := by
  unfold setEngine; try dsimp only
  repeat' with_reducible
    (first | assumption | (refine Keeps.mk ?_ ?_ ?_ <;> (try dsimp only) <;> first | apply Keeps.pend | apply Keeps.bic (P := P) | apply Keeps.bound (P := P)))

theorem engineHold_keeps {P : Nat → Prop} {s0 : State} {pcl code : Nat} {s : State} (h0 : Keeps P s0 s) : Keeps P s0 (engineHold pcl code s) := by
  unfold engineHold; try dsimp only
  repeat' with_reducible
    (first | assumption | apply raiseHold_keeps | apply logRec_keeps | (split)
           | (refine Keeps.mk ?_ ?_ ?_ <;> (try dsimp only) <;> first | apply Keeps.pend | apply Keeps.bic (P := P) | apply Keeps.bound (P := P)) | intro _)

theorem engineLost_keeps {P : Nat → Prop} {s0 : State} {pcl : Nat} {s : State} (h0 : Keeps P s0 s) : Keeps P s0 (engineLost pcl s) := by
  unfold engineLost; try dsimp only
  repeat' with_reducible
    (first | assumption | apply postEvent_keeps | apply setEngine_keeps | (split))

theorem failEngine_keeps {P : Nat → Prop} {s0 : State} {pcl : Nat} {s : State} (h0 : Keeps P s0 s) : Keeps P s0 (failEngine pcl s) := by
  unfold failEngine; try dsimp only
  repeat' with_reducible
    (first | assumption | apply noteEngine_keeps | apply engineHold_keeps | apply setEngine_keeps | apply engineLost_keeps | (split)
           | (refine Keeps.mk ?_ ?_ ?_ <;> (try dsimp only) <;> first | apply Keeps.pend | apply Keeps.bic (P := P) | apply Keeps.bound (P := P)) | intro _)

theorem execEngineWatchdog_keeps {P : Nat → Prop} {s0 u9 : State} {pcl : Fin 96} {s : State}  (h9 : execEngineWatchdog pcl s = .next u9) (h0 : Keeps P s0 s)
    : Keeps P s0 u9 := by
  unfold execEngineWatchdog at h9; try dsimp only at h9
  cases h9
  repeat' with_reducible
    (first | assumption | apply failEngine_keeps | (split))

theorem execEngineRestarted_keeps {P : Nat → Prop} {s0 u9 : State} {pcl : Fin 96} {digest : BitVec 384} {s : State}
    (h9 : execEngineRestarted pcl digest s = .next u9) (h0 : Keeps P s0 s) : Keeps P s0 u9 := by
  unfold execEngineRestarted at h9; try dsimp only at h9
  cases h9
  repeat' with_reducible
    (first | assumption | apply setEngine_keeps | apply resolveHold_keeps | apply engineLost_keeps | apply extendMr_keeps | (split)
           | (refine Keeps.mk ?_ ?_ ?_ <;> (try dsimp only) <;> first | apply Keeps.pend | apply Keeps.bic (P := P) | apply Keeps.bound (P := P)) | intro _)

theorem dropPause_keeps {P : Nat → Prop} {s0 : State} {p : Nat} {own : PauseOwner → Bool} {s : State} (h0 : Keeps P s0 s) : Keeps P s0 (dropPause p own s) := by
  unfold dropPause; try dsimp only
  repeat' with_reducible
    (first | assumption | apply setPart_keeps | apply markerDown_keeps | apply markerUp_keeps | (apply foldl_keeps <;> (try intro _ _ _))
           | (split) | (refine Keeps.mk ?_ ?_ ?_ <;> (try dsimp only) <;> first | apply Keeps.pend | apply Keeps.bic (P := P) | apply Keeps.bound (P := P))
           | intro _)

theorem dropRequest_keeps {P : Nat → Prop} {s0 : State} {c : CmdCtx} {s : State} (h0 : Keeps P s0 s) : Keeps P s0 (dropRequest c s) := by
  unfold dropRequest; try dsimp only
  repeat' with_reducible
    (first | assumption | apply setBlink_keeps | apply settleLink_keeps | apply restoreLanes_keeps | apply endRequest_keeps | apply endAct_keeps
           | apply setLink_keeps | (apply foldl_keeps <;> (try intro _ _ _)) | (apply foldl_keeps2 <;> (try intro _ _ _) <;> (try dsimp only))
           | (apply foldl_keeps3 <;> (try intro _ _ _) <;> (try dsimp only)) | (split)
           | (refine Keeps.mk ?_ ?_ ?_ <;> (try dsimp only) <;> first | apply Keeps.pend | apply Keeps.bic (P := P) | apply Keeps.bound (P := P)) | intro _)

theorem dropPairing_keeps {P : Nat → Prop} {s0 : State} {c : CmdCtx} {s : State} (h0 : Keeps P s0 s) : Keeps P s0 (dropPairing c s) := by
  unfold dropPairing; try dsimp only
  repeat' with_reducible
    (first | assumption | apply sendMessage_keeps | (split)
           | (refine Keeps.mk ?_ ?_ ?_ <;> (try dsimp only) <;> first | apply Keeps.pend | apply Keeps.bic (P := P) | apply Keeps.bound (P := P)) | intro _)

theorem dropChange_keeps {P : Nat → Prop} {s0 : State} {p : Nat} {own : ModeChange → Bool} {s : State} (h0 : Keeps P s0 s)
    : Keeps P s0 (dropChange p own s) := by
  unfold dropChange; try dsimp only
  repeat' with_reducible
    (first | assumption | apply cancelChange_keeps | (apply foldl_keeps <;> (try intro _ _ _)) | intro _)

theorem dropPendant_keeps {P : Nat → Prop} {s0 : State} {c : CmdCtx} {s : State} (h0 : Keeps P s0 s) : Keeps P s0 (dropPendant c s) := by
  unfold dropPendant; try dsimp only
  repeat' with_reducible
    (first | assumption | apply failResync_keeps | apply sendMessage_keeps | apply eachPart_keeps | apply dropChange_keeps | (split)
           | (refine Keeps.mk ?_ ?_ ?_ <;> (try dsimp only) <;> first | apply Keeps.pend | apply Keeps.bic (P := P) | apply Keeps.bound (P := P)) | intro _)

theorem dropSwitch_keeps {P : Nat → Prop} {s0 : State} {p : Nat} {c : CmdCtx} {s : State} (h0 : Keeps P s0 s) : Keeps P s0 (dropSwitch p c s) := by
  unfold dropSwitch; try dsimp only
  repeat' with_reducible
    (first | assumption | apply endAct_keeps | apply failSwitch_keeps | apply dropPause_keeps | apply failLoad_keeps | apply dropKind_keeps
           | apply endRestore_keeps | apply failStart_keeps | (split)
           | (refine Keeps.mk ?_ ?_ ?_ <;> (try dsimp only) <;> first | apply Keeps.pend | apply Keeps.bic (P := P) | apply Keeps.bound (P := P)) | intro _)

theorem dropResync_keeps {P : Nat → Prop} {s0 : State} {c : CmdCtx} {s : State} (h0 : Keeps P s0 s) : Keeps P s0 (dropResync c s) := by
  unfold dropResync; try dsimp only
  repeat' with_reducible
    (first | assumption | apply failResync_keeps | apply sendMessage_keeps | (split)
           | (refine Keeps.mk ?_ ?_ ?_ <;> (try dsimp only) <;> first | apply Keeps.pend | apply Keeps.bic (P := P) | apply Keeps.bound (P := P)) | intro _)

theorem dropInPart_keeps {P : Nat → Prop} {s0 : State} {c : CmdCtx} {op p : Nat} {s : State} (h0 : Keeps P s0 s) : Keeps P s0 (dropInPart c op p s) := by
  unfold dropInPart; try dsimp only
  repeat' with_reducible
    (first | assumption | apply emptyPart_keeps | apply dropKind_keeps | apply failStart_keeps | apply dropPause_keeps | apply endAct_keeps
           | apply setPart_keeps | apply dropChange_keeps | apply dropSwitch_keeps | (split)
           | (refine Keeps.mk ?_ ?_ ?_ <;> (try dsimp only) <;> first | apply Keeps.pend | apply Keeps.bic (P := P) | apply Keeps.bound (P := P)) | intro _)

theorem abortEffect_keeps {P : Nat → Prop} {s0 : State} {c : CmdCtx} {op : Nat} {s : State} (h0 : Keeps P s0 s) : Keeps P s0 (abortEffect c op s) := by
  unfold abortEffect; try dsimp only
  repeat' with_reducible
    (first | assumption | apply dropRequest_keeps | apply dropPairing_keeps | apply dropPendant_keeps | apply dropResync_keeps
           | apply eachPart_keeps | apply dropInPart_keeps | (split)
           | (refine Keeps.mk ?_ ?_ ?_ <;> (try dsimp only) <;> first | apply Keeps.pend | apply Keeps.bic (P := P) | apply Keeps.bound (P := P)) | intro _)

theorem abortReply_keeps {P : Nat → Prop} {s0 : State} {s : State} {e : CmdCtx × Nat} (h0 : Keeps P s0 s) : Keeps P s0 (abortReply s e) := by
  unfold abortReply; try dsimp only
  repeat' with_reducible
    (first | assumption | apply sendReply_keeps)

theorem abortCommands_keeps {P : Nat → Prop} {s0 : State} {s : State} (h0 : Keeps P s0 s) : Keeps P s0 (abortCommands s) := by
  unfold abortCommands; try dsimp only
  repeat' with_reducible
    (first | assumption | apply sendCompletion_keeps | apply abortReply_keeps | apply abortEffect_keeps
           | (apply foldl_keeps <;> (try intro _ _ _)) | (apply foldl_keeps2 <;> (try intro _ _ _) <;> (try dsimp only))
           | (apply foldl_keeps3 <;> (try intro _ _ _) <;> (try dsimp only))
           | (refine Keeps.mk ?_ ?_ ?_ <;> (try dsimp only) <;> first | apply Keeps.pend | apply Keeps.bic (P := P) | apply Keeps.bound (P := P)) | intro _)

theorem setReady_keeps {P : Nat → Prop} {s0 : State} {pair : Nat} {b : Bool} {s : State} (h0 : Keeps P s0 s) : Keeps P s0 (setReady pair b s) := by
  unfold setReady; try dsimp only
  repeat' with_reducible
    (first | assumption | (split)
           | (refine Keeps.mk ?_ ?_ ?_ <;> (try dsimp only) <;> first | apply Keeps.pend | apply Keeps.bic (P := P) | apply Keeps.bound (P := P)))

theorem stopPair_keeps {P : Nat → Prop} {s0 : State} {pair code : Nat} {s : State} (h0 : Keeps P s0 s) : Keeps P s0 (stopPair pair code s) := by
  unfold stopPair; try dsimp only
  repeat' with_reducible
    (first | assumption | apply assertFault_keeps | apply setReady_keeps | apply holdAll_keeps | apply logRec_keeps | apply abortCommands_keeps
           | (split))

theorem execPlinthMismatch_keeps {P : Nat → Prop} {s0 u9 : State} {pair : Fin 2} {s : State}  (h9 : execPlinthMismatch pair s = .next u9) (h0 : Keeps P s0 s)
    : Keeps P s0 u9 := by
  unfold execPlinthMismatch at h9; try dsimp only at h9
  cases h9
  repeat' with_reducible
    (first | assumption | apply stopPair_keeps | (split))

theorem restartPair_keeps {P : Nat → Prop} {s0 : State} {pair : Nat} {s : State} (h0 : Keeps P s0 s) : Keeps P s0 (restartPair pair s) := by
  unfold restartPair; try dsimp only
  repeat' with_reducible
    (first | assumption | apply resolveAll_keeps | apply releaseFault_keeps | apply setReady_keeps)

theorem execPlinthPairReady_keeps {P : Nat → Prop} {s0 u9 : State} {pair : Fin 2} {digest : BitVec 384} {s : State}
    (h9 : execPlinthPairReady pair digest s = .next u9) (h0 : Keeps P s0 s) : Keeps P s0 u9 := by
  unfold execPlinthPairReady at h9; try dsimp only at h9
  cases h9
  repeat' with_reducible
    (first | assumption | apply restartPair_keeps | apply extendMr_keeps | apply failTrial_keeps | (split)
           | (refine Keeps.mk ?_ ?_ ?_ <;> (try dsimp only) <;> first | apply Keeps.pend | apply Keeps.bic (P := P) | apply Keeps.bound (P := P)))

theorem execFwServiceWait_keeps {P : Nat → Prop} {s0 u9 : State} {engine : Option (Fin 96)} {pair : Fin 2} {s : State}
    (h9 : execFwServiceWait engine pair s = .next u9) (h0 : Keeps P s0 s) : Keeps P s0 u9 := by
  unfold execFwServiceWait at h9; try dsimp only at h9
  cases h9
  repeat' with_reducible
    (first | assumption | apply setEngine_keeps | apply engineHold_keeps | apply stopPair_keeps | (split)
           | (refine Keeps.mk ?_ ?_ ?_ <;> (try dsimp only) <;> first | apply Keeps.pend | apply Keeps.bic (P := P) | apply Keeps.bound (P := P)) | intro _)

theorem loseDma_keeps {P : Nat → Prop} {s0 : State} {eng n : Nat} {s : State} (h0 : Keeps P s0 s) : Keeps P s0 (loseDma eng n s) := by
  unfold loseDma; try dsimp only
  repeat' with_reducible
    (first | assumption | apply setHead_keeps | apply suspendList_keeps | apply imageReadFault_keeps | (split)
           | (refine Keeps.mk ?_ ?_ ?_ <;> (try dsimp only) <;> first | apply Keeps.pend | apply Keeps.bic (P := P) | apply Keeps.bound (P := P)) | intro _)

theorem onOldest_keeps {P : Nat → Prop} {s0 : State} {q : Nat → Bool} {f : Nat → Request → State → State} {s : State}
    (h_f : ∀ x0 x1 x2, Keeps P s0 x2 → Keeps P s0 (f x0 x1 x2)) (h0 : Keeps P s0 s) : Keeps P s0 (onOldest q f s) := by
  unfold onOldest; try dsimp only
  repeat' with_reducible
    (first | assumption | apply h_f | (split)
           | (refine Keeps.mk ?_ ?_ ?_ <;> (try dsimp only) <;> first | apply Keeps.pend | apply Keeps.bic (P := P) | apply Keeps.bound (P := P)) | intro _)

theorem modRequest_keeps {P : Nat → Prop} {s0 : State} {p : Nat} {r : Request} {f : Request → Request} {s : State} (h0 : Keeps P s0 s)
    : Keeps P s0 (modRequest p r f s) := by
  unfold modRequest; try dsimp only
  repeat' with_reducible
    (first | assumption | apply setPart_keeps | (split)
           | (refine Keeps.mk ?_ ?_ ?_ <;> (try dsimp only) <;> first | apply Keeps.pend | apply Keeps.bic (P := P) | apply Keeps.bound (P := P)) | intro _)

theorem loseRequest_keeps {P : Nat → Prop} {s0 : State} {p : Nat} {r : Request} {s : State} (h0 : Keeps P s0 s) : Keeps P s0 (loseRequest p r s) := by
  unfold loseRequest; try dsimp only
  repeat' with_reducible
    (first | assumption | apply raiseHold_keeps | apply modRequest_keeps
           | (refine Keeps.mk ?_ ?_ ?_ <;> (try dsimp only) <;> first | apply Keeps.pend | apply Keeps.bic (P := P) | apply Keeps.bound (P := P)) | intro _)

theorem loseTag_keeps {P : Nat → Prop} {s0 : State} {k : Nat} {s : State} (h0 : Keeps P s0 s) : Keeps P s0 (loseTag k s) := by
  unfold loseTag; try dsimp only
  repeat' with_reducible
    (first | assumption | apply loseRequest_keeps | apply unbindTag_keeps | apply settleOrphan_keeps | (split)
           | (refine Keeps.mk ?_ ?_ ?_ <;> (try dsimp only) <;> first | apply Keeps.pend | apply Keeps.bic (P := P) | apply Keeps.bound (P := P)) | intro _)

theorem reissue_keeps {P : Nat → Prop} {s0 : State} {k : Nat} {s : State} (h0 : Keeps P s0 s) : Keeps P s0 (reissue k s) := by
  unfold reissue; try dsimp only
  repeat' with_reducible
    (first | assumption | apply forwardHeader_keeps | apply injectPacket_keeps | apply takeCredit_keeps | (split))

theorem lostLevel_keeps {P : Nat → Prop} {s0 : State} {s : State} (h0 : Keeps P s0 s) : Keeps P s0 (lostLevel s).2 := by
  unfold lostLevel; try dsimp only
  repeat' with_reducible
    (first | assumption | apply draw_keeps | refine draw_keeps_eq (by assumption) ?_)

theorem lostLevel_keeps_eq {P : Nat → Prop} {s0 u9 : State} {s : State}  {r0} (h9 : lostLevel s = (r0, u9)) (h0 : Keeps P s0 s) : Keeps P s0 u9 := by
  have h : Keeps P s0 (lostLevel s).2 := lostLevel_keeps  h0
  rw [h9] at h; exact h

theorem faultWalk_keeps {P : Nat → Prop} {s0 : State} {p : Nat} {r : Request} {s : State} (h0 : Keeps P s0 s) : Keeps P s0 (faultWalk p r s) := by
  unfold faultWalk; try dsimp only
  repeat' with_reducible
    (first | assumption | apply lostLevel_keeps | refine lostLevel_keeps_eq (by assumption) ?_ | apply portFault_keeps | apply modRequest_keeps
           | (refine Keeps.mk ?_ ?_ ?_ <;> (try dsimp only) <;> first | apply Keeps.pend | apply Keeps.bic (P := P) | apply Keeps.bound (P := P)) | intro _)

theorem faultDmaWalk_keeps {P : Nat → Prop} {s0 : State} {s : State} (h0 : Keeps P s0 s) : Keeps P s0 (faultDmaWalk s) := by
  unfold faultDmaWalk; try dsimp only
  repeat' with_reducible
    (first | assumption | apply lostLevel_keeps | refine lostLevel_keeps_eq (by assumption) ?_ | apply suspendList_keeps | (split)
           | (refine Keeps.mk ?_ ?_ ?_ <;> (try dsimp only) <;> first | apply Keeps.pend | apply Keeps.bic (P := P) | apply Keeps.bound (P := P)) | intro _)

theorem loseHub_keeps {P : Nat → Prop} {s0 : State} {q : Nat} {s : State} (h0 : Keeps P s0 s) : Keeps P s0 (loseHub q s) := by
  unfold loseHub; try dsimp only
  repeat' with_reducible
    (first | assumption | apply draw_keeps | refine draw_keeps_eq (by assumption) ?_ | apply failEngine_keeps)

theorem lossAction_keeps {P : Nat → Prop} {s0 : State} {i n tag : Nat} {s : State} (h0 : Keeps P s0 s) : Keeps P s0 (lossAction i n tag s) := by
  have hr : Keeps P s0 (reissue (tagKey i tag) s) := reissue_keeps h0
  unfold lossAction; dsimp only
  refine ite_keeps (loseDma_keeps (ite_keeps hr h0)) <| ite_keeps (loseTag_keeps h0) <| ite_keeps (ite_keeps hr (loseHub_keeps h0)) <|
    ite_keeps (ite_keeps hr (onOldest_keeps (fun _ _ _ k => faultWalk_keeps k) h0)) <| ite_keeps (ite_keeps hr (faultDmaWalk_keeps h0)) <|
    ite_keeps (ite_keeps hr (ite_keeps h0 (stopPair_keeps h0))) <| ite_keeps (emit_keeps h0) <| ite_keeps ⟨h0.pend, h0.bic, h0.bound⟩ <|
    ite_keeps (ite_keeps hr (ite_keeps h0 (failResync_keeps (sendMessage_keeps h0)))) <| ite_keeps hr <|
    ite_keeps (ite_keeps hr (loseHub_keeps h0)) h0

theorem execNocLost_keeps {P : Nat → Prop} {s0 u9 : State} {init : Fin 59} {tag : Fin 64} {s : State}  (h9 : execNocLost init tag s = .next u9) (h0
    : Keeps P s0 s) : Keeps P s0 u9 := by
  unfold execNocLost at h9; try dsimp only at h9
  cases h9
  repeat' with_reducible
    (first | assumption | apply modCtr_keeps | apply lossAction_keeps | apply logRec_keeps | (split)
           | (refine Keeps.mk ?_ ?_ ?_ <;> (try dsimp only) <;> first | apply Keeps.pend | apply Keeps.bic (P := P) | apply Keeps.bound (P := P)) | intro _)

theorem execNocStall_keeps {P : Nat → Prop} {s0 u9 : State} {router : Fin 36} {port : Fin 11} {s : State} (h9 : execNocStall router port s = .next u9)
 (h0 : Keeps P s0 s) : Keeps P s0 u9 := by
  unfold execNocStall at h9
  cases h9
  refine ite_keeps h0 (holdAll_keeps (assertFault_keeps ?_))
  have k : Keeps P s0 (logRec { cause := St.nocStall, sub := 0xA, sev := 2, loc := nocLoc router.val port.val 1 } s) := logRec_keeps h0
  exact ⟨k.pend, k.bic, k.bound⟩

theorem execHostStall_keeps {P : Nat → Prop} {s0 u9 : State} {fn : Fin 16} {s : State}  (h9 : execHostStall fn s = .next u9) (h0 : Keeps P s0 s)
    : Keeps P s0 u9 := by
  unfold execHostStall at h9; try dsimp only at h9
  cases h9
  repeat' with_reducible
    (first | assumption | apply logRec_keeps | apply setFn_keeps | (split)
           | (refine Keeps.mk ?_ ?_ ?_ <;> (try dsimp only) <;> first | apply Keeps.pend | apply Keeps.bic (P := P) | apply Keeps.bound (P := P)) | intro _)

end Sys2Proof.Machine
end

