-- ==== Sys2Proof/Laws/Markers.lean ====
section
/-!
SUPPORT. Markers.lean (laws): a marker that is heard has its effect in the state that notes it.
-/
namespace Sys2Proof.Machine

/-- A marker that is heard is noted on its link and acted on. -/
theorem receive_hears {down : Bool} {link type : Nat} {m : Marker} {body : State → State} {s : State}
    (h : s.hears down link type m = true) : receive down link type m body s = body (s.marked link type m) := by
  simp only [State.hears, Bool.and_eq_true, Bool.not_eq_true', decide_eq_true_eq] at h
  obtain ⟨⟨⟨h1, h2⟩, h3⟩, h4⟩ := h
  have h5 : ¬ s.clk.now < s.clk.dualUntil := Nat.not_lt.mpr h4
  unfold receive
  cases down
  · simp only [Bool.false_eq_true, if_false] at h1
    simp [h1, h2, h3, h5, State.marked]
  · simp only [if_true] at h1
    simp [State.takesDown, h1, h2, h3, h5, State.marked]

/-- The second copy of a marker is dropped. -/
theorem receive_repeat {down : Bool} {link type : Nat} {m : Marker} {body : State → State} {s : State}
    (h : (if down then s.takesDown link else takesUp link) = true) (h1 : markerCheck type m = .good) (h2 : s.repeats link type m = true) :
    receive down link type m body s = s.setLink link { s.link link with lastMark := none } := by
  unfold receive
  cases down <;> simp_all

end Sys2Proof.Machine
end

