-- ==== Sys2Proof/WellFormed.lean ====
section
/-!
DEFINITION. WellFormed.lean: when a command is one that its transport can have delivered: the checks that stand before an opcode's own
(R319 to R324) and the lengths that the framing of each transport fixes. A command that is not well-formed is still executed: what exec
does with it is what the spec says of the operands it holds.
-/
namespace Sys2Proof

/-- A source of Table 15.4: a function, an upstream link, or the debug port. -/
def CmdCtx.sourceOk (c : CmdCtx) : Bool := decide (c.src.toNat ≤ 0x10) || decide (c.src.toNat = 0x17) || decide (c.src.toNat = 0x18)

/-- TAG 0xFFFF is reserved (Table 15.1). -/
def CmdCtx.tagOk (c : CmdCtx) : Bool := decide (c.tag ≠ 0xFFFF)

/-- EFRAME is 0 in an opcode that takes no frame (R323). -/
def CmdCtx.frameOk (c : CmdCtx) (op : Nat) : Bool := Machine.takesFrame op || decide (c.eframe = 0)

/-- Bytes of an opcode's lists: a packet holds at most 4,080 bytes of payload (R319). -/
def Instr.listBytes : Instr → Nat
  | .pwrWatch _ _ _ _ _ l => 8 + 8 * l.length
  | .transResolve _ _ _ _ _ _ _ l => 12 + 4 * l.length
  | .dmaSubmit _ _ _ _ _ l extra => 8 + 32 * l.length + extra
  | .keyLoad _ _ _ _ pub _ w => 4 + pub.length + w.length
  | .fwDownload _ _ _ b => 8 + b.length
  | .dbgAccess _ _ _ _ _ _ _ _ b => 24 + b.length
  | _ => 0

/-- The lengths that framing fixes: a fetch takes whole 64-byte slots (R329), a framed packet and a forwarded one lie within 4,096 bytes
(R332, R333; what the link inserts is not counted, R137), a probe has one answer per child link (R364), a NoC packet carries at most 15
words (R285), and a board has 16 DIMM slots and an equalisation table of 16 entries (R232, R140). -/
def Instr.framed : Instr → Bool
  | .commandRingFetch _ b => decide (b.length % 64 = 0)
  | .controlLinkPacket _ (.framed l) => decide ((Machine.removeInserted 0 l).length ≤ 4096)
  | .childReplyForward _ b => decide (16 ≤ b.length) && decide (b.length ≤ 4096)
  | .childProbe a e => decide (a.length ≤ 6) && decide (e.length ≤ 6)
  | .nocPacketConsumed _ _ _ w => decide (w.length ≤ 15)
  | .boot _ _ b => decide (b.dimms.length = 16) && (match b.eqTable with | some t => decide (t.1.length = 16) | none => true)
  | _ => true

/-- The command is one that its transport can have delivered. -/
def Instr.wf (i : Instr) : Bool :=
  (match Machine.instrHead i with
    | some (c, op) => c.sourceOk && c.tagOk && c.frameOk op
    | none => true) && decide (i.listBytes ≤ 4080) && i.framed

end Sys2Proof
end

