-- ==== Sys2Proof/Tests/Slice0.lean ====
section
/-!
SUPPORT. Tests/Slice0.lean: commands that a well-formedness check refuses, small steps with results taken from the spec, and for every
statement of Obligations.lean that has hypotheses a named theorem whose clauses show, in the statement's order, a state and operands that
meet the hypotheses of each of its clauses together.
-/
set_option maxRecDepth 8000
namespace Sys2Proof.Tests
open Sys2Proof Sys2Proof.Machine

/-! ## Well-formedness refuses -/

/-- A command of function 0. -/
def cOk : CmdCtx := { src := 0, tag := 1, accSeq := 0, eframe := 0 }

theorem test_wf_command : Instr.wf (.identQuery cOk) = true := by decide
theorem test_wf_source : Instr.wf (.identQuery { cOk with src := 0x11 }) = false := by decide
theorem test_wf_tag : Instr.wf (.identQuery { cOk with tag := 0xFFFF }) = false := by decide
theorem test_wf_eframe : Instr.wf (.identQuery { cOk with eframe := 1 }) = false := by decide
theorem test_wf_eframe_taken : Instr.wf (.framePause { cOk with eframe := 1 } 0 0 0) = true := by decide
theorem test_wf_payload : Instr.wf (.dmaSubmit cOk 0 0 0 0 [] 4073) = false := by decide
theorem test_wf_slots : Instr.wf (.commandRingFetch 0 (List.replicate 63 0)) = false := by decide
theorem test_wf_framed : Instr.wf (.controlLinkPacket 0 (.framed (List.replicate 4097 (.data 0)))) = false := by decide +kernel
theorem test_wf_inserted : Instr.wf (.controlLinkPacket 0 (.framed (.k 0xBC :: List.replicate 4096 (.data 0)))) = true := by decide +kernel
theorem test_wf_words : Instr.wf (.nocPacketConsumed 0 0 0 (List.replicate 16 (0, .clean))) = false := by decide
theorem test_wf_forwarded : Instr.wf (.childReplyForward 1 (List.replicate 15 0)) = false := by decide
theorem test_wf_probes : Instr.wf (.childProbe (List.replicate 7 .noAnswer) []) = false := by decide
/-- A board's slots and table. -/
def tBoot (d : Nat) (n : Nat) : Instr := .boot
  { valid := true, target := 0x9616, bics := [1], ver := 0, floorSet := 0, length := 0, loader := 0, pair0 := 0, pair1 := 0, quadMgr := 0, engine := 0 }
  { valid := false, target := 0, bics := [], ver := 0, floorSet := 0, length := 0, loader := 0, pair0 := 0, pair1 := 0, quadMgr := 0, engine := 0 }
  { dimms := List.replicate d none, eqTable := some (List.replicate n 0, 0), healthSerial := none }
theorem test_wf_boot : Instr.wf (tBoot 16 16) = true := by decide
theorem test_wf_slots_of_board : Instr.wf (tBoot 15 16) = false := by decide
theorem test_wf_table : Instr.wf (tBoot 16 1) = false := by decide

/-! ## Small results from the spec -/

-- R57: index 8 × D + 4 × C + 2 × B + A
theorem test_lut_index : lutIndex true false true true = 13 := by decide
-- R343: before boot no pair takes commands, so a command waits
theorem test_waits_at_reset : exec (.identQuery cOk) State.reset = .next State.reset := by rfl
-- R477: a debug reset leaves the policy as it stands
theorem test_policy_set : (match exec (.dbgPolicyWrite 1) State.reset with | .next t => (t.arm.obsOpen, t.arm.obsLocked) | _ => (false, false)) = (true, true) := by rfl
-- R471: the low 12 bits of a base register are not kept
theorem test_ring_base :
    (match exec (.registerWrite 0 false 0x100 0x12345678 0xF#4) State.reset with | .next t => (t.fn 0).cmd.base | _ => 0) = 0x12345000 := by rfl
-- R471: a ring size written while ENABLE is 1 is ignored
theorem test_ring_size_ignored :
    (match exec (.registerWrite 0 false 0x108 9 0xF#4) { State.reset with fns := [(0, { enable := true })] } with
      | .next t => (t.fn 0).cmd.log2 | _ => 31) = 0 := by rfl
-- R369: the full frame number nearest the partition's, across a wrap of the low 24 bits
theorem test_nearest_frame : nearestFrame 0x1FFFFFE 1 = 0x2000001 := by decide
-- R450: an AUTH write of 0x01 with OBSOPEN 0 sets ERR and grants nothing
theorem test_observe_refused :
    (match exec .authObserve State.reset with | .next t => (t.dbg.err, t.dbg.level) | _ => (false, 1)) = (true, 0) := by rfl
-- an empty queue: one period of the step clock
theorem test_idle_advances : (match step State.reset with | .next _ => true | _ => false) = true := by rfl

/-! ## States that meet the hypotheses -/

/-- A command of the physical function. -/
def tCtx : CmdCtx := { src := 0, tag := 1, accSeq := 0, eframe := 0 }
/-- A command of the upstream link S0. -/
def tUp : CmdCtx := { tCtx with src := 0x10 }
/-- A command of the debug port. -/
def tDbg : CmdCtx := { tCtx with src := 0x18 }
/-- A device in Run with both pairs ready, a locked PLL, an assigned counter and address, and two ranks of DRAM. -/
def tS : State := { State.reset with
  plinth := { ready0 := true, ready1 := true, bootDue := false, selfTest := true }
  arm := { assigned := true }
  clk := { pll := true, counterOk := true, now := 1000000000000, count := 100000 }
  dram := { ok := true, usable := 10000000, ranks := 2, rankLines := 1000000 } }
/-- That device with the debug port at Full. -/
def tF : State := { tS with dbg := { level := 2 } }
/-- A Transition for the witnesses. -/
def tTr : Transition := { target := .off, entering := true, steps := [], ctx := none, redirect := none, woken := false }
/-- A CastRec for the witnesses. -/
def tRec : CastRec := { kind := 0, void := false, damaged := false, frame := 0, step := 0, finished := true, bytes := [], len := 100, bad := [] }
/-- A DmaElem for the witnesses. -/
def tEl : DmaElem := { src := 0, dst := 4096, len := 64, dir := 2, rsvd := 0 }
/-- A DmaElem for the witnesses. -/
def tEl0 : DmaElem := { tEl with len := 0 }
/-- A DmaList for the witnesses. -/
def tList : DmaList := {
  lseq := 0, kind := .list, ctx := none, jsid := 0, utag := 0, elems := [], k := 0, done := 0, suspended := false, losses := 0 }
/-- A Request for the witnesses. -/
def tReq : Request := {
  frame := 0, lcl := 0, port := 0, r := 0, rgrp := 0, key := 0, paddr := 0, jaddr := 0, kix := none, gen := 0, data := 0, seq := 0, sent := true, tag := none, pcl := 0, epoch := 0, op := 0, resp := none
  arrived := false, fwd := false, lost := false, faulted := false, wantsData := false, late := false }
/-- A Image for the witnesses. -/
def tIm : Image := {
  bic := 1, kind := 0, reloc := false, qmask := 1, e := 16, w := 48, d := 1, lin := 0, haddr := 0, sxparam := 0, build := 0, total := 0
  idigest := 0, head := [], sections := [], data := [], fmin := none, cmask := [] }
/-- A Switch for the witnesses. -/
def tSw : Switch := {
  ctx := tCtx, phase := 0, oldJsid := 0, newJsid := 0, saddr := 0, slen := 0, iaddr := 0, ilen := 0, caddr := 0, override := false
  saveDone := false, saveVoid := false, tickDone := false }
/-- A SlotImage for the witnesses. -/
def tSlot : SlotImage := {
  valid := true, target := 0x9616, bics := [1], ver := 0, floorSet := 0, length := 0, loader := 0, pair0 := 0, pair1 := 0, quadMgr := 0, engine := 0 }
/-- A BoardBoot for the witnesses. -/
def tBoard : BoardBoot := { dimms := [], eqTable := none, healthSerial := none }
/-- A time-sync sequence of a type with every field 0, as its sender codes it. -/
def tQ (ty : Nat) : SyncSeq := { seq := 0, crc := BitVec.ofNat 8 (crc8 (timeSyncContent ty 0 0 0 0 0)), coded := false }
/-- A marker of a type, as its sender codes it. -/
def tMk (ty : Nat) : Marker :=
  { scope := 1, frame := 0, arg := 0, crc := BitVec.ofNat 8 (crc8 (markerContent ty 1 0 0)), coded := false }
/-- A marker for the witnesses. -/
def tM : Marker := tMk 0
/-- A Horizon mark's CRC for scope 1, frame 0 and step 5. -/
def tCrc : Byte := BitVec.ofNat 8 (crc8 (horizonContent 1 0 5))
/-- A change of mode of side 0 under opcode 0x0902. -/
def tChange : ModeChange := { m := 0, opcode := 0x0902, armed := false, ready := false, lateAt := none, ctx := none, arg := 0 }
/-- A response packet that waits in the network. -/
def tPkt : NocPacket := { router := 0, port := 0, input := 0, header := 2 ^ 78, since := 0 }

theorem wit_IdentityAnswers :
    (∃ (c : CmdCtx) (s : State), s.serves SrcClass.a 257 c = true) ∧
    (∃ (c : CmdCtx) (s : State), s.serves SrcClass.a 258 c = true) ∧
    (∃ (c : CmdCtx) (offset : U32) (s : State), s.serves SrcClass.a 259 c = true ∧ BitVec.toNat offset < s.ident.certs.length) ∧
    (∃ (c : CmdCtx) (offset : U32) (s : State), s.serves SrcClass.a 259 c = true ∧ s.ident.certs.length ≤ BitVec.toNat offset) :=
  ⟨⟨tCtx, tS, by rfl⟩,
   ⟨tCtx, tS, by rfl⟩,
   ⟨tCtx, 1, { tS with ident := { certs := [1, 2] } }, by rfl, by decide⟩,
   ⟨tCtx, 2, { tS with ident := { certs := [1, 2] } }, by rfl, by decide⟩⟩

theorem wit_PowerCommandsComplete :
    (∃ (c : CmdCtx) (target : Byte) (st : PwrState) (s : State), s.serves SrcClass.p 513 c = true ∧ pwrOf (BitVec.toNat target) = some st ∧
      s.clk.halt = none ∧ s.pwr.trans = none ∧ st ≠ s.pwr.st ∧ st ≠ PwrState.off ∧ pwrRefusal st s = none) ∧
    (∃ (c : CmdCtx) (target : Byte) (st : PwrState) (s : State), s.serves SrcClass.p 513 c = true ∧ pwrOf (BitVec.toNat target) = some st ∧
      s.clk.halt = none ∧ s.pwr.trans = none ∧ st = s.pwr.st) ∧
    (∃ (c : CmdCtx) (s : State), s.serves SrcClass.a 514 c = true) ∧
    (∃ (c : CmdCtx) (s : State) (period : U32) (ns : Byte) (chk : Byte) (sensors : List WatchSensor), s.serves SrcClass.p 515 c = true ∧
      sensors.length = BitVec.toNat ns ∧ 1 ≤ BitVec.toNat period ∧ BitVec.toNat period ≤ 10000 ∧ BitVec.toNat ns ≤ 8 ∧ BitVec.toNat chk ≤ 3
      ∧ (∀ (w : WatchSensor), w ∈ sensors → w.rsvd = 0 ∧ w.saddr.toNat ≤ 127)) :=
  ⟨⟨tCtx, 1, .idle, tS, by rfl, by rfl, by rfl, by rfl, by decide, by decide, by rfl⟩,
   ⟨tCtx, 0, .run, tS, by rfl, by rfl, by rfl, by rfl, by rfl⟩,
   ⟨tCtx, tS, by rfl⟩,
   ⟨tCtx, tS, 10000, 0, 0, [], by rfl, by rfl, by decide, by decide, by decide, by decide, by decide⟩⟩

theorem wit_FrameCommandsComplete :
    (∃ (c : CmdCtx) (part : Byte) (s : State), s.mayName c (BitVec.toNat part) = true ∧ s.serves SrcClass.j 769 c = true ∧ (s.part
      (BitVec.toNat part)).st = PState.running ∧ (s.part (BitVec.toNat part)).cond ≠ 1 ∧ (s.part (BitVec.toNat part)).pausedAt = none ∧
      s.isRoot (BitVec.toNat part) = true) ∧
    (∃ (c : CmdCtx) (part : Byte) (s : State) (m : FrameNo) (t : Nat) (b : Nat) (d : Nat), s.mayName c (BitVec.toNat part) = true ∧ s.serves
      SrcClass.j 770 c = true ∧ (s.part (BitVec.toNat part)).st = PState.running ∧ (s.part (BitVec.toNat part)).pausedAt = some (m, t, b, d)
      ∧ (s.part (BitVec.toNat part)).replayLimit = false ∧ s.joining = false ∧ s.isRoot (BitVec.toNat part) = true) ∧
    (∃ (c : CmdCtx) (part : Byte) (s : State) (k : FrameNo) (tv : Nat), s.mayName c (BitVec.toNat part) = true ∧ s.serves SrcClass.j 770 c =
      true ∧ (s.part (BitVec.toNat part)).st = PState.running ∧ (s.part (BitVec.toNat part)).cond ≠ 0 ∧ (s.part (BitVec.toNat
      part)).heldFrame = some (k, tv) ∧ (s.part (BitVec.toNat part)).replayLimit = true ∧ s.joining = false) ∧
    (∃ (c : CmdCtx) (part : Byte) (s : State) (count : U16) (m : FrameNo) (t : Nat) (b : Nat) (d : Nat), s.mayName c (BitVec.toNat part) =
      true ∧ s.serves SrcClass.j 771 c = true ∧ (s.part (BitVec.toNat part)).st = PState.running ∧ (s.part (BitVec.toNat part)).pausedAt =
      some (m, t, b, d) ∧ s.joining = false ∧ s.isRoot (BitVec.toNat part) = true ∧ count ≠ 0) ∧
    (∃ (c : CmdCtx) (part : Byte) (s : State) (lcl : Byte) (grp : Byte) (row : Byte), s.mayName c (BitVec.toNat part) = true ∧ s.serves
      SrcClass.j 772 c = true ∧ (s.part (BitVec.toNat part)).st = PState.running ∧ BitVec.toNat grp < 16 ∧ BitVec.toNat row < 4 ∧ ((s.part
      (BitVec.toNat part)).pcl (BitVec.toNat lcl)).isSome = true ∧ (List.filter (fun w => decide (w.lcl = BitVec.toNat lcl) && mailboxWaits
      (s.part (BitVec.toNat part)) s.cnt w) (s.part (BitVec.toNat part)).mailbox).length < 64) ∧
    (∃ (c : CmdCtx) (part : Byte) (s : State), s.mayName c (BitVec.toNat part) = true ∧ s.serves SrcClass.j 773 c = true) :=
  ⟨⟨tCtx, 0, { tS with parts := [(0, { st := .running })] }, by rfl, by rfl, by rfl, by decide, by rfl, by rfl⟩,
   ⟨tCtx, 0, { tS with parts := [(0, { st := .running, pausedAt := some (0, 0, 0, 0) })] }, 0, 0, 0, 0, by rfl, by rfl, by rfl, by rfl, by
     rfl, by rfl, by rfl⟩,
   ⟨tCtx, 0, { tS with parts := [(0, { st := .running, heldFrame := some (0, 0), replayLimit := true })] }, 0, 0, by rfl, by rfl, by rfl, by
     decide, by rfl, by rfl, by rfl⟩,
   ⟨tCtx, 0, { tS with parts := [(0, { st := .running, pausedAt := some (0, 0, 0, 0) })] }, 1, 0, 0, 0, 0, by rfl, by rfl, by rfl, by rfl,
     by rfl, by rfl, by decide⟩,
   ⟨tCtx, 0, { tS with parts := [(0, { st := .running, pmap := [(0, 1)] })] }, 0, 15, 3, by rfl, by rfl, by rfl, by decide, by decide, by
     rfl, by decide⟩,
   ⟨tCtx, 0, tS, by rfl, by rfl⟩⟩

theorem wit_MaquetteCommandsComplete :
    (∃ (c : CmdCtx) (part : Byte) (s : State) (dies : Byte) (jsid : Byte) (flags : Byte) (addr : U64) (len : U64) (e : Nat), s.mayName c
      (BitVec.toNat part) = true ∧ s.serves SrcClass.j 1025 c = true ∧ BitVec.toNat dies < 16 ∧ BitVec.toNat jsid < 16 ∧ BitVec.toNat flags
      ≤ 1 ∧ rangeOk (BitVec.toNat addr) (BitVec.toNat len) = true ∧ s.memGone = false ∧ foreignJs c (BitVec.toNat jsid) = false ∧ ((s.part
      (BitVec.toNat part)).st = PState.loaded ∨ (s.part (BitVec.toNat part)).st = PState.empty ∨ (s.part (BitVec.toNat part)).st =
      PState.running ∧ (s.part (BitVec.toNat part)).pausedAt.isSome = true) ∧ (s.part (BitVec.toNat part)).switch = none ∧ (s.part
      (BitVec.toNat part)).unloadCtx = none ∧ (s.part (BitVec.toNat part)).restoreCtx = none ∧ s.pagesFree c (BitVec.toNat jsid)
      (BitVec.toNat addr) (BitVec.toNat len) = true ∧ s.pickEngine = some e) ∧
    (∃ (c : CmdCtx) (part : Byte) (s : State), s.mayName c (BitVec.toNat part) = true ∧ s.serves SrcClass.j 1026 c = true ∧ (s.part
      (BitVec.toNat part)).st = PState.loaded ∧ (s.part (BitVec.toNat part)).restoreCtx = none ∧ (s.part (BitVec.toNat part)).switch = none
      ∧ pairRefusal (BitVec.toNat part) s = none) ∧
    (∃ (c : CmdCtx) (part : Byte) (s : State), s.mayName c (BitVec.toNat part) = true ∧ s.serves SrcClass.j 1027 c = true ∧ (s.part
      (BitVec.toNat part)).st = PState.empty ∧ (s.part (BitVec.toNat part)).unloadCtx = none) ∧
    (∃ (c : CmdCtx) (part : Byte) (s : State), s.mayName c (BitVec.toNat part) = true ∧ s.serves SrcClass.j 1027 c = true ∧ (s.part
      (BitVec.toNat part)).st = PState.loaded ∧ (s.part (BitVec.toNat part)).unloadCtx = none) ∧
    (∃ (c : CmdCtx) (part : Byte) (s : State) (lcl : Byte) (tgt : Byte) (src : Nat) (u : Nat) (im : Image), s.mayName c (BitVec.toNat part)
      = true ∧ s.serves SrcClass.j 1028 c = true ∧ BitVec.toNat lcl < 96 ∧ BitVec.toNat tgt < 96 ∧ (s.part (BitVec.toNat part)).st =
      PState.running ∧ (s.part (BitVec.toNat part)).pcl (BitVec.toNat lcl) = some src ∧ (s.part (BitVec.toNat part)).hosted (BitVec.toNat
      tgt) = some u ∧ (s.part (BitVec.toNat part)).image = some im ∧ src / 24 = BitVec.toNat tgt / 24 ∧ lclUsed im u = false ∧ u ≠
      BitVec.toNat lcl ∧ smGet 0 s.arr.retired (BitVec.toNat tgt) ≠ 2 ∧ (s.part (BitVec.toNat part)).heldFrame = none ∧ s.migration
      (BitVec.toNat tgt / 24) = none) ∧
    (∃ (c : CmdCtx) (part : Byte) (s : State) (mask : BitVec 24) (addr : U64) (len : U64) (e : Nat) (im : Image), s.mayName c (BitVec.toNat
      part) = true ∧ s.serves SrcClass.j 1029 c = true ∧ mask ≠ 0 ∧ rangeOk (BitVec.toNat addr) (BitVec.toNat len) = true ∧ s.memGone =
      false ∧ s.pagesFree c (s.part (BitVec.toNat part)).jsid (BitVec.toNat addr) (BitVec.toNat len) = true ∧ (s.part (BitVec.toNat
      part)).st = PState.running ∧ (s.part (BitVec.toNat part)).image = some im ∧ ((onesOf mask.toNat 24).all fun k => im.qmask.getLsbD (k /
      6)) = true ∧ ((s.part (BitVec.toNat part)).reconfig.any fun r => decide (r.mask &&& BitVec.ofNat 24 (maskOf (List.map (s.part
      (BitVec.toNat part)).region (onesOf mask.toNat 24))) ≠ 0)) = false ∧ s.pickEngine = some e) ∧
    (∃ (c : CmdCtx) (part : Byte) (s : State) (flags : Byte) (njsid : Byte) (saddr : U64) (slen : U64) (iaddr : U64) (ilen : U64) (caddr :
      U64), s.mayName c (BitVec.toNat part) = true ∧ s.serves SrcClass.j 1030 c = true ∧ BitVec.toNat flags ≤ 1 ∧ BitVec.toNat njsid < 16 ∧
      BitVec.toNat saddr % 4096 = 0 ∧ rangeOk (BitVec.toNat saddr) (BitVec.toNat slen) = true ∧ rangeOk (BitVec.toNat iaddr) (BitVec.toNat
      ilen) = true ∧ s.memGone = false ∧ rangeOk (BitVec.toNat caddr) (castLen (s.part (BitVec.toNat part)).diePairs.length) = true ∧ (caddr
      = 0 ∨ s.pagesFree c (BitVec.toNat njsid) (BitVec.toNat caddr) (castLen (s.part (BitVec.toNat part)).diePairs.length) = true) ∧ castLen
      (s.part (BitVec.toNat part)).diePairs.length ≤ BitVec.toNat slen ∧ s.pagesFree c (s.part (BitVec.toNat part)).jsid (BitVec.toNat
      saddr) (BitVec.toNat slen) = true ∧ s.pagesFree c (BitVec.toNat njsid) (BitVec.toNat iaddr) (BitVec.toNat ilen) = true ∧ (s.part
      (BitVec.toNat part)).st = PState.running ∧ (s.part (BitVec.toNat part)).switch = none ∧ s.savesShadow (BitVec.toNat part) = false ∧
      s.blocker 6 (BitVec.toNat part) = none ∧ foreignJs c (BitVec.toNat njsid) = false ∧ s.keyReady (BitVec.toNat njsid) = true) :=
  ⟨⟨tCtx, 0, tS, 0, 0, 0, 0, 0, 0, by rfl, by rfl, by decide, by decide, by decide, by rfl, by rfl, by rfl, by decide, by rfl, by rfl, by
     rfl, by rfl, by rfl⟩,
   ⟨tCtx, 0, { tS with parts := [(0, { st := .loaded })] }, by rfl, by rfl, by rfl, by rfl, by rfl, by rfl⟩,
   ⟨tCtx, 0, tS, by rfl, by rfl, by rfl, by rfl⟩,
   ⟨tCtx, 0, { tS with parts := [(0, { st := .loaded })] }, by rfl, by rfl, by rfl, by rfl⟩,
   ⟨tCtx, 0, { tS with parts := [(0, { st := .running, image := some tIm, pmap := [(0, 1), (1, 2)] })] }, 0, 1, 0, 1, tIm, by rfl, by rfl,
     by decide, by decide, by rfl, by rfl, by rfl, by rfl, by rfl, by rfl, by decide, by decide, by rfl, by rfl⟩,
   ⟨tCtx, 0, { tS with parts := [(0, { st := .running, image := some tIm })] }, 1, 0, 0, 0, tIm, by rfl, by rfl, by decide, by rfl, by rfl,
     by rfl, by rfl, by rfl, by rfl, by rfl, by rfl⟩,
   ⟨tCtx, 0,
     { tS with parts := [(0, { st := .running })], keys := { slots := [(1, { st := .loaded })], binds := [(1, some { kix := 1, dbg := false, rot := none })] } },
     0, 1, 0, 4096, 0, 0, 0, by rfl, by rfl, by decide, by decide, by rfl, by rfl, by rfl, by rfl, by rfl, by decide, by decide, by rfl, by
     rfl, by rfl, by rfl, by rfl, by rfl, by rfl, by rfl⟩⟩

theorem wit_TranslationCommandsComplete :
    (∃ (c : CmdCtx) (s : State) (base : U64) (len : U64), s.serves SrcClass.h 1281 c = true ∧ s.dram.ok = true ∧ s.trans.pool = none ∧
      BitVec.toNat base % 2097152 = 0 ∧ BitVec.toNat len % 2097152 = 0 ∧ 0 < BitVec.toNat len ∧ BitVec.toNat base + BitVec.toNat len ≤
      s.usableBytes) ∧
    (∃ (c : CmdCtx) (jsid : Byte) (s : State) (size : Byte) (flags : Byte) (count : U16) (jaddr : U64) (paddr : U64) (s1 : State),
      s.servesLate SrcClass.h 1282 c = true ∧ BitVec.toNat jsid ≤ 15 ∧ BitVec.toNat size ≤ 2 ∧ BitVec.toNat flags ≤ 3 ∧ 0 < BitVec.toNat
      count ∧ BitVec.toNat count ≤ 512 ∧ s.dram.ok = true ∧ s.trans.pool.isSome = true ∧ rangeOk (BitVec.toNat jaddr) (BitVec.toNat count *
      pageBytes (sizeLevel (BitVec.toNat size))) = true ∧ BitVec.toNat jaddr % pageBytes (sizeLevel (BitVec.toNat size)) = 0 ∧ BitVec.toNat
      paddr % pageBytes (sizeLevel (BitVec.toNat size)) = 0 ∧ s.physBad (BitVec.toNat paddr) (BitVec.toNat count * pageBytes (sizeLevel
      (BitVec.toNat size))) = false ∧ s.pagesFree c (BitVec.toNat jsid) (BitVec.toNat jaddr) (BitVec.toNat count * pageBytes (sizeLevel
      (BitVec.toNat size))) = true ∧ (∀ (i : Nat), i < BitVec.toNat count → pageAt s (BitVec.toNat jsid) (sizeLevel (BitVec.toNat size))
      (BitVec.toNat jaddr + i * pageBytes (sizeLevel (BitVec.toNat size))) = PageAt.absent) ∧ List.foldl (fun r i => r.bind fun a => mapPage
      (BitVec.toNat jsid) (sizeLevel (BitVec.toNat size)) (BitVec.toNat jaddr + i * pageBytes (sizeLevel (BitVec.toNat size))) (leafEntry
      (sizeLevel (BitVec.toNat size)) (BitVec.toNat paddr + i * pageBytes (sizeLevel (BitVec.toNat size))) (BitVec.getLsbD flags 0)
      (BitVec.getLsbD flags 1)) a) (some (takeAccepted c s)) (List.range (BitVec.toNat count)) = some s1) ∧
    (∃ (c : CmdCtx) (jsid : Byte) (s : State) (size : Byte) (jaddr : U64) (e : Nat), s.servesLate SrcClass.h 1283 c = true ∧ BitVec.toNat
      jsid ≤ 15 ∧ BitVec.toNat size ≤ 2 ∧ s.dram.ok = true ∧ rangeOk (BitVec.toNat jaddr) (1 * pageBytes (sizeLevel (BitVec.toNat size))) =
      true ∧ BitVec.toNat jaddr % pageBytes (sizeLevel (BitVec.toNat size)) = 0 ∧ s.pagesFree c (BitVec.toNat jsid) (BitVec.toNat jaddr) (1
      * pageBytes (sizeLevel (BitVec.toNat size))) = true ∧ pageAt s (BitVec.toNat jsid) (sizeLevel (BitVec.toNat size)) (BitVec.toNat
      jaddr) = PageAt.same e) ∧
    (∃ (c : CmdCtx) (jsid : Byte) (s : State), s.serves SrcClass.h 1284 c = true ∧ BitVec.toNat jsid ≤ 15) ∧
    (∃ (c : CmdCtx) (jsid : Byte) (s : State), s.serves SrcClass.j 1285 c = true ∧ BitVec.toNat jsid ≤ 15 ∧ foreignJs c (BitVec.toNat jsid)
      = false) ∧
    (∃ (c : CmdCtx) (jsid : Byte) (s : State) (jaddr : U64), s.serves SrcClass.j 1286 c = true ∧ BitVec.toNat jsid ≤ 15 ∧ rangeOk
      (BitVec.toNat jaddr) 1 = true ∧ foreignJs c (BitVec.toNat jsid) = false ∧ s.dram.ok = true ∧ s.pagesFree c (BitVec.toNat jsid)
      (BitVec.toNat jaddr) 1 = true) :=
  ⟨⟨tCtx, tS, 0, 2097152, by rfl, by rfl, by rfl, by rfl, by rfl, by decide, by decide⟩,
   ⟨tCtx, 0, { tS with trans := { pool := some (0, 2097152) } }, 0, 0, 1, 0, 4194304, _, by rfl, by decide, by decide, by decide, by decide,
     by decide, by rfl, by rfl, by rfl, by rfl, by rfl, by rfl, by rfl, by decide, by rfl⟩,
   ⟨tCtx, 0, { tS with trans := { l4 := [(0, 1)] }, dram := { tS.dram with mem := [(0, 1), (1, 16), (4096, 5)] } }, 2, 0, 4096, by rfl, by
     decide, by decide, by rfl, by rfl, by rfl, by rfl, by rfl⟩,
   ⟨tCtx, 0, tS, by rfl, by decide⟩,
   ⟨tCtx, 0, tS, by rfl, by decide, by rfl⟩,
   ⟨tCtx, 0, { tS with trans := { l4 := [(0, 1)] }, dram := { tS.dram with mem := [(0, 1), (1, 16), (4096, 5)] } }, 0, by rfl, by decide, by
     rfl, by rfl, by rfl, by rfl⟩⟩

theorem wit_DmaCommandsComplete :
    (∃ (c : CmdCtx) (s : State) (count : Byte) (jsid : Byte) (elems : List DmaElem) (e : Nat), s.serves SrcClass.j 1537 c = true ∧
      BitVec.toNat jsid < 16 ∧ foreignJs c (BitVec.toNat jsid) = false ∧ elems.length = BitVec.toNat count ∧ 0 < BitVec.toNat count ∧
      BitVec.toNat count ≤ 64 ∧ elems.any badElem = false ∧ ((List.flatMap (elemRanges (BitVec.toNat jsid)) elems).all fun r => s.pagesFree
      c r.fst r.snd.fst r.snd.snd) = true ∧ s.dram.ok = true ∧ s.pickEngine = some e) ∧
    (∃ (c : CmdCtx) (s : State) (eng : Byte) (lseq : U32) (l : DmaList) (r : List DmaList), BitVec.toNat eng < 16 ∧ s.lists (BitVec.toNat
      eng) = l :: r ∧ l.suspended = true ∧ (∀ (x : DmaList), x ∈ l :: r → x.lseq = lseq → foreignJs c x.jsid = false) ∧ l.lseq = lseq ∧
      s.serves SrcClass.j 1538 c = true) ∧
    (∃ (c : CmdCtx) (s : State) (eng : Byte) (lseq : U32) (l : DmaList) (r : List DmaList), BitVec.toNat eng < 16 ∧ s.lists (BitVec.toNat
      eng) = l :: r ∧ l.suspended = true ∧ (∀ (x : DmaList), x ∈ l :: r → x.lseq = lseq → foreignJs c x.jsid = false) ∧ l.lseq = lseq ∧
      s.serves SrcClass.j 1539 c = true) ∧
    (∃ (c : CmdCtx) (s : State) (eng : Byte), s.serves SrcClass.j 1540 c = true ∧ BitVec.toNat eng < 16) :=
  ⟨⟨tCtx, tS, 1, 0, [tEl], 0, by rfl, by decide, by rfl, by rfl, by decide, by decide, by rfl, by rfl, by rfl, by rfl⟩,
   ⟨tCtx, { tS with dma := [(0, [{ tList with suspended := true }])] }, 0, 0, { tList with suspended := true }, [], by decide, by rfl, by
     rfl, by decide, by rfl, by rfl⟩,
   ⟨tCtx, { tS with dma := [(0, [{ tList with suspended := true }])] }, 0, 0, { tList with suspended := true }, [], by decide, by rfl, by
     rfl, by decide, by rfl, by rfl⟩,
   ⟨tCtx, tS, 0, by rfl, by decide⟩⟩

theorem wit_KeyCommandsComplete :
    (∃ (c : CmdCtx) (kix : Byte) (s : State), s.serves SrcClass.p 1793 c = true ∧ 0 < BitVec.toNat kix ∧ BitVec.toNat kix ≤ 63 ∧ (s.slot
      (BitVec.toNat kix)).st = SlotSt.empty ∧ (s.slot (BitVec.toNat kix)).shadow = none ∧ s.boundNotRotating + 1 ≤ s.emptySlots) ∧
    (∃ (c : CmdCtx) (kix : Byte) (jsid : Byte) (s : State) (flags : Byte), s.serves SrcClass.h 1794 c = true ∧ BitVec.toNat jsid ≤ 15 ∧ 0 <
      BitVec.toNat kix ∧ BitVec.toNat kix ≤ 63 ∧ BitVec.toNat flags ≤ 1 ∧ (s.slot (BitVec.toNat kix)).st = SlotSt.loaded ∧ s.hasLeaf
      (BitVec.toNat jsid) = false) ∧
    (∃ (c : CmdCtx) (jsid : Byte) (s : State), s.serves SrcClass.h 1795 c = true ∧ BitVec.toNat jsid ≤ 15 ∧ (s.binding (BitVec.toNat
      jsid)).isSome = true ∧ s.hasLeaf (BitVec.toNat jsid) = false ∧ (∀ (p : Nat), p < 4 → (s.part p).st = PState.empty ∨ (s.part p).jsid ≠
      BitVec.toNat jsid)) ∧
    (∃ (c : CmdCtx) (kix : Byte) (s : State), s.serves SrcClass.p 1796 c = true ∧ 0 < BitVec.toNat kix ∧ BitVec.toNat kix ≤ 63 ∧ (s.slot
      (BitVec.toNat kix)).st = SlotSt.loaded ∧ s.retirable (BitVec.toNat kix) = true) ∧
    (∃ (c : CmdCtx) (kix : Byte) (jsid : Byte) (s : State) (b : Binding), s.serves SrcClass.p 1797 c = true ∧ BitVec.toNat jsid ≤ 15 ∧ 0 <
      BitVec.toNat kix ∧ BitVec.toNat kix ≤ 63 ∧ s.binding (BitVec.toNat jsid) = some b ∧ b.rot = none ∧ (s.slot (BitVec.toNat kix)).st =
      SlotSt.loaded ∧ s.slotBound (BitVec.toNat kix) = false ∧ s.blocker 9 (BitVec.toNat jsid) = none) ∧
    (∃ (c : CmdCtx) (s : State), s.serves SrcClass.a 1798 c = true) :=
  ⟨⟨tCtx, 63, tS, by rfl, by decide, by decide, by rfl, by rfl, by decide⟩,
   ⟨tCtx, 1, 15, { tS with keys := { slots := [(1, { st := .loaded })] } }, 0, by rfl, by decide, by decide, by decide, by decide, by rfl,
     by rfl⟩,
   ⟨tCtx, 0, { tS with keys := { binds := [(0, some { kix := 1, dbg := false, rot := none })] } }, by rfl, by decide, by rfl, by rfl, by
     decide⟩,
   ⟨tCtx, 1, { tS with keys := { slots := [(1, { st := .loaded })] } }, by rfl, by decide, by decide, by rfl, by rfl⟩,
   ⟨tCtx, 2, 0, { tS with keys := { slots := [(2, { st := .loaded })], binds := [(0, some { kix := 1, dbg := false, rot := none })] } },
     { kix := 1, dbg := false, rot := none }, by rfl, by decide, by decide, by decide, by rfl, by rfl, by rfl, by rfl, by rfl⟩,
   ⟨tCtx, tS, by rfl⟩⟩

theorem wit_LaneCommandsComplete :
    (∃ (c : CmdCtx) (lid : Byte) (s : State), BitVec.toNat lid < 144 ∧ s.linkHeld (linkOf (BitVec.toNat lid)) = false ∧ s.serves SrcClass.a
      2049 c = true) ∧
    (∃ (c : CmdCtx) (lid : Byte) (s : State) (op : Byte), BitVec.toNat lid < 144 ∧ s.linkHeld (linkOf (BitVec.toNat lid)) = false ∧ s.serves
      SrcClass.p 2050 c = true ∧ BitVec.toNat op ≤ 2 ∧ (op = 0 ∨ BitVec.toNat lid < 128) ∧ (s.lane (BitVec.toNat lid)).st ≠ LaneSt.down) ∧
    (∃ (c : CmdCtx) (lid : Byte) (s : State), BitVec.toNat lid < 144 ∧ s.linkHeld (linkOf (BitVec.toNat lid)) = false ∧ s.servesLate
      SrcClass.p 2051 c = true ∧ BitVec.toNat lid < 136 ∧ s.linkBusy (linkOf (BitVec.toNat lid)) = false ∧ s.blocker 4 (linkOf (BitVec.toNat
      lid)) = none) ∧
    (∃ (c : CmdCtx) (lid : Byte) (s : State) (k : Nat), BitVec.toNat lid < 144 ∧ s.linkHeld (linkOf (BitVec.toNat lid)) = false ∧
      s.servesLate SrcClass.p 2051 c = true ∧ BitVec.toNat lid = 136 + k ∧ k ≠ s.upLink ∧ s.blocker 4 (17 + k) = none ∧ (k = 0 ∨ k = 7 ∨
      (s.lane (136 + k)).st = LaneSt.down)) ∧
    (∃ (c : CmdCtx) (lid : Byte) (s : State) (k : Nat) (a : U16), BitVec.toNat lid < 144 ∧ s.linkHeld (linkOf (BitVec.toNat lid)) = false ∧
      s.servesLate SrcClass.p 2051 c = true ∧ BitVec.toNat lid = 136 + k ∧ k ≠ s.upLink ∧ s.blocker 4 (17 + k) = none ∧ k ≠ 0 ∧ k ≠ 7 ∧
      (s.lane (136 + k)).st ≠ LaneSt.down ∧ (s.link k).child = some a) ∧
    (∃ (c : CmdCtx) (lid : Byte) (s : State) (link : Byte) (width : Byte), BitVec.toNat lid < 144 ∧ s.linkHeld (linkOf (BitVec.toNat lid)) =
      false ∧ s.servesLate SrcClass.p 2052 c = true ∧ BitVec.toNat link ≤ 16 ∧ s.linkHeld (BitVec.toNat link) = false ∧ 0 < BitVec.toNat
      width ∧ BitVec.toNat width ≤ 4 ∧ (∀ (n : Nat), n ∈ linkLanes (BitVec.toNat link) → (s.lane n).st ≠ LaneSt.active) ∧ (BitVec.toNat link
      < 16 → ∀ (p : Nat), p < 4 → (s.part p).st = PState.running → natBit (s.part p).pmask (BitVec.toNat link) = false) ∧ s.linkBusy
      (BitVec.toNat link) = false ∧ s.blocker 5 (BitVec.toNat link) = none) ∧
    (∃ (c : CmdCtx) (lid : Byte) (s : State) (gen : Byte) (chk : Byte), BitVec.toNat lid < 144 ∧ s.linkHeld (linkOf (BitVec.toNat lid)) =
      false ∧ s.serves SrcClass.p 2053 c = true ∧ BitVec.toNat gen ≤ 3 ∧ BitVec.toNat chk ≤ 3 ∧ ¬(gen = 0 ∧ chk = 0) ∧ (s.lane (BitVec.toNat
      lid)).st = LaneSt.ready ∧ s.blocker 4 (linkOf (BitVec.toNat lid)) = none) ∧
    (∃ (c : CmdCtx) (lid : Byte) (s : State) (gen : Byte) (chk : Byte), BitVec.toNat lid < 144 ∧ s.linkHeld (linkOf (BitVec.toNat lid)) =
      false ∧ s.serves SrcClass.p 2053 c = true ∧ BitVec.toNat gen ≤ 3 ∧ BitVec.toNat chk ≤ 3 ∧ ¬(gen = 0 ∧ chk = 0) ∧ (s.lane (BitVec.toNat
      lid)).st = LaneSt.pattern) ∧
    (∃ (c : CmdCtx) (lid : Byte) (s : State), BitVec.toNat lid < 144 ∧ s.linkHeld (linkOf (BitVec.toNat lid)) = false ∧ s.serves SrcClass.p
      2053 c = true ∧ (s.lane (BitVec.toNat lid)).st = LaneSt.pattern) ∧
    (∃ (c : CmdCtx) (lid : Byte) (s : State) (len : Byte) (pos : Byte) (at_ : Byte) (step : U64), BitVec.toNat lid < 144 ∧ s.linkHeld
      (linkOf (BitVec.toNat lid)) = false ∧ s.serves SrcClass.p 2054 c = true ∧ 0 < BitVec.toNat len ∧ BitVec.toNat len ≤ 64 ∧ BitVec.toNat
      pos < (if 136 ≤ BitVec.toNat lid then 10 else 80) ∧ (at_ = 0 ∨ at_ = 1 ∧ s.cnt ≤ BitVec.toNat step) ∧ (s.lane (BitVec.toNat
      lid)).transmits = true) ∧
    (∃ (c : CmdCtx) (lid : Byte) (s : State) (set : Byte), BitVec.toNat lid < 144 ∧ s.linkHeld (linkOf (BitVec.toNat lid)) = false ∧
      s.serves SrcClass.p 2055 c = true ∧ BitVec.toNat lid < 136 ∧ BitVec.toNat set ≤ 3 ∧ ((s.lane (BitVec.toNat lid)).st = LaneSt.ready ∨
      (s.lane (BitVec.toNat lid)).st = LaneSt.sleep ∨ (s.lane (BitVec.toNat lid)).st = LaneSt.down ∨ (s.lane (BitVec.toNat lid)).st =
      LaneSt.off)) :=
  ⟨⟨tCtx, 0, tS, by decide, by rfl, by rfl⟩,
   ⟨tCtx, 127, tS, 0, by decide, by rfl, by rfl, by decide, by decide, by decide⟩,
   ⟨tCtx, 0, tS, by decide, by rfl, by rfl, by decide, by rfl, by rfl⟩,
   ⟨tCtx, 137, { tS with lanes := [(137, { st := .down })] }, 1, by decide, by rfl, by rfl, by rfl, by decide, by rfl, by decide⟩,
   ⟨tCtx, 137, { tS with links := [(1, { child := some 2 })] }, 1, 2, by decide, by rfl, by rfl, by rfl, by decide, by rfl, by decide, by
     decide, by decide, by rfl⟩,
   ⟨tCtx, 0, tS, 16, 4, by decide, by rfl, by rfl, by decide, by rfl, by decide, by decide, by decide, by decide, by rfl, by rfl⟩,
   ⟨tCtx, 0, { tS with lanes := [(0, { st := .ready })] }, 3, 0, by decide, by rfl, by rfl, by decide, by decide, by decide, by rfl, by rfl⟩,
   ⟨tCtx, 0, { tS with lanes := [(0, { st := .pattern })] }, 3, 0, by decide, by rfl, by rfl, by decide, by decide, by decide, by rfl⟩,
   ⟨tCtx, 0, { tS with lanes := [(0, { st := .pattern })] }, by decide, by rfl, by rfl, by rfl⟩,
   ⟨tCtx, 0, { tS with lanes := [(0, { st := .ready })] }, 64, 79, 1, 100000, by decide, by rfl, by rfl, by decide, by decide, by decide, by
     decide, by rfl⟩,
   ⟨tCtx, 0, { tS with lanes := [(0, { st := .ready })] }, 0, by decide, by rfl, by rfl, by decide, by decide, by decide⟩⟩

theorem wit_PendantCommandsComplete :
    (∃ (c : CmdCtx) (s : State) (mode : Byte) (flags : Byte), s.pend.pair = none ∧ s.servesLate SrcClass.p 2305 c = true ∧ s.linkHeld 16 =
      false ∧ BitVec.toNat mode ≤ 2 ∧ BitVec.toNat flags ≤ 1 ∧ s.pend.st = PairSt.unpaired ∧ (mode = 0 ∨ BitVec.getLsbD s.arm.addr 0 =
      s.ident.pendSide) ∧ s.pend.peerMode = none) ∧
    (∃ (c : CmdCtx) (s : State) (mode : Byte) (flags : Byte), s.pend.pair = none ∧ s.servesLate SrcClass.p 2305 c = true ∧ s.linkHeld 16 =
      false ∧ BitVec.toNat mode ≤ 2 ∧ BitVec.toNat flags ≤ 1 ∧ s.pend.st = PairSt.unpaired ∧ (mode = 0 ∨ BitVec.getLsbD s.arm.addr 0 =
      s.ident.pendSide) ∧ s.pend.peerMode = some (BitVec.toNat mode) ∧ (mode = 0 ∨ s.pend.paddr = s.arm.addr ^^^ 1)) ∧
    (∃ (c : CmdCtx) (s : State) (pref : Byte), s.pend.pair = none ∧ s.serves SrcClass.p 2308 c = true ∧ BitVec.toNat pref ≤ 2 ∧ s.paired =
      true) ∧
    (∃ (c : CmdCtx) (s : State), s.pend.pair = none ∧ s.serves SrcClass.p 2309 c = true ∧ s.pend.st = PairSt.fenced ∧ s.side = 1 ∧
      s.pend.noTake = false ∧ (∀ (p : Nat), p ∈ s.runningParts → (s.part p).phase ≠ Phase.stopped)) ∧
    (∃ (c : CmdCtx) (s : State) (p : Nat) (r : List Nat), s.pend.pair = none ∧ s.serves SrcClass.p 2309 c = true ∧ s.pend.st = PairSt.fenced
      ∧ s.side = 1 ∧ s.pend.noTake = false ∧ List.filter (fun p => decide ((s.part p).phase = Phase.stopped)) s.runningParts = p :: r) ∧
    (∃ (c : CmdCtx) (s : State) (part : Byte), s.pend.pair = none ∧ s.serves SrcClass.p 2310 c = true ∧ BitVec.toNat part < 4 ∧ s.blocker 7
      0 = none ∧ (s.pend.st = PairSt.solo ∨ s.pend.st = PairSt.standby) ∧ s.pend.role = 1 ∧ s.pairChanging 2310 = false ∧ ((s.part
      (BitVec.toNat part)).st = PState.running ∨ c.eframe = 0) ∧ resyncCond true s = none) ∧
    (∃ (c : CmdCtx) (s : State), s.pend.pair = none ∧ s.serves SrcClass.p 2312 c = true ∧ s.mayDissolve = true ∧ (∀ (d : CmdCtx),
      s.pend.dissolve ≠ some (some d))) ∧
    (∃ (c : CmdCtx) (s : State), s.pend.pair = none ∧ s.serves SrcClass.a 2313 c = true) :=
  ⟨⟨tCtx, tS, 0, 0, by rfl, by rfl, by rfl, by decide, by decide, by rfl, by decide, by rfl⟩,
   ⟨tCtx, { tS with pend := { peerMode := some 0 } }, 0, 0, by rfl, by rfl, by rfl, by decide, by decide, by rfl, by decide, by rfl, by
     decide⟩,
   ⟨tCtx, { tS with parts := [(0, { st := .running })], pend := { st := .lockstep } }, 2, by rfl, by rfl, by decide, by rfl⟩,
   ⟨tCtx, { tS with pend := { st := .fenced }, ident := { pendSide := true } }, by rfl, by rfl, by rfl, by rfl, by rfl, by decide⟩,
   ⟨tCtx, { tS with pend := { st := .fenced }, ident := { pendSide := true }, parts := [(0, { st := .running, phase := .stopped })] }, 0,
     [], by rfl, by rfl, by rfl, by rfl, by rfl, by rfl⟩,
   ⟨tCtx, { tS with pend := { st := .solo, role := 1, peerRole := 2, hbAt := 1000000000000, report := { usable := 10000000 } } }, 0, by rfl,
     by rfl, by decide, by rfl, by decide, by rfl, by rfl, by decide, by rfl⟩,
   ⟨tCtx, { tS with pend := { st := .independent } }, by rfl, by rfl, by rfl, by simp⟩,
   ⟨tCtx, tS, by rfl, by rfl⟩⟩

theorem wit_PairChangesComplete :
    (∃ (c : CmdCtx) (i : Instr) (op : Nat) (side : Nat) (part : Byte) (s : State) (d : ModeChange), s.serves SrcClass.p op c = true ∧
      s.pend.pair = none ∧ s.pairChanging op = false ∧ BitVec.toNat part < 4 ∧ side < 2 ∧ (s.pend.st = PairSt.lockstep ∨ s.pend.st =
      PairSt.standby) ∧ (i = Instr.pendantMode c 2 (BitVec.ofNat 8 side) part 0 ∧ op = 2306 ∧ s.pend.st = PairSt.lockstep ∨ i =
      Instr.pendantRetire c (BitVec.ofNat 8 side) part 0 ∧ op = 2307 ∧ (s.pend.st = PairSt.lockstep ∨ ¬(s.pend.role = 1 ↔ side = s.side)) ∨
      i = Instr.pendantHandover c part 0 ∧ op = 2311 ∧ side = s.side ∧ s.pend.st = PairSt.lockstep) ∧ (((s.part (BitVec.toNat
      part)).executes = true ∨ c.eframe = 0) ∧ List.find? (fun d => decide (d.opcode = op) && decide (d.arg = side)) (s.part (BitVec.toNat
      part)).changes = some d)) ∧
    (∃ (c : CmdCtx) (i : Instr) (op : Nat) (side : Nat) (part : Byte) (s : State), s.serves SrcClass.p op c = true ∧ s.pend.pair = none ∧
      s.pairChanging op = false ∧ BitVec.toNat part < 4 ∧ side < 2 ∧ (s.pend.st = PairSt.lockstep ∨ s.pend.st = PairSt.standby) ∧ (i =
      Instr.pendantMode c 2 (BitVec.ofNat 8 side) part 0 ∧ op = 2306 ∧ s.pend.st = PairSt.lockstep ∨ i = Instr.pendantRetire c (BitVec.ofNat
      8 side) part 0 ∧ op = 2307 ∧ (s.pend.st = PairSt.lockstep ∨ ¬(s.pend.role = 1 ↔ side = s.side)) ∨ i = Instr.pendantHandover c part 0 ∧
      op = 2311 ∧ side = s.side ∧ s.pend.st = PairSt.lockstep) ∧ List.find? (fun d => decide (d.opcode = op) && decide (d.arg = side))
      (s.part (BitVec.toNat part)).changes = none ∧ (s.part (BitVec.toNat part)).executes = true) ∧
    (∃ (c : CmdCtx) (i : Instr) (op : Nat) (side : Nat) (part : Byte) (s : State), s.serves SrcClass.p op c = true ∧ s.pend.pair = none ∧
      s.pairChanging op = false ∧ BitVec.toNat part < 4 ∧ side < 2 ∧ (s.pend.st = PairSt.lockstep ∨ s.pend.st = PairSt.standby) ∧ (i =
      Instr.pendantMode c 2 (BitVec.ofNat 8 side) part 0 ∧ op = 2306 ∧ s.pend.st = PairSt.lockstep ∨ i = Instr.pendantRetire c (BitVec.ofNat
      8 side) part 0 ∧ op = 2307 ∧ (s.pend.st = PairSt.lockstep ∨ ¬(s.pend.role = 1 ↔ side = s.side)) ∨ i = Instr.pendantHandover c part 0 ∧
      op = 2311 ∧ side = s.side ∧ s.pend.st = PairSt.lockstep) ∧ List.find? (fun d => decide (d.opcode = op) && decide (d.arg = side))
      (s.part (BitVec.toNat part)).changes = none ∧ (s.part (BitVec.toNat part)).executes = false ∧ c.eframe = 0) ∧
    (∃ (c : CmdCtx) (i : Instr) (op : Nat) (side : Nat) (part : Byte) (s : State), s.serves SrcClass.p op c = true ∧ s.pend.pair = none ∧
      s.pairChanging op = false ∧ BitVec.toNat part < 4 ∧ side < 2 ∧ (s.pend.st = PairSt.lockstep ∨ s.pend.st = PairSt.standby) ∧ (i =
      Instr.pendantMode c 1 255 part 0 ∧ op = 2306 ∧ side = 0 ∨ i = Instr.pendantRetire c (BitVec.ofNat 8 side) part 0 ∧ op = 2307 ∧
      (s.pend.role = 1 ↔ side = s.side) ∨ i = Instr.pendantHandover c part 0 ∧ op = 2311 ∧ side = if s.pend.role = 1 then s.side else 1 -
      s.side) ∧ s.pend.st = PairSt.standby ∧ ((s.part (BitVec.toNat part)).executes = true ∨ c.eframe = 0) ∧ s.pend.role = 1 ∧ s.blocker 7 0
      = none ∧ (op = 2311 → resyncCond false s = none)) ∧
    (∃ (c : CmdCtx) (i : Instr) (op : Nat) (side : Nat) (part : Byte) (s : State), s.serves SrcClass.p op c = true ∧ s.pend.pair = none ∧
      s.pairChanging op = false ∧ BitVec.toNat part < 4 ∧ side < 2 ∧ (s.pend.st = PairSt.lockstep ∨ s.pend.st = PairSt.standby) ∧ (i =
      Instr.pendantMode c 1 255 part 0 ∧ op = 2306 ∧ side = 0 ∨ i = Instr.pendantRetire c (BitVec.ofNat 8 side) part 0 ∧ op = 2307 ∧
      (s.pend.role = 1 ↔ side = s.side) ∨ i = Instr.pendantHandover c part 0 ∧ op = 2311 ∧ side = if s.pend.role = 1 then s.side else 1 -
      s.side) ∧ s.pend.st = PairSt.standby ∧ ((s.part (BitVec.toNat part)).executes = true ∨ c.eframe = 0) ∧ s.pend.role ≠ 1) :=
  ⟨⟨tCtx, .pendantMode tCtx 2 0 0 0, 0x0902, 0, 0, { tS with parts := [(0, { changes := [tChange] })], pend := { st := .lockstep } },
     tChange, by rfl, by rfl, by rfl, by decide, by decide, by decide, .inl ⟨rfl, rfl, rfl⟩, by decide⟩,
   ⟨tCtx, .pendantMode tCtx 2 0 0 0, 0x0902, 0, 0, { tS with parts := [(0, { st := .running })], pend := { st := .lockstep } }, by rfl, by
     rfl, by rfl, by decide, by decide, by decide, .inl ⟨rfl, rfl, rfl⟩, by rfl, by rfl⟩,
   ⟨tCtx, .pendantMode tCtx 2 0 0 0, 0x0902, 0, 0, { tS with pend := { st := .lockstep } }, by rfl, by rfl, by rfl, by decide, by decide, by
     decide, .inl ⟨rfl, rfl, rfl⟩, by rfl, by rfl, by rfl⟩,
   ⟨tCtx, .pendantMode tCtx 1 255 0 0, 0x0902, 0, 0, { tS with pend := { st := .standby, role := 1 } }, by rfl, by rfl, by rfl, by decide,
     by decide, by decide, .inl ⟨rfl, rfl, rfl⟩, by rfl, by decide, by rfl, by rfl, by decide⟩,
   ⟨tCtx, .pendantMode tCtx 1 255 0 0, 0x0902, 0, 0, { tS with pend := { st := .standby } }, by rfl, by rfl, by rfl, by decide, by decide,
     by decide, .inl ⟨rfl, rfl, rfl⟩, by rfl, by decide, by decide⟩⟩

theorem wit_MaintTimeCommandsComplete :
    (∃ (c : CmdCtx) (s : State), s.serves SrcClass.p 2561 c = true ∧ s.blocker 1 0 = none) ∧
    (∃ (c : CmdCtx) (s : State), s.serves SrcClass.p 2561 c = true ∧ s.blocker 8 0 = none) ∧
    (∃ (c : CmdCtx) (s : State) (mask : U64), s.serves SrcClass.p 2561 c = true ∧ s.dram.ok = true ∧ 0 < BitVec.toNat mask ∧ BitVec.toNat
      mask < 256 ∧ (∀ (o : Nat), o ∈ onesOf (BitVec.toNat mask) 8 → s.blocker 2 o = none)) ∧
    (∃ (c : CmdCtx) (s : State) (act : Byte), s.serves SrcClass.p 2562 c = true ∧ (act = 1 ∨ act = 2 ∨ act = 8) ∧ List.filter (fun h =>
      decide (h.act = BitVec.toNat act) && h.ctx.isSome) s.maint ≠ []) ∧
    (∃ (c : CmdCtx) (s : State), s.serves SrcClass.a 2563 c = true) ∧
    (∃ (c : CmdCtx) (s : State), s.serves SrcClass.a 2817 c = true) ∧
    (∃ (c : CmdCtx) (s : State), s.serves SrcClass.p 2818 c = true) ∧
    (∃ (c : CmdCtx) (s : State), s.serves SrcClass.a 2819 c = true) ∧
    (∃ (c : CmdCtx) (s : State), s.serves SrcClass.a 2819 c = true ∧ classRefusal SrcClass.p 2819 c.src.toNat s = none) ∧
    (∃ (c : CmdCtx) (s : State) (link : Byte), s.servesLate SrcClass.p 2820 c = true ∧ s.arm.upCtx = none ∧ (link = 0 ∨ link = 7) ∧
      BitVec.toNat link = s.upLink) ∧
    (∃ (c : CmdCtx) (s : State) (link : Byte), s.servesLate SrcClass.p 2820 c = true ∧ s.arm.upCtx = none ∧ (link = 0 ∨ link = 7) ∧
      BitVec.toNat link ≠ s.upLink ∧ s.altReady = true) :=
  ⟨⟨tCtx, tS, by rfl, by rfl⟩,
   ⟨tCtx, tS, by rfl, by rfl⟩,
   ⟨tCtx, tS, 255, by rfl, by rfl, by decide, by decide, by decide⟩,
   ⟨tCtx, { tS with maint := [{ act := 8, obj := 0, tag := 0, src := 0, progress := 0, ctx := some tCtx }] }, 8, by rfl, by decide, by
     decide⟩,
   ⟨tCtx, tS, by rfl⟩,
   ⟨tCtx, tS, by rfl⟩,
   ⟨tCtx, tS, by rfl⟩,
   ⟨tCtx, tS, by rfl⟩,
   ⟨tCtx, tS, by rfl, by rfl⟩,
   ⟨tCtx, tS, 0, by rfl, by rfl, by decide, by rfl⟩,
   ⟨tCtx, { tS with clk := { tS.clk with s7 := { ppmOk := true, at_ := some 1000000000000 } }, links := [(7, { sync := true })] }, 7, by
     rfl, by rfl, by decide, by decide, by rfl⟩⟩

theorem wit_TrustCommandsComplete :
    (∃ (c : CmdCtx) (s : State) (mask : Byte), s.serves SrcClass.a 3073 c = true ∧ s.plinth.ready1 = true ∧ mask ≠ 0) ∧
    (∃ (c : CmdCtx) (s : State) (offset : U32), s.serves SrcClass.a 3074 c = true ∧ s.plinth.ready1 = true ∧ BitVec.toNat offset <
      s.trust.log.length) ∧
    (∃ (c : CmdCtx) (s : State), s.serves SrcClass.a 3079 c = true) ∧
    (∃ (c : CmdCtx) (s : State) (offset : U32) (n : U32) (bytes : List Byte), foreignUpdate c s = none ∧ s.serves SrcClass.p 3075 c = true ∧
      s.fw.verify = none ∧ bytes.length = BitVec.toNat n ∧ 0 < BitVec.toNat n ∧ BitVec.toNat n ≤ 4072 ∧ BitVec.toNat offset + BitVec.toNat n
      ≤ slotBytes ∧ s.fw.stageCode ≠ 3 ∧ s.fw.trial = false ∧ offset ≠ 0 ∧ s.fw.spare = 1 ∧ BitVec.toNat offset = s.fw.stageLen) ∧
    (∃ (c : CmdCtx) (s : State) (n : U32) (bytes : List Byte), foreignUpdate c s = none ∧ s.serves SrcClass.p 3075 c = true ∧ s.fw.verify =
      none ∧ bytes.length = BitVec.toNat n ∧ 0 < BitVec.toNat n ∧ BitVec.toNat n ≤ 4072 ∧ s.fw.stageCode ≠ 3 ∧ s.fw.trial = false) ∧
    (∃ (c : CmdCtx) (s : State), foreignUpdate c s = none ∧ s.servesLate SrcClass.p 3076 c = true ∧ s.fw.verify = none ∧ s.fw.stageCode = 1) ∧
    (∃ (c : CmdCtx) (s : State), foreignUpdate c s = none ∧ s.serves SrcClass.p 3077 c = true ∧ s.fw.verify = none ∧ s.fw.stageCode = 2) ∧
    (∃ (c : CmdCtx) (s : State), foreignUpdate c s = none ∧ s.serves SrcClass.p 3078 c = true ∧ (s.fw.trial = true ∨ s.fw.slot ≠ s.fw.conf)) :=
  ⟨⟨tCtx, tS, 1, by rfl, by rfl, by decide⟩,
   ⟨tCtx, { tS with trust := { log := [1] } }, 0, by rfl, by rfl, by decide⟩,
   ⟨tCtx, tS, by rfl⟩,
   ⟨tCtx, { tS with fw := { stB := 1, stageLen := 16 } }, 16, 1, [1], by rfl, by rfl, by rfl, by rfl, by decide, by decide, by decide, by
     decide, by rfl, by decide, by rfl, by rfl⟩,
   ⟨tCtx, tS, 4072, List.replicate 4072 0, by rfl, by rfl, by rfl, by rw [List.length_replicate]; rfl, by decide, by decide, by decide, by
     rfl⟩,
   ⟨tCtx, { tS with fw := { stB := 1 } }, by rfl, by rfl, by rfl, by rfl⟩,
   ⟨tCtx, { tS with fw := { stB := 2, update := true } }, by rfl, by rfl, by rfl, by rfl⟩,
   ⟨tCtx, { tS with fw := { trial := true } }, by rfl, by rfl, by decide⟩⟩

theorem wit_DebugCommandsComplete :
    (∃ (c : CmdCtx) (s : State), s.serves SrcClass.f 3329 c = true ∧ s.clk.halt = none ∧ haltBarred s = false) ∧
    (∃ (c : CmdCtx) (s : State) (h : U64), s.serves SrcClass.f 3329 c = true ∧ s.clk.halt = some h) ∧
    (∃ (c : CmdCtx) (s : State), s.serves SrcClass.f 3330 c = true ∧ s.clk.halt.isSome = true) ∧
    (∃ (c : CmdCtx) (s : State) (space : Byte) (addr : U64) (n : U32) (pl : DbgPlace), s.serves SrcClass.f 3331 c = true ∧ s.clk.halt.isSome
      = true ∧ BitVec.toNat space < 3 ∧ 0 < BitVec.toNat n ∧ BitVec.toNat n ≤ 4060 ∧ dbgPlace (takeAccepted c s) (BitVec.toNat space)
      (BitVec.toNat addr) = some pl ∧ BitVec.toNat n % pl.size = 0 ∧ BitVec.toNat n / pl.size ≤ pl.left) ∧
    (∃ (c : CmdCtx) (s : State) (space : Byte) (addr : U64) (n : U32) (pl : DbgPlace) (w : List Byte), s.serves SrcClass.f 3331 c = true ∧
      s.clk.halt.isSome = true ∧ BitVec.toNat space < 3 ∧ 0 < BitVec.toNat n ∧ BitVec.toNat n ≤ 4060 ∧ dbgPlace (takeAccepted c s)
      (BitVec.toNat space) (BitVec.toNat addr) = some pl ∧ BitVec.toNat n % pl.size = 0 ∧ BitVec.toNat n / pl.size ≤ pl.left ∧ w.length =
      BitVec.toNat n ∧ (List.range (BitVec.toNat n / pl.size)).all pl.writable = true) ∧
    (∃ (c : CmdCtx) (s : State) (n : U32) (w : List Byte), s.serves SrcClass.f 3331 c = true ∧ 0 < BitVec.toNat n ∧ BitVec.toNat n ≤ 4060 ∧
      w.length = BitVec.toNat n) ∧
    (∃ (c : CmdCtx) (s : State) (addr : U64) (n : U32), s.serves SrcClass.f 3331 c = true ∧ 0 < BitVec.toNat n ∧ BitVec.toNat n ≤ 4060 ∧
      s.dram.ok = true ∧ (∀ (i : Nat), i < BitVec.toNat n → (s.storedByte (BitVec.toNat addr + i)).isSome = true)) ∧
    (∃ (c : CmdCtx) (s : State) (jsid : Byte) (addr : U64) (n : U32) (b : List Byte) (s1 : State), s.serves SrcClass.f 3331 c = true ∧
      s.dram.ok = true ∧ 0 < BitVec.toNat n ∧ BitVec.toNat n ≤ 4060 ∧ BitVec.toNat jsid < 16 ∧ BitVec.toNat addr + BitVec.toNat n ≤ 2 ^ 48 ∧
      s.pagesFree c (BitVec.toNat jsid) (BitVec.toNat addr) (BitVec.toNat n) = true ∧ (∀ (b : Binding), s.binding (BitVec.toNat jsid) = some
      b → b.dbg = true) ∧ firstFault (takeAccepted c s) (BitVec.toNat jsid) (BitVec.toNat addr) (BitVec.toNat n) false = none ∧ readJob
      ((takeAccepted c s).access (BitVec.toNat jsid) 15) (BitVec.toNat addr) (BitVec.toNat n) (takeAccepted c s) = (b, none, s1)) ∧
    (∃ (c : CmdCtx) (s : State) (jsid : Byte) (addr : U64) (n : U32) (w : List Byte) (s1 : State), s.serves SrcClass.f 3331 c = true ∧
      s.dram.ok = true ∧ 0 < BitVec.toNat n ∧ BitVec.toNat n ≤ 4060 ∧ BitVec.toNat jsid < 16 ∧ BitVec.toNat addr + BitVec.toNat n ≤ 2 ^ 48 ∧
      s.pagesFree c (BitVec.toNat jsid) (BitVec.toNat addr) (BitVec.toNat n) = true ∧ (∀ (b : Binding), s.binding (BitVec.toNat jsid) = some
      b → b.dbg = true) ∧ w.length = BitVec.toNat n ∧ firstFault (takeAccepted c s) (BitVec.toNat jsid) (BitVec.toNat addr) (BitVec.toNat n)
      true = none ∧ writeJob ((takeAccepted c s).access (BitVec.toNat jsid) 15) (BitVec.toNat addr) w (takeAccepted c s) = (none, s1)) ∧
    (∃ (c : CmdCtx) (s : State) (part : Byte), s.serves SrcClass.j 3332 c = true ∧ s.mayName c (BitVec.toNat part) = true ∧ (s.part
      (BitVec.toNat part)).st = PState.running ∧ s.blocker 6 (BitVec.toNat part) = none ∧ (s.part (BitVec.toNat part)).switch = none) ∧
    (∃ (s : State) (p : Nat) (m : FrameNo) (t : Nat) (b : Nat) (d : Nat), (s.part p).pausedAt = some (m, t, b, d)) ∧
    (∃ (s : State) (p : Nat) (q : Pause) (l : List Pause), (s.part p).pausedAt = none ∧ (s.part p).pauses = q :: l) ∧
    (∃ (s : State) (p : Nat), (s.part p).pausedAt = none ∧ (s.part p).pauses = [] ∧ s.isRoot p = true) ∧
    (∃ (s : State) (p : Nat), (s.part p).pausedAt = none ∧ (s.part p).pauses = [] ∧ s.isRoot p = false) ∧
    (∃ (c : CmdCtx) (s : State) (part : Byte) (clk : Byte) (step : U64), s.serves SrcClass.j 3332 c = true ∧ s.mayName c (BitVec.toNat part)
      = true ∧ (s.part (BitVec.toNat part)).st = PState.running ∧ s.blocker 6 (BitVec.toNat part) = none ∧ (s.part (BitVec.toNat
      part)).switch = none ∧ BitVec.toNat clk < 40 ∧ c.eframe = 0 ∧ s.cnt ≤ BitVec.toNat step) ∧
    (∃ (c : CmdCtx) (s : State) (part : Byte) (jaddr : U64) (len : U64) (r : CastRec) (e : Nat), s.serves SrcClass.j 3333 c = true ∧
      s.mayName c (BitVec.toNat part) = true ∧ (s.part (BitVec.toNat part)).shadow = some r ∧ r.finished = true ∧ r.len ≤ BitVec.toNat len ∧
      rangeOk (BitVec.toNat jaddr) (BitVec.toNat len) = true ∧ s.dram.ok = true ∧ s.pagesFree c (s.part (BitVec.toNat part)).jsid
      (BitVec.toNat jaddr) (BitVec.toNat len) = true ∧ s.blocker 6 (BitVec.toNat part) = none ∧ s.pickEngine = some e) ∧
    (∃ (c : CmdCtx) (s : State) (offset : U64) (n : U32) (b : List Byte), s.serves SrcClass.j 3334 c = true ∧ 0 < BitVec.toNat n ∧
      BitVec.toNat n ≤ 4072 ∧ BitVec.toNat offset / 2 ^ 32 < 4 ∧ foreignPart c (BitVec.toNat offset / 2 ^ 32) s = false ∧ s.anyShadow = true
      ∧ s.shadowRead (BitVec.toNat offset) (BitVec.toNat n) = ShadowRead.data b) ∧
    (∃ (c : CmdCtx) (s : State) (part : Byte) (jaddr : U64) (len : U64) (e : Nat), s.serves SrcClass.j 3335 c = true ∧ s.mayName c
      (BitVec.toNat part) = true ∧ (s.part (BitVec.toNat part)).st = PState.loaded ∧ (s.part (BitVec.toNat part)).restoreCtx = none ∧
      castLen (s.part (BitVec.toNat part)).diePairs.length ≤ BitVec.toNat len ∧ rangeOk (BitVec.toNat jaddr) (BitVec.toNat len) = true ∧
      s.dram.ok = true ∧ s.pagesFree c (s.part (BitVec.toNat part)).jsid (BitVec.toNat jaddr) (BitVec.toNat len) = true ∧ s.blocker 6
      (BitVec.toNat part) = none ∧ s.pickEngine = some e) :=
  ⟨⟨tDbg, tF, by rfl, by rfl, by rfl⟩,
   ⟨tDbg, { tF with clk := { tS.clk with halt := some 0 } }, 0, by rfl, by rfl⟩,
   ⟨tDbg, { tF with clk := { tS.clk with halt := some 0 } }, by rfl, by rfl⟩,
   ⟨tDbg, { tF with clk := { tS.clk with halt := some 0 } }, 0, 0, 12, _, by rfl, by rfl, by decide, by decide, by decide, by rfl, by rfl,
     by decide⟩,
   ⟨tDbg, { tF with clk := { tS.clk with halt := some 0 } }, 0, 0, 12, _, zeros 12, by rfl, by rfl, by decide, by decide, by decide, by rfl,
     by rfl, by decide, by rfl, by rfl⟩,
   ⟨tDbg, { tF with clk := { tS.clk with halt := some 0 } }, 1, [0], by rfl, by decide, by decide, by rfl⟩,
   ⟨tDbg, tF, 0, 1, by rfl, by decide, by decide, by rfl, by decide⟩,
   ⟨tDbg,
     { tF with trans := { l4 := [(0, 1)] }, dram := { tS.dram with mem := [(0, 1), (1, 16), (4096, 7)] }, keys := { slots := [(1, { st := .loaded })], binds := [(0, some { kix := 1, dbg := true, rot := none })] } },
     0, 0, 1, _, _, by rfl, by rfl, by decide, by decide, by decide, by decide, by rfl, by decide, by rfl, by rfl⟩,
   ⟨tDbg,
     { tF with trans := { l4 := [(0, 1)] }, dram := { tS.dram with mem := [(0, 1), (1, 16), (4096, 7)] }, keys := { slots := [(1, { st := .loaded })], binds := [(0, some { kix := 1, dbg := true, rot := none })] } },
     0, 0, 1, [0], _, by rfl, by rfl, by decide, by decide, by decide, by decide, by rfl, by decide, by rfl, by rfl, by rfl⟩,
   ⟨tCtx, { tS with parts := [(0, { st := .running, pausedAt := some (0, 0, 0, 0) })] }, 0, by rfl, by rfl, by rfl, by rfl, by rfl⟩,
   ⟨{ tF with parts := [(0, { st := .running, pausedAt := some (0, 0, 0, 0) })] }, 0, 0, 0, 0, 0, by rfl⟩,
   ⟨{ tF with parts := [(0, { st := .running, pauses := [{ m := 1, d := 0, owner := .brk }] })] }, 0, { m := 1, d := 0, owner := .brk }, [],
     by rfl, by rfl⟩,
   ⟨tF, 0, by rfl, by rfl, by rfl⟩,
   ⟨{ tF with parts := [(0, { st := .running, root := 1 })] }, 0, by rfl, by rfl, by rfl⟩,
   ⟨tCtx, { tS with parts := [(0, { st := .running })] }, 0, 0, 1000000, by rfl, by rfl, by rfl, by rfl, by rfl, by decide, by rfl, by
     decide⟩,
   ⟨tCtx, { tS with parts := [(0, { st := .running, shadow := some tRec })] }, 0, 0, 200, tRec, 0, by rfl, by rfl, by rfl, by rfl, by
     decide, by rfl, by rfl, by rfl, by rfl, by rfl⟩,
   ⟨tCtx, { tS with parts := [(0, { shadow := some tRec })] }, 0, 4, _, by rfl, by decide, by decide, by decide, by rfl, by rfl, by rfl⟩,
   ⟨tCtx, { tS with parts := [(0, { st := .loaded })] }, 0, 0, 4096, 0, by rfl, by rfl, by rfl, by rfl, by decide, by rfl, by rfl, by rfl,
     by rfl, by rfl⟩⟩

theorem wit_LogCommandsComplete :
    (∃ (c : CmdCtx) (s : State) (first : Byte) (n : Byte) (flags : Byte), s.serves SrcClass.a 3585 c = true ∧ 0 < BitVec.toNat n ∧
      BitVec.toNat n ≤ 42 ∧ BitVec.toNat first + BitVec.toNat n ≤ 59 ∧ (flags = 0 ∨ flags = 1 ∨ flags = 3)) ∧
    (∃ (c : CmdCtx) (s : State) (sub : Byte) (unit : U16) (l : List (Nat × Nat)), s.serves SrcClass.a 3586 c = true ∧ BitVec.toNat sub < 16
      ∧ directory s (BitVec.toNat sub) (BitVec.toNat unit) = some l) ∧
    (∃ (c : CmdCtx) (s : State) (n : Byte), s.serves SrcClass.a 3587 c = true ∧ 0 < BitVec.toNat n ∧ BitVec.toNat n ≤ 84) ∧
    (∃ (c : CmdCtx) (s : State) (n : Byte), s.serves SrcClass.p 3588 c = true ∧ 0 < BitVec.toNat n ∧ BitVec.toNat n ≤ 127) :=
  ⟨⟨tCtx, tS, 17, 42, 0, by rfl, by decide, by decide, by decide, by decide⟩,
   ⟨tCtx, tS, 0, 0, _, by rfl, by decide, by rfl⟩,
   ⟨tCtx, tS, 84, by rfl, by decide, by decide⟩,
   ⟨tCtx, tS, 127, by rfl, by decide, by decide⟩⟩

theorem wit_ArmatureCommandsComplete :
    (∃ (c : CmdCtx) (s : State), s.serves SrcClass.l 3841 c = true) ∧
    (∃ (c : CmdCtx) (s : State) (addr : U16) (level : Byte), s.serves SrcClass.l 3842 c = true ∧ BitVec.toNat level = levelOf (BitVec.toNat
      addr) ∧ (s.arm.assigned = false ∨ s.arm.addr = addr)) ∧
    (∃ (c : CmdCtx) (s : State) (part : Byte) (flags : Byte), s.serves SrcClass.p 3843 c = true ∧ s.mayName c (BitVec.toNat part) = true ∧
      BitVec.toNat flags ≤ 1 ∧ ((s.part (BitVec.toNat part)).st = PState.empty ∨ (s.part (BitVec.toNat part)).st = PState.loaded)) ∧
    (∃ (c : CmdCtx) (s : State) (part : Byte), s.servesLate SrcClass.a 3844 c = true ∧ BitVec.toNat part < 4 ∧ (c.eframe = 0 ∨ (s.part
      (BitVec.toNat part)).st = PState.running)) ∧
    (∃ (c : CmdCtx) (s : State), s.serves SrcClass.a 3845 c = true) ∧
    (∃ (c : CmdCtx) (s : State) (flags : Byte), s.serves SrcClass.p 3846 c = true ∧ BitVec.toNat flags ≤ 1) :=
  ⟨⟨tUp, tS, by rfl⟩,
   ⟨tUp, tS, 0, 1, by rfl, by rfl, by decide⟩,
   ⟨tCtx, tS, 0, 0, by rfl, by rfl, by decide, by decide⟩,
   ⟨tCtx, tS, 0, by rfl, by decide, by decide⟩,
   ⟨tCtx, tS, by rfl⟩,
   ⟨tCtx, tS, 0, by rfl, by decide⟩⟩

theorem wit_RingRegistersComplete :
    (∃ (fn : Fin 16) (value : U32) (s : State), s.reaches ↑fn = true ∧ (s.fn ↑fn).enable = true ∧ (BitVec.setWidth 16 value).toNat < (s.fn
      ↑fn).cmd.size) ∧
    (∃ (fn : Fin 16) (value : U32) (s : State), s.reaches ↑fn = true ∧ (s.fn ↑fn).enable = true ∧ (s.fn ↑fn).cmd.size ≤ (BitVec.setWidth 16
      value).toNat) ∧
    (∃ (fn : Fin 16) (value : U32) (s : State), s.reaches ↑fn = true ∧ (s.fn ↑fn).enable = true ∧ (s.fn ↑fn).rpl.returns (BitVec.setWidth 16
      value).toNat = true) ∧
    (∃ (fn : Fin 16) (value : U32) (s : State), s.reaches ↑fn = true ∧ (s.fn ↑fn).enable = true ∧ (s.fn ↑fn).rpl.returns (BitVec.setWidth 16
      value).toNat = false) ∧
    (∃ (fn : Fin 16) (value : U32) (s : State), s.reaches ↑fn = true ∧ (s.fn ↑fn).enable = true ∧ (s.fn ↑fn).evt.returns (BitVec.setWidth 16
      value).toNat = true) ∧
    (∃ (fn : Fin 16) (value : U32) (s : State), s.reaches ↑fn = true ∧ (s.fn ↑fn).enable = true ∧ (s.fn ↑fn).evt.returns (BitVec.setWidth 16
      value).toNat = false) ∧
    (∃ (fn : Fin 16) (s : State), s.reaches ↑fn = true ∧ (s.fn ↑fn).enable = true) ∧
    (∃ (fn : Fin 16) (s : State), s.reaches ↑fn = true ∧ (s.fn ↑fn).enable = false) ∧
    (∃ (fn : Fin 16) (s : State), s.reaches ↑fn = true ∧ (s.fn ↑fn).enable = false) ∧
    (∃ (fn : Fin 16) (s : State), s.reaches ↑fn = true ∧ (s.fn ↑fn).enable = false) ∧
    (∃ (fn : Fin 16) (s : State), s.reaches ↑fn = true ∧ (s.fn ↑fn).enable = false) ∧
    (∃ (fn : Fin 16) (s : State), s.reaches ↑fn = true ∧ (s.fn ↑fn).cfgBad = false) ∧
    (∃ (fn : Fin 16) (s : State), s.reaches ↑fn = true ∧ (s.fn ↑fn).cfgBad = true) ∧
    (∃ (fn : Fin 16) (s : State), s.reaches ↑fn = true) ∧
    (∃ (fn : Fin 16) (s : State), (s.fn ↑fn).enable = true) :=
  ⟨⟨0, 127, { tS with fns := [(0, { enable := true, cmd := { log2 := 7 } })] }, by rfl, by rfl, by decide⟩,
   ⟨0, 128, { tS with fns := [(0, { enable := true, cmd := { log2 := 7 } })] }, by rfl, by rfl, by decide⟩,
   ⟨0, 0, { tS with fns := [(0, { enable := true, rpl := { log2 := 7 } })] }, by rfl, by rfl, by rfl⟩,
   ⟨0, 1, { tS with fns := [(0, { enable := true, rpl := { log2 := 7 } })] }, by rfl, by rfl, by rfl⟩,
   ⟨0, 127, { tS with fns := [(0, { enable := true, evt := { log2 := 7, tail := 127 } })] }, by rfl, by rfl, by rfl⟩,
   ⟨0, 128, { tS with fns := [(0, { enable := true, evt := { log2 := 7 } })] }, by rfl, by rfl, by rfl⟩,
   ⟨0, { tS with fns := [(0, { enable := true })] }, by rfl, by rfl⟩,
   ⟨0, tS, by rfl, by rfl⟩,
   ⟨0, tS, by rfl, by rfl⟩,
   ⟨0, tS, by rfl, by rfl⟩,
   ⟨0, tS, by rfl, by rfl⟩,
   ⟨0, { tS with fns := [(0, { cmd := { log2 := 7 }, rpl := { log2 := 7, base := 0x10000 }, evt := { log2 := 16, base := 0x20000 } })] }, by
     rfl, by rfl⟩,
   ⟨0, tS, by rfl, by rfl⟩,
   ⟨0, { tS with fns := [(0, { cmd := { log2 := 7 }, rpl := { log2 := 7, base := 0x10000 }, evt := { log2 := 16, base := 0x20000 } })] }, by
     rfl⟩,
   ⟨0, { tS with fns := [(0, { enable := true })] }, by rfl⟩⟩

theorem wit_HostRegistersComplete :
    (∃ (fn : Fin 16) (s : State), s.reaches ↑fn = true) ∧
    (∃ (fn : Fin 16) (s : State), s.reaches ↑fn = true) ∧
    (∃ (fn : Fin 16) (s : State) (v : Fin 4), s.reaches ↑fn = true ∧ ↑v < 3 ∧ ((s.fn ↑fn).vec ↑v).armed = true ∧ ((s.fn ↑fn).vec ↑v).armAt +
      usSteps (BitVec.toNat (s.fn ↑fn).modDelay) ≤ s.clk.now) ∧
    (∃ (fn : Fin 16) (s : State) (v : Fin 4), s.reaches ↑fn = true ∧ ↑v < 3) ∧
    (∃ (fn : Fin 16) (s : State), s.reaches ↑fn = true) ∧
    (∃ (fn : Fin 16) (s : State), s.reaches ↑fn = true) ∧
    (∃ (fn : Fin 16) (value : U32) (s : State), s.reaches ↑fn = true ∧ ↑fn = 0 ∧ BitVec.getLsbD value 0 = true) ∧
    (∃ (fn : Fin 16) (value : U32) (s : State), s.reaches ↑fn = true ∧ ↑fn = 0 ∧ BitVec.getLsbD value 0 = false) ∧
    (∃ (fn : Fin 16) (s : State), s.reaches ↑fn = true ∧ ↑fn = 0 ∧ s.arm.obsLocked = false) ∧
    (∃ (fn : Fin 16) (s : State), s.reaches ↑fn = true ∧ ↑fn = 0 ∧ s.arm.obsLocked = true) ∧
    (∃ (fn : Fin 16) (s : State), s.reaches ↑fn = true ∧ ↑fn = 0) ∧
    (∃ (fn : Fin 16) (s : State), s.reaches ↑fn = true) ∧
    (∃ (fn : Fin 16) (s : State), s.reaches ↑fn = true) ∧
    (∃ (fn : Fin 16) (s : State), s.reaches ↑fn = true) ∧
    (∃ (fn : Fin 16) (s : State) (devicePage : Bool) (be : BitVec 4), s.reaches ↑fn = true ∧ (be ≠ 15 ∨ devicePage = true ∧ ↑fn ≠ 0)) :=
  ⟨⟨0, tS, by rfl⟩,
   ⟨0, tS, by rfl⟩,
   ⟨0, { tS with fns := [(0, { v0 := { armed := true } })] }, 0, by rfl, by decide, by rfl, by decide⟩,
   ⟨0, tS, 2, by rfl, by decide⟩,
   ⟨0, tS, by rfl⟩,
   ⟨0, tS, by rfl⟩,
   ⟨0, 1, tS, by rfl, by rfl, by rfl⟩,
   ⟨0, 0, tS, by rfl, by rfl, by rfl⟩,
   ⟨0, tS, by rfl, by rfl, by rfl⟩,
   ⟨0, { tS with arm := { obsLocked := true } }, by rfl, by rfl, by rfl⟩,
   ⟨0, tS, by rfl, by rfl⟩,
   ⟨0, tS, by rfl⟩,
   ⟨0, tS, by rfl⟩,
   ⟨0, tS, by rfl⟩,
   ⟨0, tS, false, 7, by rfl, by decide⟩⟩

theorem wit_FunctionResetsComplete :
    (∃ (fn : Fin 16) (s : State), 0 < ↑fn ∧ s.fnExists ↑fn = true) ∧
    (∃ (s : State), domCond Domain.base s ≠ DomCond.off) ∧
    (∃ (s : State), domCond Domain.base s ≠ DomCond.off) ∧
    (∃ (fn : Fin 16) (s : State), domCond Domain.base s ≠ DomCond.off ∧ s.fnExists ↑fn = true) ∧
    (∃ (fn : Fin 16) (s : State), domCond Domain.base s ≠ DomCond.off ∧ s.fnExists ↑fn = true) ∧
    (∃ (s : State), domCond Domain.base s ≠ DomCond.off) :=
  ⟨⟨2, { tS with arm := { vfEnable := true, numVfs := 2 } }, by decide, by rfl⟩,
   ⟨tS, by decide⟩,
   ⟨tS, by decide⟩,
   ⟨0, tS, by decide, by rfl⟩,
   ⟨0, tS, by decide, by rfl⟩,
   ⟨tS, by decide⟩⟩

theorem wit_TransportsComplete :
    (∃ (s : State) (fn : Fin 16), (drainSources s).turn ≠ some ↑fn) ∧
    (∃ (s : State) (fn : Fin 16) (slots : List Byte), (drainSources s).turn = some ↑fn ∧ 64 ≤ slots.length ∧ pktLength slots < 16) ∧
    (∃ (s : State) (fn : Fin 16) (slots : List Byte), (drainSources s).turn = some ↑fn ∧ 64 ≤ slots.length ∧ 4096 < pktLength slots) ∧
    (∃ (s : State) (fn : Fin 16) (slots : List Byte) (st : Nat) (d : List Byte), (drainSources s).turn = some ↑fn ∧ 64 ≤ slots.length ∧ 16 ≤
      pktLength slots ∧ pktLength slots ≤ 4096 ∧ pktLength slots ≤ slots.length ∧ (pktLength slots + 63) / 64 ≤ ((drainSources s).fn
      ↑fn).cmd.filled ∧ packetRefusal (List.take (pktLength slots) slots) ((drainSources s).pathOwn slots) ((fun k => advanceHead (↑fn) k
      (touchDomain Domain.base (drainSources s))) ((pktLength slots + 63) / 64)) = some (st, d)) ∧
    (∃ (s : State) (fn : Fin 16) (slots : List Byte) (i : Instr), (drainSources s).turn = some ↑fn ∧ 64 ≤ slots.length ∧ 16 ≤ pktLength
      slots ∧ pktLength slots ≤ 4096 ∧ pktLength slots ≤ slots.length ∧ (pktLength slots + 63) / 64 ≤ ((drainSources s).fn ↑fn).cmd.filled ∧
      packetRefusal (List.take (pktLength slots) slots) ((drainSources s).pathOwn slots) ((fun k => advanceHead (↑fn) k (touchDomain
      Domain.base (drainSources s))) ((pktLength slots + 63) / 64)) = none ∧ spell
      { src := BitVec.ofNat 8 ↑fn, tag := pktTag (List.take (pktLength slots) slots), accSeq := (drainSources s).plinth.accSeq, eframe := pktEframe (List.take (pktLength slots) slots) }
      (((fun k => advanceHead (↑fn) k (touchDomain Domain.base (drainSources s))) ((pktLength slots + 63) / 64)).linkOffset ↑fn) (pktOp
      (List.take (pktLength slots) slots)) (pktPayload (List.take (pktLength slots) slots)) = some i) ∧
    (∃ (s : State) (k : Fin 8) (chars : List LinkChar) (b : List Byte), (s.link ↑k).sync = true ∧ removeInserted 0 chars = List.map
      LinkChar.data b ∧ 16 ≤ b.length ∧ b.length ≤ 4096 ∧ answerClass b = false ∧ (↑k = 0 ∨ ↑k = 7) ∧ ↑k = s.upLink ∧ ((s.setLink k.val
      { s.link k.val with skipping := false }).link k.val).rxBuf.length < 8) ∧
    (∃ (s : State) (k : Fin 8) (chars : List LinkChar) (b : List Byte), (s.link ↑k).sync = true ∧ removeInserted 0 chars = List.map
      LinkChar.data b ∧ 16 ≤ b.length ∧ b.length ≤ 4096 ∧ answerClass b = false ∧ (↑k = 0 ∨ ↑k = 7) ∧ ↑k = s.upLink ∧ 8 ≤ ((s.setLink k.val
      { s.link k.val with skipping := false }).link k.val).rxBuf.length) ∧
    (∃ (s : State) (k : Fin 8) (chars : List LinkChar) (b : List Byte), (s.link ↑k).sync = true ∧ removeInserted 0 chars = List.map
      LinkChar.data b ∧ 16 ≤ b.length ∧ b.length ≤ 4096 ∧ answerClass b = false ∧ ↑k ≠ s.upLink ∧ pktOp b ≠ 2051) ∧
    (∃ (s : State) (k : Fin 8) (chars : List LinkChar) (b : List Byte), (s.link ↑k).sync = true ∧ removeInserted 0 chars = List.map
      LinkChar.data b ∧ 16 ≤ b.length ∧ b.length ≤ 4096 ∧ answerClass b = true ∧ (↑k = 0 ∨ ↑k = 7)) ∧
    (∃ (s : State) (k : Fin 8) (chars : List LinkChar) (b : List Byte), (s.link ↑k).sync = true ∧ removeInserted 0 chars = List.map
      LinkChar.data b ∧ 16 ≤ b.length ∧ b.length ≤ 4096 ∧ answerClass b = true ∧ ↑k ≠ 0 ∧ ↑k ≠ 7) ∧
    (∃ (s : State) (k : Fin 8) (chars : List LinkChar) (b : List Byte), (s.link ↑k).sync = true ∧ removeInserted 0 chars = List.map
      LinkChar.data b ∧ b.length < 16) ∧
    (∃ (s : State) (k : Fin 8) (chars : List LinkChar) (b : List Byte), (s.link ↑k).sync = true ∧ removeInserted 0 chars = List.map
      LinkChar.data b ∧ 4096 < b.length) ∧
    (∃ (s : State) (k : Fin 8), (s.link ↑k).sync = true) ∧
    (∃ (s : State) (k : Fin 8), (s.link ↑k).sync = true) ∧
    (∃ (s : State) (k : Fin 8), (s.link ↑k).sync = true ∧ (s.link ↑k).skipping = false) ∧
    (∃ (s : State) (k : Fin 8), (s.link ↑k).sync = false) ∧
    (∃ (s : State) (k : Fin 8) (bytes : List Byte), 0 < ↑k ∧ ↑k < 7 ∧ 16 ≤ bytes.length ∧ 32768 ≤ fieldAt bytes 0 2 ∧ fieldAt bytes 0 2 ≠
      36609 ∧ fieldAt bytes 0 2 ≠ 36610 ∧ s.awaits (↑k) (fieldAt bytes 2 2) = false ∧ ((if fieldAt bytes 0 2 < 49152 then s.setLink (↑k)
      (have __src := s.link ↑k;
      { sync := __src.sync, up := __src.up, rxBuf := __src.rxBuf, unanswered := (s.link ↑k).unanswered - 1, ownQ := __src.ownQ, skipping := __src.skipping, child := __src.child, adopted := __src.adopted, childBic := __src.childBic, childEquiv := __src.childEquiv, fetch := __src.fetch, childSerial := __src.childSerial, evSeq := __src.evSeq, lastMark := __src.lastMark, peerServo := __src.peerServo, retrain := __src.retrain, ownRetrain := __src.ownRetrain, rxPrev := __src.rxPrev, align := __src.align, commas := __src.commas, chars := __src.chars, errs := __src.errs, rxPos := __src.rxPos, txPos := __src.txPos, txChars := __src.txChars, txSeqs := __src.txSeqs, txSeq := __src.txSeq, sinceComma := __src.sinceComma })
      else s).link ↑k).fetch = none ∧ ((if fieldAt bytes 0 2 < 49152 then s.setLink (↑k) (have __src := s.link ↑k;
      { sync := __src.sync, up := __src.up, rxBuf := __src.rxBuf, unanswered := (s.link ↑k).unanswered - 1, ownQ := __src.ownQ, skipping := __src.skipping, child := __src.child, adopted := __src.adopted, childBic := __src.childBic, childEquiv := __src.childEquiv, fetch := __src.fetch, childSerial := __src.childSerial, evSeq := __src.evSeq, lastMark := __src.lastMark, peerServo := __src.peerServo, retrain := __src.retrain, ownRetrain := __src.ownRetrain, rxPrev := __src.rxPrev, align := __src.align, commas := __src.commas, chars := __src.chars, errs := __src.errs, rxPos := __src.rxPos, txPos := __src.txPos, txChars := __src.txChars, txSeqs := __src.txSeqs, txSeq := __src.txSeq, sinceComma := __src.sinceComma })
      else s).link ↑k).retrain = none) ∧
    (∃ (s : State) (fn : Fin 16), s.fnExists ↑fn = true ∧ domCond Domain.plinth s = DomCond.on) ∧
    (∃ (s : State) (fn : Fin 16) (n : Nat) (ev : Bool) (b : List Byte) (r : List (List Byte)), s.fnExists ↑fn = true ∧ domCond Domain.plinth
      s = DomCond.on ∧ (s.fn n).back ev = b :: r ∧ (s.fn n).fits ev b = true) :=
  ⟨⟨tS, 0, by decide⟩,
   ⟨{ tS with fns := [(0, { enable := true, qactive := true, cmd := { log2 := 7, tail := 1 } })] }, 0, zeros 64, by rfl, by decide, by
     decide⟩,
   ⟨{ tS with fns := [(0, { enable := true, qactive := true, cmd := { log2 := 7, tail := 1 } })] }, 0, [0, 0, 0, 0, 1, 16] ++ zeros 58, by
     rfl, by decide, by decide⟩,
   ⟨{ tS with fns := [(0, { enable := true, qactive := true, cmd := { log2 := 7, tail := 1 } })] }, 0, [0xEE, 0xEE, 1, 0, 16, 0, 0, 0] ++
     zeros 56, _, _, by rfl, by decide, by decide, by decide, by decide, by decide, by rfl⟩,
   ⟨{ tS with fns := [(0, { enable := true, qactive := true, cmd := { log2 := 7, tail := 1 } })] }, 0, [1, 1, 1, 0, 16, 0, 0, 0] ++ zeros
     56, _, by rfl, by decide, by decide, by decide, by decide, by decide, by rfl, by rfl⟩,
   ⟨{ tS with links := [(0, { sync := true })] }, 0, (zeros 16).map .data, zeros 16, by rfl, by rfl, by decide, by decide, by rfl, by
     decide, by rfl, by decide⟩,
   ⟨{ tS with links := [(0, { sync := true, rxBuf := List.replicate 8 [] })] }, 0, (zeros 16).map .data, zeros 16, by rfl, by rfl, by
     decide, by decide, by rfl, by decide, by rfl, by decide⟩,
   ⟨{ tS with links := [(1, { sync := true })] }, 1, (zeros 16).map .data, zeros 16, by rfl, by rfl, by decide, by decide, by rfl, by
     decide, by decide⟩,
   ⟨{ tS with links := [(0, { sync := true })] }, 0, ([0, 0x81] ++ zeros 14).map .data, [0, 0x81] ++ zeros 14, by rfl, by rfl, by decide, by
     decide, by rfl, by decide⟩,
   ⟨{ tS with links := [(1, { sync := true })] }, 1, ([0, 0x81] ++ zeros 14).map .data, [0, 0x81] ++ zeros 14, by rfl, by rfl, by decide, by
     decide, by rfl, by decide, by decide⟩,
   ⟨{ tS with links := [(0, { sync := true })] }, 0, (zeros 15).map .data, zeros 15, by rfl, by rfl, by decide⟩,
   ⟨{ tS with links := [(0, { sync := true })] }, 0, (List.replicate 4097 0).map .data, List.replicate 4097 0, by rfl, by decide +kernel,
     by rw [List.length_replicate]; decide⟩,
   ⟨{ tS with links := [(0, { sync := true })] }, 0, by rfl⟩,
   ⟨{ tS with links := [(0, { sync := true })] }, 0, by rfl⟩,
   ⟨{ tS with links := [(0, { sync := true })] }, 0, by rfl, by rfl⟩,
   ⟨tS, 0, by rfl⟩,
   ⟨tS, 1, [0, 0x80] ++ zeros 14, by decide, by decide, by decide, by decide, by decide, by decide, by rfl, by rfl, by rfl⟩,
   ⟨{ tS with fns := [(0, { backRpl := [zeros 16], enable := true, qactive := true, rpl := { log2 := 7 } })] }, 0, by rfl, by rfl⟩,
   ⟨{ tS with fns := [(0, { backRpl := [zeros 16], enable := true, qactive := true, rpl := { log2 := 7 } })] }, 0, 0, false, zeros 16, [],
     by rfl, by rfl, by rfl, by rfl⟩⟩

theorem wit_DebugPortComplete :
    (∃ (s : State), s.dbgOn = true ∧ s.dbg.busyUntil ≤ s.clk.now ∧ s.arm.obsOpen = true) ∧
    (∃ (s : State), s.dbgOn = true ∧ s.dbg.busyUntil ≤ s.clk.now ∧ s.arm.obsOpen = false) ∧
    (∃ (s : State), s.dbgOn = true ∧ s.dbg.busyUntil ≤ s.clk.now ∧ s.dbg.lockout = none) ∧
    (∃ (s : State), s.dbgOn = true ∧ s.dbg.busyUntil ≤ s.clk.now ∧ s.dbg.lockout = none) ∧
    (∃ (s : State), s.dbgOn = true ∧ s.dbg.busyUntil ≤ s.clk.now ∧ s.dbg.lockout ≠ none) ∧
    (∃ (s : State), s.dbgOn = true ∧ s.dbg.busyUntil ≤ s.clk.now ∧ s.dbg.chal ≠ none ∧ s.dbg.pktIn = []) ∧
    (∃ (s : State) (nonce : BitVec 256) (chid : BitVec 64), s.dbgOn = true ∧ s.dbg.busyUntil ≤ s.clk.now ∧ s.dbg.chal = some (nonce, chid,
      1) ∧ s.dbg.pktIn ≠ [] ∧ s.dbg.overflow = false) ∧
    (∃ (s : State), s.dbgOn = true ∧ s.dbg.busyUntil ≤ s.clk.now) ∧
    (∃ (s : State) (t : Nat), s.dbgOn = true ∧ s.dbg.busyUntil ≤ s.clk.now ∧ s.dbg.lockout = some t ∧ t ≤ s.clk.now) ∧
    (∃ (s : State), s.dbgOn = true ∧ s.dbg.busyUntil ≤ s.clk.now ∧ s.dbg.authWait = false ∧ s.dbg.level ≠ 0) ∧
    (∃ (s : State), s.dbgOn = true ∧ s.dbg.busyUntil ≤ s.clk.now) ∧
    (∃ (s : State), s.dbgOn = true ∧ s.dbg.busyUntil ≤ s.clk.now ∧ s.dbg.pktIn.length ≤ 4092) ∧
    (∃ (s : State) (b : List Byte) (r : List (List Byte)), s.dbgOn = true ∧ s.dbg.busyUntil ≤ s.clk.now ∧ s.dbg.level ≠ 0 ∧ s.dbg.pktOut = b
      :: r ∧ s.dbg.pktPos + 4 < b.length) :=
  ⟨⟨{ tS with arm := { obsOpen := true } }, by rfl, by decide, by rfl⟩,
   ⟨tS, by rfl, by decide, by rfl⟩,
   ⟨tS, by rfl, by decide, by rfl⟩,
   ⟨tS, by rfl, by decide, by rfl⟩,
   ⟨{ tS with dbg := { lockout := some 0 } }, by rfl, by decide, by decide⟩,
   ⟨{ tS with dbg := { chal := some (0, 0, 1) } }, by rfl, by decide, by decide, by rfl⟩,
   ⟨{ tS with dbg := { chal := some (0, 0, 1), pktIn := [1] } }, 0, 0, by rfl, by decide, by rfl, by decide, by rfl⟩,
   ⟨tS, by rfl, by decide⟩,
   ⟨{ tS with dbg := { lockout := some 5 } }, 5, by rfl, by decide, by rfl, by decide⟩,
   ⟨{ tS with dbg := { level := 1 } }, by rfl, by decide, by rfl, by decide⟩,
   ⟨tS, by rfl, by decide⟩,
   ⟨tS, by rfl, by decide, by decide⟩,
   ⟨{ tS with dbg := { level := 1, pktOut := [[1, 2, 3, 4, 5]] } }, [1, 2, 3, 4, 5], [], by rfl, by decide, by decide, by rfl, by decide⟩⟩

theorem wit_DebugAccessComplete :
    (∃ (high : Bool), high = true) ∧
    (∃ (s : State), s.dbg.level ≠ 2) ∧
    (∃ (s : State), s.dbgOn = true) ∧
    (∃ (s : State) (v : Byte), s.dbgOn = true ∧ (v = 1 ∨ v = 2 ∨ v = 16)) ∧
    (∃ (s : State) (v : Byte), s.dbgOn = true ∧ v ≠ 0 ∧ v ≠ 1 ∧ v ≠ 2 ∧ v ≠ 16) ∧
    (∃ (s : State), s.dbgOn = true ∧ s.dbg.level ≠ 0 ∧ s.dbg.vtPins = true ∧ s.dbg.vtTx.length < 64) ∧
    (∃ (s : State), s.dbgOn = true ∧ s.dbg.busyUntil ≤ s.clk.now ∧ s.dbg.level ≠ 0 ∧ s.dbg.vtPins = false ∧ s.dbg.vtTx.length < 64) ∧
    (∃ (s : State) (b : Byte) (r : List Byte), s.dbgOn = true ∧ s.dbg.busyUntil ≤ s.clk.now ∧ s.dbg.level ≠ 0 ∧ s.dbg.vtPins = false ∧
      s.dbg.vtRx = b :: r) ∧
    (∃ (s : State) (b : List Byte), s.dbgOn = true ∧ s.dbg.busyUntil ≤ s.clk.now ∧ s.dbg.level ≠ 0 ∧ (modDbg (fun d =>
      { d with err := false, busyUntil := s.clk.now + (Config.freeValue 11 s.free).toNat % 1601 }) (s.draw 11).2).shadowRead
      s.dbg.shAddr.toNat 4 = ShadowRead.data b) ∧
    (∃ (s : State), s.dbgOn = true ∧ s.dbg.busyUntil ≤ s.clk.now ∧ s.dbg.ir = 16 ∧ s.dbg.level ≠ 0) ∧
    (∃ (s : State), s.dbgOn = true ∧ s.dbg.busyUntil ≤ s.clk.now ∧ s.dbg.ir = 16) :=
  ⟨⟨true, by rfl⟩,
   ⟨tS, by decide⟩,
   ⟨tS, by rfl⟩,
   ⟨tS, 16, by rfl, by decide⟩,
   ⟨tS, 3, by rfl, by decide, by decide, by decide, by decide⟩,
   ⟨{ tS with dbg := { level := 1 } }, by rfl, by decide, by rfl, by decide⟩,
   ⟨{ tS with dbg := { level := 1, vtPins := false } }, by rfl, by decide, by decide, by rfl, by decide⟩,
   ⟨{ tS with dbg := { level := 1, vtPins := false, vtRx := [7] } }, 7, [], by rfl, by decide, by decide, by rfl, by rfl⟩,
   ⟨{ tS with parts := [(0, { shadow := some tRec })], dbg := { level := 1 } }, _, by rfl, by decide, by decide, by rfl⟩,
   ⟨{ tS with dbg := { level := 1, ir := 0x10 } }, by rfl, by decide, by rfl, by decide⟩,
   ⟨{ tS with dbg := { ir := 0x10 } }, by rfl, by decide, by rfl⟩⟩

theorem wit_BootEventsComplete :
    (∃ (s : State), s.pwr.st ≠ PwrState.deep ∧ s.pwr.st ≠ PwrState.watch) ∧
    (∃ (s : State), s.clk.oscStart.isSome = true ∧ s.pwr.trans = none) ∧
    (∃ (s : State), s.pwr.rails = 255 ∧ s.clk.oscStart = none) ∧
    (∃ (s : State), s.pwr.trans = none ∧ s.pwr.st ≠ PwrState.off) ∧
    (∃ (s : State), s.plinth.bootDue = true ∧ s.clk.oscStart = none ∧ s.plinth.rstCause ≠ 4) ∧
    (∃ (s : State), s.plinth.bootDue = false ∧ s.plinth.selfTest = false ∧ s.plinth.recovery = false) ∧
    (∃ (s : State), s.fw.trial = true ∧ s.plinth.bootDue = false ∧ s.plinth.selfTest = false ∧ s.plinth.bootAt + usSteps 5000000 ≤
      s.clk.now) ∧
    (∃ (s : State), s.pwr.trans = none ∧ (s.pwr.st = PwrState.deep ∨ s.pwr.st = PwrState.watch ∨ s.pwr.st = PwrState.off)) ∧
    (∃ (s : State) (t : Transition), s.pwr.trans = some t ∧ t.entering = true ∧ (t.target = PwrState.deep ∨ t.target = PwrState.watch ∨
      t.target = PwrState.off)) ∧
    (∃ (s : State) (t : Transition) (k : TStep) (rest : List TStep), s.pwr.trans = some t ∧ t.steps = k :: rest ∧ rest ≠ [] ∧ k ≠
      TStep.rails ∧ t.redirect = none ∧ t.woken = false ∧ s.stepDone t k = true) ∧
    (∃ (s : State) (t : Transition), s.pwr.trans = some t ∧ t.entering = false ∧ t.steps = [TStep.clock] ∧ t.redirect = none ∧ t.ctx = none
      ∧ t.target = PwrState.run) :=
  ⟨⟨tS, by decide, by decide⟩,
   ⟨{ tS with clk := { tS.clk with oscStart := some 0 } }, by rfl, by rfl⟩,
   ⟨{ tS with pwr := { rails := 255 } }, by rfl, by rfl⟩,
   ⟨tS, by rfl, by decide⟩,
   ⟨{ tS with plinth := { ready0 := true } }, by rfl, by rfl, by decide⟩,
   ⟨{ tS with plinth := { bootDue := false } }, by rfl, by rfl, by rfl⟩,
   ⟨{ tS with plinth := { bootDue := false }, fw := { trial := true } }, by rfl, by rfl, by rfl, by decide⟩,
   ⟨{ tS with pwr := { st := .off } }, by rfl, by decide⟩,
   ⟨{ tS with pwr := { trans := some tTr } }, tTr, by rfl, by rfl, by decide⟩,
   ⟨{ tS with pwr := { trans := some { tTr with target := .deep, steps := [.clock, .memory] } } },
     { tTr with target := .deep, steps := [.clock, .memory] }, .clock, [.memory], by rfl, by rfl, by decide, by decide, by rfl, by rfl, by
     rfl⟩,
   ⟨{ tS with pwr := { trans := some { tTr with target := .run, entering := false, steps := [.clock] } } },
     { tTr with target := .run, entering := false, steps := [.clock] }, by rfl, by rfl, by rfl, by rfl, by rfl, by rfl⟩⟩

theorem wit_PowerEventsComplete :
    (∃ (s : State) (d : Domain), onDemand d = true ∧ domCond d s = DomCond.ret) ∧
    (∃ (s : State) (i : Fin 8), s.pwr.railStep.isSome = true ∧ s.pwr.rails.getLsbD ↑i = false ∧ (∀ (j : Nat), j < ↑i → s.pwr.rails.getLsbD j
      = true)) ∧
    (∃ (s : State), s.pwr.railStep.isSome = true ∧ s.pwr.rails = 255) ∧
    (∃ (s : State), s.pwr.railStep.isSome = true) ∧
    (∃ (s : State), s.pwr.railStep.isSome = true ∧ s.pwr.railAt + usSteps 5000 ≤ s.clk.now) ∧
    (∃ (s : State) (m : BitVec 8), s.plinth.ready0 = true ∧ (∀ (i : Nat), i < 8 → (if (m.getLsbD i && s.pwr.rails.getLsbD i) = true then nth
      0 s.pwr.railBad i + 1 else 0) ≠ 10) ∧ m &&& s.pwr.rails ≠ 0) ∧
    (∃ (s : State) (i : Nat) (m : BitVec 8), i < 8 ∧ s.plinth.ready0 = true ∧ m.getLsbD i = true ∧ s.pwr.rails.getLsbD i = true ∧ nth 0
      s.pwr.railBad i = 9) ∧
    (∃ (s : State) (reading : Nat), 110 ≤ reading ∧ s.pwr.st ≠ PwrState.off ∧ s.pwr.alertThermal = false) ∧
    (∃ (s : State) (reading : Nat), 120 ≤ reading ∧ s.pwr.st ≠ PwrState.off) ∧
    (∃ (reading : Nat), reading ≤ 100) ∧
    (∃ (s : State) (l : List (Option U16)) (ok : Bool) (blocks : List Block), s.pwr.st = PwrState.watch ∧ s.pwr.trans = none ∧ s.pwr.wDone <
      s.watchPeriods ∧ watchItem l ok blocks (if ok then setAlertHold false { s with pwr := { s.pwr with wDone := s.watchPeriods } } else
      { s with pwr := { s.pwr with wDone := s.watchPeriods } }) = none) ∧
    (∃ (s : State) (l : List (Option U16)) (ok : Bool) (blocks : List Block) (i : Nat) (v : Option U16), s.pwr.st = PwrState.watch ∧
      s.pwr.trans = none ∧ s.pwr.wDone < s.watchPeriods ∧ watchItem l ok blocks (if ok then setAlertHold false
      { s with pwr := { s.pwr with wDone := s.watchPeriods } } else { s with pwr := { s.pwr with wDone := s.watchPeriods } }) = some (i, v)) ∧
    (∃ (s : State), s.pwr.st ≠ PwrState.watch) :=
  ⟨⟨{ tS with pwr := { dom := .sleep } }, .base, by rfl, by rfl⟩,
   ⟨{ tS with pwr := { railStep := some 0, rails := 0 } }, 0, by rfl, by rfl, by decide⟩,
   ⟨{ tS with pwr := { railStep := some 0 } }, by rfl, by rfl⟩,
   ⟨{ tS with pwr := { railStep := some 0 } }, by rfl⟩,
   ⟨{ tS with pwr := { railStep := some 0 } }, by rfl, by decide⟩,
   ⟨tS, 1, by rfl, by decide, by decide⟩,
   ⟨{ tS with pwr := { railBad := [9] } }, 0, 1, by decide, by rfl, by rfl, by rfl, by rfl⟩,
   ⟨tS, 110, by decide, by decide, by rfl⟩,
   ⟨tS, 120, by decide, by decide⟩,
   ⟨100, by decide⟩,
   ⟨{ tS with pwr := { st := .watch } }, [], true, [], by rfl, by rfl, by decide, by rfl⟩,
   ⟨{ tS with pwr := { st := .watch, wChk := 1 } }, [], false, [], 8, none, by rfl, by rfl, by decide, by rfl⟩,
   ⟨tS, by decide⟩⟩

theorem wit_ClockEventsComplete :
    (∃ (s : State), (s.link s.upLink).sync = true ∧ s.clk.coast = false) ∧
    (∃ (s : State), s.clk.pll = false ∧ (s.link s.upLink).up = true ∧ s.pllOn = true ∧ s.clk.counterOk = true) ∧
    (∃ (s : State), s.clk.pll = false ∧ (s.link s.upLink).up = true ∧ s.pllOn = true ∧ s.clk.counterOk = false) ∧
    (∃ (s : State) (k : Fin 8), domCond Domain.plinth s = DomCond.on ∧ (s.lane (136 + ↑k)).st ≠ LaneSt.off ∧ (s.lane (136 + ↑k)).st ≠
      LaneSt.down) ∧
    (∃ (s : State) (k : Fin 8), (s.link ↑k).sync = true) ∧
    (∃ (s : State), s.clk.coast = false ∧ domCond Domain.plinth s = DomCond.on ∧ s.pwr.dom = PwrState.sleep) ∧
    (∃ (s : State), s.clk.coast = false ∧ domCond Domain.plinth s = DomCond.on ∧ s.pwr.dom ≠ PwrState.sleep ∧ s.clk.pll = false) ∧
    (∃ (s : State), s.clk.coast = false ∧ domCond Domain.plinth s = DomCond.on ∧ s.pwr.dom ≠ PwrState.sleep ∧ s.clk.pll = true ∧ s.altReady
      = false) ∧
    (∃ (s : State), s.clk.coast = false ∧ domCond Domain.plinth s = DomCond.on ∧ s.pwr.dom ≠ PwrState.sleep ∧ s.clk.pll = true ∧ s.altReady
      = true) ∧
    (∃ (s : State) (k : Fin 8), s.clk.coast = true ∧ (↑k = 0 ∨ ↑k = 7)) ∧
    (∃ (s : State), (s.link 0).up = true ∧ (s.link 7).up = false) ∧
    (∃ (s : State), (s.link 0).up = false ∧ (s.link 7).up = true) ∧
    (∃ (k : Fin 8) (q : SyncSeq) (t1 : U64), 0 < ↑k ∧ ↑k < 7 ∧ q.coded = false ∧ crc8 (timeSyncContent 1 (BitVec.toNat q.seq) (BitVec.toNat
      t1) 0 0 0) = BitVec.toNat q.crc) ∧
    (∃ (q : SyncSeq) (t1 : U64), q.coded = false ∧ crc8 (timeSyncContent 1 (BitVec.toNat q.seq) (BitVec.toNat t1) 0 0 0) ≠ BitVec.toNat
      q.crc) ∧
    (∃ (q : SyncSeq), q.coded = true) ∧
    (∃ (s : State) (k : Fin 8) (q : SyncSeq) (ps : Byte) (t2 : U64) (t3 : U64) (st : U64) (t1 : Nat), (↑k = 0 ∨ ↑k = 7) ∧ (s.syncOf ↑k).t1 =
      some t1 ∧ (s.syncOf ↑k).seq = q.seq ∧ q.coded = false ∧ crc8 (timeSyncContent 2 (BitVec.toNat q.seq) (BitVec.toNat t2) (BitVec.toNat
      t3) (BitVec.toNat st) (BitVec.toNat ps)) = BitVec.toNat q.crc) ∧
    (∃ (s : State) (k : Fin 8) (q : SyncSeq) (ps : Byte) (t2 : U64) (t3 : U64) (st : U64) (t1 : Nat), (↑k = 0 ∨ ↑k = 7) ∧ (s.syncOf ↑k).t1 =
      some t1 ∧ (s.syncOf ↑k).seq = q.seq ∧ q.coded = false ∧ crc8 (timeSyncContent 2 (BitVec.toNat q.seq) (BitVec.toNat t2) (BitVec.toNat
      t3) (BitVec.toNat st) (BitVec.toNat ps)) = BitVec.toNat q.crc ∧ ↑k ≠ s.upLink) ∧
    (∃ (s : State), s.clk.lastResp + usSteps 16000 ≤ s.clk.now ∧ s.clk.servo = Servo.locked) ∧
    (∃ (s : State), s.arm.assigned = true ∧ s.plinth.ready0 = true ∧ domCond Domain.plinth s = DomCond.on) ∧
    (∃ (s : State) (k : Nat), (s.link k).up = false) :=
  ⟨⟨{ tS with links := [(0, { sync := true, up := true })] }, by rfl, by rfl⟩,
   ⟨{ tS with clk := { tS.clk with pll := false }, links := [(0, { up := true })] }, by rfl, by rfl, by rfl, by rfl⟩,
   ⟨{ tS with clk := { tS.clk with pll := false, counterOk := false }, links := [(0, { up := true })] }, by rfl, by rfl, by rfl, by rfl⟩,
   ⟨{ tS with lanes := [(137, { st := .hunt })] }, 1, by rfl, by decide, by decide⟩,
   ⟨{ tS with links := [(0, { sync := true })] }, 0, by rfl⟩,
   ⟨{ tS with pwr := { dom := .sleep } }, by rfl, by rfl, by rfl⟩,
   ⟨{ tS with clk := { tS.clk with pll := false } }, by rfl, by rfl, by decide, by rfl⟩,
   ⟨tS, by rfl, by rfl, by decide, by rfl, by rfl⟩,
   ⟨{ tS with clk := { tS.clk with s7 := { ppmOk := true, at_ := some 1000000000000 } }, links := [(7, { sync := true })] }, by rfl, by rfl,
     by decide, by rfl, by rfl⟩,
   ⟨{ tS with clk := { tS.clk with coast := true } }, 0, by rfl, by decide⟩,
   ⟨{ tS with links := [(0, { up := true })] }, by rfl, by rfl⟩,
   ⟨{ tS with links := [(7, { up := true })] }, by rfl, by rfl⟩,
   ⟨1, tQ 1, 0, by decide, by decide, by rfl, by rfl⟩,
   ⟨{ tQ 1 with crc := 0 }, 0, by rfl, by decide⟩,
   ⟨{ tQ 1 with coded := true }, by rfl⟩,
   ⟨{ tS with clk := { tS.clk with s0 := { t1 := some 5 } } }, 0, tQ 2, 0, 0, 0, 0, 5, by decide, by rfl, by rfl, by rfl, by rfl⟩,
   ⟨{ tS with clk := { tS.clk with s7 := { t1 := some 5 } } }, 7, tQ 2, 0, 0, 0, 0, 5, by decide, by rfl, by rfl, by rfl, by rfl, by decide⟩,
   ⟨{ tS with clk := { tS.clk with servo := .locked } }, by decide, by rfl⟩,
   ⟨tS, by rfl, by rfl, by rfl⟩,
   ⟨tS, 0, by rfl⟩⟩

theorem wit_HousekeepingComplete :
    (∃ (part : Fin 4) (s : State), s.frameRuns ↑part = true ∧ (s.part ↑part).frameLen ≤ s.relStep ↑part + 64 ∧ s.relStep ↑part + 64 -
      (s.part ↑part).frameLen = 0 ∧ (s.part ↑part).hstage = 0) ∧
    (∃ (part : Fin 4) (s : State), s.frameRuns ↑part = true ∧ (s.part ↑part).frameLen ≤ s.relStep ↑part + 64 ∧ s.pend.st = PairSt.lockstep ∧
      8 ≤ s.relStep ↑part + 64 - (s.part ↑part).frameLen ∧ s.relStep ↑part + 64 - (s.part ↑part).frameLen ≤ 10 ∧ (s.part ↑part).hstage = 1) ∧
    (∃ (part : Fin 4) (s : State), s.frameRuns ↑part = true ∧ (s.part ↑part).frameLen ≤ s.relStep ↑part + 64 ∧ s.pend.st = PairSt.lockstep ∧
      48 ≤ s.relStep ↑part + 64 - (s.part ↑part).frameLen ∧ s.relStep ↑part + 64 - (s.part ↑part).frameLen ≤ 51 ∧ 1 ≤ (s.part ↑part).hstage
      ∧ (s.part ↑part).hstage < 48 ∧ sigMismatch (s.part ↑part) = false) ∧
    (∃ (part : Fin 4) (s : State), s.frameRuns ↑part = true ∧ (s.part ↑part).frameLen ≤ s.relStep ↑part + 64 ∧ s.pend.st = PairSt.lockstep ∧
      48 ≤ s.relStep ↑part + 64 - (s.part ↑part).frameLen ∧ s.relStep ↑part + 64 - (s.part ↑part).frameLen ≤ 51 ∧ 1 ≤ (s.part ↑part).hstage
      ∧ (s.part ↑part).hstage < 48 ∧ sigMismatch (s.part ↑part) = true) ∧
    (∃ (part : Fin 4) (s : State), s.frameRuns ↑part = true ∧ (s.part ↑part).frameLen ≤ s.relStep ↑part + 64 ∧ s.relStep ↑part + 64 -
      (s.part ↑part).frameLen = 52 ∧ 1 ≤ (s.part ↑part).hstage ∧ (s.part ↑part).hstage < 52) ∧
    (∃ (part : Fin 4) (s : State), s.frameRuns ↑part = true ∧ (s.part ↑part).frameLen ≤ s.relStep ↑part + 64 ∧ s.relStep ↑part + 64 -
      (s.part ↑part).frameLen = 52 ∧ 1 ≤ (s.part ↑part).hstage ∧ (s.part ↑part).hstage < 52 ∧ (∀ (q : Request), q ∈ (s.part ↑part).reqs →
      q.frame = (s.part ↑part).frame → q.pending = false)) ∧
    (∃ (part : Fin 4) (s : State), s.frameRuns ↑part = true ∧ (s.part ↑part).frameLen ≤ s.relStep ↑part + 64 ∧ s.relStep ↑part + 64 -
      (s.part ↑part).frameLen = 52 ∧ 1 ≤ (s.part ↑part).hstage ∧ (s.part ↑part).hstage < 52 ∧ (s.part ↑part).vetoes = [] ∧ (∀ (v :
      HoldCause), v ∈ (s.part ↑part).holds → v.resolved = true) ∧ (s.part ↑part).breaks = false) ∧
    (∃ (part : Fin 4) (s : State) (hold : Bool), s.frameRuns ↑part = true ∧ (s.part ↑part).frameLen ≤ s.relStep ↑part + 64 ∧ s.relStep ↑part
      + 64 - (s.part ↑part).frameLen = 52 ∧ 1 ≤ (s.part ↑part).hstage ∧ (s.part ↑part).hstage < 52 ∧ (s.part ↑part).vetoes = [((s.part
      ↑part).frame, hold)] ∧ (∀ (v : HoldCause), v ∈ (s.part ↑part).holds → v.resolved = true) ∧ (s.part ↑part).breaks = false) ∧
    (∃ (part : Fin 4) (s : State), s.frameRuns ↑part = true ∧ (s.part ↑part).frameLen ≤ s.relStep ↑part + 64 ∧ 53 ≤ s.relStep ↑part + 64 -
      (s.part ↑part).frameLen ∧ s.relStep ↑part + 64 - (s.part ↑part).frameLen ≤ 60 ∧ (s.part ↑part).hstage = 52) ∧
    (∃ (part : Fin 4) (s : State), s.frameRuns ↑part = true ∧ (s.part ↑part).frameLen ≤ s.relStep ↑part + 64 ∧ 61 ≤ s.relStep ↑part + 64 -
      (s.part ↑part).frameLen ∧ s.relStep ↑part + 64 - (s.part ↑part).frameLen ≤ 62 ∧ (s.part ↑part).hstage = 53) ∧
    (∃ (part : Fin 4) (s : State), s.frameRuns ↑part = true ∧ (s.part ↑part).frameLen ≤ s.relStep ↑part + 64 ∧ s.relStep ↑part + 64 -
      (s.part ↑part).frameLen = 63 ∧ (s.part ↑part).hstage = 61) ∧
    (∃ (part : Fin 4) (s : State) (pcl : Nat) (grp : Nat) (row : Nat) (bp : Nat) (l : List (Nat × Nat × Nat × Nat)), s.frameRuns ↑part =
      true ∧ (s.part ↑part).frameLen ≤ s.relStep ↑part + 64 ∧ (s.part ↑part).nmSuspect = (pcl, grp, row, bp) :: l ∧ (s.part ↑part).evalLen ≤
      s.relStep ↑part) :=
  ⟨⟨0, { tS with parts := [(0, { st := .running, tick := 99936 })] }, by rfl, by decide, by rfl, by rfl⟩,
   ⟨0, { tS with parts := [(0, { st := .running, tick := 99928, hstage := 1 })], pend := { st := .lockstep } }, by rfl, by decide, by rfl,
     by decide, by decide, by rfl⟩,
   ⟨0,
     { tS with parts := [(0, { st := .running, tick := 99888, hstage := 1, peerSigf := some (0, 0, 0), peerSig := some 0 })], pend := { st := .lockstep } },
     by rfl, by decide, by rfl, by decide, by decide, by decide, by decide, by rfl⟩,
   ⟨0, { tS with parts := [(0, { st := .running, tick := 99888, hstage := 1, mism := [(5, 0, false)] })], pend := { st := .lockstep } }, by
     rfl, by decide, by rfl, by decide, by decide, by decide, by decide, by rfl⟩,
   ⟨0, { tS with parts := [(0, { st := .running, tick := 99884, hstage := 1 })] }, by rfl, by decide, by rfl, by decide, by decide⟩,
   ⟨0, { tS with parts := [(0, { st := .running, tick := 99884, hstage := 1 })] }, by rfl, by decide, by rfl, by decide, by decide, by
     decide⟩,
   ⟨0, { tS with parts := [(0, { st := .running, tick := 99884, hstage := 1 })] }, by rfl, by decide, by rfl, by decide, by decide, by rfl,
     by decide, by rfl⟩,
   ⟨0, { tS with parts := [(0, { st := .running, tick := 99884, hstage := 1, vetoes := [(0, false)] })] }, false, by rfl, by decide, by rfl,
     by decide, by decide, by rfl, by decide, by rfl⟩,
   ⟨0, { tS with parts := [(0, { st := .running, tick := 99883, hstage := 52 })] }, by rfl, by decide, by decide, by decide, by rfl⟩,
   ⟨0, { tS with parts := [(0, { st := .running, tick := 99875, hstage := 53 })] }, by rfl, by decide, by decide, by decide, by rfl⟩,
   ⟨0, { tS with parts := [(0, { st := .running, tick := 99873, hstage := 61 })] }, by rfl, by decide, by rfl, by rfl⟩,
   ⟨0, { tS with parts := [(0, { st := .running, tick := 99936, nmSuspect := [(0, 0, 0, 0)] })] }, 0, 0, 0, 0, [], by rfl, by decide, by
     rfl, by decide⟩⟩

theorem wit_FrameTicksComplete :
    (∃ (part : Fin 4) (s : State), s.frameRuns ↑part = true ∧ (s.part ↑part).rel ≤ s.relStep ↑part ∧ s.relStep ↑part < (s.part
      ↑part).frameLen) ∧
    (∃ (part : Fin 4) (s : State), s.frameRuns ↑part = true ∧ (s.part ↑part).st ≠ PState.starting ∧ s.relStep ↑part = (s.part
      ↑part).frameLen ∧ (s.part ↑part).hstage = 63 ∧ ((({ s with pend := { s.pend with leaving := s.pend.leaving.filter (· ≠ part.val) } } :
      State).setPart part.val { s.part part.val with topH0 := (s.part part.val).h0Begun s.cnt }).part part.val).stopNext = true) ∧
    (∃ (part : Fin 4) (s : State), s.frameRuns ↑part = true ∧ (s.part ↑part).st ≠ PState.starting ∧ s.relStep ↑part = (s.part
      ↑part).frameLen ∧ (s.part ↑part).hstage = 63 ∧ ((({ s with pend := { s.pend with leaving := s.pend.leaving.filter (· ≠ part.val) } } :
      State).setPart part.val { s.part part.val with topH0 := (s.part part.val).h0Begun s.cnt }).part part.val).stopNext = false ∧ ((∃ t f
      d, ((({ s with pend := { s.pend with leaving := s.pend.leaving.filter (· ≠ part.val) } } : State).setPart part.val
      { s.part part.val with topH0 := (s.part part.val).h0Begun s.cnt }).part part.val).pausedAt = some
      (((({ s with pend := { s.pend with leaving := s.pend.leaving.filter (· ≠ part.val) } } : State).setPart part.val
      { s.part part.val with topH0 := (s.part part.val).h0Begun s.cnt }).part part.val).frame + 1, t, f, d)) ∨ ∃ q ∈
      ((({ s with pend := { s.pend with leaving := s.pend.leaving.filter (· ≠ part.val) } } : State).setPart part.val
      { s.part part.val with topH0 := (s.part part.val).h0Begun s.cnt }).part part.val).pauses, q.m =
      ((({ s with pend := { s.pend with leaving := s.pend.leaving.filter (· ≠ part.val) } } : State).setPart part.val
      { s.part part.val with topH0 := (s.part part.val).h0Begun s.cnt }).part part.val).frame + 1)) ∧
    (∃ (part : Fin 4) (s : State), s.frameRuns ↑part = true ∧ (s.part ↑part).st ≠ PState.starting ∧ s.relStep ↑part = (s.part
      ↑part).frameLen ∧ (s.part ↑part).hstage = 63 ∧ ((({ s with pend := { s.pend with leaving := s.pend.leaving.filter (· ≠ part.val) } } :
      State).setPart part.val { s.part part.val with topH0 := (s.part part.val).h0Begun s.cnt }).part part.val).stopNext = false ∧
      ((({ s with pend := { s.pend with leaving := s.pend.leaving.filter (· ≠ part.val) } } : State).setPart part.val
      { s.part part.val with topH0 := (s.part part.val).h0Begun s.cnt }).part part.val).pausedAt = none ∧ (∀ q ∈
      ((({ s with pend := { s.pend with leaving := s.pend.leaving.filter (· ≠ part.val) } } : State).setPart part.val
      { s.part part.val with topH0 := (s.part part.val).h0Begun s.cnt }).part part.val).pauses, q.m ≠
      ((({ s with pend := { s.pend with leaving := s.pend.leaving.filter (· ≠ part.val) } } : State).setPart part.val
      { s.part part.val with topH0 := (s.part part.val).h0Begun s.cnt }).part part.val).frame + 1) ∧
      ((({ s with pend := { s.pend with leaving := s.pend.leaving.filter (· ≠ part.val) } } : State).setPart part.val
      { s.part part.val with topH0 := (s.part part.val).h0Begun s.cnt }).part part.val).noGo = true) ∧
    (∃ (part : Fin 4) (s : State), s.frameRuns ↑part = true ∧ (s.part ↑part).st ≠ PState.starting ∧ s.relStep ↑part = (s.part
      ↑part).frameLen ∧ (s.part ↑part).hstage = 63 ∧ ((({ s with pend := { s.pend with leaving := s.pend.leaving.filter (· ≠ part.val) } } :
      State).setPart part.val { s.part part.val with topH0 := (s.part part.val).h0Begun s.cnt }).part part.val).stopNext = false ∧
      ((({ s with pend := { s.pend with leaving := s.pend.leaving.filter (· ≠ part.val) } } : State).setPart part.val
      { s.part part.val with topH0 := (s.part part.val).h0Begun s.cnt }).part part.val).pausedAt = none ∧ (∀ q ∈
      ((({ s with pend := { s.pend with leaving := s.pend.leaving.filter (· ≠ part.val) } } : State).setPart part.val
      { s.part part.val with topH0 := (s.part part.val).h0Begun s.cnt }).part part.val).pauses, q.m ≠
      ((({ s with pend := { s.pend with leaving := s.pend.leaving.filter (· ≠ part.val) } } : State).setPart part.val
      { s.part part.val with topH0 := (s.part part.val).h0Begun s.cnt }).part part.val).frame + 1) ∧
      ((({ s with pend := { s.pend with leaving := s.pend.leaving.filter (· ≠ part.val) } } : State).setPart part.val
      { s.part part.val with topH0 := (s.part part.val).h0Begun s.cnt }).part part.val).noGo = false) ∧
    (∃ (part : Fin 4) (s : State), (s.part ↑part).st = PState.starting ∧ s.stepping = true ∧ (s.part ↑part).startAt = some s.cnt) ∧
    (∃ (part : Fin 4) (s : State) (f : FrameNo) (t : Nat) (l : List (FrameNo × Nat)), (s.part ↑part).sampled = (f, t) :: l ∧ s.clk.coast =
      false ∧ t + (s.part ↑part).depth * (s.part ↑part).frameLen ≤ s.cnt) ∧
    (∃ (part : Fin 4) (s : State) (g : Nat) (k : FrameNo) (r : Bool), (s.part ↑part).nextTick = some (g, k, r) ∧ s.stepping = true ∧ s.cnt +
      (s.part ↑part).lin = g ∧ (if r = true then (s.part ↑part).phase = Phase.drain else (s.part ↑part).phase = Phase.paused)) ∧
    (∃ (part : Fin 4) (s : State) (g : Nat) (k : FrameNo) (m : FrameNo) (t : Nat) (b : Nat) (d : Nat), (s.part ↑part).nextTick = some (g, k,
      false) ∧ (s.part ↑part).pausedAt = some (m, t, b, d) ∧ 0 < d ∧ s.stepping = true ∧ s.cnt + (s.part ↑part).lin = g ∧ (s.part
      ↑part).phase = Phase.paused) ∧
    (∃ (part : Fin 4) (s : State) (k : FrameNo) (r : Bool), (s.part ↑part).nextTick = some (s.cnt, k, r) ∧ s.stepping = true ∧ (s.part
      ↑part).phase = Phase.leadIn) :=
  ⟨⟨0, { tS with parts := [(0, { st := .running, tick := 99873 })] }, by rfl, by decide, by decide⟩,
   ⟨0, { tS with parts := [(0, { st := .running, tick := 99872, hstage := 63, stopNext := true })] }, by rfl, by decide, by rfl, by rfl, by
     rfl⟩,
   ⟨0, { tS with parts := [(0, { st := .running, tick := 99872, hstage := 63, pauses := [{ m := 1, d := 0, owner := .brk }] })] }, by rfl,
     by decide, by rfl, by rfl, by rfl, .inr ⟨{ m := 1, d := 0, owner := .brk }, by decide, rfl⟩⟩,
   ⟨0, { tS with parts := [(0, { st := .running, tick := 99872, hstage := 63, noGo := true })] }, by rfl, by decide, by rfl, by rfl, by rfl,
     by rfl, by decide, by rfl⟩,
   ⟨0, { tS with parts := [(0, { st := .running, tick := 99872, hstage := 63 })] }, by rfl, by decide, by rfl, by rfl, by rfl, by rfl, by
     decide, by rfl⟩,
   ⟨0, { tS with parts := [(0, { st := .starting, startAt := some 100000 })] }, by rfl, by rfl, by rfl⟩,
   ⟨0, { tS with parts := [(0, { sampled := [(0, 99872)] })] }, 0, 99872, [], by rfl, by rfl, by decide⟩,
   ⟨0, { tS with parts := [(0, { nextTick := some (100000, 0, false), phase := .paused })] }, 100000, 0, false, by rfl, by rfl, by rfl, by
     rfl⟩,
   ⟨0, { tS with parts := [(0, { nextTick := some (100000, 0, false), phase := .paused, pausedAt := some (0, 0, 0, 1) })] }, 100000, 0, 0,
     0, 0, 1, by rfl, by rfl, by decide, by rfl, by rfl, by rfl⟩,
   ⟨0, { tS with parts := [(0, { nextTick := some (100000, 0, false), phase := .leadIn })] }, 0, false, by rfl, by rfl, by rfl⟩⟩

theorem wit_VerdictMarkersComplete :
    (∃ (k : Fin 8) (m : Marker) (s : State) (p : Nat), s.hears false (↑k) 1 m = true ∧ (s.marked (↑k) 1 m).memberOf (BitVec.toNat m.scope) =
      some p ∧ (s.part p).st = PState.running) ∧
    (∃ (k : Fin 8) (m : Marker) (s : State), s.hears false (↑k) 1 m = true ∧ (s.marked (↑k) 1 m).memberOf (BitVec.toNat m.scope) = none) ∧
    (∃ (k : Fin 8) (m : Marker) (s : State) (p : Nat), s.hears true (↑k) 2 m = true ∧ (relayVerdict m (passDown 2 m (s.marked (↑k) 2
      m))).runner (BitVec.toNat m.scope) = some p) ∧
    (∃ (k : Fin 8) (m : Marker) (s : State) (p : Nat), s.hears true (↑k) 3 m = true ∧ (relayVerdict m (passDown 3 m (s.marked (↑k) 3
      m))).runner (BitVec.toNat m.scope) = some p) ∧
    (∃ (k : Fin 8) (m : Marker) (s : State), s.hears true (↑k) 3 m = true ∧ (relayVerdict m (passDown 3 m (s.marked (↑k) 3 m))).runner
      (BitVec.toNat m.scope) = none) ∧
    (∃ (k : Fin 8) (m : Marker) (s : State) (p : Nat) (f : FrameNo) (t : Nat), s.hears false (↑k) 4 m = true ∧ (s.marked (↑k) 4 m).runner
      (BitVec.toNat m.scope) = some p ∧ (s.part p).heldFrame = some (f, t) ∧ BitVec.toNat f % 2 ^ 24 = m.frame.toNat ∧ (s.part
      p).sc.clears.contains ↑k = false) ∧
    (∃ (k : Fin 8) (m : Marker) (s : State), s.hears false (↑k) 4 m = true ∧ (s.marked (↑k) 4 m).runner (BitVec.toNat m.scope) = none) ∧
    (∃ (s : State) (part : Fin 4) (f : FrameNo) (tv : Nat) (t : Nat), (s.part ↑part).heldFrame = some (f, tv) ∧ (s.part ↑part).sc.clearSent
      = some t ∧ t + 2 * (s.part ↑part).v ≤ s.clk.now) ∧
    (∃ (s : State) (part : Fin 4), (s.part ↑part).sc.clearSent = none) ∧
    (∃ (k : Fin 8) (m : Marker) (s : State) (p : Nat), s.hears true (↑k) 10 m = true ∧ (passDown 10 m (s.marked (↑k) 10 m)).runner
      (BitVec.toNat m.scope) = some p) ∧
    (∃ (k : Fin 8) (m : Marker) (s : State) (p : Nat), s.hears false (↑k) 11 m = true ∧ (s.marked (↑k) 11 m).memberOf (BitVec.toNat m.scope)
      = some p ∧ (s.marked (↑k) 11 m).isRoot p = true ∧ (s.part p).st = PState.running) ∧
    (∃ (s : State) (part : Fin 4) (c : ModeChange) (t : Nat), (s.part ↑part).changes = [c] ∧ c.lateAt = some t ∧ t + 80000000 ≤ s.clk.now ∧
      s.isRoot ↑part = true) ∧
    (∃ (m : Marker) (s : State) (down : Bool) (l : Nat) (type : Nat), (if down = true then s.takesDown l else takesUp l) = true ∧
      markerCheck type m = SeqCheck.good ∧ s.repeats l type m = true) :=
  ⟨⟨1, tMk 1, { tS with parts := [(0, { st := .running, scope := 1 })] }, 0, by rfl, by rfl, by rfl⟩,
   ⟨1, tMk 1, tS, by rfl, by rfl⟩,
   ⟨0, tMk 2, { tS with parts := [(0, { st := .running, scope := 1 })] }, 0, by rfl, by rfl⟩,
   ⟨0, tMk 3, { tS with parts := [(0, { st := .running, scope := 1 })] }, 0, by rfl, by rfl⟩,
   ⟨0, tMk 3, tS, by rfl, by rfl⟩,
   ⟨1, tMk 4, { tS with parts := [(0, { st := .running, scope := 1, heldFrame := some (0, 5) })] }, 0, 0, 5, by rfl, by rfl, by rfl, by rfl,
     by rfl⟩,
   ⟨1, tMk 4, tS, by rfl, by rfl⟩,
   ⟨{ tS with parts := [(0, { heldFrame := some (0, 0), sc := { clearSent := some 0 } })] }, 0, 0, 0, 0, by rfl, by rfl, by decide⟩,
   ⟨tS, 0, by rfl⟩,
   ⟨0, tMk 10, { tS with parts := [(0, { st := .running, scope := 1 })] }, 0, by rfl, by rfl⟩,
   ⟨1, tMk 11, { tS with parts := [(0, { st := .running, scope := 1 })] }, 0, by rfl, by rfl, by rfl, by rfl⟩,
   ⟨{ tS with parts := [(0, { changes := [{ m := 0, opcode := 0, armed := false, ready := false, lateAt := some 0, ctx := none, arg := 0 }] })] },
     0, { m := 0, opcode := 0, armed := false, ready := false, lateAt := some 0, ctx := none, arg := 0 }, 0, by rfl, by rfl, by decide, by
     rfl⟩,
   ⟨tMk 1, { tS with links := [(1, { lastMark := some (99960, 1, 1, 0, 0) })] }, false, 1, 1, by rfl, by rfl, by rfl⟩⟩

theorem wit_PauseMarkersComplete :
    (∃ (k : Fin 8) (m : Marker) (s : State) (p : Nat), s.hears true (↑k) 5 m = true ∧ (passDown 5 m (s.marked (↑k) 5 m)).runner
      (BitVec.toNat m.scope) = some p) ∧
    (∃ (k : Fin 8) (m : Marker) (s : State) (p : Nat), s.hears true (↑k) 6 m = true ∧ (passDown 6 m (s.marked (↑k) 6 m)).runner
      (BitVec.toNat m.scope) = some p ∧ ((passDown 6 m (s.marked (↑k) 6 m)).part p).pausedAt.isSome = true ∧ ((passDown 6 m (s.marked (↑k) 6
      m)).part p).restarting = false) ∧
    (∃ (k : Fin 8) (m : Marker) (s : State) (p : Nat) (f : FrameNo) (t : Nat) (b : Nat) (d : Nat), s.hears false (↑k) 7 m = true ∧ (s.marked
      (↑k) 7 m).memberOf (BitVec.toNat m.scope) = some p ∧ (s.marked (↑k) 7 m).isRoot p = true ∧ (s.part p).st = PState.running ∧ (s.part
      p).pausedAt = some (f, t, b, d)) ∧
    (∃ (k : Fin 8) (m : Marker) (s : State) (p : Nat), s.hears false (↑k) 7 m = true ∧ (s.marked (↑k) 7 m).memberOf (BitVec.toNat m.scope) =
      some p ∧ (s.marked (↑k) 7 m).isRoot p = true ∧ (s.part p).st = PState.running ∧ (s.part p).pausedAt = none) ∧
    (∃ (k : Fin 8) (m : Marker) (s : State) (p : Nat), s.hears false (↑k) 7 m = true ∧ (s.marked (↑k) 7 m).memberOf (BitVec.toNat m.scope) =
      some p ∧ (s.marked (↑k) 7 m).isRoot p = false) ∧
    (∃ (k : Fin 8) (m : Marker) (s : State) (p : Nat), s.hears false (↑k) 8 m = true ∧ (s.marked (↑k) 8 m).memberOf (BitVec.toNat m.scope) =
      some p ∧ (s.marked (↑k) 8 m).isRoot p = true ∧ (s.part p).st = PState.running ∧ (s.part p).replayLimit = false ∧ (s.part
      p).pausedAt.isSome = true) ∧
    (∃ (k : Fin 8) (m : Marker) (s : State) (p : Nat) (q : Pause) (l : List Pause), s.hears false (↑k) 8 m = true ∧ (s.marked (↑k) 8
      m).memberOf (BitVec.toNat m.scope) = some p ∧ (s.marked (↑k) 8 m).isRoot p = true ∧ (s.part p).st = PState.running ∧ (s.part
      p).replayLimit = false ∧ (s.part p).pausedAt = none ∧ (s.part p).pauses = q :: l ∧ goTaken (s.part p) q.m = false ∧ q.owner ≠
      PauseOwner.join) ∧
    (∃ (k : Fin 8) (m : Marker) (s : State) (p : Nat) (f : FrameNo) (t : Nat) (b : Nat) (d : Nat), s.hears false (↑k) 9 m = true ∧ (s.marked
      (↑k) 9 m).memberOf (BitVec.toNat m.scope) = some p ∧ (s.marked (↑k) 9 m).isRoot p = true ∧ (s.part p).st = PState.running ∧ (s.part
      p).pausedAt = some (f, t, b, d)) ∧
    (∃ (k : Fin 8) (m : Marker) (s : State) (p : Nat), s.hears false (↑k) 8 m = true ∧ (s.marked (↑k) 8 m).memberOf (BitVec.toNat m.scope) =
      some p ∧ (s.marked (↑k) 8 m).isRoot p = true ∧ (s.part p).st = PState.running ∧ (s.part p).replayLimit = true) ∧
    (∃ (k : Fin 8) (s : State) (scope : U16) (frame : BitVec 24) (step : U32) (crc : Byte), s.takesDown ↑k = true ∧ crc8 (horizonContent
      (BitVec.toNat scope) frame.toNat (BitVec.toNat step)) ≠ BitVec.toNat crc) ∧
    (∃ (k : Fin 8) (s : State), s.takesDown ↑k = true) ∧
    (∃ (k : Fin 8) (s : State) (scope : U16) (frame : BitVec 24) (step : U32) (crc : Byte) (p : Nat), s.takesDown ↑k = true ∧ crc8
      (horizonContent (BitVec.toNat scope) frame.toNat (BitVec.toNat step)) = BitVec.toNat crc ∧ s.memberOf (BitVec.toNat scope) = some p ∧
      (s.part p).st = PState.running ∧ (s.part p).sc.bearing = []) ∧
    (∃ (k : Fin 8) (s : State) (scope : U16) (frame : BitVec 24) (step : U32) (crc : Byte) (p : Nat) (n : FrameNo) (t : Nat), s.takesDown ↑k
      = true ∧ crc8 (horizonContent (BitVec.toNat scope) frame.toNat (BitVec.toNat step)) = BitVec.toNat crc ∧ s.memberOf (BitVec.toNat
      scope) = some p ∧ (s.part p).st = PState.running ∧ (s.part p).sc.bearing = [] ∧ nearestFrame (s.part p).current frame.toNat = n ∧
      List.find? (fun e => decide (e.fst = n)) (s.part p).ticks = some (n, t)) :=
  ⟨⟨0, tMk 5, { tS with parts := [(0, { st := .running, scope := 1 })] }, 0, by rfl, by rfl⟩,
   ⟨0, tMk 6, { tS with parts := [(0, { st := .running, scope := 1, phase := .paused, pausedAt := some (0, 0, 0, 0) })] }, 0, by rfl, by
     rfl, by rfl, by rfl⟩,
   ⟨1, tMk 7, { tS with parts := [(0, { st := .running, scope := 1, pausedAt := some (0, 0, 0, 0) })] }, 0, 0, 0, 0, 0, by rfl, by rfl, by
     rfl, by rfl, by rfl⟩,
   ⟨1, tMk 7, { tS with parts := [(0, { st := .running, scope := 1 })] }, 0, by rfl, by rfl, by rfl, by rfl, by rfl⟩,
   ⟨6, tMk 7, { tS with parts := [(0, { st := .running, scope := 1, root := 1 })] }, 0, by rfl, by rfl, by rfl⟩,
   ⟨1, tMk 8, { tS with parts := [(0, { st := .running, scope := 1, pausedAt := some (0, 0, 0, 0) })] }, 0, by rfl, by rfl, by rfl, by rfl,
     by rfl, by rfl⟩,
   ⟨1, tMk 8, { tS with parts := [(0, { st := .running, scope := 1, pauses := [{ m := 1, d := 0, owner := .brk }] })] }, 0,
     { m := 1, d := 0, owner := .brk }, [], by rfl, by rfl, by rfl, by rfl, by rfl, by rfl, by rfl, by rfl, by decide⟩,
   ⟨1, tMk 9, { tS with parts := [(0, { st := .running, scope := 1, pausedAt := some (0, 0, 0, 0) })] }, 0, 0, 0, 0, 0, by rfl, by rfl, by
     rfl, by rfl, by rfl⟩,
   ⟨1, tMk 8, { tS with parts := [(0, { st := .running, scope := 1, replayLimit := true })] }, 0, by rfl, by rfl, by rfl, by rfl, by rfl⟩,
   ⟨0, tS, 0, 0, 0, 0, by rfl, by decide⟩,
   ⟨0, tS, by rfl⟩,
   ⟨0, { tS with parts := [(0, { st := .running, scope := 1, ticks := [(0, 5)] })] }, 1, 0, 5, tCrc, 0, by rfl, by rfl, by rfl, by rfl, by
     rfl⟩,
   ⟨0, { tS with parts := [(0, { st := .running, scope := 1, ticks := [(0, 5)] })] }, 1, 0, 5, tCrc, 0, 0, 5, by rfl, by rfl, by rfl, by
     rfl, by rfl, by decide +kernel, by rfl⟩⟩

theorem wit_StartMarkersComplete :
    (∃ (k : Fin 8) (m : Marker) (s : State) (p : Nat), s.hears true (↑k) 12 m = true ∧ (s.marked (↑k) 12 m).memberOf (BitVec.toNat m.scope)
      = some p ∧ ((s.marked (↑k) 12 m).part p).st = PState.starting ∧ ((s.marked (↑k) 12 m).startSeq (BitVec.toNat m.scope)).sentUp = false) ∧
    (∃ (k : Fin 8) (m : Marker) (s : State), s.hears false (↑k) 13 m = true) ∧
    (∃ (k : Fin 8) (m : Marker) (s : State), s.hears false (↑k) 14 m = true) ∧
    (∃ (k : Fin 8) (m : Marker) (s : State) (p : Nat), s.hears false (↑k) 15 m = true ∧ (s.marked (↑k) 15 m).memberOf (BitVec.toNat m.scope)
      = some p ∧ (s.marked (↑k) 15 m).isRoot p = true ∧ (s.part p).st ≠ PState.running) ∧
    (∃ (k : Fin 8) (m : Marker) (s : State) (p : Nat), s.hears true (↑k) 16 m = true ∧ (passDown 16 m (s.marked (↑k) 16 m)).memberOf
      (BitVec.toNat m.scope) = some p ∧ ((passDown 16 m (s.marked (↑k) 16 m)).part p).st = PState.starting) ∧
    (∃ (k : Fin 8) (m : Marker) (s : State), s.hears false (↑k) 17 m = true) ∧
    (∃ (k : Fin 8) (m : Marker) (s : State) (p : Nat), s.hears true (↑k) 18 m = true ∧ (passDown 18 m (s.marked (↑k) 18 m)).memberOf
      (BitVec.toNat m.scope) = some p ∧ ((passDown 18 m (s.marked (↑k) 18 m)).part p).st = PState.starting) ∧
    (∃ (k : Fin 8) (m : Marker) (s : State), s.hears false (↑k) 19 m = true ∧ (s.marked (↑k) 19 m).rootOf (BitVec.toNat m.scope) = true ∧
      ((s.marked (↑k) 19 m).scopeSt (BitVec.toNat m.scope)).start.isSome = true) ∧
    (∃ (k : Fin 8) (m : Marker) (s : State), s.hears false (↑k) 19 m = true ∧ (s.marked (↑k) 19 m).rootOf (BitVec.toNat m.scope) = false) ∧
    (∃ (k : Fin 8) (m : Marker) (s : State), s.hears true (↑k) 20 m = true) ∧
    (∃ (s : State) (part : Fin 4) (q : StartSeq) (t : Nat), (s.part ↑part).sc.start = some q ∧ q.measureAt = some t ∧ s.isRoot ↑part = true
      ∧ (s.part ↑part).st ≠ PState.running ∧ (s.part ↑part).startAt = none ∧ t + 16000000000 ≤ s.clk.now) :=
  ⟨⟨0, tMk 12, { tS with parts := [(0, { st := .starting, scope := 1 })] }, 0, by rfl, by rfl, by rfl, by rfl⟩,
   ⟨1, tMk 13, tS, by rfl⟩,
   ⟨1, tMk 14, tS, by rfl⟩,
   ⟨1, tMk 15, { tS with parts := [(0, { st := .loaded, scope := 1 })] }, 0, by rfl, by rfl, by rfl, by decide⟩,
   ⟨0, tMk 16, { tS with parts := [(0, { st := .starting, scope := 1 })] }, 0, by rfl, by rfl, by rfl⟩,
   ⟨6, tMk 17, tS, by rfl⟩,
   ⟨0, tMk 18, { tS with parts := [(0, { st := .starting, scope := 1 })] }, 0, by rfl, by rfl, by rfl⟩,
   ⟨1, tMk 19, { tS with parts := [(0, { st := .loaded, scope := 1, sc := { start := some newSeq } })] }, by rfl, by rfl, by rfl⟩,
   ⟨1, tMk 19, { tS with parts := [(0, { st := .loaded, scope := 1, root := 1 })] }, by rfl, by rfl⟩,
   ⟨0, tMk 20, tS, by rfl⟩,
   ⟨{ tS with parts := [(0, { scope := 1, sc := { start := some { newSeq with measureAt := some 0 } } })] }, 0,
     { newSeq with measureAt := some 0 }, 0, by rfl, by rfl, by rfl, by decide, by rfl, by decide⟩⟩

theorem wit_LaneTrainingComplete :
    (∃ (lane : Fin 144) (s : State), (s.lane ↑lane).st = LaneSt.trainEq) ∧
    (∃ (lane : Fin 144) (s : State), ↑lane ≠ 136 ∧ ↑lane ≠ 143 ∧ (s.lane ↑lane).st = LaneSt.hunt ∧ (s.lane ↑lane).waking = false ∧ (s.lane
      ↑lane).since + 65536 ≤ s.clk.now) ∧
    (∃ (lane : Fin 144) (s : State), (s.lane ↑lane).st = LaneSt.trainEq ∧ (s.lane ↑lane).since + usSteps 1000 ≤ s.clk.now) ∧
    (∃ (lane : Fin 144) (s : State), (s.lane ↑lane).st = LaneSt.hunt ∧ (s.lane ↑lane).waking = true ∧ (s.lane ↑lane).since + usSteps 100 ≤
      s.clk.now) ∧
    (∃ (lane : Fin 144) (s : State) (payload : U64), ↑lane < 136 ∧ (s.lane ↑lane).st = LaneSt.linkup ∧ BitVec.getLsbD payload 0 = true ∧
      (s.lane ↑lane).rxLockRun < 63) ∧
    (∃ (lane : Fin 144) (s : State) (payload : U64), ↑lane < 136 ∧ (s.lane ↑lane).st = LaneSt.linkup ∧ BitVec.getLsbD payload 0 = true ∧ 63
      ≤ (s.lane ↑lane).rxLockRun) ∧
    (∃ (lane : Fin 144) (s : State) (payload : U64), ↑lane < 136 ∧ (s.lane ↑lane).st = LaneSt.linkup ∧ BitVec.getLsbD payload 0 = false) ∧
    (∃ (lane : Fin 144) (s : State) (payload : U64) (p : Nat), ↑lane < 128 ∧ (s.lane ↑lane).st = LaneSt.calibrate ∧ (s.lane ↑lane).calDone =
      false ∧ s.laneOwner ↑lane = some p ∧ calCheck (s.part p) (BitVec.toNat s.arm.addr) (↑lane) (BitVec.toNat payload) = none) ∧
    (∃ (lane : Fin 144) (s : State) (payload : U64) (p : Nat) (k : Nat), ↑lane < 128 ∧ (s.lane ↑lane).st = LaneSt.calibrate ∧ (s.lane
      ↑lane).calDone = false ∧ s.laneOwner ↑lane = some p ∧ calCheck (s.part p) (BitVec.toNat s.arm.addr) (↑lane) (BitVec.toNat payload) =
      some k) ∧
    (∃ (lane : Fin 144) (s : State) (payload : U64) (p : Nat), ↑lane < 128 ∧ (s.lane ↑lane).st = LaneSt.calibrate ∧ s.laneOwner ↑lane = some
      p ∧ natBits (BitVec.toNat payload) 43 5 = (s.part p).scope16 / 2048 ∧ BitVec.extractLsb' 48 16 payload = s.ident.bic) ∧
    (∃ (lane : Fin 144) (s : State), (s.lane ↑lane).st = LaneSt.calibrate ∧ (s.lane ↑lane).resumeAt = some s.cnt) :=
  ⟨⟨0, { tS with lanes := [(0, { st := .trainEq })] }, by rfl⟩,
   ⟨0, { tS with lanes := [(0, { st := .hunt })] }, by decide, by decide, by rfl, by rfl, by decide⟩,
   ⟨0, { tS with lanes := [(0, { st := .trainEq })] }, by rfl, by decide⟩,
   ⟨0, { tS with lanes := [(0, { st := .hunt, waking := true })] }, by rfl, by rfl, by decide⟩,
   ⟨0, { tS with lanes := [(0, { st := .linkup, rxLockRun := 62 })] }, 1, by decide, by rfl, by rfl, by decide⟩,
   ⟨0, { tS with lanes := [(0, { st := .linkup, rxLockRun := 63 })] }, 1, by decide, by rfl, by rfl, by decide⟩,
   ⟨0, { tS with lanes := [(0, { st := .linkup })] }, 0, by decide, by rfl, by rfl⟩,
   ⟨0, { tS with lanes := [(0, { st := .calibrate })], parts := [(0, { st := .running, image := some { tIm with sxparam := 2 ^ 32 } })] }, 2
     ^ 48 + 7 * 2 ^ 18, 0, by decide, by rfl, by rfl, by rfl, by rfl⟩,
   ⟨0, { tS with lanes := [(0, { st := .calibrate })], parts := [(0, { st := .running, image := some { tIm with sxparam := 2 ^ 32 } })] },
     0, 0, 1, by decide, by rfl, by rfl, by rfl, by rfl⟩,
   ⟨0, { tS with lanes := [(0, { st := .calibrate })], parts := [(0, { st := .running, image := some { tIm with sxparam := 2 ^ 32 } })] }, 2
     ^ 48, 0, by decide, by rfl, by rfl, by rfl, by rfl⟩,
   ⟨0,
     { tS with lanes := [(0, { st := .calibrate, resumeAt := some 100000 })], parts := [(0, { st := .running, image := some { tIm with sxparam := 2 ^ 32 } })] },
     by rfl, by rfl⟩⟩

theorem wit_LaneBlocksComplete :
    (∃ (lane : Fin 144) (s : State), ↑lane < 136 ∧ ((s.lane ↑lane).st = LaneSt.off ∨ (s.lane ↑lane).st = LaneSt.trainEq ∨ (s.lane ↑lane).st
      = LaneSt.recover ∨ (s.lane ↑lane).st = LaneSt.down)) ∧
    (∃ (lane : Fin 144) (s : State), ↑lane < 136 ∧ (s.lane ↑lane).st = LaneSt.pattern ∧ (s.lane ↑lane).chk ≠ 0) ∧
    (∃ (lane : Fin 144) (s : State), ↑lane < 136 ∧ (s.lane ↑lane).st = LaneSt.hunt) ∧
    (∃ (lane : Fin 144) (s : State), ↑lane < 136 ∧ ((s.lane ↑lane).st = LaneSt.linkup ∨ (s.lane ↑lane).st = LaneSt.calibrate ∨ (s.lane
      ↑lane).st = LaneSt.ready ∨ (s.lane ↑lane).st = LaneSt.active)) ∧
    (∃ (lane : Fin 144), 136 ≤ ↑lane) ∧
    (∃ (lane : Fin 144) (s : State) (payload : U64), ↑lane < 136 ∧ (s.lane ↑lane).lock = true ∧ BitVec.toNat payload / 2 ^ 60 = 1 ∧ natBits
      (BitVec.toNat payload) 56 4 = 0 ∧ (s.lane ↑lane).st ≠ LaneSt.active ∧ (s.blink (linkOf ↑lane)).follow = none ∧ (s.blink (linkOf
      ↑lane)).req = none) ∧
    (∃ (lane : Fin 144) (s : State) (payload : U64) (r : LinkReq), ↑lane < 136 ∧ (s.blink (linkOf ↑lane)).req = some r ∧ r.seq =
      BitVec.extractLsb' 32 16 payload ∧ r.acked = false) ∧
    (∃ (s : State) (link : Fin 17) (r : LinkReq), (s.blink ↑link).req = some r ∧ r.acked = false ∧ r.start ≤ s.cnt + 256 ∧ r.tries < 2) ∧
    (∃ (s : State) (link : Fin 17) (r : LinkReq), (s.blink ↑link).req = some r ∧ r.acked = false ∧ r.start ≤ s.cnt + 256 ∧ 2 ≤ r.tries) ∧
    (∃ (s : State) (link : Fin 17) (r : LinkReq), (s.blink ↑link).req = some r ∧ r.acked = true ∧ r.begun = false ∧ r.start = s.cnt ∧
      ((applyChangeAt link.val r (s.setBlink link.val { s.blink link.val with req := some { r with begun := true } })).blink
      link.val).follow = none) ∧
    (∃ (s : State) (link : Fin 17) (r : LinkReq), (s.blink ↑link).req = none ∧ (s.blink ↑link).follow = some r ∧ r.acked = true ∧ r.begun =
      false ∧ r.start = s.cnt) ∧
    (∃ (lane : Fin 144) (s : State), ↑lane < 136 ∧ (s.lane ↑lane).lock = true) ∧
    (∃ (lane : Fin 144) (s : State), (s.lane ↑lane).silentAt = some s.cnt ∧ (s.lane ↑lane).peerSilent = none ∧ (s.lane ↑lane).st ≠
      LaneSt.sleep) ∧
    (∃ (lane : Fin 144) (s : State), (s.lane ↑lane).silentAt = none ∧ (s.lane ↑lane).peerSilent = some s.cnt ∧ (s.lane ↑lane).st ≠
      LaneSt.sleep) ∧
    (∃ (lane : Fin 144) (s : State) (len : Nat) (pos : Nat), (s.lane ↑lane).inject = some (len, pos, some s.cnt)) :=
  ⟨⟨0, tS, by decide, by decide⟩,
   ⟨0, { tS with lanes := [(0, { st := .pattern, chk := 1 })] }, by decide, by rfl, by decide⟩,
   ⟨135, { tS with lanes := [(135, { st := .hunt })] }, by decide, by rfl⟩,
   ⟨0, { tS with lanes := [(0, { st := .ready })] }, by decide, by decide⟩,
   ⟨136, by decide⟩,
   ⟨0, { tS with lanes := [(0, { lock := true })] }, 2 ^ 60, by decide, by rfl, by rfl, by rfl, by decide, by rfl, by rfl⟩,
   ⟨0,
     { tS with blinks := [(0, { req := some { op := 0, width := 4, lanes := 0, seq := 0, start := 0, tries := 0, acked := false, begun := false, ctx := none } })] },
     0, { op := 0, width := 4, lanes := 0, seq := 0, start := 0, tries := 0, acked := false, begun := false, ctx := none }, by decide, by
     rfl, by rfl, by rfl⟩,
   ⟨{ tS with blinks := [(0, { req := some { op := 0, width := 4, lanes := 0, seq := 0, start := 100256, tries := 1, acked := false, begun := false, ctx := none } })] },
     0, { op := 0, width := 4, lanes := 0, seq := 0, start := 100256, tries := 1, acked := false, begun := false, ctx := none }, by rfl, by
     rfl, by decide, by decide⟩,
   ⟨{ tS with blinks := [(0, { req := some { op := 0, width := 4, lanes := 0, seq := 0, start := 0, tries := 2, acked := false, begun := false, ctx := none } })] },
     0, { op := 0, width := 4, lanes := 0, seq := 0, start := 0, tries := 2, acked := false, begun := false, ctx := none }, by rfl, by rfl,
     by decide, by decide⟩,
   ⟨{ tS with blinks := [(0, { req := some { op := 0, width := 4, lanes := 0, seq := 0, start := 100000, tries := 0, acked := true, begun := false, ctx := none } })] },
     0, { op := 0, width := 4, lanes := 0, seq := 0, start := 100000, tries := 0, acked := true, begun := false, ctx := none }, by rfl, by
     rfl, by rfl, by rfl, by rfl⟩,
   ⟨{ tS with blinks := [(0, { follow := some { op := 0, width := 4, lanes := 0, seq := 0, start := 100000, tries := 0, acked := true, begun := false, ctx := none } })] },
     0, { op := 0, width := 4, lanes := 0, seq := 0, start := 100000, tries := 0, acked := true, begun := false, ctx := none }, by rfl, by
     rfl, by rfl, by rfl, by rfl⟩,
   ⟨0, { tS with lanes := [(0, { lock := true })] }, by decide, by rfl⟩,
   ⟨0, { tS with lanes := [(0, { silentAt := some 100000 })] }, by rfl, by rfl, by decide⟩,
   ⟨0, { tS with lanes := [(0, { peerSilent := some 100000 })] }, by rfl, by rfl, by decide⟩,
   ⟨0, { tS with lanes := [(0, { inject := some (1, 0, some 100000) })] }, 1, 0, by rfl⟩⟩

theorem wit_PendantLinkComplete :
    (∃ (s : State), s.paired = true) ∧
    (∃ (s : State), s.pend.st = PairSt.pairing ∧ s.pairStepNo = 2 ∧ s.pend.latN < 255) ∧
    (∃ (s : State) (payload : U64), s.pend.st = PairSt.pairing ∧ s.pairStepNo = 2 ∧ 255 ≤ s.pend.latN ∧ 36 < max s.pend.latMax ((s.cnt +
      65536 - BitVec.toNat payload / 2 ^ 48) % 65536)) ∧
    (∃ (s : State) (payload : U64), s.pend.st = PairSt.pairing ∧ s.pairStepNo = 2 ∧ 255 ≤ s.pend.latN ∧ max s.pend.latMax ((s.cnt + 65536 -
      BitVec.toNat payload / 2 ^ 48) % 65536) ≤ 36) ∧
    (∃ (s : State), s.paired = true ∧ s.authOn s.pendantSent = true) ∧
    (∃ (s : State), s.paired = true ∧ s.authOn s.pendantSent = true) ∧
    (∃ (s : State), s.paired = false) ∧
    (∃ (s : State), s.paired = true ∧ s.authOn s.pendantSent = true) ∧
    (∃ (s : State), s.pend.st = PairSt.pairing ∧ (s.pairStepNo = 2 ∨ s.pairStepNo = 3) ∧ s.pend.heard = none) ∧
    (∃ (s : State) (side : Bool), s.pend.st = PairSt.pairing ∧ (s.pairStepNo = 2 ∨ s.pairStepNo = 3) ∧ s.pend.heard = none ∧ side ≠
      s.ident.pendSide) ∧
    (∃ (s : State), s.pend.st = PairSt.pairing ∧ s.pairStepNo = 5) ∧
    (∃ (s : State) (v : U64), s.pend.st = PairSt.pairing ∧ s.pairStepNo = 5 ∧ v ≠ s.pend.keychk) ∧
    (∃ (s : State) (c : CmdCtx) (o : Bool) (t : Nat) (n : Nat), s.pend.pair = some (c, o, t, n) ∧ s.pend.peerMode = none ∧ t + 16000000000 ≤
      s.clk.now) ∧
    (∃ (s : State), s.pend.st = PairSt.pairing ∧ s.clk.pll = true ∧ s.cnt % 4096 = 0) ∧
    (∃ (s : State), s.paired = true ∧ s.clk.pll = true ∧ s.cnt % 65536 = 2048) :=
  ⟨⟨{ tS with pend := { st := .independent } }, by rfl⟩,
   ⟨{ tS with pend := { st := .pairing, pair := some (tCtx, false, 0, 2) } }, by rfl, by rfl, by decide⟩,
   ⟨{ tS with pend := { st := .pairing, pair := some (tCtx, false, 0, 2), latN := 255 } }, 0, by rfl, by rfl, Nat.le_refl 255,
     by decide +kernel⟩,
   ⟨{ tS with pend := { st := .pairing, pair := some (tCtx, false, 0, 2), latN := 255 }, clk := { tS.clk with count := 65536 } }, 0, by rfl,
     by rfl, Nat.le_refl 255, by decide +kernel⟩,
   ⟨{ tS with pend := { st := .independent, encAt := some 0 } }, by rfl, by rfl⟩,
   ⟨{ tS with pend := { st := .independent, encAt := some 0 } }, by rfl, by rfl⟩,
   ⟨tS, by rfl⟩,
   ⟨{ tS with pend := { st := .independent, encAt := some 0 } }, by rfl, by rfl⟩,
   ⟨{ tS with pend := { st := .pairing, pair := some (tCtx, false, 0, 2) } }, by rfl, by decide, by rfl⟩,
   ⟨{ tS with pend := { st := .pairing, pair := some (tCtx, false, 0, 2) }, ident := { pendSide := true } }, false, by rfl, by decide, by
     rfl, by decide⟩,
   ⟨{ tS with pend := { st := .pairing, pair := some (tCtx, false, 0, 5) } }, by rfl, by rfl⟩,
   ⟨{ tS with pend := { st := .pairing, pair := some (tCtx, false, 0, 5) } }, 1, by rfl, by rfl, by decide⟩,
   ⟨{ tS with pend := { pair := some (tCtx, false, 0, 0) } }, tCtx, false, 0, 0, by rfl, by rfl, by decide⟩,
   ⟨{ tS with pend := { st := .pairing }, clk := { tS.clk with count := 98304 } }, by rfl, by rfl, by rfl⟩,
   ⟨{ tS with pend := { st := .independent }, clk := { tS.clk with count := 67584 } }, by rfl, by rfl, by rfl⟩⟩

theorem wit_ResyncComplete :
    (∃ (s : State), s.pend.hbAt + 65536 ≤ s.clk.now ∧ (s.pend.st = PairSt.standby ∨ s.pend.st = PairSt.copy ∨ s.pend.st = PairSt.joining) ∧
      s.pend.role = 1) ∧
    (∃ (s : State), s.pend.hbAt + 65536 ≤ s.clk.now ∧ (s.pend.st = PairSt.standby ∨ s.pend.st = PairSt.copy ∨ s.pend.st = PairSt.joining) ∧
      s.pend.role ≠ 1 ∧ s.pend.join = none ∧ s.pend.st ≠ PairSt.joining) ∧
    (∃ (s : State), s.pend.hbAt + 65536 ≤ s.clk.now ∧ (s.pend.st = PairSt.standby ∨ s.pend.st = PairSt.copy ∨ s.pend.st = PairSt.joining) ∧
      s.pend.role ≠ 1 ∧ (s.pend.join ≠ none ∨ s.pend.st = PairSt.joining)) ∧
    (∃ (s : State), s.pend.hbAt + 65536 ≤ s.clk.now ∧ s.pend.st = PairSt.independent) ∧
    (∃ (s : State), s.pend.resync = none ∧ s.pend.join = none) ∧
    (∃ (s : State) (r : Nat × Option CmdCtx × Nat), s.pend.resync = some r ∧ s.pend.join = none) ∧
    (∃ (s : State) (ph : Nat) (j : FrameNo) (ref : Nat), s.pend.join = some (ph, j, ref)) ∧
    (∃ (s : State) (j : Nat) (a : Nat) (rest : List (Nat × Nat × List Byte)), s.pend.mirror = (j, a, []) :: rest) ∧
    (∃ (s : State) (j : Nat) (a : Nat) (b : List Byte) (rest : List (Nat × Nat × List Byte)), s.pend.mirror = (j, a, b) :: rest ∧ b.length =
      64) ∧
    (∃ (s : State) (j : Nat) (a : Nat) (b : List Byte) (rest : List (Nat × Nat × List Byte)), s.pend.mirror = (j, a, b) :: rest ∧ b ≠ [] ∧
      b.length ≠ 64) ∧
    (∃ (s : State) (ref : Nat), s.pend.resync = some (3, none, ref) ∧ s.pend.role = 1 ∧ s.pend.bulk = [] ∧ s.pend.mirror = [] ∧
      s.pend.report.loaded = s.ownReport.loaded ∧ s.pend.report.lanesUp = true) ∧
    (∃ (s : State) (ph : Nat) (j : FrameNo) (ref : Nat), s.pend.join = some (ph, j, ref) ∧ s.pend.role = 1 ∧ ph < 6) ∧
    (∃ (s : State) (j : FrameNo) (ref : Nat), s.pend.join = some (1, j, ref) ∧ s.pend.role = 1 ∧ s.allPaused = true) ∧
    (∃ (s : State) (j : FrameNo) (ref : Nat), s.pend.join = some (2, j, ref) ∧ s.pend.role = 1 ∧ s.allPaused = true ∧ (∀ (p : Nat), p ∈
      s.executing → s.settled p = true) ∧ s.pend.mirror = [] ∧ s.pend.bulk = [] ∧ s.castFree = true) ∧
    (∃ (s : State) (j : FrameNo) (ref : Nat), s.pend.join = some (4, j, ref) ∧ s.pend.role = 1 ∧ s.pend.bulk = []) ∧
    (∃ (s : State) (j : FrameNo) (ref : Nat), s.pend.join = some (5, j, ref) ∧ s.pend.role = 1 ∧ s.verified = true) :=
  ⟨⟨{ tS with pend := { st := .copy, role := 1 } }, by decide, by decide, by rfl⟩,
   ⟨{ tS with pend := { st := .standby } }, by decide, by decide, by decide, by rfl, by decide⟩,
   ⟨{ tS with pend := { st := .standby, role := 2, join := some (5, 0, 0) } }, by decide, by decide, by decide, by decide⟩,
   ⟨{ tS with pend := { st := .independent } }, by decide, by rfl⟩,
   ⟨{ tS with pend := { st := .standby } }, by rfl, by rfl⟩,
   ⟨{ tS with pend := { resync := some (2, none, 0) } }, _, by rfl, by rfl⟩,
   ⟨{ tS with pend := { join := some (5, 0, 0), role := 1 } }, 5, 0, 0, by rfl⟩,
   ⟨{ tS with pend := { mirror := [(0, 0, [])] } }, 0, 0, [], by rfl⟩,
   ⟨{ tS with pend := { mirror := [(0, 0, zeros 64)] } }, 0, 0, zeros 64, [], by rfl, by rfl⟩,
   ⟨{ tS with pend := { mirror := [(0, 0, [1])] } }, 0, 0, [1], [], by rfl, by decide, by decide⟩,
   ⟨{ tS with pend := { resync := some (3, none, 0), role := 1, report := { lanesUp := true } } }, 0, by rfl, by rfl, by rfl, by rfl, by
     rfl, by rfl⟩,
   ⟨{ tS with pend := { join := some (5, 0, 0), role := 1 } }, 5, 0, 0, by rfl, by rfl, by decide⟩,
   ⟨{ tS with pend := { join := some (1, 0, 0), role := 1 } }, 0, 0, by rfl, by rfl, by rfl⟩,
   ⟨{ tS with pend := { join := some (2, 0, 0), role := 1 } }, 0, 0, by rfl, by rfl, by rfl, by decide, by rfl, by rfl, by rfl⟩,
   ⟨{ tS with pend := { join := some (4, 0, 0), role := 1 } }, 0, 0, by rfl, by rfl, by rfl⟩,
   ⟨{ tS with pend := { join := some (5, 0, 0), role := 1 } }, 0, 0, by rfl, by rfl, by rfl⟩⟩

theorem wit_DramEventsComplete :
    (∃ (s : State) (pcl : Fin 96) (port : Fin 4) (r : Fin 16) (p : Nat) (q : Request), s.partOf ↑pcl = some p ∧ List.find? (fun q => decide
      (q.pcl = ↑pcl) && decide (q.port = ↑port) && decide (q.r = ↑r) && q.pending) (s.part p).reqs = some q ∧ q.tag = none ∧ s.holdsTag q =
      true) ∧
    (∃ (s : State) (line : Nat) (req : Byte), s.dram.ok = true ∧ line < s.dataLines * 8 ∧ req ≠ 7) ∧
    (∃ (s : State) (line : Nat) (req : Byte), s.dram.ok = true ∧ line < s.dataLines * 8 ∧ req = 7) ∧
    (∃ (s : State) (line : Nat), s.dram.ok = true ∧ s.dataLines * 8 ≤ line) ∧
    (∃ (s : State) (line : Nat), s.dram.ok = true ∧ s.dataLines * 8 ≤ line) ∧
    (∃ (s : State) (line : Nat) (e : MergeLine) (b : List Byte) (t : State), s.dram.ok = true ∧ line < s.dataLines * 8 ∧ List.find? (fun e
      => decide (e.line = line) && !e.fetched) s.dram.merge = some e ∧ accessLine { jsid := e.jsid, kix := some e.kix, master := 7 } line
      e.jaddr s = (LineRead.data b, t)) ∧
    (∃ (s : State) (e : MergeLine), List.find? (fun x => x.fetched) s.dram.merge = some e ∧ s.clk.coast = false) ∧
    (∃ (s : State) (ch : Fin 8) (m : RankMigr), smGet none s.dram.migr ↑ch = some m ∧ m.started = true ∧ s.movesPaused = false ∧ m.mark <
      s.dataLines) ∧
    (∃ (s : State) (ch : Fin 8) (m : RankMigr), smGet none s.dram.migr ↑ch = some m ∧ m.started = true ∧ s.dataLines ≤ m.mark) ∧
    (∃ (s : State) (ch : Fin 8) (rank : Fin 4) (bank : Fin 32), s.dram.ok = true ∧ s.dram.selfRefresh = false ∧ ↑rank < s.dram.ranks ∧
      (smGet { } s.dram.banks (bankKey ↑ch ↑rank ↑bank)).postponed < 4) ∧
    (∃ (s : State) (ch : Fin 8) (rank : Fin 4) (bank : Fin 32), s.dram.ok = true ∧ s.dram.selfRefresh = false ∧ ↑rank < s.dram.ranks ∧ 4 ≤
      (smGet { } s.dram.banks (bankKey ↑ch ↑rank ↑bank)).postponed) ∧
    (∃ (s : State) (rank : Fin 4), s.dram.ok = true ∧ s.dram.selfRefresh = false ∧ ↑rank < s.dram.ranks) ∧
    (∃ (s : State), s.dram.ok = true ∧ s.dram.selfRefresh = false ∧ s.channelLines ≠ 0) :=
  ⟨⟨{ tS with parts := [(0, { st := .running, pmap := [(0, 1)], reqs := [tReq] })] }, 0, 0, 0, 0, tReq, by rfl, by rfl, by rfl, by rfl⟩,
   ⟨tS, 7999999, 0, by rfl, by decide, by decide⟩,
   ⟨tS, 7999999, 7, by rfl, by decide, by rfl⟩,
   ⟨tS, 16000000, by rfl, by decide⟩,
   ⟨tS, 16000000, by rfl, by decide⟩,
   ⟨{ tS with dram := { tS.dram with merge := [{ line := 1, jsid := 0, jaddr := 0, kix := 0, bytes := [(0, 5)], fetched := false, bad := false, gen := 0 }] } },
     1, { line := 1, jsid := 0, jaddr := 0, kix := 0, bytes := [(0, 5)], fetched := false, bad := false, gen := 0 }, _, _, by rfl, by
     decide, by rfl, by rfl⟩,
   ⟨{ tS with dram := { tS.dram with merge := [{ line := 1, jsid := 0, jaddr := 0, kix := 0, bytes := [(0, 5)], fetched := true, bad := false, gen := 0 }] } },
     { line := 1, jsid := 0, jaddr := 0, kix := 0, bytes := [(0, 5)], fetched := true, bad := false, gen := 0 }, by rfl, by rfl⟩,
   ⟨{ tS with dram := { tS.dram with migr := [(0, some { rank := 0, mark := 999999, started := true })] } }, 0,
     { rank := 0, mark := 999999, started := true }, by rfl, by rfl, by rfl, by decide⟩,
   ⟨{ tS with dram := { tS.dram with migr := [(0, some { rank := 0, mark := 1000000, started := true })] } }, 0,
     { rank := 0, mark := 1000000, started := true }, by rfl, by rfl, by decide⟩,
   ⟨{ tS with dram := { tS.dram with banks := [(bankKey 0 0 0, { postponed := 3 })] } }, 0, 0, 0, by rfl, by rfl, by decide, by decide⟩,
   ⟨{ tS with dram := { tS.dram with banks := [(bankKey 0 0 0, { postponed := 4 })] } }, 0, 0, 0, by rfl, by rfl, by decide, by decide⟩,
   ⟨tS, 0, by rfl, by rfl, by decide⟩,
   ⟨tS, by rfl, by rfl, by decide⟩⟩

theorem wit_ProgressEventsComplete :
    (∃ (s : State) (r : Fin 36) (i : Fin 11) (h : NocHeader), s.nocRuns = true ∧ ↑i < 4 ∧ hasNeighbour ↑r ↑i = true ∧ s.granted
      (neighbourRouter ↑r ↑i) (oppositePort ↑i) h = true ∧ hdrBad h = true) ∧
    (∃ (s : State) (r : Fin 36) (i : Fin 11) (h : NocHeader) (n : Nat), s.nocRuns = true ∧ ↑i < 4 ∧ hasNeighbour ↑r ↑i = true ∧ s.granted
      (neighbourRouter ↑r ↑i) (oppositePort ↑i) h = true ∧ hdrBad h = false ∧ s.mayForward (↑r) h n = true) ∧
    (∃ (s : State) (r : Fin 36) (i : Fin 11) (h : NocHeader) (n : Nat), s.nocRuns = true ∧ ↑i < 4 ∧ hasNeighbour ↑r ↑i = true ∧ s.granted
      (neighbourRouter ↑r ↑i) (oppositePort ↑i) h = true ∧ hdrBad h = false ∧ s.mayForward (↑r) h n = false) ∧
    (∃ (s : State) (i : Fin 11) (h : NocHeader), s.nocRuns = true ∧ 4 ≤ ↑i ∧ hdrBad h = true) ∧
    (∃ (s : State) (r : Fin 36) (i : Fin 11) (h : NocHeader) (n : Nat), s.nocRuns = true ∧ 4 ≤ ↑i ∧ hdrBad h = false ∧ s.maySend (↑r) (↑i) h
      = true ∧ s.mayForward (↑r) h n = true) ∧
    (∃ (s : State) (r : Fin 36) (port : Fin 7) (h : NocHeader) (w : List (BitVec 72 × CheckOutcome)), s.nocRuns = true ∧ s.granted (↑r)
      (portOf ↑port) h = true ∧ atEndpoint (↑r) (↑port) h w = true ∧ hdrBad h = true) ∧
    (∃ (s : State) (r : Fin 36) (port : Fin 7) (h : NocHeader) (w : List (BitVec 72 × CheckOutcome)), s.nocRuns = true ∧ s.granted (↑r)
      (portOf ↑port) h = true ∧ atEndpoint (↑r) (↑port) h w = true ∧ hdrBad h = false ∧ wordsWith CheckOutcome.uncorr w ≠ []) ∧
    (∃ (s : State) (r : Fin 36) (port : Fin 7) (h : NocHeader) (w : List (BitVec 72 × CheckOutcome)), s.nocRuns = true ∧ s.granted (↑r)
      (portOf ↑port) h = true ∧ atEndpoint (↑r) (↑port) h w = true ∧ hdrBad h = false ∧ wordsWith CheckOutcome.uncorr w = []) ∧
    (∃ (s : State) (i : Fin 59) (tag : Fin 64) (t : Nat), s.nocRuns = true ∧ smGet 0 s.noc.tags (tagKey ↑i ↑tag) = t + 1 ∧ t + lossTimeout
      ↑i ≤ s.noc.cyc) ∧
    (∃ (s : State) (r : Fin 36) (port : Fin 11) (e : NocPacket), s.nocRuns = true ∧ s.noc.stalls.contains (↑r, ↑port) = false ∧ e ∈
      s.waiting (↑r) (↑port) 1 ∧ e.since + 65536 ≤ s.noc.cyc) ∧
    (∃ (s : State) (fn : Fin 16) (ev : Bool) (t : Nat), (s.fn ↑fn).full ev = some t ∧ s.fnExists ↑fn = true ∧ (s.fn ↑fn).enable = true ∧
      (s.fn ↑fn).hostStall = false ∧ t + usSteps 10000 ≤ s.noc.cyc) ∧
    (∃ (s : State), s.clk.halt = none ∧ (∀ q : Fin 4, domCond (Domain.quad q) s = DomCond.on)) ∧
    (∃ (s : State) (pcl : Fin 96), 0 < s.engineBad ↑pcl ∧ s.engineBad ↑pcl < 4 ∧ s.partOf ↑pcl = none) ∧
    (∃ (s : State) (pcl : Fin 96) (p : Nat), 0 < s.engineBad ↑pcl ∧ s.engineBad ↑pcl < 4 ∧ s.partOf ↑pcl = some p) ∧
    (∃ (s : State) (pcl : Fin 96) (d : BitVec 384), 0 < s.engineBad ↑pcl ∧ s.engineBad ↑pcl < 4 ∧ d ≠ smGet (0#384) s.trust.comp engineComp) ∧
    (∃ (s : State) (pair : Fin 2), s.pairReady ↑pair = true) ∧
    (∃ (s : State) (pair : Fin 2), s.pwr.faults.contains (pairFault ↑pair) = true ∧ s.plinth.barred.getLsbD ↑pair = false) ∧
    (∃ (s : State) (e : Fin 96), s.clk.halt = none ∧ s.engineBad ↑e = 0) ∧
    (∃ (s : State) (pair : Fin 2), s.pairReady ↑pair = true) :=
  ⟨⟨tS, 7, 0, 1, by rfl, by decide, by rfl, by rfl, by rfl⟩,
   ⟨tS, 7, 0, 0, 0, by rfl, by decide, by rfl, by rfl, by rfl, by rfl⟩,
   ⟨{ tS with noc := { used := [(creditKey 7 3 0, Config.nocDepth + 1)] } }, 7, 0, 0, 0, by rfl, by decide, by rfl, by rfl, by rfl,
     by show (decide (Config.nocDepth + 1 = 0) || decide (Config.nocDepth + 1 + 1 ≤ Config.nocDepth)) = false; rw [decide_eq_false (by omega), decide_eq_false (by omega)]; rfl⟩,
   ⟨tS, 4, 1, by rfl, by decide, by rfl⟩,
   ⟨tS, 7, 5, 2 ^ 66 + 2 ^ 63, 0, by rfl, by decide, by rfl, by rfl, by rfl⟩,
   ⟨tS, 0, 0, 1, [], by rfl, by rfl, by rfl, by rfl⟩,
   ⟨tS, 0, 0, 2 ^ 40 + 1, [(0, .uncorr)], by rfl, by rfl, by rfl, by rfl, by decide⟩,
   ⟨tS, 0, 0, 2 ^ 78 + 5 * 2 ^ 44 + 1, [], by rfl, by rfl, by rfl, by rfl, by rfl⟩,
   ⟨{ tS with noc := { tags := [(0, 1)], cyc := 100000000 } }, 0, 0, 0, by rfl, by rfl, by decide⟩,
   ⟨{ tS with noc := { bufs := [tPkt], cyc := 65536 } }, 0, 0, tPkt, by rfl, by rfl, by decide, by decide⟩,
   ⟨{ tS with fns := [(0, { replyFull := some 0, enable := true })], noc := { cyc := 1000000000 } }, 0, false, 0, by rfl, by rfl, by rfl, by
     rfl, by decide⟩,
   ⟨tS, by rfl, by decide⟩,
   ⟨{ tS with arr := { engBad := [(0, 1)] } }, 0, by decide, by decide, by rfl⟩,
   ⟨{ tS with parts := [(0, { st := .loaded, pmap := [(0, 1)] })], arr := { engBad := [(0, 3)] } }, 0, 0, by decide, by decide, by rfl⟩,
   ⟨{ tS with arr := { engBad := [(0, 3)] } }, 0, 1, by decide, by decide, by decide⟩,
   ⟨tS, 0, by rfl⟩,
   ⟨{ tS with pwr := { faults := [pairFault 0] } }, 0, by decide +kernel, by rfl⟩,
   ⟨tS, 0, by rfl, by rfl⟩,
   ⟨tS, 0, by rfl⟩⟩

theorem wit_DmaKeyEventsComplete :
    (∃ (s : State) (eng : Fin 16) (l : DmaList) (r : List DmaList), s.lists ↑eng = l :: r ∧ l.suspended = false ∧ s.clk.halt = none) ∧
    (∃ (s : State) (eng : Fin 16) (data : List Byte) (l : DmaList) (r : List DmaList) (e : DmaElem) (t : State), s.lists ↑eng = l :: r ∧
      l.suspended = false ∧ s.clk.halt = none ∧ l.kind = DmaKind.list ∧ l.elems[l.k]? = some e ∧ l.k + 1 < l.elems.length ∧ l.joined = [] ∧
      moveElem (s.listAccess l) e data s = (none, t) ∧ t.joinedLines (s.listAccess l) e = []) ∧
    (∃ (s : State) (eng : Fin 16) (data : List Byte) (l : DmaList) (r : List DmaList) (e : DmaElem) (t : State), s.lists ↑eng = l :: r ∧
      l.suspended = false ∧ s.clk.halt = none ∧ l.kind = DmaKind.list ∧ l.elems[l.k]? = some e ∧ l.k + 1 < l.elems.length ∧ l.joined = [] ∧
      moveElem (s.listAccess l) e data s = (none, t) ∧ t.joinedLines (s.listAccess l) e ≠ []) ∧
    (∃ (s : State) (eng : Fin 16) (l : DmaList) (r : List DmaList), s.lists ↑eng = l :: r ∧ l.suspended = false ∧ s.clk.halt = none) ∧
    (∃ (s : State) (eng : Fin 16) (l : DmaList) (r : List DmaList), s.lists ↑eng = l :: r ∧ l.suspended = false ∧ l.kind = DmaKind.list) ∧
    (∃ (s : State) (kix : Fin 64) (key : BitVec 256) (c : Option CmdCtx), (s.slot ↑kix).shadow = some (key, c)) ∧
    (∃ (s : State) (kix : Fin 64), (s.slot ↑kix).st = SlotSt.flushing ∧ s.slotInUse ↑kix = false) ∧
    (∃ (s : State) (jsid : Fin 16) (b : Binding) (k : Nat) (mark : Nat) (ctx : Option CmdCtx) (a : Nat) (line : Nat), s.binding ↑jsid = some
      b ∧ b.rot = some (k, mark, ctx) ∧ s.movesPaused = false ∧ s.nextSweep (↑jsid) mark = some (a, line)) ∧
    (∃ (s : State) (jsid : Fin 16) (b : Binding) (k : Nat) (mark : Nat) (ctx : Option CmdCtx), s.binding ↑jsid = some b ∧ b.rot = some (k,
      mark, ctx) ∧ s.nextSweep (↑jsid) mark = none) :=
  ⟨⟨{ tS with dma := [(0, [tList])] }, 0, tList, [], by rfl, by rfl, by rfl⟩,
   ⟨{ tS with dma := [(0, [{ tList with elems := [tEl0, tEl0] }])] }, 0, [], { tList with elems := [tEl0, tEl0] }, [], tEl0, _, by rfl, by
     rfl, by rfl, by rfl, by rfl, by decide, by rfl, by rfl, by rfl⟩,
   ⟨{ tS with dma := [(0, [{ tList with elems := [tEl, tEl] }])], trans := { l4 := [(0, 1)] }, dram := { tS.dram with mem := [(0, 1), (1, 16), (4096, 7)], merge := [{ line := 64, jsid := 0, jaddr := 4096, kix := 1, bytes := [], fetched := true, bad := false, gen := 0 }] }, keys := { slots := [(1, { st := .loaded })], binds := [(0, some { kix := 1, dbg := true, rot := none })] } },
     0, [], { tList with elems := [tEl, tEl] }, [], tEl, _, by rfl, by rfl, by rfl, by rfl, by rfl, by decide, by rfl, by rfl, by decide⟩,
   ⟨{ tS with dma := [(0, [tList])] }, 0, tList, [], by rfl, by rfl, by rfl⟩,
   ⟨{ tS with dma := [(0, [tList])] }, 0, tList, [], by rfl, by rfl, by rfl⟩,
   ⟨{ tS with keys := { slots := [(1, { shadow := some (0, none) })] } }, 1, 0, none, by rfl⟩,
   ⟨{ tS with keys := { slots := [(1, { st := .flushing })] } }, 1, by rfl, by rfl⟩,
   ⟨{ tS with keys := { binds := [(0, some { kix := 1, dbg := false, rot := some (2, 0, none) })] }, trans := { l4 := [(0, 1)] }, dram := { tS.dram with mem := [(0, 1), (1, 16), (4096, 5)] } },
     0, { kix := 1, dbg := false, rot := some (2, 0, none) }, 2, 0, none, 0, 0, by rfl, by rfl, by rfl, by decide +kernel⟩,
   ⟨{ tS with keys := { binds := [(0, some { kix := 1, dbg := false, rot := some (2, 0, none) })] } }, 0,
     { kix := 1, dbg := false, rot := some (2, 0, none) }, 2, 0, none, by rfl, by rfl, by rfl⟩⟩

theorem wit_MaquetteEventsComplete :
    (∃ (part : Fin 4) (s : State) (e : Nat) (l : DmaList) (r : List DmaList) (b : List Byte) (t : State), s.engineOf (DmaKind.load ↑part) =
      some e ∧ s.lists e = l :: r ∧ (s.part ↑part).st = PState.loading ∧ s.settled ↑part = true ∧ l.kind = DmaKind.load ↑part ∧ l.suspended
      = false ∧ s.clk.halt = none ∧ readJob (s.listAccess l) (s.part ↑part).laddr (s.part ↑part).llen s = (b, none, t)) ∧
    (∃ (s : State) (die : Fin 4) (g : Migration), s.migration ↑die = some g ∧ g.copied = false ∧ g.switched = false) ∧
    (∃ (part : Fin 4) (s : State) (region : Fin 24) (r : Reconfig) (im : Image), List.find? (fun r => r.active && r.mask.getLsbD ↑region &&
      !r.rewritten.getLsbD ↑region) (s.part ↑part).reconfig = some r ∧ r.image = some im ∧ r.reread.isSome = true) ∧
    (∃ (part : Fin 4) (s : State) (region : Fin 24) (r : Reconfig) (im : Image), List.find? (fun r => r.active && r.mask.getLsbD ↑region &&
      !r.rewritten.getLsbD ↑region) (s.part ↑part).reconfig = some r ∧ r.image = some im ∧ r.reread.isSome = true) ∧
    (∃ (part : Fin 4) (s : State) (region : Fin 24) (r : Reconfig) (im : Image), List.find? (fun r => r.active && r.mask.getLsbD ↑region &&
      !r.rewritten.getLsbD ↑region) (s.part ↑part).reconfig = some r ∧ r.image = some im ∧ r.reread = none ∧ r.unread = true) ∧
    (∃ (part : Fin 4) (s : State) (w : Switch), (s.part ↑part).switch = some w ∧ w.phase = 1 ∧ (s.part ↑part).st = PState.running ∧ (s.part
      ↑part).phase = Phase.paused ∧ (s.part ↑part).pausedAt.isSome = true) ∧
    (∃ (part : Fin 4) (s : State) (w : Switch), (s.part ↑part).switch = some w ∧ w.phase = 5 ∧ (s.part ↑part).st = PState.loaded) ∧
    (∃ (part : Fin 4) (s : State) (w : Switch), (s.part ↑part).switch = some w ∧ w.phase = 7 ∧ (s.part ↑part).startAt.isSome = true) ∧
    (∃ (part : Fin 4) (s : State) (a : CastAct), (s.part ↑part).cast = some a ∧ a.trig1 = false ∧ a.capturing = false ∧ a.placed = true ∧
      s.clk.halt = none ∧ (s.part ↑part).inFrame = false ∧ (s.part ↑part).pausedAtFrame a.m = true ∧ s.settled ↑part = true) ∧
    (∃ (part : Fin 4) (s : State) (a : CastAct), (s.part ↑part).cast = some a ∧ a.trig1 = true ∧ a.capturing = false ∧ (s.part ↑part).st =
      PState.running ∧ (s.part ↑part).phase ≠ Phase.stopped ∧ a.step ≤ s.cnt ∧ s.risesNow (s.part ↑part) (s.genWord (castGen (s.part ↑part)
      a.gen)) = true) ∧
    (∃ (part : Fin 4) (s : State) (a : CastAct) (r : CastRec), (s.part ↑part).cast = some a ∧ (s.part ↑part).shadow = some r ∧ a.capturing =
      true ∧ s.clk.halt = none) ∧
    (∃ (part : Fin 4) (s : State) (e : Nat) (l : DmaList) (r : List DmaList) (el : DmaElem) (b : List Byte) (t : State), s.engineOf
      (DmaKind.restore ↑part) = some e ∧ s.lists e = l :: r ∧ l.kind = DmaKind.restore ↑part ∧ l.suspended = false ∧ s.clk.halt = none ∧
      l.elems = [el] ∧ readJob (s.listAccess l) (BitVec.toNat el.src) (BitVec.toNat el.len) s = (b, none, t)) :=
  ⟨⟨0, { tS with parts := [(0, { st := .loading })], dma := [(0, [{ tList with kind := .load 0 }])] }, 0, { tList with kind := .load 0 },
     [], [], _, by rfl, by rfl, by rfl, by rfl, by rfl, by rfl, by rfl, by rfl⟩,
   ⟨{ tS with arr := { migr := [(0, some { part := 0, lcl := 0, src := 0, tgt := 1, spareL := 1, m := 0, copied := false, switched := false, ctx := none })] } },
     0, { part := 0, lcl := 0, src := 0, tgt := 1, spareL := 1, m := 0, copied := false, switched := false, ctx := none }, by rfl, by rfl,
     by rfl⟩,
   ⟨0,
     { tS with parts := [(0, { reconfig := [{ mask := 1, m := 0, resume := 0, addr := 0, len := 0, image := some tIm, rewritten := 0, unread := false, reread := some true, active := true, ctx := tCtx }] })] },
     0,
     { mask := 1, m := 0, resume := 0, addr := 0, len := 0, image := some tIm, rewritten := 0, unread := false, reread := some true, active := true, ctx := tCtx },
     tIm, by rfl, by rfl, by rfl⟩,
   ⟨0,
     { tS with parts := [(0, { reconfig := [{ mask := 1, m := 0, resume := 0, addr := 0, len := 0, image := some tIm, rewritten := 0, unread := false, reread := some true, active := true, ctx := tCtx }] })] },
     0,
     { mask := 1, m := 0, resume := 0, addr := 0, len := 0, image := some tIm, rewritten := 0, unread := false, reread := some true, active := true, ctx := tCtx },
     tIm, by rfl, by rfl, by rfl⟩,
   ⟨0,
     { tS with parts := [(0, { reconfig := [{ mask := 1, m := 0, resume := 0, addr := 0, len := 0, image := some tIm, rewritten := 0, unread := true, reread := none, active := true, ctx := tCtx }] })] },
     0,
     { mask := 1, m := 0, resume := 0, addr := 0, len := 0, image := some tIm, rewritten := 0, unread := true, reread := none, active := true, ctx := tCtx },
     tIm, by rfl, by rfl, by rfl, by rfl⟩,
   ⟨0,
     { tS with parts := [(0, { switch := some { tSw with phase := 1 }, st := .running, phase := .paused, pausedAt := some (0, 0, 0, 0) })] },
     { tSw with phase := 1 }, by rfl, by rfl, by rfl, by rfl, by rfl⟩,
   ⟨0, { tS with parts := [(0, { switch := some { tSw with phase := 5 }, st := .loaded })] }, { tSw with phase := 5 }, by rfl, by rfl, by
     rfl⟩,
   ⟨0, { tS with parts := [(0, { switch := some { tSw with phase := 7 }, startAt := some 0 })] }, { tSw with phase := 7 }, by rfl, by rfl,
     by rfl⟩,
   ⟨0,
     { tS with parts := [(0, { st := .running, phase := .paused, pausedAt := some (1, 0, 0, 0), cast := some { ctx := none, trig1 := false, gen := 0, step := 0, m := 1, capturing := false, beganAt := 0, restart := false } })] },
     { ctx := none, trig1 := false, gen := 0, step := 0, m := 1, capturing := false, beganAt := 0, restart := false }, by rfl, by rfl, by
     rfl, by rfl, by rfl, by rfl, by rfl, by rfl⟩,
   ⟨0,
     { tS with parts := [(0, { st := .running, begun := true, dies := 1, cast := some { ctx := none, trig1 := true, gen := 0, step := 0, m := 1, capturing := false, beganAt := 0, restart := false } })], fab := { cfg := [(cfgKey 0 1537 4, 1), (cfgKey 0 1537 7, 0x40)] } },
     { ctx := none, trig1 := true, gen := 0, step := 0, m := 1, capturing := false, beganAt := 0, restart := false }, by rfl, by rfl, by
     rfl, by rfl, by decide, by decide, by rfl⟩,
   ⟨0,
     { tS with parts := [(0, { shadow := some tRec, cast := some { ctx := none, trig1 := false, gen := 0, step := 0, m := 1, capturing := true, beganAt := 0, restart := false } })] },
     { ctx := none, trig1 := false, gen := 0, step := 0, m := 1, capturing := true, beganAt := 0, restart := false }, tRec, by rfl, by rfl,
     by rfl, by rfl⟩,
   ⟨0, { tS with dma := [(0, [{ tList with kind := .restore 0, elems := [tEl0] }])] }, 0,
     { tList with kind := .restore 0, elems := [tEl0] }, [], tEl0, [], _, by rfl, by rfl, by rfl, by rfl, by rfl, by rfl, by rfl⟩⟩

theorem wit_ReliabilityEventsComplete :
    (∃ (s : State) (pcl : Fin 96) (grp : Fin 16), s.raspOn = true ∧ 12 ≤ ↑grp ∧ (s.freeFor (s.partOf ↑pcl) fun x => x.evalLen) = true) ∧
    (∃ (s : State) (region : Fin 24), s.fab.configured.getLsbD ↑region = true ∧ s.fab.stopped.getLsbD ↑region = false ∧ s.stepping = true ∧
      smGet 0 s.fab.cfgErr (↑region * 1539 + smGet 0 s.fab.monitor ↑region) = 0) ∧
    (∃ (s : State) (pcl : Fin 96) (grp : Fin 16), s.raspOn = true ∧ 0 < ↑grp ∧ ↑grp < 12 ∧ s.partOfDie ((12 * ↑pcl + ↑grp) / 288) = none) ∧
    (∃ (s : State) (pcl : Fin 96) (grp : Fin 16) (q : Nat), s.raspOn = true ∧ 0 < ↑grp ∧ ↑grp < 12 ∧ s.partOfDie ((12 * ↑pcl + ↑grp) / 288)
      = some q ∧ (s.frameRuns q && decide (s.relStep q % 4 = 0) && s.scheduled (12 * ↑pcl + ↑grp)) = true) ∧
    (∃ (s : State) (pcl : Fin 96) (grp : Fin 16) (q : Nat), s.raspOn = true ∧ 0 < ↑grp ∧ ↑grp < 12 ∧ s.partOfDie ((12 * ↑pcl + ↑grp) / 288)
      = some q ∧ (s.frameRuns q && decide (s.relStep q % 4 = 0) && s.scheduled (12 * ↑pcl + ↑grp)) = false) ∧
    (∃ (s : State) (region : Fin 24), s.fab.configured.getLsbD ↑region = true ∧ s.fab.stopped.getLsbD ↑region = false ∧ s.stepping = true ∧
      smGet 0 s.fab.cfgErr (↑region * 1539 + smGet 0 s.fab.monitor ↑region) = 1) ∧
    (∃ (s : State) (region : Fin 24), s.fab.configured.getLsbD ↑region = true ∧ s.fab.stopped.getLsbD ↑region = false ∧ s.stepping = true ∧
      smGet 0 s.fab.cfgErr (↑region * 1539 + smGet 0 s.fab.monitor ↑region) = 2) ∧
    (∃ (s : State) (part : Fin 4) (code : Nat) (key : Nat) (stage : Nat) (b : List Byte) (t : State), s.nextRecovery ↑part = some (code,
      key, stage) ∧ code ≠ thrRegCode ∧ stage ≠ 3 ∧ (s.part ↑part).st ≠ PState.empty ∧ s.freeStore (↑part) code key = true ∧ readJob
      (s.access (s.part ↑part).jsid dmaMaster) (s.part ↑part).laddr (s.part ↑part).llen s = (b, none, t)) ∧
    (∃ (s : State) (part : Fin 4) (code : Nat) (key : Nat) (stage : Nat) (b : List Byte) (t : State), s.nextRecovery ↑part = some (code,
      key, stage) ∧ code ≠ thrRegCode ∧ stage ≠ 3 ∧ (s.part ↑part).st ≠ PState.empty ∧ s.freeStore (↑part) code key = true ∧ readJob
      (s.access (s.part ↑part).jsid dmaMaster) (s.part ↑part).laddr (s.part ↑part).llen s = (b, none, t)) ∧
    (∃ (s : State) (part : Fin 4) (code : Nat) (key : Nat) (pt : Nat) (src : Nat) (l : Nat) (k : FrameNo) (tv : Nat), List.find? (fun r =>
      decide (r.snd.snd.snd = ↑part) && decide (r.snd.snd.fst = 3)) s.arr.recovery = some (code, key, 3, pt) ∧ (s.part ↑part).heldFrame =
      some (k, tv) ∧ clusterOfKey code key = some src ∧ (s.part ↑part).lclOf src = some l ∧ relocTarget (↑part) (src / 24) s = none) ∧
    (∃ (s : State) (part : Fin 4) (code : Nat) (key : Nat) (pt : Nat) (src : Nat) (l : Nat) (k : FrameNo) (tv : Nat) (g : Nat) (u : Nat),
      List.find? (fun r => decide (r.snd.snd.snd = ↑part) && decide (r.snd.snd.fst = 3)) s.arr.recovery = some (code, key, 3, pt) ∧ (s.part
      ↑part).heldFrame = some (k, tv) ∧ clusterOfKey code key = some src ∧ (s.part ↑part).lclOf src = some l ∧ relocTarget (↑part) (src /
      24) s = some (g, u) ∧ s.migration (src / 24) = none) ∧
    (∃ (s : State) (image : SlotImage) (ok : Bool) (c : CmdCtx) (total : Nat) (st : Nat), s.fw.verify = some (c, total) ∧ verifyStatus s
      total image ok = some st) ∧
    (∃ (s : State) (image : SlotImage) (ok : Bool) (c : CmdCtx) (total : Nat), s.fw.verify = some (c, total) ∧ verifyStatus s total image ok
      = none) ∧
    (∃ (s : State) (gen : Gen) (p : Nat), s.partOfDie (genDie gen) = some p ∧ s.risesNow (s.part p) (s.genWord gen) = true) ∧
    (∃ (s : State) (reading : Nat),
      (({ s with pwr := { s.pwr with bins := (List.range 6).map fun j => s.binSecs j + bitNat (decide (j = lifeBin reading)) } } :
      State).lifeUsed < 900000 ∨ s.pwr.lifeDone = true)) ∧
    (∃ (s : State) (reading : Nat), 900000 ≤
      ({ s with pwr := { s.pwr with bins := (List.range 6).map fun j => s.binSecs j + bitNat (decide (j = lifeBin reading)) } } :
      State).lifeUsed ∧ s.pwr.lifeDone = false) :=
  ⟨⟨{ tS with parts := [(0, { st := .loaded, pmap := [(0, 1)] })] }, 0, 12, by rfl, by decide, by rfl⟩,
   ⟨{ tS with fab := { configured := 1 } }, 0, by rfl, by rfl, by rfl, by rfl⟩,
   ⟨{ tS with parts := [] }, 0, 1, by rfl, by decide, by decide, by rfl⟩,
   ⟨{ tS with parts := [(0, { st := .running, begun := true, dies := 1, tick := 100000 })], fab := { sched := [(1, 1)] } }, 0, 1, 0, by rfl,
     by decide, by decide, by rfl, by rfl⟩,
   ⟨{ tS with parts := [(0, { st := .running, dies := 1, tick := 100000 })] }, 0, 1, 0, by rfl, by decide, by decide, by rfl, by rfl⟩,
   ⟨{ tS with fab := { configured := 1, cfgErr := [(0, 1)] } }, 0, by rfl, by rfl, by rfl, by rfl⟩,
   ⟨{ tS with fab := { configured := 1, cfgErr := [(0, 2)] } }, 0, by rfl, by rfl, by rfl, by rfl⟩,
   ⟨{ tS with parts := [(0, { st := .loaded })], arr := { recovery := [(0, 0, 1, 0)] } }, 0, 0, 0, 1, [], _, by rfl, by decide, by decide,
     by decide, by rfl, by rfl⟩,
   ⟨{ tS with parts := [(0, { st := .loaded })], arr := { recovery := [(0, 0, 1, 0)] } }, 0, 0, 0, 1, [], _, by rfl, by decide, by decide,
     by decide, by rfl, by rfl⟩,
   ⟨{ tS with parts := [(0, { pmap := [(0, 1)], heldFrame := some (0, 0) })], arr := { recovery := [(0, 0, 3, 0)] } }, 0, 0, 0, 0, 0, 0, 0,
     0, by rfl, by rfl, by rfl, by rfl, by rfl⟩,
   ⟨{ tS with parts := [(0, { image := some tIm, pmap := [(0, 1)], heldFrame := some (0, 0) })], arr := { recovery := [(0, 0, 3, 0)] } }, 0,
     0, 0, 0, 0, 0, 0, 0, 0, 0, by rfl, by rfl, by rfl, by rfl, by rfl, by rfl⟩,
   ⟨{ tS with fw := { verify := some (tCtx, 1) } }, tSlot, false, tCtx, 1, _, by rfl, by rfl⟩,
   ⟨{ tS with fw := { verify := some (tCtx, 0) } }, tSlot, true, tCtx, 0, by rfl, by rfl⟩,
   ⟨{ tS with parts := [(0, { st := .running, begun := true, dies := 1 })], fab := { cfg := [(cfgKey 0 1537 4, 1), (cfgKey 0 1537 7, 0x40)] } },
     .gck 0 0, 0, by rfl, by rfl⟩,
   ⟨tS, 0, by decide⟩,
   ⟨{ tS with pwr := { bins := [1000000000000, 1000000000000, 1000000000000, 1000000000000, 1000000000000, 1000000000000] } }, 0, by decide,
     by rfl⟩⟩

theorem wit_GateRefusesEveryOpcode :
    ∃ (i : Instr) (c : CmdCtx) (op : Nat) (st : Nat) (s : State), instrHead i = some (c, op) ∧ s.runs op = true ∧ s.unblocked c = true ∧
      gate (classOf op) op c s = some st :=
  ⟨.armProbe tCtx, tCtx, 0x0F01, _, tS, by rfl, by rfl, by rfl, by rfl⟩

theorem wit_OnlyListedGroupsOutsideRun :
    ∃ (i : Instr) (c : CmdCtx) (op : Nat) (s : State), instrHead i = some (c, op) ∧ s.runs op = true ∧ s.unblocked c = true ∧ (s.pwr.st =
      PwrState.idle ∨ s.pwr.st = PwrState.sleep) ∧ ¬op / 256 ∈ [1, 2, 11, 14, 15] ∧ ¬op ∈ [3073, 3074, 3079, 1798] :=
  ⟨.frameStatus tCtx 0 0, tCtx, 0x0305, { tS with pwr := { st := .idle } }, by rfl, by rfl, by rfl, by decide, by decide, by decide⟩

theorem wit_SourceClassesRefuse :
    (∃ (i : Instr) (c : CmdCtx) (op : Nat) (s : State), instrHead i = some (c, op) ∧ s.runs op = true ∧ s.pwr.st = PwrState.run ∧
      s.plinth.recovery = false ∧ s.unblocked c = true ∧ 1 ≤ c.src.toNat ∧ c.src.toNat < 16 ∧ (classOf op = SrcClass.p ∨ classOf op =
      SrcClass.h)) ∧
    (∃ (i : Instr) (c : CmdCtx) (op : Nat) (s : State), instrHead i = some (c, op) ∧ s.runs op = true ∧ s.pwr.st = PwrState.run ∧
      s.plinth.recovery = false ∧ s.unblocked c = true ∧ c.src.toNat = 24 ∧ s.dbg.level ≠ 2 ∧ op / 256 ≠ 1 ∧ op / 256 ≠ 14) ∧
    (∃ (i : Instr) (c : CmdCtx) (op : Nat) (s : State), instrHead i = some (c, op) ∧ s.runs op = true ∧ s.pwr.st = PwrState.run ∧
      s.plinth.recovery = false ∧ s.unblocked c = true ∧ c.src.toNat < 16 ∧ (op = 3841 ∨ op = 3842)) ∧
    (∃ (i : Instr) (c : CmdCtx) (op : Nat) (s : State), instrHead i = some (c, op) ∧ s.runs op = true ∧ s.pwr.st = PwrState.run ∧
      s.plinth.recovery = false ∧ s.unblocked c = true ∧ c.src.toNat ≠ 24 ∧ (op = 3329 ∨ op = 3330 ∨ op = 3331)) :=
  ⟨⟨.pwrSet { tCtx with src := 15 } 1 0, { tCtx with src := 15 }, 0x0201, tS, by rfl, by rfl, by rfl, by rfl, by rfl, by decide, by decide,
     by decide⟩,
   ⟨.timeRead tDbg, tDbg, 0x0B01, tS, by rfl, by rfl, by rfl, by rfl, by rfl, by rfl, by decide, by decide, by decide⟩,
   ⟨.armProbe tCtx, tCtx, 0x0F01, tS, by rfl, by rfl, by rfl, by rfl, by rfl, by decide, by decide⟩,
   ⟨.dbgHalt tCtx, tCtx, 0x0D01, tS, by rfl, by rfl, by rfl, by rfl, by rfl, by decide, by decide⟩⟩

theorem wit_UnassignedServesOnlyLinkLocal :
    ∃ (i : Instr) (c : CmdCtx) (op : Nat) (s : State), instrHead i = some (c, op) ∧ s.runs op = true ∧ s.pwr.st = PwrState.run ∧
      s.plinth.recovery = false ∧ s.unblocked c = true ∧ s.arm.assigned = false ∧ op ≠ 3841 ∧ op ≠ 3842 ∧ classRefusal (classOf op) op
      c.src.toNat s = none :=
  ⟨.timeRead tCtx, tCtx, 0x0B01, { tS with arm := {} }, by rfl, by rfl, by rfl, by rfl, by rfl, by rfl, by decide, by decide, by rfl⟩

theorem wit_CommandsWaitWhileNotTaken :
    ∃ (i : Instr) (c : CmdCtx) (op : Nat) (s : State), instrHead i = some (c, op) ∧ (s.plinth.ready0 = false ∨ s.pwr.st = PwrState.deep ∨
      s.pwr.st = PwrState.watch ∨ s.pwr.st = PwrState.off ∨ s.plinth.ready1 = false ∧ pairOneRuns op = true) :=
  ⟨.identQuery tCtx, tCtx, 0x0101, State.reset, by rfl, by decide⟩

theorem wit_DeferredLimit :
    ∃ (i : Instr) (c : CmdCtx) (op : Nat) (s : State), instrHead i = some (c, op) ∧ deferredRow op = true ∧ s.runs op = true ∧ s.unblocked c
      = true ∧ gate (classOf op) op c s = none ∧ 32 ≤ s.deferredOf c.src :=
  ⟨.consensusQuery tCtx 0 0, tCtx, 0x0F04,
    { tS with plinth := { tS.plinth with deferred := List.replicate 32 { ctx := tCtx, opcode := 0 } } }, by rfl, by rfl, by rfl, by rfl, by
    rfl, by decide⟩

theorem wit_EmptyQueueStep :
    ∃ (s : State), s.pending = [] ∧ (s.executes = false ∨ s.plinth.accepted = []) :=
  ⟨tS, by rfl, by decide⟩

theorem wit_StepKeepsBounds :
    ∃ (s : State) (t : State), s.Bounded ∧ step s = Host.Outcome.next t :=
  ⟨tS, _, by unfold State.Bounded; decide, by rfl⟩

theorem wit_QueueAndBuildCodeStand :
    (∃ (i : Instr) (s : State) (t : State), exec i s = Host.Outcome.next t) ∧
    (∃ (i : Instr) (s : State) (t : State), exec i s = Host.Outcome.next t) :=
  ⟨⟨.identQuery tCtx, tS, _, by rfl⟩,
   ⟨.identQuery tCtx, tS, _, by rfl⟩⟩

theorem wit_NothingElseStores :
    ∃ (i : Instr) (s : State) (t : State), storesDram i = false ∧ exec i s = Host.Outcome.next t :=
  ⟨.identQuery tCtx, tS, _, by rfl, by rfl⟩

theorem wit_CommitStoresItsLine :
    (∃ (s : State) (e : MergeLine), Memory.wf s.dram.mem = true ∧ List.find? (fun x => x.fetched) s.dram.merge = some e ∧ s.clk.coast =
      true) ∧
    (∃ (s : State) (e : MergeLine), Memory.wf s.dram.mem = true ∧ List.find? (fun x => x.fetched) s.dram.merge = some e ∧ s.clk.coast =
      false) :=
  ⟨⟨{ tS with clk := { tS.clk with coast := true }, dram := { tS.dram with merge := [{ line := 1, jsid := 0, jaddr := 0, kix := 0, bytes := [(0, 5)], fetched := true, bad := false, gen := 0 }] } },
     { line := 1, jsid := 0, jaddr := 0, kix := 0, bytes := [(0, 5)], fetched := true, bad := false, gen := 0 }, by rfl, by rfl, by rfl⟩,
   ⟨{ tS with dram := { tS.dram with merge := [{ line := 1, jsid := 0, jaddr := 0, kix := 0, bytes := [(0, 5)], fetched := true, bad := false, gen := 0 }] } },
     { line := 1, jsid := 0, jaddr := 0, kix := 0, bytes := [(0, 5)], fetched := true, bad := false, gen := 0 }, by rfl, by rfl, by rfl⟩⟩

theorem wit_ReportsChangeNothing :
    (∃ (i : Instr) (s : State) (t : State), exec i s = Host.Outcome.next t ∧ onlyReports i = true) ∧
    (∃ (i : Instr) (s : State) (t : State) (c : CmdCtx) (jsid : Byte) (rsvd : BitVec 56) (jaddr : U64), exec i s = Host.Outcome.next t ∧ i =
      Instr.transWalk c jsid rsvd jaddr) :=
  ⟨⟨.identQuery tCtx, tS, _, by rfl, by rfl⟩,
   ⟨.transWalk tCtx 0 0 0, tS, _, tCtx, 0, 0, 0, by rfl, by rfl⟩⟩

theorem wit_FunctionPageFrame :
    (∃ (i : Instr) (s : State) (t : State) (n : Nat), exec i s = Host.Outcome.next t ∧ ownPageRow i = some n) ∧
    (∃ (i : Instr) (s : State) (t : State) (n : Nat) (m : Nat), exec i s = Host.Outcome.next t ∧ ownPageRow i = some n ∧ m ≠ n) ∧
    (∃ (i : Instr) (s : State) (t : State), exec i s = Host.Outcome.next t ∧ (∃ fn v, i = Instr.cmdDbWrite fn v ∨ i = Instr.rplHeadWrite fn
      v ∨ i = Instr.evtHeadWrite fn v)) :=
  ⟨⟨.ctrlQreset 0, tS, _, 0, by rfl, by rfl⟩,
   ⟨.ctrlQreset 0, tS, _, 0, 1, by rfl, by rfl, by decide⟩,
   ⟨.cmdDbWrite 0 0, tS, _, by rfl, ⟨0, 0, .inl rfl⟩⟩⟩

theorem wit_DebugPortFrame :
    ∃ (i : Instr) (s : State) (t : State), debugPortRow i = true ∧ exec i s = Host.Outcome.next t :=
  ⟨.pktCtrlClr, tS, _, by rfl, by rfl⟩

theorem wit_PciExpressResetsAlterNoRun :
    (∃ (i : Instr) (s : State) (t : State), (i = Instr.flrPf ∨ i = Instr.pcieConventionalReset ∨ ∃ fn, i = Instr.flrVf fn) ∧ exec i s =
      Host.Outcome.next t) ∧
    (∃ (i : Instr) (s : State) (t : State), (i = Instr.flrPf ∨ i = Instr.pcieConventionalReset ∨ ∃ fn, i = Instr.flrVf fn) ∧ exec i s =
      Host.Outcome.next t) ∧
    (∃ (i : Instr) (s : State) (t : State), (i = Instr.flrPf ∨ i = Instr.pcieConventionalReset ∨ ∃ fn, i = Instr.flrVf fn) ∧ exec i s =
      Host.Outcome.next t) ∧
    (∃ (i : Instr) (s : State) (t : State), (i = Instr.flrPf ∨ i = Instr.pcieConventionalReset ∨ ∃ fn, i = Instr.flrVf fn) ∧ exec i s =
      Host.Outcome.next t) ∧
    (∃ (i : Instr) (s : State) (t : State), (i = Instr.flrPf ∨ i = Instr.pcieConventionalReset ∨ ∃ fn, i = Instr.flrVf fn) ∧ exec i s =
      Host.Outcome.next t) ∧
    (∃ (i : Instr) (s : State) (t : State), (i = Instr.flrPf ∨ i = Instr.pcieConventionalReset ∨ ∃ fn, i = Instr.flrVf fn) ∧ exec i s =
      Host.Outcome.next t) :=
  ⟨⟨.flrPf, tS, _, by decide, by rfl⟩,
   ⟨.flrPf, tS, _, by decide, by rfl⟩,
   ⟨.flrPf, tS, _, by decide, by rfl⟩,
   ⟨.flrPf, tS, _, by decide, by rfl⟩,
   ⟨.flrPf, tS, _, by decide, by rfl⟩,
   ⟨.flrPf, tS, _, by decide, by rfl⟩⟩

theorem wit_WordResultIsTruthTable :
    ∃ (w : BitVec 96), BitVec.getLsbD (wordCtl w) 0 = true :=
  ⟨BitVec.allOnes 96, by rfl⟩

theorem wit_RingRegistersNeedEnableClear :
    (∃ (fn : Fin 16) (off : U16) (s : State), s.reaches ↑fn = true ∧ BitVec.toNat off ∈ [256, 260, 264, 288, 292, 296, 320, 324, 328] ∧
      (s.fn ↑fn).enable = true) ∧
    (∃ (fn : Fin 16) (off : U16) (s : State), s.reaches ↑fn = true ∧ BitVec.toNat off ∈ [256, 260, 264, 288, 292, 296, 320, 324, 328] ∧
      (s.fn ↑fn).enable = false) :=
  ⟨⟨0, 0x148, { tS with fns := [(0, { enable := true })] }, by rfl, by decide, by rfl⟩,
   ⟨0, 0x100, tS, by rfl, by decide, by rfl⟩⟩

theorem wit_DebugPolicyLocks :
    (∃ (s : State), s.reaches 0 = true ∧ s.arm.obsLocked = false) ∧
    (∃ (s : State), s.reaches 0 = true ∧ s.arm.obsLocked = true) ∧
    (∃ (s : State), s.reaches 0 = true ∧ s.dbgOn = true ∧ s.dbg.busyUntil ≤ s.clk.now ∧ s.arm.obsOpen = false) :=
  ⟨⟨tS, by rfl, by rfl⟩,
   ⟨{ tS with arm := { obsLocked := true } }, by rfl, by rfl⟩,
   ⟨tS, by rfl, by rfl, by decide, by rfl⟩⟩

end Sys2Proof.Tests
end

namespace Sys2Proof.Machine

/-- R57 writes the index from its most significant bit, operand D's, down to operand A's. -/
theorem lutIndex_eq_operandD_first (a b c d : Bool) :
    lutIndex a b c d = 8 * bitNat d + 4 * bitNat c + 2 * bitNat b + bitNat a := by
  unfold lutIndex
  omega

/-- CTL bit 0 is EN: a word with EN = 0 reads nothing and gives 0 instead (R61). -/
theorem wordResult_of_enabled {w : BitVec 96} (hEn : (wordCtl w).getLsbD 0 = true) (s : State) (x : Partition) (pcl grp k : Nat) :
    wordResult s x pcl grp k w = (wordTT w).getLsbD
      (lutIndex (readBit s x pcl grp k (wordOp w 0)) (readBit s x pcl grp k (wordOp w 1))
        (readBit s x pcl grp k (wordOp w 2)) (readBit s x pcl grp k (wordOp w 3))) :=
  if_pos hEn

/-- Settles O58: an enabled word looks its truth table up, and the index it uses is R57's sum. -/
theorem wordResultIsTruthTable : Obligations.WordResultIsTruthTable := by
  unfold Obligations.WordResultIsTruthTable
  intro s x pcl grp k w hEn
  rw [wordResult_of_enabled hEn, lutIndex_eq_operandD_first]

end Sys2Proof.Machine

namespace Sys2Proof.Machine

/-! ### Ring registers of a function page (R471) -/

/-- BASE_LO, BASE_HI and SIZE of the command, reply and event rings (Table 23.3). -/
def ringRegOffsets : List Nat := [0x100, 0x104, 0x108, 0x120, 0x124, 0x128, 0x140, 0x144, 0x148]

theorem mem_ringRegOffsets {off : Nat} : off ∈ ringRegOffsets ↔
    off = 0x100 ∨ off = 0x104 ∨ off = 0x108 ∨ off = 0x120 ∨ off = 0x124 ∨ off = 0x128 ∨ off = 0x140 ∨ off = 0x144 ∨ off = 0x148 := by
  simp only [ringRegOffsets, List.mem_cons, List.not_mem_nil, or_false]

/-- A write with every byte enable set reaches its register, once the endpoint's domain is awake (R468, R407). -/
theorem exec_registerWrite_of_reaches {fn : Fin 16} {s : State} (h : s.reaches fn.val = true) (off : U16) (v : U32) :
    exec (.registerWrite fn false off v 0xF#4) s = .next (writeFunction fn.val off.toNat v (touchDomain .base s)) :=
  congrArg Host.Outcome.next (hostAccess_reaches h)

/-- A write to one of the nine only stores a value: CTRL, the doorbell, the head indexes and the interrupt registers stand at other offsets. -/
theorem writeFunction_ringReg {off : Nat} (hoff : off ∈ ringRegOffsets) (n : Nat) (v : U32) (s : State) :
    writeFunction n off v s = s.setFn n (writePlain (s.fn n) off v) := by
  rcases mem_ringRegOffsets.mp hoff with rfl | rfl | rfl | rfl | rfl | rfl | rfl | rfl | rfl <;> rfl

/-- The nine offsets fall into three blocks, one per ring, at 0x100, 0x120 and 0x140 (Table 23.3). -/
theorem writePlain_ringReg {off : Nat} (hoff : off ∈ ringRegOffsets) (f : Func) (v : U32) :
    writePlain f off v =
      if off < 0x120 then { f with cmd := writeRingReg f f.cmd (off - 0x100) v }
      else if off < 0x140 then { f with rpl := writeRingReg f f.rpl (off - 0x120) v }
      else { f with evt := writeRingReg f f.evt (off - 0x140) v } := by
  rcases mem_ringRegOffsets.mp hoff with rfl | rfl | rfl | rfl | rfl | rfl | rfl | rfl | rfl <;> rfl

theorem writeRingReg_of_enabled {f : Func} (hEn : f.enable = true) (r : RingRegs) (k : Nat) (v : U32) :
    writeRingReg f r k v = r :=
  if_pos hEn

theorem writeRingReg_of_disabled {f : Func} (hEn : f.enable = false) (r : RingRegs) (k : Nat) (v : U32) :
    writeRingReg f r k v =
      if k = 0 then { r with base := BitVec.ofNat 64 (r.base.toNat / 2 ^ 32 * 2 ^ 32 + v.toNat / 4096 * 4096) }
      else if k = 4 then { r with base := BitVec.ofNat 64 (v.toNat * 2 ^ 32 + r.base.toNat % 2 ^ 32) }
      else { r with log2 := v.setWidth 5 } :=
  if_neg (by rw [hEn]; exact Bool.false_ne_true)

/-- Settles O59: the write reaches exactly the one ring register at its offset, and that write is the identity while ENABLE is 1. -/
theorem ringRegistersNeedEnableClear : Obligations.RingRegistersNeedEnableClear := by
  unfold Obligations.RingRegistersNeedEnableClear
  intro fn off v s hReach hoff
  rw [exec_registerWrite_of_reaches hReach, writeFunction_ringReg hoff, touchDomain_fn, writePlain_ringReg hoff]
  refine ⟨fun hEn => ?enabled, fun hEn => ?disabled⟩
  case enabled => simp only [writeRingReg_of_enabled hEn, ite_self]
  case disabled => simp only [writeRingReg_of_disabled hEn]

/-! ### DBG_POLICY and AUTH command 0x01 (R477) -/

theorem writeDbgPolicy_of_unlocked {s : State} (h : s.arm.obsLocked = false) (v : U32) :
    writeDbgPolicy v s = { s with arm := { s.arm with obsOpen := v.getLsbD 0, obsLocked := true } } :=
  if_neg (by rw [h]; exact Bool.false_ne_true)

theorem writeDbgPolicy_of_locked {s : State} (h : s.arm.obsLocked = true) (v : U32) : writeDbgPolicy v s = s :=
  if_pos h

/-- DBG_POLICY stands in the physical function's device page: a write acts when the host reaches function 0. -/
theorem exec_dbgPolicyWrite_of_reaches {s : State} (h : s.reaches 0 = true) (v : U32) :
    exec (.dbgPolicyWrite v) s = .next (writeDbgPolicy v (touchDomain .base s)) :=
  congrArg Host.Outcome.next (hostAccess_reaches h)

/-- With the port on and its last access over, an access clears ERR, takes a free busy time and has its effect (R451). -/
theorem dapAccess_of_idle {s : State} (hOn : s.dbgOn = true) (hIdle : s.dbg.busyUntil ≤ s.clk.now) (body : State → State) :
    dapAccess body s =
      body (modDbg (fun d => { d with err := false, busyUntil := s.clk.now + (s.draw 11).1.toNat % 1601 }) (s.draw 11).2) := by
  simp only [dapAccess, hOn, Bool.not_true, Bool.false_eq_true, if_false, if_neg (Nat.not_lt.mpr hIdle)]

/-- AUTH command 0x01 needs OBSOPEN: without it the write ends in ERR. -/
theorem writeAuth_observe_of_closed {s : State} (h : s.arm.obsOpen = false) : writeAuth 1 s = dapErr s := by
  simp only [writeAuth, h, Bool.false_eq_true, if_true, if_false]

/-- While OBSOPEN is 0, AUTH command 0x01 executes, sets ERR and leaves the access level as it was. -/
theorem exec_authObserve_of_closed {s : State} (hOn : s.dbgOn = true) (hIdle : s.dbg.busyUntil ≤ s.clk.now)
    (hClosed : s.arm.obsOpen = false) :
    ∃ t, exec .authObserve s = .next t ∧ t.dbg.err = true ∧ t.dbg.level = s.dbg.level := by
  refine ⟨dapAccess (writeAuth 1) s, rfl, ?_⟩
  rw [dapAccess_of_idle hOn hIdle, writeAuth_observe_of_closed]
  · exact ⟨rfl, rfl⟩
  · exact hClosed

/-- Settles O60: a write finds the register unlocked or locked, since waking the endpoint's domain leaves OBSOPEN and its lock alone. -/
theorem debugPolicyLocks : Obligations.DebugPolicyLocks := by
  unfold Obligations.DebugPolicyLocks
  refine ⟨rfl, rfl, fun v s hReach => ⟨⟨fun hUnlocked => ?unlocked, fun hLocked => ?locked⟩, exec_authObserve_of_closed⟩⟩
  case unlocked =>
    rw [exec_dbgPolicyWrite_of_reaches hReach, writeDbgPolicy_of_unlocked (by rw [touchDomain_arm]; exact hUnlocked), touchDomain_arm]
  case locked =>
    rw [exec_dbgPolicyWrite_of_reaches hReach, writeDbgPolicy_of_locked (by rw [touchDomain_arm]; exact hLocked)]

end Sys2Proof.Machine

namespace Sys2Proof.Machine

/-! ### What every command keeps -/

/-- Every command keeps the queue, the BIC and the bounds; one that stores nothing keeps every byte of DRAM besides. -/
theorem exec_keeps {P : Nat → Prop} {i : Instr} {s t : State} (h : exec i s = .next t) (hP : storesDram i = true → P = noByte) :
    Keeps P s t := by
  cases i with
  | identQuery => exact execIdentQuery_keeps h (Keeps.refl s)
  | identEquiv => exact execIdentEquiv_keeps h (Keeps.refl s)
  | identCert => exact execIdentCert_keeps h (Keeps.refl s)
  | pwrSet => exact execPwrSet_keeps h (Keeps.refl s)
  | pwrStatus => exact execPwrStatus_keeps h (Keeps.refl s)
  | pwrWatch => exact execPwrWatch_keeps h (Keeps.refl s)
  | framePause => exact execFramePause_keeps h (Keeps.refl s)
  | frameResume => exact execFrameResume_keeps h (Keeps.refl s)
  | frameStep => exact execFrameStep_keeps h (Keeps.refl s)
  | frameMailbox => exact execFrameMailbox_keeps h (Keeps.refl s)
  | frameStatus => exact execFrameStatus_keeps h (Keeps.refl s)
  | maquetteLoad => exact execMaquetteLoad_keeps h (Keeps.refl s)
  | maquetteStart => exact execMaquetteStart_keeps h (Keeps.refl s)
  | maquetteUnload => exact execMaquetteUnload_keeps h (Keeps.refl s)
  | maquetteMigrate => exact execMaquetteMigrate_keeps h (Keeps.refl s)
  | maquetteRegion => exact execMaquetteRegion_keeps h (Keeps.refl s)
  | maquetteSwitch => exact execMaquetteSwitch_keeps h (Keeps.refl s)
  | transPool => exact execTransPool_keeps h (Keeps.refl s)
  | transMap => cases hP rfl; exact execTransMap_keeps h (Keeps.refl s)
  | transUnmap => cases hP rfl; exact execTransUnmap_keeps h (Keeps.refl s)
  | transResolve => exact execTransResolve_keeps h (Keeps.refl s)
  | transFaults => exact execTransFaults_keeps h (Keeps.refl s)
  | transWalk => exact execTransWalk_keeps h (Keeps.refl s)
  | dmaSubmit => exact execDmaSubmit_keeps h (Keeps.refl s)
  | dmaResume => exact execDmaResume_keeps h (Keeps.refl s)
  | dmaAbort => exact execDmaAbort_keeps h (Keeps.refl s)
  | dmaStatus => exact execDmaStatus_keeps h (Keeps.refl s)
  | keyLoad => exact execKeyLoad_keeps h (Keeps.refl s)
  | keyBind => exact execKeyBind_keeps h (Keeps.refl s)
  | keyUnbind => exact execKeyUnbind_keeps h (Keeps.refl s)
  | keyRetire => exact execKeyRetire_keeps h (Keeps.refl s)
  | keyRotate => exact execKeyRotate_keeps h (Keeps.refl s)
  | keyStatus => exact execKeyStatus_keeps h (Keeps.refl s)
  | laneStatus => exact execLaneStatus_keeps h (Keeps.refl s)
  | laneEq => exact execLaneEq_keeps h (Keeps.refl s)
  | laneRetrain => exact execLaneRetrain_keeps h (Keeps.refl s)
  | laneWidth => exact execLaneWidth_keeps h (Keeps.refl s)
  | lanePattern => exact execLanePattern_keeps h (Keeps.refl s)
  | laneInject => exact execLaneInject_keeps h (Keeps.refl s)
  | laneSleep => exact execLaneSleep_keeps h (Keeps.refl s)
  | pendantPair => exact execPendantPair_keeps h (Keeps.refl s)
  | pendantMode => exact execPendantMode_keeps h (Keeps.refl s)
  | pendantRetire => exact execPendantRetire_keeps h (Keeps.refl s)
  | pendantPrefer => exact execPendantPrefer_keeps h (Keeps.refl s)
  | pendantTakeover => exact execPendantTakeover_keeps h (Keeps.refl s)
  | pendantResync => exact execPendantResync_keeps h (Keeps.refl s)
  | pendantHandover => exact execPendantHandover_keeps h (Keeps.refl s)
  | pendantDissolve => exact execPendantDissolve_keeps h (Keeps.refl s)
  | pendantStatus => exact execPendantStatus_keeps h (Keeps.refl s)
  | maintStart => exact execMaintStart_keeps h (Keeps.refl s)
  | maintStop => exact execMaintStop_keeps h (Keeps.refl s)
  | maintStatus => exact execMaintStatus_keeps h (Keeps.refl s)
  | timeRead => exact execTimeRead_keeps h (Keeps.refl s)
  | timeAdjust => exact execTimeAdjust_keeps h (Keeps.refl s)
  | timeCompat => exact execTimeCompat_keeps h (Keeps.refl s)
  | timeUpstream => exact execTimeUpstream_keeps h (Keeps.refl s)
  | trustQuote => exact execTrustQuote_keeps h (Keeps.refl s)
  | trustLog => exact execTrustLog_keeps h (Keeps.refl s)
  | fwDownload => exact execFwDownload_keeps h (Keeps.refl s)
  | fwVerify => exact execFwVerify_keeps h (Keeps.refl s)
  | fwActivate => exact execFwActivate_keeps h (Keeps.refl s)
  | fwConfirm => exact execFwConfirm_keeps h (Keeps.refl s)
  | fwStatus => exact execFwStatus_keeps h (Keeps.refl s)
  | dbgHalt => exact execDbgHalt_keeps h (Keeps.refl s)
  | dbgRun => exact execDbgRun_keeps h (Keeps.refl s)
  | dbgAccess => cases hP rfl; exact execDbgAccess_keeps h (Keeps.refl s)
  | castTake => exact execCastTake_keeps h (Keeps.refl s)
  | castSave => exact execCastSave_keeps h (Keeps.refl s)
  | castRead => exact execCastRead_keeps h (Keeps.refl s)
  | castRestore => exact execCastRestore_keeps h (Keeps.refl s)
  | statsNoc => exact execStatsNoc_keeps h (Keeps.refl s)
  | statsRead => exact execStatsRead_keeps h (Keeps.refl s)
  | logRead => exact execLogRead_keeps h (Keeps.refl s)
  | logSecurity => exact execLogSecurity_keeps h (Keeps.refl s)
  | armProbe => exact execArmProbe_keeps h (Keeps.refl s)
  | armAssign => exact execArmAssign_keeps h (Keeps.refl s)
  | armScope => exact execArmScope_keeps h (Keeps.refl s)
  | consensusQuery => exact execConsensusQuery_keeps h (Keeps.refl s)
  | armStatus => exact execArmStatus_keeps h (Keeps.refl s)
  | consensusOverride => exact execConsensusOverride_keeps h (Keeps.refl s)
  | commandRingFetch => exact execCommandRingFetch_keeps h (Keeps.refl s)
  | controlLinkPacket => exact execControlLinkPacket_keeps h (Keeps.refl s)
  | childReplyForward => exact execChildReplyForward_keeps h (Keeps.refl s)
  | backlogDrain => exact execBacklogDrain_keeps h (Keeps.refl s)
  | cmdDbWrite => exact execCmdDbWrite_keeps h (Keeps.refl s)
  | rplHeadWrite => exact execRplHeadWrite_keeps h (Keeps.refl s)
  | evtHeadWrite => exact execEvtHeadWrite_keeps h (Keeps.refl s)
  | ctrlEnableWrite => exact execCtrlEnableWrite_keeps h (Keeps.refl s)
  | ctrlQreset => exact execCtrlQreset_keeps h (Keeps.refl s)
  | ringAccessError => exact execRingAccessError_keeps h (Keeps.refl s)
  | intStatusClear => exact execIntStatusClear_keeps h (Keeps.refl s)
  | intMaskWrite => exact execIntMaskWrite_keeps h (Keeps.refl s)
  | intModDelayExpiry => exact execIntModDelayExpiry_keeps h (Keeps.refl s)
  | secalarmClear => exact execSecalarmClear_keeps h (Keeps.refl s)
  | dbgPolicyWrite => exact execDbgPolicyWrite_keeps h (Keeps.refl s)
  | frameLoRead => exact execFrameLoRead_keeps h (Keeps.refl s)
  | countLoRead => exact execCountLoRead_keeps h (Keeps.refl s)
  | registerWrite => exact execRegisterWrite_keeps h (Keeps.refl s)
  | authObserve => exact execAuthObserve_keeps h (Keeps.refl s)
  | authChallengeObserve => exact execAuthChallengeObserve_keeps h (Keeps.refl s)
  | authChallengeFull => exact execAuthChallengeFull_keeps h (Keeps.refl s)
  | authSubmitResponse => exact execAuthSubmitResponse_keeps h (Keeps.refl s)
  | authDrop => exact execAuthDrop_keeps h (Keeps.refl s)
  | lockoutExpiry => exact execLockoutExpiry_keeps h (Keeps.refl s)
  | pktCtrlGo => exact execPktCtrlGo_keeps h (Keeps.refl s)
  | pktCtrlClr => exact execPktCtrlClr_keeps h (Keeps.refl s)
  | pktDataWrite => exact execPktDataWrite_keeps h (Keeps.refl s)
  | pktDataRead => exact execPktDataRead_keeps h (Keeps.refl s)
  | vtDataWrite => exact execVtDataWrite_keeps h (Keeps.refl s)
  | vtDataRead => exact execVtDataRead_keeps h (Keeps.refl s)
  | vtSerialByte => exact execVtSerialByte_keeps h (Keeps.refl s)
  | shDataRead => exact execShDataRead_keeps h (Keeps.refl s)
  | dapaccUpdate => exact execDapaccUpdate_keeps h (Keeps.refl s)
  | dbgRstN => exact execDbgRstN_keeps h (Keeps.refl s)
  | wakeN => exact execWakeN_keeps h (Keeps.refl s)
  | rstN => cases hP rfl; exact execRstN_keeps h (Keeps.refl s)
  | pwrOkRise => exact execPwrOkRise_keeps h (Keeps.refl s)
  | pwrOkFall => cases hP rfl; exact execPwrOkFall_keeps h (Keeps.refl s)
  | oscDlyExpiry => cases hP rfl; exact execOscDlyExpiry_keeps h (Keeps.refl s)
  | boot => cases hP rfl; exact execBoot_keeps h (Keeps.refl s)
  | selfTestDone => exact execSelfTestDone_keeps h (Keeps.refl s)
  | trialSelfTestTimeout => exact execTrialSelfTestTimeout_keeps h (Keeps.refl s)
  | flrVf => exact execFlrVf_keeps h (Keeps.refl s)
  | flrPf => exact execFlrPf_keeps h (Keeps.refl s)
  | pcieConventionalReset => exact execPcieConventionalReset_keeps h (Keeps.refl s)
  | d3hotEntry => exact execD3hotEntry_keeps h (Keeps.refl s)
  | domainWakeOnDemand => exact execDomainWakeOnDemand_keeps h (Keeps.refl s)
  | domainIdleExpiry => exact execDomainIdleExpiry_keeps h (Keeps.refl s)
  | transitionStepEnd => cases hP rfl; exact execTransitionStepEnd_keeps h (Keeps.refl s)
  | watchSample => exact execWatchSample_keeps h (Keeps.refl s)
  | coolantOkLow => exact execCoolantOkLow_keeps h (Keeps.refl s)
  | railSequenceStep => exact execRailSequenceStep_keeps h (Keeps.refl s)
  | railPowerGoodTimeout => cases hP rfl; exact execRailPowerGoodTimeout_keeps h (Keeps.refl s)
  | railTelemetryRead => exact execRailTelemetryRead_keeps h (Keeps.refl s)
  | thermalHigh => exact execThermalHigh_keeps h (Keeps.refl s)
  | thermalTrip => cases hP rfl; exact execThermalTrip_keeps h (Keeps.refl s)
  | lifeBinSample => exact execLifeBinSample_keeps h (Keeps.refl s)
  | healthRecordWrite => exact execHealthRecordWrite_keeps h (Keeps.refl s)
  | oscTrim => exact execOscTrim_keeps h (Keeps.refl s)
  | pllLock => exact execPllLock_keeps h (Keeps.refl s)
  | controlLinkUp => exact execControlLinkUp_keeps h (Keeps.refl s)
  | controlLinkSyncLoss => exact execControlLinkSyncLoss_keeps h (Keeps.refl s)
  | upstreamLoss => exact execUpstreamLoss_keeps h (Keeps.refl s)
  | upstreamRegain => exact execUpstreamRegain_keeps h (Keeps.refl s)
  | timeSyncSend => exact execTimeSyncSend_keeps h (Keeps.refl s)
  | timeSyncReq => exact execTimeSyncReq_keeps h (Keeps.refl s)
  | timeSyncResp => exact execTimeSyncResp_keeps h (Keeps.refl s)
  | servoHoldover => exact execServoHoldover_keeps h (Keeps.refl s)
  | childProbe => exact execChildProbe_keeps h (Keeps.refl s)
  | frameRelativeStep => exact execFrameRelativeStep_keeps h (Keeps.refl s)
  | nmParityReread => exact execNmParityReread_keeps h (Keeps.refl s)
  | horizonTick => exact execHorizonTick_keeps h (Keeps.refl s)
  | accumulationClose => exact execAccumulationClose_keeps h (Keeps.refl s)
  | signatureSend => exact execSignatureSend_keeps h (Keeps.refl s)
  | signatureCompare => exact execSignatureCompare_keeps h (Keeps.refl s)
  | vetoSamplingPoint => exact execVetoSamplingPoint_keeps h (Keeps.refl s)
  | bankClear => exact execBankClear_keeps h (Keeps.refl s)
  | rowStaging => exact execRowStaging_keeps h (Keeps.refl s)
  | goNoGo => exact execGoNoGo_keeps h (Keeps.refl s)
  | beyondReplay => exact execBeyondReplay_keeps h (Keeps.refl s)
  | commitComplete => cases hP rfl; exact execCommitComplete_keeps h (Keeps.refl s)
  | vetoMarker => exact execVetoMarker_keeps h (Keeps.refl s)
  | replayMarker => exact execReplayMarker_keeps h (Keeps.refl s)
  | holdMarker => exact execHoldMarker_keeps h (Keeps.refl s)
  | leadInStart => exact execLeadInStart_keeps h (Keeps.refl s)
  | replayTick => exact execReplayTick_keeps h (Keeps.refl s)
  | clearMarker => exact execClearMarker_keeps h (Keeps.refl s)
  | clearResendTimeout => exact execClearResendTimeout_keeps h (Keeps.refl s)
  | pauseMarker => exact execPauseMarker_keeps h (Keeps.refl s)
  | restartMarker => exact execRestartMarker_keeps h (Keeps.refl s)
  | pauseReq => exact execPauseReq_keeps h (Keeps.refl s)
  | resumeReq => exact execResumeReq_keeps h (Keeps.refl s)
  | stepReq => exact execStepReq_keeps h (Keeps.refl s)
  | pauseExpiry => exact execPauseExpiry_keeps h (Keeps.refl s)
  | cancelMarker => exact execCancelMarker_keeps h (Keeps.refl s)
  | cancelReq => exact execCancelReq_keeps h (Keeps.refl s)
  | armTimeout => exact execArmTimeout_keeps h (Keeps.refl s)
  | measureMarker => exact execMeasureMarker_keeps h (Keeps.refl s)
  | uplatMarker => exact execUplatMarker_keeps h (Keeps.refl s)
  | downmaxMarker => exact execDownmaxMarker_keeps h (Keeps.refl s)
  | startReqMarker => exact execStartReqMarker_keeps h (Keeps.refl s)
  | paramsMarker => exact execParamsMarker_keeps h (Keeps.refl s)
  | readyMarker => exact execReadyMarker_keeps h (Keeps.refl s)
  | startMarker => exact execStartMarker_keeps h (Keeps.refl s)
  | startFailMarker => exact execStartFailMarker_keeps h (Keeps.refl s)
  | startAbortMarker => exact execStartAbortMarker_keeps h (Keeps.refl s)
  | startTimeout => exact execStartTimeout_keeps h (Keeps.refl s)
  | horizonMark => exact execHorizonMark_keeps h (Keeps.refl s)
  | blockReceived => exact execBlockReceived_keeps h (Keeps.refl s)
  | huntTimeout => exact execHuntTimeout_keeps h (Keeps.refl s)
  | trainEqTimeout => exact execTrainEqTimeout_keeps h (Keeps.refl s)
  | trainBlock => exact execTrainBlock_keeps h (Keeps.refl s)
  | calBlock => exact execCalBlock_keeps h (Keeps.refl s)
  | calbBlock => exact execCalbBlock_keeps h (Keeps.refl s)
  | lreqBlock => exact execLreqBlock_keeps h (Keeps.refl s)
  | lackBlock => exact execLackBlock_keeps h (Keeps.refl s)
  | lackTimeout => exact execLackTimeout_keeps h (Keeps.refl s)
  | laneChangeStart => exact execLaneChangeStart_keeps h (Keeps.refl s)
  | laneResume => exact execLaneResume_keeps h (Keeps.refl s)
  | sleepBlock => exact execSleepBlock_keeps h (Keeps.refl s)
  | sleepSilentStep => exact execSleepSilentStep_keeps h (Keeps.refl s)
  | relockTimeout => exact execRelockTimeout_keeps h (Keeps.refl s)
  | pendantHb => exact execPendantHb_keeps h (Keeps.refl s)
  | pendantTag => cases hP rfl; exact execPendantTag_keeps h (Keeps.refl s)
  | pendantMsg => cases hP rfl; exact execPendantMsg_keeps h (Keeps.refl s)
  | xaddrXdata => exact execXaddrXdata_keeps h (Keeps.refl s)
  | stampBlock payload => exact execStampBlock_keeps (_payload := payload) h (Keeps.refl s)
  | pairHello => exact execPairHello_keeps h (Keeps.refl s)
  | pairKeychk => exact execPairKeychk_keeps h (Keeps.refl s)
  | pairPeerTimeout => exact execPairPeerTimeout_keeps h (Keeps.refl s)
  | peerLost => exact execPeerLost_keeps h (Keeps.refl s)
  | mirrorSend => exact execMirrorSend_keeps h (Keeps.refl s)
  | copyComplete => exact execCopyComplete_keeps h (Keeps.refl s)
  | joinPhaseComplete => exact execJoinPhaseComplete_keeps h (Keeps.refl s)
  | memoryResponse => exact execMemoryResponse_keeps h (Keeps.refl s)
  | nocHeaderArrival => exact execNocHeaderArrival_keeps h (Keeps.refl s)
  | nocPacketConsumed => exact execNocPacketConsumed_keeps h (Keeps.refl s)
  | nocLost => exact execNocLost_keeps h (Keeps.refl s)
  | nocStall => exact execNocStall_keeps h (Keeps.refl s)
  | hostStall => exact execHostStall_keeps h (Keeps.refl s)
  | fwServiceWait => exact execFwServiceWait_keeps h (Keeps.refl s)
  | engineWatchdog => exact execEngineWatchdog_keeps h (Keeps.refl s)
  | engineRestarted => exact execEngineRestarted_keeps h (Keeps.refl s)
  | plinthMismatch => exact execPlinthMismatch_keeps h (Keeps.refl s)
  | plinthPairReady => exact execPlinthPairReady_keeps h (Keeps.refl s)
  | dramReadComplete => exact execDramReadComplete_keeps h (Keeps.refl s)
  | mergeFetchComplete => exact execMergeFetchComplete_keeps h (Keeps.refl s)
  | rankMigrateLine => exact execRankMigrateLine_keeps h (Keeps.refl s)
  | rankMigrateComplete => exact execRankMigrateComplete_keeps h (Keeps.refl s)
  | refreshInterval => exact execRefreshInterval_keeps h (Keeps.refl s)
  | dimmTempRead => exact execDimmTempRead_keeps h (Keeps.refl s)
  | dramPatrolLine => exact execDramPatrolLine_keeps h (Keeps.refl s)
  | dmaElementComplete => cases hP rfl; exact execDmaElementComplete_keeps h (Keeps.refl s)
  | dmaElementFault => cases hP rfl; exact execDmaElementFault_keeps h (Keeps.refl s)
  | keyFlushComplete => exact execKeyFlushComplete_keeps h (Keeps.refl s)
  | sweepLineVisit => exact execSweepLineVisit_keeps h (Keeps.refl s)
  | rotateDone => exact execRotateDone_keeps h (Keeps.refl s)
  | loadComplete => exact execLoadComplete_keeps h (Keeps.refl s)
  | migrateCopyComplete => exact execMigrateCopyComplete_keeps h (Keeps.refl s)
  | regionRewriteComplete => exact execRegionRewriteComplete_keeps h (Keeps.refl s)
  | castCaptureComplete => exact execCastCaptureComplete_keeps h (Keeps.refl s)
  | castCaptureBegin => exact execCastCaptureBegin_keeps h (Keeps.refl s)
  | castFabricEdge => exact execCastFabricEdge_keeps h (Keeps.refl s)
  | switchPhaseComplete => exact execSwitchPhaseComplete_keeps h (Keeps.refl s)
  | restoreComplete => exact execRestoreComplete_keeps h (Keeps.refl s)
  | raspSlot => exact execRaspSlot_keeps h (Keeps.refl s)
  | configMonitorRead => exact execConfigMonitorRead_keeps h (Keeps.refl s)
  | recoveryReadback => exact execRecoveryReadback_keeps h (Keeps.refl s)
  | recoveryRelocation => exact execRecoveryRelocation_keeps h (Keeps.refl s)
  | equaliserConverged => exact execEqualiserConverged_keeps h (Keeps.refl s)
  | pendantHeartbeatSend => exact execPendantHeartbeatSend_keeps h (Keeps.refl s)
  | injectionStepReached => exact execInjectionStepReached_keeps h (Keeps.refl s)
  | tapInstructionUpdate => exact execTapInstructionUpdate_keeps h (Keeps.refl s)
  | thermalAlertRelease => exact execThermalAlertRelease_keeps h (Keeps.refl s)
  | msixVectorUnmask => exact execMsixVectorUnmask_keeps h (Keeps.refl s)
  | keyLoadCommit => exact execKeyLoadCommit_keeps h (Keeps.refl s)
  | fwVerifyComplete => exact execFwVerifyComplete_keeps h (Keeps.refl s)
  | consensusReplyTimeout => exact execConsensusReplyTimeout_keeps h (Keeps.refl s)
  | fabricClockEdge => exact execFabricClockEdge_keeps h (Keeps.refl s)
  | pcieCompletionTimeout => cases hP rfl; exact execPcieCompletionTimeout_keeps h (Keeps.refl s)
  | d3hotExit => exact execD3hotExit_keeps h (Keeps.refl s)
  | vfEnableWrite => exact execVfEnableWrite_keeps h (Keeps.refl s)

/-- What an accepted command that can go on leaves is what its execution leaves. -/
theorem exec_of_runFirst {l : List Instr} {s : State} {o : Host.Outcome State Fault Refusal} (h : runFirst l s = some o) :
    ∃ i ∈ l, exec i s = o := by
  induction l with
  | nil => cases h
  | cons i l ih =>
    unfold runFirst at h
    have later : runFirst l s = some o → ∃ j ∈ i :: l, exec j s = o := fun hl =>
      let ⟨j, hj, he⟩ := ih hl
      ⟨j, List.mem_cons_of_mem i hj, he⟩
    have here : exec i s = o → ∃ j ∈ i :: l, exec j s = o := fun he => ⟨i, List.mem_cons_self, he⟩
    split at h
    · split at h
      · exact later h
      · exact here (by simp_all)
    · exact here (by simp_all)

/-- With no command in its queue the block executes an accepted command or passes one step period. -/
theorem idle_cases (s : State) : (∃ i ∈ s.plinth.accepted, exec i s = idle s) ∨ idle s = .next (passStep s) := by
  unfold idle
  split
  · cases h : runFirst s.plinth.accepted s with
    | none => exact .inr rfl
    | some o => exact .inl (exec_of_runFirst h)
  · exact .inr rfl

theorem step_of_pending_nil {s : State} (h : s.pending = []) : step s = idle s := by
  unfold step
  rw [h]

theorem step_of_pending_cons {s : State} {c : Instr} {rest : List Instr} (h : s.pending = c :: rest) :
    step s = exec c { s with pending := rest } := by
  unfold step
  rw [h]

/-- Every command keeps the bounds. -/
theorem exec_bounded {i : Instr} {s t : State} (hs : s.Bounded) (h : exec i s = .next t) : t.Bounded :=
  (exec_keeps (P := noByte) h fun _ => rfl).bound hs

theorem idle_bounded {s t : State} (hs : s.Bounded) (h : idle s = .next t) : t.Bounded := by
  obtain ⟨i, -, hi⟩ | hPass := idle_cases s
  · exact exec_bounded hs (hi.trans h)
  · have ht : passStep s = t := Host.Outcome.next.inj (hPass.symm.trans h)
    exact ht ▸ (passStep_keeps (P := noByte) (Keeps.refl s)).bound hs

/-- Settles O49: a step is a command's execution or one step period, and each of the two keeps the bounds. -/
theorem stepKeepsBounds : Obligations.StepKeepsBounds := by
  unfold Obligations.StepKeepsBounds
  intro s t hs h
  cases hp : s.pending with
  | nil => exact idle_bounded hs (step_of_pending_nil hp ▸ h)
  | cons c rest =>
    rw [step_of_pending_cons hp] at h
    exact exec_bounded (s := { s with pending := rest }) hs h

/-- Settles O48. -/
theorem resetIsBounded : Obligations.ResetIsBounded := by
  unfold Obligations.ResetIsBounded State.Bounded
  exact ⟨rfl, Nat.zero_le _, Nat.zero_le _, Nat.zero_le _⟩

/-- Settles O50: the queue and the BIC are two of the things that every command keeps. -/
theorem queueAndBuildCodeStand : Obligations.QueueAndBuildCodeStand := by
  unfold Obligations.QueueAndBuildCodeStand
  intro i s t h
  have k := exec_keeps (P := noByte) h fun _ => rfl
  exact ⟨k.pend.1, k.bic⟩

/-- Settles O52: a row that stores nothing keeps the bytes at all addresses. -/
theorem nothingElseStores : Obligations.NothingElseStores := by
  unfold Obligations.NothingElseStores
  intro i s t hi h a
  have k := exec_keeps (P := fun _ => True) h fun hTrue => absurd (hi.symm.trans hTrue) Bool.false_ne_true
  exact k.pend.2 a trivial

/-- Settles O45. -/
theorem frontCommandRuns : Obligations.FrontCommandRuns := by
  unfold Obligations.FrontCommandRuns
  exact fun c rest s => step_of_pending_cons rfl

/-- Settles O46: no accepted command is there to execute, so that the period passes. -/
theorem emptyQueueStep : Obligations.EmptyQueueStep := by
  unfold Obligations.EmptyQueueStep
  intro s hp hNone
  rw [step_of_pending_nil hp]
  obtain hStill | hEmpty := hNone
  · simp [idle, hStill]
  · simp [idle, hEmpty, runFirst]

/-! ### The state after reset -/

theorem fn_reset (n : Nat) : State.reset.fn n = {} := rfl
theorem part_reset (p : Nat) : State.reset.part p = {} := rfl
theorem slot_reset (k : Nat) : State.reset.slot k = {} := rfl

/-- Settles O47: reset leaves every store empty, so that a read gives the default of what it reads. -/
theorem resetLeaves : Obligations.ResetLeaves := by
  unfold Obligations.ResetLeaves
  refine ⟨⟨rfl, rfl, rfl, rfl, rfl⟩, ⟨rfl, rfl, rfl⟩, ⟨rfl, rfl, rfl, rfl, rfl, rfl⟩, ⟨rfl, rfl, rfl, rfl, rfl, rfl⟩, fun n => ?fns,
    ⟨rfl, rfl, rfl, rfl, rfl, rfl, rfl⟩, fun n => rfl, rfl, rfl, fun p => ?parts, fun k => ?slots⟩
  case fns =>
    rw [fn_reset]
    exact ⟨rfl, rfl, rfl, rfl, rfl, rfl, rfl, rfl, rfl, rfl⟩
  case parts => rw [part_reset]
  case slots => rw [slot_reset]

end Sys2Proof.Machine

namespace Sys2Proof.Machine

/-! ### The gate of an opcode row (R334, R336, R341, R343, R449) -/

/-- What an opcode row can leave of s: s itself, where another command blocks it (R338); else what the shape of its kind makes of it,
behind the one gate of the opcode's source class. -/
inductive Answers (c : CmdCtx) (op : Nat) (s : State) : State → Prop
  | waiting (h : s.unblocked c = false) : Answers c op s s
  | immediate (body : State → State) (h : deferredRow op = false) : Answers c op s (immediate (classOf op) op c body s)
  | deferred (body : State → State) : Answers c op s (deferredOp (classOf op) op c body s)

/-- A row that waits or goes on, and goes on when nothing blocks it, answers as it answers when it goes on. -/
theorem Answers.of_wait {c : CmdCtx} {op : Nat} {s t u : State} (hu : Answers c op s u) (hWait : t = s ∨ t = u)
    (hFree : s.unblocked c = true → t = u) : Answers c op s t := by
  cases hb : s.unblocked c with
  | true => rw [hFree hb]; exact hu
  | false =>
    obtain rfl | rfl := hWait
    · exact .waiting hb
    · exact hu

/-- A choice is the one or the other. -/
theorem ite_is_either {α : Type} (p : Prop) [Decidable p] (a b : α) : (if p then a else b) = a ∨ (if p then a else b) = b :=
  (Decidable.em p).imp (fun h => if_pos h) (fun h => if_neg h)

section
variable {c : CmdCtx} {op : Nat} {go : State → State} {s : State}

theorem pageWait_answers {jsid lo n : Nat} (h : Answers c op s (go s)) : Answers c op s (pageWait c jsid lo n go s) :=
  h.of_wait (ite_is_either _ _ _) fun hb => pageWait_free (unblocked_pages hb jsid lo n)

theorem listWait_answers {jsid : Nat} {l : List DmaElem} (h : Answers c op s (go s)) : Answers c op s (listWait c jsid l go s) :=
  h.of_wait (ite_is_either _ _ _) fun hb => listWait_free (List.all_eq_true.mpr fun r _ => unblocked_pages hb r.1 r.2.1 r.2.2)

theorem linkWait_answers {k : Nat} (h : Answers c op s (go s)) : Answers c op s (linkWait k go s) :=
  h.of_wait (ite_is_either _ _ _) fun hb =>
    have ⟨_, _, _, hLink, _, _⟩ := unblocked_iff hb
    linkWait_free (hLink k)

theorem changeWait_answers {k : Nat} (h : Answers c op s (go s)) : Answers c op s (changeWait k go s) :=
  h.of_wait (ite_is_either _ _ _) fun hb =>
    have ⟨_, _, _, hLink, _, _⟩ := unblocked_iff hb
    changeWait_free (hLink k)

theorem pairWait_answers (h : Answers c op s (go s)) : Answers c op s (pairWait go s) :=
  h.of_wait (ite_is_either _ _ _) fun hb =>
    have ⟨_, _, _, _, hPair, _⟩ := unblocked_iff hb
    pairWait_free hPair

/-- An FW command waits for the read-back of an FW.VERIFY in execution (R338). -/
theorem verifyWait_answers (h : Answers c op s (go s)) : Answers c op s (if s.fw.verify.isSome then s else go s) :=
  h.of_wait (ite_is_either _ _ _) fun hb =>
    have ⟨_, hVerify, _, _, _, _⟩ := unblocked_iff hb
    if_neg (by rw [hVerify]; exact Bool.false_ne_true)

/-- TIME.UPSTREAM waits for the one in execution (R338). -/
theorem upstreamWait_answers (h : Answers c op s (go s)) : Answers c op s (if s.arm.upCtx.isSome then s else go s) :=
  h.of_wait (ite_is_either _ _ _) fun hb =>
    have ⟨_, _, hUp, _, _, _⟩ := unblocked_iff hb
    if_neg (by rw [hUp]; exact Bool.false_ne_true)

end

/-- Every opcode row waits for a command that blocks it, or stands behind the gate of its source class. -/
theorem exec_answers {i : Instr} {c : CmdCtx} {op : Nat} (h : instrHead i = some (c, op)) (s : State) :
    ∃ t, exec i s = .next t ∧ Answers c op s t := by
  cases i with
  | identQuery => cases h; exact ⟨_, rfl, .immediate _ rfl⟩
  | identEquiv => cases h; exact ⟨_, rfl, .immediate _ rfl⟩
  | identCert => cases h; exact ⟨_, rfl, .immediate _ rfl⟩
  | pwrSet => cases h; exact ⟨_, rfl, .immediate _ rfl⟩
  | pwrStatus => cases h; exact ⟨_, rfl, .immediate _ rfl⟩
  | pwrWatch => cases h; exact ⟨_, rfl, .immediate _ rfl⟩
  | framePause => cases h; exact ⟨_, rfl, .immediate _ rfl⟩
  | frameResume => cases h; exact ⟨_, rfl, .immediate _ rfl⟩
  | frameStep => cases h; exact ⟨_, rfl, .immediate _ rfl⟩
  | frameMailbox => cases h; exact ⟨_, rfl, .immediate _ rfl⟩
  | frameStatus => cases h; exact ⟨_, rfl, .immediate _ rfl⟩
  | maquetteLoad => cases h; exact ⟨_, rfl, pageWait_answers (.immediate _ rfl)⟩
  | maquetteStart => cases h; exact ⟨_, rfl, .immediate _ rfl⟩
  | maquetteUnload => cases h; exact ⟨_, rfl, .immediate _ rfl⟩
  | maquetteMigrate => cases h; exact ⟨_, rfl, .immediate _ rfl⟩
  | maquetteRegion => cases h; exact ⟨_, rfl, pageWait_answers (.immediate _ rfl)⟩
  | maquetteSwitch => cases h; exact ⟨_, rfl, pageWait_answers (pageWait_answers (pageWait_answers (.immediate _ rfl)))⟩
  | transPool => cases h; exact ⟨_, rfl, .immediate _ rfl⟩
  | transMap => cases h; exact ⟨_, rfl, pageWait_answers (.deferred _)⟩
  | transUnmap => cases h; exact ⟨_, rfl, pageWait_answers (.deferred _)⟩
  | transResolve => cases h; exact ⟨_, rfl, .immediate _ rfl⟩
  | transFaults => cases h; exact ⟨_, rfl, .immediate _ rfl⟩
  | transWalk => cases h; exact ⟨_, rfl, pageWait_answers (.immediate _ rfl)⟩
  | dmaSubmit => cases h; exact ⟨_, rfl, listWait_answers (.immediate _ rfl)⟩
  | dmaResume => cases h; exact ⟨_, rfl, .immediate _ rfl⟩
  | dmaAbort => cases h; exact ⟨_, rfl, .immediate _ rfl⟩
  | dmaStatus => cases h; exact ⟨_, rfl, .immediate _ rfl⟩
  | keyLoad => cases h; exact ⟨_, rfl, .immediate _ rfl⟩
  | keyBind => cases h; exact ⟨_, rfl, .immediate _ rfl⟩
  | keyUnbind => cases h; exact ⟨_, rfl, .immediate _ rfl⟩
  | keyRetire => cases h; exact ⟨_, rfl, .immediate _ rfl⟩
  | keyRotate => cases h; exact ⟨_, rfl, .immediate _ rfl⟩
  | keyStatus => cases h; exact ⟨_, rfl, .immediate _ rfl⟩
  | laneStatus => cases h; exact ⟨_, rfl, .immediate _ rfl⟩
  | laneEq => cases h; exact ⟨_, rfl, linkWait_answers (.immediate _ rfl)⟩
  | laneRetrain => cases h; exact ⟨_, rfl, changeWait_answers (.deferred _)⟩
  | laneWidth => cases h; exact ⟨_, rfl, changeWait_answers (.deferred _)⟩
  | lanePattern => cases h; exact ⟨_, rfl, linkWait_answers (.immediate _ rfl)⟩
  | laneInject => cases h; exact ⟨_, rfl, linkWait_answers (.immediate _ rfl)⟩
  | laneSleep => cases h; exact ⟨_, rfl, linkWait_answers (.immediate _ rfl)⟩
  | pendantPair => cases h; exact ⟨_, rfl, linkWait_answers (.deferred _)⟩
  | pendantMode => cases h; exact ⟨_, rfl, pairWait_answers (.immediate _ rfl)⟩
  | pendantRetire => cases h; exact ⟨_, rfl, pairWait_answers (.immediate _ rfl)⟩
  | pendantPrefer => cases h; exact ⟨_, rfl, pairWait_answers (.immediate _ rfl)⟩
  | pendantTakeover => cases h; exact ⟨_, rfl, pairWait_answers (.immediate _ rfl)⟩
  | pendantResync => cases h; exact ⟨_, rfl, pairWait_answers (.immediate _ rfl)⟩
  | pendantHandover => cases h; exact ⟨_, rfl, pairWait_answers (.immediate _ rfl)⟩
  | pendantDissolve => cases h; exact ⟨_, rfl, pairWait_answers (.immediate _ rfl)⟩
  | pendantStatus => cases h; exact ⟨_, rfl, .immediate _ rfl⟩
  | maintStart => cases h; exact ⟨_, rfl, .immediate _ rfl⟩
  | maintStop => cases h; exact ⟨_, rfl, .immediate _ rfl⟩
  | maintStatus => cases h; exact ⟨_, rfl, .immediate _ rfl⟩
  | timeRead => cases h; exact ⟨_, rfl, .immediate _ rfl⟩
  | timeAdjust => cases h; exact ⟨_, rfl, .immediate _ rfl⟩
  | timeCompat => cases h; exact ⟨_, rfl, .immediate _ rfl⟩
  | timeUpstream => cases h; exact ⟨_, rfl, upstreamWait_answers (.deferred _)⟩
  | trustQuote => cases h; exact ⟨_, rfl, .immediate _ rfl⟩
  | trustLog => cases h; exact ⟨_, rfl, .immediate _ rfl⟩
  | fwDownload => cases h; exact ⟨_, rfl, verifyWait_answers (.immediate _ rfl)⟩
  | fwVerify => cases h; exact ⟨_, rfl, verifyWait_answers (.deferred _)⟩
  | fwActivate => cases h; exact ⟨_, rfl, verifyWait_answers (.immediate _ rfl)⟩
  | fwConfirm => cases h; exact ⟨_, rfl, .immediate _ rfl⟩
  | fwStatus => cases h; exact ⟨_, rfl, .immediate _ rfl⟩
  | dbgHalt => cases h; exact ⟨_, rfl, .immediate _ rfl⟩
  | dbgRun => cases h; exact ⟨_, rfl, .immediate _ rfl⟩
  | dbgAccess => cases h; exact ⟨_, rfl, pageWait_answers (.immediate _ rfl)⟩
  | castTake => cases h; exact ⟨_, rfl, .immediate _ rfl⟩
  | castSave => cases h; exact ⟨_, rfl, pageWait_answers (.immediate _ rfl)⟩
  | castRead => cases h; exact ⟨_, rfl, .immediate _ rfl⟩
  | castRestore => cases h; exact ⟨_, rfl, pageWait_answers (.immediate _ rfl)⟩
  | statsNoc => cases h; exact ⟨_, rfl, .immediate _ rfl⟩
  | statsRead => cases h; exact ⟨_, rfl, .immediate _ rfl⟩
  | logRead => cases h; exact ⟨_, rfl, .immediate _ rfl⟩
  | logSecurity => cases h; exact ⟨_, rfl, .immediate _ rfl⟩
  | armProbe => cases h; exact ⟨_, rfl, .immediate _ rfl⟩
  | armAssign => cases h; exact ⟨_, rfl, .immediate _ rfl⟩
  | armScope => cases h; exact ⟨_, rfl, .immediate _ rfl⟩
  | consensusQuery => cases h; exact ⟨_, rfl, .deferred _⟩
  | armStatus => cases h; exact ⟨_, rfl, .immediate _ rfl⟩
  | consensusOverride => cases h; exact ⟨_, rfl, .immediate _ rfl⟩
  | _ => cases h

section
variable {c : CmdCtx} {op : Nat} {s t : State}

/-- A row whose opcode the Plinth does not run now stays where it is. -/
theorem Answers.of_not_runs (h : Answers c op s t) (hRuns : s.runs op = false) : t = s := by
  cases h with
  | waiting => rfl
  | immediate body => simp [Machine.immediate, hRuns]
  | deferred body => simp [deferredOp, Machine.immediate, hRuns]

/-- An unblocked row that the gate refuses is answered with the gate's status. -/
theorem Answers.of_refused {st : Nat} (h : Answers c op s t) (hRuns : s.runs op = true) (hFree : s.unblocked c = true)
    (hGate : gate (classOf op) op c s = some st) : t = reply c op st [] (takeAccepted c s) := by
  cases h with
  | waiting hb => exact absurd (hb.symm.trans hFree) Bool.false_ne_true
  | immediate body => exact immediate_refused hRuns hGate
  | deferred body => exact immediate_refused hRuns hGate

/-- A deferred row that the gate lets go on is refused while its source holds 32 deferred commands. -/
theorem Answers.of_limit (h : Answers c op s t) (hRow : deferredRow op = true) (hRuns : s.runs op = true) (hFree : s.unblocked c = true)
    (hGate : gate (classOf op) op c s = none) (hFull : 32 ≤ s.deferredOf c.src) : t = reply c op St.cmdBusy [] (takeAccepted c s) := by
  cases h with
  | waiting hb => exact absurd (hb.symm.trans hFree) Bool.false_ne_true
  | immediate body hNot => exact absurd (hNot.symm.trans hRow) Bool.false_ne_true
  | deferred body =>
    have hServed : s.serves (classOf op) op c = true := by simp [State.serves, hRuns, hGate]
    rw [deferredOp, immediate_served hServed]
    exact if_pos hFull

end

/-- An unblocked row that the gate refuses is answered with the gate's status, and nothing else executes. -/
theorem exec_of_gate {i : Instr} {c : CmdCtx} {op st : Nat} {s : State} (h : instrHead i = some (c, op)) (hRuns : s.runs op = true)
    (hFree : s.unblocked c = true) (hGate : gate (classOf op) op c s = some st) : exec i s = .next (reply c op st [] (takeAccepted c s)) := by
  obtain ⟨t, ht, ha⟩ := exec_answers h s
  rw [ht, ha.of_refused hRuns hFree hGate]

/-- Settles O39: the gate stands in one place, before every opcode row's own checks. -/
theorem gateRefusesEveryOpcode : Obligations.GateRefusesEveryOpcode := by
  unfold Obligations.GateRefusesEveryOpcode
  exact fun i c op st s h hRuns hFree hGate => exec_of_gate h hRuns hFree hGate

/-- Settles O43: each of the conditions says that the Plinth does not run the opcode. -/
theorem commandsWaitWhileNotTaken : Obligations.CommandsWaitWhileNotTaken := by
  unfold Obligations.CommandsWaitWhileNotTaken
  intro i c op s h hNot
  obtain ⟨t, ht, ha⟩ := exec_answers h s
  have hRuns : s.runs op = false := by
    obtain h0 | hst | hst | hst | ⟨h1, hOne⟩ := hNot
    · simp [State.runs, State.executes, h0]
    · simp [State.runs, State.executes, hst]
    · simp [State.runs, State.executes, hst]
    · simp [State.runs, State.executes, hst]
    · simp [State.runs, h1, hOne]
  rw [ht, ha.of_not_runs hRuns]

/-- Settles O44: the limit stands behind the gate of every deferred row. -/
theorem deferredLimit : Obligations.DeferredLimit := by
  unfold Obligations.DeferredLimit
  intro i c op s h hRow hRuns hFree hGate hFull
  obtain ⟨t, ht, ha⟩ := exec_answers h s
  rw [ht, ha.of_limit hRow hRuns hFree hGate hFull]

/-! ### What the gate refuses -/

/-- Outside Run the gate lets only the opcodes that R343 lists go on. -/
theorem gate_outside_run {cls : SrcClass} {op : Nat} {c : CmdCtx} {s : State} (hst : s.pwr.st ≠ .run) (hop : idleOk op = false) :
    gate cls op c s = some St.wrongState := by
  simp [gate, hst, hop]

/-- In Run and outside recovery the gate refuses what the source class refuses, with the class's status. -/
theorem gate_of_classRefusal {cls : SrcClass} {op st : Nat} {c : CmdCtx} {s : State} (hst : s.pwr.st = .run) (hRec : s.plinth.recovery = false)
    (hClass : classRefusal cls op c.src.toNat s = some st) : gate cls op c s = some st := by
  simp [gate, hst, hRec, hClass]

/-- In Run and outside recovery an unassigned device lets only class L go on, of what the source class lets go on. -/
theorem gate_unassigned {cls : SrcClass} {op : Nat} {c : CmdCtx} {s : State} (hst : s.pwr.st = .run) (hRec : s.plinth.recovery = false)
    (hClass : classRefusal cls op c.src.toNat s = none) (hAss : s.arm.assigned = false) (hCls : cls ≠ .l) :
    gate cls op c s = some St.wrongState := by
  simp [gate, hst, hRec, hClass, hAss, hCls]

/-- Settles O40: idleOk is the list of R343. -/
theorem onlyListedGroupsOutsideRun : Obligations.OnlyListedGroupsOutsideRun := by
  unfold Obligations.OnlyListedGroupsOutsideRun
  intro i c op s h hRuns hFree hst hGroup hOp
  have hIdle : idleOk op = false := by
    simpa [idleOk, groupOf, not_or] using ⟨by simpa using hGroup, by simpa using hOp⟩
  have hNotRun : s.pwr.st ≠ .run := fun hRun => by simp [hRun] at hst
  exact exec_of_gate h hRuns hFree (gate_outside_run hNotRun hIdle)

/-- A virtual function is refused the opcodes of classes P and H. -/
theorem classRefusal_vf {cls : SrcClass} {op src : Nat} {s : State} (h1 : 1 ≤ src) (h16 : src < 16) (hCls : cls = .p ∨ cls = .h) :
    classRefusal cls op src s = some St.jsDenied := by
  have hDbg : src ≠ 0x18 := by omega
  have hPf : src ≠ 0 := by omega
  obtain rfl | rfl := hCls
  · simp [classRefusal, hDbg, h1, h16]
  · simp [classRefusal, hDbg, hPf]

/-- Below Full the debug port is refused every opcode outside groups 0x01 and 0x0E. -/
theorem classRefusal_debugPort {cls : SrcClass} {op : Nat} {s : State} (hLevel : s.dbg.level ≠ 2) (h1 : op / 256 ≠ 0x01) (hE : op / 256 ≠ 0x0E) :
    classRefusal cls op 0x18 s = some St.dbgDenied := by
  have hFull : s.dbgFull = false := decide_eq_false hLevel
  simp [classRefusal, groupOf, hFull, h1, hE]

/-- A function is refused the opcodes of class L. -/
theorem classRefusal_linkLocal {op src : Nat} {s : State} (h : src < 16) : classRefusal .l op src s = some St.pathDenied := by
  have hDbg : src ≠ 0x18 := by omega
  have hUp : src ≠ 0x10 := by omega
  have hAlt : src ≠ 0x17 := by omega
  simp [classRefusal, hDbg, hUp, hAlt]

/-- A source other than the debug port is refused the opcodes of class F. -/
theorem classRefusal_debugOnly {op src : Nat} {s : State} (h : src ≠ 0x18) : classRefusal .f op src s = some St.dbgDenied := by
  simp [classRefusal, h]

/-- Settles O41: in Run and outside recovery the source class is what the gate asks first. -/
theorem sourceClassesRefuse : Obligations.SourceClassesRefuse := by
  unfold Obligations.SourceClassesRefuse
  intro i c op s h hRuns hst hRec hFree
  have refuses {st : Nat} (hClass : classRefusal (classOf op) op c.src.toNat s = some st) :
      exec i s = .next (reply c op st [] (takeAccepted c s)) := exec_of_gate h hRuns hFree (gate_of_classRefusal hst hRec hClass)
  refine ⟨fun h1 h16 hCls => ?vf, fun hSrc hLevel h1 hE => ?port, fun h16 hop => ?linkLocal, fun hSrc hop => ?debugOnly⟩
  case vf => exact refuses (classRefusal_vf h1 h16 hCls)
  case port => exact refuses (hSrc ▸ classRefusal_debugPort hLevel h1 hE)
  case linkLocal =>
    have hCls : classOf op = .l := by obtain rfl | rfl := hop <;> rfl
    exact refuses (hCls ▸ classRefusal_linkLocal h16)
  case debugOnly =>
    have hCls : classOf op = .f := by obtain rfl | rfl | rfl := hop <;> rfl
    exact refuses (hCls ▸ classRefusal_debugOnly hSrc)

/-- A choice between two that differ from a third differs from it. -/
theorem ite_ne_of_ne {α : Type} {p : Prop} [Decidable p] {a b x : α} (ha : a ≠ x) (hb : b ≠ x) : (if p then a else b) ≠ x := by
  split
  · exact ha
  · exact hb

/-- Class L holds the two link-local opcodes only. -/
theorem classOf_ne_linkLocal {op : Nat} (h1 : op ≠ 0x0F01) (h2 : op ≠ 0x0F02) : classOf op ≠ .l := by
  unfold classOf
  have hNot : [0x0F01, 0x0F02].contains op = false := by simp [h1, h2]
  rw [hNot]
  exact ite_ne_of_ne nofun (ite_ne_of_ne nofun (ite_ne_of_ne nofun (ite_ne_of_ne nofun (by decide))))

/-- Settles O42: what the source class lets go on, the assignment stops. -/
theorem unassignedServesOnlyLinkLocal : Obligations.UnassignedServesOnlyLinkLocal := by
  unfold Obligations.UnassignedServesOnlyLinkLocal
  intro i c op s h hRuns hst hRec hFree hAss h1 h2 hClass
  exact exec_of_gate h hRuns hFree (gate_unassigned hst hRec hClass hAss (classOf_ne_linkLocal h1 h2))

end Sys2Proof.Machine

namespace Sys2Proof.Machine

/-! ### Completion of every command -/

/-- A read beyond the installed capacity faults; every other DRAM read completes. -/
theorem execDramReadComplete_cases (line : Nat) (requester : Byte) (s : State) :
    (∃ t, execDramReadComplete line requester s = .next t) ∨
      (execDramReadComplete line requester s = .fault .noSuchLine ∧ s.dataLines * 8 ≤ line) := by
  unfold execDramReadComplete
  split
  · exact .inl ⟨_, rfl⟩
  · split
    next hLine => exact .inr ⟨rfl, hLine⟩
    next =>
      split
      · exact .inl ⟨_, rfl⟩
      · exact .inl ⟨_, rfl⟩

/-- A fetch of the merge buffer beyond the installed capacity faults; every other completes. -/
theorem execMergeFetchComplete_cases (line : Nat) (s : State) :
    (∃ t, execMergeFetchComplete line s = .next t) ∨
      (execMergeFetchComplete line s = .fault .noSuchLine ∧ s.dataLines * 8 ≤ line) := by
  unfold execMergeFetchComplete
  split
  · exact .inl ⟨_, rfl⟩
  · split
    next hLine => exact .inr ⟨rfl, hLine⟩
    next => exact .inl ⟨_, rfl⟩

/-- Settles O51: every other meaning is a next state whatever its branches find. -/
theorem commandsNeverRefuse : Obligations.CommandsNeverRefuse := by
  unfold Obligations.CommandsNeverRefuse
  intro i s
  cases i with
  | dramReadComplete line requester =>
    exact (execDramReadComplete_cases line requester s).imp_right fun ⟨hFault, hLine⟩ => ⟨hFault, line, hLine, .inr ⟨requester, rfl⟩⟩
  | mergeFetchComplete line =>
    exact (execMergeFetchComplete_cases line s).imp_right fun ⟨hFault, hLine⟩ => ⟨hFault, line, hLine, .inl rfl⟩
  | _ => exact .inl ⟨_, rfl⟩

/-! ### What a store writes -/

/-- A batch of writes to different keys leaves each of its values at its key. -/
theorem smGet_smPutAll_mem {α : Type} [DecidableEq α] {d : α} {m : SMap α} {l : List (Nat × α)} {k : Nat} {v : α} (w : smWf d m = true)
    (hKeys : (l.map Prod.fst).Nodup) (h : (k, v) ∈ l) : smGet d (smPutAll d m l) k = v := by
  induction l generalizing m with
  | nil => cases h
  | cons e l ih =>
    rw [List.map_cons, List.nodup_cons] at hKeys
    obtain ⟨hNew, hKeys⟩ := hKeys
    obtain rfl | hLater := List.mem_cons.mp h
    · have hNe : ∀ x ∈ l, x.1 ≠ k := fun x hx hk => hNew (List.mem_map.mpr ⟨x, hx, hk⟩)
      exact (smGet_smPutAll_ne hNe).trans (smGet_smSet_self w)
    · exact ih (smWf_smSet w) hKeys hLater

/-- Bytes written to consecutive addresses are read there. -/
theorem byteAt_putBytes {s : State} (w : Memory.wf s.dram.mem = true) (a : Nat) (l : List Byte) {i : Nat} (hi : i < l.length) :
    (s.putBytes a l).byteAt (a + i) = l.getD i 0 := by
  rw [List.getD_eq_getElem?_getD, List.getElem?_eq_getElem hi, Option.getD_some]
  refine smGet_smPutAll_mem w ?_ ?_
  case refine_1 =>
    have hFst : (((List.range l.length).zip l).map fun e => (a + e.1, e.2)).map Prod.fst = (List.range l.length).map (a + ·) := by
      conv => rhs; rw [← List.map_fst_zip (l₁ := List.range l.length) (l₂ := l) (by simp), List.map_map]
      exact List.map_map
    rw [hFst]
    exact List.Pairwise.map _ (fun x y hNe hEq => hNe (Nat.add_left_cancel hEq)) List.nodup_range
  case refine_2 =>
    refine List.mem_map.mpr ⟨(i, l[i]), ?_, rfl⟩
    exact List.mem_iff_getElem.mpr ⟨i, by simpa using hi, by simp⟩

theorem overlay_length (data : List Byte) (bytes : List (Nat × Byte)) : (overlay data bytes).length = data.length :=
  foldl_prop (P := fun d : List Byte => d.length = data.length) (fun _ _ h => List.length_set.trans h) rfl

theorem bytesAtPhys_length (s : State) (a n : Nat) : (s.bytesAtPhys a n).length = n := by simp [State.bytesAtPhys]

/-- A line stored reads back as its data. -/
theorem byteAt_storeLine {s : State} (w : Memory.wf s.dram.mem = true) (jsid k line : Nat) (data : List Byte) {i : Nat} (hi : i < data.length) :
    (storeLine jsid k line data s).byteAt (line * 64 + i) = data.getD i 0 :=
  ((stampLine_keeps (P := fun _ => True) (Keeps.refl _)).pend.2 _ trivial).trans (byteAt_putBytes w (line * 64) data hi)

/-! ### COMMIT_COMPLETE (R224, R239, R391) -/

/-- What an entry of the merge buffer writes back: its line's bytes under the entry's. -/
def mergedLine (e : MergeLine) (s : State) : List Byte := overlay (s.bytesAtPhys (e.line * 64) 64) e.bytes

theorem mergedLine_length (e : MergeLine) (s : State) : (mergedLine e s).length = 64 := by
  rw [mergedLine, overlay_length, bytesAtPhys_length]

theorem execCommitComplete_coast {s : State} {e : MergeLine} (hFind : s.dram.merge.find? (·.fetched) = some e) (hCoast : s.clk.coast = true) :
    execCommitComplete s = .next s := by
  simp [execCommitComplete, hFind, hCoast]

/-- A bad entry poisons its line and leaves every byte. -/
theorem execCommitComplete_bad {s : State} {e : MergeLine} (hFind : s.dram.merge.find? (·.fetched) = some e) (hCoast : s.clk.coast = false)
    (hBad : e.bad = true) : execCommitComplete s = .next (leaveMerge e.line (poisonLine e.jsid e.kix e.line s)) := by
  simp [execCommitComplete, hFind, hCoast, hBad]

/-- A good entry's line is stored; what follows stores nothing more. -/
theorem execCommitComplete_good {s : State} {e : MergeLine} (hFind : s.dram.merge.find? (·.fetched) = some e) (hCoast : s.clk.coast = false)
    (hGood : e.bad = false) : ∃ t, execCommitComplete s = .next t ∧ ∀ P, Keeps P (storeLine e.jsid e.kix e.line (mergedLine e s) s) t := by
  simp only [execCommitComplete, hFind, hCoast, hGood, Bool.false_eq_true, if_false]
  refine ⟨_, rfl, fun P => leaveMerge_keeps (ite_keeps ?_ ?_)⟩
  · exact mirrorPush_keeps (Keeps.refl _)
  · exact mirrorWords_keeps (Keeps.refl _)

/-- Settles O53: the entry's line is the only one stored, and nothing after the store writes memory. -/
theorem commitStoresItsLine : Obligations.CommitStoresItsLine := by
  unfold Obligations.CommitStoresItsLine
  intro s e w hFind
  refine ⟨execCommitComplete_coast hFind, fun hCoast => ?_⟩
  cases hBad : e.bad with
  | true =>
    have k : Keeps (fun _ => True) s (leaveMerge e.line (poisonLine e.jsid e.kix e.line s)) := leaveMerge_keeps (poisonLine_keeps (Keeps.refl s))
    exact ⟨_, execCommitComplete_bad hFind hCoast hBad, fun a _ => k.pend.2 a trivial, fun _ a => k.pend.2 a trivial, nofun⟩
  | false =>
    obtain ⟨t, ht, k⟩ := execCommitComplete_good hFind hCoast hBad
    refine ⟨t, ht, fun a ha => ?other, nofun, fun _ i hi => ?within⟩
    case other =>
      refine ((storeLine_keeps_off (P := (· = a)) ?_ (Keeps.refl s)).trans (k _)).pend.2 a rfl
      rintro x rfl
      rw [mergedLine_length]
      omega
    case within =>
      exact ((k (fun _ => True)).pend.2 _ trivial).trans (byteAt_storeLine w _ _ _ _ (by rw [mergedLine_length]; exact hi))

end Sys2Proof.Machine

namespace Sys2Proof.Machine

/-! ### Frames: what an operation leaves as it was

A frame is named by the state with the parts cleared that an operation may touch: the operation keeps the frame when that state is the
same before and after. -/

/-- The state but for the pages of the functions and what leaves the block. -/
def State.offPages (s : State) : State := { s with fns := [], out := [] }

/-- The state but for what an unsolicited event touches: event sequence numbers, rings, backlogs and the event-loss counters. -/
def State.offEvents (s : State) : State := { s with fns := [], out := [], links := [], logs := {} }

/-- The state but for what a reply touches. -/
def State.offReplies (s : State) : State := { s with plinth := {}, fns := [], dbg := {}, out := [] }

theorem fn_setFn_ne {s : State} {n m : Nat} {f : Func} (h : m ≠ n) : (s.setFn n f).fn m = s.fn m := smGet_smSet_ne (Ne.symm h)

section
variable {s : State} {n : Nat}

theorem sendVector_offPages (v : Nat) : (sendVector n v s).offPages = s.offPages := by
  unfold sendVector
  dsimp only
  split <;> rfl

theorem sendVector_fn_ne {v m : Nat} (h : m ≠ n) : (sendVector n v s).fn m = s.fn m := by
  unfold sendVector
  dsimp only
  split
  · exact fn_setFn_ne h
  · exact fn_setFn_ne h

theorem armVector_offPages (v : Nat) : (armVector n v s).offPages = s.offPages := by
  unfold armVector
  dsimp only
  split
  · exact sendVector_offPages v
  · rfl

theorem armVector_fn_ne {v m : Nat} (h : m ≠ n) : (armVector n v s).fn m = s.fn m := by
  unfold armVector
  dsimp only
  split
  · exact (sendVector_fn_ne h).trans (fn_setFn_ne h)
  · exact fn_setFn_ne h

theorem raiseInt_offPages (b : Nat) : (raiseInt n b s).offPages = s.offPages := by
  unfold raiseInt
  dsimp only
  split
  · rfl
  · exact armVector_offPages _

theorem writeRing_offPages (ev : Bool) (b : List Byte) : (writeRing n ev b s).offPages = s.offPages := raiseInt_offPages _

theorem placePacket_offPages (ev : Bool) (b : List Byte) : (placePacket n ev b s).offPages = s.offPages := by
  unfold placePacket
  dsimp only
  split
  · exact writeRing_offPages ev b
  · rfl

end

/-! ### Replies -/

/-- What changes pages only changes no more than a reply may. -/
theorem State.offReplies_of_offPages {s t : State} (h : t.offPages = s.offPages) : t.offReplies = s.offReplies :=
  congrArg (fun u : State => { u with plinth := {}, dbg := {} }) h

/-- The frame of a reply, written as the statements write it. -/
theorem State.eq_of_offReplies {s t : State} (h : t.offReplies = s.offReplies) :
    t = { s with plinth := t.plinth, fns := t.fns, dbg := t.dbg, out := t.out } :=
  congrArg (fun u : State => { u with plinth := t.plinth, fns := t.fns, dbg := t.dbg, out := t.out }) h

theorem putReply_offReplies (c : CmdCtx) (op st : Nat) (data : List Byte) (s : State) : (putReply c op st data s).offReplies = s.offReplies := by
  unfold putReply
  split
  · rfl
  split
  · rfl
  split
  · split
    · exact State.offReplies_of_offPages (placePacket_offPages _ _)
    · rfl
  · rfl

theorem sendReply_offReplies (c : CmdCtx) (op st : Nat) (data : List Byte) (s : State) : (sendReply c op st data s).offReplies = s.offReplies := by
  unfold sendReply
  split
  · rfl
  · exact putReply_offReplies c op st data s

theorem reply_offReplies (c : CmdCtx) (op st : Nat) (data : List Byte) (s : State) : (reply c op st data s).offReplies = s.offReplies :=
  sendReply_offReplies c op st data _

/-- An immediate row stays where it is, is refused by the gate, or has its effect. -/
theorem immediate_cases (cls : SrcClass) (op : Nat) (c : CmdCtx) (body : State → State) (s : State) :
    immediate cls op c body s = s ∨ (∃ st, immediate cls op c body s = reply c op st [] (takeAccepted c s)) ∨
      immediate cls op c body s = body (takeAccepted c s) := by
  cases hRuns : s.runs op with
  | false => exact .inl (by simp [immediate, hRuns])
  | true =>
    cases hGate : gate cls op c s with
    | some st => exact .inr (.inl ⟨st, immediate_refused hRuns hGate⟩)
    | none => exact .inr (.inr (immediate_served (by simp [State.serves, hRuns, hGate])))

/-- A row that only replies changes no more than a reply may. -/
theorem immediate_offReplies {cls : SrcClass} {op : Nat} {c : CmdCtx} {body : State → State} {s : State}
    (h : ∀ x : State, (body x).offReplies = x.offReplies) : (immediate cls op c body s).offReplies = s.offReplies := by
  obtain hs | ⟨st, hs⟩ | hs := immediate_cases cls op c body s
  · rw [hs]
  · rw [hs]
    exact reply_offReplies ..
  · rw [hs]
    exact h _

/-- A choice between two replies changes no more than a reply may. -/
theorem ite_offReplies {p : Prop} [Decidable p] {a b s : State} (ha : a.offReplies = s.offReplies) (hb : b.offReplies = s.offReplies) :
    (if p then a else b).offReplies = s.offReplies := by
  split
  · exact ha
  · exact hb

theorem onPart_offReplies {c : CmdCtx} {op p : Nat} {ok : Bool} {legal : Partition → Bool} {body : State → State} {s : State}
    (h : (body s).offReplies = s.offReplies) : (onPart c op p ok legal body s).offReplies = s.offReplies := by
  unfold onPart
  exact ite_offReplies (reply_offReplies ..) (ite_offReplies (reply_offReplies ..) (ite_offReplies (reply_offReplies ..) h))

/-- The sixteen rows that report change no more than a reply may. -/
theorem exec_offReplies {i : Instr} {s t : State} (hi : onlyReports i = true) (h : exec i s = .next t) : t.offReplies = s.offReplies := by
  cases i with
  | identQuery c => cases h; exact immediate_offReplies fun _ => reply_offReplies ..
  | identEquiv c => cases h; exact immediate_offReplies fun _ => reply_offReplies ..
  | identCert c offset => cases h; exact immediate_offReplies fun _ => ite_offReplies (reply_offReplies ..) (reply_offReplies ..)
  | frameStatus c part rsvd => cases h; exact immediate_offReplies fun _ => onPart_offReplies (reply_offReplies ..)
  | transFaults c jsid rsvd =>
    cases h
    exact immediate_offReplies fun _ => ite_offReplies (reply_offReplies ..)
      (ite_offReplies (reply_offReplies ..) (reply_offReplies ..))
  | dmaStatus c eng rsvd => cases h; exact immediate_offReplies fun _ => ite_offReplies (reply_offReplies ..) (reply_offReplies ..)
  | keyStatus c => cases h; exact immediate_offReplies fun _ => reply_offReplies ..
  | pendantStatus c => cases h; exact immediate_offReplies fun _ => reply_offReplies ..
  | maintStatus c => cases h; exact immediate_offReplies fun _ => reply_offReplies ..
  | timeRead c => cases h; exact immediate_offReplies fun _ => reply_offReplies ..
  | trustLog c offset =>
    cases h
    exact immediate_offReplies fun _ => ite_offReplies (reply_offReplies ..)
      (ite_offReplies (reply_offReplies ..) (reply_offReplies ..))
  | fwStatus c => cases h; exact immediate_offReplies fun _ => reply_offReplies ..
  | statsRead c sub rsvd unit =>
    cases h
    refine immediate_offReplies fun _ => ite_offReplies (reply_offReplies ..) ?_
    split
    · exact reply_offReplies ..
    · exact reply_offReplies ..
  | logRead c from_ n rsvd => cases h; exact immediate_offReplies fun _ => ite_offReplies (reply_offReplies ..) (reply_offReplies ..)
  | logSecurity c from_ n rsvd =>
    cases h; exact immediate_offReplies fun _ => ite_offReplies (reply_offReplies ..) (reply_offReplies ..)
  | armStatus c => cases h; exact immediate_offReplies fun _ => reply_offReplies ..
  | _ => cases hi

/-- TRANS.WALK changes what a reply may, after the reads of its table lines where it walks. -/
theorem execTransWalk_offReplies {c : CmdCtx} {jsid : Byte} {rsvd : BitVec 56} {jaddr : U64} {s t : State}
    (h : execTransWalk c jsid rsvd jaddr s = .next t) :
    ∃ u, (u = s ∨ u = walkRead jsid.toNat 0x8 jaddr.toNat (takeAccepted c s)) ∧ t.offReplies = u.offReplies := by
  cases h
  unfold pageWait
  split
  · exact ⟨s, .inl rfl, rfl⟩
  obtain hs | ⟨st, hs⟩ | hs := immediate_cases .j 0x0506 c _ s
  · exact ⟨s, .inl rfl, by rw [hs]⟩
  · exact ⟨s, .inl rfl, by rw [hs]; exact reply_offReplies ..⟩
  · rw [hs]
    split
    · exact ⟨s, .inl rfl, reply_offReplies ..⟩
    split
    · exact ⟨s, .inl rfl, reply_offReplies ..⟩
    split
    · exact ⟨s, .inl rfl, reply_offReplies ..⟩
    · exact ⟨_, .inr rfl, reply_offReplies ..⟩

/-- Settles O54: a report is a reply, and a reply keeps its frame. -/
theorem reportsChangeNothing : Obligations.ReportsChangeNothing := by
  unfold Obligations.ReportsChangeNothing
  refine fun i s t h => ⟨fun hi => State.eq_of_offReplies (exec_offReplies hi h), ?_⟩
  rintro c jsid rsvd jaddr rfl
  obtain ⟨u, hu, hut⟩ := execTransWalk_offReplies h
  exact ⟨u, hu, State.eq_of_offReplies hut⟩

end Sys2Proof.Machine

namespace Sys2Proof.Machine

/-! ### Unsolicited events -/

theorem State.offEvents_of_offPages {s t : State} (h : t.offPages = s.offPages) : t.offEvents = s.offEvents :=
  congrArg (fun u : State => { u with links := [], logs := {} }) h

theorem putFnEvent_offEvents (n op tag code : Nat) (data : List Byte) (s : State) : (putFnEvent n op tag code data s).offEvents = s.offEvents := by
  unfold putFnEvent
  dsimp only
  split
  · exact State.offEvents_of_offPages (writeRing_offPages true _)
  split
  · rfl
  · rfl

theorem putLostMarker_offEvents (n : Nat) (s : State) : (putLostMarker n s).offEvents = s.offEvents := by
  unfold putLostMarker
  dsimp only
  split
  · rfl
  · exact putFnEvent_offEvents ..

theorem fnEvent_offEvents (n op tag code : Nat) (data : List Byte) (s : State) : (fnEvent n op tag code data s).offEvents = s.offEvents := by
  unfold fnEvent
  split
  · exact (putFnEvent_offEvents ..).trans (putLostMarker_offEvents n s)
  · rfl

theorem linkEvent_offEvents (l op tag code : Nat) (data : List Byte) (s : State) : (linkEvent l op tag code data s).offEvents = s.offEvents := rfl

theorem postEvent_offEvents (code sub part : Nat) (js : Option Nat) (data : List Byte) (s : State) :
    (postEvent code sub part js data s).offEvents = s.offEvents := by
  unfold postEvent
  dsimp only
  have hOwner (d : List Byte) (u : State) (hu : u.offEvents = s.offEvents) :
      (match js with | some n => if n = 0 then u else fnEvent n 0xFF00 0xFFFF code d u | none => u).offEvents = s.offEvents := by
    split
    · split
      · exact hu
      · exact (fnEvent_offEvents ..).trans hu
    · exact hu
  split
  · exact (linkEvent_offEvents ..).trans (hOwner _ _ (fnEvent_offEvents ..))
  · exact hOwner _ _ (fnEvent_offEvents ..)

/-! ### The function page (R469 to R474) -/

/-- The state but for the function pages, what leaves the block, and the power state. -/
def State.offAccess (s : State) : State := { s with fns := [], out := [], pwr := {} }

/-- t is s but for the page of function n, what leaves the block, and the power state. -/
def OwnPage (n : Nat) (s t : State) : Prop := t.offAccess = s.offAccess ∧ ∀ m, m ≠ n → t.fn m = s.fn m

theorem OwnPage.refl (n : Nat) (s : State) : OwnPage n s s := ⟨rfl, fun _ _ => rfl⟩

theorem OwnPage.trans {n : Nat} {s t u : State} (h : OwnPage n s t) (k : OwnPage n t u) : OwnPage n s u :=
  ⟨k.1.trans h.1, fun m hm => (k.2 m hm).trans (h.2 m hm)⟩

theorem OwnPage.eq {n : Nat} {s t : State} (h : OwnPage n s t) : t = { s with fns := t.fns, out := t.out, pwr := t.pwr } :=
  congrArg (fun u : State => { u with fns := t.fns, out := t.out, pwr := t.pwr }) h.1

section
variable {n : Nat} {s t : State}

theorem OwnPage.setFn (h : OwnPage n s t) (f : Func) : OwnPage n s (t.setFn n f) := h.trans ⟨rfl, fun _ hm => fn_setFn_ne hm⟩

theorem OwnPage.emit (h : OwnPage n s t) (o : Output) : OwnPage n s (t.emit o) := h.trans ⟨rfl, fun _ _ => rfl⟩

theorem OwnPage.of_offPages (h : t.offPages = s.offPages) (hFn : ∀ m, m ≠ n → t.fn m = s.fn m) : OwnPage n s t :=
  ⟨congrArg (fun u : State => { u with pwr := {} }) h, hFn⟩

theorem OwnPage.sendVector (h : OwnPage n s t) (v : Nat) : OwnPage n s (sendVector n v t) :=
  h.trans (.of_offPages (sendVector_offPages v) fun _ hm => sendVector_fn_ne hm)

theorem OwnPage.armVector (h : OwnPage n s t) (v : Nat) : OwnPage n s (armVector n v t) :=
  h.trans (.of_offPages (armVector_offPages v) fun _ hm => armVector_fn_ne hm)

theorem OwnPage.sendPending (h : OwnPage n s t) (v : Nat) : OwnPage n s (sendPending n v t) := by
  unfold Machine.sendPending
  dsimp only
  split
  · exact (h.setFn _).emit _
  · exact h

theorem touchDomain_offAccess (d : Domain) (s : State) : (touchDomain d s).offAccess = s.offAccess := by
  unfold touchDomain
  dsimp only
  split
  · split <;> rfl
  · split <;> rfl

theorem OwnPage.touchDomain (d : Domain) : OwnPage n s (touchDomain d s) := ⟨touchDomain_offAccess d s, fun m _ => touchDomain_fn d s m⟩

/-- An access of a function's page touches what its effect touches, and wakes the endpoint's domain. -/
theorem OwnPage.hostAccess {body : State → State} (h : ∀ x, OwnPage n x (body x)) : OwnPage n s (hostAccess n body s) := by
  unfold Machine.hostAccess
  split
  · exact .refl n s
  · exact (OwnPage.touchDomain .base).trans (h _)

end

theorem writeEnable_ownPage (n : Nat) (enable : Bool) (s : State) : OwnPage n s (writeEnable n enable s) := by
  unfold writeEnable
  dsimp only
  split
  · exact (OwnPage.refl n s).setFn _
  split
  · exact (OwnPage.refl n s).setFn _
  · exact (OwnPage.refl n s).setFn _

theorem writeQreset_ownPage (n : Nat) (s : State) : OwnPage n s (writeQreset n s) := by
  unfold writeQreset
  dsimp only
  split
  · exact OwnPage.refl n s
  · exact (OwnPage.refl n s).setFn _

theorem writeIntMask_ownPage (n : Nat) (value : U32) (s : State) : OwnPage n s (writeIntMask n value s) :=
  foldl_prop (P := OwnPage n s) (fun _ _ h => h.armVector _) ((OwnPage.refl n s).setFn _)

/-- The rows of a function page concern their own function. -/
theorem exec_ownPage {i : Instr} {n : Nat} {s t : State} (hi : ownPageRow i = some n) (h : exec i s = .next t) : OwnPage n s t := by
  cases i with
  | ctrlEnableWrite fn enable => cases h; cases hi; exact .hostAccess fun x => writeEnable_ownPage _ _ x
  | ctrlQreset fn => cases h; cases hi; exact .hostAccess fun x => writeQreset_ownPage _ x
  | intStatusClear fn value => cases h; cases hi; exact .hostAccess fun x => (OwnPage.refl _ x).setFn _
  | intMaskWrite fn value => cases h; cases hi; exact .hostAccess fun x => writeIntMask_ownPage _ _ x
  | intModDelayExpiry fn vector =>
    cases h; cases hi
    split
    · exact (OwnPage.refl _ s).sendVector _
    · exact OwnPage.refl _ s
  | msixVectorUnmask fn vector =>
    cases h; cases hi
    split
    · exact OwnPage.refl _ s
    · exact .hostAccess fun x => ((OwnPage.refl _ x).setFn _).sendPending _
  | frameLoRead fn => cases h; cases hi; exact .hostAccess fun x => ((OwnPage.refl _ x).setFn _).emit _
  | countLoRead fn => cases h; cases hi; exact .hostAccess fun x => ((OwnPage.refl _ x).setFn _).emit _
  | d3hotEntry fn =>
    cases h; cases hi
    split
    · exact OwnPage.refl _ s
    · exact (OwnPage.refl _ s).setFn _
  | d3hotExit fn =>
    cases h; cases hi
    split
    · exact OwnPage.refl _ s
    · exact foldl_prop (P := OwnPage fn.val s) (fun _ _ h => h.sendPending _) ((OwnPage.refl _ s).setFn _)
  | _ => cases hi

/-! ### Ring indexes (R472) -/

/-- The state but for what an access of a ring index touches. -/
def State.offIndexes (s : State) : State := { s with fns := [], out := [], links := [], logs := {}, pwr := {} }

theorem State.eq_of_offIndexes {s t : State} (h : t.offIndexes = s.offIndexes) :
    t = { s with fns := t.fns, links := t.links, logs := t.logs, out := t.out, pwr := t.pwr } :=
  congrArg (fun u : State => { u with fns := t.fns, links := t.links, logs := t.logs, out := t.out, pwr := t.pwr }) h

theorem badDoorbell_offIndexes (n reg : Nat) (value : U32) (s : State) : (badDoorbell n reg value s).offIndexes = s.offIndexes :=
  congrArg (fun u : State => { u with pwr := {} }) (postEvent_offEvents ..)

theorem writeCmdDb_offIndexes (n : Nat) (value : U32) (s : State) : (writeCmdDb n value s).offIndexes = s.offIndexes := by
  unfold writeCmdDb
  dsimp only
  split
  · rfl
  split
  · exact badDoorbell_offIndexes ..
  · rfl

theorem writeHead_offIndexes (n : Nat) (ev : Bool) (value : U32) (s : State) : (writeHead n ev value s).offIndexes = s.offIndexes := by
  unfold writeHead
  dsimp only
  split
  · rfl
  split
  · rfl
  · exact badDoorbell_offIndexes ..

theorem hostAccess_offIndexes {n : Nat} {body : State → State} {s : State} (h : ∀ x : State, (body x).offIndexes = x.offIndexes) :
    (hostAccess n body s).offIndexes = s.offIndexes := by
  unfold hostAccess
  split
  · rfl
  · exact (h _).trans (congrArg (fun u : State => { u with links := [], logs := {} }) (touchDomain_offAccess .base s))

/-- Settles O55: the page's rows touch their function's page, and a bad index is posted. -/
theorem functionPageFrame : Obligations.FunctionPageFrame := by
  unfold Obligations.FunctionPageFrame
  refine fun i s t h => ⟨fun n hn => ?page, ?index⟩
  case page =>
    have k := exec_ownPage hn h
    exact ⟨k.eq, k.2⟩
  case index =>
    refine fun ⟨fn, v, hi⟩ => State.eq_of_offIndexes ?_
    obtain rfl | rfl | rfl := hi
    · cases h; exact hostAccess_offIndexes (writeCmdDb_offIndexes fn.val v)
    · cases h; exact hostAccess_offIndexes (writeHead_offIndexes fn.val false v)
    · cases h; exact hostAccess_offIndexes (writeHead_offIndexes fn.val true v)

/-! ### The debug port (R450 to R455) -/

/-- The state but for the debug port, what leaves the block, and the free values drawn. -/
def State.offPort (s : State) : State := { s with dbg := {}, out := [], free := 0 }

theorem State.eq_of_offPort {s t : State} (h : t.offPort = s.offPort) : t = { s with dbg := t.dbg, out := t.out, free := t.free } :=
  congrArg (fun u : State => { u with dbg := t.dbg, out := t.out, free := t.free }) h

theorem dapAccess_offPort {body : State → State} {s : State} (h : ∀ x : State, (body x).offPort = x.offPort) :
    (dapAccess body s).offPort = s.offPort := by
  unfold dapAccess
  split
  · rfl
  split
  · rfl
  · exact h _

theorem drawChallenge_offPort (l : BitVec 2) (s : State) : (drawChallenge l s).offPort = s.offPort := by
  unfold drawChallenge
  split <;> rfl

theorem bufferPut_offPort (v : U32) (s : State) : (bufferPut v s).offPort = s.offPort := by
  unfold bufferPut
  split <;> rfl

theorem bufferGet_offPort (s : State) : (bufferGet s).offPort = s.offPort := by
  unfold bufferGet
  split
  · rfl
  split
  · rfl
  · dsimp only
    split <;> rfl

theorem vtPut_offPort (b : Byte) (s : State) : (vtPut b s).offPort = s.offPort := by
  unfold vtPut
  split <;> rfl

theorem vtWrite_offPort (v : U32) (s : State) : (vtWrite v s).offPort = s.offPort := by
  unfold vtWrite
  split
  · exact vtPut_offPort _ s
  · rfl

theorem vtRead_offPort (s : State) : (vtRead s).offPort = s.offPort := by
  unfold vtRead
  split
  · rfl
  · split <;> rfl

theorem exec_offPort {i : Instr} {s t : State} (hi : debugPortRow i = true) (h : exec i s = .next t) : t.offPort = s.offPort := by
  cases i with
  | pktDataWrite value => cases h; exact dapAccess_offPort (bufferPut_offPort value)
  | pktDataRead => cases h; exact dapAccess_offPort bufferGet_offPort
  | pktCtrlClr => cases h; exact dapAccess_offPort fun _ => rfl
  | vtDataWrite value => cases h; exact dapAccess_offPort (vtWrite_offPort value)
  | vtDataRead => cases h; exact dapAccess_offPort vtRead_offPort
  | vtSerialByte byte =>
    cases h
    split
    · exact vtPut_offPort byte s
    · rfl
  | lockoutExpiry =>
    cases h
    split
    · split <;> rfl
    · rfl
  | authChallengeObserve => cases h; exact dapAccess_offPort (drawChallenge_offPort 1)
  | authChallengeFull => cases h; exact dapAccess_offPort (drawChallenge_offPort 2)
  | tapInstructionUpdate ir =>
    cases h
    split <;> rfl
  | _ => cases hi

/-- Settles O56: what the rows change belongs to the port. -/
theorem debugPortFrame : Obligations.DebugPortFrame := by
  unfold Obligations.DebugPortFrame
  exact fun i s t hi h => State.eq_of_offPort (exec_offPort hi h)

/-! ### PCI Express resets (R478) -/

/-- The state but for what a PCI Express reset touches: of the translation state, the fault records. -/
def State.offReset (s : State) : State :=
  { s with plinth := {}, fns := [], dbg := {}, arm := {}, links := [], logs := {}, out := [], dma := [], trans := { s.trans with faults := [] } }

theorem offReset_withArm (s : State) (a : Armature) : ({ s with arm := a } : State).offReset = s.offReset := rfl

theorem State.offReset_of_offEvents {s t : State} (h : t.offEvents = s.offEvents) : t.offReset = s.offReset :=
  congrArg (fun u : State => { u with plinth := {}, dbg := {}, arm := {}, dma := [], trans := { u.trans with faults := [] } }) h

theorem putCompletion_offReset (c : CmdCtx) (op code : Nat) (data : List Byte) (s : State) : (putCompletion c op code data s).offReset = s.offReset := by
  unfold putCompletion
  dsimp only
  split
  · rfl
  split
  · rfl
  split
  · exact State.offReset_of_offEvents (fnEvent_offEvents ..)
  · rfl

theorem completeOpt_offReset (c : Option CmdCtx) (code : Nat) (data : List Byte) (s : State) : (completeOpt c code data s).offReset = s.offReset := by
  unfold completeOpt complete sendCompletion
  split
  · rfl
  split
  · rfl
  split
  · rfl
  · exact putCompletion_offReset ..

/-- The abort of a submitted list ends its command. -/
theorem abortKind_offReset {l : DmaList} (hl : l.kind = .list) (s : State) : (abortKind l s).offReset = s.offReset := by
  unfold abortKind
  rw [hl]
  exact completeOpt_offReset ..

theorem abortHostLists_offReset (js : Nat) (s : State) : (abortHostLists js s).offReset = s.offReset := by
  unfold abortHostLists
  refine foldl_prop (P := fun a : State => a.offReset = s.offReset) (fun a e ha => ?_) rfl
  refine List.foldlRecOn (motive := fun b : State => b.offReset = s.offReset) _ _ ?start fun b hb l hl => (abortKind_offReset ?_ b).trans hb
  case start =>
    split
    · exact ha
    · exact ha
  · simp only [List.mem_filter, Bool.and_eq_true, decide_eq_true_eq] at hl
    exact hl.2.1.2

theorem resetFn_offReset (n : Nat) (s : State) : (resetFn n s).offReset = s.offReset := abortHostLists_offReset n _

theorem resetPf_offReset (s : State) : (resetPf s).offReset = s.offReset := by
  have hVfs : (resetVfs s).offReset = s.offReset :=
    foldl_prop (P := fun a : State => a.offReset = s.offReset) (fun a n ha => (resetFn_offReset n a).trans ha) rfl
  exact (offReset_withArm _ _).trans ((resetFn_offReset 0 _).trans hVfs)

theorem exec_pcieReset_offReset {i : Instr} {s t : State} (hi : i = .flrPf ∨ i = .pcieConventionalReset ∨ ∃ fn, i = .flrVf fn)
    (h : exec i s = .next t) : t.offReset = s.offReset := by
  obtain rfl | rfl | ⟨fn, rfl⟩ := hi
  · cases h
    split
    · rfl
    · exact resetPf_offReset s
  · cases h
    split
    · rfl
    · exact resetPf_offReset s
  · cases h
    split
    · rfl
    · exact resetFn_offReset fn.val s

/-- Settles O57: a reset touches pages, commands and lists, and a list of its function ends as by DMA.ABORT. -/
theorem pciExpressResetsAlterNoRun : Obligations.PciExpressResetsAlterNoRun := by
  unfold Obligations.PciExpressResetsAlterNoRun
  intro i s t hi h
  have k := exec_pcieReset_offReset hi h
  have hParts : t.offReset.parts = s.offReset.parts := by rw [k]
  have hKeys : t.offReset.keys = s.offReset.keys := by rw [k]
  have hDram : t.offReset.dram = s.offReset.dram := by rw [k]
  have hTrans : { t.offReset.trans with faults := t.trans.faults } = { s.offReset.trans with faults := t.trans.faults } := by rw [k]
  have hArr : t.offReset.arr = s.offReset.arr := by rw [k]
  have hFab : t.offReset.fab = s.offReset.fab := by rw [k]
  exact ⟨hParts, hKeys, hDram, hTrans, hArr, hFab⟩

end Sys2Proof.Machine

namespace Sys2Proof.Machine

/-! ### Rows that complete -/

/-- A served immediate row completes with its effect. -/
theorem next_immediate {cls : SrcClass} {op : Nat} {c : CmdCtx} {body : State → State} {s t : State} (h : s.serves cls op c = true)
    (hb : body (takeAccepted c s) = t) : (.next (immediate cls op c body s) : Res) = .next t :=
  congrArg Host.Outcome.next ((immediate_served h).trans hb)

/-- A served deferred row completes with its effect. -/
theorem next_deferred {cls : SrcClass} {op : Nat} {c : CmdCtx} {body : State → State} {s t : State} (h : s.servesLate cls op c = true)
    (hb : body (takeAccepted c s) = t) : (.next (deferredOp cls op c body s) : Res) = .next t :=
  congrArg Host.Outcome.next ((deferredOp_served h).trans hb)

/-- A served row of a partition that its command may name, with good arguments and in a legal state, completes with its effect. -/
theorem next_onPart {cls : SrcClass} {op p : Nat} {c : CmdCtx} {ok : Bool} {legal : Partition → Bool} {body : State → State} {s t : State}
    (h : s.serves cls op c = true) (hName : s.mayName c p = true) (hOk : ok = true) (hLegal : legal (s.part p) = true)
    (hb : body (takeAccepted c s) = t) : (.next (immediate cls op c (fun x => onPart c op p ok legal body x) s) : Res) = .next t :=
  next_immediate h ((onPart_legal (s := takeAccepted c s) hOk hName hLegal).trans hb)

/-- Settles O1: a served query replies with its table's data, and IDENT.CERT's OFFSET splits at the chain's length. -/
theorem identityAnswers : Obligations.IdentityAnswers := by
  unfold Obligations.IdentityAnswers
  refine fun c offset s => ⟨fun h => next_immediate h rfl, fun h => next_immediate h rfl, fun h hIn => next_immediate h ?within,
    fun h hOut => next_immediate h ?beyond⟩
  case within => exact if_neg (Nat.not_le.mpr hIn)
  case beyond => exact if_pos hOut

/-- Settles O2. -/
theorem powerCommandsComplete : Obligations.PowerCommandsComplete := by
  unfold Obligations.PowerCommandsComplete
  refine fun c target st s => ⟨fun h hst hHalt hTrans hNew hOff hOk => next_immediate h ?set,
    fun h hst hHalt hTrans hSame => next_immediate h ?same, fun h => next_immediate h rfl,
    fun period ns chk sensors h hLen hLo hHi hNs hChk hSens => next_immediate h ?watch⟩
  case set => simp [hst, hHalt, hTrans, hNew, hOff, hOk]
  case same => simp [hst, hHalt, hTrans, hSame]
  case watch =>
    have hPeriod : ¬ period = 0#32 := by rintro rfl; simp at hLo
    have hGood : ∀ w ∈ sensors, w.rsvd = 0#16 ∧ w.saddr.toNat ≤ 127 := hSens
    exact (if_neg (not_not_intro hLen)).trans
      (if_neg (by simpa [hPeriod, Nat.not_lt.mpr hHi, Nat.not_lt.mpr hNs, Nat.not_lt.mpr hChk] using hGood))

/-- Settles O3. -/
theorem frameCommandsComplete : Obligations.FrameCommandsComplete := by
  unfold Obligations.FrameCommandsComplete
  refine fun c part s hName => ⟨fun dur h hst hCond hRun hRoot => next_onPart h hName rfl ?pauseLegal ?pause,
    fun m t b d h hst hPaused hLimit hJoin hRoot => next_onPart h hName rfl ?resumeLegal ?resume,
    fun k tv h hst hCond hHeld hLimit hJoin => next_onPart h hName rfl ?releaseLegal ?release,
    fun count m t b d h hst hPaused hJoin hRoot hCount => next_onPart h hName rfl ?stepLegal ?step,
    fun lcl grp row value h hst hGrp hRow hPcl hRoom => next_onPart h hName rfl ?mailboxLegal ?mailbox,
    fun h => next_onPart h hName rfl rfl rfl⟩
  case pauseLegal => simp [hst, hCond]
  case pause => simp [hRun, hRoot, rootPause]
  case resumeLegal => simp [hst, hPaused, Partition.cond]
  case resume => cases hHeld : (s.part part.toNat).heldFrame <;> simp [hHeld, hPaused, hLimit, hRoot, hJoin, notJoining, resumePause]
  case releaseLegal => simp [hst, hCond]
  case release => simp [hHeld, hLimit, hJoin, notJoining]
  case stepLegal => simp [hst, hPaused]
  case step => simp [hPaused, show ¬ count = 0#16 from hCount, hRoot, hJoin, notJoining]
  case mailboxLegal => simp [hst]
  case mailbox => simp [Nat.not_le.mpr hGrp, Nat.not_le.mpr hRow, Nat.not_le.mpr hRoom, Option.isNone_eq_false_iff.mpr hPcl]
end Sys2Proof.Machine

namespace Sys2Proof.Machine

/-! ### Maquette commands (Table 16.5) -/

/-- A command whose pages are free goes on. -/
theorem next_pageWait {c : CmdCtx} {jsid lo n : Nat} {go : State → State} {s t : State} (hFree : s.pagesFree c jsid lo n = true)
    (h : (.next (go s) : Res) = .next t) : (.next (pageWait c jsid lo n go s) : Res) = .next t :=
  (congrArg Host.Outcome.next (pageWait_free hFree)).trans h

/-- A command whose pages, if it names any, are free goes on. -/
theorem next_pageWait_opt {c : CmdCtx} {jsid lo n : Nat} {go : State → State} {s t : State} (hFree : n = 0 ∨ s.pagesFree c jsid lo n = true)
    (h : (.next (go s) : Res) = .next t) : (.next (pageWait c jsid lo n go s) : Res) = .next t := by
  obtain rfl | hFree := hFree
  · exact h
  · exact next_pageWait hFree h

theorem mayName_lt {s : State} {c : CmdCtx} {p : Nat} (h : s.mayName c p = true) : p < 4 := by
  simp only [State.mayName, Bool.and_eq_true, decide_eq_true_eq] at h
  exact h.1

theorem mayName_own {s : State} {c : CmdCtx} {p : Nat} (h : s.mayName c p = true) : foreignPart c p s = false := by
  simp only [State.mayName, Bool.and_eq_true, Bool.not_eq_true'] at h
  exact h.2

/-- Settles O4. -/
theorem maquetteCommandsComplete : Obligations.MaquetteCommandsComplete := by
  unfold Obligations.MaquetteCommandsComplete
  refine fun c part s hName => ⟨
    fun dies jsid flags addr len e h hDies hJsid hFlags hRange hMem hForeign hst hSwitch hUnload hRestore hFree hEng =>
      next_pageWait hFree (next_immediate h ?load),
    fun h hst hRestore hSwitch hPair => next_onPart h hName rfl ?startLegal ?start,
    fun h hst hUnload => next_onPart h hName rfl ?unloadEmptyLegal ?unloadEmpty,
    fun h hst hUnload => next_onPart h hName rfl ?unloadLoadedLegal ?unloadLoaded,
    fun lcl tgt src u im h hLcl hTgt hst hPcl hHosted hImage hDie hUsed hNe hRetired hHeld hMig =>
      next_onPart h hName ?migrateArgs ?migrateLegal ?migrate,
    fun mask addr len e im h hMask hRange hMem hFree hst hImage hQuads hBusy hEng =>
      next_pageWait hFree (next_onPart h hName ?regionArgs ?regionLegal ?region),
    fun flags njsid saddr slen iaddr ilen caddr h hFlags hJsid hAlign hSave hIn hMem hCast hCastFree hLen hSaveFree hInFree hst hSwitch
      hShadow hBlock hForeign hKey => next_pageWait hSaveFree (next_pageWait hInFree (next_pageWait_opt ?castFree
        (next_onPart h hName ?switchArgs ?switchLegal ?switch)))⟩
  case load =>
    have hPart := mayName_lt hName
    refine (if_neg ?_).trans ((if_neg ?_).trans ((if_neg ?_).trans ((if_neg ?_).trans ?_)))
    · simp [Nat.not_le.mpr hPart, Nat.not_le.mpr hDies, Nat.not_le.mpr hJsid, Nat.not_lt.mpr hFlags, hRange]
    · simp [hForeign, mayName_own hName]
    · have hLegal : (s.part part.toNat).st = .empty ∨ (s.part part.toNat).st = .loaded ∨
          ((s.part part.toNat).st = .running ∧ (s.part part.toNat).pausedAt.isSome = true) := or_left_comm.mp hst
      simp [hSwitch, hUnload, hRestore]
      exact decide_eq_true hLegal
    · simp [hMem]
    · simp [hEng]
  case startLegal => simp [hst, hRestore, hSwitch]
  case start => simp [hPair]
  case unloadEmptyLegal => simp [hst, hUnload]
  case unloadEmpty => simp [hst]
  case unloadLoadedLegal => simp [hst, hUnload]
  case unloadLoaded => simp [hst]
  case migrateArgs => simp [hLcl, hTgt]
  case migrateLegal => simp [hst]
  case migrate =>
    simp only [part_takeAccepted, hPcl, hHosted, hImage]
    refine (if_neg ?_).trans ((if_neg ?_).trans rfl)
    · simp [hDie, hUsed, hNe, hRetired, hHeld]
    · simp [hMig]
  case regionArgs => simp [show ¬ mask = 0#24 from hMask, hRange]
  case regionLegal => simp [hst]
  case region =>
    simp only [part_takeAccepted, pickEngine_takeAccepted, hImage, hEng]
    refine (if_neg ?_).trans ((if_neg ?_).trans ((if_neg ?_).trans rfl))
    · rw [hQuads]
      exact Bool.false_ne_true
    · exact fun hAny => Bool.false_ne_true (hBusy.symm.trans hAny)
    · simp [hMem]
  case castFree =>
    obtain h0 | hFree := hCastFree
    · exact .inl (if_pos h0)
    · split
      · exact .inl rfl
      · exact .inr hFree
  case switchArgs => simp [hFlags, hJsid, hAlign, hSave, hIn, hCast]
  case switchLegal => simp [hst]
  case switch => simp [hForeign, Nat.not_lt.mpr hLen, hSwitch, hShadow, hBlock, hMem, hKey]

end Sys2Proof.Machine

namespace Sys2Proof.Machine

/-! ### Translation, DMA and key commands (Tables 16.6 to 16.8) -/

/-- What was decided true holds, whatever instance decided it. -/
theorem of_decided {p : Prop} {inst : Decidable p} (h : @decide p inst = true) : p := @of_decide_eq_true p inst h

/-- A list whose ranges are free goes on. -/
theorem next_listWait {c : CmdCtx} {jsid : Nat} {l : List DmaElem} {go : State → State} {s t : State}
    (hFree : (l.flatMap (elemRanges jsid)).all (fun r => s.pagesFree c r.1 r.2.1 r.2.2) = true)
    (h : (.next (go s) : Res) = .next t) : (.next (listWait c jsid l go s) : Res) = .next t :=
  (congrArg Host.Outcome.next (listWait_free hFree)).trans h

/-- Settles O5. -/
theorem translationCommandsComplete : Obligations.TranslationCommandsComplete := by
  unfold Obligations.TranslationCommandsComplete
  refine fun c jsid s => ⟨
    fun base len h hMem hPool hBase hLen hPos hUsable => next_immediate h ?pool,
    fun size flags count jaddr paddr s1 h hJsid hSize hFlags hPos hCount hMem hPool hRange hJ hP hPhys hFree hAbsent hMapped =>
      next_pageWait hFree (next_deferred h ?map),
    fun size jaddr e h hJsid hSize hMem hRange hJ hFree hSame => next_pageWait hFree (next_deferred h ?unmap),
    fun frame h hJsid => next_immediate h ?resolve,
    fun h hJsid hForeign => next_immediate h ?faults,
    fun jaddr h hJsid hRange hForeign hMem hFree => next_pageWait hFree (next_immediate h ?walk)⟩
  case pool =>
    refine (if_neg ?_).trans ((if_neg ?_).trans ((if_neg ?_).trans rfl))
    · simp [State.memGone, hMem]
    · simp [hPool]
    · simp [hBase, hLen, Nat.pos_iff_ne_zero.mp hPos, Nat.not_lt.mpr hUsable]
  case map =>
    have hFound : ∀ f ∈ ((List.range count.toNat).map fun i => jaddr.toNat + i * pageBytes (sizeLevel size.toNat)).map
        (fun a => pageAt s jsid.toNat (sizeLevel size.toNat) a), f = .absent := by simpa using hAbsent
    refine (if_neg ?_).trans ((if_neg ?_).trans ((if_neg ?_).trans ((if_neg ?_).trans ((if_neg ?_).trans ((if_neg ?_).trans
      ((if_neg ?_).trans ?_))))))
    · simp [Nat.not_lt.mpr hJsid, Nat.not_lt.mpr hSize, Nat.not_lt.mpr hFlags, Nat.pos_iff_ne_zero.mp hPos, Nat.not_lt.mpr hCount]
    · simp [State.memGone, hMem]
    · simp [Option.isSome_iff_ne_none.mp hPool]
    · simp [hRange]
    · simp [hJ, hP]
    · exact fun hBad => Bool.false_ne_true (hPhys.symm.trans hBad)
    · intro hAny
      obtain ⟨f, hf, hBad⟩ := List.any_eq_true.mp hAny
      simp [hFound f hf] at hBad
    · dsimp only
      rw [hMapped]
      exact congrArg (fun olds => replyOrWait c 0x0502 jsid.toNat jaddr.toNat (count.toNat * pageBytes (sizeLevel size.toNat)) olds
        (forwardPages msgMap jsid.toNat (sizeLevel size.toNat) flags.toNat count.toNat jaddr.toNat paddr.toNat s1))
        (List.filterMap_eq_nil_iff.mpr fun f hf => by rw [hFound f hf])
  case unmap =>
    refine (if_neg ?_).trans ((if_neg ?_).trans ((if_neg ?_).trans ((if_neg ?_).trans ((if_neg ?_).trans ?_))))
    · simp [Nat.not_lt.mpr hJsid, Nat.not_lt.mpr hSize]
    · simp [State.memGone, hMem]
    · simpa using hRange
    · simp [hJ]
    · simp [hSame]
    · simp [hSame]
  case resolve =>
    refine (if_neg ?_).trans ((if_neg ?_).trans ((if_neg ?_).trans ?_))
    · simp
    · simp [Nat.not_lt.mpr hJsid]
    · simp
    · simp
  case faults =>
    refine (if_neg ?_).trans ((if_neg ?_).trans rfl)
    · simp [Nat.not_lt.mpr hJsid]
    · simp [hForeign]
  case walk =>
    refine (if_neg ?_).trans ((if_neg ?_).trans ((if_neg ?_).trans ?_))
    · simp [Nat.not_lt.mpr hJsid, hRange]
    · simp [hForeign]
    · simp [State.memGone, hMem]
    · simp
      cases tableWalk s jsid.toNat jaddr.toNat <;> rfl

/-- A suspended list at the head of its engine, named by its LSEQ by a source that may, is the list a command names. -/
theorem suspendedList_ok {c : CmdCtx} {eng : Byte} {lseq : U32} {s : State} {l : DmaList} {r : List DmaList} (hEng : eng.toNat < 16)
    (hLists : s.lists eng.toNat = l :: r) (hSusp : l.suspended = true) (hOwn : ∀ x ∈ l :: r, x.lseq = lseq → foreignJs c x.jsid = false)
    (hSeq : l.lseq = lseq) : suspendedList c eng 0 lseq s = .ok l := by
  have hHead : foreignJs c l.jsid = false := hOwn l (by simp) hSeq
  unfold suspendedList
  rw [if_neg (by simp [Nat.not_le.mpr hEng]), if_neg, hLists]
  · simp [hSusp, hHead, hSeq]
  · rw [hLists]
    intro hAny
    obtain ⟨x, hx, hBad⟩ := List.any_eq_true.mp hAny
    simp only [Bool.and_eq_true, decide_eq_true_eq] at hBad
    exact Bool.false_ne_true ((hOwn x hx hBad.1).symm.trans hBad.2)

/-- Settles O6. -/
theorem dmaCommandsComplete : Obligations.DmaCommandsComplete := by
  unfold Obligations.DmaCommandsComplete
  refine fun c s => ⟨
    fun count jsid utag elems e h hJsid hForeign hLen hPos hCount hElems hFree hMem hEng => next_listWait hFree (next_immediate h ?submit),
    fun eng lseq l r hEng hLists hSusp hOwn hSeq => ⟨fun h => next_immediate h ?resume, fun h => next_immediate h ?abort⟩,
    fun eng h hEng => next_immediate h ?status⟩
  case submit =>
    simp only [pickEngine_takeAccepted, hEng]
    refine (if_neg ?_).trans ((if_neg ?_).trans ((if_neg ?_).trans ((if_neg ?_).trans rfl)))
    · simp [Nat.not_le.mpr hJsid]
    · simp [hForeign]
    · have hCount0 : ¬ count = 0#8 := by rintro rfl; simp at hPos
      simp [hLen, hCount0, Nat.not_lt.mpr hCount]
      simpa using hElems
    · simp [State.memGone, hMem]
  case resume =>
    rw [suspendedList_takeAccepted, suspendedList_ok hEng hLists hSusp hOwn hSeq]
  case abort =>
    rw [suspendedList_takeAccepted, suspendedList_ok hEng hLists hSusp hOwn hSeq]
  case status => exact if_neg (by simp [Nat.not_le.mpr hEng])

/-- Settles O7. -/
theorem keyCommandsComplete : Obligations.KeyCommandsComplete := by
  unfold Obligations.KeyCommandsComplete
  refine fun c kix jsid s => ⟨
    fun h hPos hLe hEmpty hShadow hSpare => next_immediate h ?load,
    fun flags h hJsid hPos hLe hFlags hLoaded hLeaf => next_immediate h ?bind,
    fun h hJsid hBound hLeaf hParts => next_immediate h ?unbind,
    fun h hPos hLe hLoaded hRet => next_immediate h ?retire,
    fun b h hJsid hPos hLe hBind hRot hLoaded hBound hFree => next_immediate h ?rotate,
    fun h => next_immediate h rfl⟩
  case load =>
    refine (if_neg ?_).trans ((if_neg ?_).trans ((if_neg ?_).trans ((if_neg ?_).trans rfl)))
    · simp
    · simp [Nat.pos_iff_ne_zero.mp hPos, Nat.not_lt.mpr hLe]
    · simp [hEmpty, hShadow]
    · exact Nat.not_lt.mpr hSpare
  case bind =>
    have hKix : ¬ kix = 0#8 := by rintro rfl; simp at hPos
    refine (if_neg ?_).trans ((if_neg ?_).trans rfl)
    · simp [hKix, Nat.not_lt.mpr hJsid, Nat.not_lt.mpr hLe, Nat.not_lt.mpr hFlags]
    · simp [hLoaded, hLeaf]
  case unbind =>
    refine (if_neg ?_).trans ((if_neg ?_).trans ((if_neg ?_).trans rfl))
    · simp [Nat.not_lt.mpr hJsid]
    · simp [Option.isSome_iff_ne_none.mp hBound]
    · rintro (hL | hAny)
      · exact Bool.false_ne_true (hLeaf.symm.trans hL)
      · obtain ⟨p, hp, hBad⟩ := List.any_eq_true.mp hAny
        have hp4 : p < 4 := (by decide : ∀ q ∈ [0, 1, 2, 3], q < 4) p hp
        obtain ⟨hBusy, hJs⟩ := Bool.and_eq_true_iff.mp hBad
        exact (hParts p hp4).elim (of_decided hBusy) (fun hNe => hNe (of_decided hJs))
  case retire =>
    refine (if_neg ?_).trans ((if_neg ?_).trans rfl)
    · simp [Nat.pos_iff_ne_zero.mp hPos, Nat.not_lt.mpr hLe]
    · simp [hLoaded, hRet]
  case rotate =>
    have hKix : ¬ kix = 0#8 := by rintro rfl; simp at hPos
    simp only [binding_takeAccepted, blocker_takeAccepted, hBind, hFree]
    refine (if_neg ?_).trans ((if_neg ?_).trans rfl)
    · simp [hKix, Nat.not_lt.mpr hJsid, Nat.not_lt.mpr hLe]
    · simp [hRot, hLoaded, hBound]
end Sys2Proof.Machine

namespace Sys2Proof.Machine

/-! ### Lane commands (Table 16.9) -/

/-- A command whose link nothing holds goes on. -/
theorem next_linkWait {k : Nat} {go : State → State} {s t : State} (hFree : s.linkHeld k = false)
    (h : (.next (go s) : Res) = .next t) : (.next (linkWait k go s) : Res) = .next t :=
  (congrArg Host.Outcome.next (linkWait_free hFree)).trans h

/-- A change of a link that nothing holds goes on. -/
theorem next_changeWait {k : Nat} {go : State → State} {s t : State} (hFree : s.linkHeld k = false)
    (h : (.next (go s) : Res) = .next t) : (.next (changeWait k go s) : Res) = .next t :=
  (congrArg Host.Outcome.next (changeWait_free hFree)).trans h

/-- An upstream link that is not the clock source, or an end in DOWN, hunts again. -/
theorem retrainControl_own {c : CmdCtx} {k : Nat} {s : State} (hUp : k ≠ s.upLink) (hFor : s.blocker 4 (17 + k) = none)
    (hOwn : k = 0 ∨ k = 7 ∨ (s.lane (136 + k)).st = .down) :
    retrainControl c k s =
      let s1 := dropSync k (s.setLane (136 + k) { s.lane (136 + k) with attempts := 0 })
      startAct 4 (17 + k) (some c) (holdDeferred c 0x0803 (s1.setLink k { s1.link k with retrain := some c, ownRetrain := true })) := by
  unfold retrainControl
  simp [hUp, hFor, hOwn]

/-- A child that is there is sent the command that names its end of the link. -/
theorem retrainControl_child {c : CmdCtx} {k : Nat} {s : State} {a : U16} (hUp : k ≠ s.upLink) (hFor : s.blocker 4 (17 + k) = none)
    (h0 : k ≠ 0) (h7 : k ≠ 7) (hDown : (s.lane (136 + k)).st ≠ .down) (hChild : (s.link k).child = some a) :
    retrainControl c k s =
      sendOwnPacket k (commandBytes 0x0803 c.tag.toNat a.toNat 0 (leBytes 1 (peerEnd (s.link k)) ++ zeros 3))
        (startAct 4 (17 + k) (some c) (holdDeferred c 0x0803 (s.setLink k { s.link k with retrain := some c, ownRetrain := false }))) := by
  unfold retrainControl
  simp [hUp, hFor, h0, h7, hDown, hChild]

/-- Settles O8. -/
theorem laneCommandsComplete : Obligations.LaneCommandsComplete := by
  unfold Obligations.LaneCommandsComplete
  refine fun c lid s hLid hFree => ⟨
    fun h => next_immediate h ?status,
    fun op h hOp hTake hUp => next_linkWait hFree (next_immediate h ?eq),
    fun h hBlock hBusy hFor => next_changeWait hFree (next_deferred h ?retrain),
    fun k h hK hUp hFor => ⟨fun hOwn => next_changeWait hFree (next_deferred h ?own),
      fun a h0 h7 hDown hChild => next_changeWait hFree (next_deferred h ?child)⟩,
    fun link width h hLink hHeld hPos hWidth hIdle hPmask hBusy hFor => next_changeWait hHeld (next_deferred h ?width),
    fun gen chk h hGen hChk hSome => ⟨fun hReady hFor => next_linkWait hFree (next_immediate h ?patternReady),
      fun hPat => next_linkWait hFree (next_immediate h ?patternOn)⟩,
    fun h hPat => next_linkWait hFree (next_immediate h ?patternEnd),
    fun len pos at_ step h hPos hLen hIn hAt hTx => next_linkWait hFree (next_immediate h ?inject),
    fun set h hBlock hSet hSt => next_linkWait hFree (next_immediate h ?sleep)⟩
  case status => exact if_neg (by simp [Nat.not_le.mpr hLid])
  case eq =>
    refine (if_neg ?_).trans ((if_neg hUp).trans rfl)
    simp [Nat.not_le.mpr hLid, Nat.not_lt.mpr hOp]
    exact fun hNe => hTake.resolve_left hNe
  case retrain =>
    refine (if_neg ?_).trans ((if_neg ?_).trans ((if_neg ?_).trans ?_))
    · simp [Nat.not_le.mpr hLid]
    · exact Nat.not_le.mpr hBlock
    · simp [hBusy]
    · simp [hFor]
  case own =>
    have hLink : lid.toNat - 136 = k := by omega
    refine (if_neg ?_).trans ((if_pos (by omega)).trans ?_)
    · simp [Nat.not_le.mpr hLid]
    · rw [hLink]
      exact retrainControl_own hUp hFor hOwn
  case child =>
    have hLink : lid.toNat - 136 = k := by omega
    refine (if_neg ?_).trans ((if_pos (by omega)).trans ?_)
    · simp [Nat.not_le.mpr hLid]
    · rw [hLink]
      exact retrainControl_child hUp hFor h0 h7 hDown hChild
  case width =>
    have hWidth0 : ¬ width = 0#8 := by rintro rfl; simp at hPos
    refine (if_neg ?_).trans ((if_neg ?_).trans ((if_neg ?_).trans ?_))
    · simp [hWidth0, Nat.not_lt.mpr hLink, Nat.not_lt.mpr hWidth]
    · rintro (hAny | ⟨hLow, hAny⟩)
      · obtain ⟨n, hn, hActive⟩ := List.any_eq_true.mp hAny
        exact hIdle n hn (of_decided hActive)
      · obtain ⟨p, hp, hUses⟩ := List.any_eq_true.mp hAny
        obtain ⟨hRuns, hBit⟩ := Bool.and_eq_true_iff.mp hUses
        have hp4 : p < 4 := (by decide : ∀ q ∈ [0, 1, 2, 3], q < 4) p hp
        exact Bool.false_ne_true ((hPmask hLow p hp4 (of_decided hRuns)).symm.trans hBit)
    · simp [hBusy]
    · simp [hFor]
  case patternReady =>
    refine (if_neg ?_).trans ((if_neg ?_).trans ((if_neg ?_).trans ((if_neg ?_).trans ((if_neg hSome).trans ?_))))
    · simp [Nat.not_le.mpr hLid, Nat.not_lt.mpr hGen, Nat.not_lt.mpr hChk]
    · simp [hReady]
    · simp [hReady]
    · simp [hReady]
    · simp [hFor]
  case patternOn =>
    refine (if_neg ?_).trans ((if_neg ?_).trans ((if_pos ?_).trans ((if_neg hSome).trans ?_)))
    · simp [Nat.not_le.mpr hLid, Nat.not_lt.mpr hGen, Nat.not_lt.mpr hChk]
    · simp [hPat]
    · simp [hPat]
    · rfl
  case patternEnd =>
    refine (if_neg ?_).trans ((if_neg ?_).trans ((if_pos ?_).trans ((if_pos ⟨rfl, rfl⟩).trans ?_)))
    · simp [Nat.not_le.mpr hLid]
    · simp [hPat]
    · simp [hPat]
    · rfl
  case inject =>
    have hLen0 : ¬ len = 0#8 := by rintro rfl; simp at hPos
    have hAtLe : ¬ 1 < at_.toNat := by obtain rfl | ⟨rfl, -⟩ := hAt <;> simp
    have hFuture : ¬ (at_ = 1 ∧ step.toNat < s.cnt) := by
      rintro ⟨rfl, hPast⟩
      obtain h0 | ⟨-, hLe⟩ := hAt
      · exact absurd h0 (by decide)
      · exact absurd hPast (Nat.not_lt.mpr hLe)
    refine (if_neg ?_).trans ((if_neg ?_).trans rfl)
    · rintro (hBad | hBad | hBad | hBad | hBad | hBad | hBad)
      · exact hBad rfl
      · exact absurd hBad (Nat.not_le.mpr hLid)
      · exact hLen0 hBad
      · exact absurd hBad (Nat.not_lt.mpr hLen)
      · exact absurd hBad (Nat.not_le.mpr hIn)
      · exact hAtLe hBad
      · exact hFuture hBad
    · simp [hTx]
  case sleep =>
    refine (if_neg ?_).trans ((if_neg ?_).trans ((if_neg ?_).trans rfl))
    · simp [Nat.not_le.mpr hBlock, Nat.not_lt.mpr hSet]
    · obtain hSt | hSt | hSt | hSt := hSt <;> simp [hSt]
    · obtain hSt | hSt | hSt | hSt := hSt <;> simp [hSt]
end Sys2Proof.Machine

namespace Sys2Proof.Machine

/-! ### Pendant commands (Table 16.10) -/

/-- A command goes on while no pairing holds the pair state. -/
theorem next_pairWait {go : State → State} {s t : State} (hFree : s.pend.pair = none)
    (h : (.next (go s) : Res) = .next t) : (.next (pairWait go s) : Res) = .next t :=
  (congrArg Host.Outcome.next (pairWait_free hFree)).trans h

/-- Messages change nothing but the units that wait to be sent. -/
theorem sendMessage_queues (type : Nat) (words : List Nat) (s : State) :
    ∃ q, sendMessage type words s = { s with pend := { s.pend with sendq := q } } := by
  unfold sendMessage
  generalize (type * 2 ^ 56 + words.length * 2 ^ 48) :: words = ws
  induction ws generalizing s with
  | nil => exact ⟨s.pend.sendq, rfl⟩
  | cons w ws ih =>
    obtain ⟨q, hq⟩ := ih (sendPendant 5 (BitVec.ofNat 64 w) s)
    exact ⟨q, hq⟩

/-- The peer's PAIR has not come: nothing happens. -/
theorem tryPair_unheard {s : State} (hPeer : s.pend.peerMode = none) : tryPair s = s := by
  unfold tryPair
  rw [hPeer]
  split
  case h_1 hSome => exact absurd hSome (Option.some_ne_none _).symm
  case h_2 => rfl

/-- Both commands are known and agree: the link is brought up. -/
theorem tryPair_agreed {s : State} {c : CmdCtx} {ovr : Bool} {now m : Nat} (hPair : s.pend.pair = some (c, ovr, now, 1))
    (hPeer : s.pend.peerMode = some m) (hMode : m = s.pend.mode) (hTwin : m = 0 ∨ s.pend.paddr = s.arm.addr ^^^ 1) :
    tryPair s = raiseLink s := by
  unfold tryPair
  rw [hPair, hPeer]
  refine (if_neg (not_not_intro hMode)).trans (if_neg ?_)
  rintro ⟨h0, hNe⟩
  exact hTwin.elim h0 hNe

/-- PAIR has gone out and the peer's has not come: nothing more happens. -/
theorem tryPair_sendMessage_unheard {type : Nat} {words : List Nat} {s : State} (hPeer : s.pend.peerMode = none) :
    tryPair (sendMessage type words s) = sendMessage type words s := by
  obtain ⟨q, hq⟩ := sendMessage_queues type words s
  rw [hq]
  exact tryPair_unheard hPeer

/-- PAIR has gone out and the peer's agrees with it: the link is brought up. -/
theorem tryPair_sendMessage_agreed {type : Nat} {words : List Nat} {s : State} {c : CmdCtx} {ovr : Bool} {now m : Nat}
    (hPair : s.pend.pair = some (c, ovr, now, 1)) (hPeer : s.pend.peerMode = some m) (hMode : m = s.pend.mode)
    (hTwin : m = 0 ∨ s.pend.paddr = s.arm.addr ^^^ 1) :
    tryPair (sendMessage type words s) = raiseLink (sendMessage type words s) := by
  obtain ⟨q, hq⟩ := sendMessage_queues type words s
  rw [hq]
  exact tryPair_agreed hPair hPeer hMode hTwin

/-- Settles O9. -/
theorem pendantCommandsComplete : Obligations.PendantCommandsComplete := by
  unfold Obligations.PendantCommandsComplete
  refine fun c s hPair => ⟨
    fun mode flags h hHeld hMode hFlags hSt hWire => ⟨
      fun hPeer => next_linkWait hHeld (next_deferred h ?pairUnheard),
      fun hPeer hTwin => next_linkWait hHeld (next_deferred h ?pairAgreed)⟩,
    fun pref h hPref hPaired => next_pairWait hPair (next_immediate h ?prefer),
    fun h hSt hSide hTake => ⟨fun hNone => next_pairWait hPair (next_immediate h ?takeoverNow),
      fun p r hSome => next_pairWait hPair (next_immediate h ?takeover)⟩,
    fun part h hPart hFor hSt hRole hChanging hFrame hCond => next_pairWait hPair (next_immediate h ?resync),
    fun h hMay hDiss => next_pairWait hPair (next_immediate h ?dissolve),
    fun h => next_immediate h rfl⟩
  case pairUnheard =>
    refine (if_neg ?_).trans ((if_neg ?_).trans ((if_neg ?_).trans ?_))
    · simp [Nat.not_lt.mpr hMode, Nat.not_lt.mpr hFlags]
    · simp [hSt]
    · exact fun ⟨h0, hNe⟩ => hWire.elim h0 hNe
    · exact tryPair_sendMessage_unheard hPeer
  case pairAgreed =>
    refine (if_neg ?_).trans ((if_neg ?_).trans ((if_neg ?_).trans ?_))
    · simp [Nat.not_lt.mpr hMode, Nat.not_lt.mpr hFlags]
    · simp [hSt]
    · exact fun ⟨h0, hNe⟩ => hWire.elim h0 hNe
    · exact tryPair_sendMessage_agreed rfl hPeer rfl (hTwin.imp_left fun h0 => by rw [h0]; rfl)
  case prefer =>
    refine (if_neg ?_).trans ((if_neg ?_).trans rfl)
    · simp [Nat.not_lt.mpr hPref]
    · simp [hPaired]
  case takeoverNow =>
    have hStopped : (takeAccepted c s).runningParts.filter (fun p => decide (((takeAccepted c s).part p).phase = .stopped)) = [] :=
      List.filter_eq_nil_iff.mpr fun p hp hStop => hNone p hp (of_decided hStop)
    refine (if_neg ?_).trans ?_
    · simp [hSt, hSide, hTake]
    · dsimp only
      rw [hStopped]
  case takeover =>
    have hStopped : (takeAccepted c s).runningParts.filter (fun p => decide (((takeAccepted c s).part p).phase = .stopped)) = p :: r := hSome
    refine (if_neg ?_).trans ?_
    · simp [hSt, hSide, hTake]
    · dsimp only
      rw [hStopped]
  case resync =>
    refine (if_neg ?_).trans ?_
    · simp [Nat.not_le.mpr hPart]
    simp only [blocker_takeAccepted, hFor]
    refine (if_neg ?_).trans ((if_neg ?_).trans ((if_neg ?_).trans ?_))
    · simp [hSt, hRole]
    · simp [hChanging]
    · rintro ⟨hNot, hE⟩
      exact hFrame.elim hNot hE
    · simp [hCond]
  case dissolve =>
    refine (if_neg ?_).trans ?_
    · simp [show (takeAccepted c s).mayDissolve = true from hMay]
    · simp only [takeAccepted_pend]

/-! ### Changes of the pair (Table 16.10) -/

/-- A change that the pair may take, while no other is in progress. -/
theorem pairChange_legal {c : CmdCtx} {op : Nat} {ok : Bool} {body : State → State} {s : State} (hOk : ok = true)
    (hSt : s.pend.st = .lockstep ∨ s.pend.st = .standby) (hFree : s.pairChanging op = false) : pairChange c op ok body s = body s := by
  unfold pairChange
  refine (if_neg ?_).trans ((if_neg ?_).trans (if_neg ?_))
  · simp [hOk]
  · rintro ⟨hL, hS⟩
    exact hSt.elim hL hS
  · simp [hFree]

/-- An instruction of a change that one side takes at a boundary: in LOCKSTEP each of the three, in STANDBY the standby's retirement. -/
def isSideChange (c : CmdCtx) (i : Instr) (op side : Nat) (part : Byte) (s : State) : Prop :=
  (i = .pendantMode c 2 (BitVec.ofNat 8 side) part 0 ∧ op = 0x0902 ∧ s.pend.st = .lockstep) ∨
    (i = .pendantRetire c (BitVec.ofNat 8 side) part 0 ∧ op = 0x0903 ∧ (s.pend.st = .lockstep ∨ ¬ (s.pend.role = 1 ↔ side = s.side))) ∨
    (i = .pendantHandover c part 0 ∧ op = 0x0907 ∧ side = s.side ∧ s.pend.st = .lockstep)

/-- An instruction of a change in STANDBY that is a join. -/
def isJoinChange (c : CmdCtx) (i : Instr) (op side : Nat) (part : Byte) (s : State) : Prop :=
  (i = .pendantMode c 1 0xFF part 0 ∧ op = 0x0902 ∧ side = 0) ∨
    (i = .pendantRetire c (BitVec.ofNat 8 side) part 0 ∧ op = 0x0903 ∧ (s.pend.role = 1 ↔ side = s.side)) ∨
    (i = .pendantHandover c part 0 ∧ op = 0x0907 ∧ side = (if s.pend.role = 1 then s.side else 1 - s.side))

theorem toNat_side {side : Nat} (h : side < 2) : (BitVec.ofNat 8 side).toNat = side := by
  rw [BitVec.toNat_ofNat]
  omega

section
variable {c : CmdCtx} {i : Instr} {op side : Nat} {part : Byte} {s : State}

/-- The side that PENDANT.RETIRE names carries when it is this one exactly where this one carries. -/
theorem carrier_iff : (if s.pend.role = 1 then decide (side = s.side) else !decide (side = s.side)) = true ↔ (s.pend.role = 1 ↔ side = s.side) := by
  split
  case isTrue hRole => simp [hRole]
  case isFalse hRole => simp [hRole]

/-- A change of one side is taken by `takeChange`. -/
theorem exec_sideChange (h : s.serves .p op c = true) (hPair : s.pend.pair = none) (hFree : s.pairChanging op = false)
    (hPart : part.toNat < 4) (hSide : side < 2) (hSt : s.pend.st = .lockstep ∨ s.pend.st = .standby)
    (hi : isSideChange c i op side part s) : exec i s = .next (takeChange c op side part.toNat (takeAccepted c s)) := by
  have hSt' : (takeAccepted c s).pend.st = .lockstep ∨ (takeAccepted c s).pend.st = .standby := hSt
  have hFree' : (takeAccepted c s).pairChanging op = false := hFree
  obtain ⟨rfl, rfl, hL⟩ | ⟨rfl, rfl, hRole⟩ | ⟨rfl, rfl, rfl, hL⟩ := hi
  case inl =>
    refine next_pairWait hPair (next_immediate h ?_)
    dsimp only
    rw [pairChange_legal (by simp [hPart, toNat_side hSide, hSide]) hSt' hFree', toNat_side hSide]
    exact if_pos ⟨rfl, hL⟩
  case inr.inl =>
    refine next_pairWait hPair (next_immediate h ?_)
    dsimp only
    rw [pairChange_legal (by simp [hPart, toNat_side hSide, hSide]) hSt' hFree', toNat_side hSide]
    refine if_neg ?_
    rintro ⟨hS, hCarrier⟩
    obtain hL | hRole := hRole
    · exact PairSt.noConfusion (hL.symm.trans hS)
    · exact hRole (carrier_iff.mp hCarrier)
  case inr.inr =>
    refine next_pairWait hPair (next_immediate h ?_)
    rw [pairChange_legal (by simp [hPart]) hSt' hFree']
    exact if_pos hL

/-- A join is taken by `takeJoin`. -/
theorem exec_joinChange (h : s.serves .p op c = true) (hPair : s.pend.pair = none) (hFree : s.pairChanging op = false)
    (hPart : part.toNat < 4) (hSide : side < 2) (hSt : s.pend.st = .standby) (hi : isJoinChange c i op side part s) :
    exec i s = .next (takeJoin c op (if op = 0x0902 then 2 else side) part.toNat (takeAccepted c s)) := by
  have hSt' : (takeAccepted c s).pend.st = .lockstep ∨ (takeAccepted c s).pend.st = .standby := .inr hSt
  have hFree' : (takeAccepted c s).pairChanging op = false := hFree
  obtain ⟨rfl, rfl, rfl⟩ | ⟨rfl, rfl, hRole⟩ | ⟨rfl, rfl, rfl⟩ := hi
  case inl =>
    refine next_pairWait hPair (next_immediate h ?_)
    dsimp only
    rw [pairChange_legal (by simp [hPart]) hSt' hFree']
    exact (if_neg (by simp)).trans (if_pos ⟨rfl, hSt⟩)
  case inr.inl =>
    refine next_pairWait hPair (next_immediate h ?_)
    dsimp only
    rw [pairChange_legal (by simp [hPart, toNat_side hSide, hSide]) hSt' hFree', toNat_side hSide]
    exact if_pos ⟨hSt, carrier_iff.mpr hRole⟩
  case inr.inr =>
    refine next_pairWait hPair (next_immediate h ?_)
    rw [pairChange_legal (by simp [hPart]) hSt' hFree']
    exact if_neg (by simp [hSt])

/-- A change that the peer has told of keeps its frame. -/
theorem takeChange_told {d : ModeChange} {ref : Nat} (hRuns : (s.part ref).executes = true ∨ c.eframe = 0)
    (hTold : (s.part ref).changes.find? (fun d => decide (d.opcode = op) && decide (d.arg = side)) = some d) :
    takeChange c op side ref s = reply c op St.accepted (frameData d.m) { s with pend := { s.pend with change := some (op, some c, side) } } := by
  unfold takeChange
  refine (if_neg ?_).trans ?_
  · rintro ⟨hNot, hE⟩
    exact hRuns.elim (fun hRuns => by simp [hRuns] at hNot) hE
  · simp only [hTold]

/-- A change of a partition that executes is registered for its frame. -/
theorem takeChange_framed {ref : Nat} (hNew : (s.part ref).changes.find? (fun d => decide (d.opcode = op) && decide (d.arg = side)) = none)
    (hRuns : (s.part ref).executes = true) :
    takeChange c op side ref s =
      let s0 : State := { s with pend := { s.pend with change := some (op, some c, side) } }
      let m := changeFrame (s.part ref) s.cnt 0 c.eframe
      registerChange op side ref m false (tellChange op side ref (some m) (reply c op St.accepted (frameData m) s0)) := by
  unfold takeChange
  simp [hNew, hRuns]

/-- A change of a partition that executes nothing takes effect at once. -/
theorem takeChange_now {ref : Nat} (hNew : (s.part ref).changes.find? (fun d => decide (d.opcode = op) && decide (d.arg = side)) = none)
    (hRuns : (s.part ref).executes = false) (hE : c.eframe = 0) :
    takeChange c op side ref s =
      let s0 : State := { s with pend := { s.pend with change := some (op, some c, side) } }
      changeNow op side ref (tellChange op side ref none (reply c op St.accepted (frameData 0) s0)) := by
  unfold takeChange
  simp [hNew, hRuns, hE]

/-- A join is begun by the carrier, and waits at the standby. -/
theorem takeJoin_taken {ref : Nat} (hRuns : (s.part ref).executes = true ∨ c.eframe = 0) (hFor : s.pend.role = 1 → s.blocker 7 0 = none)
    (hCond : s.pend.role = 1 → op = 0x0907 → resyncCond false s = none) :
    takeJoin c op side ref s =
      let m := if (s.part ref).executes then pauseBoundary (s.isSingle ref) (s.part ref) s.cnt c.eframe else 0
      let s1 := reply c op St.accepted (frameData m) { s with pend := { s.pend with change := some (op, some c, side) } }
      if s.pend.role = 1 then beginJoin ref m s1 else s1 := by
  have hBlock : (if s.pend.role = 1 then s.blocker 7 0 else none) = none := by
    split
    case isTrue hRole => exact hFor hRole
    case isFalse => rfl
  have hJoin : joinCond op s = none := by
    unfold joinCond
    split
    case isTrue hBoth => exact hCond hBoth.2 hBoth.1
    case isFalse => rfl
  unfold takeJoin
  refine (if_neg ?_).trans ?_
  · rintro ⟨hNot, hE⟩
    exact hRuns.elim (fun hRuns => by simp [hRuns] at hNot) hE
  · simp only [hBlock, hJoin]

end

/-- Settles O10. -/
theorem pairChangesComplete : Obligations.PairChangesComplete := by
  unfold Obligations.PairChangesComplete
  intro c i op side part s h hPair hFree hPart hSide hSt
  constructor
  case left =>
    intro hi
    have hTake := exec_sideChange h hPair hFree hPart hSide hSt hi
    refine ⟨fun d ⟨hRuns, hTold⟩ => hTake.trans ?told, fun hNew hRuns => hTake.trans ?framed, fun hNew hRuns hE => hTake.trans ?now⟩
    case told => exact congrArg Host.Outcome.next (takeChange_told hRuns hTold)
    case framed => exact congrArg Host.Outcome.next (takeChange_framed hNew hRuns)
    case now => exact congrArg Host.Outcome.next (takeChange_now hNew hRuns hE)
  case right =>
    intro hi hStandby hRuns
    have hTake := exec_joinChange h hPair hFree hPart hSide hStandby hi
    refine ⟨fun hRole hFor hCond => hTake.trans ?carrier, fun hRole => hTake.trans ?standby⟩
    case carrier =>
      exact congrArg Host.Outcome.next ((takeJoin_taken (s := takeAccepted c s) hRuns (fun _ => hFor) (fun _ => hCond)).trans (if_pos hRole))
    case standby =>
      exact congrArg Host.Outcome.next ((takeJoin_taken (s := takeAccepted c s) hRuns (fun hR => absurd hR hRole)
        (fun hR => absurd hR hRole)).trans (if_neg hRole))

end Sys2Proof.Machine

namespace Sys2Proof.Machine

/-! ### Maintenance and time (Tables 16.11 and 16.12) -/

/-- A TIME.UPSTREAM goes on while none is in execution. -/
theorem next_noUpstream {s t u : State} (hFree : s.arm.upCtx = none) (h : (.next u : Res) = .next t) :
    (.next (if s.arm.upCtx.isSome then s else u) : Res) = .next t := by
  rw [← h, hFree]
  rfl

/-- Settles O11. -/
theorem maintTimeCommandsComplete : Obligations.MaintTimeCommandsComplete := by
  unfold Obligations.MaintTimeCommandsComplete
  refine fun c s => ⟨
    fun h hFor => next_immediate h ?scrub,
    fun h hFor => next_immediate h ?recal,
    fun mask h hMem hPos hMask hFor => next_immediate h ?patrol,
    fun act h hAct hMine => next_immediate h ?stop,
    fun h => next_immediate h rfl,
    fun h => next_immediate h rfl,
    fun offset rate h => next_immediate h rfl,
    fun h => next_immediate h ?compatRead,
    fun tb0 tb1 tb2 tb3 h hClass => next_immediate h ?compatWrite,
    fun link h hUp hLink => ⟨fun hSame => next_noUpstream hUp (next_deferred h ?same),
      fun hNe hReady => next_noUpstream hUp (next_deferred h ?other)⟩⟩
  case scrub => simp [maintObjects, hFor]
  case recal => simp [maintObjects, hFor, startRecal]
  case patrol =>
    have hMask0 : ¬ mask = 0#64 := by rintro rfl; simp at hPos
    have hFind : (onesOf mask.toNat 8).findSome? (fun o => s.blocker 2 o) = none := List.findSome?_eq_none_iff.mpr hFor
    refine (if_neg ?_).trans ((if_neg ?_).trans ?_)
    · simp [hMask0, Nat.not_le.mpr hMask]
    · simp [State.memGone, hMem]
    · simp [maintObjects, hFind]
  case stop =>
    refine (if_neg ?_).trans ((if_neg hMine).trans rfl)
    obtain rfl | rfl | rfl := hAct <;> simp
  case compatRead =>
    refine (if_neg ?_).trans ((if_neg ?_).trans rfl)
    · simp
    · simp
  case compatWrite =>
    refine (if_neg ?_).trans ((if_neg ?_).trans rfl)
    · simp [hClass]
    · simp
  case same =>
    refine (if_neg ?_).trans ((if_pos hSame).trans rfl)
    obtain rfl | rfl := hLink <;> simp
  case other =>
    refine (if_neg ?_).trans ((if_neg hNe).trans ((if_neg ?_).trans rfl))
    · obtain rfl | rfl := hLink <;> simp
    · simp [hReady]

/-! ### Trust and firmware (Table 16.13) -/

/-- A write of firmware by the source that owns the update, or while none does, goes on. -/
theorem fwWrite_own {c : CmdCtx} {op : Nat} {body : State → State} {s : State} (h : foreignUpdate c s = none) : fwWrite c op body s = body s := by
  simp only [fwWrite, h]

/-- A command of the firmware goes on while no verification runs. -/
theorem next_noVerify {s t : State} {u : State} (hFree : s.fw.verify = none) (h : (.next u : Res) = .next t) :
    (.next (if s.fw.verify.isSome then s else u) : Res) = .next t := by
  rw [← h, hFree]
  rfl

/-- Settles O12. -/
theorem trustCommandsComplete : Obligations.TrustCommandsComplete := by
  unfold Obligations.TrustCommandsComplete
  refine fun c s => ⟨
    fun nonce mask h hReady hMask => next_immediate h ?quote,
    fun offset h hReady hIn => next_immediate h ?log,
    fun h => next_immediate h rfl,
    fun hOwn => ⟨
      fun offset n bytes h hVer hLen hPos hLe hFit hCode hTrial hOff hSpare hEnd => next_noVerify hVer (next_immediate h ?chunk),
      fun n bytes h hVer hLen hPos hLe hCode hTrial => next_noVerify hVer (next_immediate h ?first),
      fun total h hVer hCode => next_noVerify hVer (next_deferred h ((fwWrite_own (s := takeAccepted c s) hOwn).trans ?verify)),
      fun h hVer hCode => next_noVerify hVer (next_immediate h ((fwWrite_own (s := takeAccepted c s) hOwn).trans ?activate)),
      fun h hNew => next_immediate h ((fwWrite_own (s := takeAccepted c s) hOwn).trans ?confirm)⟩⟩
  case quote =>
    refine (if_neg ?_).trans ((if_neg ?_).trans rfl)
    · simp [show ¬ mask = 0#8 from hMask]
    · simp [show (takeAccepted c s).plinth.ready1 = true from hReady]
  case log =>
    refine (if_neg ?_).trans ((if_neg ?_).trans rfl)
    · simp [show (takeAccepted c s).plinth.ready1 = true from hReady]
    · exact Nat.not_le.mpr hIn
  case chunk =>
    have hN : ¬ n = 0#32 := by rintro rfl; simp at hPos
    refine (if_neg ?_).trans ((if_neg ?_).trans ((fwWrite_own (s := takeAccepted c s) hOwn).trans
      ((if_neg ?_).trans ((if_neg hOff).trans ((if_neg ?_).trans rfl)))))
    · simp [hLen]
    · simp [hN, Nat.not_lt.mpr hLe, Nat.not_lt.mpr hFit]
    · simp [hCode, hTrial]
    · simp [hSpare, hEnd]
  case first =>
    have hN : ¬ n = 0#32 := by rintro rfl; simp at hPos
    refine (if_neg ?_).trans ((if_neg ?_).trans ((fwWrite_own (s := takeAccepted c s) hOwn).trans
      ((if_neg ?_).trans ((if_pos rfl).trans rfl))))
    · simp [hLen]
    · simp [hN, Nat.not_lt.mpr hLe]
      exact Nat.le_trans hLe (by decide)
    · simp [hCode, hTrial]
  case verify => exact (if_neg (not_not_intro hCode)).trans rfl
  case activate => exact (if_neg (not_not_intro hCode)).trans rfl
  case confirm =>
    refine (if_neg ?_).trans rfl
    rintro ⟨hTrial, hSlot⟩
    obtain hT | hS := hNew
    · simp [hT] at hTrial
    · exact hS hSlot

end Sys2Proof.Machine

namespace Sys2Proof.Machine

/-! ### Debug and Cast (Tables 16.14 and 22.3) -/

/-- An access to a store in a halt reaches the units of its place: the reply of a read. -/
theorem accessStore_read {c : CmdCtx} {space a n : Nat} {w : List Byte} {s : State} {pl : DbgPlace} (hHalt : s.clk.halt.isSome = true)
    (hPlace : dbgPlace s space a = some pl) (hWhole : n % pl.size = 0) (hLeft : n / pl.size ≤ pl.left) :
    accessStore c false space a n w s =
      let us := (List.range (n / pl.size)).map pl.read
      reply c 0x0D03 St.ok ((leBytes 1 (fixedOf us) ++ zeros 3) ++ us.flatMap (·.bytes)) (logUnits us s) := by
  unfold accessStore
  rw [if_neg (by simp [Option.isSome_iff_ne_none.mp hHalt]), hPlace]
  exact (if_neg (by simp [hWhole, Nat.not_lt.mpr hLeft])).trans rfl

/-- An access to a store in a halt reaches the units of its place: what a write does. -/
theorem accessStore_write {c : CmdCtx} {space a n : Nat} {w : List Byte} {s : State} {pl : DbgPlace} (hHalt : s.clk.halt.isSome = true)
    (hPlace : dbgPlace s space a = some pl) (hWhole : n % pl.size = 0) (hLeft : n / pl.size ≤ pl.left)
    (hWritable : (List.range (n / pl.size)).all pl.writable = true) :
    accessStore c true space a n w s =
      let us := (List.range (n / pl.size)).map pl.read
      reply c 0x0D03 St.ok (leBytes 1 (fixedOf us) ++ zeros 3) (noteWrite space (n / pl.size) pl
        ((List.range (n / pl.size)).foldl (fun t i => pl.write i (fieldAt w (i * pl.size) pl.size) t) (logUnits us s))) := by
  unfold accessStore
  rw [if_neg (by simp [Option.isSome_iff_ne_none.mp hHalt]), hPlace]
  refine (if_neg (by simp [hWhole, Nat.not_lt.mpr hLeft])).trans ?_
  simp only [hWritable]
  rfl

/-- A read of device physical memory returns what is stored. -/
theorem accessPhys_read {c : CmdCtx} {a n : Nat} {s : State} (hMem : s.dram.ok = true)
    (hThere : ∀ i < n, (s.storedByte (a + i)).isSome = true) :
    accessPhys c false a n s = reply c 0x0D03 St.ok (zeros 4 ++ (List.range n).filterMap fun i => s.storedByte (a + i)) s := by
  have hLen : ((List.range n).filterMap fun i => s.storedByte (a + i)).length = n := by
    rw [List.filterMap_length_eq_length.mpr fun i hi => hThere i (List.mem_range.mp hi), List.length_range]
  unfold accessPhys
  rw [if_neg Bool.false_ne_true, if_neg (by simp [State.memGone, hMem])]
  exact if_neg (not_not_intro hLen)

section
variable {c : CmdCtx} {wr : Bool} {jsid a n : Nat} {w : List Byte} {s : State}

/-- A job-space access that is allowed and faults on no page goes on to its bytes. -/
theorem accessJob_allowed (hJsid : jsid < 16) (hRange : rangeOk a n = true) (hMem : s.dram.ok = true)
    (hDbg : ∀ b, s.binding jsid = some b → b.dbg = true) (hFault : firstFault s jsid a n wr = none) :
    accessJob c wr jsid a n w s =
      if wr then
        match writeJob (s.access jsid 0xF) a w s with
        | (some f, s1) => debugFault c jsid f.addr f.cause f.level wr s1
        | (none, s1) => reply c 0x0D03 St.ok (zeros 4) s1
      else
        match readJob (s.access jsid 0xF) a n s with
        | (_, some f, s1) => debugFault c jsid f.addr f.cause f.level wr s1
        | (b, none, s1) => reply c 0x0D03 St.ok (zeros 4 ++ b) s1 := by
  unfold accessJob
  rw [if_neg (by simp [Nat.not_le.mpr hJsid, hRange]), if_neg (by simp [State.memGone, hMem]), hFault]
  refine if_neg ?_
  cases hBind : s.binding jsid with
  | none => exact Bool.false_ne_true
  | some b => simp [hDbg b hBind]

theorem accessJob_read {b : List Byte} {s1 : State} (hJsid : jsid < 16) (hRange : rangeOk a n = true) (hMem : s.dram.ok = true)
    (hDbg : ∀ b, s.binding jsid = some b → b.dbg = true) (hFault : firstFault s jsid a n false = none)
    (hRead : readJob (s.access jsid 0xF) a n s = (b, none, s1)) :
    accessJob c false jsid a n w s = reply c 0x0D03 St.ok (zeros 4 ++ b) s1 := by
  rw [accessJob_allowed hJsid hRange hMem hDbg hFault, if_neg Bool.false_ne_true, hRead]

theorem accessJob_write {s1 : State} (hJsid : jsid < 16) (hRange : rangeOk a n = true) (hMem : s.dram.ok = true)
    (hDbg : ∀ b, s.binding jsid = some b → b.dbg = true) (hFault : firstFault s jsid a n true = none)
    (hWrite : writeJob (s.access jsid 0xF) a w s = (none, s1)) :
    accessJob c true jsid a n w s = reply c 0x0D03 St.ok (zeros 4) s1 := by
  rw [accessJob_allowed hJsid hRange hMem hDbg hFault, if_pos rfl, hWrite]

end

/-- Bytes that lie in the 48-bit space make a good range. -/
theorem rangeOk_of_le {a n : Nat} (hPos : 0 < n) (h : a + n ≤ 2 ^ 48) : rangeOk a n = true := by
  simp only [rangeOk, Bool.and_eq_true, decide_eq_true_eq]
  omega

/-- A DBG.ACCESS whose fields are good goes on to its space. -/
theorem exec_dbgAccess_served {c : CmdCtx} {op space jsid : Byte} {addr : U64} {n : U32} {w : List Byte} {s t : State}
    (h : s.serves .f 0x0D03 c = true) (hFree : space = 4 → s.pagesFree c jsid.toNat addr.toNat n.toNat = true) (hData : dbgDataOk op n w = true)
    (hOp : op.toNat ≤ 1) (hSpace : space.toNat ≤ 4) (hPos : 0 < n.toNat) (hLen : n.toNat ≤ 4060)
    (hGo : (if space.toNat < 3 then accessStore c (op = 1) space.toNat addr.toNat n.toNat w (takeAccepted c s)
      else if space = 3 then accessPhys c (op = 1) addr.toNat n.toNat (takeAccepted c s)
      else accessJob c (op = 1) jsid.toNat addr.toNat n.toNat w (takeAccepted c s)) = t) :
    exec (.dbgAccess c op space jsid 0 addr n 0 w) s = .next t := by
  have hN : ¬ n = 0#32 := by rintro rfl; simp at hPos
  refine next_pageWait_opt ?free (next_immediate h ?go)
  case free =>
    split
    case isTrue h4 => exact .inr (hFree h4)
    case isFalse => exact .inl rfl
  case go =>
    refine (if_neg ?_).trans ((if_neg ?_).trans hGo)
    · simp [hData]
    · simp [hN, Nat.not_lt.mpr hOp, Nat.not_lt.mpr hSpace, Nat.not_lt.mpr hLen]

/-- Settles O13. -/
theorem debugCommandsComplete : Obligations.DebugCommandsComplete := by
  unfold Obligations.DebugCommandsComplete
  refine fun c s => ⟨
    fun h => ⟨fun hHalt hBar => next_immediate h ?halt, fun k hHalt => next_immediate h ?halted⟩,
    fun h hHalt => next_immediate h ?run,
    fun space jsid addr n pl h hHalt hSpace hPos hLen hPlace hWhole hLeft => ⟨?storeRead, fun w hW hWritable => ?storeWrite⟩,
    fun jsid addr n h hPos hLen => ⟨fun w hW => ?physWrite, fun hMem hThere => ?physRead⟩,
    fun jsid addr n h hMem hPos hLen hJsid hIn hFree hDbg => ⟨fun b s1 hFault hRead => ?jobRead, fun w s1 hW hFault hWrite => ?jobWrite⟩,
    fun part clk step h hName hSt hFor hSwitch => next_immediate h ?atTick,
    fun p => ⟨fun m t b d hPaused => ?paused, fun q l hPaused hPauses => ?pausing, fun hPaused hPauses hRoot => ?root,
      fun hPaused hPauses hRoot => ?member⟩,
    fun part clk step h hName hSt hFor hSwitch hClk hE hStep => next_immediate h ?atEdge,
    fun part jaddr len r e h hName hShadow hFin hLen hRange hMem hFree hFor hEng => next_pageWait hFree
      (next_onPart h hName ?saveArgs ?saveLegal ?save),
    fun offset n b h hPos hLen hPart hOwn hAny hRead => next_immediate h ?read,
    fun part jaddr len e h hName hSt hRestore hLen hRange hMem hFree hFor hEng => next_pageWait hFree
      (next_onPart h hName ?restoreArgs ?restoreLegal ?restore)⟩
  case halt => simp [hHalt, show haltBarred (takeAccepted c s) = false from hBar]
  case halted => simp [hHalt]
  case run => exact (if_neg (by simp [Option.isSome_iff_ne_none.mp hHalt])).trans rfl
  case storeRead =>
    refine exec_dbgAccess_served h (fun h4 => ?_) rfl (by decide) (by omega) hPos hLen ((if_pos hSpace).trans ?_)
    · simp [h4] at hSpace
    · exact accessStore_read (s := takeAccepted c s) hHalt hPlace hWhole hLeft
  case storeWrite =>
    refine exec_dbgAccess_served h (fun h4 => ?_) (decide_eq_true hW) (by decide) (by omega) hPos hLen ((if_pos hSpace).trans ?_)
    · simp [h4] at hSpace
    · exact accessStore_write (s := takeAccepted c s) hHalt hPlace hWhole hLeft hWritable
  case physWrite =>
    exact exec_dbgAccess_served h (fun h4 => absurd h4 (by decide)) (decide_eq_true hW) (by decide) (by decide) hPos hLen rfl
  case physRead =>
    exact exec_dbgAccess_served h (fun h4 => absurd h4 (by decide)) rfl (by decide) (by decide) hPos hLen
      (accessPhys_read (s := takeAccepted c s) hMem hThere)
  case jobRead =>
    exact exec_dbgAccess_served h (fun _ => hFree) rfl (by decide) (by decide) hPos hLen
      (accessJob_read (w := []) (s := takeAccepted c s) hJsid (rangeOk_of_le hPos hIn) hMem hDbg hFault hRead)
  case jobWrite =>
    exact exec_dbgAccess_served h (fun _ => hFree) (decide_eq_true hW) (by decide) (by decide) hPos hLen
      (accessJob_write (s := takeAccepted c s) hJsid (rangeOk_of_le hPos hIn) hMem hDbg hFault hWrite)
  case atTick =>
    refine (if_neg (by simp)).trans ((onPart_legal (s := takeAccepted c s) ?_ hName ?_).trans ?_)
    · simp
    · simp [hSt]
    · simp [hFor, hSwitch]
  case paused => simp [takeAtTick, hPaused]
  case pausing => simp [takeAtTick, hPaused, hPauses]
  case root => simp [takeAtTick, hPaused, hPauses, hRoot]
  case member => simp [takeAtTick, hPaused, hPauses, hRoot]
  case atEdge =>
    refine (if_neg ?_).trans ((onPart_legal (s := takeAccepted c s) ?_ hName ?_).trans ?_)
    · simp [hE]
    · simp [hClk]
    · simp [hSt]
    · simp [hFor, hSwitch, Nat.not_lt.mpr hStep]
  case saveArgs => simp [hRange]
  case saveLegal => simp [hShadow, hFin]
  case save =>
    simp [hShadow, Nat.not_lt.mpr hLen, State.memGone, hMem, hFor, hEng]
  case read =>
    have hN : ¬ n = 0#32 := by rintro rfl; simp at hPos
    refine (if_neg ?_).trans ((if_neg ?_).trans ((if_neg ?_).trans ?_))
    · simpa [hN, Nat.not_lt.mpr hLen] using hPart
    · exact fun hForeign => Bool.false_ne_true (hOwn.symm.trans hForeign)
    · simp [show (takeAccepted c s).anyShadow = true from hAny]
    · rw [show (takeAccepted c s).shadowRead offset.toNat n.toNat = .data b from hRead]
  case restoreArgs => simp [hRange]
  case restoreLegal => simp [hSt, hRestore]
  case restore => simp [Nat.not_lt.mpr hLen, State.memGone, hMem, hFor, hEng]

end Sys2Proof.Machine

namespace Sys2Proof.Machine

/-! ### Statistics, logs and the control tree (Tables 16.15 and 16.16) -/

theorem byte_ne_zero {n : Byte} (hPos : 0 < n.toNat) : ¬ n = 0#8 := by
  rintro rfl
  exact absurd hPos (by decide)

/-- Settles O14. -/
theorem logCommandsComplete : Obligations.LogCommandsComplete := by
  unfold Obligations.LogCommandsComplete
  refine fun c s => ⟨
    fun first n flags h hPos hLen hIn hFlags => next_immediate h ?noc,
    fun sub unit l h hSub hDir => next_immediate h ?stats,
    fun from_ n h hPos hLen => next_immediate h ?log,
    fun from_ n h hPos hLen => next_immediate h ?security⟩
  case noc =>
    have hArgs : ∀ f : Byte, f = 0 ∨ f = 1 ∨ f = 3 → ¬ 3 < f.toNat ∧ ¬ (natBit f.toNat 1 ∧ !natBit f.toNat 0) := by
      rintro f (rfl | rfl | rfl) <;> decide
    obtain ⟨hLe, hBits⟩ := hArgs flags hFlags
    refine (if_neg ?_).trans ?_
    · rintro (hBad | hBad | hBad | hBad | hBad | hBad)
      · exact hBad rfl
      · exact hLe hBad
      · exact hBits hBad
      · exact byte_ne_zero hPos hBad
      · exact absurd hBad (Nat.not_lt.mpr hLen)
      · exact absurd hBad (Nat.not_lt.mpr hIn)
    · obtain rfl | rfl | rfl := hFlags <;> rfl
  case stats =>
    refine (if_neg ?_).trans ?_
    · simp [Nat.not_le.mpr hSub]
    · rw [show directory (takeAccepted c s) sub.toNat unit.toNat = some l from hDir]
  case log => exact (if_neg (by simp [byte_ne_zero hPos, Nat.not_lt.mpr hLen])).trans rfl
  case security => exact (if_neg (by simp [byte_ne_zero hPos, Nat.not_lt.mpr hLen])).trans rfl

/-- Settles O15. -/
theorem armatureCommandsComplete : Obligations.ArmatureCommandsComplete := by
  unfold Obligations.ArmatureCommandsComplete
  refine fun c s => ⟨
    fun h => next_immediate h rfl,
    fun addr level t1 t2 t3 t4 h hLevel hAddr => next_immediate h ?assign,
    fun part flags root scope h hName hFlags hSt => next_onPart h hName ?scopeArgs ?scopeLegal rfl,
    fun part h hPart hFrame => ?query,
    fun h => next_immediate h rfl,
    fun flags h hFlags => next_immediate h ?override⟩
  case assign =>
    refine (if_neg ?_).trans ((if_neg ?_).trans rfl)
    · simp [hLevel]
    · rintro ⟨hAssigned, hNe⟩
      obtain hFree | hSame := hAddr
      · exact Bool.false_ne_true (hFree.symm.trans hAssigned)
      · exact hNe hSame
  case scopeArgs => simp [hFlags]
  case scopeLegal => simpa using hSt
  case query =>
    refine next_deferred h ((if_neg ?_).trans ((if_neg ?_).trans rfl))
    · simp [Nat.not_le.mpr hPart]
    · rintro ⟨hE, hNot⟩
      exact hFrame.elim hE hNot
  case override => exact (if_neg (by simp [Nat.not_lt.mpr hFlags])).trans rfl

end Sys2Proof.Machine

namespace Sys2Proof.Machine

/-! ### Registers of a function page (Tables 23.3 and 23.4) -/

/-- A register access that reaches its function completes with its effect. -/
theorem next_hostAccess {n : Nat} {body : State → State} {s t : State} (h : s.reaches n = true) (hb : body (touchDomain .base s) = t) :
    (.next (hostAccess n body s) : Res) = .next t :=
  congrArg Host.Outcome.next ((hostAccess_reaches h).trans hb)

section
variable {n : Nat} {value : U32} {s : State}

/-! What a write of a ring's index does, by the value written (R329, R472). -/

theorem writeCmdDb_inRange (hEn : (s.fn n).enable = true) (hIn : (value.setWidth 16).toNat < (s.fn n).cmd.size) :
    writeCmdDb n value s =
      s.setFn n { s.fn n with awaitsBell := false, cmd := { (s.fn n).cmd with tail := value.setWidth 16 } } :=
  (if_neg (by simp [hEn])).trans (if_neg (Nat.not_le.mpr hIn))

theorem writeCmdDb_beyond (hEn : (s.fn n).enable = true) (hOut : (s.fn n).cmd.size ≤ (value.setWidth 16).toNat) :
    writeCmdDb n value s = badDoorbell n 0x110 value s :=
  (if_neg (by simp [hEn])).trans (if_pos hOut)

theorem writeCmdDb_disabled (hEn : (s.fn n).enable = false) : writeCmdDb n value s = s := if_pos (by simp [hEn])

theorem writeHead_returned {ev : Bool} (hEn : (s.fn n).enable = true) (hRet : ((s.fn n).ring ev).returns (value.setWidth 16).toNat = true) :
    writeHead n ev value s = s.setFn n ((s.fn n).setRing ev { (s.fn n).ring ev with head := value.setWidth 16 }) :=
  (if_neg (by simp [hEn])).trans (if_pos hRet)

theorem writeHead_beyond {ev : Bool} (hEn : (s.fn n).enable = true) (hRet : ((s.fn n).ring ev).returns (value.setWidth 16).toNat = false) :
    writeHead n ev value s = badDoorbell n (if ev then 0x14C else 0x12C) value s :=
  (if_neg (by simp [hEn])).trans (if_neg fun h => Bool.false_ne_true (hRet.symm.trans h))

theorem writeHead_disabled {ev : Bool} (hEn : (s.fn n).enable = false) : writeHead n ev value s = s := if_pos (by simp [hEn])

end

/-- Settles O16. -/
theorem ringRegistersComplete : Obligations.RingRegistersComplete := by
  unfold Obligations.RingRegistersComplete
  refine fun fn value s => ⟨fun h => ⟨fun hEn => ⟨fun hIn => ?db, fun hOut => ?dbBad, fun hRet => ?rpl, fun hRet => ?rplBad, fun hRet => ?evt,
      fun hRet => ?evtBad, ?qreset⟩, fun hEn => ⟨?dbOff, ?rplOff, ?evtOff, ?qresetOff⟩, fun hGood => ?enable, fun hBad => ?cfgErr, ?disable⟩,
    fun hEn ring => ?ringErr⟩
  case db => exact next_hostAccess h ((writeCmdDb_inRange (by simpa using hEn) (by simpa using hIn)).trans (by rw [touchDomain_fn]))
  case dbBad => exact next_hostAccess h (writeCmdDb_beyond (by simpa using hEn) (by simpa using hOut))
  case rpl => exact next_hostAccess h ((writeHead_returned (ev := false) (by simpa using hEn) (by rw [touchDomain_fn]; exact hRet)).trans (by rw [touchDomain_fn]; rfl))
  case rplBad => exact next_hostAccess h (writeHead_beyond (ev := false) (by simpa using hEn) (by rw [touchDomain_fn]; exact hRet))
  case evt => exact next_hostAccess h ((writeHead_returned (ev := true) (by simpa using hEn) (by rw [touchDomain_fn]; exact hRet)).trans (by rw [touchDomain_fn]; rfl))
  case evtBad => exact next_hostAccess h (writeHead_beyond (ev := true) (by simpa using hEn) (by rw [touchDomain_fn]; exact hRet))
  case qreset => exact next_hostAccess h (if_pos (by simpa using hEn))
  case dbOff => exact next_hostAccess h (writeCmdDb_disabled (by simpa using hEn))
  case rplOff => exact next_hostAccess h (writeHead_disabled (by simpa using hEn))
  case evtOff => exact next_hostAccess h (writeHead_disabled (by simpa using hEn))
  case qresetOff => exact next_hostAccess h (by simp [writeQreset, hEn])
  case enable => exact next_hostAccess h (by simp [writeEnable, hGood])
  case cfgErr => exact next_hostAccess h (by simp [writeEnable, hBad])
  case disable => exact next_hostAccess h (by simp [writeEnable])
  case ringErr => exact congrArg Host.Outcome.next (if_neg (by simp [hEn]))

/-- Settles O17. -/
theorem hostRegistersComplete : Obligations.HostRegistersComplete := by
  unfold Obligations.HostRegistersComplete
  refine fun fn value s h => ⟨?clear, ?mask, fun v hv hArmed hDelay => ?delay, fun v hv => ?unmask, ?frameLo, ?countLo,
    fun h0 => ⟨fun hOne => ?alarm, fun hZero => ?noAlarm, fun hOpen => ?policy, fun hLocked => ?policyLocked, fun offset => ?device⟩,
    fun offset => exec_registerWrite_of_reaches h offset value, rfl, rfl, fun devicePage offset be hNone => ?none⟩
  case clear => exact next_hostAccess h (by simp [writeIntStatus])
  case mask => exact next_hostAccess h (by simp [writeIntMask])
  case delay =>
    have hThere : s.fnExists fn.val = true := by
      simp only [State.reaches, Bool.and_eq_true] at h
      exact h.1.1
    exact congrArg Host.Outcome.next (if_pos (by simp [hThere, hv, hArmed, hDelay]))
  case unmask =>
    have hNe : ¬ v.val = 3 := by omega
    refine (congrArg Host.Outcome.next (if_neg hNe)).trans (next_hostAccess h ?_)
    rw [touchDomain_fn]
  case frameLo => exact next_hostAccess h (by simp [frameHi, State.seesFrame])
  case countLo => exact next_hostAccess h (by simp)
  case alarm => exact next_hostAccess (h0 ▸ h) (if_pos hOne)
  case noAlarm => exact next_hostAccess (h0 ▸ h) (if_neg (by rw [hZero]; exact Bool.false_ne_true))
  case policy =>
    refine (exec_dbgPolicyWrite_of_reaches (h0 ▸ h) value).trans (congrArg Host.Outcome.next ?_)
    rw [writeDbgPolicy_of_unlocked (by rw [touchDomain_arm]; exact hOpen), touchDomain_arm]
  case policyLocked =>
    refine (exec_dbgPolicyWrite_of_reaches (h0 ▸ h) value).trans (congrArg Host.Outcome.next ?_)
    exact writeDbgPolicy_of_locked (by rw [touchDomain_arm]; exact hLocked) value
  case device => exact next_hostAccess h ((if_neg (by simp)).trans ((if_pos rfl).trans (if_pos h0)))
  case none =>
    refine next_hostAccess h ?_
    obtain hBe | ⟨rfl, hFn⟩ := hNone
    · exact if_pos hBe
    · exact ite_eq_left_iff.mpr fun _ => (if_pos rfl).trans (if_neg hFn)

/-- Settles O18. -/
theorem functionResetsComplete : Obligations.FunctionResetsComplete := by
  unfold Obligations.FunctionResetsComplete
  refine fun fn s => ⟨fun hPos hThere => ?flr, fun hOn => ⟨?pf, ?pcie, fun hThere => ⟨?enter, ?leave⟩, fun e n => ?vfEnable⟩⟩
  case flr => exact congrArg Host.Outcome.next (if_neg (by simp [Nat.pos_iff_ne_zero.mp hPos, hThere]))
  case pf => exact congrArg Host.Outcome.next (if_neg hOn)
  case pcie => exact congrArg Host.Outcome.next (if_neg hOn)
  case enter => exact congrArg Host.Outcome.next (if_neg (by simp [hThere, hOn]))
  case leave => exact congrArg Host.Outcome.next (if_neg (by simp [hThere, hOn]))
  case vfEnable => exact congrArg Host.Outcome.next (if_neg hOn)

end Sys2Proof.Machine

namespace Sys2Proof.Machine

/-! ### Transports (chapter 15) -/

/-- A packet that fails none of checks 2 to 6 and spells an instruction is accepted with the next ACCSEQ. -/
theorem takePacket_accepted {src : Nat} {pathOk : Bool} {b : List Byte} {s : State} {i : Instr} (hGood : packetRefusal b pathOk s = none)
    (hSpell : spell { src := BitVec.ofNat 8 src, tag := pktTag b, accSeq := s.plinth.accSeq, eframe := pktEframe b } (s.linkOffset src)
      (pktOp b) (pktPayload b) = some i) :
    takePacket src pathOk b s = { s with plinth := { s.plinth with
      accSeq := s.plinth.accSeq + 1, lastSrc := src, accepted := s.plinth.accepted ++ [i] } } := by
  simp only [takePacket, hGood, takeSeq, hSpell]

theorem takePacket_refused {src : Nat} {pathOk : Bool} {b : List Byte} {s : State} {st : Nat} {d : List Byte}
    (hBad : packetRefusal b pathOk s = some (st, d)) : takePacket src pathOk b s = refusePacket src st d b s := by
  simp only [takePacket, hBad]

/-- A fetch whose function's turn has come takes the packet at the head of its ring. -/
theorem exec_commandRingFetch_turn {fn : Fin 16} {slots : List Byte} {s : State} (hTurn : (drainSources s).turn = some fn.val) :
    exec (.commandRingFetch fn slots) s = .next (fetchPacket fn.val slots (touchDomain .base (drainSources s))) :=
  congrArg Host.Outcome.next (if_pos hTurn)

section
variable {n : Nat} {slots : List Byte} {s : State}

/-! What a fetched packet's LENGTH says of it (R330). -/

theorem fetchPacket_short (hSlot : 64 ≤ slots.length) (hLen : pktLength slots < 16) :
    fetchPacket n slots s = refusePacket n St.lenShort (offsetData 4) slots (advanceHead n 1 s) :=
  (if_neg (Nat.not_lt.mpr hSlot)).trans (if_pos hLen)

theorem fetchPacket_long (hSlot : 64 ≤ slots.length) (hLen : 4096 < pktLength slots) :
    fetchPacket n slots s = refusePacket n St.lenLong (offsetData 4) slots
      (advanceHead n (min ((pktLength slots + 63) / 64) (s.fn n).cmd.filled) s) :=
  (if_neg (Nat.not_lt.mpr hSlot)).trans ((if_neg (by omega)).trans (if_pos hLen))

theorem fetchPacket_whole (hSlot : 64 ≤ slots.length) (hLow : 16 ≤ pktLength slots) (hHigh : pktLength slots ≤ 4096)
    (hIn : pktLength slots ≤ slots.length) (hFilled : (pktLength slots + 63) / 64 ≤ (s.fn n).cmd.filled) :
    fetchPacket n slots s = takePacket n (s.pathOwn slots) (slots.take (pktLength slots)) (advanceHead n ((pktLength slots + 63) / 64) s) :=
  (if_neg (Nat.not_lt.mpr hSlot)).trans ((if_neg (Nat.not_lt.mpr hLow)).trans ((if_neg (Nat.not_lt.mpr hHigh)).trans
    ((if_neg (Nat.not_lt.mpr hFilled)).trans (if_neg (Nat.not_lt.mpr hIn)))))

end

/-- Data characters spoil no packet and spell their bytes. -/
theorem any_spoils_data (b : List Byte) : (b.map LinkChar.data).any spoils = false := by
  simp [spoils]

theorem map_charByte_data (b : List Byte) : (b.map LinkChar.data).map charByte = b := by
  simp [charByte, Function.comp_def]

/-- A packet of good characters on a link with character sync is framed as its bytes. -/
theorem exec_controlLinkPacket_framed {k : Fin 8} {chars : List LinkChar} {b : List Byte} {s : State} (hSync : (s.link k.val).sync = true)
    (hData : removeInserted 0 chars = b.map .data) :
    exec (.controlLinkPacket k (.framed chars)) s = .next (framedBytes k.val b (s.setLink k.val { s.link k.val with skipping := false })) := by
  refine congrArg Host.Outcome.next ((if_neg (by simp [hSync])).trans ?_)
  dsimp only
  rw [hData, any_spoils_data, map_charByte_data]
  rfl

section
variable {k : Nat} {b : List Byte} {s : State}

/-! What is framed on a link (Table 15.5). -/

theorem framedBytes_command (hLow : 16 ≤ b.length) (hHigh : b.length ≤ 4096) (hCmd : answerClass b = false) :
    framedBytes k b s = commandOnLink k b s :=
  (if_neg (Nat.not_lt.mpr hLow)).trans ((if_neg (Nat.not_lt.mpr hHigh)).trans (if_neg (by simp [hCmd])))

theorem framedBytes_answer (hLow : 16 ≤ b.length) (hHigh : b.length ≤ 4096) (hAns : answerClass b = true) :
    framedBytes k b s = if k = 0 ∨ k = 7 then bump 0xC k 4 s else childPacket k b s :=
  (if_neg (Nat.not_lt.mpr hLow)).trans ((if_neg (Nat.not_lt.mpr hHigh)).trans (if_pos hAns))

theorem framedBytes_short (hLen : b.length < 16) : framedBytes k b s = bump 0xC k 2 s := if_pos hLen

theorem framedBytes_long (hLen : 4096 < b.length) : framedBytes k b s = bump 0xC k 3 s := (if_neg (by omega)).trans (if_pos hLen)

theorem commandOnLink_buffered (hEnd : k = 0 ∨ k = 7) (hUp : k = s.upLink) (hRoom : (s.link k).rxBuf.length < 8) :
    commandOnLink k b s = drainSources (s.setLink k { s.link k with rxBuf := (s.link k).rxBuf ++ [b] }) :=
  (if_neg fun h : (k ≠ 0 ∧ k ≠ 7) ∨ k ≠ s.upLink => h.elim (fun hNot => hEnd.elim hNot.1 hNot.2) fun hNe => hNe hUp).trans (if_neg (Nat.not_le.mpr hRoom))

theorem commandOnLink_full (hEnd : k = 0 ∨ k = 7) (hUp : k = s.upLink) (hFull : 8 ≤ (s.link k).rxBuf.length) :
    commandOnLink k b s = bump 0xC k 5 s :=
  (if_neg fun h : (k ≠ 0 ∧ k ≠ 7) ∨ k ≠ s.upLink => h.elim (fun hNot => hEnd.elim hNot.1 hNot.2) fun hNe => hNe hUp).trans (if_pos hFull)

theorem commandOnLink_refused (hUp : k ≠ s.upLink) (hOp : pktOp b ≠ 0x0803) :
    commandOnLink k b s = s.emit (.linkPacket k (replyBytes (pktOp b) (pktTag b) s.arm.addr.toNat St.pathDenied 0 [])) := by
  have hNone : crossControl k b s = none := if_pos (.inl hOp)
  refine (if_pos (.inr hUp)).trans ?_
  rw [hNone, Option.getD_none]

/-- A child's reply that nothing here awaits goes up unchanged. -/
theorem childPacket_forwarded (h0 : 0 < k) (h7 : k < 7) (hLen : 16 ≤ b.length) (hAns : 0x8000 ≤ fieldAt b 0 2) (hProbe : fieldAt b 0 2 ≠ 0x8F01)
    (hAssign : fieldAt b 0 2 ≠ 0x8F02) (hAwaits : (noteAnswer k b s).awaits k (fieldAt b 2 2) = false)
    (hFetch : ((noteAnswer k b s).link k).fetch = none) (hRetrain : ((noteAnswer k b s).link k).retrain = none) :
    childPacket k b s = (noteAnswer k b s).emit (.linkPacket (noteAnswer k b s).upLink b) := by
  unfold childPacket
  refine (if_neg ?_).trans ((if_neg hAssign).trans ((if_neg ?_).trans ((if_neg ?_).trans ?_)))
  · omega
  · simp [hFetch]
  · simp [hAwaits]
  · rw [hRetrain]
    rfl

end

/-- Settles O19. -/
theorem transportsComplete : Obligations.TransportsComplete := by
  unfold Obligations.TransportsComplete
  intro s
  refine ⟨fun fn slots hTurn => ?notTurn, fun fn slots hTurn hSlot => ?ring, fun k hSync => ?link, fun k hSync f => ?noSync,
    fun k bytes h0 h7 hLen hAns hProbe hAssign hAwaits => ?child, fun fn hThere hOn => ⟨?drain, fun n k ev b r hBack hFits => ?spooled⟩⟩
  case notTurn => exact congrArg Host.Outcome.next (if_neg hTurn)
  case ring =>
    have hFetch := exec_commandRingFetch_turn (slots := slots) hTurn
    refine ⟨fun hLen => ?short, fun hLen => ?long, fun hLow hHigh hIn hFilled => ⟨fun st d hBad => ?refused, fun i hGood hSpell => ?accepted⟩⟩
    case short => exact hFetch.trans (congrArg Host.Outcome.next (fetchPacket_short hSlot hLen))
    case long => exact hFetch.trans (congrArg Host.Outcome.next ((fetchPacket_long hSlot hLen).trans (by rw [touchDomain_fn])))
    case refused =>
      have hWhole := fetchPacket_whole (s := touchDomain .base (drainSources s)) hSlot hLow hHigh hIn (by rw [touchDomain_fn]; exact hFilled)
      refine hFetch.trans (congrArg Host.Outcome.next (hWhole.trans (takePacket_refused ?_)))
      simpa [State.pathOwn] using hBad
    case accepted =>
      have hWhole := fetchPacket_whole (s := touchDomain .base (drainSources s)) hSlot hLow hHigh hIn (by rw [touchDomain_fn]; exact hFilled)
      refine hFetch.trans (congrArg Host.Outcome.next (hWhole.trans ((takePacket_accepted (i := i) ?_ ?_).trans ?_)))
      · simpa [State.pathOwn] using hGood
      · rw [show (advanceHead fn.val ((pktLength slots + 63) / 64) (touchDomain .base (drainSources s))).plinth = (drainSources s).plinth from
          touchDomain_plinth _ _]
        exact hSpell
      · rw [show (advanceHead fn.val ((pktLength slots + 63) / 64) (touchDomain .base (drainSources s))).plinth = (drainSources s).plinth from
          touchDomain_plinth _ _]
  case link =>
    refine ⟨fun chars b hData => ?framed, ?giant, ?strayStart, fun hSkip => ?strayEnd⟩
    case framed =>
      have hFrame := exec_controlLinkPacket_framed (k := k) hSync hData
      refine ⟨fun hLow hHigh hCmd hEnd hUp => ⟨fun hRoom => ?buffered, fun hFull => ?full⟩, fun hLow hHigh hCmd hUp hOp => ?refused,
        fun hLow hHigh hAns => ⟨fun hEnd => ?stray, fun h0 h7 => ?answer⟩, fun hLen => ?short, fun hLen => ?long⟩
      case buffered => exact hFrame.trans (congrArg Host.Outcome.next ((framedBytes_command hLow hHigh hCmd).trans (commandOnLink_buffered hEnd hUp hRoom)))
      case full => exact hFrame.trans (congrArg Host.Outcome.next ((framedBytes_command hLow hHigh hCmd).trans (commandOnLink_full hEnd hUp hFull)))
      case refused => exact hFrame.trans (congrArg Host.Outcome.next ((framedBytes_command hLow hHigh hCmd).trans (commandOnLink_refused hUp hOp)))
      case stray => exact hFrame.trans (congrArg Host.Outcome.next ((framedBytes_answer hLow hHigh hAns).trans (if_pos hEnd)))
      case answer => exact hFrame.trans (congrArg Host.Outcome.next ((framedBytes_answer hLow hHigh hAns).trans (if_neg fun h => h.elim h0 h7)))
      case short => exact hFrame.trans (congrArg Host.Outcome.next (framedBytes_short hLen))
      case long => exact hFrame.trans (congrArg Host.Outcome.next (framedBytes_long hLen))
    case giant => exact congrArg Host.Outcome.next (if_neg (by simp [hSync]))
    case strayStart => exact congrArg Host.Outcome.next (if_neg (by simp [hSync]))
    case strayEnd => exact congrArg Host.Outcome.next ((if_neg (by simp [hSync])).trans (if_neg (by simp [hSkip])))
  case noSync => exact congrArg Host.Outcome.next (if_pos (by simp [hSync]))
  case child =>
    intro t hFetch hRetrain
    have hT : noteAnswer k.val bytes s = t := rfl
    have hArm : t.arm = s.arm ∧ t.upLink = s.upLink := by
      simp only [t]
      split <;> exact ⟨rfl, rfl⟩
    have hAwaitsT : t.awaits k.val (fieldAt bytes 2 2) = false := by
      rw [State.awaits, hArm.1]
      exact hAwaits
    refine congrArg Host.Outcome.next ((childPacket_forwarded h0 h7 hLen hAns hProbe hAssign hAwaitsT hFetch hRetrain).trans ?_)
    rw [hT, hArm.2]
  case drain => exact congrArg Host.Outcome.next (if_neg (by simp [hThere, hOn]))
  case spooled =>
    simp only [drainRing, hBack]
    exact if_pos hFits

end Sys2Proof.Machine

namespace Sys2Proof.Machine

/-! ### The debug port (Table 22.2) -/

/-- The state in which an access of the debug port has its effect: ERR cleared, and busy for a free time (R451). -/
def portAccess (s : State) : State :=
  { s with
    dbg := { s.dbg with err := false, busyUntil := s.clk.now + (Config.freeValue 11 s.free).toNat % 1601 }, free := s.free + 1 }

/-- A register access of the idle port completes with its effect. -/
theorem next_dapAccess {body : State → State} {s t : State} (hOn : s.dbgOn = true) (hIdle : s.dbg.busyUntil ≤ s.clk.now)
    (hb : body (portAccess s) = t) : (.next (dapAccess body s) : Res) = .next t :=
  congrArg Host.Outcome.next ((dapAccess_of_idle hOn hIdle body).trans hb)

/-- The loss of a level other than Full, or of none, only changes the level. -/
theorem setLevel_low {s : State} {l : BitVec 2} (h : s.dbg.level ≠ 2) : setLevel l s = { s with dbg := { s.dbg with level := l } } :=
  if_neg fun hFull => h hFull.1

section
variable {s : State}

/-! What each register does (Table 22.2). -/

theorem drawChallenge_open {l : BitVec 2} (hLock : s.dbg.lockout = none) :
    drawChallenge l s = { s with
      dbg := { s.dbg with chal := some (Config.freeValue 256 s.free, Config.freeValue 64 (s.free + 1), l), authWait := false }, free := s.free + 2 } :=
  if_neg (by simp [hLock])

theorem drawChallenge_locked {l : BitVec 2} (hLock : s.dbg.lockout ≠ none) : drawChallenge l s = { s with dbg := { s.dbg with err := true } } :=
  if_pos (Option.isSome_iff_ne_none.mpr hLock)

theorem submitResponse_challenged {nonce : BitVec 256} {chid : BitVec 64} {l : BitVec 2} (hChal : s.dbg.chal = some (nonce, chid, l)) :
    submitResponse s =
      let s1 := modDbg (fun d => { d with authWait := true }) s
      if s.dbg.pktIn.isEmpty then s1 else judgeResponse nonce chid l s1 := by
  unfold submitResponse
  rw [hChal]

theorem submitResponse_empty (hChal : s.dbg.chal ≠ none) (hEmpty : s.dbg.pktIn = []) :
    submitResponse s = { s with dbg := { s.dbg with authWait := true } } := by
  obtain ⟨⟨nonce, chid, l⟩, hSome⟩ := Option.ne_none_iff_exists'.mp hChal
  exact (submitResponse_challenged hSome).trans (if_pos (by simp [hEmpty]))

/-- A response for Observe, whole in the buffer, is judged (R453). -/
theorem judgeResponse_observe {nonce : BitVec 256} {chid : BitVec 64} (hFit : s.dbg.overflow = false) :
    judgeResponse nonce chid 1 s =
      let s1 : State := { s with dbg := { s.dbg with chal := none, pktIn := [], overflow := false } }
      if Config.authOk chid nonce 1 s.dbg.pktIn then setLevel 1 s1 else failResponse s1 := by
  unfold judgeResponse
  rw [hFit, Bool.not_false, Bool.true_and]
  rfl

theorem submitResponse_observe {nonce : BitVec 256} {chid : BitVec 64} (hChal : s.dbg.chal = some (nonce, chid, 1)) (hSome : s.dbg.pktIn ≠ [])
    (hFit : s.dbg.overflow = false) :
    submitResponse s =
      let s1 : State := { s with dbg := { s.dbg with chal := none, pktIn := [], overflow := false, authWait := true } }
      if Config.authOk chid nonce 1 s.dbg.pktIn then setLevel 1 s1 else failResponse s1 :=
  (submitResponse_challenged hChal).trans ((if_neg (by simp [hSome])).trans (judgeResponse_observe (s := { s with dbg := { s.dbg with authWait := true } }) hFit))

theorem observes_of_level (hLevel : s.dbg.level ≠ 0) : s.observes = true := decide_eq_true hLevel

theorem bufferGo_command (hWait : s.dbg.authWait = false) (hLevel : s.dbg.level ≠ 0) :
    bufferGo s = { s with dbg := { s.dbg with authWait := false, goDue := true } } := by
  unfold bufferGo
  rw [hWait]
  exact (if_neg (by simp)).trans (if_neg (by simp [observes_of_level hLevel]))

theorem bufferPut_fits {v : U32} (hRoom : s.dbg.pktIn.length ≤ 4092) :
    bufferPut v s = { s with dbg := { s.dbg with pktIn := s.dbg.pktIn ++ leBytes 4 v.toNat } } :=
  if_neg (by omega)

theorem bufferGet_more {b : List Byte} {r : List (List Byte)} (hLevel : s.dbg.level ≠ 0) (hOut : s.dbg.pktOut = b :: r)
    (hMore : s.dbg.pktPos + 4 < b.length) :
    bufferGet s = ({ s with dbg := { s.dbg with
      rdata := BitVec.ofNat 32 (fieldAt b s.dbg.pktPos 4), pktPos := s.dbg.pktPos + 4 } } : State).emit (.readData (fieldAt b s.dbg.pktPos 4)) := by
  unfold bufferGet
  rw [hOut]
  exact (if_neg (by simp [observes_of_level hLevel])).trans (if_neg (Nat.not_le.mpr hMore))

theorem vtPut_room {b : Byte} (hRoom : s.dbg.vtTx.length < 64) : vtPut b s = { s with dbg := { s.dbg with vtTx := s.dbg.vtTx ++ [b] } } :=
  if_pos hRoom

theorem vtWrite_carried {v : U32} (hLevel : s.dbg.level ≠ 0) (hPins : s.dbg.vtPins = false) (hRoom : s.dbg.vtTx.length < 64) :
    vtWrite v s = { s with dbg := { s.dbg with vtTx := s.dbg.vtTx ++ [v.setWidth 8] } } :=
  (if_pos (by simp [observes_of_level hLevel, hPins])).trans (vtPut_room hRoom)

theorem vtRead_byte {b : Byte} {r : List Byte} (hLevel : s.dbg.level ≠ 0) (hPins : s.dbg.vtPins = false) (hRx : s.dbg.vtRx = b :: r) :
    vtRead s = ({ s with dbg := { s.dbg with vtRx := r, rdata := BitVec.ofNat 32 (256 + b.toNat) } } : State).emit (.readData (256 + b.toNat)) := by
  unfold vtRead
  rw [if_neg (by simp [observes_of_level hLevel, hPins]), hRx]
  rfl

theorem shadowGet_data {b : List Byte} (hLevel : s.dbg.level ≠ 0) (hRead : s.shadowRead s.dbg.shAddr.toNat 4 = .data b) :
    shadowGet s = ({ s with dbg := { s.dbg with
      shAddr := s.dbg.shAddr + 4, rdata := BitVec.ofNat 32 (leNat b) } } : State).emit (.readData (leNat b)) := by
  unfold shadowGet
  rw [if_neg (by simp [observes_of_level hLevel]), hRead]
  rfl

end

/-- Settles O20. -/
theorem debugPortComplete : Obligations.DebugPortComplete := by
  unfold Obligations.DebugPortComplete
  intro s hOn hIdle d a
  have hAccess : ∀ {body : State → State} {t : State}, body a = t → (.next (dapAccess body s) : Res) = .next t :=
    fun hb => next_dapAccess hOn hIdle hb
  refine ⟨fun hOpen => hAccess (if_pos hOpen), fun hClosed => hAccess (writeAuth_observe_of_closed hClosed),
    fun hLock => hAccess ?chalObserve, fun hLock => hAccess ?chalFull, fun hLock => hAccess ?chalLocked,
    fun hChal hEmpty => hAccess ?submitEmpty, fun nonce chid hChal hSome hFit => hAccess ?submit, hAccess rfl,
    fun t hLock hPast => ?lockout, fun hWait hLevel => hAccess ?go, hAccess rfl, fun value hRoom => hAccess ?put,
    fun b r hLevel hOut hMore => hAccess ?get⟩
  case chalObserve => exact drawChallenge_open (s := a) hLock
  case chalFull => exact drawChallenge_open (s := a) hLock
  case chalLocked => exact drawChallenge_locked (s := a) hLock
  case submitEmpty => exact submitResponse_empty (s := a) hChal hEmpty
  case submit => exact submitResponse_observe (s := a) hChal hSome hFit
  case lockout =>
    refine congrArg Host.Outcome.next ?_
    rw [hLock]
    exact if_pos hPast
  case go => exact bufferGo_command (s := a) hWait hLevel
  case put => exact bufferPut_fits (s := a) hRoom
  case get => exact bufferGet_more (s := a) hLevel hOut hMore

/-- Settles O21. -/
theorem debugAccessComplete : Obligations.DebugAccessComplete := by
  unfold Obligations.DebugAccessComplete
  refine fun s => ⟨fun high hHigh => ?high, fun hLevel => ?low, fun hOn => ?tapReset, fun v hOn hV => ?tap, fun v hOn h0 h1 h2 h10 => ?bypass,
    fun byte hOn hLevel hPins hRoom => ?serial, fun hOn hIdle => ?port⟩
  case high => exact congrArg Host.Outcome.next (if_pos hHigh)
  case low =>
    refine congrArg Host.Outcome.next ((if_neg (by simp)).trans ?_)
    rw [setLevel_low hLevel]
    rfl
  case tapReset => exact congrArg Host.Outcome.next ((if_neg (by simp [hOn])).trans rfl)
  case tap =>
    refine congrArg Host.Outcome.next ((if_neg (by simp [hOn])).trans ?_)
    obtain rfl | rfl | rfl := hV <;> rfl
  case bypass =>
    have hCode : (if [0x01, 0x02, 0x10].contains v then v else if v = 0 ∧ s.extestOk then 0 else 0xFF) = (0xFF : Byte) :=
      (if_neg (by simpa using ⟨h1, h2, h10⟩)).trans (if_neg fun hZero => h0 hZero.1)
    exact congrArg Host.Outcome.next ((if_neg (by simp [hOn])).trans
      (congrArg (fun code : Byte => ({ s with dbg := { s.dbg with ir := code } } : State)) hCode))
  case serial => exact congrArg Host.Outcome.next ((if_pos (by simp [hOn, observes_of_level hLevel, hPins])).trans (vtPut_room hRoom))
  case port =>
    intro d a
    have hAccess : ∀ {body : State → State} {t : State}, body a = t → (.next (dapAccess body s) : Res) = .next t :=
      fun hb => next_dapAccess hOn hIdle hb
    refine ⟨fun value hLevel hPins hRoom => hAccess ?vtWrite, fun b r hLevel hPins hRx => hAccess ?vtRead, fun b hLevel hRead => hAccess ?shadow,
      fun data hIr hLevel => ?dapWrite, fun data hIr => ?dapRead⟩
    case vtWrite => exact vtWrite_carried (s := a) hLevel hPins hRoom
    case vtRead => exact vtRead_byte (s := a) hLevel hPins hRx
    case shadow => exact shadowGet_data (s := a) hLevel hRead
    case dapWrite =>
      refine (congrArg Host.Outcome.next (if_neg (not_not_intro hIr))).trans (hAccess ?_)
      exact if_neg (by simp [observes_of_level (s := a) hLevel])
    case dapRead => exact (congrArg Host.Outcome.next (if_neg (not_not_intro hIr))).trans (hAccess rfl)

end Sys2Proof.Machine

namespace Sys2Proof.Machine

/-! ### Pins, boot, power (chapters 19 and 24) -/

theorem set_oscStart_self {r : State} {o : Option Nat} (h : r.clk.oscStart = o) : { r with clk := { r.clk with oscStart := o } } = r := by
  subst h
  rfl

/-- With every rail on, the reset pin resets the device. -/
theorem execRstN_railed {side : Bool} {s : State} (hRails : s.pwr.rails = 0xFF#8) (hOsc : s.clk.oscStart = none) :
    execRstN side s = .next (cold 2 false { s with ident := { s.ident with pendSide := side } }) := by
  unfold execRstN
  dsimp only
  rw [if_pos hRails, hOsc]
  exact congrArg Host.Outcome.next (set_oscStart_self rfl)

/-- Settles O22. -/
theorem bootEventsComplete : Obligations.BootEventsComplete := by
  unfold Obligations.BootEventsComplete
  refine fun s => ⟨fun d hDeep hWatch => ?rise, fun hOsc hTrans => ?osc, fun side hRails hOsc => ?rst, fun hTrans hOff => ?fall,
    fun a b board hDue hOsc hCause => ?boot, fun hDue hTest hRec => ?selfTest, fun hTrial hDue hTest hPast => ?trial,
    fun hTrans hSt => ?wake, fun t hTrans hIn hTarget => ?wakeLater, fun t k rest hTrans hSteps hRest hK hRedirect hWoken hDone => ?step,
    fun t hTrans hOut hSteps hRedirect hCtx hTarget => ?last⟩
  case rise => exact congrArg Host.Outcome.next (if_neg fun h => h.elim hDeep hWatch)
  case osc =>
    exact congrArg Host.Outcome.next ((if_neg (by simp [Option.isSome_iff_ne_none.mp hOsc])).trans (if_neg (by simp [hTrans])))
  case rst => exact execRstN_railed hRails hOsc
  case fall =>
    refine congrArg Host.Outcome.next ?_
    rw [hTrans]
    exact (if_neg Bool.false_ne_true).trans (if_neg hOff)
  case boot =>
    exact congrArg Host.Outcome.next ((if_neg (by simp [hDue, hOsc])).trans (if_neg hCause))
  case selfTest => exact congrArg Host.Outcome.next (if_neg (by simp [hDue, hTest, hRec]))
  case trial => exact congrArg Host.Outcome.next (if_pos (by simp [hTrial, hDue, hTest, hPast]))
  case wake =>
    refine congrArg Host.Outcome.next ?_
    rw [hTrans]
    exact if_pos hSt
  case wakeLater =>
    refine congrArg Host.Outcome.next ?_
    rw [hTrans]
    exact if_pos ⟨hIn, hTarget⟩
  case step =>
    refine congrArg Host.Outcome.next ?_
    simp only [hTrans, hSteps]
    refine (if_neg (by simp [hDone])).trans ?_
    simp [hK, afterStep, hRedirect, hWoken, hRest]
  case last =>
    refine congrArg Host.Outcome.next ?_
    simp only [hTrans, hSteps]
    refine (if_neg (by simp [State.stepDone, hOut])).trans ?_
    simp [afterStep, hRedirect, hOut, reachState, hCtx, hTarget, completeOpt, setTrans, exitEffect, takenAfter]

/-- The first rail step that is off is the one that every lower step being on leaves. -/
theorem nextRail_step {s : State} {i : Fin 8} (hOff : s.pwr.rails.getLsbD i = false) (hOn : ∀ j < i.val, s.pwr.rails.getLsbD j = true) :
    nextRail s = ({ s with pwr := { s.pwr with
      rails := s.pwr.rails ||| BitVec.ofNat 8 (2 ^ i.val), railStep := some (i.val + 1), railAt := s.clk.now } } : State).emit (.pmbus (i.val + 1) true) := by
  have hFind : (List.range 8).find? (fun i => !s.pwr.rails.getLsbD i) = some i.val := by
    rw [List.find?_range_eq_some]
    exact ⟨by rw [hOff]; rfl, List.mem_range.mpr i.isLt, fun j hj => by simp [hOn j hj]⟩
  unfold nextRail
  rw [hFind]

theorem nextRail_end {s : State} (hAll : s.pwr.rails = 0xFF) : nextRail s = { s with pwr := { s.pwr with railStep := none } } := by
  have hFind : (List.range 8).find? (fun i => !s.pwr.rails.getLsbD i) = none := by
    rw [hAll]
    decide
  unfold nextRail
  rw [hFind]

/-- Two masks that meet have a bit in common. -/
theorem exists_common_bit {a b : BitVec 8} (h : a &&& b ≠ 0) : ∃ i < 8, (a.getLsbD i && b.getLsbD i) = true := by
  refine Classical.byContradiction fun hNone => h (BitVec.eq_of_getLsbD_eq fun i hi => ?_)
  have hBit : ¬ (a.getLsbD i && b.getLsbD i) = true := fun hBoth => hNone ⟨i, hi, hBoth⟩
  simpa using hBit

/-- Settles O23. -/
theorem powerEventsComplete : Obligations.PowerEventsComplete := by
  unfold Obligations.PowerEventsComplete
  refine fun s => ⟨fun d hDemand hRet => ?wake, fun d => rfl, fun i hSeq hOff hOn => ?rail, fun hSeq hAll => ?railEnd, fun hSeq => ?railBad,
    fun hSeq hPast => ?timeout, fun m hReady hNone hMeet => ?inTolerance, fun i hi m hReady hM hR hNine => ?outOfTolerance,
    fun reading hHot hOff hAlert => ?hot, fun reading hHot hOff => ?trip, fun reading hCool => ?cool,
    fun l ok blocks hWatch hTrans hDone => ⟨fun hItem => ?sample, fun i v hItem => ?violation⟩, fun hWatch => ?coolant⟩
  case wake => exact congrArg Host.Outcome.next (if_pos (by simp [hDemand, hRet]))
  case rail => exact congrArg Host.Outcome.next ((if_pos ⟨hSeq, rfl⟩).trans (nextRail_step hOff hOn))
  case railEnd => exact congrArg Host.Outcome.next ((if_pos ⟨hSeq, rfl⟩).trans (nextRail_end hAll))
  case railBad => exact congrArg Host.Outcome.next (if_neg (by simp))
  case timeout => exact congrArg Host.Outcome.next (if_pos ⟨hSeq, hPast⟩)
  case inTolerance =>
    obtain ⟨i, hi, hBit⟩ := exists_common_bit hMeet
    refine congrArg Host.Outcome.next ((if_neg (by simp [hReady])).trans ((if_neg ?_).trans (if_neg ?_)))
    · intro hAny
      obtain ⟨n, hn, hTen⟩ := List.any_eq_true.mp hAny
      obtain ⟨j, hj, rfl⟩ := List.mem_map.mp hn
      exact hNone j (List.mem_range.mp hj) (of_decided hTen)
    · intro hAll
      have hZero := List.all_eq_true.mp hAll _ (List.mem_map.mpr ⟨i, List.mem_range.mpr hi, rfl⟩)
      rw [if_pos hBit] at hZero
      exact absurd (of_decided hZero) (Nat.succ_ne_zero _)
  case outOfTolerance =>
    refine congrArg Host.Outcome.next ((if_neg (by simp [hReady])).trans (if_pos ?_))
    refine List.any_eq_true.mpr ⟨10, List.mem_map.mpr ⟨i, List.mem_range.mpr hi, ?_⟩, rfl⟩
    rw [if_pos (by simp [hM, hR]), hNine]
  case hot => exact congrArg Host.Outcome.next (if_neg (by simp [Nat.not_lt.mpr hHot, hOff, hAlert]))
  case trip => exact congrArg Host.Outcome.next (if_neg (by simp [Nat.not_lt.mpr hHot, hOff]))
  case cool => exact congrArg Host.Outcome.next (if_pos hCool)
  case sample => 
    refine congrArg Host.Outcome.next ((if_neg (by simp [hWatch, hTrans, Nat.not_le.mpr hDone])).trans ?_)
    dsimp only
    rw [hItem]
  case violation => 
    refine congrArg Host.Outcome.next ((if_neg (by simp [hWatch, hTrans, Nat.not_le.mpr hDone])).trans ?_)
    dsimp only
    rw [hItem]
  case coolant => exact congrArg Host.Outcome.next (if_neg hWatch)

end Sys2Proof.Machine

namespace Sys2Proof.Machine

/-! ### The step clock, the control links and time (chapters 17 and 18) -/

theorem sequenceCheck_good {coded : Bool} {crc : Byte} {content : List Byte} (hCoded : coded = false) (hCrc : crc8 content = crc.toNat) :
    sequenceCheck coded crc content = .good := by
  rw [hCoded]
  exact if_pos hCrc

theorem sequenceCheck_bad {coded : Bool} {crc : Byte} {content : List Byte} (hCoded : coded = false) (hCrc : crc8 content ≠ crc.toNat) :
    sequenceCheck coded crc content = .badCrc := by
  rw [hCoded]
  exact if_neg hCrc

/-- A REQ changes no link. -/
theorem sendReq_link (k n : Nat) (s : State) : (sendReq k s).link n = s.link n := by
  unfold sendReq State.setSync
  dsimp only
  split <;> rfl

/-- Settles O24. -/
theorem clockEventsComplete : Obligations.ClockEventsComplete := by
  unfold Obligations.ClockEventsComplete
  refine fun s => ⟨fun cycles marks hSync hCoast => ?trim, fun hPll hUp hOn => ⟨fun hOk => ?lock, fun hLost => ?lockAnew⟩,
    fun k hOn hOff hDown => ?up, fun k hSync => ?loss,
    fun hCoast hOn => ⟨fun hSleep => ?asleep, fun hAwake hPll => ?unlocked, fun hAwake hPll hAlt => ?coast, fun hAwake hPll hAlt => ?switch⟩,
    fun k t1 t2 t3 t4 hCoast hEnd => ?regain, fun h0 h7 => ?sendS0, fun h0 h7 => ?sendS7,
    fun k q t1 h0 h7 hGood hCrc => ?req, fun k q t1 => ⟨fun hGood hCrc => ?reqBad, fun hCoded => ?reqCoded⟩,
    fun k q ps t2 t3 st t4 t1 hEnd hT1 hSeq hGood hCrc => ⟨?resp, fun hNe => ?respAlt⟩, fun hPast hLocked => ?holdover,
    fun a eq hAssigned hReady hOn => ?probe, fun k a eq hDown => ?dropped, fun k => rfl⟩
  case trim => exact congrArg Host.Outcome.next (if_neg (by simp [hSync, hCoast]))
  case lock => exact congrArg Host.Outcome.next ((if_neg (by simp [hPll, hUp, hOn])).trans (if_pos hOk))
  case lockAnew => exact congrArg Host.Outcome.next ((if_neg (by simp [hPll, hUp, hOn])).trans (if_neg (by simp [hLost])))
  case up => exact congrArg Host.Outcome.next ((if_neg (by simp [hOn, hOff, hDown])).trans rfl)
  case loss => exact congrArg Host.Outcome.next (if_neg (by simp [hSync]))
  case asleep => exact congrArg Host.Outcome.next ((if_neg (by simp [hCoast, hOn])).trans (if_pos hSleep))
  case unlocked => exact congrArg Host.Outcome.next ((if_neg (by simp [hCoast, hOn])).trans ((if_neg hAwake).trans (if_pos (by simp [hPll]))))
  case coast =>
    exact congrArg Host.Outcome.next ((if_neg (by simp [hCoast, hOn])).trans ((if_neg hAwake).trans ((if_neg (by simp [hPll])).trans
      (if_neg (by simp [hAlt])))))
  case switch =>
    exact congrArg Host.Outcome.next ((if_neg (by simp [hCoast, hOn])).trans ((if_neg hAwake).trans ((if_neg (by simp [hPll])).trans
      (if_pos hAlt))))
  case regain => exact congrArg Host.Outcome.next ((if_neg (by simp [hCoast]; omega)).trans rfl)
  case sendS0 =>
    refine congrArg Host.Outcome.next ((if_neg ?_).trans (if_pos h0))
    dsimp only
    rw [if_pos h0, sendReq_link, h7]
    exact Bool.false_ne_true
  case sendS7 =>
    have hKeep : (if (s.link 0).up then sendReq 0 s else s) = s := if_neg (by simp [h0])
    refine congrArg Host.Outcome.next ((if_pos ?_).trans ?_)
    · dsimp only
      rw [hKeep]
      exact h7
    · dsimp only
      rw [hKeep]
  case req => exact congrArg Host.Outcome.next ((if_neg (not_not_intro (sequenceCheck_good hGood hCrc))).trans (if_neg (by omega)))
  case reqBad =>
    refine congrArg Host.Outcome.next ?_
    rw [sequenceCheck_bad hGood hCrc]
    rfl
  case reqCoded =>
    refine congrArg Host.Outcome.next ?_
    rw [hCoded]
    rfl
  case resp =>
    refine congrArg Host.Outcome.next ((if_neg (not_not_intro (sequenceCheck_good hGood hCrc))).trans ((if_neg (by omega)).trans ?_))
    rw [hT1]
    exact if_pos hSeq
  case respAlt => exact if_pos hNe
  case holdover => exact congrArg Host.Outcome.next (if_pos ⟨hPast, .inl hLocked⟩)
  case probe => exact congrArg Host.Outcome.next (if_neg (by simp [hAssigned, hReady, hOn]))
  case dropped => exact if_pos (by simp [hDown])

end Sys2Proof.Machine

namespace Sys2Proof.Machine

/-! ### The frame's housekeeping and its ticks (chapter 2) -/

/-- A row of housekeeping stands at its steps: h counts the steps of housekeeping. -/
theorem inStage_of {s : State} {p lo hi : Nat} {from_ : Nat → Bool} (hRuns : s.frameRuns p = true)
    (hIn : (s.part p).frameLen ≤ s.relStep p + 64) (hLo : lo ≤ s.relStep p + 64 - (s.part p).frameLen)
    (hHi : s.relStep p + 64 - (s.part p).frameLen ≤ hi) (hFrom : from_ (s.part p).hstage = true) : s.inStage p lo hi from_ = true := by
  simp only [State.inStage, hRuns, hFrom, Bool.true_and, Bool.and_true, Bool.and_eq_true, decide_eq_true_eq]
  omega

/-- No frame lies before itself. -/
theorem frameBefore_self (k : FrameNo) : frameBefore k k = false := by simp [frameBefore]

section
variable {p : Nat} {s : State}

/-- A frame whose requests have all ended is complete. -/
theorem completeness_none (h : ∀ q ∈ (s.part p).reqs, q.frame = (s.part p).frame → q.pending = false) : completeness p s = s := by
  have hFind : (s.part p).reqs.find? (fun q => decide (q.frame = (s.part p).frame) && q.pending) = none := by
    refine List.find?_eq_none.mpr fun q hq hBad => ?_
    obtain ⟨hFrame, hPending⟩ := Bool.and_eq_true_iff.mp hBad
    exact Bool.false_ne_true ((h q hq (of_decided hFrame)).symm.trans hPending)
  unfold completeness
  dsimp only
  rw [hFind]

theorem holds_any_resolved {x : Partition} (h : ∀ v ∈ x.holds, v.resolved = true) : x.holds.any (fun h => !h.resolved) = false := by
  refine List.any_eq_false.mpr fun v hv => ?_
  simp [h v hv]

/-- Without a veto, a hold or a break the sampling point sends nothing. -/
theorem sampleVetoes_none (hVetoes : (s.part p).vetoes = []) (hHolds : ∀ v ∈ (s.part p).holds, v.resolved = true)
    (hBreak : (s.part p).breaks = false) :
    sampleVetoes p s = s.setPart p { s.part p with
      hstage := 52, vetoes := [], sampled := (s.part p).sampled ++ [((s.part p).frame, s.cnt)] } := by
  simp only [sampleVetoes, hVetoes, hBreak, holds_any_resolved hHolds]
  simp

/-- A veto of the frame in progress is sent. -/
theorem sampleVetoes_one {hold : Bool} (hVetoes : (s.part p).vetoes = [((s.part p).frame, hold)])
    (hHolds : ∀ v ∈ (s.part p).holds, v.resolved = true) (hBreak : (s.part p).breaks = false) :
    sampleVetoes p s = offerVeto p (s.part p).frame hold false true (s.setPart p { s.part p with
      hstage := 52, vetoes := [], sampled := (s.part p).sampled ++ [((s.part p).frame, s.cnt)] }) := by
  simp only [sampleVetoes, hVetoes, hBreak, holds_any_resolved hHolds]
  simp [frameBefore_self]

end

theorem stage_between {lo hi n : Nat} (hLo : lo ≤ n) (hHi : n < hi) : (decide (lo ≤ n) && decide (n < hi)) = true := by
  simp [hLo, hHi]

/-- Settles O25. -/
theorem housekeepingComplete : Obligations.HousekeepingComplete := by
  unfold Obligations.HousekeepingComplete
  intro part s p x h hRuns hIn
  refine ⟨fun h0 hStage => ?close, fun hLock hLo hHi hStage => ?send, fun hLock hLo hHi hStage hLate => ⟨fun hSame => ?same, fun hMis => ?mismatch⟩,
    fun h52 hStage hLate => ⟨?sample, completeness_none, sampleVetoes_none, fun hold => sampleVetoes_one⟩, fun hLo hHi hStage => ?clear,
    fun hLo hHi hStage => ?stage, fun h63 hStage => ?go, fun pcl grp row bp l hSuspect hLate => ?reread⟩
  case close => exact congrArg Host.Outcome.next (if_pos (inStage_of hRuns hIn (Nat.zero_le _) (Nat.le_of_eq h0) (decide_eq_true hStage)))
  case send => exact congrArg Host.Outcome.next (if_pos ⟨hLock, inStage_of hRuns hIn hLo hHi (decide_eq_true hStage)⟩)
  case same =>
    have hAt : s.inStage p 48 51 (fun h => decide (1 ≤ h) && decide (h < 48)) = true := inStage_of hRuns hIn hLo hHi (stage_between hStage hLate)
    exact congrArg Host.Outcome.next ((if_neg (by simp [hLock, p, hAt])).trans (if_neg (by rw [hSame]; exact Bool.false_ne_true)))
  case mismatch =>
    have hAt : s.inStage p 48 51 (fun h => decide (1 ≤ h) && decide (h < 48)) = true := inStage_of hRuns hIn hLo hHi (stage_between hStage hLate)
    refine congrArg Host.Outcome.next ((if_neg (by simp [hLock, p, hAt])).trans ((if_pos hMis).trans ?_))
    cases hReplay : (s.part p).replay <;> simp [x, p]
  case sample =>
    exact congrArg Host.Outcome.next (if_pos (inStage_of hRuns hIn (Nat.le_of_eq h52.symm) (Nat.le_of_eq h52) (stage_between hStage hLate)))
  case clear => exact congrArg Host.Outcome.next (if_pos (inStage_of hRuns hIn hLo hHi (decide_eq_true hStage)))
  case stage => exact congrArg Host.Outcome.next (if_pos (inStage_of hRuns hIn hLo hHi (decide_eq_true hStage)))
  case go => exact congrArg Host.Outcome.next (if_pos (inStage_of hRuns hIn (Nat.le_of_eq h63.symm) (Nat.le_of_eq h63) (decide_eq_true hStage)))
  case reread =>
    refine congrArg Host.Outcome.next ?_
    simp only [show (s.part part.val).nmSuspect = (pcl, grp, row, bp) :: l from hSuspect]
    refine if_neg ?_
    rintro (hStill | hEarly)
    · rw [show s.frameRuns part.val = true from hRuns] at hStill
      exact absurd hStill (by decide)
    · exact absurd hEarly (Nat.not_lt.mpr hLate)

/-- What happens at the boundary that is taken, which is all of `boundary` but its notes of the pair and of the top frame. -/
def takeBoundary (p : Nat) (s : State) : State :=
  let x := s.part p
  let m := x.frame + 1
  let paused : Bool := match x.pausedAt with | some (f, _, _, _) => decide (f = m) | none => false
  if x.stopNext then stopHere p s
  else if paused || x.pauses.any (fun q => decide (q.m = m)) then reachPause p m s
  else if x.noGo then s.setPart p { x with phase := .withheld }
  else beginFrame p m false s

theorem boundary_eq (p : Nat) (s : State) :
    boundary p s = takeBoundary p ((leaveAt p s).setPart p { s.part p with topH0 := (s.part p).h0Begun s.cnt }) := rfl

section
variable {p : Nat} {s : State}

/-! The outcomes of a boundary exclude each other (R24, R34, R50). -/

theorem takeBoundary_stop (hStop : (s.part p).stopNext = true) : takeBoundary p s = stopHere p s := if_pos hStop

theorem takeBoundary_pause (hGo : (s.part p).stopNext = false)
    (hPause : (∃ t f d, (s.part p).pausedAt = some ((s.part p).frame + 1, t, f, d)) ∨ ∃ q ∈ (s.part p).pauses, q.m = (s.part p).frame + 1) :
    takeBoundary p s = reachPause p ((s.part p).frame + 1) s := by
  refine (if_neg (by simp [hGo])).trans (if_pos ?_)
  obtain ⟨t, f, d, hAt⟩ | ⟨q, hq, hm⟩ := hPause
  · rw [hAt]
    simp
  · refine Bool.or_eq_true_iff.mpr (.inr (List.any_eq_true.mpr ⟨q, hq, decide_eq_true hm⟩))

theorem takeBoundary_free (hGo : (s.part p).stopNext = false) (hPaused : (s.part p).pausedAt = none)
    (hPauses : ∀ q ∈ (s.part p).pauses, q.m ≠ (s.part p).frame + 1) :
    takeBoundary p s = if (s.part p).noGo then s.setPart p { s.part p with phase := .withheld } else beginFrame p ((s.part p).frame + 1) false s := by
  refine (if_neg (by simp [hGo])).trans (if_neg ?_)
  rw [hPaused]
  simpa using hPauses

theorem takeBoundary_withheld (hGo : (s.part p).stopNext = false) (hPaused : (s.part p).pausedAt = none)
    (hPauses : ∀ q ∈ (s.part p).pauses, q.m ≠ (s.part p).frame + 1) (hNo : (s.part p).noGo = true) :
    takeBoundary p s = s.setPart p { s.part p with phase := .withheld } :=
  (takeBoundary_free hGo hPaused hPauses).trans (if_pos hNo)

theorem takeBoundary_frame (hGo : (s.part p).stopNext = false) (hPaused : (s.part p).pausedAt = none)
    (hPauses : ∀ q ∈ (s.part p).pauses, q.m ≠ (s.part p).frame + 1) (hYes : (s.part p).noGo = false) :
    takeBoundary p s = beginFrame p ((s.part p).frame + 1) false s :=
  (takeBoundary_free hGo hPaused hPauses).trans (if_neg (by simp [hYes]))

end

/-- Settles O26. -/
theorem frameTicksComplete : Obligations.FrameTicksComplete := by
  unfold Obligations.FrameTicksComplete
  intro part s p x
  refine ⟨fun hRuns hRel hIn => ?step, fun hRuns hSt hEnd hStage => ?tick, fun hSt hStep hAt => ?start, fun f t l hSampled hCoast hPast => ?beyond,
    fun g k r hNext hStep hAt hPhase => ?leadIn, fun g k m t b d hNext hPaused hPos hStep hAt hPhase => ?expiry, fun k r hNext hStep hPhase => ?replay⟩
  case step => exact congrArg Host.Outcome.next (if_pos ⟨hRuns, hRel, hIn⟩)
  case tick =>
    intro left b y m
    have hTick : exec (.horizonTick part) s = .next (refreshDigest (takeBoundary p b)) :=
      congrArg Host.Outcome.next ((if_neg hSt).trans ((if_pos ⟨hRuns, hEnd, hStage⟩).trans (congrArg refreshDigest (boundary_eq p s))))
    refine ⟨fun hStop => ?stop, fun hGo hPause => ?pause, fun hGo hPaused hPauses => ⟨fun hNo => ?withheld, fun hYes => ?frame⟩⟩
    case stop => exact hTick.trans (congrArg (fun t => Host.Outcome.next (refreshDigest t)) (takeBoundary_stop (s := b) hStop))
    case pause => exact hTick.trans (congrArg (fun t => Host.Outcome.next (refreshDigest t)) (takeBoundary_pause (s := b) hGo hPause))
    case withheld =>
      exact hTick.trans (congrArg (fun t => Host.Outcome.next (refreshDigest t)) (takeBoundary_withheld (s := b) hGo hPaused hPauses hNo))
    case frame => exact hTick.trans (congrArg (fun t => Host.Outcome.next (refreshDigest t)) (takeBoundary_frame (s := b) hGo hPaused hPauses hYes))
  case start => exact congrArg Host.Outcome.next ((if_pos hSt).trans (if_pos ⟨hStep, hAt⟩))
  case beyond =>
    refine congrArg Host.Outcome.next ?_
    simp only [show (s.part part.val).sampled = (f, t) :: l from hSampled]
    exact if_neg (by rw [hCoast]; exact fun h => h.elim Bool.false_ne_true (Nat.not_lt.mpr hPast))
  case leadIn =>
    refine congrArg Host.Outcome.next ?_
    simp only [show (s.part part.val).nextTick = some (g, k, r) from hNext]
    refine if_pos ⟨hStep, hAt, ?_⟩
    cases r with
    | true => exact .inl ⟨rfl, hPhase⟩
    | false => exact .inr ⟨rfl, hPhase⟩
  case expiry =>
    refine congrArg Host.Outcome.next ?_
    simp only [show (s.part part.val).nextTick = some (g, k, false) from hNext, show (s.part part.val).pausedAt = some (m, t, b, d) from hPaused]
    exact if_pos ⟨hStep, hPos, hAt, hPhase⟩
  case replay =>
    refine congrArg Host.Outcome.next ?_
    simp only [show (s.part part.val).nextTick = some (s.cnt, k, r) from hNext]
    exact if_pos ⟨hStep, trivial, hPhase⟩

end Sys2Proof.Machine

namespace Sys2Proof.Machine

/-! ### Markers: receipt (R367, R373, R390) -/

/-- A marker that is heard is noted as the one acted on, and acted on. -/
theorem receive_heard {down : Bool} {link type : Nat} {m : Marker} {s : State} (h : s.hears down link type m = true) (body : State → State) :
    receive down link type m body s = body (s.marked link type m) := by
  simp only [State.hears, Bool.and_eq_true, Bool.not_eq_true', decide_eq_true_eq] at h
  obtain ⟨⟨⟨hSide, hGood⟩, hNew⟩, hDual⟩ := h
  have hTakes : (if down = true then s.takesDown link else takesUp link) = true := by
    cases down with
    | true => simpa [State.takesDown] using Or.inl (of_decide_eq_true hSide)
    | false => exact hSide
  have hOne : (decide (s.clk.now < s.clk.dualUntil) && down) = false := by simp [Nat.not_lt.mpr hDual]
  unfold receive
  simp only [hTakes, hGood, hNew, hOne, State.marked, Bool.not_true, not_true_eq_false, false_and, if_false, Bool.false_eq_true, ne_eq]

/-- The second copy of a sequence is dropped, and the next one is new again. -/
theorem receive_repeated {down : Bool} {link type : Nat} {m : Marker} {s : State} (body : State → State)
    (hTakes : (if down then s.takesDown link else takesUp link) = true) (hGood : markerCheck type m = .good)
    (hTwice : s.repeats link type m = true) :
    receive down link type m body s = s.setLink link { s.link link with lastMark := none } := by
  unfold receive
  simp only [hTakes, hGood, hTwice, Bool.not_true, not_true_eq_false, if_false, if_true, Bool.false_eq_true, ne_eq]

/-- What a row does with a marker that is heard. -/
theorem next_receive {down : Bool} {link type : Nat} {m : Marker} {s t : State} {body : State → State}
    (h : s.hears down link type m = true) (hBody : body (s.marked link type m) = t) :
    (Host.Outcome.next (receive down link type m body s) : Res) = .next t :=
  congrArg Host.Outcome.next ((receive_heard h body).trans hBody)

/-- The running member of a scope. -/
theorem runner_of_member {s : State} {sc p : Nat} (hMember : s.memberOf sc = some p) (hRun : (s.part p).st = .running) :
    s.runner sc = some p := by
  unfold State.runner
  rw [hMember]
  exact if_pos hRun

/-- At the root of a running scope a request is served. -/
theorem serveRequest_root {type : Nat} {m : Marker} {serve : Nat → State → State} {s : State} {p : Nat}
    (hMember : s.memberOf m.scope.toNat = some p) (hRoot : s.isRoot p = true) (hRun : (s.part p).st = .running) :
    serveRequest type m serve s = serve p s := by
  unfold serveRequest
  rw [hMember]
  exact (if_pos hRoot).trans (if_pos hRun)

/-- Elsewhere a request goes on up. -/
theorem serveRequest_up {type : Nat} {m : Marker} {serve : Nat → State → State} {s : State} {p : Nat}
    (hMember : s.memberOf m.scope.toNat = some p) (hRoot : s.isRoot p = false) : serveRequest type m serve s = passUp type m s := by
  unfold serveRequest
  rw [hMember]
  exact if_neg (by rw [hRoot]; exact Bool.false_ne_true)

/-! ### Markers of verdicts and cancellations (R371 to R373, R376) -/

/-- Settles O27. -/
theorem verdictMarkersComplete : Obligations.VerdictMarkersComplete := by
  unfold Obligations.VerdictMarkersComplete
  intro k m s sc
  refine ⟨fun p hHears hMember hRun => ?offer, fun hHears hMember => ?relayVeto, fun p hHears hRunner => ?replay, fun p hHears hRunner => ?hold,
    fun hHears hRunner => ?holdRelayed, fun p f t hHears hRunner hHeld hFrame hFirst => ?clear, fun hHears hRunner => ?clearRelayed,
    fun part f tv t hHeld hSent hLate => ?resend, fun part hSent => ?noResend, fun p hHears hRunner => ?cancel,
    fun p hHears hMember hRoot hRun => ?cancelReq, fun part c t hChanges hLate hDue hRoot => ?armTimeout,
    fun down l type body hTakes hGood hTwice => ?repeated⟩
  case offer =>
    refine next_receive hHears ?_
    rw [show (s.marked k.val 0x01 m).memberOf m.scope.toNat = some p from hMember]
    exact if_neg fun h => h.2 hRun
  case relayVeto =>
    refine next_receive hHears ?_
    rw [show (s.marked k.val 0x01 m).memberOf m.scope.toNat = none from hMember]
  case replay =>
    refine next_receive hHears ?_
    dsimp only
    rw [show (relayVerdict m (passDown 0x02 m (s.marked k.val 0x02 m))).runner m.scope.toNat = some p from hRunner]
  case hold =>
    refine next_receive hHears ?_
    dsimp only
    rw [show (relayVerdict m (passDown 0x03 m (s.marked k.val 0x03 m))).runner m.scope.toNat = some p from hRunner]
  case holdRelayed =>
    refine next_receive hHears ?_
    dsimp only
    rw [show (relayVerdict m (passDown 0x03 m (s.marked k.val 0x03 m))).runner m.scope.toNat = none from hRunner]
  case clear =>
    refine next_receive hHears ?_
    dsimp only
    rw [show (s.marked k.val 0x04 m).runner m.scope.toNat = some p from hRunner]
    dsimp only
    split
    next g u hGiven =>
      cases hGiven.symm.trans (show ((s.marked k.val 0x04 m).part p).heldFrame = some (f, t) from hHeld)
      refine if_neg ?_
      exact not_or_intro (not_not_intro hFrame) fun hIn => Bool.false_ne_true (hFirst.symm.trans hIn)
    next hNone => cases hNone.symm.trans (show ((s.marked k.val 0x04 m).part p).heldFrame = some (f, t) from hHeld)
  case clearRelayed =>
    refine next_receive hHears ?_
    dsimp only
    rw [show (s.marked k.val 0x04 m).runner m.scope.toNat = none from hRunner]
  case resend =>
    refine congrArg (fun t => Host.Outcome.next (resendRelays t)) ?_
    simp only [hSent, hHeld]
    exact if_pos hLate
  case noResend =>
    refine congrArg (fun t => Host.Outcome.next (resendRelays t)) ?_
    simp only [hSent]
  case cancel =>
    refine next_receive hHears ?_
    dsimp only
    rw [show (passDown 0x0A m (s.marked k.val 0x0A m)).runner m.scope.toNat = some p from hRunner]
  case cancelReq => exact next_receive hHears (serveRequest_root hMember hRoot hRun)
  case armTimeout =>
    refine congrArg Host.Outcome.next ?_
    simp only [hChanges, List.find?_cons, hLate, decide_eq_true hDue]
    exact if_pos hRoot
  case repeated => exact receive_repeated body hTakes hGood hTwice

/-! ### Markers of pauses and Horizon marks (R50, R52, R370, R374) -/

/-- The member's own tick of a mark's frame is no longer due, and is compared with the mark. -/
theorem compareMark_of_tick {p frame step t : Nat} {s : State} {n : FrameNo} (hFrame : nearestFrame (s.part p).current frame = n)
    (hTick : ((s.part p).ticks.find? fun e => decide (e.1 = n)) = some (n, t)) :
    compareMark p frame step s =
      (let s1 := s.setPart p { s.part p with marksDue := (s.part p).marksDue.filter fun d => decide (d ≠ n) }
       if t % 2 ^ 32 = step then s1 else outOfStep p (step * 2 ^ 32 + t % 2 ^ 32) s1) := by
  unfold compareMark
  simp only [hFrame, hTick]

/-- A pending pause whose go has not been taken is cancelled by a RESUME_REQ. -/
theorem serveResume_unpauses {p : Nat} {s : State} {q : Pause} {l : List Pause} (hLimit : (s.part p).replayLimit = false)
    (hPaused : (s.part p).pausedAt = none) (hPauses : (s.part p).pauses = q :: l) (hGo : goTaken (s.part p) q.m = false)
    (hOwner : q.owner ≠ .join) : serveResume p s = rootUnpause p q.m s := by
  refine (if_neg (by rw [hLimit]; exact Bool.false_ne_true)).trans ((if_neg (by rw [hPaused]; exact Bool.false_ne_true)).trans ?_)
  split
  next r tail hGiven =>
    cases hGiven.symm.trans hPauses
    refine if_neg ?_
    exact not_or_intro (fun hTaken => Bool.false_ne_true (hGo.symm.trans hTaken)) hOwner
  next hNone => cases hNone.symm.trans hPauses

/-- Settles O28. -/
theorem pauseMarkersComplete : Obligations.PauseMarkersComplete := by
  unfold Obligations.PauseMarkersComplete
  intro k m s sc
  refine ⟨fun p hHears hRunner => ?pause, fun p hHears hRunner hPaused hStands => ?restart,
    fun p f t b d hHears hMember hRoot hRun hPaused => ?remaining, fun p hHears hMember hRoot hRun hPaused => ?newPause,
    fun p hHears hMember hRoot => ?passed, fun p hHears hMember hRoot hRun hLimit hPaused => ?resume,
    fun p q l hHears hMember hRoot hRun hLimit hPaused hPauses hGo hOwner => ?unpause,
    fun p f t b d hHears hMember hRoot hRun hPaused => ?step, fun p hHears hMember hRoot hRun hLimit => ?limit,
    fun scope frame step crc hTakes hCrc => ?badMark, fun scope frame step hTakes => ?codedMark,
    fun scope frame step crc p hTakes hCrc hMember hRun hBearing => ⟨?mark, fun n t hFrame hTick => compareMark_of_tick hFrame hTick⟩⟩
  case pause =>
    refine next_receive hHears ?_
    dsimp only
    rw [show (passDown 0x05 m (s.marked k.val 0x05 m)).runner m.scope.toNat = some p from hRunner]
  case restart =>
    refine next_receive hHears ?_
    dsimp only
    rw [show (passDown 0x06 m (s.marked k.val 0x06 m)).runner m.scope.toNat = some p from hRunner]
    refine if_neg fun h => h.elim (fun hNone => ?_) fun hYes => Bool.false_ne_true (hStands.symm.trans hYes)
    rw [Option.isNone_iff_eq_none.mp hNone] at hPaused
    cases hPaused
  case remaining =>
    refine next_receive hHears ((serveRequest_root hMember hRoot hRun).trans ?_)
    simp only [servePause, show ((s.marked k.val 0x07 m).part p).pausedAt = some (f, t, b, d) from hPaused]
    rfl
  case newPause =>
    refine next_receive hHears ((serveRequest_root hMember hRoot hRun).trans ?_)
    simp only [servePause, show ((s.marked k.val 0x07 m).part p).pausedAt = none from hPaused]
    rfl
  case passed => exact next_receive hHears (serveRequest_up hMember hRoot)
  case resume =>
    refine next_receive hHears ((serveRequest_root hMember hRoot hRun).trans ?_)
    exact (if_neg (by rw [show ((s.marked k.val 0x08 m).part p).replayLimit = false from hLimit]; exact Bool.false_ne_true)).trans (if_pos hPaused)
  case unpause =>
    refine next_receive hHears ((serveRequest_root hMember hRoot hRun).trans ?_)
    exact serveResume_unpauses hLimit hPaused hPauses hGo hOwner
  case step =>
    refine next_receive hHears ((serveRequest_root hMember hRoot hRun).trans ?_)
    simp only [serveStep, show ((s.marked k.val 0x09 m).part p).pausedAt = some (f, t, b, d) from hPaused]
    rfl
  case limit =>
    refine next_receive hHears ((serveRequest_root hMember hRoot hRun).trans ?_)
    exact if_pos hLimit
  case badMark =>
    refine congrArg Host.Outcome.next ?_
    simp only [hTakes, Option.getD_some, sequenceCheck_bad (coded := (some crc).isNone) rfl hCrc]
    rfl
  case codedMark =>
    refine congrArg Host.Outcome.next ?_
    simp only [hTakes]
    rfl
  case mark =>
    refine congrArg Host.Outcome.next ?_
    simp only [hTakes, Option.getD_some, sequenceCheck_good (coded := (some crc).isNone) rfl hCrc, hMember, hBearing, List.foldl_nil,
      runner_of_member hMember hRun]
    rfl

end Sys2Proof.Machine

namespace Sys2Proof.Machine

/-! ### Markers of a Start (R368, R369) -/

/-- Settles O29. -/
theorem startMarkersComplete : Obligations.StartMarkersComplete := by
  unfold Obligations.StartMarkersComplete
  intro k m s sc
  refine ⟨fun p hHears hMember hStarting hUp => ?measure, fun hHears => next_receive hHears rfl, fun hHears => next_receive hHears rfl,
    fun p hHears hMember hRoot hIdle => ?startReq, fun p hHears hMember hStarting => ?params, fun hHears => next_receive hHears rfl,
    fun p hHears hMember hStarting => ?start, fun hHears hRoot hStart => ?fail, fun hHears hRoot => ?failUp,
    fun hHears => next_receive hHears rfl, fun part q t hSeq hAt hRoot hIdle hUnset hLate => ?timeout⟩
  case measure =>
    refine next_receive hHears ?_
    have hNoRun : ((s.marked k.val 0x0C m).part p).st ≠ .running := by rw [hStarting]; decide
    simp only [show (s.marked k.val 0x0C m).memberOf m.scope.toNat = some p from hMember, decide_eq_false hNoRun,
      show ((s.marked k.val 0x0C m).startSeq m.scope.toNat).sentUp = false from hUp]
    rfl
  case startReq =>
    refine next_receive hHears ?_
    dsimp only
    rw [show (s.marked k.val 0x0F m).memberOf m.scope.toNat = some p from hMember]
    exact (if_pos hRoot).trans (if_neg hIdle)
  case params =>
    refine next_receive hHears ?_
    dsimp only
    rw [show (passDown 0x10 m (s.marked k.val 0x10 m)).memberOf m.scope.toNat = some p from hMember]
    exact if_neg (not_not_intro hStarting)
  case start =>
    refine next_receive hHears ?_
    dsimp only
    rw [show (passDown 0x12 m (s.marked k.val 0x12 m)).memberOf m.scope.toNat = some p from hMember]
    exact if_pos hStarting
  case fail => exact next_receive hHears ((if_pos hRoot).trans (if_pos hStart))
  case failUp => exact next_receive hHears (if_neg (by rw [hRoot]; exact Bool.false_ne_true))
  case timeout =>
    refine congrArg Host.Outcome.next ?_
    simp only [hSeq, hAt]
    exact if_pos ⟨hRoot, hIdle, Option.isNone_iff_eq_none.mpr hUnset, hLate⟩

/-! ### Training and calibration of a lane (R120, R133, R141, R146, R155) -/

/-- The lane's owner checks a CAL block, and one that fails refuses. -/
theorem calBlock_fails {lane : Fin 144} {payload : U64} {s : State} {p k : Nat} (hPort : lane.val < 128) (hCal : (s.lane lane.val).st = .calibrate)
    (hOpen : (s.lane lane.val).calDone = false) (hOwner : s.laneOwner lane.val = some p)
    (hCheck : calCheck (s.part p) s.arm.addr.toNat lane.val payload.toNat = some k) :
    execCalBlock lane payload s = .next (settleLane lane.val (calFail lane.val k (payload.toNat / 2 ^ 48) s)) := by
  refine congrArg Host.Outcome.next ((if_neg ?_).trans ?_)
  · simp [hCal, hOpen, Nat.not_le.mpr hPort]
  · simp only [hOwner, hCheck]

/-- A CAL block that passes is measured. -/
theorem calBlock_measures {lane : Fin 144} {payload : U64} {s : State} {p : Nat} (hPort : lane.val < 128)
    (hCal : (s.lane lane.val).st = .calibrate) (hOpen : (s.lane lane.val).calDone = false) (hOwner : s.laneOwner lane.val = some p)
    (hCheck : calCheck (s.part p) s.arm.addr.toNat lane.val payload.toNat = none) :
    execCalBlock lane payload s = .next (settleLane lane.val (finishCal lane.val (s.setLane lane.val { s.lane lane.val with
      calN := (s.lane lane.val).calN + 1
      calMax := if (s.lane lane.val).calN < 256 then max (s.lane lane.val).calMax ((s.cnt + 65536 - payload.toNat % 65536) % 65536)
        else (s.lane lane.val).calMax
      peerAddr := BitVec.ofNat 16 (payload.toNat / 2 ^ 48) }))) := by
  refine congrArg Host.Outcome.next ((if_neg ?_).trans ?_)
  · simp [hCal, hOpen, Nat.not_le.mpr hPort]
  · simp only [hOwner, hCheck]

/-- A CALB block of the scope and of this device's own build passes without an override. -/
theorem calbBlock_own {lane : Fin 144} {payload : U64} {s : State} {p : Nat} (hPort : lane.val < 128)
    (hCal : (s.lane lane.val).st = .calibrate) (hOwner : s.laneOwner lane.val = some p)
    (hScope : natBits payload.toNat 43 5 = (s.part p).scope16 / 2048) (hBic : payload.extractLsb' 48 16 = s.ident.bic) :
    execCalbBlock lane payload s = .next (settleLane lane.val (finishCal lane.val (s.setLane lane.val { s.lane lane.val with
      calbSeen := true, bicOk := true }))) := by
  refine congrArg Host.Outcome.next ((if_neg ?_).trans ?_)
  · simp [hCal, Nat.not_le.mpr hPort]
  · simp [hOwner, hScope, hBic]

/-- Settles O30. -/
theorem laneTrainingComplete : Obligations.LaneTrainingComplete := by
  unfold Obligations.LaneTrainingComplete
  intro lane s
  dsimp only
  refine ⟨fun hTrain => ?converged, fun hNotUp hNotAlt hHunt hAwake hLate => ?hunt, fun hTrain hLate => ?trainEq,
    fun hHunt hWaking hLate => ?relock, fun payload hBlock hUp hRx hFew => ?rxLock, fun payload hBlock hUp hRx hMany => ?ready,
    fun payload hBlock hUp hRx => ?noRx, fun payload p hPort hCal hOpen hOwner hCheck => calBlock_measures hPort hCal hOpen hOwner hCheck,
    fun payload p k hPort hCal hOpen hOwner hCheck => calBlock_fails hPort hCal hOpen hOwner hCheck,
    fun payload p hPort hCal hOwner hScope hBic => calbBlock_own hPort hCal hOwner hScope hBic, fun hCal hAt => ?resume⟩
  case converged => exact congrArg Host.Outcome.next (if_neg (not_not_intro hTrain))
  case hunt =>
    refine congrArg Host.Outcome.next (if_neg ?_)
    rintro (h | h | h | h | h)
    · exact hNotUp h
    · exact hNotAlt h
    · exact h hHunt
    · exact Bool.false_ne_true (hAwake.symm.trans h)
    · exact Nat.not_lt.mpr hLate h
  case trainEq => exact congrArg Host.Outcome.next (if_neg (not_or_intro (not_not_intro hTrain) (Nat.not_lt.mpr hLate)))
  case relock =>
    refine congrArg Host.Outcome.next (if_neg (not_or_intro (not_not_intro hHunt) (not_or_intro ?_ (Nat.not_lt.mpr hLate))))
    rw [hWaking]
    exact Bool.false_ne_true
  case rxLock =>
    refine congrArg Host.Outcome.next ((if_neg (Nat.not_le.mpr hBlock)).trans ?_)
    simp only [hUp, hRx]
    exact (if_neg Bool.false_ne_true).trans (if_pos (by omega))
  case ready =>
    refine congrArg Host.Outcome.next ((if_neg (Nat.not_le.mpr hBlock)).trans ?_)
    simp only [hUp, hRx]
    exact (if_neg Bool.false_ne_true).trans (if_neg (by omega))
  case noRx =>
    refine congrArg Host.Outcome.next ((if_neg (Nat.not_le.mpr hBlock)).trans ?_)
    simp only [hUp, hRx]
    rfl
  case resume => exact congrArg Host.Outcome.next (if_neg (not_or_intro (not_not_intro hCal) (not_not_intro hAt)))

/-! ### Blocks, requests, sleep and injection on a lane (R117, R133, R147, R152, R153, R155) -/

/-- A legal retrain request on a lane that carries no data, with no change of the link under way, is followed. -/
theorem lreqBlock_retrain {lane : Fin 144} {payload : U64} {s : State} (hBlock : lane.val < 136) (hLock : (s.lane lane.val).lock = true)
    (hOp : payload.toNat / 2 ^ 60 = 1) (hWidth : natBits payload.toNat 56 4 = 0) (hIdle : (s.lane lane.val).st ≠ .active)
    (hFollow : (s.blink (linkOf lane.val)).follow = none) (hReq : (s.blink (linkOf lane.val)).req = none) :
    execLreqBlock lane payload s = .next (followRequest (linkOf lane.val) lane.val
      { op := 1, width := 0, lanes := payload.extractLsb' 48 8, seq := payload.extractLsb' 32 16
        start := nearestStep16 s.cnt (payload.toNat % 65536), tries := 0, acked := true, begun := false, ctx := none } s) := by
  have hServed : ¬ (136 ≤ lane.val ∨ (!(s.lane lane.val).lock) = true) := by simp [hLock, Nat.not_le.mpr hBlock]
  unfold execLreqBlock
  simp only [hOp, hWidth, hFollow, if_neg hIdle, hReq]
  refine congrArg Host.Outcome.next ((if_neg ?_).trans (if_neg Bool.false_ne_true))
  rintro (h | h | h)
  · exact hServed (.inl h)
  · exact hServed (.inr h)
  · exact absurd h (by decide)

/-- An acknowledged request that stands at its START begins. -/
theorem changeStart_req {link : Fin 17} {r : LinkReq} {s : State} (hReq : (s.blink link.val).req = some r) (hAcked : r.acked = true)
    (hNew : r.begun = false) (hStart : r.start = s.cnt)
    (hFollow : ((applyChangeAt link.val r (s.setBlink link.val { s.blink link.val with req := some { r with begun := true } })).blink
      link.val).follow = none) :
    execLaneChangeStart link s = .next (settleLink link.val
      (applyChangeAt link.val r (s.setBlink link.val { s.blink link.val with req := some { r with begun := true } }))) := by
  have hDue : (r.acked && !r.begun && decide (r.start = s.cnt)) = true := by simp [hAcked, hNew, hStart]
  unfold execLaneChangeStart
  simp only [hReq, if_pos hDue, hFollow]

/-- Settles O31. -/
theorem laneBlocksComplete : Obligations.LaneBlocksComplete := by
  unfold Obligations.LaneBlocksComplete
  intro lane s
  dsimp only
  refine ⟨fun b hBlock hOff => ?off, fun b hBlock hPattern hChk => ?pattern, fun b hBlock hHunt => ?hunt, fun b hBlock hLocked => ?locked,
    fun b hCtl => ?control, fun payload hBlock hLock hOp hWidth hIdle hFollow hReq => lreqBlock_retrain hBlock hLock hOp hWidth hIdle hFollow hReq,
    fun payload r hBlock hReq hSeq hAcked => ?lack, fun link r hReq hAcked hLate hTries => ?again, fun link r hReq hAcked hLate hTries => ?noPeer,
    fun link r hReq hAcked hNew hStart hFollow => changeStart_req hReq hAcked hNew hStart hFollow,
    fun link r hReq hFollow hAcked hNew hStart => ?followStart, fun payload hBlock hLock => ?sleepBlock,
    fun hSilent hPeer hAwake => ?ownSilent, fun hSilent hPeer hAwake => ?peerSilent, fun len pos hInject => ?inject⟩
  case off =>
    refine congrArg (fun t => Host.Outcome.next (settleLane lane.val t)) ((if_neg (Nat.not_le.mpr hBlock)).trans ?_)
    rcases hOff with h | h | h | h <;> rw [h]
  case pattern =>
    refine congrArg (fun t => Host.Outcome.next (settleLane lane.val t)) ((if_neg (Nat.not_le.mpr hBlock)).trans ?_)
    simp only [hPattern]
    exact if_neg hChk
  case hunt =>
    refine congrArg (fun t => Host.Outcome.next (settleLane lane.val t)) ((if_neg (Nat.not_le.mpr hBlock)).trans ?_)
    simp only [hHunt]
  case locked =>
    refine congrArg (fun t => Host.Outcome.next (settleLane lane.val t)) ((if_neg (Nat.not_le.mpr hBlock)).trans ?_)
    rcases hLocked with h | h | h | h <;> simp only [h]
  case control => exact congrArg (fun t => Host.Outcome.next (settleLane lane.val t)) (if_pos hCtl)
  case lack =>
    refine congrArg Host.Outcome.next ((if_neg (Nat.not_le.mpr hBlock)).trans ?_)
    simp only [hReq]
    exact if_pos ⟨hSeq, by rw [hAcked]; rfl⟩
  case again =>
    refine congrArg Host.Outcome.next ?_
    simp only [hReq]
    exact (if_neg (not_or_intro (by rw [hAcked]; exact Bool.false_ne_true) (Nat.not_lt.mpr hLate))).trans (if_pos (by omega))
  case noPeer =>
    refine congrArg Host.Outcome.next ?_
    simp only [hReq]
    exact (if_neg (not_or_intro (by rw [hAcked]; exact Bool.false_ne_true) (Nat.not_lt.mpr hLate))).trans (if_neg (by omega))
  case followStart =>
    have hDue : (r.acked && !r.begun && decide (r.start = s.cnt)) = true := by simp [hAcked, hNew, hStart]
    refine congrArg (fun t => Host.Outcome.next (settleLink link.val t)) ?_
    simp only [hReq, hFollow]
    exact if_pos hDue
  case sleepBlock =>
    refine congrArg Host.Outcome.next (if_neg (not_or_intro (Nat.not_le.mpr hBlock) ?_))
    rw [hLock]
    exact Bool.false_ne_true
  case ownSilent =>
    refine congrArg Host.Outcome.next ?_
    simp [hSilent, hPeer,
      hAwake]
  case peerSilent =>
    refine congrArg Host.Outcome.next ?_
    simp [hSilent, hPeer,
      hAwake]
  case inject =>
    refine congrArg Host.Outcome.next ?_
    simp only [hInject]
    exact if_pos trivial

end Sys2Proof.Machine

namespace Sys2Proof.Machine

/-! ### Messages of the pendant link (R281, R298 to R304) -/

/-- A paired device is neither UNPAIRED nor PAIRING. -/
theorem paired_iff {s : State} : s.paired = true ↔ s.pend.st ≠ .unpaired ∧ s.pend.st ≠ .pairing := by
  simp [State.paired]

/-- A device that pairs is not paired yet. -/
theorem not_paired_of_pairing {s : State} (h : s.pend.st = .pairing) : s.paired = false := by
  simp [State.paired, h]

/-- Before 256 heartbeats a pairing measures on. -/
theorem pairingHb_measures {lat : Nat} {s : State} (h : s.pend.latN < 255) :
    pairingHb lat s = { s with pend := { s.pend with lat := lat, latN := s.pend.latN + 1, latMax := max s.pend.latMax lat } } :=
  if_pos (by omega)

/-- The heartbeat's effect in a device that pairs. -/
theorem pendantHb_pairing {payload : U64} {s : State} (hPairing : s.pend.st = .pairing) (hStep : s.pairStepNo = 2) :
    execPendantHb payload s = .next (pairingHb ((s.cnt + 65536 - payload.toNat / 2 ^ 48) % 65536) s) :=
  congrArg Host.Outcome.next ((if_neg (by rw [hPairing]; decide)).trans ((if_pos hPairing).trans (if_neg (not_not_intro hStep))))

/-- A HELLO of the other side and of this device's own build is judged by its chain and signature alone. -/
theorem pairHello_own {side : Bool} {equiv : List U16} {chain : List Byte} {nonce : BitVec 256} {pub : List Byte} {sig : BitVec 768} {s : State}
    (hPairing : s.pend.st = .pairing) (hStep : s.pairStepNo = 2 ∨ s.pairStepNo = 3) (hFirst : s.pend.heard = none) (hSide : side ≠ s.ident.pendSide) :
    execPairHello side s.ident.bic equiv chain nonce pub sig s = .next
      (let bytes := helloBytes side s.ident.bic equiv chain nonce pub
       if Config.helloOk chain ((if s.ident.pendSide then [] else s.ownHello) ++ bytes) sig then
         (let s2 := derivePair side nonce pub { s with pend := { s.pend with heard := some bytes, pbic := s.ident.bic } }
          if s.pairStepNo = 2 then s2 else if s.ident.pendSide then sendKeychk (sendHello s2) else sendKeychk s2)
       else failPair St.pairAuth (secEvent 4 0xFF 0xFF 0xD 0 0 s)) := by
  have hOpen : ¬ (s.pend.st ≠ .pairing ∨ (!decide (s.pairStepNo = 2 ∨ s.pairStepNo = 3)) = true ∨ s.pend.heard.isSome = true) := by
    simp [hPairing, hStep, hFirst]
  have hSame : bicUnion s.ident.bic s.ident.equiv s.ident.bic equiv = true := by simp [bicUnion]
  refine congrArg Host.Outcome.next ((if_neg hOpen).trans ((if_neg hSide).trans ?_))
  by_cases hOk : Config.helloOk chain ((if s.ident.pendSide then [] else s.ownHello) ++ helloBytes side s.ident.bic equiv chain nonce pub) sig = true
  · refine (if_neg (by simp [hOk])).trans ((if_neg (by simp [hSame])).trans (.trans ?_ (if_pos hOk).symm))
    simp only [hSame, ↓reduceIte]
    rfl
  · exact (if_pos (by simpa using hOk)).trans (if_neg hOk).symm

/-- At a heartbeat's step a device that pairs sends its HB alone. -/
theorem heartbeatSend_pairing {s : State} (hPairing : s.pend.st = .pairing) (hPll : s.clk.pll = true) (hStep : s.cnt % 4096 = 0) :
    execPendantHeartbeatSend s = .next (sendPendant 1 (BitVec.ofNat 64
      (pairCode s.pend.st * 2 ^ 44 + s.pend.role * 2 ^ 42 + bitNat s.pend.tagOk * 2 ^ 41)) s) := by
  have hRuns : ¬ (s.pend.st = .unpaired ∨ (!s.clk.pll) = true) := by simp [hPairing, hPll]
  have hNoStamp : s.cnt % 65536 ≠ 2048 := by omega
  refine congrArg Host.Outcome.next ((if_neg hRuns).trans ((if_neg hNoStamp).trans ((if_neg (not_not_intro hStep)).trans ?_)))
  simp only [not_paired_of_pairing hPairing]
  rfl

/-- At its step in 65,536 a paired device owes a STAMP. -/
theorem heartbeatSend_stamp {s : State} (hPaired : s.paired = true) (hPll : s.clk.pll = true) (hStep : s.cnt % 65536 = 2048) :
    execPendantHeartbeatSend s = .next { s with pend := { s.pend with stampDue := true } } := by
  have hRuns : ¬ (s.pend.st = .unpaired ∨ (!s.clk.pll) = true) := by simp [(paired_iff.mp hPaired).1, hPll]
  exact congrArg Host.Outcome.next ((if_neg hRuns).trans ((if_pos hStep).trans (if_pos hPaired)))

/-- Settles O32. -/
theorem pendantLinkComplete : Obligations.PendantLinkComplete := by
  unfold Obligations.PendantLinkComplete
  refine fun s => ⟨fun payload hPaired => ?hb, fun payload hPairing hStep => ⟨fun hFew => ?measures, fun hAll hSlow => ?tooSlow, fun hAll hFast => ?goesOn⟩,
    fun tag hPaired hAuth => ?tag, fun words hPaired hAuth => ?held, fun words hPaired => ?atOnce, fun addr data hPaired hAuth => ?units,
    fun payload => rfl, fun bic equiv chain nonce pub sig hPairing hStep hFirst => ?sameSide,
    fun side equiv chain nonce pub sig hPairing hStep hFirst hSide => pairHello_own hPairing hStep hFirst hSide,
    fun hPairing hStep => ?keychk, fun v hPairing hStep hDiffer => ?badKeychk, fun c o t n hPair hPeer hLate => ?noPeer,
    fun hPairing hPll hStep => heartbeatSend_pairing hPairing hPll hStep, fun hPaired hPll hStep => heartbeatSend_stamp hPaired hPll hStep⟩
  case hb =>
    obtain ⟨hUnpaired, hPairing⟩ := paired_iff.mp hPaired
    exact congrArg Host.Outcome.next ((if_neg hUnpaired).trans (if_neg hPairing))
  case measures => exact (pendantHb_pairing hPairing hStep).trans (congrArg Host.Outcome.next (pairingHb_measures hFew))
  case tooSlow =>
    exact (pendantHb_pairing hPairing hStep).trans (congrArg Host.Outcome.next ((if_neg (by omega)).trans (if_pos hSlow)))
  case goesOn =>
    exact (pendantHb_pairing hPairing hStep).trans (congrArg Host.Outcome.next ((if_neg (by omega)).trans (if_neg (Nat.not_lt.mpr hFast))))
  case tag => exact congrArg Host.Outcome.next (if_neg (by simp [hPaired, hAuth]))
  case held => exact congrArg Host.Outcome.next (if_pos ⟨hPaired, hAuth⟩)
  case atOnce => exact congrArg Host.Outcome.next (if_neg (by simp [hPaired]))
  case units => exact congrArg Host.Outcome.next (if_pos ⟨hPaired, hAuth⟩)
  case sameSide => exact congrArg Host.Outcome.next ((if_neg (by simp [hPairing, hStep, hFirst])).trans (if_pos rfl))
  case keychk => exact congrArg Host.Outcome.next ((if_neg (by simp [hPairing, hStep])).trans (if_pos rfl))
  case badKeychk => exact congrArg Host.Outcome.next ((if_neg (by simp [hPairing, hStep])).trans (if_neg hDiffer))
  case noPeer =>
    refine congrArg Host.Outcome.next ?_
    simp only [hPair]
    exact if_pos ⟨Option.isNone_iff_eq_none.mpr hPeer, hLate⟩

/-! ### Resynchronisation and joins (R313 to R316, Tables 14.5 and 14.6) -/

/-- The peer has been silent for 65,536 steps. -/
theorem silent_of_late {s : State} (h : s.pend.hbAt + 65536 ≤ s.clk.now) :
    ¬ (!(decide (s.pend.hbAt + 65536 ≤ s.clk.now) || (s.healthy 16).isEmpty)) = true := by
  simp [h]

/-- A twin with a standby or a newcomer that hears its peer no more: what its role makes of it. -/
theorem peerLost_joined {s : State} (hLate : s.pend.hbAt + 65536 ≤ s.clk.now)
    (hSt : s.pend.st = .standby ∨ s.pend.st = .copy ∨ s.pend.st = .joining) :
    execPeerLost s = .next (if s.pend.role = 1 then loseStandby s
      else if s.pend.join.isSome || decide (s.pend.st = .joining) then
        (let t := fenceSelf 4 (undoJoin s); { t with pend := { t.pend with noTake := true } })
      else losePeer 4 s) := by
  refine congrArg Host.Outcome.next ((if_neg (silent_of_late hLate)).trans ?_)
  split
  case h_1 | h_2 | h_3 => rfl
  case h_4 h => rw [h] at hSt; exact absurd hSt (by decide)
  case h_5 hStandby hCopy hJoining _ => exact absurd hSt (not_or_intro hStandby (not_or_intro hCopy hJoining))

/-- A phase of the carrier's join that fails ends the join. -/
theorem joinPhase_failed {ph : Nat} {j : FrameNo} {ref : Nat} {s : State} (hJoin : s.pend.join = some (ph, j, ref)) (hRole : s.pend.role = 1)
    (hPhase : ph < 6) : execJoinPhaseComplete false s = .next (failResync ph .standby (sendMessage msgFailed [ph] s)) := by
  refine congrArg Host.Outcome.next ?_
  simp only [hJoin]
  exact (if_neg (not_or_intro (not_not_intro hRole) (Nat.not_le.mpr hPhase))).trans (if_pos rfl)

/-- Settles O33. -/
theorem resyncComplete : Obligations.ResyncComplete := by
  unfold Obligations.ResyncComplete
  refine fun s => ⟨fun hLate hSt => ⟨fun hRole => ?carrier, fun hRole hJoin hNew => ?standby, fun hRole hJoins => ?newcomer⟩,
    fun hLate hSt => ?independent, fun hResync hJoin => ?alone, fun r hResync hJoin => ?resyncing, fun ph j ref hJoin => ?joining,
    fun j a rest hMirror => ?poisoned, fun j a b rest hMirror hLen => ?line, fun j a b rest hMirror hBytes hLen => ?word,
    fun ref hResync hRole hBulk hMirror hLoaded hUp => ?copied, fun ph j ref hJoin hRole hPhase => joinPhase_failed hJoin hRole hPhase,
    fun j ref hJoin hRole hPaused => ?paused, fun j ref hJoin hRole hPaused hSettled hMirror hBulk hCast => ?settled,
    fun j ref hJoin hRole hBulk => ?sent, fun j ref hJoin hRole hVerified => ?verified⟩
  case carrier => exact (peerLost_joined hLate hSt).trans (congrArg Host.Outcome.next (if_pos hRole))
  case standby =>
    exact (peerLost_joined hLate hSt).trans (congrArg Host.Outcome.next ((if_neg hRole).trans (if_neg (by simp [hJoin, hNew]))))
  case newcomer =>
    refine (peerLost_joined hLate hSt).trans (congrArg Host.Outcome.next ((if_neg hRole).trans (if_pos ?_)))
    simpa [Option.isSome_iff_ne_none] using hJoins
  case independent =>
    refine congrArg Host.Outcome.next ((if_neg (silent_of_late hLate)).trans ?_)
    simp only [hSt]
  case alone => exact if_neg (by simp [hResync, hJoin])
  case resyncing =>
    refine (if_pos (.inl (by rw [hResync]; rfl))).trans ?_
    simp only [hJoin]
  case joining =>
    refine (if_pos (.inr (by rw [hJoin]; rfl))).trans ?_
    simp only [hJoin]
  case poisoned =>
    refine congrArg Host.Outcome.next ?_
    simp only [hMirror]
    rfl
  case line =>
    refine congrArg Host.Outcome.next ?_
    simp only [hMirror]
    exact (if_neg (by rintro rfl; exact absurd hLen (by decide))).trans (if_pos hLen)
  case word =>
    refine congrArg Host.Outcome.next ?_
    simp only [hMirror]
    exact (if_neg hBytes).trans (if_neg hLen)
  case copied =>
    refine congrArg Host.Outcome.next ?_
    simp only [hResync]
    exact if_neg (by simp [hRole, hBulk, hMirror, hLoaded, hUp])
  case paused =>
    refine congrArg Host.Outcome.next ?_
    simp only [hJoin]
    exact (if_neg (by simp [hRole])).trans ((if_neg (by decide)).trans ((if_pos trivial).trans (if_pos hPaused)))
  case settled =>
    refine congrArg Host.Outcome.next ?_
    simp only [hJoin]
    refine (if_neg (by simp [hRole])).trans ((if_neg (by decide)).trans ((if_neg (by decide)).trans ((if_pos trivial).trans (if_pos ?_))))
    simp [hPaused, hMirror, hBulk, hCast, List.all_eq_true.mpr hSettled]
  case sent =>
    refine congrArg Host.Outcome.next ?_
    simp only [hJoin]
    exact (if_neg (by simp [hRole])).trans ((if_neg (by decide)).trans ((if_neg (by decide)).trans ((if_neg (by decide)).trans
      ((if_neg (by decide)).trans ((if_pos trivial).trans (if_pos (by rw [hBulk]; rfl)))))))
  case verified =>
    refine congrArg Host.Outcome.next ?_
    simp only [hJoin]
    exact (if_neg (by simp [hRole])).trans ((if_neg (by decide)).trans ((if_neg (by decide)).trans ((if_neg (by decide)).trans
      ((if_neg (by decide)).trans ((if_neg (by decide)).trans (if_pos hVerified))))))

end Sys2Proof.Machine

namespace Sys2Proof.Machine

/-! ### DRAM events (R104, R224, R235, R237 to R243) -/

/-- A read of a line that is installed has its effect; one beyond the capacity faults. -/
theorem dramReadComplete_installed {line : Nat} {req : Byte} {s : State} (hOk : s.dram.ok = true) (hLine : line < s.dataLines * 8) :
    execDramReadComplete line req s =
      if req = 7 then .next (eachPart (fun p a => answerLine p line a) s) else .next (eccLost (eccRead s line) line) :=
  (if_neg (by simp [hOk])).trans (if_neg (Nat.not_le.mpr hLine))

/-- A refresh of a rank that is installed: postponed while its bank is busy, at most four times, else issued. -/
theorem refreshInterval_served {ch : Fin 8} {rank : Fin 4} {bank : Fin 32} {s : State} (hOk : s.dram.ok = true) (hAwake : s.dram.selfRefresh = false)
    (hRank : rank.val < s.dram.ranks) (busy : Bool) :
    execRefreshInterval ch rank bank busy s = .next
      (let k := bankKey ch.val rank.val bank.val
       let b : BankSt := smGet {} s.dram.banks k
       if busy ∧ b.postponed < 4 then { s with dram := { s.dram with banks := smSet {} s.dram.banks k { b with postponed := b.postponed + 1 } } }
       else ({ s with dram := { s.dram with banks := smSet {} s.dram.banks k { b with postponed := 0, row := none } } } : State).emit
         (.refresh ch.val rank.val bank.val)) :=
  congrArg Host.Outcome.next (if_neg (by simp [hOk, hAwake, Nat.not_le.mpr hRank]))

/-- Settles O34. -/
theorem dramEventsComplete : Obligations.DramEventsComplete := by
  unfold Obligations.DramEventsComplete
  refine fun s => ⟨fun pcl port r p q hPart hReq hTag hHolds => ?response,
    fun line req hOk hLine => ⟨fun hReq => (dramReadComplete_installed hOk hLine).trans (if_neg hReq),
      fun hReq => (dramReadComplete_installed hOk hLine).trans (if_pos hReq)⟩,
    fun line req hOk hBeyond => (if_neg (by simp [hOk])).trans (if_pos hBeyond),
    fun line hOk hBeyond => (if_neg (by simp [hOk])).trans (if_pos hBeyond),
    fun line e b t hOk hLine hEntry hData => ?fetched, fun e hEntry hCoast => ?written, fun ch m hMigr hStarted hMoves hMark => ?line,
    fun ch m hMigr hStarted hMark => ?complete,
    fun ch rank bank hOk hAwake hRank => ⟨fun hFew => ?postponed, fun hMany => ?forced, ?issued⟩,
    fun ch dimm t => rfl, fun ch hOk hAwake hLines => ?patrol⟩
  case response =>
    refine congrArg Host.Outcome.next ?_
    simp only [hPart, hReq, hTag, hHolds]
    rfl
  case fetched =>
    refine (if_neg (by simp [hOk])).trans ((if_neg (Nat.not_le.mpr hLine)).trans (congrArg Host.Outcome.next ?_))
    simp only [hEntry, hData]
  case written =>
    refine congrArg Host.Outcome.next ?_
    simp only [hEntry]
    exact if_neg (by rw [hCoast]; exact Bool.false_ne_true)
  case line =>
    refine congrArg Host.Outcome.next ?_
    simp only [hMigr]
    exact if_neg (by simp [hStarted, hMoves, Nat.not_le.mpr hMark])
  case complete =>
    refine congrArg Host.Outcome.next ?_
    simp only [hMigr]
    exact if_pos ⟨hStarted, hMark⟩
  case postponed => exact (refreshInterval_served hOk hAwake hRank true).trans (congrArg Host.Outcome.next (if_pos ⟨rfl, hFew⟩))
  case forced => exact (refreshInterval_served hOk hAwake hRank true).trans (congrArg Host.Outcome.next (if_neg fun h => Nat.not_lt.mpr hMany h.2))
  case issued => exact (refreshInterval_served hOk hAwake hRank false).trans (congrArg Host.Outcome.next (if_neg fun h => Bool.false_ne_true h.1))
  case patrol => exact congrArg Host.Outcome.next (if_neg (by simp [hOk, hAwake, hLines]))

/-! ### The network and forward progress (R21, R99, R284 to R296, R440) -/

/-- A packet that has won its input at a router leaves the neighbour's buffer, is dropped, goes on, or waits. -/
theorem nocHeaderArrival_granted {r : Fin 36} {i : Fin 11} {h : NocHeader} {n : Nat} {s : State} (hRuns : s.nocRuns = true) (hMesh : i.val < 4)
    (hNeighbour : hasNeighbour r.val i.val = true) (hGranted : s.granted (neighbourRouter r.val i.val) (oppositePort i.val) h = true) :
    execNocHeaderArrival r i h n s = .next
      (let s1 := leaveBuffer (neighbourRouter r.val i.val) (oppositePort i.val) h s
       if hdrBad h then dropHeader r.val i.val h s1 else if s.mayForward r.val h n then forwardHeader r.val i.val h n s1 else s) :=
  congrArg Host.Outcome.next ((if_neg (by simp [hRuns])).trans ((if_pos hMesh).trans (if_neg (by simp [hNeighbour, hGranted]))))

/-- What an agent of this die brings is dropped, sent on, or waits. -/
theorem nocHeaderArrival_agent {r : Fin 36} {i : Fin 11} {h : NocHeader} {n : Nat} {s : State} (hRuns : s.nocRuns = true) (hAgent : 4 ≤ i.val) :
    execNocHeaderArrival r i h n s = .next
      (if hdrBad h then dropHeader r.val i.val h s
       else if s.maySend r.val i.val h && s.mayForward r.val h n then forwardHeader r.val i.val h n (sendPacket r.val h s) else s) :=
  congrArg Host.Outcome.next ((if_neg (by simp [hRuns])).trans (if_neg (Nat.not_lt.mpr hAgent)))

/-- A packet that has won its output and stands where it is consumed. -/
theorem nocPacketConsumed_granted {r : Fin 36} {port : Fin 7} {h : NocHeader} {w : List (BitVec 72 × CheckOutcome)} {s : State}
    (hRuns : s.nocRuns = true) (hGranted : s.granted r.val (portOf port.val) h = true) (hEnd : atEndpoint r.val port.val h w = true) :
    execNocPacketConsumed r port h w s = .next
      (let s1 := leaveBuffer r.val (portOf port.val) h s
       if hdrBad h then dropHeader r.val (portOf port.val) h s1
       else
         let s2 := checkPayload r.val (portOf port.val) h w s1
         if (wordsWith .uncorr w).isEmpty then
           let s3 := deliverPayload r.val port.val h (w.map (·.1)) (countIn (ejectedAt r.val port.val h) h s2)
           if answers h then nocAnswer h s3 else s3
         else s2) :=
  congrArg Host.Outcome.next (if_neg (by simp [hRuns, hGranted, hEnd]))

/-- A time that is given lies a delay or more before now. -/
theorem any_late {o : Option Nat} {t delay now : Nat} (h : o = some t) (hLate : t + delay ≤ now) :
    (o.any fun t => decide (t + delay ≤ now)) = true := by
  simp [h, hLate]

/-- A queue of a function that has stayed full for 10 ms stops its fetches. -/
theorem hostStall_late {fn : Fin 16} {ev : Bool} {t : Nat} {s : State} (hFull : (s.fn fn.val).full ev = some t) (hFn : s.fnExists fn.val = true)
    (hEnabled : (s.fn fn.val).enable = true) (hNew : (s.fn fn.val).hostStall = false) (hLate : t + usSteps 10000 ≤ s.noc.cyc) :
    execHostStall fn s = .next (logRec { cause := St.hostStall, sub := 0xB, sev := 5, loc := fn.val }
      (s.setFn fn.val { s.fn fn.val with hostStall := true })) := by
  have hOver : (((s.fn fn.val).full ev).any fun t => decide (t + usSteps 10000 ≤ s.noc.cyc)) = true := any_late hFull hLate
  refine congrArg Host.Outcome.next (if_pos ?_)
  cases ev with
  | false => simp only [hFn, hEnabled, hNew, hOver, Bool.true_or, Bool.not_false, Bool.and_self]
  | true => simp only [hFn, hEnabled, hNew, hOver, Bool.or_true, Bool.not_false, Bool.and_self]

/-- Settles O35. -/
theorem progressEventsComplete : Obligations.ProgressEventsComplete := by
  unfold Obligations.ProgressEventsComplete
  refine fun s => ⟨fun r i h n hRuns hMesh hNeighbour hGranted => ?mesh, fun r i h n hRuns hAgent => ?agent,
    fun r port h w hRuns hGranted hEnd => ?consumed, fun i tag t hRuns hTag hLate => ?lost, fun r port e hRuns hNew hWaits hLate => ?stall,
    fun fn ev t hFull hFn hEnabled hNew hLate => hostStall_late hFull hFn hEnabled hNew hLate, fun pcl hHalt hOn => ?watchdog,
    fun pcl hDown hFew => ⟨fun hPart => ?restartedFree, fun p hPart => ?restarted, fun d hDiffer => ?differs⟩,
    fun pair hReady => congrArg Host.Outcome.next (if_pos hReady), fun pair hFault hBarred => ?pairReady,
    fun e pair hHalt hEngine => ?engineWait, fun pair hReady => congrArg Host.Outcome.next (if_pos hReady)⟩
  case mesh =>
    have hStep := nocHeaderArrival_granted (n := n) hRuns hMesh hNeighbour hGranted
    exact ⟨fun hBad => hStep.trans (congrArg Host.Outcome.next (if_pos hBad)),
      fun hGood hRoom => hStep.trans (congrArg Host.Outcome.next ((if_neg (by simp [hGood])).trans (if_pos hRoom))),
      fun hGood hNone => hStep.trans (congrArg Host.Outcome.next ((if_neg (by simp [hGood])).trans (if_neg (by simp [hNone]))))⟩
  case agent =>
    have hStep := nocHeaderArrival_agent (r := r) (h := h) (n := n) hRuns hAgent
    exact ⟨fun hBad => hStep.trans (congrArg Host.Outcome.next (if_pos hBad)),
      fun hGood hSend hRoom => hStep.trans (congrArg Host.Outcome.next ((if_neg (by simp [hGood])).trans (if_pos (by simp [hSend, hRoom]))))⟩
  case consumed =>
    have hStep := nocPacketConsumed_granted hRuns hGranted hEnd
    exact ⟨fun hBad => hStep.trans (congrArg Host.Outcome.next (if_pos hBad)),
      fun hGood hWords => hStep.trans (congrArg Host.Outcome.next ((if_neg (by simp [hGood])).trans (if_neg (by simpa using hWords)))),
      fun hGood hWords => hStep.trans (congrArg Host.Outcome.next ((if_neg (by simp [hGood])).trans (if_pos (by rw [hWords]; rfl))))⟩
  case lost =>
    refine congrArg Host.Outcome.next ?_
    simp only [hTag]
    exact if_neg (by simp [hRuns, Nat.not_lt.mpr hLate])
  case stall =>
    have hAny : ((s.waiting r.val port.val 1).any fun e => decide (e.since + 65536 ≤ s.noc.cyc)) = true :=
      List.any_eq_true.mpr ⟨e, hWaits, decide_eq_true hLate⟩
    exact congrArg Host.Outcome.next (if_neg (by rw [hRuns, hNew, hAny]; decide))
  case watchdog => exact congrArg Host.Outcome.next (if_neg (by simp [hHalt, hOn]))
  case restartedFree =>
    refine congrArg Host.Outcome.next ((if_neg (by omega)).trans ((if_pos rfl).trans ?_))
    rw [hPart]
  case restarted =>
    refine congrArg Host.Outcome.next ((if_neg (by omega)).trans ((if_pos rfl).trans ?_))
    rw [hPart]
  case differs => exact congrArg Host.Outcome.next ((if_neg (by omega)).trans (if_neg hDiffer))
  case pairReady => exact congrArg Host.Outcome.next ((if_neg (by rw [hFault, hBarred]; decide)).trans (if_pos rfl))
  case engineWait => exact congrArg Host.Outcome.next (if_neg (by simp [hHalt, hEngine]))

end Sys2Proof.Machine

namespace Sys2Proof.Machine

/-! ### DMA elements (R257, R258) -/

/-- An element that is not the list's last ends: the next one begins. -/
theorem finishElement_next {eng : Nat} {l : DmaList} {s : State} (h : l.k + 1 < l.elems.length) :
    finishElement eng l s = setHead eng { l with k := l.k + 1, done := 0, losses := 0, joined := [] } s :=
  if_pos h

/-- A submitted list's element that has moved, and waits for no line of the merge buffer, ends. -/
theorem runElement_ends {eng : Nat} {l : DmaList} {data : List Byte} {e : DmaElem} {s t : State} (hElem : l.elems[l.k]? = some e)
    (hOpen : l.joined = []) (hMove : moveElem (s.listAccess l) e data s = (none, t)) (hNone : t.joinedLines (s.listAccess l) e = []) :
    runElement eng l data s = finishElement eng l t := by
  unfold runElement
  simp only [hElem]
  refine (if_neg (not_not_intro hOpen)).trans ?_
  simp only [hMove, hNone]

/-- One that has joined lines in the merge buffer waits for them. -/
theorem runElement_waits {eng : Nat} {l : DmaList} {data : List Byte} {e : DmaElem} {s t : State} (hElem : l.elems[l.k]? = some e)
    (hOpen : l.joined = []) (hMove : moveElem (s.listAccess l) e data s = (none, t)) (hSome : t.joinedLines (s.listAccess l) e ≠ []) :
    runElement eng l data s = setHead eng { l with joined := t.joinedLines (s.listAccess l) e } t := by
  unfold runElement
  simp only [hElem]
  refine (if_neg (not_not_intro hOpen)).trans ?_
  rw [hMove]
  dsimp only
  split
  next hNil => exact absurd hNil hSome
  next => rfl

/-- The element in progress of an engine that runs ends. -/
theorem dmaElementComplete_running {eng : Fin 16} {data : List Byte} {l : DmaList} {r : List DmaList} {s : State}
    (hList : s.lists eng.val = l :: r) (hRuns : l.suspended = false) (hHalt : s.clk.halt = none) :
    execDmaElementComplete eng data s = .next (elementDone eng.val l data s) := by
  refine congrArg Host.Outcome.next ?_
  rw [hList]
  exact if_neg (by simp [hRuns, hHalt])

/-- What the element of a submitted list does. -/
theorem elementDone_list {eng : Nat} {l : DmaList} {data : List Byte} {s : State} (h : l.kind = .list) :
    elementDone eng l data s = runElement eng l data s := by
  unfold elementDone
  rw [h]

/-! ### Keys (R271, R276, R278, R280) -/

/-- A flushed slot is zeroised, its bindings end, and its command completes. -/
theorem keyFlushComplete_drained {kix : Fin 64} {s : State} (hFlushing : (s.slot kix.val).st = .flushing) (hDrained : s.slotInUse kix.val = false) :
    execKeyFlushComplete kix s = .next (completeOpt (s.slot kix.val).ctx St.ok [] (postEvent St.keyRetired 0x9 0xFF none []
      (let t := s.setSlot kix.val {}
       (List.range 16).foldl (fun a j => match a.binding j with
         | some b => if b.kix = kix.val then a.setBinding j none else a
         | none => a) { t with keys := { t.keys with heirs := s.keys.heirs.filter fun h => decide (h.2.1 ≠ kix.val) } }))) :=
  congrArg Host.Outcome.next ((if_neg (by simp [hFlushing, hDrained])).trans rfl)

/-- The sweep visits the line at its watermark. -/
theorem sweepLineVisit_next {jsid : Fin 16} {b : Binding} {k mark : Nat} {ctx : Option CmdCtx} {a line : Nat} {s : State}
    (hBinding : s.binding jsid.val = some b) (hRot : b.rot = some (k, mark, ctx)) (hMoves : s.movesPaused = false)
    (hNext : s.nextSweep jsid.val mark = some (a, line)) :
    execSweepLineVisit jsid s = .next (setProgress 9 jsid.val (a + 64)
      ((sweepLine jsid.val line a b.kix k s).setBinding jsid.val (some { b with rot := some (k, a + 64, ctx) }))) := by
  refine congrArg Host.Outcome.next ?_
  simp only [hBinding, hRot, hMoves, hNext]
  rfl

/-- Settles O36. -/
theorem dmaKeyEventsComplete : Obligations.DmaKeyEventsComplete := by
  unfold Obligations.DmaKeyEventsComplete
  refine fun s => ⟨fun eng data l r hList hRuns hHalt => dmaElementComplete_running hList hRuns hHalt,
    fun eng data l r e t hList hRuns hHalt hKind hElem hMore hOpen hMove => ⟨fun hNone => ?ends, fun hSome => ?waits⟩,
    fun eng data hostError l r hList hRuns hHalt => ?fault, fun eng l r hList hRuns hKind => ?timeout,
    fun kix key c hShadow => ?loaded, fun kix hFlushing hDrained => keyFlushComplete_drained hFlushing hDrained,
    fun jsid b k mark ctx a line hBinding hRot hMoves hNext => sweepLineVisit_next hBinding hRot hMoves hNext,
    fun jsid b k mark ctx hBinding hRot hNext => ?rotated⟩
  case ends =>
    exact (dmaElementComplete_running hList hRuns hHalt).trans (congrArg Host.Outcome.next
      ((elementDone_list hKind).trans ((runElement_ends hElem hOpen hMove hNone).trans (finishElement_next hMore))))
  case waits =>
    exact (dmaElementComplete_running hList hRuns hHalt).trans (congrArg Host.Outcome.next
      ((elementDone_list hKind).trans (runElement_waits hElem hOpen hMove hSome)))
  case fault =>
    refine congrArg Host.Outcome.next ?_
    rw [hList]
    exact if_neg (by simp [hRuns, hHalt])
  case timeout =>
    refine congrArg Host.Outcome.next ?_
    rw [hList]
    exact if_neg (by simp [hRuns, hKind])
  case loaded =>
    refine congrArg Host.Outcome.next ?_
    rw [hShadow]
  case rotated =>
    refine congrArg Host.Outcome.next ?_
    simp only [hBinding, Option.bind_some, hRot, hNext]
    rfl

end Sys2Proof.Machine

namespace Sys2Proof.Machine

/-! ### Maquette and Cast events (R102, R165, R195, R261 to R263, R460, R461) -/

/-- A load whose partition has settled and whose image is read whole is checked and written. -/
theorem loadComplete_read {part : Fin 4} {e : Nat} {l : DmaList} {r : List DmaList} {b : List Byte} {s t : State}
    (hEngine : s.engineOf (.load part.val) = some e) (hList : s.lists e = l :: r) (hLoading : (s.part part.val).st = .loading)
    (hSettled : s.settled part.val = true) (hKind : l.kind = .load part.val) (hRuns : l.suspended = false) (hHalt : s.clk.halt = none)
    (hRead : readJob (s.listAccess l) (s.part part.val).laddr (s.part part.val).llen s = (b, none, t)) :
    execLoadComplete part s = .next
      (let s2 := loadImage part.val b (dropHead e t)
       if (s2.part part.val).st = .loaded then switchLoaded part.val s2 else s2) := by
  refine congrArg Host.Outcome.next ?_
  rw [hEngine]
  dsimp only
  rw [hList]
  refine (if_neg (by simp [hLoading, hSettled, hKind, hRuns, hHalt])).trans ?_
  rw [hRead]

/-- A copy that reads back right makes the migration's change ready. -/
theorem migrateCopyComplete_ok {die : Fin 4} {g : Migration} {s : State} (hMigr : s.migration die.val = some g) (hNew : g.copied = false)
    (hHere : g.switched = false) :
    execMigrateCopyComplete die true s = .next (changeReady g.part 0x0404 die.val
      ((copyFromImage g.part g s).setMigration die.val (some { g with copied := true }))) := by
  refine congrArg Host.Outcome.next ?_
  rw [hMigr]
  exact (if_neg (by simp [hNew, hHere])).trans (if_pos rfl)

/-- A record of a restore that is read whole is compared, and restored where it fits. -/
theorem restoreComplete_read {part : Fin 4} {e : Nat} {l : DmaList} {r : List DmaList} {el : DmaElem} {b : List Byte} {s t : State}
    (hEngine : s.engineOf (.restore part.val) = some e) (hList : s.lists e = l :: r) (hKind : l.kind = .restore part.val)
    (hRuns : l.suspended = false) (hHalt : s.clk.halt = none) (hElems : l.elems = [el])
    (hRead : readJob (s.listAccess l) el.src.toNat el.len.toNat s = (b, none, t)) :
    execRestoreComplete part s = .next
      (let s2 := dropHead e t
       if castMismatch b (s2.part part.val) s2 then endRestore part.val St.castMismatch s2
       else endRestore part.val St.ok (applyRestore part.val b s2)) := by
  refine congrArg Host.Outcome.next ?_
  rw [hEngine]
  dsimp only
  rw [hList]
  refine (if_neg (by simp [hKind, hRuns, hHalt])).trans ?_
  simp only [hElems, List.headD_cons, hRead]

/-- Settles O37. -/
theorem maquetteEventsComplete : Obligations.MaquetteEventsComplete := by
  unfold Obligations.MaquetteEventsComplete
  intro part s
  dsimp only
  refine ⟨fun e l r b t hEngine hList hLoading hSettled hKind hRuns hHalt hRead =>
      loadComplete_read hEngine hList hLoading hSettled hKind hRuns hHalt hRead,
    fun die g hMigr hNew hHere => migrateCopyComplete_ok hMigr hNew hHere,
    fun region r im hFind hImage => ⟨fun hReread => ⟨?badRegion, ?region⟩, fun ok hReread hUnread => ?reread⟩,
    fun w hSwitch hPhase hRun hPaused hAt => ?paused, fun w hSwitch hPhase hLoaded => ?restoring, fun w hSwitch hPhase hStart => ?started,
    fun a hCast hTrig hIdle hPlaced hHalt hFrame hPaused hSettled => ?capture,
    fun a hCast hTrig hIdle hRun hPhase hStep hEdge => ?edge, fun a r hCast hShadow hCapturing hHalt => ?captured,
    fun e l r el b t hEngine hList hKind hRuns hHalt hElems hRead => restoreComplete_read hEngine hList hKind hRuns hHalt hElems hRead⟩
  case badRegion =>
    obtain ⟨v, hv⟩ := Option.isSome_iff_exists.mp hReread
    refine congrArg Host.Outcome.next ?_
    simp only [hFind, hImage, hv]
    rfl
  case region =>
    obtain ⟨v, hv⟩ := Option.isSome_iff_exists.mp hReread
    refine congrArg Host.Outcome.next ?_
    simp only [hFind, hImage, hv]
    rfl
  case reread =>
    refine congrArg Host.Outcome.next ?_
    simp only [hFind, hImage, hReread]
    exact if_pos hUnread
  case paused =>
    refine congrArg Host.Outcome.next ?_
    simp only [hSwitch, hPhase]
    exact if_pos (by simp [hRun, hPaused, hAt])
  case restoring =>
    refine congrArg Host.Outcome.next ?_
    simp only [hSwitch, hPhase]
    exact if_pos hLoaded
  case started =>
    refine congrArg Host.Outcome.next ?_
    simp only [hSwitch, hPhase]
    exact if_pos hStart
  case capture =>
    refine congrArg Host.Outcome.next ?_
    split
    next hNone => cases hNone.symm.trans hCast
    next c hGiven =>
      cases hGiven.symm.trans hCast
      exact (if_neg (by simp [hTrig, hIdle, hPlaced, hHalt])).trans ((if_neg (by simp [hFrame])).trans (if_pos ⟨hPaused, hSettled⟩))
  case edge =>
    refine congrArg Host.Outcome.next ?_
    split
    next hNone => cases hNone.symm.trans hCast
    next c hGiven =>
      cases hGiven.symm.trans hCast
      exact (if_neg (by simp [hTrig, hIdle])).trans ((if_neg (not_or_intro (not_not_intro hRun) hPhase)).trans (if_pos ⟨hStep, hEdge⟩))
  case captured =>
    refine congrArg Host.Outcome.next ?_
    split
    next c q hGiven hRec =>
      cases hGiven.symm.trans hCast
      cases hRec.symm.trans hShadow
      exact if_neg (by simp [hCapturing, hHalt])
    next hOther => exact absurd hShadow (hOther a r hCast)

/-! ### Reliability and fabric events (R67, R178, R192, R420, R424, R425, R427, R434, R445) -/

/-- What a group's slot does for the group itself: the engine takes its turn where the partition leaves the group free. -/
def raspGroup (pcl grp : Nat) (s : State) : State :=
  if s.freeFor (s.partOf pcl) (·.evalLen) then raspTurn (pcl * 16 + grp) 512 (raspWords pcl grp) s
  else if s.partOf pcl = none then raspGone (pcl * 16 + grp) s else s

/-- The slice that a group's slot serves issues no context in its quarter step. -/
def State.sliceFree (s : State) (n : Nat) : Bool :=
  match s.partOfDie (n / 288) with
  | some q => !(s.frameRuns q && decide (s.relStep q % 4 = 0) && s.scheduled n)
  | none => false

/-- The slot of a group above 0 serves the group, and the slice of its number below 12 where that is free. -/
theorem raspSlot_group {pcl : Fin 96} {grp : Fin 16} {s : State} (hOn : s.raspOn = true) (hGrp : 0 < grp.val) :
    execRaspSlot pcl grp s = .next
      (if grp.val < 12 ∧ s.sliceFree (12 * pcl.val + grp.val) = true then
        raspTurn (3000 + (12 * pcl.val + grp.val)) 512 (fun j => raspRange uopCode ((12 * pcl.val + grp.val) * 1024 + j) 1)
          (raspGroup pcl.val grp.val s)
       else raspGroup pcl.val grp.val s) := by
  have hNone : grp.val ≠ 0 := by omega
  refine congrArg Host.Outcome.next ((if_neg (by simp [hOn])).trans ?_)
  simp only [hNone, false_and, and_false, if_false, raspGroup]
  unfold State.sliceFree
  cases s.partOfDie ((12 * pcl.val + grp.val) / 288) with
  | none => rfl
  | some q => rfl

/-- The configuration monitor does not pass over a configured region of a running fabric. -/
theorem monitor_reads {region : Nat} {s : State} (hConfigured : s.fab.configured.getLsbD region = true)
    (hRuns : s.fab.stopped.getLsbD region = false) (hStep : s.stepping = true) :
    ¬ ((!s.fab.configured.getLsbD region) = true ∨ s.fab.stopped.getLsbD region = true ∨ (!s.stepping) = true) := by
  simp only [hConfigured, hRuns, hStep]
  decide

/-- A recovery that reads the image whole rewrites what is lost from it, or escalates. -/
theorem recoveryReadback_read {part : Fin 4} {code key stage : Nat} {b : List Byte} {s t : State} (ok : Bool)
    (hNext : s.nextRecovery part.val = some (code, key, stage)) (hCode : code ≠ thrRegCode) (hStage : stage ≠ 3)
    (hPart : (s.part part.val).st ≠ .empty) (hFree : s.freeStore part.val code key = true)
    (hRead : readJob (s.access (s.part part.val).jsid dmaMaster) (s.part part.val).laddr (s.part part.val).llen s = (b, none, t)) :
    execRecoveryReadback part ok s = .next
      (if ok then endRecovery part.val code key (rewriteFrom part.val b code (if stage = 1 then (key, 1) else rowSpan code key).1
        (if stage = 1 then (key, 1) else rowSpan code key).2 t) else escalate part.val code key stage t) := by
  refine congrArg Host.Outcome.next ?_
  simp only [hNext]
  refine (if_neg hCode).trans ((if_neg (by simp [hStage, hPart, hFree])).trans ?_)
  simp only [hRead]

/-- Where a relocation finds a spare it begins, and where it finds none it is reported. -/
theorem recoveryRelocation_held {part : Fin 4} {code key pt src l : Nat} {k : FrameNo} {tv : Nat} {s : State}
    (hFind : (s.arr.recovery.find? fun r => decide (r.2.2.2 = part.val) && decide (r.2.2.1 = 3)) = some (code, key, 3, pt))
    (hHeld : (s.part part.val).heldFrame = some (k, tv)) (hCluster : clusterOfKey code key = some src)
    (hLcl : (s.part part.val).lclOf src = some l) :
    (relocTarget part.val (src / 24) s = none →
      execRecoveryRelocation part s = .next (partEvent St.migrateFailed 0x2 part.val (migrateFailedData l 0xFF St.noSpare)
        (setRecovery part.val code key 4 s))) ∧
    (∀ g u, relocTarget part.val (src / 24) s = some (g, u) → s.migration (src / 24) = none →
      execRecoveryRelocation part s = .next (relocate part.val src l g u k s)) := by
  refine ⟨fun hNone => congrArg Host.Outcome.next ?_, fun g u hSome hIdle => congrArg Host.Outcome.next ?_⟩
  · simp only [hFind, hHeld, hCluster, hLcl, hNone]
  · simp only [hFind, hHeld, hCluster, hLcl, hSome, hIdle]

/-- The seconds of the bin that a reading falls in go up by one. -/
def countLife (reading : Nat) (s : State) : State :=
  { s with pwr := { s.pwr with bins := (List.range 6).map fun j => s.binSecs j + bitNat (decide (j = lifeBin reading)) } }

/-- A sample of the lifetime is counted, and the end of the lifetime reported once. -/
theorem lifeBinSample_eq (reading : Nat) (s : State) :
    execLifeBinSample reading s = .next
      (if 900000 ≤ (countLife reading s).lifeUsed ∧ (!(countLife reading s).pwr.lifeDone) = true then
        logRec { cause := St.unitCandidate, sub := 0xF, sev := 5, loc := 0 }
          { countLife reading s with pwr := { (countLife reading s).pwr with lifeDone := true } }
       else countLife reading s) :=
  rfl

/-- Settles O38. -/
theorem reliabilityEventsComplete : Obligations.ReliabilityEventsComplete := by
  unfold Obligations.ReliabilityEventsComplete
  refine fun s => ⟨fun pcl grp hOn hGrp hFree => ?high, fun region hConfigured hRuns hStep hErr => ?clean,
    fun pcl grp hOn hGrp hLow => ⟨fun hNoPart => ?noPart, fun q hPart => ⟨fun hIssues => ?issues, fun hFree => ?slice⟩⟩,
    fun region hConfigured hRuns hStep hErr => ?fixed, fun region hConfigured hRuns hStep hErr => ?lost,
    fun part code key stage b t hNext hCode hStage hPart hFree hRead =>
      ⟨recoveryReadback_read true hNext hCode hStage hPart hFree hRead, recoveryReadback_read false hNext hCode hStage hPart hFree hRead⟩,
    fun part code key pt src l k tv hFind hHeld hCluster hLcl => recoveryRelocation_held hFind hHeld hCluster hLcl,
    fun image ok c total st hVerify hStatus => ?refused, fun image ok c total hVerify hStatus => ?staged,
    fun gen pins p hPart hRises => ?edge, fun reading => ⟨fun hGoesOn => ?counted, fun hUsed hNew => ?worn⟩, rfl⟩
  case high =>
    refine (raspSlot_group hOn (by omega)).trans (congrArg Host.Outcome.next ((if_neg (by omega)).trans ?_))
    exact if_pos hFree
  case clean =>
    exact congrArg Host.Outcome.next ((if_neg (monitor_reads hConfigured hRuns hStep)).trans
      ((if_neg (by rw [hErr]; decide)).trans (if_neg (by rw [hErr]; decide))))
  case noPart =>
    refine (raspSlot_group hOn hGrp).trans (congrArg Host.Outcome.next (if_neg ?_))
    simp only [State.sliceFree, show s.partOfDie ((12 * pcl.val + grp.val) / 288) = none from hNoPart]
    exact fun h => Bool.false_ne_true h.2
  case issues =>
    refine (raspSlot_group hOn hGrp).trans (congrArg Host.Outcome.next (if_neg ?_))
    simp only [State.sliceFree, show s.partOfDie ((12 * pcl.val + grp.val) / 288) = some q from hPart]
    rw [hIssues]
    exact fun h => Bool.false_ne_true h.2
  case slice =>
    refine (raspSlot_group hOn hGrp).trans (congrArg Host.Outcome.next (if_pos ⟨hLow, ?_⟩))
    simp only [State.sliceFree, show s.partOfDie ((12 * pcl.val + grp.val) / 288) = some q from hPart]
    rw [hFree]
    rfl
  case fixed => exact congrArg Host.Outcome.next ((if_neg (monitor_reads hConfigured hRuns hStep)).trans (if_pos hErr))
  case lost =>
    exact congrArg Host.Outcome.next ((if_neg (monitor_reads hConfigured hRuns hStep)).trans
      ((if_neg (by rw [hErr]; decide)).trans (if_pos hErr)))
  case refused =>
    refine congrArg Host.Outcome.next ?_
    simp only [hVerify, hStatus]
  case staged =>
    refine congrArg Host.Outcome.next ?_
    simp only [hVerify, hStatus]
  case edge =>
    refine congrArg Host.Outcome.next ?_
    simp only [hPart]
    exact if_pos hRises
  case counted =>
    refine (lifeBinSample_eq reading s).trans (congrArg Host.Outcome.next (if_neg fun h => ?_))
    refine hGoesOn.elim (fun hLow => Nat.not_lt.mpr h.1 hLow) fun hDone => ?_
    rw [show (countLife reading s).pwr.lifeDone = true from hDone] at h
    exact Bool.false_ne_true h.2
  case worn =>
    refine (lifeBinSample_eq reading s).trans (congrArg Host.Outcome.next (if_pos ⟨hUsed, ?_⟩))
    rw [show (countLife reading s).pwr.lifeDone = false from hNew]
    rfl

end Sys2Proof.Machine
